-- ==== Sys2Proof/Word.lean ====
section
/-! DEFINITION. The word types of the part: bytes, 64-bit words and 256-bit beats, and the keyed lists that State
uses for sparse data. -/

namespace Sys2Proof

/-- A byte of memory. -/
abbrev Byte := BitVec 8

/-- A 64-bit word: the data of a token, a register, a control register. -/
abbrev Word := BitVec 64

/-- The data lines of a tile link (R53): a 64-bit token occupies the low 64 bits, a beat all 256. -/
abbrev Beat := BitVec 256

/-- A physical or virtual address after it has been formed. -/
abbrev Addr := Nat

/-- A count of ticks of the time base or of cycles of a clock. -/
abbrev Tick := Nat

/-- Sparse data under a number: entries in ascending order of their key, none twice. -/
abbrev KMap (α : Type) := List (Nat × α)

end Sys2Proof
end

