-- ==== Sys2Proof/Machine/Flags.lean ====
section
/-! DEFINITION. The flag word $fpflags (R106, Table 5.4) and the conditions that set its bits. -/

namespace Sys2Proof.Machine

/-- The six flags of Table 5.4: NV in bit 0, DZ, OF, UF, NX, SAT in bit 5. -/
abbrev FpFlags := BitVec 6

/-- [0] an invalid operation or a signalling NaN. -/
def fNV : FpFlags := 1
/-- [1] a pole. -/
def fDZ : FpFlags := 2
/-- [2] a rounding overflow. -/
def fOF : FpFlags := 4
/-- [3] a result tiny after rounding and inexact. -/
def fUF : FpFlags := 8
/-- [4] an inexact rounding. -/
def fNX : FpFlags := 16
/-- [5] a lane or conversion clamped. -/
def fSAT : FpFlags := 32

/-- A flag under a condition. -/
def flagIf (f : FpFlags) (c : Bool) : FpFlags := if c then f else 0

/-- The flags of several results together. -/
def orFlags (l : List FpFlags) : FpFlags := l.foldl (fun a f => a ||| f) 0

/-- The flag word after a commit (R107): what was read for clearing goes, what is pending comes. -/
def commitFlags (old cleared pend : FpFlags) : FpFlags := (old &&& ~~~cleared) ||| pend

end Sys2Proof.Machine
end

