-- ==== Sys2Proof/Syntax.lean ====
section
/-! DEFINITION. The syntax of the part's steps: one constructor of Instr for every row of spec/opcode_table.json. Rows 0 to
123 are firings of a slot and carry the fields of the instruction word and the literal (R74 to R82); the rows after them
are steps of the other agents and carry what names the thing they act on. -/

namespace Sys2Proof

/-- Source selects (Table 4.2); code 15 is reserved. -/
inductive Src
  | n0 | n1 | e0 | e1 | s0 | s1 | w0 | w1 | q0 | q1 | q2 | q3 | lit | zero | none
  deriving DecidableEq, Repr

/-- Destination selects (Table 4.3); codes 16 to 31 are reserved. -/
inductive Dst
  | discard | n0 | n1 | e0 | e1 | s0 | s1 | w0 | w1 | q0 | q1 | q2 | q3 | dlr | row | col
  deriving DecidableEq, Repr

/-- Tag actions (Table 3.2); code 15 is reserved. -/
inductive TagAction
  | plain | sticka | stickb | purge | isect | unary | itinc | itclr | head | tail | whole | preda | xthr | first | dropf
  deriving DecidableEq, Repr

/-- Format tags of a token (Table 4.4). -/
inductive Fmt
  | int | f32 | bf16 | e4m3 | e5m2 | q4 | a36 | addr
  deriving DecidableEq, Repr

/-- Lane widths of the integer class (R77). -/
inductive Lane
  | w64 | w32 | w16 | w8
  deriving DecidableEq, Repr

/-- Access sizes of 8, 4, 2 and 1 bytes (MD 0 to 3 of the memory instructions). -/
inductive Size
  | s8 | s4 | s2 | s1
  deriving DecidableEq, Repr

/-- Rounding codes of the float control (R79); codes 5 to 7 are reserved. -/
inductive Rnd
  | rn | rz | rp | rm | rs
  deriving DecidableEq, Repr

/-- The float control of R79: literal bits 2 to 0 and bit 3. -/
structure FloatCtl where
  rnd : Rnd
  sat : Bool
  deriving DecidableEq, Repr

/-- Element formats of the floating-point class (R77): MD 0 and 1. -/
inductive FElem
  | f32 | bf16
  deriving DecidableEq, Repr

/-- Element formats of FSUM and FDOT (R324, R325): MD 0 to 3. -/
inductive FElem4
  | f32 | bf16 | e4m3 | e5m2
  deriving DecidableEq, Repr

/-- Operand formats of FCLASS (R323): MD 0 to 2. -/
inductive FClassElem
  | f32 | bf16 | a36
  deriving DecidableEq, Repr

/-- Result formats of LIN, LINX and LINT (R344): MD 0 to 2. -/
inductive LinFmt
  | int | f32 | bf16
  deriving DecidableEq, Repr

/-- Kinds of constant of LIT (R336): MD 0 to 3. -/
inductive LitKind
  | i64 | n64 | f32 | bf16
  deriving DecidableEq, Repr

/-- Conditions of CMP and FCMP (R293, R322). -/
inductive Cond
  | eq | ne | lt | le
  deriving DecidableEq, Repr

/-- Scope codes of the memory literal (R78, R151); codes 5 to 7 are reserved. -/
inductive Scope
  | team | cluster | node | device | system
  deriving DecidableEq, Repr

/-- The ordering field of an atomic (R156): plain, acquire or release. -/
inductive Ord3
  | plain | acq | rel
  deriving DecidableEq, Repr

/-- Operations of ATOM (Table 15.5); codes 10 to 15 are reserved. -/
inductive AtomOp
  | add | and | or | xor | smin | smax | umin | umax | xchg | fadd
  deriving DecidableEq, Repr

/-- The data of a line on CXL, with its poison bit (R260). -/
structure LineData where
  bits : BitVec 512
  poisoned : Bool := false
  deriving DecidableEq, Repr

/-- What an access of the domain does at the home of its line (R259): a read, a write of the bytes that mask names, or an
atomic on a unit at an offset of the line, ATOM with its operand or CAS with the value expected and the new one. -/
inductive RemoteKind
  | read
  | write (mask : BitVec 64)
  | atom (off : Nat) (n : Size) (op : AtomOp) (v : Word)
  | cas (off : Nat) (n : Size) (expect new : Word)
  deriving DecidableEq, Repr

/-- Levels of PREF (R369). -/
inductive PrefLevel
  | l1 | l2 | own
  deriving DecidableEq, Repr

/-- Kinds of FENCE (R161). -/
inductive FenceKind
  | full | acq | rel
  deriving DecidableEq, Repr

/-- Operations of RED and SCAN (Table 17.3); codes 9 to 15 are reserved. -/
inductive RedOp
  | iadd | imin | imax | and | or | xor | fadd | fmin | fmax
  deriving DecidableEq, Repr

/-- Modes of BKT (R300). -/
inductive BktMode
  | index | onehot16 | onehot8
  deriving DecidableEq, Repr

/-- Scopes of CFGINV (R305). -/
inductive InvScope
  | core | die | device
  deriving DecidableEq, Repr

/-- Sides that PURGE names (R356). -/
inductive PurgeSide
  | a | b | both
  deriving DecidableEq, Repr

/-- Output formats of ACCDR (R126). -/
inductive AccOut
  | a36 | f32 | int
  deriving DecidableEq, Repr

/-- Fold operations of a recruitment (R225). -/
inductive FoldOp
  | iadd | fadd | fmin | fmax
  deriving DecidableEq, Repr

/-- Repair kinds of TRPREP (Table 17.5). -/
inductive RepairKind
  | reg | drop | insert | emit
  deriving DecidableEq, Repr

/-- Special registers of SREG (Table 2.2). -/
inductive SReg
  | tid | lane | hand | team | teamhi | cluster | core | die | node | time | hidx | rcr | block | fpflags | fault
  deriving DecidableEq, Repr

/-- The routing fields of a slot with two operand selects: SA, SB, D0, D1 and the tag action. -/
structure Route where
  sa : Src
  sb : Src
  d0 : Dst
  d1 : Dst
  ta : TagAction
  deriving DecidableEq, Repr

/-- The routing fields of a slot whose SB and tag action the opcode fixes. -/
structure Route1 where
  sa : Src
  d0 : Dst
  d1 : Dst
  deriving DecidableEq, Repr

/-- The routing fields of a slot with two operand selects whose tag action the opcode fixes. -/
structure Route2 where
  sa : Src
  sb : Src
  d0 : Dst
  d1 : Dst
  deriving DecidableEq, Repr

/-- The literal of the integer role without bits 30 and 29 (Table 4.5): S and the LIT value. -/
structure IntLit where
  signed : Bool
  val : BitVec 29
  deriving DecidableEq, Repr

/-- Bits 21 and 17 to 0 of the memory and LVS literals: W and the wave numbers. -/
structure Wave where
  waved : Bool
  succ : BitVec 6
  pred : BitVec 6
  own : BitVec 6
  deriving DecidableEq, Repr

/-- Bits 21 to 0 of the memory literal: W, the scope and the wave numbers. -/
structure MemCtl where
  wave : Wave
  scope : Scope
  deriving DecidableEq, Repr

/-- The literal of the live-value store (Table 7.2). -/
structure LvsLit where
  reg : BitVec 7
  wave : Wave
  deriving DecidableEq, Repr

/-- The literal of the conversions (Table 15.8). -/
structure CvtLit where
  signed : Bool
  lw : Lane
  dst : Fmt
  src : Fmt
  part : BitVec 3
  ctl : FloatCtl
  deriving DecidableEq, Repr

/-- The literal of RED and SCAN (Table 17.3). -/
structure RedLit where
  signed : Bool
  op : RedOp
  ctl : FloatCtl
  deriving DecidableEq, Repr

/-- The steps of the part, one constructor for each row of the opcode table; those that carry nothing stand last. -/
inductive Instr
  -- routing
  | nop (sa sb : Src) (ta : TagAction)
  | mov (r : Route)
  | lit (r : Route1) (kind : LitKind) (v : BitVec 32)
  | sel (r : Route)
  | gate (r : Route) (sense : Bool)
  | steer (r : Route) (sense : Bool)
  | purge (r : Route1) (side : PurgeSide) (slot : BitVec 5)
  | pack (r : Route) (w : Lane) (signed sat : Bool)
  | fmts (r : Route1) (f : Fmt)
  -- live-value store
  | lin (r : Route1) (f : LinFmt) (l : LvsLit)
  | linx (r : Route1) (f : LinFmt) (l : LvsLit)
  | lint (r : Route1) (f : LinFmt) (l : LvsLit)
  | lout (r : Route1) (l : LvsLit)
  | loutx (r : Route) (l : LvsLit)
  | sreg (r : Route1) (clear : Bool) (sel : SReg)
  -- integer
  | add (r : Route) (w : Lane) (l : IntLit)
  | sub (r : Route) (w : Lane) (l : IntLit)
  | mul (r : Route) (w : Lane) (l : IntLit)
  | mulh (r : Route) (w : Lane) (l : IntLit)
  | mad (r : Route) (w : Lane) (q : BitVec 2)
  | min (r : Route) (w : Lane) (l : IntLit)
  | max (r : Route) (w : Lane) (l : IntLit)
  | abs (r : Route1) (w : Lane) (signed : Bool)
  | and (r : Route) (w : Lane) (l : IntLit)
  | or (r : Route) (w : Lane) (l : IntLit)
  | xor (r : Route) (w : Lane) (l : IntLit)
  | andn (r : Route) (w : Lane) (l : IntLit)
  | shl (r : Route) (w : Lane) (l : IntLit)
  | shr (r : Route) (w : Lane) (l : IntLit)
  | sar (r : Route) (w : Lane) (l : IntLit)
  | rotl (r : Route) (w : Lane) (l : IntLit)
  | popc (r : Route1) (w : Lane) (signed : Bool)
  | clz (r : Route1) (w : Lane) (signed : Bool)
  | ctz (r : Route1) (w : Lane) (signed : Bool)
  | brev (r : Route1) (w : Lane) (signed : Bool)
  | bfx (r : Route) (w : Lane) (l : IntLit)
  | bfi (r : Route) (w : Lane) (q : BitVec 2)
  | cmp (r : Route) (w : Lane) (c : Cond) (l : IntLit)
  | lea (r : Route) (l : IntLit)
  | adds (r : Route) (w : Lane) (l : IntLit)
  | subs (r : Route) (w : Lane) (l : IntLit)
  -- floating point
  | fadd (r : Route) (f : FElem) (c : FloatCtl)
  | fsub (r : Route) (f : FElem) (c : FloatCtl)
  | fmul (r : Route) (f : FElem) (c : FloatCtl)
  | ffma (r : Route) (f : FElem) (q : BitVec 2)
  | fmin (r : Route) (f : FElem)
  | fmax (r : Route) (f : FElem)
  | fabs (r : Route1) (f : FElem)
  | fneg (r : Route1) (f : FElem)
  | fcmp (r : Route) (f : FElem) (c : Cond)
  | fclass (r : Route1) (f : FClassElem)
  | frcp (r : Route1) (f : FElem) (c : FloatCtl)
  | frsq (r : Route1) (f : FElem) (c : FloatCtl)
  | fsqrt (r : Route1) (f : FElem) (c : FloatCtl)
  | fexp2 (r : Route1) (f : FElem) (c : FloatCtl)
  | flog2 (r : Route1) (f : FElem) (c : FloatCtl)
  | fsin (r : Route1) (f : FElem) (c : FloatCtl)
  | fcos (r : Route1) (f : FElem) (c : FloatCtl)
  | ftanh (r : Route1) (f : FElem) (c : FloatCtl)
  | fscale (r : Route) (f : FElem) (c : FloatCtl)
  | fdot (r : Route) (f : FElem4) (c : FloatCtl)
  | fsum (r : Route) (f : FElem4) (c : FloatCtl)
  | cvt (r : Route) (l : CvtLit)
  | cvti (r : Route) (l : CvtLit)
  | cvtf (r : Route) (l : CvtLit)
  | qpack (r : Route1) (f : FElem) (type : BitVec 2) (rnd : Rnd)
  | qunpk (r : Route1) (f : FElem) (n : BitVec 2) (j0 : BitVec 4)
  -- memory
  | ld (r : Route) (n : Size) (rfmt : Fmt) (sext acq : Bool) (m : MemCtl)
  | st (r : Route) (n : Size) (rel : Bool) (m : MemCtl)
  | ldb (r : Route) (nb : BitVec 4) (split acq : Bool) (m : MemCtl)
  | stb (r : Route2) (ds : BitVec 3) (split rel : Bool) (m : MemCtl)
  | ldf (r : Route) (n : Size) (tmo : BitVec 4) (rfmt : Fmt) (sext acq : Bool) (m : MemCtl)
  | stf (r : Route) (n : Size) (rel : Bool) (m : MemCtl)
  | sete (r : Route) (n : Size) (rel : Bool) (m : MemCtl)
  | pref (r : Route) (level : PrefLevel) (m : MemCtl)
  | atom (r : Route) (n : Size) (aop : AtomOp) (ord : Ord3) (m : MemCtl)
  | cas (r : Route) (n : Size) (q : BitVec 2) (ord : Ord3) (m : MemCtl)
  | ll (r : Route) (n : Size) (rfmt : Fmt) (sext acq : Bool) (m : MemCtl)
  | sc (r : Route) (n : Size) (rel : Bool) (m : MemCtl)
  | fence (r : Route) (kind : FenceKind) (scope : Scope)
  | clrp (r : Route) (copy rel : Bool) (m : MemCtl)
  | copy (r : Route1) (m : MemCtl)
  | waitt (sa : Src) (d0 : Dst) (reg : BitVec 7)
  | lds (r : Route) (rfmt : Fmt) (acq : Bool) (m : MemCtl)
  | sts (r : Route2) (rel : Bool) (m : MemCtl)
  -- control
  | br (sa sb : Src) (tblk fblk : BitVec 8)
  | jmp (sa : Src) (blk : BitVec 8)
  | jmpi (sa : Src)
  | exit (sa : Src)
  | bar (r : Route1) (n : BitVec 5)
  | bara (r : Route1) (n : BitVec 5)
  | barw (r : Route1) (n : BitVec 5)
  | yield (r : Route1)
  | sleep (r : Route1) (abs : Bool)
  | recruit (r : Route2) (reg : BitVec 7) (fop : FoldOp) (hblk : BitVec 8)
  | hjoin (r : Route1) (mreg : BitVec 7)
  | hred (r : Route1) (float : Bool)
  | hend (r : Route1)
  | waitly (r : Route1)
  | lyrel (r : Route1)
  | trap (sa : Src) (code : BitVec 16)
  | trprep (sa sb : Src) (ta : TagAction) (kind : RepairKind)
  | trret (r : Route1) (action : BitVec 4) (blk : BitVec 8)
  | bkpt (sa : Src) (code : BitVec 16)
  -- matrix
  | mma (sa sb : Src) (mode : BitVec 2) (sub : BitVec 2)
  | mmarm (r : Route1) (clr : Bool) (ncol : BitVec 4) (wrows rowbase : BitVec 8)
  | accrd (r : Route1)
  | accclr (r : Route1) (clrf : Bool) (nrow : BitVec 8)
  | accdr (r : Route) (out : AccOut) (r3 r2 : Dst)
  -- reductions and keys
  | red (r : Route) (md : BitVec 2) (l : RedLit)
  | scan (r : Route) (md : BitVec 2) (l : RedLit)
  | bkt (r : Route2) (mode : BktMode) (signed : Bool) (ns : BitVec 5)
  | kmerge (r : Route) (key32 desc signed : Bool)
  | ksel (r : Route) (key32 desc signed : Bool)
  -- system
  | cfginv (r : Route1) (scope : InvScope)
  | gtime (r : Route1) (valid : Bool)
  | pmark (r : Route1) (code : BitVec 16)
  | eosi (r : Route1)
  -- emulated division and the opcodes without an instruction
  | idiv (r : Route) (md : BitVec 2) (l : BitVec 32)
  | irem (r : Route) (md : BitVec 2) (l : BitVec 32)
  | idivn (r : Route) (md : BitVec 2) (l : BitVec 32)
  | iremn (r : Route) (md : BitVec 2) (l : BitVec 32)
  | unassignedOpcode (op : BitVec 8) (r : Route) (md : BitVec 2) (l : BitVec 32)
  | emulationOpcode (op : BitVec 8) (r : Route) (md : BitVec 2) (l : BitVec 32)
  -- tiles and the Dealer
  | tokenArrive (core tile port : Nat) (handler : Bool)
  | tileEosSwap (core tile : Nat) (handler : Bool)
  | chooseBlock (core region : Nat)
  | injectThread (core region : Nat)
  | batchEndEos (core region : Nat)
  | shadowPlaneLoad (core region : Nat)
  | spinDue (core : Nat)
  | exitAtDealer (core thread : Nat)
  | barrierWatchdog (core barrier : Nat)
  -- memory and translation
  | memoryReply (core access : Nat)
  | translationWalk (walk : Nat)
  -- faults
  | faultToken (core : Nat)
  | handlerSlotAllocate (core : Nat)
  | pgdoneMapped (request : Nat)
  | pgdoneDenied (request : Nat)
  | resolveRaise (core hslot : Nat)
  | resolveRetry (core hslot : Nat)
  | resolveRetryat (core hslot : Nat)
  | resolveBranch (core hslot blk : Nat)
  | resolveResume (core hslot : Nat)
  | resolveExit (core hslot : Nat)
  | fstHimgWrite (v : Word)
  | parkLimitExpiry (team hand : Nat)
  | dlrParklimWrite (v : Word)
  | swapOut (team : Nat)
  | swapWithdraw (team : Nat)
  | teamReadmit (team : Nat)
  | readmitEvent (team : Nat)
  | dlrPreempt (die : Nat)
  | preemptQuiesce (die : Nat)
  | preemptBoundExpiry (die : Nat)
  | dlrRestore (die : Nat)
  -- launch
  | lqDoorbell (q : Nat) (v : Word)
  | packetRead (q : Nat)
  | imageLoad (q : Nat)
  | imageReload (image : Nat)
  | waitSignalExamine (q i : Nat)
  | packetBegin (q : Nat)
  | teamAdmit (die : Nat)
  | stealRequest (die : Nat)
  | stealTransfer (die victim : Nat)
  | gridComplete (grid : Nat)
  | lqTearDrain (q : Nat)
  | lqTearAbort (q : Nat)
  | teardownComplete (q : Nat)
  | lqEnable (q : Nat) (v : Word)
  | lqDisable (q : Nat) (v : Word)
  | dstModeWrite (v : Word)
  | dstSemWrite (i : Nat) (v : Word)
  -- completions and wakes
  | rowStep (core tile : Nat)
  | copyComplete (pd engine : Nat)
  | ldfTimeout (core access : Nat)
  | sleepWake (core thread : Nat)
  | waittWake (core thread : Nat)
  | reservationAgeExpiry (core thread : Nat)
  | holdExpiry (core thread : Nat)
  | join (core thread : Nat)
  -- Chrysalis
  | chrysalisFetchStart (ctx layer : Nat)
  | fetchComplete (ctx layer : Nat)
  | fetchFail (ctx layer : Nat)
  | chrCtxEnable (ctx : Nat) (v : Word)
  | chrCtxDisable (ctx : Nat) (v : Word)
  | chrReset (v : Word)
  -- coherence, host and links
  | readShared (line node : Nat)
  | readOwn (line node : Nat)
  | forwardedRead (line node : Nat)
  | recall (line : Nat)
  | writeBack (line node : Nat)
  | evictNotice (line node : Nat)
  | leaseExpiry (node line : Nat)
  | hostMemrd (line state : Nat)
  | hostMemwr (line : Nat) (data : LineData) (state : Nat)
  | birsp (line : Nat) (invalid : Bool)
  | hostSnpinv (line : Nat)
  | hostSnpdata (line : Nat)
  | cxlDataResponse (line : Nat) (data : BitVec 512) (poisoned : Bool)
  | poolBisnp (line : Nat) (invalid : Bool)
  | zelasRemoteAccess (pkg line : Nat) (kind : RemoteKind) (poisoned : Bool) (data : BitVec 512)
  | zelasInvalidate (line : Nat)
  | poolPortDown (port : Nat)
  | shelfLossReport (range : Nat)
  | poolRequestTimeout (range : Nat)
  | cxpPmctlWrite (i : Nat) (v : Word)
  | zelasPortLoss (port : Nat)
  | linkTrainingFail (port : Nat)
  | checkFail (kind index : Nat) (pa : Nat)
  | checkRetryResult (kind index : Nat) (ok : Bool)
  | hbmRefresh (stack row : Nat)
  | scrubRead (line : Nat) (detected : Nat)
  | drainingNodeReset (node : Nat)
  | fatalNodeReset (node : Nat) (dirty : List Nat) (passFails : Bool)
  | fatalFabricDieReset (die : Nat)
  -- time, power, boot and management
  | timeCompare (die : Nat)
  | clockRestart (die : Nat)
  | timeResync (die : Nat)
  | powerWindow (watts : Nat)
  | railFault (rail : Nat)
  | alarm (mask : BitVec 4)
  | fwchunk (seq payload : List Byte)
  | fwcommit (seq payload : List Byte)
  | status (seq : List Byte)
  | pwrlimit (seq payload : List Byte)
  | evread (seq payload : List Byte)
  | evack (seq payload : List Byte)
  | reprov (seq payload : List Byte)
  | spdmRequest (payload : List Byte)
  -- control-space writes and their completions
  | stgCarveWrite (p : Nat) (v : Word)
  | stgCarveDone (p : Nat)
  | mmuRootWrite (a : Nat) (v : Word)
  | mmuInv (v : Word)
  | mmuPgmode (v : Word)
  | dbgStop (v : Word)
  | traceEnable (v : Word)
  | pmcSpheadWrite (v : Word)
  | pmcSpillWrite (v : Word)
  | rplCtlWrite (v : Word)
  | rplStart (v : Word)
  | registerWrite (pa size : Nat) (v : Word)
  | linkUp (port : Nat)
  | stackTemperatureCrossing (stack : Nat) (hot : Bool)
  -- steps that need no name: what they act on stands in the state
  | systemQueueDeliver
  | boot
  | fwcommitWriteDone
  | mmuInvComplete
  | pgmodeComplete
  | dbgSettled
  | checkpoint
  | replayEnd
  | dbgResume
  | dbgStepFiring
  | dbgStepBlock
  | cfginvComplete
  | dbgAccrd
  deriving DecidableEq, Repr

end Sys2Proof
end

