-- ==== Sys2Proof/Machine/Num.lean ====
section
/-! DEFINITION. The floating-point formats of Table 5.2, exact values as signed multiples of powers of two, and the one
rounding of R103 to R105 with its flags. Every arithmetic result is an exact value rounded by roundTo. -/

namespace Sys2Proof.Machine

/-- An exact value m * 2^e. -/
structure Dy where
  m : Int
  e : Int
  deriving DecidableEq, Repr

/-- A floating-point format (Table 5.2). ofp marks E4M3, whose top exponent holds values and one NaN. -/
structure FloatFmt where
  ebits : Nat
  fbits : Nat
  bias : Nat
  ofp : Bool := false
  deriving DecidableEq, Repr

def fmtF32 : FloatFmt := ⟨8, 23, 127, false⟩
def fmtBF16 : FloatFmt := ⟨8, 7, 127, false⟩
def fmtE4M3 : FloatFmt := ⟨4, 3, 7, true⟩
def fmtE5M2 : FloatFmt := ⟨5, 2, 15, false⟩
def fmtA36 : FloatFmt := ⟨8, 27, 127, false⟩

/-- The floating-point format of a format tag; F32 where the tag names none. -/
def FloatFmt.ofTag : Fmt → FloatFmt
  | .bf16 => fmtBF16 | .e4m3 => fmtE4M3 | .e5m2 => fmtE5M2 | .a36 => fmtA36 | _ => fmtF32

namespace FloatFmt

/-- Bits of a value. -/
def width (f : FloatFmt) : Nat := 1 + f.ebits + f.fbits

/-- The greatest exponent field. -/
def expMax (f : FloatFmt) : Nat := 2 ^ f.ebits - 1

/-- Table R101: the canonical NaN. -/
def nanBits (f : FloatFmt) : Nat :=
  if f.ofp then 2 ^ (f.ebits + f.fbits) - 1 else f.expMax * 2 ^ f.fbits + 2 ^ (f.fbits - 1)

/-- The bits of the largest finite magnitude. -/
def maxBits (f : FloatFmt) : Nat :=
  if f.ofp then 2 ^ (f.ebits + f.fbits) - 2 else f.expMax * 2 ^ f.fbits - 1

/-- The bits of infinity; the NaN of E4M3, which has none. -/
def infBits (f : FloatFmt) : Nat := if f.ofp then f.nanBits else f.expMax * 2 ^ f.fbits

/-- The sign bit. -/
def signBit (f : FloatFmt) (neg : Bool) : Nat := if neg then 2 ^ (f.ebits + f.fbits) else 0

/-- Is the conversion to the other format a widening (Table 5.5)? -/
def widens (f g : FloatFmt) : Bool := f.ebits ≤ g.ebits && f.fbits ≤ g.fbits && f ≠ g

end FloatFmt

/-- A decoded operand (R100): a NaN, an infinity, or an exact signed value. The sign of a zero is kept beside it. -/
inductive FVal
  | nan (signalling : Bool)
  | inf (neg : Bool)
  | fin (neg : Bool) (m : Nat) (e : Int)
  deriving DecidableEq, Repr

/-- The value of the bits of a format (R100, R101). -/
def FloatFmt.value (f : FloatFmt) (x : Nat) : FVal :=
  let neg := (x >>> (f.ebits + f.fbits)) % 2 = 1
  let ex := (x >>> f.fbits) % 2 ^ f.ebits
  let fr := x % 2 ^ f.fbits
  if ex = 0 then .fin neg fr (1 - (f.bias : Int) - f.fbits)
  else if ex = f.expMax && f.ofp && fr = 2 ^ f.fbits - 1 then .nan false
  else if ex = f.expMax && !f.ofp then
    if fr = 0 then .inf neg
    else .nan (fr < 2 ^ (f.fbits - 1) && f.ebits = 8)
  else .fin neg (2 ^ f.fbits + fr) ((ex : Int) - f.bias - f.fbits)

namespace FVal

def isNan : FVal → Bool | .nan _ => true | _ => false
def isSnan : FVal → Bool | .nan s => s | _ => false
def isInf : FVal → Bool | .inf _ => true | _ => false
def neg : FVal → Bool | .nan _ => false | .inf n => n | .fin n _ _ => n
def isZero : FVal → Bool | .fin _ 0 _ => true | _ => false

/-- The exact value of a finite operand. -/
def dy : FVal → Dy
  | .fin n m e => ⟨if n then -(m : Int) else m, e⟩
  | _ => ⟨0, 0⟩

end FVal

namespace Dy

/-- The numerator of x over the common exponent e, which is at most x.e. -/
def at_ (x : Dy) (e : Int) : Int := x.m * 2 ^ (x.e - e).toNat

def add (x y : Dy) : Dy := let e := min x.e y.e; ⟨x.at_ e + y.at_ e, e⟩
def mul (x y : Dy) : Dy := ⟨x.m * y.m, x.e + y.e⟩
def neg (x : Dy) : Dy := ⟨-x.m, x.e⟩
def sum (l : List Dy) : Dy := l.foldl Dy.add ⟨0, 0⟩
def lt (x y : Dy) : Bool := let e := min x.e y.e; x.at_ e < y.at_ e
def eqv (x y : Dy) : Bool := let e := min x.e y.e; x.at_ e = y.at_ e

end Dy

/-- What .rs needs beside the element index (R104): the fields of the firing. -/
structure StochCtx where
  seed : Word := 0
  team : Nat := 0
  tid : Nat := 0
  blk : Nat := 0
  tile : Nat := 0
  slot : Nat := 0
  iter : Nat := 0
  deriving DecidableEq, Repr

/-- Mix of R104. -/
def mix64 (z : Word) : Word :=
  let z := (z ^^^ (z >>> 30)) * 0xBF58476D1CE4E5B9
  let z := (z ^^^ (z >>> 27)) * 0x94D049BB133111EB
  z ^^^ (z >>> 31)

/-- StochBits of R104 for one element. -/
def StochCtx.bits (c : StochCtx) (lane : Nat) : Nat :=
  let a : Word := BitVec.ofNat 64
    ((c.team <<< 32) ||| (c.tid <<< 20) ||| (c.blk <<< 12) ||| (c.tile <<< 6) ||| (c.slot <<< 1))
  let b : Word := BitVec.ofNat 64 ((c.iter <<< 8) ||| lane)
  (mix64 (mix64 (c.seed ^^^ a) ^^^ b)).toNat >>> 32

/-- How an operation rounds: the mode, saturation, and the 32 stochastic bits of its element. -/
structure RoundCtl where
  rnd : Rnd := .rn
  sat : Bool := false
  stoch : Nat := 0
  deriving DecidableEq, Repr

/-- Does the magnitude q + r / 2^sh round up to q + 1 (R103, R104)? -/
def roundsUp (c : RoundCtl) (neg : Bool) (q r sh : Nat) : Bool :=
  match c.rnd with
  | .rn => 2 * r > 2 ^ sh || (2 * r = 2 ^ sh && q % 2 = 1)
  | .rz => false
  | .rp => r > 0 && !neg
  | .rm => r > 0 && neg
  | .rs => r > 0 && (r * 2 ^ 32) / 2 ^ sh + c.stoch ≥ 2 ^ 32

/-- The magnitude m * 2^e over the unit 2^u: the integer part, the remainder and its shift. -/
def splitAt (m : Nat) (e u : Int) : Nat × Nat × Nat :=
  if u ≤ e then (m * 2 ^ (e - u).toNat, 0, 0)
  else let sh := (u - e).toNat; (m / 2 ^ sh, m % 2 ^ sh, sh)

/-- What a rounding overflow gives (R105). -/
def overflowBits (f : FloatFmt) (c : RoundCtl) (neg : Bool) : Nat :=
  let toInf := match c.rnd with | .rn | .rs => true | .rz => false | .rp => !neg | .rm => neg
  if c.sat then f.signBit neg + f.maxBits
  else if toInf then (if f.ofp then f.nanBits else f.signBit neg + f.infBits)
  else f.signBit neg + f.maxBits

/-- A non-zero exact value of magnitude m * 2^e rounded once to the format (R103 to R105), with its flags. -/
def roundMag (f : FloatFmt) (c : RoundCtl) (neg : Bool) (m : Nat) (e : Int) : Nat × FpFlags :=
  let emin : Int := 1 - f.bias
  let ex : Int := (Nat.log2 m : Int) + e
  let u : Int := max ex emin - f.fbits
  let (q, r, sh) := splitAt m e u
  let q' := if roundsUp c neg q r sh then q + 1 else q
  let bits := (u + f.fbits + f.bias - 1).toNat * 2 ^ f.fbits + q'
  if bits > f.maxBits then (overflowBits f c neg, fOF ||| fNX)
  else
    let tiny := ex < emin &&
      !(ex = emin - 1 && (let (q2, r2, sh2) := splitAt m e (ex - f.fbits)
                          roundsUp c neg q2 r2 sh2 && q2 + 1 = 2 ^ (f.fbits + 1)))
    (f.signBit neg + bits, flagIf fNX (r ≠ 0) ||| flagIf fUF (r ≠ 0 && tiny))

/-- An exact result rounded once; an exact zero takes the sign given (R102). -/
def roundDy (f : FloatFmt) (c : RoundCtl) (zeroNeg : Bool) (x : Dy) : Nat × FpFlags :=
  if x.m = 0 then (f.signBit zeroNeg, 0) else roundMag f c (x.m < 0) x.m.natAbs x.e

/-- The canonical NaN with NV as given. -/
def nanRes (f : FloatFmt) (nv : Bool) : Nat × FpFlags := (f.nanBits, flagIf fNV nv)

/-- An infinite result that is exact (R105). -/
def infRes (f : FloatFmt) (c : RoundCtl) (neg : Bool) : Nat × FpFlags :=
  if c.sat then (f.signBit neg + f.maxBits, 0)
  else if f.ofp then (f.nanBits, fOF)
  else (f.signBit neg + f.infBits, 0)

/-- Sign of an exact zero sum (R102): the common sign of two zeros, else +0, or -0 under .rm. -/
def zeroSumNeg (c : RoundCtl) (nx ny : Bool) : Bool := if nx = ny then nx else c.rnd = .rm

/-- x + y for decoded operands (R102, R103). -/
def fvAdd (f : FloatFmt) (c : RoundCtl) (x y : FVal) : Nat × FpFlags :=
  if x.isNan || y.isNan then nanRes f (x.isSnan || y.isSnan)
  else match x, y with
    | .inf n, .inf n' => if n = n' then infRes f c n else nanRes f true
    | .inf n, _ => infRes f c n
    | _, .inf n => infRes f c n
    | _, _ =>
      if x.isZero && y.isZero then (f.signBit (zeroSumNeg c x.neg y.neg), 0)
      else roundDy f c (c.rnd = .rm) (x.dy.add y.dy)

/-- The negation of a decoded operand. -/
def FVal.negate : FVal → FVal
  | .nan s => .nan s
  | .inf n => .inf (!n)
  | .fin n m e => .fin (!n) m e

/-- x * y (R102, R103). -/
def fvMul (f : FloatFmt) (c : RoundCtl) (x y : FVal) : Nat × FpFlags :=
  if x.isNan || y.isNan then nanRes f (x.isSnan || y.isSnan)
  else
    let n := x.neg != y.neg
    if x.isInf || y.isInf then
      if x.isZero || y.isZero then nanRes f true else infRes f c n
    else roundDy f c n (x.dy.mul y.dy)

/-- x * y + z, rounded once (R318). -/
def fvFma (f : FloatFmt) (c : RoundCtl) (x y z : FVal) : Nat × FpFlags :=
  let snan := x.isSnan || y.isSnan || z.isSnan
  let badProd := (x.isInf && y.isZero) || (x.isZero && y.isInf)
  if x.isNan || y.isNan then nanRes f snan
  else if badProd then nanRes f true
  else if z.isNan then nanRes f snan
  else
    let n := x.neg != y.neg
    if x.isInf || y.isInf then
      match z with
      | .inf nz => if nz = n then infRes f c n else nanRes f true
      | _ => infRes f c n
    else match z with
      | .inf nz => infRes f c nz
      | _ =>
        let p := x.dy.mul y.dy
        if p.m = 0 && z.isZero then (f.signBit (zeroSumNeg c n z.neg), 0)
        else roundDy f c (c.rnd = .rm) (p.add z.dy)

/-- Is x less than y among non-NaN values, with -0 below +0 (R102)? -/
def fvLess (x y : FVal) : Bool :=
  match x, y with
  | .inf n, .inf n' => n && !n'
  | .inf n, _ => n
  | _, .inf n => !n
  | _, _ => if x.isZero && y.isZero then x.neg && !y.neg else x.dy.lt y.dy

/-- minimumNumber and maximumNumber on bits (R102, R317). -/
def fMinMax (f : FloatFmt) (wantMax : Bool) (a b : Nat) : Nat × FpFlags :=
  let x := f.value a
  let y := f.value b
  let fl := flagIf fNV (x.isSnan || y.isSnan)
  if x.isNan && y.isNan then (f.nanBits, fl)
  else if x.isNan then (b, fl)
  else if y.isNan then (a, fl)
  else if fvLess y x then (if wantMax then a else b, fl)
  else (if wantMax then b else a, fl)

/-- A comparison of FCMP (R322) with its flags. -/
def fCompare (f : FloatFmt) (c : Cond) (a b : Nat) : Bool × FpFlags :=
  let x := f.value a
  let y := f.value b
  let nan := x.isNan || y.isNan
  let eq := match x, y with
    | .inf n, .inf n' => n = n'
    | .inf _, _ => false
    | _, .inf _ => false
    | _, _ => x.dy.eqv y.dy
  let snan := x.isSnan || y.isSnan
  match c with
  | .eq => (!nan && eq, flagIf fNV snan)
  | .ne => (nan || !eq, flagIf fNV snan)
  | .lt => (!nan && !eq && fvLess x y, flagIf fNV nan)
  | .le => (!nan && (eq || fvLess x y), flagIf fNV nan)

/-- FCLASS bit number of a value (Table 16.4). -/
def fClass (f : FloatFmt) (a : Nat) : Nat :=
  match f.value a with
  | .nan s => if s then 8 else 9
  | .inf n => if n then 0 else 7
  | .fin n m _ =>
    if m = 0 then (if n then 3 else 4)
    else if m < 2 ^ f.fbits then (if n then 2 else 5)
    else (if n then 1 else 6)

/-- a * 2^n (R321). -/
def fScaleBy (f : FloatFmt) (c : RoundCtl) (a : Nat) (n : Int) : Nat × FpFlags :=
  match f.value a with
  | .nan s => nanRes f s
  | .inf ng => infRes f c ng
  | .fin ng m e =>
    if m = 0 then (f.signBit ng, 0)
    else
      -- beyond these bounds every result overflows, or is below half the least subnormal of any format
      let n' : Int := max (-1024) (min 1024 n)
      roundMag f c ng m (e + n')

/-- A value of one format rounded to another (R108); an infinity that is widened stays one whatever .sat says (Table 5.5). -/
def fConvert (src dst : FloatFmt) (c : RoundCtl) (a : Nat) : Nat × FpFlags :=
  match src.value a with
  | .nan s => nanRes dst s
  | .inf n => infRes dst (if src.widens dst then {} else c) n
  | .fin n m e => if m = 0 then (dst.signBit n, 0) else roundMag dst c n m e

/-- An exact value rounded to an integer in a mode (R108, CVTI), and whether it was inexact. -/
def roundToInt (c : RoundCtl) (neg : Bool) (m : Nat) (e : Int) : Int × Bool :=
  let (q, r, sh) := splitAt m e 0
  let q' := if roundsUp c neg q r sh then q + 1 else q
  (if neg then -(q' : Int) else q', r ≠ 0)

/-- The lane range of w bits under S (R98). -/
def laneMin (w : Nat) (signed : Bool) : Int := if signed then -(2 ^ (w - 1) : Nat) else 0
/-- The lane range of w bits under S (R98). -/
def laneMax (w : Nat) (signed : Bool) : Int := if signed then (2 ^ (w - 1) : Nat) - 1 else (2 ^ w : Nat) - 1

/-- An integer held in w bits. -/
def intToLane (w : Nat) (x : Int) : Nat := (x % (2 ^ w : Nat)).toNat

/-- An integer clamped to a lane (R98), and whether it was. -/
def clampLane (w : Nat) (signed : Bool) (x : Int) : Int × Bool :=
  if x < laneMin w signed then (laneMin w signed, true)
  else if x > laneMax w signed then (laneMax w signed, true)
  else (x, false)

/-- CVTI of one element (Table 5.5). -/
def fToInt (src : FloatFmt) (c : RoundCtl) (w : Nat) (signed : Bool) (a : Nat) : Nat × FpFlags :=
  match src.value a with
  | .nan _ => (0, fNV)
  | .inf n => (intToLane w (if n then laneMin w signed else laneMax w signed), fNV ||| fSAT)
  | .fin n m e =>
    -- a magnitude of 2^80 or more lies beyond every lane
    let (x, inexact) := if (Nat.log2 m : Int) + e > 80 then ((if n then -(2 ^ 81 : Int) else 2 ^ 81), false)
                        else roundToInt c n m e
    let (y, clamped) := clampLane w signed x
    (intToLane w y, if clamped then fNV ||| fSAT else flagIf fNX inexact)

/-- CVTF of one integer (Table 5.5). -/
def intToF (dst : FloatFmt) (c : RoundCtl) (x : Int) : Nat × FpFlags := roundDy dst c false ⟨x, 0⟩

/-- The reading of a w-bit lane under S (R97). -/
def laneInt (w : Nat) (signed : Bool) (x : Nat) : Int :=
  if signed && x ≥ 2 ^ (w - 1) then (x : Int) - (2 ^ w : Nat) else x

/-- Elements combined by Tree (R115): pairs in index order, an unpaired element passing on; fuel is the number of elements. -/
def treeOnce {α : Type} (op : α → α → α) : List α → List α
  | x :: y :: r => op x y :: treeOnce op r
  | l => l

/-- Tree of R115. -/
def treeFold {α : Type} (op : α → α → α) : Nat → List α → Option α
  | _, [] => none
  | _, [x] => some x
  | 0, x :: _ => some x
  | n + 1, l => treeFold op n (treeOnce op l)

end Sys2Proof.Machine
end

