-- ==== Sys2Proof/Machine/Func.lean ====
section
/-! DEFINITION. The functions of one operand (R319) in every rounding mode. A function value that is not exact is enclosed in
an interval of fixed-point numbers; a dyadic sample from inside the interval rounds as the value does, because no rounding
boundary of a destination with 32 stochastic bits lies in the interval. An interval that is too wide for that is computed
again with twice the digits. -/

namespace Sys2Proof.Machine

/-! ## Fixed-point series; x stands for x / 2^p -/

/-- Sum of x^n / n! from term n on; t is the term before the division by n. -/
def expSeries (p : Nat) (x : Int) : Nat → Nat → Int → Int
  | 0, _, _ => 0
  | k + 1, n, t => t + expSeries p x k (n + 1) (t * x / (2 ^ p : Nat) / ((n + 1 : Nat) : Int))

/-- e^x for |x| < 1. -/
def expFx (p : Nat) (x : Int) : Int := expSeries p x (p / 3) 0 (2 ^ p : Nat)

/-- Sum of sgn^n z^(2n+1) / (2n+1): sgn = 1 for artanh, −1 for arctan; t is z^(2n+1). -/
def oddSeries (p : Nat) (sgn : Int) (z2 : Int) : Nat → Nat → Int → Int
  | 0, _, _ => 0
  | k + 1, n, t => t / ((2 * n + 1 : Nat) : Int) + oddSeries p sgn z2 k (n + 1) (sgn * (t * z2 / (2 ^ p : Nat)))

/-- artanh z for |z| ≤ 1/3. -/
def atanhFx (p : Nat) (z : Int) : Int := oddSeries p 1 (z * z / (2 ^ p : Nat)) (p / 2) 0 z

/-- arctan (1 / n). -/
def atanInvFx (p n : Nat) : Int :=
  let z : Int := (2 ^ p : Nat) / (n : Int)
  oddSeries p (-1) (z * z / (2 ^ p : Nat)) (p / 2) 0 z

/-- ln 2. -/
def ln2Fx (p : Nat) : Int := 2 * atanhFx p ((2 ^ p : Nat) / 3)

/-- π / 2 by Machin's formula. -/
def halfPiFx (p : Nat) : Int := 8 * atanInvFx p 5 - 2 * atanInvFx p 239

/-- Alternating series of sine (n = 1, t = x) or cosine (n = 0, t = 1). -/
def trigSeries (p : Nat) (x2 : Int) : Nat → Nat → Int → Int
  | 0, _, _ => 0
  | k + 1, n, t => t + trigSeries p x2 k (n + 2) (-(t * x2 / (2 ^ p : Nat)) / (((n + 1) * (n + 2) : Nat) : Int))

/-- sin x for |x| ≤ 1. -/
def sinFx (p : Nat) (x : Int) : Int := trigSeries p (x * x / (2 ^ p : Nat)) (p / 5) 1 x
/-- cos x for |x| ≤ 1. -/
def cosFx (p : Nat) (x : Int) : Int := trigSeries p (x * x / (2 ^ p : Nat)) (p / 5) 0 (2 ^ p : Nat)

/-! ## Samples -/

/-- A dyadic from inside the interval of half width 2^20 units about v, where its ends agree in 72 bits. -/
def sampleFx (p : Nat) (v : Int) : Option Dy :=
  let a := v.natAbs
  if a ≤ 2 ^ 100 then none
  else
    let lo := a - 2 ^ 20
    let hi := a + 2 ^ 20
    let sh := Nat.log2 lo - 72
    if lo / 2 ^ sh = hi / 2 ^ sh then
      let m : Int := (2 * (lo / 2 ^ sh) + 1 : Nat)
      some ⟨if v < 0 then -m else m, (sh : Int) - 1 - p⟩
    else none

/-- The sample at 256 digits, or at 512 where that does not decide. -/
def sampleOf (f : Nat → Int) : Dy :=
  match sampleFx 256 (f 256) with
  | some d => d
  | none => match sampleFx 512 (f 512) with
    | some d => d
    | none => ⟨f 512, -512⟩

/-- m * 2^e in p digits, rounded down. -/
def toFx (p : Nat) (m : Int) (e : Int) : Int :=
  let k := e + p
  if 0 ≤ k then m * (2 ^ k.toNat : Nat) else m / (2 ^ (-k).toNat : Nat)

/-- Is the magnitude m * 2^e below 2^b? -/
def below (m : Nat) (e b : Int) : Bool := m = 0 || (Nat.log2 m : Int) + e < b

/-- A magnitude just below m * 2^e. -/
def justBelow (m : Nat) (e : Int) : Dy := ⟨(m * 2 ^ 80 - 1 : Nat), e - 80⟩

/-! ## The functions on a finite non-zero argument m * 2^e, m signed -/

/-- Bits of an integer square root from position k down. -/
def isqrtBits (n : Nat) : Nat → Nat → Nat
  | 0, r => r
  | k + 1, r => let r' := r + 2 ^ k; isqrtBits n k (if r' * r' ≤ n then r' else r)

/-- The greatest r with r² ≤ n, for n below 2^600. -/
def isqrt (n : Nat) : Nat := isqrtBits n 300 0

/-- A quotient with a sticky bit below it. -/
def sticky (q : Nat) (exact : Bool) (e : Int) : Dy := ⟨(2 * q + b2n exact.not : Nat), e - 1⟩
where
  /-- 1 for true. -/
  b2n (b : Bool) : Nat := if b then 1 else 0

/-- 1 / (m * 2^e). -/
def rcpDy (m : Int) (e : Int) : Dy :=
  let a := m.natAbs
  let k := Nat.log2 a + 120
  let d := sticky (2 ^ k / a) (2 ^ k % a = 0) (-(k : Int) - e)
  if m < 0 then d.neg else d

/-- The square root of m * 2^e. -/
def sqrtDy (m : Nat) (e : Int) : Dy :=
  let (m, e) := if e % 2 = 0 then (m, e) else (2 * m, e - 1)
  let n := m * 2 ^ 240
  let r := isqrt n
  sticky r (r * r = n) (e / 2 - 120)

/-- The reciprocal square root of m * 2^e. -/
def rsqrtDy (m : Nat) (e : Int) : Dy :=
  let (m, e) := if e % 2 = 0 then (m, e) else (2 * m, e - 1)
  let q := 2 ^ 400 / m
  let r := isqrt q
  sticky r (2 ^ 400 % m = 0 && r * r = q) (-(e / 2) - 200)

/-- Is m * 2^e an integer? -/
def isIntDy (m : Int) (e : Int) : Bool := e ≥ 0 || m % (2 ^ (-e).toNat : Nat) = 0

/-- 2^(m * 2^e). -/
def exp2Dy (m : Int) (e : Int) : Dy :=
  if !below m.natAbs e 10 then (if m < 0 then ⟨1, -400⟩ else ⟨1, 200⟩)
  else if isIntDy m e then
    ⟨1, if e ≥ 0 then m * (2 ^ e.toNat : Nat) else m / (2 ^ (-e).toNat : Nat)⟩
  else if below m.natAbs e (-100) then ⟨(2 ^ 100 : Nat) + (if m < 0 then -1 else 1), -100⟩
  else
    let n := m / (2 ^ (-e).toNat : Nat)
    let d := sampleOf (fun p => expFx p ((toFx p m e - n * (2 ^ p : Nat)) * ln2Fx p / (2 ^ p : Nat)))
    ⟨d.m, d.e + n⟩

/-- The base-2 logarithm of m * 2^e. -/
def log2Dy (m : Nat) (e : Int) : Dy :=
  let l := Nat.log2 m
  if m = 2 ^ l then ⟨l + e, 0⟩
  else
    -- y = m / 2^l in (1, 2), halved above the square root of 2
    let big := m * m > 2 ^ (2 * l + 1)
    let den := if big then 2 ^ (l + 1) else 2 ^ l
    let ex : Int := (l : Int) + e + (if big then 1 else 0)
    sampleOf (fun p =>
      let z := (((m : Int) - (den : Nat)) * (2 ^ p : Nat)) / ((m + den : Nat) : Int)
      ex * (2 ^ p : Nat) + 2 * atanhFx p z * (2 ^ p : Nat) / ln2Fx p)

/-- The quadrant k mod 4 and the rest r of x = k π/2 + r in p digits. -/
def reduceHalfPi (p : Nat) (m : Int) (e : Int) : Int × Int :=
  let p' := p + 160
  let x := toFx p' m e
  let h := halfPiFx p'
  let k := (2 * x + h) / (2 * h)
  (k % 4, (x - k * h) / (2 ^ 160 : Nat))

/-- sin (x + j π/2) in p digits. -/
def sinQuad (p : Nat) (j : Int) (m : Int) (e : Int) : Int :=
  let (k, r) := reduceHalfPi p m e
  match ((k + j) % 4).toNat with
  | 0 => sinFx p r | 1 => cosFx p r | 2 => -sinFx p r | _ => -cosFx p r

/-- Sine of m * 2^e. -/
def sinDy (m : Int) (e : Int) : Dy :=
  if below m.natAbs e (-40) then (if m < 0 then (justBelow m.natAbs e).neg else justBelow m.natAbs e)
  else sampleOf (fun p => sinQuad p 0 m e)

/-- Cosine of m * 2^e. -/
def cosDy (m : Int) (e : Int) : Dy :=
  if below m.natAbs e (-100) then ⟨(2 ^ 100 : Nat) - 1, -100⟩
  else sampleOf (fun p => sinQuad p 1 m e)

/-- Hyperbolic tangent of m * 2^e. -/
def tanhDy (m : Int) (e : Int) : Dy :=
  let a := m.natAbs
  let d : Dy :=
    if below a e (-40) then justBelow a e
    else if !below a e 6 then ⟨(2 ^ 100 : Nat) - 1, -100⟩
    else sampleOf (fun p =>
      let one : Int := (2 ^ p : Nat)
      let x2 := 2 * toFx p a e
      let l := ln2Fx p
      let k := x2 / l
      let u := expFx p (-(x2 - k * l)) / (2 ^ k.toNat : Nat)
      (one - u) * one / (one + u))
  if m < 0 then d.neg else d

/-- The functions of R319. -/
inductive FFun
  | rcp | rsq | sqrt | exp2 | log2 | sin | cos | tanh
  deriving DecidableEq, Repr

/-- The result of a function for a special operand (Table 16.3), a zero or an infinity: the value and the flags. -/
inductive FSpecial
  | nan | inf (neg : Bool) (dz : Bool) | zero (neg : Bool) | one (neg : Bool)
  deriving DecidableEq, Repr

/-- Table 16.3 for ±∞. -/
def FFun.atInf (g : FFun) (neg : Bool) : FSpecial :=
  match g with
  | .rcp => .zero neg
  | .rsq => if neg then .nan else .zero false
  | .sqrt | .log2 => if neg then .nan else .inf false false
  | .exp2 => if neg then .zero false else .inf false false
  | .sin | .cos => .nan
  | .tanh => .one neg

/-- Table 16.3 for ±0. -/
def FFun.atZero (g : FFun) (neg : Bool) : FSpecial :=
  match g with
  | .rcp | .rsq => .inf neg true
  | .log2 => .inf true true
  | .sqrt | .sin | .tanh => .zero neg
  | .exp2 | .cos => .one false

/-- The bits and flags of a special result under the float control (R105: an infinite result that is exact is saturated). -/
def FSpecial.bits (f : FloatFmt) (c : RoundCtl) : FSpecial → Nat × FpFlags
  | .nan => nanRes f true
  | .inf n dz => let (b, fl) := infRes f c n; (b, fl ||| flagIf fDZ dz)
  | .zero n => (f.signBit n, 0)
  | .one n => (f.signBit n + f.bias * 2 ^ f.fbits, 0)

/-- The function value of a finite non-zero argument; none where it is invalid (Table 16.3, last column). -/
def FFun.dy (g : FFun) (neg : Bool) (m : Nat) (e : Int) : Option Dy :=
  let x : Int := if neg then -(m : Int) else m
  match g with
  | .rcp => some (rcpDy x e)
  | .rsq => if neg then none else some (rsqrtDy m e)
  | .sqrt => if neg then none else some (sqrtDy m e)
  | .exp2 => some (exp2Dy x e)
  | .log2 => if neg then none else some (log2Dy m e)
  | .sin => some (sinDy x e)
  | .cos => some (cosDy x e)
  | .tanh => some (tanhDy x e)

/-- A function of one operand on the bits of a format (R319). -/
def fFunction (g : FFun) (f : FloatFmt) (c : RoundCtl) (a : Nat) : Nat × FpFlags :=
  match f.value a with
  | .nan s => nanRes f s
  | .inf n => (g.atInf n).bits f c
  | .fin n m e =>
    if m = 0 then (g.atZero n).bits f c
    else match g.dy n m e with
      | none => nanRes f true
      | some d => roundDy f c false d

end Sys2Proof.Machine
end

