-- ==== Sys2Proof/Machine/KMap.lean ====
section
/-! DEFINITION. Reading and changing keyed lists. put keeps an ascending list ascending, and none of the operations needs
the list to be ascending for its own law (Laws/KMap.lean). -/

namespace Sys2Proof

/-- The entry under a key. -/
def KMap.look {α : Type} (m : KMap α) (k : Nat) : Option α :=
  match m with
  | [] => none
  | (j, v) :: r => if k = j then some v else KMap.look r k

/-- The entry under a key, or the value an unlisted entry has. -/
def KMap.lookD {α : Type} (m : KMap α) (k : Nat) (d : α) : α := (KMap.look m k).getD d

/-- The list with the entry under a key set. -/
def KMap.put {α : Type} (m : KMap α) (k : Nat) (v : α) : KMap α :=
  match m with
  | [] => [(k, v)]
  | (j, w) :: r => if k = j then (k, v) :: r else if k < j then (k, v) :: (j, w) :: r else (j, w) :: KMap.put r k v

/-- The list without the entries under a key. -/
def KMap.del {α : Type} (m : KMap α) (k : Nat) : KMap α := m.filter (fun p => p.1 ≠ k)

/-- The list with the entry under a key changed from the value it has, or from d. -/
def KMap.alter {α : Type} (m : KMap α) (k : Nat) (d : α) (f : α → α) : KMap α := KMap.put m k (f (KMap.lookD m k d))

/-- The keys. -/
def KMap.keys {α : Type} (m : KMap α) : List Nat := m.map (·.1)

/-- The entries. -/
def KMap.vals {α : Type} (m : KMap α) : List α := m.map (·.2)

/-- Every entry changed. -/
def KMap.mapVals {α β : Type} (m : KMap α) (f : α → β) : KMap β := m.map (fun p => (p.1, f p.2))

/-- Every entry changed with its key in view. -/
def KMap.mapKV {α β : Type} (m : KMap α) (f : Nat → α → β) : KMap β := m.map (fun p => (p.1, f p.1 p.2))

/-- The numbers 0 to n − 1. -/
def upTo (n : Nat) : List Nat := List.range n

/-- The element of a list with the least key; the first of several (used for choices that the spec gives to the lower
number). -/
def leastBy {α : Type} (key : α → Nat) (l : List α) : Option α :=
  l.foldl (fun acc x => match acc with | none => some x | some y => if key x < key y then some x else some y) none

/-- The element of a list with the greatest key; the first of several. -/
def greatestBy {α : Type} (key : α → Nat) (l : List α) : Option α :=
  l.foldl (fun acc x => match acc with | none => some x | some y => if key x > key y then some x else some y) none

/-- The list without duplicates, the first of equals kept. -/
def dedupNat (l : List Nat) : List Nat := l.foldl (fun acc x => if acc.contains x then acc else acc ++ [x]) []

/-- Ascending insertion by a key, after equal keys. -/
def insertBy {α : Type} (key : α → Nat) (x : α) : List α → List α
  | [] => [x]
  | y :: r => if key x < key y then x :: y :: r else y :: insertBy key x r

/-- Stable ascending order by a key. -/
def sortBy {α : Type} (key : α → Nat) (l : List α) : List α := l.foldl (fun acc x => insertBy key x acc) []

/-- The natural number whose little-endian bytes are the list (R3). -/
def leNat : List Byte → Nat
  | [] => 0
  | b :: r => b.toNat + 256 * leNat r

/-- n little-endian bytes of a number (R3). -/
def leBytes : Nat → Nat → List Byte
  | 0, _ => []
  | n + 1, x => BitVec.ofNat 8 x :: leBytes n (x / 256)

/-- Bits hi to lo of a number. -/
def bitsOf (x hi lo : Nat) : Nat := (x / 2 ^ lo) % 2 ^ (hi + 1 - lo)

/-- One bit of a number. -/
def bitOf (x i : Nat) : Bool := (x / 2 ^ i) % 2 = 1

/-- 1 for true. -/
def b2n (b : Bool) : Nat := if b then 1 else 0

/-- The quotient rounded up. -/
def ceilDiv (a b : Nat) : Nat := (a + b - 1) / b

/-- All ones in n bits. -/
def allOnesNat (n : Nat) : Nat := 2 ^ n - 1

/-- One step of CRC-32C over a bit (reflected polynomial 0x82F63B78). -/
def crcBit (c : Nat) : Nat := if c % 2 = 1 then (c / 2) ^^^ 0x82F63B78 else c / 2

/-- One step of CRC-32C over a byte. -/
def crcByte (c : Nat) (b : Byte) : Nat :=
  let c := c ^^^ b.toNat
  crcBit (crcBit (crcBit (crcBit (crcBit (crcBit (crcBit (crcBit c)))))))

/-- CRC-32C with initial value 0xFFFF_FFFF and a final complement (R84, R180). -/
def crc32c (l : List Byte) : Nat := (l.foldl crcByte 0xFFFFFFFF) ^^^ 0xFFFFFFFF

end Sys2Proof
end

