-- ==== Sys2Proof/Config.lean ====
section
/-! DEFINITION. What the spec leaves open and the machine goes on with: the free values. Each is an opaque function of a
draw number (State.free counts the draws), so that nothing in Lean can evaluate it. -/

namespace Sys2Proof.Config

/-- DESIGN CHOICE (log entry 5): the value that a draw gives where the spec leaves a 64-bit value open. -/
opaque freeWord : Nat → BitVec 64

/-- DESIGN CHOICE (log entry 5): the choice that a draw makes where the spec allows several orders or outcomes. -/
opaque freeChoice : Nat → Nat

/-- DESIGN CHOICE (log entry 5): the row of its stack in which a line of local HBM stands; the spec does not give rows. -/
opaque rowOf : Nat → Nat

/-- DESIGN CHOICE (log entry 5): the rows of a stack, numbered from 0; every row of a line lies below it. -/
opaque rows : Nat

/-- DESIGN CHOICE (log entry 5): what the scrubber's read of a line of a stack at a tick finds (R145): modulo 3, no error, a
correctable one, or one that cannot be corrected. -/
opaque scrubFinds : Nat → Nat → Nat

/-- DESIGN CHOICE (log entry 5): does a row that was never entered test as found in a filter of a stack (R144: a false
positive; filter 0 is the fast one, 1 the middle one)? -/
opaque filterHit : Nat → Nat → Nat → Bool

/-- DESIGN CHOICE (log entry 5): the rows that the retention test of a boot enters in a filter of a stack (R144). -/
opaque weakRows : Nat → Nat → List Nat

/-- DESIGN CHOICE (log entry 5): the hash of PA[15:6] by which a port of a route is chosen (R258). -/
opaque portHash : Nat → Nat

/-- DESIGN CHOICE (log entry 5): the rate that the management controller sets for a fabric die as it starts the firmware: modulo
18, the steps of 100 MHz above 1.0 GHz (R14). -/
opaque fabricRate : Nat → Nat

/-- DESIGN CHOICE (log entry 4): do both signatures of a firmware image verify (R277)? -/
opaque imageSigned : List (BitVec 8) → Bool

/-- DESIGN CHOICE (log entry 4): the signed security version of a firmware image (R277). -/
opaque imageSvn : List (BitVec 8) → Nat

/-- DESIGN CHOICE (log entry 4): do both signatures of a configuration record verify (R277)? -/
opaque recordSigned : List (BitVec 8) → Bool

/-- DESIGN CHOICE (log entry 4): the signed security version of a configuration record (R277). -/
opaque recordSvn : List (BitVec 8) → Nat

/-- DESIGN CHOICE (log entry 4): is the part that a configuration record names a Z240 (R278)? -/
opaque recordZ240 : List (BitVec 8) → Bool

/-- DESIGN CHOICE (log entry 4): the fabric dies that a configuration record does not enable (R278). -/
opaque recordDisabled : List (BitVec 8) → List Nat

/-- DESIGN CHOICE (log entry 4): SHA-384 (R281), left uninterpreted. -/
opaque sha384 : List (BitVec 8) → BitVec 384

/-- DESIGN CHOICE (log entry 4): the contents of CD's ROM (R276). -/
opaque rom : List (BitVec 8)

/-- DESIGN CHOICE (log entry 4): the contents of the configuration record at reset (R278). -/
opaque record : List (BitVec 8)

end Sys2Proof.Config
end

