-- ==== Sys2Proof/Machine/State.lean ====
section
/-! DEFINITION. The state of the part as plain data: every piece of state the spec gives the machine, the outcomes a step
can have, and the state after reset. Sparse data are keyed lists in ascending order of the key whose unlisted entries hold
the reset value of the entry. -/

namespace Sys2Proof.Machine

/-! ## Tokens and tiles (03) -/

/-- The BURST field of a token tag (Table 3.1). -/
inductive Burst
  | none | head | body | tail
  deriving DecidableEq, Repr

/-- A token: the data part and the tag of Table 3.1. KIND is eos; SLOT is the thread's key on its core, 0 to 4095 for a
slot and 4096 + j for the handler thread of handler slot j. deps is the model's own record of the accesses of the thread's
execution whose result the token's value depends on (R137). fixed marks a constant (LIT or ZERO), which has the tag of the
streamed operand but serves as a 64-bit operand (R56, R286). -/
structure Token where
  data : Beat := 0
  die : Nat := 0
  deferred : Bool := false
  burst : Burst := .none
  fmt : Fmt := .int
  pred : Bool := true
  iter : BitVec 8 := 0
  slot : Nat := 0
  eos : Bool := false
  deps : List Nat := []
  fixed : Bool := false
  deriving DecidableEq, Repr

/-- A token on a channel or in a queue with the fabric cycle from which it is present (R55). retried marks a token that the
mismatch slot has returned to its port (R70). -/
structure Arrival where
  tok : Token
  cycle : Nat
  retried : Bool := false
  deriving DecidableEq, Repr

/-- The operand side of a slot. -/
inductive Side
  | a | b | third
  deriving DecidableEq, Repr

/-- What an entry of the matching store holds (Table 10.5): an operand, a sticky operand, a FIRST marker, a beat of an open
WHOLE burst. -/
inductive EntryKind
  | operand | sticky | marker | whole
  deriving DecidableEq, Repr

/-- An entry of the matching store (R60). seq orders arrivals; uses counts the firings of a sticky operand (R63, PURGE);
port is the channel or queue a token diverted to the mismatch slot came from. -/
structure Entry where
  slot : Nat
  side : Side
  kind : EntryKind
  tok : Token
  cycle : Nat
  seq : Nat
  uses : Nat := 0
  port : Option Nat := Option.none
  deriving DecidableEq, Repr

/-- A slot's word and its literal (R74). -/
structure SlotBits where
  word : BitVec 32
  lit : BitVec 32
  deriving DecidableEq, Repr

/-- A rectangle of tiles: north-west corner and shape (R30). -/
structure Rect where
  x : Nat
  y : Nat
  w : Nat
  h : Nat
  deriving DecidableEq, Repr

/-- A configuration plane (R13): its configured slots, the block it belongs to, the region's rectangle, the declared depths
and producer counts of its input channels (R71) and its mismatch slot (R70). mirrored marks a handler plane on column 7
whose W selects are read as E (R207). An empty plane has no slots and no block. -/
structure Plane where
  slots : KMap SlotBits := []
  image : Nat := 0
  block : Option Nat := Option.none
  rect : Rect := ⟨0, 0, 0, 0⟩
  depths : KMap Nat := []
  producers : KMap Nat := []
  mismatch : Option Nat := Option.none
  handler : Bool := false
  mirrored : Bool := false
  deriving DecidableEq, Repr

/-- A side of a thread's ISECT streams that has ended (R65). -/
structure IsectEnd where
  slot : Nat
  thread : Nat
  side : Side
  deriving DecidableEq, Repr

/-- A plane and all that belongs to it while it is active: the matching store, the channels' and queues' contents, the EOS
received (R72), the ISECT streams that have ended, and under the code of a destination the cycle in which it last took a
token, where it takes one in each cycle (R53, R126). -/
structure PlaneCtx where
  plane : Plane := {}
  store : List Entry := []
  chans : KMap (List Arrival) := []
  queues : KMap (List Arrival) := []
  eos : KMap Nat := []
  ends : List IsectEnd := []
  busyDst : KMap Nat := []
  deriving DecidableEq, Repr

/-- Where a firing stands: core, tile 8y + x, slot, and whether it fires from the handler context (R207). -/
structure Site where
  core : Nat
  tile : Nat
  slot : Nat
  handler : Bool := false
  deriving DecidableEq, Repr

/-- The operand set that the firing now executed has consumed: the tokens of A, B and the third operand (a burst is the
list of its beats), the wait of its first operand in cycles (R273), the cycle in which operand A was complete (R127), and
the port that diverted the token of the mismatch slot (R70). -/
structure Firing where
  site : Site
  bits : SlotBits
  a : List Token
  b : List Token := []
  q : List Token := []
  waited : Nat := 0
  arrived : Nat := 0
  port : Option Nat := Option.none
  trace : Option Nat := Option.none
  deriving DecidableEq, Repr

/-- Why a tile is frozen (R199): the fault code, the plane, the operand set held for it, and the channel of R57. atEos
marks a STRAY raised by the check of R73; cycle is that of the freeze. -/
structure Freeze where
  code : Nat
  site : Site
  held : Option Firing := Option.none
  token : Option Token := Option.none
  channel : Nat := 15
  atEos : Bool := false
  block : Option Nat := Option.none
  cycle : Nat := 0
  deriving DecidableEq, Repr

/-- A row taken by MMA and waiting for its step (R119, R122): its beats, the window row, the pass, the cycle its tail arrived
and the cycle its MMA fired. -/
structure MatRow where
  beats : List Token
  window : Nat
  pass : Nat
  arrived : Nat
  fired : Nat
  deriving DecidableEq, Repr

/-- The matrix unit (Table 6.1): accumulator entries under row * 16 + j, rows with DEF set, flag word, column store, row
queue and section registers. colPart holds the beats of the columns whose tails have not arrived. -/
structure Matrix where
  acc : KMap (BitVec 36) := []
  defs : List Nat := []
  flags : BitVec 6 := 0
  cols : List (List Token) := []
  colPart : List Token := []
  rows : List MatRow := []
  armed : Bool := false
  mode : BitVec 2 := 0
  subs : BitVec 2 := 0
  clr : Bool := false
  ncol : Nat := 0
  wrows : Nat := 0
  rowbase : Nat := 0
  rem : Nat := 0
  total : Nat := 0
  pass : KMap Nat := []
  stepped : KMap Nat := []
  setPass : Nat := 0
  stepUntil : Nat := 0
  arming : Option Token := Option.none
  armSlot : Nat := 0
  deriving DecidableEq, Repr

/-- A token of a result that has not left yet: the destination's code, and the code of the destination whose last token it
leaves with (Table 8.3: the completion token of a burst load). first marks a repair that leaves before the tile fires
(R209). -/
structure PendingEmit where
  dst : Nat
  tok : Token
  behind : Option Nat := Option.none
  first : Bool := false
  deriving DecidableEq, Repr

/-- A tile (R13): the active plane with its contents, the shadow plane, the handler context of a frozen region, the fault
that freezes it, its last firing's cycle, the wait histograms (R273), spill records waiting for a place, the count of
ISECT discards (R65), results waiting to leave, and the matrix unit of a C-tile. -/
structure Tile where
  main : PlaneCtx := {}
  shadow : Option Plane := Option.none
  hctx : Option PlaneCtx := Option.none
  frozen : Option Freeze := Option.none
  firedAt : Option Nat := Option.none
  hist : KMap (BitVec 32) := []
  spills : List (Nat × Word) := []
  discarded : Nat := 0
  pendingEmits : List PendingEmit := []
  mx : Matrix := {}
  deriving DecidableEq, Repr

/-! ## Fault records (10) -/

/-- A fault record (Table 10.2). Fields that do not apply are none and read all ones; words holds the data words of a
KIND 4 record. -/
structure Record where
  code : Nat
  kind : Nat
  hlp : Bool := false
  core : Option Nat := Option.none
  tile : Option Nat := Option.none
  slot : Option Nat := Option.none
  plane : Option Nat := Option.none
  seq : BitVec 32 := 0
  team : Option Nat := Option.none
  tid : Option Nat := Option.none
  htid : Option Nat := Option.none
  block : Option Nat := Option.none
  bits : Option SlotBits := Option.none
  addr : Word := BitVec.allOnes 64
  time : Word := 0
  info : Word := 0
  queue : Option Nat := Option.none
  gen : Option (BitVec 16) := Option.none
  aspace : Option Nat := Option.none
  nops : Nat := 0
  nt : Bool := false
  nb : Bool := false
  oplist : Word := 0
  words : List Word := []
  deriving DecidableEq, Repr

/-! ## Threads, executions and accesses (02, 07, 08) -/

/-- What a thread slot does (Table 2.3). A slot that serves as a helper keeps HELPER as its slot state in Thread.helper and
what it does here. -/
inductive TState
  | vacant | waiting | running | sleeping | barwait | joining | layerwait | parked | trapped | exited
  deriving DecidableEq, Repr

/-- What a thread in SLEEPING, BARWAIT, JOINING or LAYERWAIT waits for. -/
inductive Wait
  | tick (t : Tick)
  | promise (t : Tick) (id : Word) (reg : Nat) (scope : Scope)
  | barrier (n : Nat) (phase : BitVec 32)
  | joinOf (mreg : Nat)
  | layer (n : Nat)
  | retryAt (t : Tick)
  | layerAt (t : Tick) (n : Nat)
  deriving DecidableEq, Repr

/-- A helper's place in its recruitment: the recruiter's $tid and the index (R228). -/
structure HelperId where
  recruiter : Nat
  index : Nat
  release : Bool := false
  deriving DecidableEq, Repr

/-- A buffered entry of the store buffer (R36): bytes by single-copy-atomic unit (and whether each stage word they cover
becomes full), stage words to empty, a line fill or copy, a register, or nothing (a bubble's report). -/
inductive BufKind
  | bytes (units : List (List Host.Cell)) (setFull : Bool) (whole : List Nat)
  | empties (words : List Nat)
  | fill (line : Nat) (v : Word)
  | lineCopy (dst src : Nat)
  | reg (n : Nat) (v : Word)
  deriving DecidableEq, Repr

/-- One buffered entry with its wave number, its number in the execution, the accesses its operands depend on and its
release scope. -/
structure Buffered where
  id : Nat
  own : Option Nat
  deps : List Nat
  kind : BufKind
  rel : Option Scope := Option.none
  mode : Nat := 0
  deriving DecidableEq, Repr

/-- A report to the order unit (R138): wave numbers, the access's number, and once placed the numbers of the accesses before
it on the chain. -/
structure Report where
  own : Nat
  pred : Nat
  succ : Nat
  id : Nat
  before : Option (List Nat) := Option.none
  deriving DecidableEq, Repr

/-- An exit that has reached the Dealer (R32, R34): the site, whether it fired true, whether it was deferred, the next block
(none for EXIT). -/
structure ExitSeen where
  site : Site
  bits : SlotBits
  fired : Bool
  deferred : Bool
  next : Option Word
  code : Nat := 0
  deriving DecidableEq, Repr

/-- Actions that perform at commit (R37), in firing order. -/
inductive CommitAct
  | arrive (n : Nat) (phase : BitVec 32)
  | barWait (n : Nat) (phase : BitVec 32)
  | sleep (v : Word) (abs : Bool)
  | waitt (id : Word) (reg : Nat)
  | copy (pd engine count : Nat)
  | recruit
  | hjoin (mreg : Nat)
  | hred (v : Word)
  | hend
  | waitly (layer : Word)
  | lyrel (layer : Word)
  | yield
  | cfginv (va : Word) (scope : InvScope)
  | eosi (region : Nat)
  | trprep (kind : RepairKind) (data : Beat) (desc : Word)
  | trret (action blk : Nat) (arg : Word)
  deriving DecidableEq, Repr

/-- A deferrable fault found in an execution (R135, R197). -/
structure FaultSeen where
  code : Nat
  site : Site
  bits : SlotBits
  addr : Word
  info : Word
  time : Tick
  deriving DecidableEq, Repr

/-- One execution of a block by a thread (R36): everything held until its exit. freed says that its last entry has been
released and its store-buffer space with it, while the actions of its commit still wait (R37). -/
structure Exec where
  image : Nat
  block : Nat
  region : Nat
  buffered : List Buffered := []
  reports : List Report := []
  exits : List ExitSeen := []
  faults : List FaultSeen := []
  sentFault : Bool := false
  pend : BitVec 6 := 0
  cleared : BitVec 6 := 0
  acts : List CommitAct := []
  atomic : Bool := false
  nextId : Nat := 0
  setResv : Bool := false
  ldfEnded : Bool := false
  relDone : Bool := false
  bad : List Nat := []
  fences : List (Nat × Scope) := []
  freed : Bool := false
  deriving DecidableEq, Repr

/-- A reservation: granule and the tick of the LL (R164). -/
structure Resv where
  granule : Nat
  tick : Tick
  deriving DecidableEq, Repr

/-- A thread slot, or a handler thread, of a core. replay names the page requests of its abandoned block, pageRec their records,
and denied the first of them that was denied (R211, R213). -/
structure Thread where
  st : TState := .vacant
  team : Nat := 0
  tid : Nat := 0
  nregs : Nat := 0
  regs : KMap Word := []
  poison : List Nat := []
  fpflags : BitVec 6 := 0
  next : Nat := 0
  cls : Nat := 1
  spinB : Option Nat := Option.none
  spinH : BitVec 32 := 0
  spinN : Nat := 0
  due : Option Tick := Option.none
  lastInj : Tick := 0
  resv : Option Resv := Option.none
  hold : Option Resv := Option.none
  failed : Nat := 0
  wait : Option Wait := Option.none
  helper : Option HelperId := Option.none
  reserved : Bool := false
  replay : List Nat := []
  denied : Option Nat := Option.none
  pageRec : KMap Record := []
  queued : Bool := false
  yielded : Bool := false
  lastRegion : Nat := 0
  fence : Option Scope := Option.none
  exec : Option Exec := Option.none
  deriving DecidableEq, Repr

/-- What an outstanding access waits for: a translation walk (R149), the check that follows it, the report of a walk that
ended in XLATE, or its reply (R153). An atomic sent to another package waits for the old value of its unit, which it has
once answered (R259). -/
inductive AccessStage
  | walk (page : Nat) | recheck | xlate (va : Nat) | reply | remote | answered (old : Nat) (poisoned : Bool)
  deriving DecidableEq, Repr

/-- An access that has fired and not yet emitted its result: its number in the execution, its thread, its operands, the
physical address and page mode of each of its bytes once the checks have passed, the fabric cycle before which no reply
comes, the tick at which an LDF gives up, and the port that diverted the token of the mismatch slot (R70). -/
structure Access where
  id : Nat
  thread : Nat
  site : Site
  bits : SlotBits
  a : List Token
  b : List Token
  q : List Token
  stage : AccessStage
  due : Nat
  fired : Tick
  deadline : Option Tick := Option.none
  bytes : List (Nat × Nat) := []
  port : Option Nat := Option.none
  trace : Option Nat := Option.none
  deriving DecidableEq, Repr

/-! ## Traps (10) -/

/-- An entry of the operand list (Table 10.5). -/
structure OpItem where
  tok : Token
  loc : Nat
  index : Nat
  side : Nat
  slot : Nat
  deriving DecidableEq, Repr

/-- Kinds of trap (R199). -/
inductive TrapKind
  | exit | wait | freezing
  deriving DecidableEq, Repr

/-- A repair recorded by a handler (R209). -/
structure Repair where
  kind : RepairKind
  data : Beat
  desc : Word
  deriving DecidableEq, Repr

/-- A trap (R206): its record and operand list, the trapped thread or frozen tile, whether an atomic had performed (R39),
whether it has been raised to system software, whether its handler thread runs, the repairs recorded, the image and
address space that its handler thread keeps from its start, whether it is one for system software alone (R206: no handler block
or no handler image when it occurred), and whether its thread, a helper, has been force-released since (R234). -/
structure Trap where
  record : Record
  ops : List OpItem := []
  kind : TrapKind
  thread : Option Nat := Option.none
  tile : Nat := 0
  region : Nat := 0
  ctxHandler : Bool := false
  afterAtomic : Bool := false
  raised : Bool := false
  running : Bool := false
  repairs : List Repair := []
  dropped : List Nat := []
  performed : Bool := false
  team : Option Nat := Option.none
  waitOf : Option Wait := Option.none
  img : Option (Nat × Nat) := Option.none
  toSystem : Bool := false
  void : Bool := false
  deriving DecidableEq, Repr

/-! ## Teams and grids (02, 09, 11) -/

/-- A barrier (R185): phase, members that have arrived (under rank * 4096 + tid), the watchdog's count and whether HANG has
been raised for the phase (R187). -/
structure Barrier where
  phase : BitVec 32 := 0
  arrived : List Nat := []
  count : Tick := 0
  hung : Bool := false
  deriving DecidableEq, Repr

/-- A recruitment (R225), opened by its RECRUIT's commit. Helper slots by $tid in index order. -/
structure Recruitment where
  reg : Nat
  fop : FoldOp
  hblk : Nat
  slots : List Nat
  arg : Word
  opened : Bool := false
  orphan : Bool := false
  done : List Nat := []
  released : List Nat := []
  contrib : KMap Word := []
  deriving DecidableEq, Repr

/-- A parked hand (R211): since when, and the page requests that hold one of its faults. -/
structure Park where
  since : Tick
  requests : List Nat
  deriving DecidableEq, Repr

/-- A team marked for swapping (R214): when, from when its bound counts, the bound of R222 at that moment, and the die's count
of slow ticks then. -/
structure Mark where
  tick : Tick
  restart : Tick
  bound : Tick
  slow : Tick := 0
  deriving DecidableEq, Repr

/-- A team of a grid that has been admitted. core is none while it is swapped out; saved then holds its threads by $tid and
area the save area; kept holds by $tid the traps of R39 that its threads take along, since their blocks have committed. context is
the die context that a pre-emption saved it in; bases then stay for the restore. -/
structure Team where
  grid : Nat
  index : Nat
  rank : Nat
  core : Option Nat
  hands : Nat
  bases : List Nat := []
  bars : KMap Barrier := []
  uses : KMap Nat := []
  recs : KMap Recruitment := []
  parks : KMap Park := []
  mark : Option Mark := Option.none
  unmarkable : Bool := false
  area : Option Nat := Option.none
  saved : KMap Thread := []
  kept : KMap Trap := []
  discard : Bool := false
  readmitAt : Option Tick := Option.none
  retired : Bool := false
  context : Option Nat := Option.none
  deriving DecidableEq, Repr

/-- A grid that a DISPATCH packet has begun (R190). -/
structure Grid where
  queue : Nat
  packet : Nat
  pkt : Nat := 0
  gen : BitVec 16
  seed : Word
  image : Nat
  aspace : Nat
  teams : Nat
  cw : Nat
  ch : Nat
  hands : Nat
  nregs : Nat
  param : Word
  doneVa : Word
  va : Nat
  ctx : Option Nat
  norcr : Bool
  retired : Nat := 0
  aborted : Bool := false
  imgErr : Bool := false
  complete : Bool := false
  clusterBars : KMap (KMap Barrier) := []
  deriving DecidableEq, Repr

/-- Where a launch packet stands (R42 to R47, R190). -/
inductive PktState
  | read | imaged | begun | complete
  deriving DecidableEq, Repr

/-- A launch packet that has been read: its index in the ring and its key, which counts the packets of the queue over all its
enablings; seen are the wait signals in semaphores that it has examined for the first time (R196). -/
structure Packet where
  index : Nat
  key : Nat := 0
  va : Nat
  words : List Word
  gen : BitVec 16
  seed : Word
  st : PktState := .read
  image : Option Nat := Option.none
  grid : Option Nat := Option.none
  satisfied : List Nat := []
  failedWait : Bool := false
  seen : List Nat := []
  deriving DecidableEq, Repr

/-- A launch queue beyond its RW registers (Table 9.3): base is the key of packet 0 of the present enabling, and opened says
whether EN has been set since reset: IDLE reads 0 before (log entry 48). -/
structure Queue where
  accepted : Nat := 0
  head : Nat := 0
  gen : BitVec 16 := 0
  tear : Nat := 0
  base : Nat := 0
  opened : Bool := false
  packets : KMap Packet := []
  deriving DecidableEq, Repr

/-- A die's share of a begun grid: team or cluster indices not yet admitted, ascending (R193). -/
structure Share where
  grid : Nat
  units : List Nat
  deriving DecidableEq, Repr

/-- A Distributor (R193 to R195): its shares in the order the grids began, its outstanding steal request, and the state of
pre-emption of its die (R220, R221). slow counts the ticks in which a host or pool access of the die was out for more than
4 µs, up to slowTo; slowAt is that count when the bound began (R222). -/
structure Dist where
  shares : List Share := []
  steal : Option Nat := Option.none
  preempting : Bool := false
  refused : Bool := false
  restoring : Bool := false
  writtenAt : Tick := 0
  bound : Tick := 0
  parg : Nat := 0
  slow : Tick := 0
  slowTo : Tick := 0
  slowAt : Tick := 0
  deriving DecidableEq, Repr

/-! ## Cores (02, 09, 10) -/

/-- The block a region has configured (R176): image, block, the batch not yet injected, the injection count, whether the round
is one of class 0, and the class-0 threads that waited on the region at the choice (R175). -/
structure Batch where
  image : Nat
  block : Nat
  batch : List Nat
  injected : Nat := 0
  class0 : Bool := false
  known : List Nat := []
  deriving DecidableEq, Repr

/-- A plane load under way (R179): the block, the tiles whose plane is still to come, the cycle of the next group, and from its
first group on the planes that it brings, which no invalidation changes (R91). -/
structure PlaneLoad where
  image : Nat
  block : Nat
  tiles : List Nat
  first : Bool
  cycle : Nat
  planes : Option (KMap Plane) := Option.none
  deriving DecidableEq, Repr

/-- A region of a core (R30, R172 to R179): its batch, entry queue, last injection of EOS, whether it is marked idle, the
window in force, the plane loads in the order of their rounds, the cycle of the last injection (R177), frozen handler order and
whether it is held by a pre-emption. -/
structure Region where
  batch : Option Batch := Option.none
  entry : List Nat := []
  chooseAt : Option Nat := Option.none
  idle : Bool := true
  window : Nat := 64
  loads : List PlaneLoad := []
  lastInj : Option Nat := Option.none
  displaced : List (Nat × Plane) := []
  hplane : Option Nat := Option.none
  held : Bool := false
  deriving DecidableEq, Repr

/-- An entry of the block table (R31): image, block, age and promotion (R174). -/
structure BlockEntry where
  image : Nat
  block : Nat
  age : Nat := 0
  promoted : Bool := false
  deriving DecidableEq, Repr

/-- A fault token on the exception network (R197): the thread's execution or a frozen tile. -/
structure FaultTok where
  code : Nat
  thread : Option Nat
  tile : Option Nat
  kind : TrapKind
  record : Record
  afterAtomic : Bool := false
  waitOf : Option Wait := Option.none
  ctxHandler : Bool := false
  deriving DecidableEq, Repr

/-- A core, and what a die context keeps of one (R221): its layout, whether its configuration cache is degraded (R264), the
block table, regions, threads and handler threads, tiles, outstanding accesses, fault tokens, traps that wait for a slot, the
handler slots, and the store-buffer places that executions have taken (R40). -/
structure Core where
  layout : Option (List Rect) := Option.none
  degraded : Bool := false
  blocks : List BlockEntry := []
  regions : KMap Region := []
  threads : KMap Thread := []
  tiles : KMap Tile := []
  accesses : KMap Access := []
  faultNet : List FaultTok := []
  traps : List Trap := []
  hslots : KMap Trap := []
  bufUsed : Nat := 0
  deriving DecidableEq, Repr

/-! ## Control registers -/

/-- The control registers, by the tables that name them. -/
inductive RegName
  | tmbNow | tmbView | tmbLoss | srdSeed | stgCarve | stgStat | stgErr | hbmScrub | hbmBins | mmuRoot | mmuInv
  | mmuInvstat | mmuInverr | dlrInjwin | dlrSpinPeriod | barWdt | lqBase | lqCtl | lqDoorbell | lqHead | lqGen
  | lqTear | lqStat | lqErr | dstMode | dstErr | dstSem | fstQbase | fstQctl | fstQtail | fstQhead | fstPgdone
  | fstHimg | fstRecbase | fstRarg | fstResolve | fstErr | fstHstat | dlrParklim | dlrSavebase | dlrSaven |
  dlrSaveuse | dlrParg | dlrPreempt | dlrRestore | dlrPstat | chrCtxd | chrCtl | chrPrio | chrFlags |
  chrFramebase | chrFramen | chrFree | chrReset | chrStat | chrErr | mmuPgmode | mmuPgstat | zlkId | zlkPort |
  zlkRoute | cxpPmbase | cxpPmctl | cxpTmo | cxpPpfocc | cxpLink | elgBase | elgCtl | elgTail | elgHead |
  elgLost | dbgStop | dbgResume | dbgStep | dbgStat | dbgListbase | dbgAccrd | dbgStoppkt | dbgBrk | dbgTrbase
  | dbgTrctl | dbgTrlost | dbgTrtail | dbgTrhead | pmcSpill | pmcHsel | pmcSptail | pmcSphead | pmcHbin |
  rplCtl | rplBase | rplLast | rplStart | secStat | secAlarmact | secAlarm | secSvn
  deriving DecidableEq, Repr

/-! ## Memory, translation and coherence (07, 12) -/

/-- A 4-byte word of a core's L1 (Table 7.4): held valid, registered or not. stamp is the model's own number of the load
that bound an unregistered word: words of one stamp were read in one step (R167). -/
structure L1Word where
  data : BitVec 32
  registered : Bool
  stamp : Nat := 0
  deriving DecidableEq, Repr

/-- MOESIL states of a line at a non-home node (Table 12.1); I is the absence of the line. -/
inductive LineState
  | m | o | e | s | l
  deriving DecidableEq, Repr

/-- A line in the L2 of a non-home node (R246, R248): state, data, expiry of a lease, poison bit (R260). -/
structure L2Line where
  st : LineState
  data : BitVec 512
  expiry : Tick := 0
  poison : Bool := false
  deriving DecidableEq, Repr

/-- HOST field of a directory entry (R247). -/
inductive HostShare
  | none | s | a
  deriving DecidableEq, Repr

/-- A directory entry (R247): OWNER, H, K, HOST, and which node last held a lease that no write has followed (R249's
renewal). -/
structure DirEntry where
  owner : Option Nat := Option.none
  h : Tick := 0
  k : Nat := 0
  host : HostShare := .none
  leased : List (Nat × Tick) := []
  deriving DecidableEq, Repr

/-- What a request to a home asks (R248, R249); uncached is the read of a MODE 0b01 page at the home (R252). -/
inductive ReqKind
  | readShared | readOwn | homeWrite | hostOwn | uncached
  deriving DecidableEq, Repr

/-- A request waiting at a home (R248). mode2 says that the page of the access has MODE 0b10 (R249, R252). -/
structure LineReq where
  line : Nat
  node : Nat
  kind : ReqKind
  mode2 : Bool := false
  deriving DecidableEq, Repr

/-- A committed write that has not yet performed for agents outside its node (R250). poison is the poison that it leaves on
the line, where it clears or creates any (R261). -/
structure Unperf where
  line : Nat
  node : Nat
  core : Nat
  thread : Nat
  team : Nat
  poison : Option Bool := Option.none
  deriving DecidableEq, Repr

/-- A committed write that waits: a release at DEVICE or SYSTEM scope behind unperformed writes (R157, R250), or a write
behind another thread's hold (R165). -/
structure HeldWrite where
  core : Nat
  thread : Nat
  team : Nat
  kind : BufKind
  rel : Option Scope
  mode : Nat
  deriving DecidableEq, Repr

/-- The internal home's copy of a host, pool or domain line toward its outside home (R246): M, E or S; the data are the
bytes of memory at the line's address. -/
structure OuterLine where
  st : LineState
  deriving DecidableEq, Repr

/-- A request to an outside home that has no answer yet (R255, R263). -/
structure OuterReq where
  line : Nat
  own : Bool
  since : Tick
  deriving DecidableEq, Repr

/-- Coherence beyond the words of memory (08, 12). -/
structure Coh where
  l1 : KMap (KMap L1Word) := []
  l2 : KMap (KMap L2Line) := []
  dir : KMap DirEntry := []
  spill : KMap Tick := []
  reqs : List LineReq := []
  unperf : List Unperf := []
  held : List HeldWrite := []
  outer : KMap OuterLine := []
  outerReqs : List OuterReq := []
  hostPages : List Nat := []
  hostLines : List Nat := []
  writes : List OuterReq := []
  conflicts : List Nat := []
  presence : List Nat := []
  sharers : KMap (List Nat) := []
  snoops : List (Nat × Bool) := []
  stamp : Nat := 0
  deriving DecidableEq, Repr

/-- A cached translation (R149): address space, first VA and size of the page, the leaf entry. -/
structure Tlb where
  aspace : Nat
  va : Nat
  size : Nat
  leaf : Word
  deriving DecidableEq, Repr

/-- A walk in progress or waiting for a walker (R149): port die, address space, 64 KiB page, the root it began with. -/
structure Walk where
  id : Nat
  pd : Nat
  aspace : Nat
  page : Nat
  root : Word
  waiters : List (Nat × Nat) := []
  deriving DecidableEq, Repr

/-- An invalidation in progress (R150): the value written, the walks that had begun, and once these have ended and the
translations are dropped, the executions whose buffered stores must still be released or discarded. -/
structure XInv where
  v : Word
  walks : List Nat
  stores : Option (List (Nat × Nat × Nat)) := Option.none
  deriving DecidableEq, Repr

/-- Translation state beyond the MMU registers (R149, R150, R253). -/
structure Mmu where
  coreTlb : KMap (List Tlb) := []
  dieTlb : KMap (List Tlb) := []
  upper : KMap (List (Nat × Word)) := []
  walks : List Walk := []
  inv : Option XInv := Option.none
  pgmode : Option XInv := Option.none
  pgErr : Bool := false
  deriving DecidableEq, Repr

/-- A port die's stage memory (R142): the carve in force in MiB and a change in progress. -/
structure Stage where
  carve : Nat := 0
  target : Option Nat := Option.none
  deriving DecidableEq, Repr

/-- A stack's refresh and scrub state (R144, R145): rows of the fast and of the middle filter, the temperature bit, rows
recorded for repair, rows refreshed with their tick, the lines scrubbed in this pass, and the tick at which it began. -/
structure Stack where
  fast : List Nat := []
  middle : List Nat := []
  hot : Bool := false
  repair : List Nat := []
  refreshed : KMap Tick := []
  scrubbed : Nat := 0
  passStart : Tick := 0
  deriving DecidableEq, Repr

/-! ## Images (04) -/

/-- A block of a checked image (R85, R86). -/
structure Block where
  region : Nat
  depth : Nat
  ii : Nat
  handler : Bool
  helper : Bool
  waves : Nat
  budget : Nat
  livein : Nat
  linRegs : List Nat
  entries : List (Nat × Nat)
  planes : KMap Plane
  header : List Byte
  deriving DecidableEq, Repr

/-- A checked image of the configuration store (R90, R92): its identity, what its header says, its blocks, the dies whose
store holds a copy, the image's last use and whether a CFGINV has dropped it. copies holds the copy of a die that has reloaded
it alone (R91): its IMGTAG and its blocks; failed says that a reload has failed (R92). -/
structure Image where
  aspace : Nat
  va : Nat
  tag : Word
  size : Nat := 0
  nregs : Nat := 16
  ctx : Option Nat := Option.none
  norcr : Bool := false
  handler : Bool := false
  layout : List Rect := []
  blocks : KMap Block := []
  header : List Byte := []
  table : List Byte := []
  actions : List Byte := []
  dies : List Nat := []
  lastUse : Tick := 0
  dropped : Bool := false
  copies : KMap (Word × KMap Block) := []
  failed : Bool := false
  deriving DecidableEq, Repr

/-- An invalidation of images in progress (R91): the thread that waits and the scope. -/
structure CfgInv where
  id : Nat
  core : Nat
  thread : Nat
  aspace : Nat
  va : Nat
  scope : InvScope
  deriving DecidableEq, Repr

/-! ## Engines, Chrysalis, errors, debug, security (11 to 15) -/

/-- A command of a copy engine (R309 to R312). handed is false from the firing of COPY to the commit; due is its promise; copied
marks a copy that is done but waits for the end of a debugger stop (R267), failed one that met a fault. -/
structure CopyCmd where
  count : Nat
  core : Nat
  thread : Nat
  team : Nat
  tid : Nat
  aspace : Nat
  handler : Bool
  scope : Scope
  src : Word
  dst : Word
  rows : Nat
  len : Nat
  sstride : Nat
  dstride : Nat
  flag : Word
  flagok : Word
  flagerr : Word
  handed : Bool := false
  due : Tick := 0
  copied : Bool := false
  failed : Bool := false
  record : Record
  deriving DecidableEq, Repr

/-- A copy engine (R311, R375): horizon, accepted count, queue, status entries (unlisted: 2, unknown). -/
structure Engine where
  busy : Nat := 0
  count : Nat := 0
  queue : List CopyCmd := []
  status : KMap Nat := []
  deriving DecidableEq, Repr

/-- A layer of a model context (R237): use count, demand's order, frames held, last acquisition or arrival. -/
structure Layer where
  uses : Nat := 0
  demand : Option Nat := Option.none
  frames : List Nat := []
  last : Tick := 0
  deriving DecidableEq, Repr

/-- A fetch of a layer that has begun or waits for frames (R241, R242). -/
structure Fetch where
  ctx : Nat
  layer : Nat
  demand : Bool
  frames : Option (List Nat) := Option.none
  deriving DecidableEq, Repr

/-- Chrysalis (R235 to R244): layers under ctx * 4096 + n, frames in use, fetches, count of demands. -/
structure Chr where
  layers : KMap Layer := []
  used : List Nat := []
  fetches : List Fetch := []
  demands : Nat := 0
  deriving DecidableEq, Repr

/-- A page request (R211): identifier, address space, 64 KiB page, whether Chrysalis answers it and for which layer. -/
structure PageReq where
  id : Nat
  aspace : Nat
  page : Nat
  layer : Option (Nat × Nat) := Option.none
  deriving DecidableEq, Repr

/-- The device's side of the fault station (R200 to R211). -/
structure Station where
  seq : BitVec 32 := 0
  pending : List Record := []
  tail : Nat := 0
  requests : List PageReq := []
  nextReq : Nat := 0
  himage : Option Nat := Option.none
  deriving DecidableEq, Repr

/-- A stop in force (R266). -/
inductive Stop
  | hand (team hand : Nat)
  | team (team : Nat)
  | core (core : Nat)
  | device
  deriving DecidableEq, Repr

/-- A trace record of a tile that waits for its place in the order of the tile's firings (R272): the number of the access whose
result it awaits and the tick of the firing, and once the result is there its words. -/
structure TraceWait where
  core : Nat
  tile : Nat
  access : Option Nat
  time : Tick
  words : List Nat := []
  deriving DecidableEq, Repr

/-- The debug unit, the trace and the spill ring (R266 to R273): the stops in force, SETTLED and STEPNONE, the step asked for,
the thread that a block step lets run, the indices of the two rings, the accumulator row asked for (R271), and the trace
records not yet written, in the order of their firings. -/
structure Dbg where
  stops : List Stop := []
  settled : Bool := false
  stepNone : Bool := false
  stepReq : Option (Nat × Nat) := Option.none
  stepping : Option (Nat × Nat) := Option.none
  trTail : Nat := 0
  trHead : Nat := 0
  spTail : Nat := 0
  spHead : Nat := 0
  accrd : Option (Nat × Nat × Nat) := Option.none
  trWait : List TraceWait := []
  deriving DecidableEq, Repr

/-- An error-log ring beyond its registers (R265). -/
structure Elog where
  seq : BitVec 32 := 0
  tail : Nat := 0
  deriving DecidableEq, Repr

/-- A resource whose check is in its retry, or with lasting set one that has failed for good (R264): SRC of Table 12.9, its
number, and the address or place that was checked. -/
structure Check where
  kind : Nat
  index : Nat
  pa : Nat
  lasting : Bool := false
  deriving DecidableEq, Repr

/-- States of the links (Tables 12.6, 12.7): 0 down, 1 up, 2 degraded; CXL ports 0 to 9, Zelas ports 0 to 23. -/
structure Links where
  cxl : KMap Nat := []
  zelas : KMap Nat := []
  lost : List Nat := []
  deriving DecidableEq, Repr

/-- A management event (R283): its DSEQ and what it reports. -/
inductive MgmtEvent
  | clock (die mhz : Nat)
  | power (watts : Nat)
  | alarm (mask : BitVec 4)
  | dropped (n : Nat)
  deriving DecidableEq, Repr

/-- The non-volatile store and the verdicts of the verifications, which rest on its signed contents (R276 to R280): recordOk and
imageOk say whether both signatures verify, recordSvn and imageSvn are the signed security versions. record is one that a REPROV
has installed. -/
structure Store where
  z240 : Bool := false
  disabled : List Nat := []
  recordOk : Bool := true
  recordSvn : Nat := 0
  imageOk : Bool := true
  imageSvn : Nat := 0
  svn : Nat := 0
  keysOk : Bool := true
  erased : Bool := false
  image : List Byte := []
  record : Option (List Byte) := Option.none
  deriving DecidableEq, Repr

/-- A firmware commit whose write is in progress (R279). -/
structure Commit where
  image : List Byte
  deriving DecidableEq, Repr

/-- The security subsystem, the management controller and the rails (R21 to R23, R276 to R283). -/
structure Sec where
  nv : Store := {}
  stage : Nat := 0
  recovery : Bool := false
  recordValid : Bool := false
  imageVerified : Bool := false
  keys : Bool := false
  held : Bool := false
  railFault : Option Nat := Option.none
  powerLog : List Nat := []
  staging : KMap Byte := []
  commit : Option Commit := Option.none
  e : Nat := 0
  response : List Byte := []
  respEvents : List (Nat × MgmtEvent) := []
  epoch : Nat := 0
  dseq : Nat := 0
  events : List (Nat × MgmtEvent) := []
  limit : Nat := 3000
  below : Nat := 0
  capping : Bool := false
  deriving DecidableEq, Repr

/-- A die's view of time and its clock (R14 to R16). skip counts the ticks by which a copy
that has lost some is still held (a copy never moves backwards). mhz counts steps of 100 MHz; base is the set rate; after reset,
before the management controller sets a rate, both are 2.7 GHz (log entry 42). acc is the model's phase of the fabric clock
within the quantum. -/
structure DieTime where
  copy : Tick := 0
  valid : Bool := false
  synced : Bool := false
  mhz : Nat := 27
  base : Nat := 27
  acc : Nat := 0
  cycle : Nat := 0
  skip : Nat := 0
  deriving DecidableEq, Repr

/-- The time base (R14 to R16): the reference and the dies' copies, 0 to 7 fabric dies, 8 to 11 port dies, 12 CD. -/
structure Time where
  ref : Tick := 0
  acc : Nat := 0
  dies : KMap DieTime := []
  deriving DecidableEq, Repr

/-- What the device sends to the host, the links and the pools, the model's own record of its outputs. -/
inductive HostMsg
  | msix (vector : Nat)
  | bisnp (line : Nat) (data : Bool)
  | snoopRsp (line : Nat) (code : Nat) (data : Option (BitVec 512)) (poisoned : Bool)
  | birsp (line : Nat) (code : Nat)
  | biConflict (line : Nat)
  | cleanEvict (line : Nat) (noData : Bool)
  | memData (line : Nat) (data : BitVec 512) (poisoned : Bool)
  | outerRead (line : Nat) (own : Bool) (port : Option Nat)
  | outerWrite (line : Nat) (data : BitVec 512) (mask : BitVec 64) (poisoned : Bool) (port : Option Nat)
  | outerAtomic (line : Nat) (kind : RemoteKind) (port : Option Nat)
  | atomicData (pkg line : Nat) (old : Word) (poisoned : Bool)
  | mailbox (response : List Byte) (events : List (Nat × MgmtEvent))
  | spdm (request : List Byte) (measurements : List (BitVec 384)) (svn : Nat) (signed : Bool)
  | zelasAck (line : Nat)
  | zelasInv (pkg line : Nat)
  deriving DecidableEq, Repr

/-- Latencies that the spec leaves to the implementation, in fabric cycles, and the entries of a slice's directory (log
entry 6). -/
structure Timing where
  lvs : Nat := 2
  load : Nat := 24
  dirEntries : Nat := 65536
  deriving DecidableEq, Repr

/-- A die context saved by a pre-emption (R221, R223), under the PA of its area: the core of the die, 0 to 31, of each of its
teams, what each core held, and the die's cycle count at the save. -/
structure DieContext where
  teams : KMap Nat := []
  cores : KMap Core := []
  cycle : Nat := 0
  deriving DecidableEq, Repr

/-- What comes next in the order of steps: the firing of a slot of a tile, one row of the table, or (in a replay, R275) the
passing of one quantum of time. -/
inductive Move
  | fire (core tile : Nat) (handler : Bool) (slot : Nat)
  | event (i : Instr)
  | quantum
  deriving DecidableEq, Repr

/-- A checkpoint (R274): the contexts of the dies with their teams, and the memory, as they stood when the device had
drained. -/
structure Ckpt where
  time : Time
  regs : KMap Word
  mem : List Host.Cell
  full : List Nat
  poison : List Nat
  coh : Coh
  mmu : Mmu
  images : KMap Image
  cfgCache : KMap (List (Nat × Nat × Nat))
  queues : KMap Queue
  grids : KMap Grid
  dist : KMap Dist
  teams : KMap Team
  cores : KMap Core
  saves : List Nat
  contexts : KMap DieContext
  engines : KMap Engine
  chr : Chr
  station : Station
  free : Nat
  nextId : Nat
  deriving DecidableEq, Repr

/-- Replay (R274, R275): number of the last checkpoint, the tick of the next, whether the device drains for it, the moves
logged since the last checkpoint and those of the intervals before, the checkpoints, and while a replay runs its number,
the moves still to be taken and the reference at its start. used counts the bytes of the checkpoint area that are taken. -/
structure Rpl where
  last : Nat := 0
  used : Nat := 0
  nextAt : Option Tick := Option.none
  draining : Bool := false
  log : List Move := []
  logs : KMap (List Move) := []
  ckpts : KMap Ckpt := []
  replaying : Option Nat := Option.none
  moves : List Move := []
  startedAt : Tick := 0
  deriving DecidableEq, Repr

end Sys2Proof.Machine

namespace Sys2Proof.Machine

/-- Why the machine stops. Every fault of the part is a next state (a token, a record, a frozen tile, a poisoned line), so
no meaning raises one. -/
inductive Fault
  /-- Raised by no meaning. Safe. -/
  | never
  deriving DecidableEq, Repr

/-- Why a step has no meaning. -/
inductive Refusal
  /-- An instruction whose meaning is not yet written; raised by Dispatch alone. Safe: the machine stops. -/
  | notModelled (mnemonic : String)
  /-- A slot whose word decodes to no instruction, which no plane that the loader has accepted holds (R89); raised by the move
  of a tile in Sched.lean, by no meaning. Safe: the machine stops. -/
  | undecodable (word lit : BitVec 32)
  deriving DecidableEq, Repr

/-- The state of the part. The fields from hostOut on are the model's own (log entry 3). -/
structure State where
  time : Time := {}
  regs : KMap Word := []
  mem : List Host.Cell := []
  full : List Nat := []
  poison : List Nat := []
  failed : List Nat := []
  stage : KMap Stage := []
  hbm : KMap Stack := []
  coh : Coh := {}
  mmu : Mmu := {}
  images : KMap Image := []
  cfgCache : KMap (List (Nat × Nat × Nat)) := []
  invals : List CfgInv := []
  queues : KMap Queue := []
  grids : KMap Grid := []
  dist : KMap Dist := []
  teams : KMap Team := []
  cores : KMap Core := []
  saves : List Nat := []
  contexts : KMap DieContext := []
  engines : KMap Engine := []
  chr : Chr := {}
  station : Station := {}
  links : Links := {}
  elog : Elog := {}
  checks : List Check := []
  dbg : Dbg := {}
  rpl : Rpl := {}
  sec : Sec := {}
  hostOut : List HostMsg := []
  timing : Timing := {}
  agenda : List Move := []
  fires : Bool := false
  waiting : List Move := []
  firing : Option Firing := Option.none
  free : Nat := 0
  nextId : Nat := 0
  deriving DecidableEq, Repr

/-- The machine right after reset: every field at the value that INVENTORY.md names for it. -/
def State.reset : State := {}

end Sys2Proof.Machine
end

