-- ==== Sys2Proof/Machine/Regs.lean ====
section
/-! DEFINITION. The control registers: where each stands (R7, Table 0.4 and the register maps), its access type (R5, Table
0.3), its reset value, which of its bits are not reserved (R6), and the reading and writing of what State.regs holds. -/

namespace Sys2Proof.Machine

/-- Access types (Table 0.3). -/
inductive RegAccess
  | ro | rw | w1c | wo
  deriving DecidableEq, Repr

/-- A register of a map: index of its block in Table 0.4, offset in the window, distance of its instances and their number,
access type, reset value and the bits that are not reserved. -/
structure RegInfo where
  block : Nat
  offset : Nat
  stride : Nat
  count : Nat
  access : RegAccess
  reset : Nat
  mask : Nat
  deriving DecidableEq, Repr

/-- The register maps (Tables 1.4, 5.3, 7.6, 7.7, 7.10, 9.1 to 9.4, 10.7, 10.9, 11.2, 12.3, 12.6, 12.7, 12.10, 13.2, 14.1). -/
def RegName.info : RegName → RegInfo
  | .tmbNow => ⟨0, 0x0, 0x0, 1, .ro, 0x0, 0xFFFFFFFFFFFFFFFF⟩  -- TMB_NOW, Table 1.4
  | .tmbView => ⟨0, 0x8, 0x0, 1, .ro, 0x0, 0x1FFF⟩  -- TMB_VIEW, Table 1.4
  | .tmbLoss => ⟨0, 0x10, 0x0, 1, .w1c, 0x0, 0x1FFF⟩  -- TMB_LOSS, Table 1.4
  | .srdSeed => ⟨1, 0x0, 0x0, 1, .rw, 0x0, 0xFFFFFFFFFFFFFFFF⟩  -- SRD_SEED, Table 5.3
  | .stgCarve => ⟨2, 0x0, 0x8, 4, .rw, 0x0, 0x7F⟩  -- STG_CARVE, Table 7.6
  | .stgStat => ⟨2, 0x20, 0x0, 1, .ro, 0x0, 0xF⟩  -- STG_STAT, Table 7.6
  | .stgErr => ⟨2, 0x28, 0x0, 1, .w1c, 0x0, 0xF⟩  -- STG_ERR, Table 7.6
  | .hbmScrub => ⟨3, 0x0, 0x0, 1, .rw, 0x15180, 0xFFFFFFFF⟩  -- HBM_SCRUB, Table 7.7
  | .hbmBins => ⟨3, 0x8, 0x8, 12, .ro, 0x0, 0xFFFFFFFFFFFF⟩  -- HBM_BINS, Table 7.7
  | .mmuRoot => ⟨4, 0x0, 0x8, 256, .rw, 0x0, 0xFFFFFFFFFF001⟩  -- MMU_ROOT, Table 7.10
  | .mmuInv => ⟨4, 0x800, 0x0, 1, .wo, 0x0, 0xFFFFFFFFFFFFE000⟩  -- MMU_INV, Table 7.10
  | .mmuInvstat => ⟨4, 0x808, 0x0, 1, .ro, 0x0, 0x1⟩  -- MMU_INVSTAT, Table 7.10
  | .mmuInverr => ⟨4, 0x810, 0x0, 1, .w1c, 0x0, 0x1⟩  -- MMU_INVERR, Table 7.10
  | .dlrInjwin => ⟨5, 0x0, 0x0, 1, .rw, 0x40, 0x1FF⟩  -- DLR_INJWIN, Table 9.1
  | .dlrSpinPeriod => ⟨5, 0x8, 0x0, 1, .rw, 0x7D0, 0xFFFFF⟩  -- DLR_SPIN_PERIOD, Table 9.1
  | .barWdt => ⟨6, 0x0, 0x0, 1, .rw, 0x3B9ACA00, 0xFFFFFFFFFFFFFFFF⟩  -- BAR_WDT, Table 9.2
  | .lqBase => ⟨7, 0x0, 0x40, 64, .rw, 0x0, 0x1FFFFFFFFFFF000⟩  -- LQ_BASE, Table 9.3
  | .lqCtl => ⟨7, 0x8, 0x40, 64, .rw, 0x0, 0xFF000000000000EF⟩  -- LQ_CTL, Table 9.3
  | .lqDoorbell => ⟨7, 0x10, 0x40, 64, .wo, 0x0, 0xFFFFFFFFFFFFFFFF⟩  -- LQ_DOORBELL, Table 9.3
  | .lqHead => ⟨7, 0x18, 0x40, 64, .ro, 0x0, 0xFFFFFFFFFFFFFFFF⟩  -- LQ_HEAD, Table 9.3
  | .lqGen => ⟨7, 0x20, 0x40, 64, .ro, 0x0, 0xFFFF⟩  -- LQ_GEN, Table 9.3
  | .lqTear => ⟨7, 0x28, 0x40, 64, .wo, 0x0, 0x3⟩  -- LQ_TEAR, Table 9.3
  | .lqStat => ⟨7, 0x30, 0x40, 64, .ro, 0x0, 0x3⟩  -- LQ_STAT, Table 9.3
  | .lqErr => ⟨7, 0x1000, 0x0, 1, .w1c, 0x0, 0xFFFFFFFFFFFFFFFF⟩  -- LQ_ERR, Table 9.3
  | .dstMode => ⟨8, 0x0, 0x0, 1, .rw, 0x0, 0x1⟩  -- DST_MODE, Table 9.4
  | .dstErr => ⟨8, 0x8, 0x0, 1, .w1c, 0x0, 0x1⟩  -- DST_ERR, Table 9.4
  | .dstSem => ⟨8, 0x10000, 0x8, 256, .rw, 0x0, 0xFFFFFFFFFFFFFFFF⟩  -- DST_SEM, Table 9.4
  | .fstQbase => ⟨9, 0x0, 0x0, 1, .rw, 0x0, 0xFFFFFFFFFF000⟩  -- FST_QBASE, Table 10.7
  | .fstQctl => ⟨9, 0x8, 0x0, 1, .rw, 0x0, 0xFF001F⟩  -- FST_QCTL, Table 10.7
  | .fstQtail => ⟨9, 0x10, 0x0, 1, .ro, 0x0, 0xFFFFFFFFFFFFFFFF⟩  -- FST_QTAIL, Table 10.7
  | .fstQhead => ⟨9, 0x18, 0x0, 1, .rw, 0x0, 0xFFFFFFFFFFFFFFFF⟩  -- FST_QHEAD, Table 10.7
  | .fstPgdone => ⟨9, 0x20, 0x0, 1, .wo, 0x0, 0xC0000000FFFFFFFF⟩  -- FST_PGDONE, Table 10.7
  | .fstHimg => ⟨9, 0x28, 0x0, 1, .rw, 0x0, 0xFF01FFFFFFFFFFFF⟩  -- FST_HIMG, Table 10.7
  | .fstRecbase => ⟨9, 0x30, 0x0, 1, .rw, 0x0, 0x1FFFFFFF8000000⟩  -- FST_RECBASE, Table 10.7
  | .fstRarg => ⟨9, 0x38, 0x0, 1, .rw, 0x0, 0xFFFFFFFFFFFFFFFF⟩  -- FST_RARG, Table 10.7
  | .fstResolve => ⟨9, 0x40, 0x0, 1, .wo, 0x0, 0xFF1F0000FF0F⟩  -- FST_RESOLVE, Table 10.7
  | .fstErr => ⟨9, 0x48, 0x0, 1, .w1c, 0x0, 0xF⟩  -- FST_ERR, Table 10.7
  | .fstHstat => ⟨9, 0x50, 0x0, 1, .ro, 0x0, 0x1⟩  -- FST_HSTAT, Table 10.7
  | .dlrParklim => ⟨5, 0x10, 0x0, 1, .rw, 0x4E20, 0xFFFFFFFF⟩  -- DLR_PARKLIM, Table 10.9
  | .dlrSavebase => ⟨5, 0x18, 0x0, 1, .rw, 0x0, 0xFFFFFFFC00000⟩  -- DLR_SAVEBASE, Table 10.9
  | .dlrSaven => ⟨5, 0x20, 0x0, 1, .rw, 0x0, 0xFFFF⟩  -- DLR_SAVEN, Table 10.9
  | .dlrSaveuse => ⟨5, 0x28, 0x0, 1, .ro, 0x0, 0xFFFF⟩  -- DLR_SAVEUSE, Table 10.9
  | .dlrParg => ⟨5, 0x30, 0x0, 1, .rw, 0x0, 0xFFFFFF8000000⟩  -- DLR_PARG, Table 10.9
  | .dlrPreempt => ⟨5, 0x38, 0x0, 1, .wo, 0x0, 0x7⟩  -- DLR_PREEMPT, Table 10.9
  | .dlrRestore => ⟨5, 0x40, 0x0, 1, .wo, 0x0, 0x7⟩  -- DLR_RESTORE, Table 10.9
  | .dlrPstat => ⟨5, 0x48, 0x0, 1, .ro, 0x0, 0xFFFFFF⟩  -- DLR_PSTAT, Table 10.9
  | .chrCtxd => ⟨10, 0x0, 0x20, 64, .rw, 0x0, 0xFFFFFFFFFFFE0⟩  -- CHR_CTXD, Table 11.2
  | .chrCtl => ⟨10, 0x8, 0x20, 64, .rw, 0x0, 0xFF000FFF00FF0001⟩  -- CHR_CTL, Table 11.2
  | .chrPrio => ⟨10, 0x10, 0x20, 64, .rw, 0x0, 0x7⟩  -- CHR_PRIO, Table 11.2
  | .chrFlags => ⟨10, 0x18, 0x20, 64, .rw, 0x0, 0xFFFFFFFFFFFF8⟩  -- CHR_FLAGS, Table 11.2
  | .chrFramebase => ⟨10, 0x800, 0x0, 1, .rw, 0x0, 0xFFFFFFFE00000⟩  -- CHR_FRAMEBASE, Table 11.2
  | .chrFramen => ⟨10, 0x808, 0x0, 1, .rw, 0x0, 0xFFFFF⟩  -- CHR_FRAMEN, Table 11.2
  | .chrFree => ⟨10, 0x810, 0x0, 1, .ro, 0x0, 0xFFFFF⟩  -- CHR_FREE, Table 11.2
  | .chrReset => ⟨10, 0x818, 0x0, 1, .wo, 0x0, 0xFC00000000000FFF⟩  -- CHR_RESET, Table 11.2
  | .chrStat => ⟨10, 0x820, 0x0, 1, .ro, 0x0, 0xFFFFFFFF0000FFFF⟩  -- CHR_STAT, Table 11.2
  | .chrErr => ⟨10, 0x828, 0x0, 1, .w1c, 0x0, 0x3⟩  -- CHR_ERR, Table 11.2
  | .mmuPgmode => ⟨4, 0x820, 0x0, 1, .wo, 0x0, 0xFFFFFFFFFFFFE000⟩  -- MMU_PGMODE, Table 12.3
  | .mmuPgstat => ⟨4, 0x828, 0x0, 1, .ro, 0x0, 0x3⟩  -- MMU_PGSTAT, Table 12.3
  | .zlkId => ⟨12, 0x0, 0x0, 1, .rw, 0x0, 0x3FF⟩  -- ZLK_ID, Table 12.6
  | .zlkPort => ⟨12, 0x8, 0x8, 24, .ro, 0x0, 0x3⟩  -- ZLK_PORT, Table 12.6
  | .zlkRoute => ⟨12, 0x2000, 0x8, 1024, .rw, 0x0, 0xFFFFFF⟩  -- ZLK_ROUTE, Table 12.6
  | .cxpPmbase => ⟨11, 0x0, 0x10, 64, .rw, 0x0, 0xFFFFFFFFF0007⟩  -- CXP_PMBASE, Table 12.7
  | .cxpPmctl => ⟨11, 0x8, 0x10, 64, .rw, 0x0, 0xFFFFFFFFF0003⟩  -- CXP_PMCTL, Table 12.7
  | .cxpTmo => ⟨11, 0x400, 0x0, 1, .rw, 0x7A120, 0xFFFFFFFF⟩  -- CXP_TMO, Table 12.7
  | .cxpPpfocc => ⟨11, 0x408, 0x0, 1, .ro, 0x0, 0x1FFFFF⟩  -- CXP_PPFOCC, Table 12.7
  | .cxpLink => ⟨11, 0x410, 0x8, 10, .ro, 0x0, 0x3⟩  -- CXP_LINK, Table 12.7
  | .elgBase => ⟨13, 0x0, 0x0, 1, .rw, 0x0, 0xFFFFFFFFFF000⟩  -- ELG_BASE, Table 12.10
  | .elgCtl => ⟨13, 0x8, 0x0, 1, .rw, 0x0, 0xFF001F⟩  -- ELG_CTL, Table 12.10
  | .elgTail => ⟨13, 0x10, 0x0, 1, .ro, 0x0, 0xFFFFFFFFFFFFFFFF⟩  -- ELG_TAIL, Table 12.10
  | .elgHead => ⟨13, 0x18, 0x0, 1, .rw, 0x0, 0xFFFFFFFFFFFFFFFF⟩  -- ELG_HEAD, Table 12.10
  | .elgLost => ⟨13, 0x20, 0x0, 1, .w1c, 0x0, 0xFFFFFFFF⟩  -- ELG_LOST, Table 12.10
  | .dbgStop => ⟨14, 0x0, 0x0, 1, .wo, 0x0, 0xFFFFFE00FFFFFFFF⟩  -- DBG_STOP, Table 13.2
  | .dbgResume => ⟨14, 0x8, 0x0, 1, .wo, 0x0, 0x1⟩  -- DBG_RESUME, Table 13.2
  | .dbgStep => ⟨14, 0x10, 0x0, 1, .wo, 0x0, 0x80000000000FFFFF⟩  -- DBG_STEP, Table 13.2
  | .dbgStat => ⟨14, 0x18, 0x0, 1, .ro, 0x0, 0x7⟩  -- DBG_STAT, Table 13.2
  | .dbgListbase => ⟨14, 0x20, 0x0, 1, .rw, 0x0, 0xFFFFFFFF00000⟩  -- DBG_LISTBASE, Table 13.2
  | .dbgAccrd => ⟨14, 0x28, 0x0, 1, .wo, 0x0, 0x3FFFFF⟩  -- DBG_ACCRD, Table 13.2
  | .dbgStoppkt => ⟨14, 0x30, 0x0, 1, .rw, 0x0, 0xFFFFFFFFFFFFFFFF⟩  -- DBG_STOPPKT, Table 13.2
  | .dbgBrk => ⟨14, 0x40, 0x8, 4, .rw, 0x0, 0xFFFFFFFFFFF00000⟩  -- DBG_BRK, Table 13.2
  | .dbgTrbase => ⟨14, 0x60, 0x0, 1, .rw, 0x0, 0xFFFFFFFFFF000⟩  -- DBG_TRBASE, Table 13.2
  | .dbgTrctl => ⟨14, 0x68, 0x0, 1, .rw, 0x0, 0x1FF1F⟩  -- DBG_TRCTL, Table 13.2
  | .dbgTrlost => ⟨14, 0x70, 0x0, 1, .w1c, 0x0, 0xFFFFFFFF⟩  -- DBG_TRLOST, Table 13.2
  | .dbgTrtail => ⟨14, 0x78, 0x0, 1, .ro, 0x0, 0xFFFFFFFFFFFFFFFF⟩  -- DBG_TRTAIL, Table 13.2
  | .dbgTrhead => ⟨14, 0x80, 0x0, 1, .rw, 0x0, 0xFFFFFFFFFFFFFFFF⟩  -- DBG_TRHEAD, Table 13.2
  | .pmcSpill => ⟨15, 0x0, 0x0, 1, .rw, 0x0, 0xFFFFFFFFFF000⟩  -- PMC_SPILL, Table 13.2
  | .pmcHsel => ⟨15, 0x8, 0x0, 1, .rw, 0x0, 0x7FFFF⟩  -- PMC_HSEL, Table 13.2
  | .pmcSptail => ⟨15, 0x10, 0x0, 1, .ro, 0x0, 0xFFFFFFFFFFFFFFFF⟩  -- PMC_SPTAIL, Table 13.2
  | .pmcSphead => ⟨15, 0x18, 0x0, 1, .rw, 0x0, 0xFFFFFFFFFFFFFFFF⟩  -- PMC_SPHEAD, Table 13.2
  | .pmcHbin => ⟨15, 0x100, 0x8, 16, .ro, 0x0, 0xFFFFFFFF⟩  -- PMC_HBIN, Table 13.2
  | .rplCtl => ⟨16, 0x0, 0x0, 1, .rw, 0x0, 0x7FF⟩  -- RPL_CTL, Table 13.2
  | .rplBase => ⟨16, 0x8, 0x0, 1, .rw, 0x0, 0xFFFFFC0000000⟩  -- RPL_BASE, Table 13.2
  | .rplLast => ⟨16, 0x10, 0x0, 1, .ro, 0x0, 0xFFFFFFFF⟩  -- RPL_LAST, Table 13.2
  | .rplStart => ⟨16, 0x18, 0x0, 1, .wo, 0x0, 0xFFFFFFFF⟩  -- RPL_START, Table 13.2
  | .secStat => ⟨17, 0x0, 0x0, 1, .ro, 0x0, 0xFF⟩  -- SEC_STAT, Table 14.1
  | .secAlarmact => ⟨17, 0x8, 0x0, 1, .rw, 0xD5, 0x1FF⟩  -- SEC_ALARMACT, Table 14.1
  | .secAlarm => ⟨17, 0x10, 0x0, 1, .w1c, 0x0, 0xF⟩  -- SEC_ALARM, Table 14.1
  | .secSvn => ⟨17, 0x18, 0x0, 1, .ro, 0x0, 0xFFFF⟩  -- SEC_SVN, Table 14.1

/-- Every register name. -/
def RegName.all : List RegName :=
  [.tmbNow, .tmbView, .tmbLoss, .srdSeed, .stgCarve, .stgStat, .stgErr, .hbmScrub, .hbmBins, .mmuRoot,
   .mmuInv, .mmuInvstat, .mmuInverr, .dlrInjwin, .dlrSpinPeriod, .barWdt, .lqBase, .lqCtl, .lqDoorbell,
   .lqHead, .lqGen, .lqTear, .lqStat, .lqErr, .dstMode, .dstErr, .dstSem, .fstQbase, .fstQctl, .fstQtail,
   .fstQhead, .fstPgdone, .fstHimg, .fstRecbase, .fstRarg, .fstResolve, .fstErr, .fstHstat, .dlrParklim,
   .dlrSavebase, .dlrSaven, .dlrSaveuse, .dlrParg, .dlrPreempt, .dlrRestore, .dlrPstat, .chrCtxd, .chrCtl,
   .chrPrio, .chrFlags, .chrFramebase, .chrFramen, .chrFree, .chrReset, .chrStat, .chrErr, .mmuPgmode,
   .mmuPgstat, .zlkId, .zlkPort, .zlkRoute, .cxpPmbase, .cxpPmctl, .cxpTmo, .cxpPpfocc, .cxpLink, .elgBase,
   .elgCtl, .elgTail, .elgHead, .elgLost, .dbgStop, .dbgResume, .dbgStep, .dbgStat, .dbgListbase, .dbgAccrd,
   .dbgStoppkt, .dbgBrk, .dbgTrbase, .dbgTrctl, .dbgTrlost, .dbgTrtail, .dbgTrhead, .pmcSpill, .pmcHsel,
   .pmcSptail, .pmcSphead, .pmcHbin, .rplCtl, .rplBase, .rplLast, .rplStart, .secStat, .secAlarmact,
   .secAlarm, .secSvn]

/-- The physical address at which device control space begins (Table 7.1). -/
def controlBase : Nat := 0x0010000000000

/-- Offset of a register instance in control space: blocks stand 128 KiB apart (R7). -/
def RegName.offset (n : RegName) (i : Nat) : Nat := n.info.block * 0x20000 + n.info.offset + n.info.stride * i

/-- Does the register instance stand at the offset, and which instance is it? -/
def RegName.at? (n : RegName) (off : Nat) : Option Nat :=
  let base := n.offset 0
  if off < base then none
  else
    let d := off - base
    if n.info.stride = 0 then (if d = 0 then some 0 else none)
    else if d % n.info.stride = 0 && d / n.info.stride < n.info.count then some (d / n.info.stride) else none

/-- The register at an 8-byte aligned offset of control space (R5, R6). -/
def regAt (off : Nat) : Option (RegName × Nat) :=
  RegName.all.findSome? (fun n => (n.at? off).map (fun i => (n, i)))

/-- What State.regs holds for a register: the reset value where nothing is listed. -/
def State.reg (s : State) (n : RegName) (i : Nat := 0) : Word :=
  KMap.lookD s.regs (n.offset i) (BitVec.ofNat 64 n.info.reset)

/-- The register as a number. -/
def State.regN (s : State) (n : RegName) (i : Nat := 0) : Nat := (s.reg n i).toNat

/-- The register set, reserved bits discarded (R6). -/
def State.setReg (s : State) (n : RegName) (i : Nat) (v : Word) : State :=
  { s with regs := KMap.put s.regs (n.offset i) (v &&& BitVec.ofNat 64 n.info.mask) }

/-- The register set from a number. -/
def State.setRegN (s : State) (n : RegName) (i : Nat) (v : Nat) : State := s.setReg n i (BitVec.ofNat 64 v)

/-- A sticky bit of a register set. -/
def State.setRegBit (s : State) (n : RegName) (i : Nat) (b : Nat) : State :=
  s.setReg n i (s.reg n i ||| BitVec.ofNat 64 (2 ^ b))

/-- A field of a register. -/
def State.regBits (s : State) (n : RegName) (i hi lo : Nat) : Nat := bitsOf (s.regN n i) hi lo

end Sys2Proof.Machine
end

