-- ==== Sys2Proof/Decode.lean ====
section
/-! DEFINITION. The encoding of the slot instructions: the instruction word of Table 4.1 beside its 32-bit literal
(R74 to R82, Tables 4.2 to 4.6 and the entries of the instruction reference). decode is total: it answers an instruction
or a named reason why the loader would refuse the slot. encode writes the word and the literal of an instruction. -/

namespace Sys2Proof

/-! ## Codes of the select and modifier fields -/

/-- Table 4.2. -/
def Src.code : Src → BitVec 4
  | .n0 => 0 | .n1 => 1 | .e0 => 2 | .e1 => 3 | .s0 => 4 | .s1 => 5 | .w0 => 6 | .w1 => 7
  | .q0 => 8 | .q1 => 9 | .q2 => 10 | .q3 => 11 | .lit => 12 | .zero => 13 | .none => 14

/-- Table 4.2; code 15 is reserved. -/
def Src.ofCode (c : BitVec 4) : Option Src :=
  match c.toNat with
  | 0 => some .n0 | 1 => some .n1 | 2 => some .e0 | 3 => some .e1 | 4 => some .s0 | 5 => some .s1
  | 6 => some .w0 | 7 => some .w1 | 8 => some .q0 | 9 => some .q1 | 10 => some .q2 | 11 => some .q3
  | 12 => some .lit | 13 => some .zero | 14 => some .none | _ => Option.none

/-- Table 4.3. -/
def Dst.code : Dst → BitVec 5
  | .discard => 0 | .n0 => 1 | .n1 => 2 | .e0 => 3 | .e1 => 4 | .s0 => 5 | .s1 => 6 | .w0 => 7 | .w1 => 8
  | .q0 => 9 | .q1 => 10 | .q2 => 11 | .q3 => 12 | .dlr => 13 | .row => 14 | .col => 15

/-- Table 4.3; codes 16 to 31 are reserved. -/
def Dst.ofCode (c : BitVec 5) : Option Dst :=
  match c.toNat with
  | 0 => some .discard | 1 => some .n0 | 2 => some .n1 | 3 => some .e0 | 4 => some .e1 | 5 => some .s0
  | 6 => some .s1 | 7 => some .w0 | 8 => some .w1 | 9 => some .q0 | 10 => some .q1 | 11 => some .q2
  | 12 => some .q3 | 13 => some .dlr | 14 => some .row | 15 => some .col | _ => none

/-- Table 3.2. -/
def TagAction.code : TagAction → BitVec 4
  | .plain => 0 | .sticka => 1 | .stickb => 2 | .purge => 3 | .isect => 4 | .unary => 5 | .itinc => 6 | .itclr => 7
  | .head => 8 | .tail => 9 | .whole => 10 | .preda => 11 | .xthr => 12 | .first => 13 | .dropf => 14

/-- Table 3.2; code 15 is reserved. -/
def TagAction.ofCode (c : BitVec 4) : Option TagAction :=
  match c.toNat with
  | 0 => some .plain | 1 => some .sticka | 2 => some .stickb | 3 => some .purge | 4 => some .isect
  | 5 => some .unary | 6 => some .itinc | 7 => some .itclr | 8 => some .head | 9 => some .tail
  | 10 => some .whole | 11 => some .preda | 12 => some .xthr | 13 => some .first | 14 => some .dropf | _ => none

/-- Table 4.4. -/
def Fmt.code : Fmt → BitVec 3
  | .int => 0 | .f32 => 1 | .bf16 => 2 | .e4m3 => 3 | .e5m2 => 4 | .q4 => 5 | .a36 => 6 | .addr => 7

/-- Table 4.4: every code names a format. -/
def Fmt.ofCode (c : BitVec 3) : Fmt :=
  match c.toNat with
  | 0 => .int | 1 => .f32 | 2 => .bf16 | 3 => .e4m3 | 4 => .e5m2 | 5 => .q4 | 6 => .a36 | _ => .addr

/-- R77, integer class. -/
def Lane.code : Lane → BitVec 2 | .w64 => 0 | .w32 => 1 | .w16 => 2 | .w8 => 3
/-- R77, integer class. -/
def Lane.ofCode (c : BitVec 2) : Lane := match c.toNat with | 0 => .w64 | 1 => .w32 | 2 => .w16 | _ => .w8

/-- Access sizes under MD (R295, R337, R363). -/
def Size.code : Size → BitVec 2 | .s8 => 0 | .s4 => 1 | .s2 => 2 | .s1 => 3
/-- Access sizes under MD (R295, R337, R363). -/
def Size.ofCode (c : BitVec 2) : Size := match c.toNat with | 0 => .s8 | 1 => .s4 | 2 => .s2 | _ => .s1

/-- R79. -/
def Rnd.code : Rnd → BitVec 3 | .rn => 0 | .rz => 1 | .rp => 2 | .rm => 3 | .rs => 4
/-- R79; codes 5 to 7 are reserved. -/
def Rnd.ofCode (c : BitVec 3) : Option Rnd :=
  match c.toNat with
  | 0 => some .rn | 1 => some .rz | 2 => some .rp | 3 => some .rm | 4 => some .rs | _ => none

def FElem.code : FElem → BitVec 2 | .f32 => 0 | .bf16 => 1
/-- R316: MD 0 and 1. -/
def FElem.ofCode (c : BitVec 2) : Option FElem := match c.toNat with | 0 => some .f32 | 1 => some .bf16 | _ => none

def FElem4.code : FElem4 → BitVec 2 | .f32 => 0 | .bf16 => 1 | .e4m3 => 2 | .e5m2 => 3
/-- R324. -/
def FElem4.ofCode (c : BitVec 2) : FElem4 := match c.toNat with | 0 => .f32 | 1 => .bf16 | 2 => .e4m3 | _ => .e5m2

def FClassElem.code : FClassElem → BitVec 2 | .f32 => 0 | .bf16 => 1 | .a36 => 2
/-- R323. -/
def FClassElem.ofCode (c : BitVec 2) : Option FClassElem :=
  match c.toNat with | 0 => some .f32 | 1 => some .bf16 | 2 => some .a36 | _ => none

def LinFmt.code : LinFmt → BitVec 2 | .int => 0 | .f32 => 1 | .bf16 => 2
/-- R344. -/
def LinFmt.ofCode (c : BitVec 2) : Option LinFmt :=
  match c.toNat with | 0 => some .int | 1 => some .f32 | 2 => some .bf16 | _ => none

def LitKind.code : LitKind → BitVec 2 | .i64 => 0 | .n64 => 1 | .f32 => 2 | .bf16 => 3
/-- R336. -/
def LitKind.ofCode (c : BitVec 2) : LitKind := match c.toNat with | 0 => .i64 | 1 => .n64 | 2 => .f32 | _ => .bf16

def Cond.code : Cond → BitVec 2 | .eq => 0 | .ne => 1 | .lt => 2 | .le => 3
/-- Table 4.5, CMP. -/
def Cond.ofCode (c : BitVec 2) : Cond := match c.toNat with | 0 => .eq | 1 => .ne | 2 => .lt | _ => .le

def Scope.code : Scope → BitVec 3 | .team => 0 | .cluster => 1 | .node => 2 | .device => 3 | .system => 4
/-- R151; codes 5 to 7 are reserved. -/
def Scope.ofCode (c : BitVec 3) : Option Scope :=
  match c.toNat with
  | 0 => some .team | 1 => some .cluster | 2 => some .node | 3 => some .device | 4 => some .system | _ => none

def Ord3.code : Ord3 → BitVec 2 | .plain => 0 | .acq => 1 | .rel => 2
/-- R156; code 3 is reserved. -/
def Ord3.ofCode (c : BitVec 2) : Option Ord3 :=
  match c.toNat with | 0 => some .plain | 1 => some .acq | 2 => some .rel | _ => none

def AtomOp.code : AtomOp → BitVec 4
  | .add => 0 | .and => 1 | .or => 2 | .xor => 3 | .smin => 4 | .smax => 5 | .umin => 6 | .umax => 7 | .xchg => 8
  | .fadd => 9
/-- Table 15.5; codes 10 to 15 are reserved. -/
def AtomOp.ofCode (c : BitVec 4) : Option AtomOp :=
  match c.toNat with
  | 0 => some .add | 1 => some .and | 2 => some .or | 3 => some .xor | 4 => some .smin | 5 => some .smax
  | 6 => some .umin | 7 => some .umax | 8 => some .xchg | 9 => some .fadd | _ => none

def PrefLevel.code : PrefLevel → BitVec 2 | .l1 => 0 | .l2 => 1 | .own => 2
/-- R369; 3 is refused. -/
def PrefLevel.ofCode (c : BitVec 2) : Option PrefLevel :=
  match c.toNat with | 0 => some .l1 | 1 => some .l2 | 2 => some .own | _ => none

def FenceKind.code : FenceKind → BitVec 2 | .full => 0 | .acq => 1 | .rel => 2
/-- R161; 3 is refused. -/
def FenceKind.ofCode (c : BitVec 2) : Option FenceKind :=
  match c.toNat with | 0 => some .full | 1 => some .acq | 2 => some .rel | _ => none

def RedOp.code : RedOp → BitVec 4
  | .iadd => 0 | .imin => 1 | .imax => 2 | .and => 3 | .or => 4 | .xor => 5 | .fadd => 6 | .fmin => 7 | .fmax => 8
/-- Table 17.3; codes 9 to 15 are reserved. -/
def RedOp.ofCode (c : BitVec 4) : Option RedOp :=
  match c.toNat with
  | 0 => some .iadd | 1 => some .imin | 2 => some .imax | 3 => some .and | 4 => some .or | 5 => some .xor
  | 6 => some .fadd | 7 => some .fmin | 8 => some .fmax | _ => none

def BktMode.code : BktMode → BitVec 2 | .index => 0 | .onehot16 => 1 | .onehot8 => 2
/-- R300; 3 is refused. -/
def BktMode.ofCode (c : BitVec 2) : Option BktMode :=
  match c.toNat with | 0 => some .index | 1 => some .onehot16 | 2 => some .onehot8 | _ => none

def InvScope.code : InvScope → BitVec 2 | .core => 0 | .die => 1 | .device => 2
/-- R305; 3 is refused. -/
def InvScope.ofCode (c : BitVec 2) : Option InvScope :=
  match c.toNat with | 0 => some .core | 1 => some .die | 2 => some .device | _ => none

def PurgeSide.code : PurgeSide → BitVec 2 | .a => 0 | .b => 1 | .both => 2
/-- R356; 3 is refused. -/
def PurgeSide.ofCode (c : BitVec 2) : Option PurgeSide :=
  match c.toNat with | 0 => some .a | 1 => some .b | 2 => some .both | _ => none

def AccOut.code : AccOut → BitVec 2 | .a36 => 0 | .f32 => 1 | .int => 2
/-- R126; 3 is refused. -/
def AccOut.ofCode (c : BitVec 2) : Option AccOut :=
  match c.toNat with | 0 => some .a36 | 1 => some .f32 | 2 => some .int | _ => none

def FoldOp.code : FoldOp → BitVec 2 | .iadd => 0 | .fadd => 1 | .fmin => 2 | .fmax => 3
/-- Table 11.1. -/
def FoldOp.ofCode (c : BitVec 2) : FoldOp := match c.toNat with | 0 => .iadd | 1 => .fadd | 2 => .fmin | _ => .fmax

def RepairKind.code : RepairKind → BitVec 2 | .reg => 0 | .drop => 1 | .insert => 2 | .emit => 3
/-- Table 17.5. -/
def RepairKind.ofCode (c : BitVec 2) : RepairKind :=
  match c.toNat with | 0 => .reg | 1 => .drop | 2 => .insert | _ => .emit

def SReg.code : SReg → BitVec 32
  | .tid => 0 | .lane => 1 | .hand => 2 | .team => 3 | .teamhi => 4 | .cluster => 5 | .core => 6 | .die => 7
  | .node => 8 | .time => 9 | .hidx => 10 | .rcr => 11 | .block => 12 | .fpflags => 13 | .fault => 14
/-- Table 2.2; a literal of 15 or more is refused. -/
def SReg.ofCode (c : BitVec 32) : Option SReg :=
  match c.toNat with
  | 0 => some .tid | 1 => some .lane | 2 => some .hand | 3 => some .team | 4 => some .teamhi | 5 => some .cluster
  | 6 => some .core | 7 => some .die | 8 => some .node | 9 => some .time | 10 => some .hidx | 11 => some .rcr
  | 12 => some .block | 13 => some .fpflags | 14 => some .fault | _ => none

/-- A one-bit field. -/
def bit1 (b : Bool) : BitVec 1 := if b then 1 else 0

/-! ## The instruction word -/

/-- The seven fields of the instruction word (Table 4.1). -/
structure RawWord where
  op : BitVec 8
  sa : BitVec 4
  sb : BitVec 4
  d0 : BitVec 5
  d1 : BitVec 5
  ta : BitVec 4
  md : BitVec 2
  deriving DecidableEq, Repr

/-- The fields of a word (Table 4.1). -/
def RawWord.ofWord (w : BitVec 32) : RawWord :=
  { op := w.extractLsb' 24 8, sa := w.extractLsb' 20 4, sb := w.extractLsb' 16 4, d0 := w.extractLsb' 11 5,
    d1 := w.extractLsb' 6 5, ta := w.extractLsb' 2 4, md := w.extractLsb' 0 2 }

/-- The word of the fields (Table 4.1). -/
def RawWord.word (x : RawWord) : BitVec 32 := x.op ++ x.sa ++ x.sb ++ x.d0 ++ x.d1 ++ x.ta ++ x.md

/-- Why a slot's bits are no instruction, named by the check of R89 that refuses them. -/
inductive DecodeError
  /-- word and literal both zero: the empty slot of R74 -/
  | empty
  /-- word zero, literal not (R74); CAUSE 0x0A -/
  | zeroWord
  /-- a reserved source or destination select (R75, R76); CAUSE 0x06 -/
  | selectCode
  /-- tag action code 15 (R63); CAUSE 0x10 -/
  | tagCode
  /-- SREG selector of 15 or more (R28); CAUSE 0x0F -/
  | sregSelector
  /-- a modifier, rounding or scope code or a literal bit the entry does not allow (R77 to R79); CAUSE 0x0A -/
  | modifier
  /-- a source shape or tag action the opcode does not take (R56, R285); CAUSE 0x07 -/
  | shape
  /-- a destination the opcode does not take (R76); CAUSE 0x08 -/
  | destination
  /-- FENCE with W = 1 (R161) -/
  | fenceWaved
  deriving DecidableEq, Repr

/-- The answer where a check fails. -/
def orErr {α : Type} (e : DecodeError) : Option α → Except DecodeError α
  | some a => .ok a
  | none => .error e

/-- Refuse unless the condition holds. -/
def need (e : DecodeError) (b : Bool) : Except DecodeError Unit := if b then .ok () else .error e

/-- The select fields of the word, refused by code (R63, R75, R76). -/
def RawWord.head (x : RawWord) : Except DecodeError Route := do
  let sa ← orErr .selectCode (Src.ofCode x.sa)
  let sb ← orErr .selectCode (Src.ofCode x.sb)
  let d0 ← orErr .selectCode (Dst.ofCode x.d0)
  let d1 ← orErr .selectCode (Dst.ofCode x.d1)
  let ta ← orErr .tagCode (TagAction.ofCode x.ta)
  return ⟨sa, sb, d0, d1, ta⟩

/-- One operand: SB = NONE and UNARY (Table 15.2). -/
def Route.unary (h : Route) : Except DecodeError Route1 := do
  need .shape (h.sb = .none ∧ h.ta = .unary)
  return ⟨h.sa, h.d0, h.d1⟩

/-- A fixed tag action with two selects. -/
def Route.fixed (h : Route) (ta : TagAction) : Except DecodeError Route2 := do
  need .shape (h.ta = ta)
  return ⟨h.sa, h.sb, h.d0, h.d1⟩

/-- The general fields of a one-operand slot. -/
def Route1.full (r : Route1) : Route := ⟨r.sa, .none, r.d0, r.d1, .unary⟩

/-- The general fields of a slot with a fixed tag action. -/
def Route2.full (r : Route2) (ta : TagAction) : Route := ⟨r.sa, r.sb, r.d0, r.d1, ta⟩

/-! ## Literals -/

/-- Bits of a literal, by their lowest place and their number. -/
abbrev litBits (l : BitVec 32) (lo n : Nat) : BitVec n := l.extractLsb' lo n

/-- The field at place lo of n bits is zero, else CAUSE 0x0A (R78). -/
def zeroBits (l : BitVec 32) (lo n : Nat) : Except DecodeError Unit := need .modifier (litBits l lo n = 0)

/-- One bit as a flag. -/
def litFlag (l : BitVec 32) (i : Nat) : Bool := litBits l i 1 = 1

def IntLit.mk' (l : BitVec 32) : IntLit := ⟨litFlag l 31, litBits l 0 29⟩
/-- The literal of the integer role with the two bits [30:29] given (Table 4.5). -/
def IntLit.bits (x : IntLit) (mid : BitVec 2) : BitVec 32 := bit1 x.signed ++ mid ++ x.val

/-- An integer literal whose bits [30:29] are zero (Table 4.5). -/
def intLit (l : BitVec 32) : Except DecodeError IntLit := do
  zeroBits l 29 2
  return IntLit.mk' l

/-- A literal of one-operand integer instructions: zero except S (R288); the LIT value of a slot that names LIT as
its operand is refused with it, since R288 has the literal zero except S. -/
def signLit (l : BitVec 32) : Except DecodeError Bool := do
  zeroBits l 0 31
  return litFlag l 31

/-- The queue role (Table 4.5). -/
def queueLit (l : BitVec 32) : Except DecodeError (BitVec 2) := do
  zeroBits l 2 30
  return litBits l 0 2

/-- The float control in bits 3 to 0 (R79). -/
def floatCtl (l : BitVec 32) : Except DecodeError FloatCtl := do
  let r ← orErr .modifier (Rnd.ofCode (litBits l 0 3))
  return ⟨r, litFlag l 3⟩

def FloatCtl.bits (c : FloatCtl) : BitVec 4 := bit1 c.sat ++ c.rnd.code

/-- The float role (Table 4.5). -/
def floatLit (l : BitVec 32) : Except DecodeError FloatCtl := do
  zeroBits l 4 28
  floatCtl l

def Wave.ofBits (l : BitVec 32) : Wave := ⟨litFlag l 21, litBits l 12 6, litBits l 6 6, litBits l 0 6⟩

/-- The low 22 bits of the memory role (Table 4.5). -/
def memCtl (l : BitVec 32) : Except DecodeError MemCtl := do
  let s ← orErr .modifier (Scope.ofCode (litBits l 18 3))
  return ⟨Wave.ofBits l, s⟩

def MemCtl.bits (m : MemCtl) : BitVec 22 :=
  bit1 m.wave.waved ++ m.scope.code ++ m.wave.succ ++ m.wave.pred ++ m.wave.own

/-- The memory literal of eight opcode bits, ORD and the rest. -/
def memLit (top : BitVec 8) (ord : BitVec 2) (m : MemCtl) : BitVec 32 := top ++ ord ++ m.bits

/-- ORD of a load: 0 or 1 (R156, R337). -/
def loadOrd (l : BitVec 32) : Except DecodeError Bool := do
  need .modifier (litBits l 23 1 = 0)
  return litFlag l 22

/-- ORD of a store: 0 or 2 (R156, R363). -/
def storeOrd (l : BitVec 32) : Except DecodeError Bool := do
  need .modifier (litBits l 22 1 = 0)
  return litFlag l 23

def loadOrdBits (acq : Bool) : BitVec 2 := bit1 false ++ bit1 acq
def storeOrdBits (rel : Bool) : BitVec 2 := bit1 rel ++ bit1 false

/-- The LVS literal (Table 7.2). -/
def lvsLit (l : BitVec 32) : Except DecodeError LvsLit := do
  zeroBits l 29 3
  zeroBits l 18 3
  return ⟨litBits l 22 7, Wave.ofBits l⟩

def LvsLit.bits (x : LvsLit) : BitVec 32 :=
  0#3 ++ x.reg ++ bit1 x.wave.waved ++ 0#3 ++ x.wave.succ ++ x.wave.pred ++ x.wave.own

/-- The conversion literal (Table 15.8); the columns' further limits are checked by WellFormed. -/
def cvtLit (l : BitVec 32) : Except DecodeError CvtLit := do
  zeroBits l 16 15
  zeroBits l 7 1
  let c ← floatCtl l
  return ⟨litFlag l 31, Lane.ofCode (litBits l 14 2), Fmt.ofCode (litBits l 11 3), Fmt.ofCode (litBits l 8 3),
    litBits l 4 3, c⟩

def CvtLit.bits (x : CvtLit) : BitVec 32 :=
  bit1 x.signed ++ 0#15 ++ x.lw.code ++ x.dst.code ++ x.src.code ++ 0#1 ++ x.part ++ x.ctl.bits

/-- The literal of RED and SCAN (Table 17.3). -/
def redLit (l : BitVec 32) : Except DecodeError RedLit := do
  zeroBits l 8 23
  let op ← orErr .modifier (RedOp.ofCode (litBits l 4 4))
  let c ← floatCtl l
  return ⟨litFlag l 31, op, c⟩

def RedLit.bits (x : RedLit) : BitVec 32 := bit1 x.signed ++ 0#23 ++ x.op.code ++ x.ctl.bits

/-! ## Decoding, opcode by opcode -/

abbrev DecodeArm := Route → BitVec 2 → BitVec 32 → Except DecodeError Instr

/-- MD is zero (R77). -/
def md0 (md : BitVec 2) : Except DecodeError Unit := need .modifier (md = 0)

/-- The literal is zero. -/
def lit0 (l : BitVec 32) : Except DecodeError Unit := need .modifier (l = 0)

def decNop : DecodeArm := fun h md l => do
  md0 md; lit0 l
  need .destination (h.d0 = .discard ∧ h.d1 = .discard)
  return .nop h.sa h.sb h.ta
def decMov : DecodeArm := fun h md l => do md0 md; lit0 l; return .mov h
def decLit : DecodeArm := fun h md l => do
  need .modifier (Bool.or (!(md = 3#2)) (litBits l 16 16 = 0))
  let r ← h.unary
  return .lit r (LitKind.ofCode md) l
def decSel : DecodeArm := fun h md l => do md0 md; lit0 l; return .sel h
def decGate : DecodeArm := fun h md l => do md0 md; zeroBits l 1 31; return .gate h (litFlag l 0)
def decSteer : DecodeArm := fun h md l => do md0 md; zeroBits l 1 31; return .steer h (litFlag l 0)
def decPurge : DecodeArm := fun h md l => do
  md0 md; zeroBits l 7 25
  let side ← orErr .modifier (PurgeSide.ofCode (litBits l 5 2))
  let r ← h.unary
  return .purge r side (litBits l 0 5)
def decPack : DecodeArm := fun h md l => do
  need .modifier (md ≠ 3#2); zeroBits l 4 27; zeroBits l 0 3
  return .pack h (Lane.ofCode md) (litFlag l 31) (litFlag l 3)
def decFmts : DecodeArm := fun h md l => do
  md0 md; zeroBits l 3 29
  let r ← h.unary
  return .fmts r (Fmt.ofCode (litBits l 0 3))

def decLin (k : Route1 → LinFmt → LvsLit → Instr) : DecodeArm := fun h md l => do
  let f ← orErr .modifier (LinFmt.ofCode md)
  let x ← lvsLit l
  let r ← h.unary
  return k r f x
def decLout : DecodeArm := fun h md l => do
  md0 md
  let x ← lvsLit l
  let r ← h.unary
  return .lout r x
def decLoutx : DecodeArm := fun h md l => do
  md0 md
  let x ← lvsLit l
  return .loutx h x
def decSreg : DecodeArm := fun h md l => do
  let s ← orErr .sregSelector (SReg.ofCode l)
  need .modifier (md = 0#2 ∨ (md = 1#2 ∧ s = .fpflags))
  let r ← h.unary
  return .sreg r (md = 1#2) s

def decInt2 (k : Route → Lane → IntLit → Instr) : DecodeArm := fun h md l => do
  let x ← intLit l
  return k h (Lane.ofCode md) x
def decInt1 (k : Route1 → Lane → Bool → Instr) : DecodeArm := fun h md l => do
  let s ← signLit l
  let r ← h.unary
  return k r (Lane.ofCode md) s
def decMad : DecodeArm := fun h md l => do
  let q ← queueLit l
  return .mad h (Lane.ofCode md) q
def decBfx : DecodeArm := fun h md l => do
  need .modifier (md = 0#2 ∨ md = 1#2)
  let x ← intLit l
  return .bfx h (Lane.ofCode md) x
def decBfi : DecodeArm := fun h md l => do
  need .modifier (md = 0#2 ∨ md = 1#2)
  let q ← queueLit l
  return .bfi h (Lane.ofCode md) q
def decCmp : DecodeArm := fun h md l =>
  .ok (.cmp h (Lane.ofCode md) (Cond.ofCode (litBits l 29 2)) (IntLit.mk' l))
def decLea : DecodeArm := fun h md l => do
  md0 md
  let x ← intLit l
  return .lea h x
def decAdds : DecodeArm := fun h md l => do
  need .modifier (md = 0#2 ∨ md = 3#2)
  return (if md = 0#2 then Instr.adds else Instr.subs) h (Lane.ofCode (litBits l 29 2)) (IntLit.mk' l)

def decFloat2 (k : Route → FElem → FloatCtl → Instr) : DecodeArm := fun h md l => do
  let f ← orErr .modifier (FElem.ofCode md)
  let c ← floatLit l
  return k h f c
def decFloat2z (k : Route → FElem → Instr) : DecodeArm := fun h md l => do
  let f ← orErr .modifier (FElem.ofCode md)
  lit0 l
  return k h f
def decFloat1 (k : Route1 → FElem → FloatCtl → Instr) : DecodeArm := fun h md l => do
  let f ← orErr .modifier (FElem.ofCode md)
  let c ← floatLit l
  let r ← h.unary
  return k r f c
def decFloat1z (k : Route1 → FElem → Instr) : DecodeArm := fun h md l => do
  let f ← orErr .modifier (FElem.ofCode md)
  lit0 l
  let r ← h.unary
  return k r f
def decFfma : DecodeArm := fun h md l => do
  let f ← orErr .modifier (FElem.ofCode md)
  let q ← queueLit l
  return .ffma h f q
def decFcmp : DecodeArm := fun h md l => do
  let f ← orErr .modifier (FElem.ofCode md)
  zeroBits l 2 30
  return .fcmp h f (Cond.ofCode (litBits l 0 2))
def decFclass : DecodeArm := fun h md l => do
  let f ← orErr .modifier (FClassElem.ofCode md)
  lit0 l
  let r ← h.unary
  return .fclass r f
def decFdot (k : Route → FElem4 → FloatCtl → Instr) : DecodeArm := fun h md l => do
  let c ← floatLit l
  need .modifier (c.rnd ≠ .rs)
  return k h (FElem4.ofCode md) c
def decCvt (k : Route → CvtLit → Instr) : DecodeArm := fun h md l => do
  md0 md
  let x ← cvtLit l
  return k h x
/-- SB = ZERO and WHOLE, the burst forms of QPACK and QUNPK (R361, R362). -/
def Route.burst (h : Route) : Except DecodeError Route1 := do
  need .shape (h.sb = .zero ∧ h.ta = .whole)
  return ⟨h.sa, h.d0, h.d1⟩
def decQpack : DecodeArm := fun h md l => do
  let f ← orErr .modifier (FElem.ofCode md)
  zeroBits l 8 24; zeroBits l 3 3
  let r ← orErr .modifier (Rnd.ofCode (litBits l 0 3))
  let t ← h.burst
  return .qpack t f (litBits l 6 2) r
def decQunpk : DecodeArm := fun h md l => do
  let f ← orErr .modifier (FElem.ofCode md)
  zeroBits l 10 22; zeroBits l 0 4
  need .modifier (Bool.or (f = .bf16) (litBits l 8 2 = 0))
  let t ← h.burst
  return .qunpk t f (litBits l 8 2) (litBits l 4 4)

/-- RFMT with its size (R337): INT with any size, F32 with 4 bytes, the other formats with 8; S with INT below 8. -/
def rfmtOk (n : Size) (f : Fmt) (sext : Bool) : Bool :=
  (match f with
   | .int => true
   | .f32 => n = .s4
   | .bf16 | .e4m3 | .e5m2 | .addr => n = .s8
   | .q4 | .a36 => false) && (!sext || (f = .int && n ≠ .s8))

def decLd : DecodeArm := fun h md l => do
  zeroBits l 28 4
  let acq ← loadOrd l
  let m ← memCtl l
  let f := Fmt.ofCode (litBits l 25 3)
  need .modifier (rfmtOk (Size.ofCode md) f (litFlag l 24))
  return .ld h (Size.ofCode md) f (litFlag l 24) acq m
def decLl : DecodeArm := fun h md l => do
  zeroBits l 28 4
  let acq ← loadOrd l
  let m ← memCtl l
  let f := Fmt.ofCode (litBits l 25 3)
  need .modifier (rfmtOk (Size.ofCode md) f (litFlag l 24))
  return .ll h (Size.ofCode md) f (litFlag l 24) acq m
def decLdf : DecodeArm := fun h md l => do
  need .modifier (md = 0#2 ∨ md = 1#2)
  let acq ← loadOrd l
  let m ← memCtl l
  let f := Fmt.ofCode (litBits l 25 3)
  need .modifier (rfmtOk (Size.ofCode md) f (litFlag l 24))
  return .ldf h (Size.ofCode md) (litBits l 28 4) f (litFlag l 24) acq m
def decLds : DecodeArm := fun h md l => do
  md0 md; zeroBits l 28 4; zeroBits l 24 1
  let acq ← loadOrd l
  let m ← memCtl l
  let f := Fmt.ofCode (litBits l 25 3)
  need .modifier (f ≠ .q4 ∧ f ≠ .a36)
  return .lds h f acq m
def decLdb : DecodeArm := fun h md l => do
  md0 md; zeroBits l 25 3
  let acq ← loadOrd l
  let m ← memCtl l
  need .modifier ((litBits l 28 4).toNat ≤ 13)
  return .ldb h (litBits l 28 4) (litFlag l 24) acq m
def decSt : DecodeArm := fun h md l => do
  zeroBits l 24 8
  let rel ← storeOrd l
  let m ← memCtl l
  return .st h (Size.ofCode md) rel m
def decStb : DecodeArm := fun h md l => do
  md0 md; zeroBits l 28 4
  let rel ← storeOrd l
  let m ← memCtl l
  need .modifier (Bool.or (litFlag l 24) (litBits l 25 3 = 0))
  let r ← h.fixed .whole
  return .stb r (litBits l 25 3) (litFlag l 24) rel m
def decStf (k : Route → Size → Bool → MemCtl → Instr) : DecodeArm := fun h md l => do
  need .modifier (md = 0#2 ∨ md = 1#2)
  zeroBits l 24 8
  let rel ← storeOrd l
  let m ← memCtl l
  return k h (Size.ofCode md) rel m
def decPref : DecodeArm := fun h md l => do
  md0 md; zeroBits l 28 4; zeroBits l 22 4
  let lv ← orErr .modifier (PrefLevel.ofCode (litBits l 26 2))
  let m ← memCtl l
  return .pref h lv m
def decAtom : DecodeArm := fun h md l => do
  zeroBits l 30 2; zeroBits l 24 2
  let op ← orErr .modifier (AtomOp.ofCode (litBits l 26 4))
  let ord ← orErr .modifier (Ord3.ofCode (litBits l 22 2))
  let m ← memCtl l
  need .modifier (Bool.or (op ≠ .fadd) (md = 1#2))
  return .atom h (Size.ofCode md) op ord m
def decCas : DecodeArm := fun h md l => do
  zeroBits l 26 6
  let ord ← orErr .modifier (Ord3.ofCode (litBits l 22 2))
  let m ← memCtl l
  return .cas h (Size.ofCode md) (litBits l 24 2) ord m
def decSc : DecodeArm := fun h md l => do
  zeroBits l 24 8
  let rel ← storeOrd l
  let m ← memCtl l
  return .sc h (Size.ofCode md) rel m
def decFence : DecodeArm := fun h md l => do
  let k ← orErr .modifier (FenceKind.ofCode md)
  zeroBits l 22 10
  let s ← orErr .modifier (Scope.ofCode (litBits l 18 3))
  need .fenceWaved (litBits l 21 1 = 0 ∧ litBits l 0 18 = 0)
  return .fence h k s
def decClrp : DecodeArm := fun h md l => do
  md0 md; zeroBits l 25 7
  let rel ← storeOrd l
  let m ← memCtl l
  return .clrp h (litFlag l 24) rel m
def decCopy : DecodeArm := fun h md l => do
  md0 md; zeroBits l 22 10
  let m ← memCtl l
  let r ← h.unary
  return .copy r m
def decWaitt : DecodeArm := fun h md l => do
  md0 md; zeroBits l 0 25
  let r ← h.unary
  need .destination (r.d1 = .discard)
  return .waitt r.sa r.d0 (litBits l 25 7)
def decSts : DecodeArm := fun h md l => do
  md0 md; zeroBits l 24 8
  let rel ← storeOrd l
  let m ← memCtl l
  let r ← h.fixed .whole
  return .sts r rel m

/-- D0 = DLR and D1 = discard (R76). -/
def Route.toDealer (h : Route) : Except DecodeError Unit := need .destination (h.d0 = .dlr ∧ h.d1 = .discard)

def decBr : DecodeArm := fun h md l => do
  md0 md; zeroBits l 16 16
  let r ← h.fixed .preda
  h.toDealer
  return .br r.sa r.sb (litBits l 8 8) (litBits l 0 8)
def decJmp : DecodeArm := fun h md l => do
  md0 md; zeroBits l 8 24
  let r ← h.unary
  h.toDealer
  return .jmp r.sa (litBits l 0 8)
def decJmpi : DecodeArm := fun h md l => do
  md0 md; lit0 l
  let r ← h.unary
  h.toDealer
  return .jmpi r.sa
def decExit : DecodeArm := fun h md l => do
  md0 md; lit0 l
  let r ← h.unary
  h.toDealer
  return .exit r.sa
def decBarrier (k : Route1 → BitVec 5 → Instr) : DecodeArm := fun h md l => do
  md0 md; zeroBits l 5 27
  need .modifier ((litBits l 0 5).toNat < 24)
  let r ← h.unary
  return k r (litBits l 0 5)
/-- One operand, MD 0 and a zero literal. -/
def decPlain1 (k : Route1 → Instr) : DecodeArm := fun h md l => do
  md0 md; lit0 l
  let r ← h.unary
  return k r
def decSleep : DecodeArm := fun h md l => do
  md0 md; zeroBits l 1 31
  let r ← h.unary
  return .sleep r (litFlag l 0)
def decRecruit : DecodeArm := fun h md l => do
  md0 md; zeroBits l 29 3; zeroBits l 0 12
  let r ← h.fixed .plain
  return .recruit r (litBits l 22 7) (FoldOp.ofCode (litBits l 20 2)) (litBits l 12 8)
def decHjoin : DecodeArm := fun h md l => do
  md0 md; zeroBits l 29 3; zeroBits l 0 22
  let r ← h.unary
  return .hjoin r (litBits l 22 7)
def decHred : DecodeArm := fun h md l => do
  need .modifier (md = 0#2 ∨ md = 1#2); lit0 l
  let r ← h.unary
  return .hred r (md = 1#2)
/-- D0 and D1 discard, one operand, a 16-bit code (R304, R377). -/
def decCode (k : Src → BitVec 16 → Instr) : DecodeArm := fun h md l => do
  md0 md; zeroBits l 16 16
  let r ← h.unary
  need .destination (r.d0 = .discard ∧ r.d1 = .discard)
  return k r.sa (litBits l 0 16)
def decTrprep : DecodeArm := fun h md l => do
  md0 md; zeroBits l 2 30
  need .destination (h.d0 = .discard ∧ h.d1 = .discard)
  return .trprep h.sa h.sb h.ta (RepairKind.ofCode (litBits l 0 2))
def decTrret : DecodeArm := fun h md l => do
  md0 md; zeroBits l 12 20
  let r ← h.unary
  return .trret r (litBits l 8 4) (litBits l 0 8)
def decMma : DecodeArm := fun h md l => do
  zeroBits l 2 30
  need .shape (h.ta = .stickb)
  need .shape (h.d0 = .discard ∧ h.d1 = .discard)
  return .mma h.sa h.sb md (litBits l 0 2)
def decMmarm : DecodeArm := fun h md l => do
  md0 md; zeroBits l 31 1; zeroBits l 0 10
  need .modifier ((litBits l 10 8).toNat + (litBits l 18 8).toNat + 1 ≤ 256)
  let r ← h.unary
  return .mmarm r (litFlag l 30) (litBits l 26 4) (litBits l 18 8) (litBits l 10 8)
def decAccclr : DecodeArm := fun h md l => do
  md0 md; zeroBits l 9 23
  let r ← h.unary
  return .accclr r (litFlag l 8) (litBits l 0 8)
def decAccdr : DecodeArm := fun h md l => do
  let r3 ← orErr .selectCode (Dst.ofCode (litBits l 5 5))
  let r2 ← orErr .selectCode (Dst.ofCode (litBits l 0 5))
  md0 md; zeroBits l 12 20
  let o ← orErr .modifier (AccOut.ofCode (litBits l 10 2))
  return .accdr h o r3 r2
def decRed (k : Route → BitVec 2 → RedLit → Instr) : DecodeArm := fun h md l => do
  let x ← redLit l
  return k h md x
def decBkt : DecodeArm := fun h md l => do
  md0 md; zeroBits l 8 24
  let mode ← orErr .modifier (BktMode.ofCode (litBits l 6 2))
  let r ← h.fixed .stickb
  return .bkt r mode (litFlag l 5) (litBits l 0 5)
def decKeys (k : Route → Bool → Bool → Bool → Instr) : DecodeArm := fun h md l => do
  need .modifier (md = 0#2 ∨ md = 1#2); zeroBits l 2 30
  return k h (md = 1#2) (litFlag l 1) (litFlag l 0)
def decCfginv : DecodeArm := fun h md l => do
  md0 md; zeroBits l 2 30
  let s ← orErr .modifier (InvScope.ofCode (litBits l 0 2))
  let r ← h.unary
  return .cfginv r s
def decGtime : DecodeArm := fun h md l => do
  md0 md; zeroBits l 1 31
  let r ← h.unary
  return .gtime r (litFlag l 0)
def decPmark : DecodeArm := fun h md l => do
  md0 md; zeroBits l 16 16
  let r ← h.unary
  return .pmark r (litBits l 0 16)
/-- MD and literal not examined (R82). -/
def decFree (k : Route → BitVec 2 → BitVec 32 → Instr) : DecodeArm := fun h md l => .ok (k h md l)

/-- The opcode map of Table 4.6; every opcode outside it is unassigned (R81, R82). -/
def decodeOp (op : BitVec 8) : DecodeArm :=
  match op.toNat with
  | 0x00 => decNop
  | 0x01 => decMov
  | 0x02 => decLit
  | 0x03 => decSel
  | 0x04 => decGate
  | 0x05 => decSteer
  | 0x06 => decPurge
  | 0x07 => decPack
  | 0x08 => decFmts
  | 0x10 => decLin .lin
  | 0x11 => decLin .linx
  | 0x12 => decLin .lint
  | 0x13 => decLout
  | 0x14 => decLoutx
  | 0x15 => decSreg
  | 0x20 => decInt2 .add
  | 0x21 => decInt2 .sub
  | 0x22 => decInt2 .mul
  | 0x23 => decInt2 .mulh
  | 0x24 => decMad
  | 0x25 => decInt2 .min
  | 0x26 => decInt2 .max
  | 0x27 => decInt1 .abs
  | 0x28 => decInt2 .and
  | 0x29 => decInt2 .or
  | 0x2A => decInt2 .xor
  | 0x2B => decInt2 .andn
  | 0x2C => decInt2 .shl
  | 0x2D => decInt2 .shr
  | 0x2E => decInt2 .sar
  | 0x2F => decInt2 .rotl
  | 0x30 => decInt1 .popc
  | 0x31 => decInt1 .clz
  | 0x32 => decInt1 .ctz
  | 0x33 => decInt1 .brev
  | 0x34 => decBfx
  | 0x35 => decBfi
  | 0x36 => decCmp
  | 0x37 => decLea
  | 0x38 => decAdds
  | 0x40 => decFloat2 .fadd
  | 0x41 => decFloat2 .fsub
  | 0x42 => decFloat2 .fmul
  | 0x43 => decFfma
  | 0x44 => decFloat2z .fmin
  | 0x45 => decFloat2z .fmax
  | 0x46 => decFloat1z .fabs
  | 0x47 => decFloat1z .fneg
  | 0x48 => decFcmp
  | 0x49 => decFclass
  | 0x4A => decFloat1 .frcp
  | 0x4B => decFloat1 .frsq
  | 0x4C => decFloat1 .fsqrt
  | 0x4D => decFloat1 .fexp2
  | 0x4E => decFloat1 .flog2
  | 0x4F => decFloat1 .fsin
  | 0x50 => decFloat1 .fcos
  | 0x51 => decFloat1 .ftanh
  | 0x52 => decFloat2 .fscale
  | 0x53 => decFdot .fdot
  | 0x54 => decFdot .fsum
  | 0x55 => decCvt .cvt
  | 0x56 => decCvt .cvti
  | 0x57 => decCvt .cvtf
  | 0x58 => decQpack
  | 0x59 => decQunpk
  | 0x60 => decLd
  | 0x61 => decSt
  | 0x62 => decLdb
  | 0x63 => decStb
  | 0x64 => decLdf
  | 0x65 => decStf .stf
  | 0x66 => decStf .sete
  | 0x67 => decPref
  | 0x68 => decAtom
  | 0x69 => decCas
  | 0x6A => decLl
  | 0x6B => decSc
  | 0x6C => decFence
  | 0x6D => decClrp
  | 0x6E => decCopy
  | 0x6F => decWaitt
  | 0x70 => decLds
  | 0x71 => decSts
  | 0x80 => decBr
  | 0x81 => decJmp
  | 0x82 => decJmpi
  | 0x83 => decExit
  | 0x84 => decBarrier .bar
  | 0x85 => decBarrier .bara
  | 0x86 => decBarrier .barw
  | 0x87 => decPlain1 .yield
  | 0x88 => decSleep
  | 0x89 => decRecruit
  | 0x8A => decHjoin
  | 0x8B => decHred
  | 0x8C => decPlain1 .hend
  | 0x8D => decPlain1 .waitly
  | 0x8E => decPlain1 .lyrel
  | 0x8F => decCode .trap
  | 0x90 => decTrprep
  | 0x91 => decTrret
  | 0x92 => decCode .bkpt
  | 0xA0 => decMma
  | 0xA1 => decMmarm
  | 0xA2 => decPlain1 .accrd
  | 0xA3 => decAccclr
  | 0xA4 => decAccdr
  | 0xA5 => decRed .red
  | 0xA6 => decRed .scan
  | 0xA7 => decBkt
  | 0xA8 => decKeys .kmerge
  | 0xA9 => decKeys .ksel
  | 0xB0 => decCfginv
  | 0xB1 => decGtime
  | 0xB2 => decPmark
  | 0xB3 => decPlain1 .eosi
  | 0xF0 => decFree .idiv
  | 0xF1 => decFree .irem
  | 0xF2 => decFree .idivn
  | 0xF3 => decFree .iremn
  | n => if n < 0xF0 then decFree (.unassignedOpcode op) else decFree (.emulationOpcode op)

/-- The instruction that a slot's word and literal hold, or the reason why there is none. -/
def decode (w l : BitVec 32) : Except DecodeError Instr :=
  if w = 0 then .error (if l = 0 then .empty else .zeroWord)
  else do
    let x := RawWord.ofWord w
    let h ← x.head
    decodeOp x.op h x.md l

/-! ## Encoding -/

/-- The word of an opcode, its selects and its modifier. -/
def encWord (op : BitVec 8) (h : Route) (md : BitVec 2) : BitVec 32 :=
  RawWord.word ⟨op, h.sa.code, h.sb.code, h.d0.code, h.d1.code, h.ta.code, md⟩

/-- The word and the literal of a slot. -/
def enc (op : BitVec 8) (h : Route) (md : BitVec 2) (l : BitVec 32) : Option (BitVec 32 × BitVec 32) :=
  some (encWord op h md, l)

/-- Bits 31 to 24 of a load's literal (Table 16.5). -/
def loadTop (x : BitVec 4) (f : Fmt) (sext : Bool) : BitVec 8 := x ++ f.code ++ bit1 sext

def dealerRoute (sa sb : Src) (ta : TagAction) : Route := ⟨sa, sb, .dlr, .discard, ta⟩

/-- Word and literal of an instruction, from the encoding tables; the steps of the other agents have none. -/
def encode : Instr → Option (BitVec 32 × BitVec 32)
  | .nop sa sb ta => enc 0x00 ⟨sa, sb, .discard, .discard, ta⟩ 0 0
  | .mov r => enc 0x01 r 0 0
  | .lit r k v => enc 0x02 r.full k.code v
  | .sel r => enc 0x03 r 0 0
  | .gate r s => enc 0x04 r 0 (0#31 ++ bit1 s)
  | .steer r s => enc 0x05 r 0 (0#31 ++ bit1 s)
  | .purge r side slot => enc 0x06 r.full 0 (0#25 ++ side.code ++ slot)
  | .pack r w s sat => enc 0x07 r w.code (bit1 s ++ 0#27 ++ bit1 sat ++ 0#3)
  | .fmts r f => enc 0x08 r.full 0 (0#29 ++ f.code)
  | .lin r f l => enc 0x10 r.full f.code l.bits
  | .linx r f l => enc 0x11 r.full f.code l.bits
  | .lint r f l => enc 0x12 r.full f.code l.bits
  | .lout r l => enc 0x13 r.full 0 l.bits
  | .loutx r l => enc 0x14 r 0 l.bits
  | .sreg r c s => enc 0x15 r.full (0#1 ++ bit1 c) s.code
  | .add r w l => enc 0x20 r w.code (l.bits 0)
  | .sub r w l => enc 0x21 r w.code (l.bits 0)
  | .mul r w l => enc 0x22 r w.code (l.bits 0)
  | .mulh r w l => enc 0x23 r w.code (l.bits 0)
  | .mad r w q => enc 0x24 r w.code (0#30 ++ q)
  | .min r w l => enc 0x25 r w.code (l.bits 0)
  | .max r w l => enc 0x26 r w.code (l.bits 0)
  | .abs r w s => enc 0x27 r.full w.code (bit1 s ++ 0#31)
  | .and r w l => enc 0x28 r w.code (l.bits 0)
  | .or r w l => enc 0x29 r w.code (l.bits 0)
  | .xor r w l => enc 0x2A r w.code (l.bits 0)
  | .andn r w l => enc 0x2B r w.code (l.bits 0)
  | .shl r w l => enc 0x2C r w.code (l.bits 0)
  | .shr r w l => enc 0x2D r w.code (l.bits 0)
  | .sar r w l => enc 0x2E r w.code (l.bits 0)
  | .rotl r w l => enc 0x2F r w.code (l.bits 0)
  | .popc r w s => enc 0x30 r.full w.code (bit1 s ++ 0#31)
  | .clz r w s => enc 0x31 r.full w.code (bit1 s ++ 0#31)
  | .ctz r w s => enc 0x32 r.full w.code (bit1 s ++ 0#31)
  | .brev r w s => enc 0x33 r.full w.code (bit1 s ++ 0#31)
  | .bfx r w l => enc 0x34 r w.code (l.bits 0)
  | .bfi r w q => enc 0x35 r w.code (0#30 ++ q)
  | .cmp r w c l => enc 0x36 r w.code (l.bits c.code)
  | .lea r l => enc 0x37 r 0 (l.bits 0)
  | .adds r w l => enc 0x38 r 0 (l.bits w.code)
  | .subs r w l => enc 0x38 r 3 (l.bits w.code)
  | .fadd r f c => enc 0x40 r f.code (0#28 ++ c.bits)
  | .fsub r f c => enc 0x41 r f.code (0#28 ++ c.bits)
  | .fmul r f c => enc 0x42 r f.code (0#28 ++ c.bits)
  | .ffma r f q => enc 0x43 r f.code (0#30 ++ q)
  | .fmin r f => enc 0x44 r f.code 0
  | .fmax r f => enc 0x45 r f.code 0
  | .fabs r f => enc 0x46 r.full f.code 0
  | .fneg r f => enc 0x47 r.full f.code 0
  | .fcmp r f c => enc 0x48 r f.code (0#30 ++ c.code)
  | .fclass r f => enc 0x49 r.full f.code 0
  | .frcp r f c => enc 0x4A r.full f.code (0#28 ++ c.bits)
  | .frsq r f c => enc 0x4B r.full f.code (0#28 ++ c.bits)
  | .fsqrt r f c => enc 0x4C r.full f.code (0#28 ++ c.bits)
  | .fexp2 r f c => enc 0x4D r.full f.code (0#28 ++ c.bits)
  | .flog2 r f c => enc 0x4E r.full f.code (0#28 ++ c.bits)
  | .fsin r f c => enc 0x4F r.full f.code (0#28 ++ c.bits)
  | .fcos r f c => enc 0x50 r.full f.code (0#28 ++ c.bits)
  | .ftanh r f c => enc 0x51 r.full f.code (0#28 ++ c.bits)
  | .fscale r f c => enc 0x52 r f.code (0#28 ++ c.bits)
  | .fdot r f c => enc 0x53 r f.code (0#28 ++ c.bits)
  | .fsum r f c => enc 0x54 r f.code (0#28 ++ c.bits)
  | .cvt r l => enc 0x55 r 0 l.bits
  | .cvti r l => enc 0x56 r 0 l.bits
  | .cvtf r l => enc 0x57 r 0 l.bits
  | .qpack r f t rnd => enc 0x58 ⟨r.sa, .zero, r.d0, r.d1, .whole⟩ f.code (0#24 ++ t ++ 0#3 ++ rnd.code)
  | .qunpk r f n j => enc 0x59 ⟨r.sa, .zero, r.d0, r.d1, .whole⟩ f.code (0#22 ++ n ++ j ++ 0#4)
  | .ld r n f s acq m => enc 0x60 r n.code (memLit (loadTop 0 f s) (loadOrdBits acq) m)
  | .st r n rel m => enc 0x61 r n.code (memLit 0 (storeOrdBits rel) m)
  | .ldb r nb sp acq m => enc 0x62 r 0 (memLit (nb ++ 0#3 ++ bit1 sp) (loadOrdBits acq) m)
  | .stb r ds sp rel m => enc 0x63 (r.full .whole) 0 (memLit (0#4 ++ ds ++ bit1 sp) (storeOrdBits rel) m)
  | .ldf r n t f s acq m => enc 0x64 r n.code (memLit (loadTop t f s) (loadOrdBits acq) m)
  | .stf r n rel m => enc 0x65 r n.code (memLit 0 (storeOrdBits rel) m)
  | .sete r n rel m => enc 0x66 r n.code (memLit 0 (storeOrdBits rel) m)
  | .pref r lv m => enc 0x67 r 0 (memLit (0#4 ++ lv.code ++ 0#2) 0 m)
  | .atom r n op ord m => enc 0x68 r n.code (memLit (0#2 ++ op.code ++ 0#2) ord.code m)
  | .cas r n q ord m => enc 0x69 r n.code (memLit (0#6 ++ q) ord.code m)
  | .ll r n f s acq m => enc 0x6A r n.code (memLit (loadTop 0 f s) (loadOrdBits acq) m)
  | .sc r n rel m => enc 0x6B r n.code (memLit 0 (storeOrdBits rel) m)
  | .fence r k s => enc 0x6C r k.code (0#11 ++ s.code ++ 0#18)
  | .clrp r cp rel m => enc 0x6D r 0 (memLit (0#7 ++ bit1 cp) (storeOrdBits rel) m)
  | .copy r m => enc 0x6E r.full 0 (memLit 0 0 m)
  | .waitt sa d0 reg => enc 0x6F ⟨sa, .none, d0, .discard, .unary⟩ 0 (reg ++ 0#25)
  | .lds r f acq m => enc 0x70 r 0 (memLit (loadTop 0 f false) (loadOrdBits acq) m)
  | .sts r rel m => enc 0x71 (r.full .whole) 0 (memLit 0 (storeOrdBits rel) m)
  | .br sa sb t f => enc 0x80 (dealerRoute sa sb .preda) 0 (0#16 ++ t ++ f)
  | .jmp sa b => enc 0x81 (dealerRoute sa .none .unary) 0 (0#24 ++ b)
  | .jmpi sa => enc 0x82 (dealerRoute sa .none .unary) 0 0
  | .exit sa => enc 0x83 (dealerRoute sa .none .unary) 0 0
  | .bar r n => enc 0x84 r.full 0 (0#27 ++ n)
  | .bara r n => enc 0x85 r.full 0 (0#27 ++ n)
  | .barw r n => enc 0x86 r.full 0 (0#27 ++ n)
  | .yield r => enc 0x87 r.full 0 0
  | .sleep r a => enc 0x88 r.full 0 (0#31 ++ bit1 a)
  | .recruit r reg fop b => enc 0x89 (r.full .plain) 0 (0#3 ++ reg ++ fop.code ++ b ++ 0#12)
  | .hjoin r m => enc 0x8A r.full 0 (0#3 ++ m ++ 0#22)
  | .hred r f => enc 0x8B r.full (0#1 ++ bit1 f) 0
  | .hend r => enc 0x8C r.full 0 0
  | .waitly r => enc 0x8D r.full 0 0
  | .lyrel r => enc 0x8E r.full 0 0
  | .trap sa c => enc 0x8F ⟨sa, .none, .discard, .discard, .unary⟩ 0 (0#16 ++ c)
  | .trprep sa sb ta k => enc 0x90 ⟨sa, sb, .discard, .discard, ta⟩ 0 (0#30 ++ k.code)
  | .trret r a b => enc 0x91 r.full 0 (0#20 ++ a ++ b)
  | .bkpt sa c => enc 0x92 ⟨sa, .none, .discard, .discard, .unary⟩ 0 (0#16 ++ c)
  | .mma sa sb md sub => enc 0xA0 ⟨sa, sb, .discard, .discard, .stickb⟩ md (0#30 ++ sub)
  | .mmarm r c n w b => enc 0xA1 r.full 0 (0#1 ++ bit1 c ++ n ++ w ++ b ++ 0#10)
  | .accrd r => enc 0xA2 r.full 0 0
  | .accclr r c n => enc 0xA3 r.full 0 (0#23 ++ bit1 c ++ n)
  | .accdr r o r3 r2 => enc 0xA4 r 0 (0#20 ++ o.code ++ r3.code ++ r2.code)
  | .red r md l => enc 0xA5 r md l.bits
  | .scan r md l => enc 0xA6 r md l.bits
  | .bkt r m s ns => enc 0xA7 (r.full .stickb) 0 (0#24 ++ m.code ++ bit1 s ++ ns)
  | .kmerge r k d s => enc 0xA8 r (0#1 ++ bit1 k) (0#30 ++ bit1 d ++ bit1 s)
  | .ksel r k d s => enc 0xA9 r (0#1 ++ bit1 k) (0#30 ++ bit1 d ++ bit1 s)
  | .cfginv r s => enc 0xB0 r.full 0 (0#30 ++ s.code)
  | .gtime r v => enc 0xB1 r.full 0 (0#31 ++ bit1 v)
  | .pmark r c => enc 0xB2 r.full 0 (0#16 ++ c)
  | .eosi r => enc 0xB3 r.full 0 0
  | .idiv r md l => enc 0xF0 r md l
  | .irem r md l => enc 0xF1 r md l
  | .idivn r md l => enc 0xF2 r md l
  | .iremn r md l => enc 0xF3 r md l
  | .unassignedOpcode op r md l => enc op r md l
  | .emulationOpcode op r md l => enc op r md l
  | _ => none

/-- The instruction that the decoder reads from the low bits of a number, as spec/opcode_table.json numbers them: the
word is bits 31 to 0, the literal (which the table gives no bits) is bits 63 to 32. -/
def decodeTableWord (_nbits w : Nat) : Option Instr :=
  match decode (BitVec.ofNat 32 w) (BitVec.ofNat 32 (w >>> 32)) with
  | .ok i => some i
  | .error _ => none

end Sys2Proof
end

