-- ==== Sys2Proof/Machine/SlotRules.lean ====
section
/-! DEFINITION. What a slot's instruction names and which configuration rules hold of the slot alone: its selects, third
operand, wave numbers and literal role (R56, R58, R78, R80), the tag actions of Table 15.2 and of the entries, and the
CAUSE of Table 4.9 under which the loader refuses it. The rules that relate several slots are the loader's. -/

namespace Sys2Proof

/-- The route of an exit instruction (R76). -/
def exitRoute (sa sb : Src) (ta : TagAction) : Route := ⟨sa, sb, .dlr, .discard, ta⟩

/-- The route of a slot whose destinations are both discard. -/
def sinkRoute (sa sb : Src) (ta : TagAction) : Route := ⟨sa, sb, .discard, .discard, ta⟩

/-- The selects and the tag action of a slot instruction; none for the steps of the other agents. -/
def Instr.route? : Instr → Option Route
  | .nop sa sb ta => some (sinkRoute sa sb ta)
  | .mov r | .sel r | .gate r _ | .steer r _ | .pack r _ _ _ | .loutx r _ => some r
  | .lit r _ _ | .purge r _ _ | .fmts r _ | .lin r _ _ | .linx r _ _ | .lint r _ _ | .lout r _ | .sreg r _ _ =>
      some r.full
  | .add r _ _ | .sub r _ _ | .mul r _ _ | .mulh r _ _ | .mad r _ _ | .min r _ _ | .max r _ _ => some r
  | .and r _ _ | .or r _ _ | .xor r _ _ | .andn r _ _ | .shl r _ _ | .shr r _ _ | .sar r _ _ | .rotl r _ _ => some r
  | .abs r _ _ | .popc r _ _ | .clz r _ _ | .ctz r _ _ | .brev r _ _ => some r.full
  | .bfx r _ _ | .bfi r _ _ | .cmp r _ _ _ | .lea r _ | .adds r _ _ | .subs r _ _ => some r
  | .fadd r _ _ | .fsub r _ _ | .fmul r _ _ | .ffma r _ _ | .fmin r _ | .fmax r _ | .fcmp r _ _ => some r
  | .fabs r _ | .fneg r _ | .fclass r _ => some r.full
  | .frcp r _ _ | .frsq r _ _ | .fsqrt r _ _ | .fexp2 r _ _ | .flog2 r _ _ | .fsin r _ _ | .fcos r _ _
  | .ftanh r _ _ => some r.full
  | .fscale r _ _ | .fdot r _ _ | .fsum r _ _ | .cvt r _ | .cvti r _ | .cvtf r _ => some r
  | .qpack r _ _ _ | .qunpk r _ _ _ => some ⟨r.sa, .zero, r.d0, r.d1, .whole⟩
  | .ld r _ _ _ _ _ | .st r _ _ _ | .ldb r _ _ _ _ | .ldf r _ _ _ _ _ _ | .stf r _ _ _ | .sete r _ _ _ => some r
  | .stb r _ _ _ _ => some (r.full .whole)
  | .pref r _ _ | .atom r _ _ _ _ | .cas r _ _ _ _ | .ll r _ _ _ _ _ | .sc r _ _ _ | .fence r _ _ => some r
  | .clrp r _ _ _ => some r
  | .copy r _ => some r.full
  | .waitt sa d0 _ => some ⟨sa, .none, d0, .discard, .unary⟩
  | .lds r _ _ _ => some r
  | .sts r _ _ => some (r.full .whole)
  | .br sa sb _ _ => some (exitRoute sa sb .preda)
  | .jmp sa _ | .jmpi sa | .exit sa => some (exitRoute sa .none .unary)
  | .bar r _ | .bara r _ | .barw r _ | .yield r | .sleep r _ | .hjoin r _ | .hred r _ | .hend r | .waitly r
  | .lyrel r => some r.full
  | .recruit r _ _ _ => some (r.full .plain)
  | .trap sa _ | .bkpt sa _ => some (sinkRoute sa .none .unary)
  | .trprep sa sb ta _ => some (sinkRoute sa sb ta)
  | .trret r _ _ => some r.full
  | .mma sa sb _ _ => some (sinkRoute sa sb .stickb)
  | .mmarm r _ _ _ _ | .accrd r | .accclr r _ _ => some r.full
  | .accdr r _ _ _ | .red r _ _ | .scan r _ _ => some r
  | .bkt r _ _ _ => some (r.full .stickb)
  | .kmerge r _ _ _ | .ksel r _ _ _ => some r
  | .cfginv r _ | .gtime r _ | .pmark r _ | .eosi r => some r.full
  | .idiv r _ _ | .irem r _ _ | .idivn r _ _ | .iremn r _ _ => some r
  | .unassignedOpcode _ r _ _ | .emulationOpcode _ r _ _ => some r
  | _ => none

/-- The queue of the third operand (R58, R295). -/
def Instr.third? : Instr → Option (BitVec 2)
  | .mad _ _ q | .bfi _ _ q | .ffma _ _ q | .cas _ _ q _ _ => some q
  | _ => none

/-- The wave fields of a memory or LVS slot (R78, R132). -/
def Instr.wave? : Instr → Option Wave
  | .lin _ _ l | .linx _ _ l | .lint _ _ l | .lout _ l | .loutx _ l => some l.wave
  | .ld _ _ _ _ _ m | .st _ _ _ m | .ldb _ _ _ _ m | .stb _ _ _ _ m | .ldf _ _ _ _ _ _ m | .stf _ _ _ m
  | .sete _ _ _ m | .pref _ _ m | .atom _ _ _ _ m | .cas _ _ _ _ m | .ll _ _ _ _ _ m | .sc _ _ _ m
  | .clrp _ _ _ m | .copy _ m | .lds _ _ _ m | .sts _ _ m => some m.wave
  | _ => none

/-- The integer literal of an instruction of the integer role (Table 4.5). -/
def Instr.intLit? : Instr → Option IntLit
  | .add _ _ l | .sub _ _ l | .mul _ _ l | .mulh _ _ l | .min _ _ l | .max _ _ l | .and _ _ l | .or _ _ l
  | .xor _ _ l | .andn _ _ l | .shl _ _ l | .shr _ _ l | .sar _ _ l | .rotl _ _ l | .bfx _ _ l | .cmp _ _ _ l
  | .lea _ l | .adds _ _ l | .subs _ _ l => some l
  | _ => none

/-- The opcodes whose MD and literal the loader does not examine (R82, R329). -/
def Instr.unexamined : Instr → Bool
  | .idiv _ _ _ | .irem _ _ _ | .idivn _ _ _ | .iremn _ _ _ | .unassignedOpcode _ _ _ _
  | .emulationOpcode _ _ _ _ => true
  | _ => false

/-- A select that names a channel or a queue (R56: codes 0 to 11). -/
def Src.isToken : Src → Bool
  | .lit | .zero | .none => false
  | _ => true

/-- The queue select of an index (R58). -/
def Src.ofQueue (q : BitVec 2) : Src := match q.toNat with | 0 => .q0 | 1 => .q1 | 2 => .q2 | _ => .q3

/-- The token sources of a slot, the third operand's queue among them (R56). -/
def Instr.tokenSources (i : Instr) : List Src :=
  match i.route? with
  | none => []
  | some r => ([r.sa, r.sb] ++ (match i.third? with | some q => [Src.ofQueue q] | none => [])).filter Src.isToken

/-- Two operands, WHOLE excepted (Table 15.2). -/
def TagAction.isTwo : TagAction → Bool
  | .unary | .whole => false
  | _ => true

/-- Three operands (Table 15.2). -/
def TagAction.isThree : TagAction → Bool
  | .plain | .itinc | .itclr | .head | .tail | .preda | .dropf => true
  | _ => false

/-- The actions of ATOM and CLRP (R295, R307). -/
def TagAction.isAtom : TagAction → Bool
  | .plain | .sticka | .stickb | .purge | .preda | .dropf => true
  | _ => false

/-- The tag actions an instruction takes, beyond those the decoder fixes (R285 and the entries). -/
def Instr.actionOk (i : Instr) (r : Route) : Bool :=
  match i with
  | .nop _ _ _ => true
  | .mov _ | .cvt _ _ | .cvti _ _ | .cvtf _ _ | .ld _ _ _ _ _ _ | .ldf _ _ _ _ _ _ _ | .lds _ _ _ _
  | .ll _ _ _ _ _ _ | .sete _ _ _ _ | .pref _ _ _ => r.ta = .unary || r.ta.isTwo
  | .ldb _ _ split _ _ => (r.ta = .unary && !split) || r.ta.isTwo
  | .sel _ => r.ta = .plain || r.ta = .itinc || r.ta = .itclr || r.ta = .head || r.ta = .tail || r.ta = .dropf
  | .gate _ _ | .steer _ _ => r.ta.isTwo && r.ta ≠ .preda
  | .mad _ _ _ | .bfi _ _ _ | .ffma _ _ _ => r.ta.isThree
  | .fsum _ _ _ | .red _ _ _ | .scan _ _ _ => r.ta = .unary || (r.ta = .whole && r.sb = .zero)
  | .atom _ _ _ _ _ | .clrp _ _ _ _ => r.ta.isAtom
  | .cas _ _ _ _ _ | .sc _ _ _ _ => r.ta = .plain || r.ta = .preda || r.ta = .dropf
  | .fence _ _ _ => r.sa.isToken && ((r.ta = .plain && r.sb.isToken) || r.ta = .unary)
  | .accdr _ _ _ _ => r.ta = .plain || r.ta = .stickb
  | .pack _ _ _ _ | .loutx _ _ | .add _ _ _ | .sub _ _ _ | .mul _ _ _ | .mulh _ _ _ | .min _ _ _ | .max _ _ _
  | .and _ _ _ | .or _ _ _ | .xor _ _ _ | .andn _ _ _ | .shl _ _ _ | .shr _ _ _ | .sar _ _ _ | .rotl _ _ _
  | .bfx _ _ _ | .cmp _ _ _ _ | .lea _ _ | .adds _ _ _ | .subs _ _ _ | .fadd _ _ _ | .fsub _ _ _ | .fmul _ _ _
  | .fmin _ _ | .fmax _ _ | .fcmp _ _ _ | .fscale _ _ _ | .fdot _ _ _ | .st _ _ _ _ | .stf _ _ _ _
  | .kmerge _ _ _ _ | .ksel _ _ _ _ | .trprep _ _ _ _ => r.ta.isTwo
  | _ => true

/-- NONE stands in SB only with UNARY, or in the second MMA slot (R56, R118). -/
def Instr.noneOk (i : Instr) (r : Route) : Bool :=
  match i with
  | .mma _ _ _ _ => r.sa ≠ .none
  | _ => ((r.sb = .none) = (r.ta = .unary)) && (r.sa ≠ .none || r.ta = .unary)

/-- The integer operations of Table 17.3. -/
def RedOp.isInt : RedOp → Bool
  | .fadd | .fmin | .fmax => false
  | _ => true

/-- Is the MD of an entry that the decoder leaves open one that the entry defines (R77, R324, R358)? -/
def Instr.mdOk : Instr → Bool
  | .fdot _ f _ => f ≠ .f32
  | .scan _ md l => l.op.isInt || md = 0#2
  | _ => true

/-- CAUSE 0x0A of MD and of the literal role (R77, R78): LIT is named only by the integer role, and the LIT value is zero where
no source is LIT. -/
def Instr.litOk (i : Instr) (r : Route) : Bool :=
  i.mdOk &&
  match i.intLit? with
  | some l => r.sa = .lit || r.sb = .lit || l.val = 0
  | none => i.unexamined || (r.sa ≠ .lit && r.sb ≠ .lit)

/-- CAUSE 0x07 for the slot alone (R56, R285): at least one token source, NONE in its place, the action allowed. The
mismatch slot (SA = NONE) is the one that names no token source; that it is the mismatch slot is the block's rule. -/
def Instr.sourceOk (i : Instr) (r : Route) : Bool :=
  i.noneOk r && (r.sa = .none || i.tokenSources ≠ []) && i.actionOk r

/-- The exit instructions (R76). -/
def Instr.isExit : Instr → Bool
  | .br _ _ _ _ | .jmp _ _ | .jmpi _ | .exit _ => true
  | _ => false

/-- CAUSE 0x08 for the slot alone (R58, R76, R126). -/
def Instr.destOk (i : Instr) (r : Route) : Bool :=
  (r.d0 = .discard || r.d0 ≠ r.d1) && r.d1 ≠ .dlr && (i.isExit || r.d0 ≠ .dlr) &&
  (match i with | .accdr _ _ r3 r2 => r3 ≠ .dlr && r2 ≠ .dlr | _ => true)

/-- The formats of Table 15.8 that take part in a floating conversion. -/
def Fmt.isFloat : Fmt → Bool
  | .f32 | .bf16 | .e4m3 | .e5m2 | .a36 => true
  | _ => false

/-- Lanes of a lane width in 64 bits (R77). -/
def Lane.count : Lane → Nat | .w64 => 1 | .w32 => 2 | .w16 => 4 | .w8 => 8

/-- Bits of a lane (R77). -/
def Lane.bits : Lane → Nat | .w64 => 64 | .w32 => 32 | .w16 => 16 | .w8 => 8

/-- Elements of a 64-bit token of a format (Table 4.4, R314). -/
def Fmt.count : Fmt → Nat
  | .bf16 => 4 | .e4m3 | .e5m2 => 8 | .q4 => 16 | _ => 1

/-- PART places nD of nA elements, or nA of nD (R314). -/
def partOk (part nA nD : Nat) : Bool := if nD ≤ nA then (part + 1) * nD ≤ nA else (part + 1) * nA ≤ nD

/-- The further rules of an entry that CAUSE 0x0A names. -/
def Instr.entryOk : Instr → Bool
  | .cvt _ l => !l.signed && l.lw = .w64 && l.dst.isFloat && l.src.isFloat && l.dst ≠ l.src &&
      partOk l.part.toNat l.src.count l.dst.count
  | .cvti _ l => l.dst = .int && l.src.isFloat && !l.ctl.sat && partOk l.part.toNat l.src.count l.lw.count
  | .cvtf _ l => l.dst.isFloat && (l.src = .int || (l.src = .a36 && l.lw = .w64)) &&
      partOk l.part.toNat (if l.src = .int then l.lw.count else 1) l.dst.count
  | .red _ _ l | .scan _ _ l => redOk l
  | .bkt _ mode _ ns => match mode with
      | .index => true
      | .onehot16 => ns.toNat + 1 ≤ 3
      | .onehot8 => ns.toNat + 1 ≤ 7
  | .mma _ _ md su => md = 1#2 || md = 2#2 || su = 0#2
  | .copy _ _ => true
  | _ => true
where
  /-- S with IADD, IMIN and IMAX only; the float control with FADD only, without .rs (R358). -/
  redOk (l : RedLit) : Bool :=
    (!l.signed || l.op = .iadd || l.op = .imin || l.op = .imax) &&
    (if l.op = .fadd then l.ctl.rnd ≠ .rs else (l.ctl.rnd = .rn && !l.ctl.sat))

/-- CAUSE 0x0E of the slot's own wave fields (R80, R138): W = 0 with zero waves; else a number below 63 that its known
links respect, own number 0 without a predecessor. -/
def Wave.ok (w : Wave) : Bool :=
  if w.waved then
    w.own ≠ 63#6 && (w.pred = 63#6 || w.pred.toNat < w.own.toNat) && (w.succ = 63#6 || w.own.toNat < w.succ.toNat)
  else w.succ = 0 && w.pred = 0 && w.own = 0

/-- The CAUSE of Table 4.9 for which the loader refuses the slot by itself, in the order of R89 step 8.2. -/
def Instr.slotCause (i : Instr) : Option Nat :=
  match i.route? with
  | none => none
  | some r =>
    if !i.litOk r then some 0x0A
    else if !i.sourceOk r then some 0x07
    else if !i.destOk r then some 0x08
    else if !i.entryOk then some 0x0A
    else match i.wave? with
      | some w => if w.ok then none else some 0x0E
      | none => none

/-- The CAUSE of a decoding refusal (Table 4.9). -/
def DecodeError.cause : DecodeError → Nat
  | .empty => 0
  | .zeroWord | .modifier => 0x0A
  | .selectCode => 0x06
  | .tagCode => 0x10
  | .sregSelector => 0x0F
  | .shape => 0x07
  | .destination => 0x08
  | .fenceWaved => 0x0E

end Sys2Proof
end

