-- ==== Sys2Proof/Machine/Ops.lean ====
section
/-! DEFINITION. The named operations over the parts of State: where dies, cores, tiles, threads, teams and images stand,
the bytes of memory and their poison, the movement of tokens, the taking of a fault and the return from a trap, and the
rings that the device writes (system queue, trace, spill, error log). -/

namespace Sys2Proof.Machine

/-! ## Dies, cores, tiles (R10 to R13) -/

/-- Fabric die of a core (R12). -/
def dieOf (core : Nat) : Nat := core / 32
/-- Node of a core (R11). -/
def nodeOf (core : Nat) : Nat := core / 64
/-- Column of a tile written 8y + x. -/
def tileX (t : Nat) : Nat := t % 8
/-- Row of a tile written 8y + x. -/
def tileY (t : Nat) : Nat := t / 8
/-- M-tiles stand in columns 0 and 7 (R12). -/
def isMTile (t : Nat) : Bool := tileX t = 0 || tileX t = 7
/-- Is the part a Z240 (R278)? -/
def State.z240 (s : State) : Bool := s.sec.nv.z240
/-- Fabric dies of the part (Tables 1.1 and 1.8). -/
def State.fabricDies (s : State) : Nat := if s.z240 then 4 else 8
/-- Port dies of the part, which are its nodes (Tables 1.1 and 1.8). -/
def State.portDies (s : State) : Nat := if s.z240 then 2 else 4
/-- HBM stacks of the part. -/
def State.stacks (s : State) : Nat := 3 * s.portDies
/-- The core numbers of a die (R12). -/
def coresOfDie (d : Nat) : List Nat := (upTo 32).map (fun i => 32 * d + i)
/-- The core numbers of a node. -/
def coresOfNode (n : Nat) : List Nat := (upTo 64).map (fun i => 64 * n + i)
/-- Do the fabric die and its cores run: enabled by the record, released at stage 4 and not held (R276, R278, R282)? -/
def State.dieRuns (s : State) (d : Nat) : Bool :=
  d < s.fabricDies && !s.sec.nv.disabled.contains d && s.sec.stage ≥ 4 && !s.sec.held
/-- The tiles of a rectangle in row-major order (R86). -/
def Rect.tiles (r : Rect) : List Nat :=
  (upTo r.h).flatMap (fun j => (upTo r.w).map (fun i => 8 * (r.y + j) + (r.x + i)))
/-- Is the tile in the rectangle? -/
def Rect.has (r : Rect) (t : Nat) : Bool := r.x ≤ tileX t && tileX t < r.x + r.w && r.y ≤ tileY t && tileY t < r.y + r.h

/-! ## Time (R14 to R16) -/

/-- A die's clock and view: 0 to 7 fabric dies, 8 to 11 port dies, 12 CD. -/
def State.die (s : State) (d : Nat) : DieTime := KMap.lookD s.time.dies d {}
/-- A die's copy of the time base. -/
def State.nowDie (s : State) (d : Nat) : Tick := (s.die d).copy
/-- The copy of a core's die. -/
def State.now (s : State) (core : Nat) : Tick := s.nowDie (dieOf core)
/-- The fabric cycle of a core's die. -/
def State.cycle (s : State) (core : Nat) : Nat := (s.die (dieOf core)).cycle
/-- A home node's view (R249: the home die's view). -/
def State.homeNow (s : State) (node : Nat) : Tick := s.nowDie (8 + node)
/-- Is a node's time view valid: that of its port die and of both fabric dies (R251)? -/
def State.nodeValid (s : State) (n : Nat) : Bool :=
  (s.die (8 + n)).valid && (s.die (2 * n)).valid && (s.die (2 * n + 1)).valid
/-- A change of one die's clock and view. -/
def State.updDie (s : State) (d : Nat) (f : DieTime → DieTime) : State :=
  { s with time := { s.time with dies := KMap.alter s.time.dies d {} f } }

/-! ## Free values -/

/-- A 64-bit value that the spec leaves open, and the state after the draw (log entry 5). -/
def State.draw (s : State) : Word × State := (Config.freeWord s.free, { s with free := s.free + 1 })

/-! ## Cores, tiles, planes, threads -/

/-- A core. -/
def State.core (s : State) (c : Nat) : Core := KMap.lookD s.cores c {}
/-- A change of a core. -/
def State.updCore (s : State) (c : Nat) (f : Core → Core) : State := { s with cores := KMap.alter s.cores c {} f }
/-- A tile of a core. -/
def State.tile (s : State) (c t : Nat) : Tile := KMap.lookD (s.core c).tiles t {}
/-- A change of a tile. -/
def State.updTile (s : State) (c t : Nat) (f : Tile → Tile) : State :=
  s.updCore c (fun k => { k with tiles := KMap.alter k.tiles t {} f })
/-- The plane context that a tile fires from: its active plane, or the handler context of its shadow plane (R207). -/
def Tile.ctx (t : Tile) (handler : Bool) : PlaneCtx := if handler then t.hctx.getD {} else t.main
/-- The plane context of a tile of a core. -/
def State.ctx (s : State) (c t : Nat) (handler : Bool) : PlaneCtx := (s.tile c t).ctx handler
/-- A change of a plane context; a handler context that does not exist stays absent. -/
def Tile.updCtx (t : Tile) (handler : Bool) (f : PlaneCtx → PlaneCtx) : Tile :=
  if handler then { t with hctx := t.hctx.map f } else { t with main := f t.main }
/-- A change of a plane context of a tile of a core. -/
def State.updCtx (s : State) (c t : Nat) (handler : Bool) (f : PlaneCtx → PlaneCtx) : State :=
  s.updTile c t (fun x => x.updCtx handler f)
/-- A thread of a core: key 0 to 4095 a slot, 4096 + j the handler thread of handler slot j. -/
def State.thread (s : State) (c k : Nat) : Thread := KMap.lookD (s.core c).threads k {}
/-- A change of a thread. -/
def State.updThread (s : State) (c k : Nat) (f : Thread → Thread) : State :=
  s.updCore c (fun x => { x with threads := KMap.alter x.threads k {} f })
/-- Is the key that of a handler thread? -/
def isHandlerKey (k : Nat) : Bool := k ≥ 4096
/-- The execution a thread is in; an empty one where it is in none. -/
def State.exec? (s : State) (c k : Nat) : Option Exec := (s.thread c k).exec
/-- A change of the execution that a thread is in. -/
def State.updExec (s : State) (c k : Nat) (f : Exec → Exec) : State :=
  s.updThread c k (fun t => { t with exec := t.exec.map f })
/-- A region of a core. -/
def State.region (s : State) (c r : Nat) : Region := KMap.lookD (s.core c).regions r {}
/-- A change of a region. -/
def State.updRegion (s : State) (c r : Nat) (f : Region → Region) : State :=
  s.updCore c (fun k => { k with regions := KMap.alter k.regions r {} f })
/-- The rectangle of a region of a core (R31). -/
def State.regionRect (s : State) (c r : Nat) : Rect := (((s.core c).layout.getD [])[r]?).getD ⟨0, 0, 0, 0⟩
/-- The region of a core that a tile stands in. -/
def State.regionOfTile (s : State) (c t : Nat) : Option Nat :=
  ((s.core c).layout.getD []).findIdx? (fun r => r.has t)
/-- The value of a thread's register; a register that nothing has written holds zero (R46). -/
def Thread.reg (t : Thread) (n : Nat) : Word := KMap.lookD t.regs n 0
/-- The thread with a register written and its poison cleared (Table 12.8). -/
def Thread.setReg (t : Thread) (n : Nat) (v : Word) : Thread :=
  { t with regs := KMap.put t.regs n v, poison := t.poison.filter (· ≠ n) }

/-! ## Teams, grids, queues, images -/

/-- A team. -/
def State.team? (s : State) (t : Nat) : Option Team := KMap.look s.teams t
/-- A change of a team. -/
def State.updTeam (s : State) (t : Nat) (f : Team → Team) : State :=
  match KMap.look s.teams t with
  | none => s
  | some x => { s with teams := KMap.put s.teams t (f x) }
/-- A grid. -/
def State.grid? (s : State) (g : Nat) : Option Grid := KMap.look s.grids g
/-- A change of a grid. -/
def State.updGrid (s : State) (g : Nat) (f : Grid → Grid) : State :=
  match KMap.look s.grids g with
  | none => s
  | some x => { s with grids := KMap.put s.grids g (f x) }
/-- The grid of a team. -/
def State.gridOfTeam (s : State) (t : Nat) : Option Grid := (s.team? t).bind (fun x => s.grid? x.grid)
/-- A launch queue. -/
def State.queue (s : State) (q : Nat) : Queue := KMap.lookD s.queues q {}
/-- A change of a launch queue. -/
def State.updQueue (s : State) (q : Nat) (f : Queue → Queue) : State :=
  { s with queues := KMap.alter s.queues q {} f }
/-- A Distributor. -/
def State.distOf (s : State) (d : Nat) : Dist := KMap.lookD s.dist d {}
/-- A change of a Distributor. -/
def State.updDist (s : State) (d : Nat) (f : Dist → Dist) : State := { s with dist := KMap.alter s.dist d {} f }
/-- A checked image. -/
def State.image? (s : State) (i : Nat) : Option Image := KMap.look s.images i
/-- A change of an image. -/
def State.updImage (s : State) (i : Nat) (f : Image → Image) : State :=
  match KMap.look s.images i with
  | none => s
  | some x => { s with images := KMap.put s.images i (f x) }
/-- The threads of a team by $tid: the slots of its hands in order (R26). -/
def Team.slots (t : Team) : List Nat := t.bases.flatMap (fun b => (upTo 32).map (fun l => b + l))
/-- The slot of a $tid. -/
def Team.slotOf (t : Team) (tid : Nat) : Option Nat := (t.bases[tid / 32]?).map (fun b => b + tid % 32)
/-- The trap that a handler thread serves (R206). -/
def State.servedTrap (s : State) (c k : Nat) : Option Trap :=
  if isHandlerKey k then KMap.look (s.core c).hslots (k - 4096) else none
/-- The image of a thread: its grid's, or the handler image (R206). -/
def State.imageOf (s : State) (c k : Nat) : Nat :=
  if isHandlerKey k then match (s.servedTrap c k).bind (·.img) with | some x => x.1 | none => s.station.himage.getD 0
  else match s.gridOfTeam (s.thread c k).team with | some g => g.image | none => 0
/-- The address space of a thread (R42, R204). -/
def State.aspaceOf (s : State) (c k : Nat) : Nat :=
  if isHandlerKey k then match (s.servedTrap c k).bind (·.img) with | some x => x.2 | none => s.regBits .fstHimg 0 63 56
  else match s.gridOfTeam (s.thread c k).team with | some g => g.aspace | none => 0
/-- A block of an image, where the image holds it (R85). -/
def State.block? (s : State) (img blk : Nat) : Option Block := (s.image? img).bind (fun i => KMap.look i.blocks blk)
/-- The seed latched with the thread's grid (R104); a handler thread's is that of SRD_SEED. -/
def State.seedOf (s : State) (c k : Nat) : Word :=
  match s.gridOfTeam (s.thread c k).team with
  | some g => g.seed
  | none => s.reg .srdSeed

/-! ## Memory (R129, R260) -/

/-- A byte of memory; a byte that nothing has written reads as zero (log entry 1). -/
def Memory.read (m : List Host.Cell) (a : Nat) : Byte :=
  match m with
  | [] => 0
  | (k, v) :: r => if a = k then v else Memory.read r a

/-- Memory with a byte written, in canonical form: a zero is not listed. -/
def Memory.write (m : List Host.Cell) (a : Nat) (v : Byte) : List Host.Cell :=
  if Memory.read m a = v then m else if v = 0 then m.filter (fun c => c.1 ≠ a) else KMap.put (α := BitVec 8) m a v

/-- The canonical form: addresses strictly rising, no zero listed. -/
abbrev Memory.wf (m : List Host.Cell) : Prop := (m.Pairwise (fun x y => x.1 < y.1)) ∧ ∀ c ∈ m, c.2 ≠ 0

/-- Bytes at an address. -/
def State.byte (s : State) (a : Nat) : Byte := Memory.read s.mem a
/-- n bytes from an address. -/
def State.bytes (s : State) (a n : Nat) : List Byte := (upTo n).map (fun i => s.byte (a + i))
/-- The little-endian number of n bytes. -/
def State.load (s : State) (a n : Nat) : Nat := leNat (s.bytes a n)
/-- One byte written. -/
def State.putByte (s : State) (a : Nat) (v : Byte) : State := { s with mem := Memory.write s.mem a v }
/-- Bytes written at rising addresses. -/
def State.putBytes (s : State) (a : Nat) (l : List Byte) : State :=
  match l with
  | [] => s
  | b :: r => (s.putByte a b).putBytes (a + 1) r
/-- A little-endian number of n bytes written. -/
def State.putNat (s : State) (a n v : Nat) : State := s.putBytes a (leBytes n v)
/-- 8-byte words written at rising addresses. -/
def State.putWords (s : State) (a : Nat) (l : List Nat) : State :=
  s.putBytes a (l.flatMap (leBytes 8))
/-- Cells written. -/
def State.putCells (s : State) (l : List Host.Cell) : State := l.foldl (fun s c => s.putByte c.1 c.2) s

/-- The 64-byte line of an address. -/
def lineOf (a : Nat) : Nat := a / 64
/-- Is the line of the address poisoned where its home holds it (R260)? A node's copy has a poison bit of its own. -/
def State.poisoned (s : State) (a : Nat) : Bool := s.poison.contains (lineOf a)
/-- A line poisoned at its home. -/
def State.setPoison (s : State) (line : Nat) : State :=
  if s.poison.contains line then s else { s with poison := s.poison ++ [line] }
/-- A line's poison cleared (R261). -/
def State.clearPoison (s : State) (line : Nat) : State := { s with poison := s.poison.filter (· ≠ line) }

/-- The targets of Table 7.1. -/
inductive Target
  | hbm | stage (p off : Nat) | control (off : Nat) | domain (pkg off : Nat) | pool (port : Nat) | host | reserved
  deriving DecidableEq, Repr

/-- The target of a physical address (R129, Table 7.1; a domain window beyond the last package is reserved). -/
def State.target (s : State) (a : Nat) : Target :=
  if a < (if s.z240 then 0x6000000000 else 0xC000000000) then .hbm
  else if 0xC000000000 ≤ a && a < 0xC020000000 then .stage ((a - 0xC000000000) / 0x8000000) ((a - 0xC000000000) % 0x8000000)
  else if controlBase ≤ a && a < controlBase + 0x100000000 then .control (a - controlBase)
  else if 0x1000000000000 ≤ a && a < 0x4000000000000 then
    let d := a - 0x1000000000000
    if d / 0xC000000000 < 1024 then .domain (d / 0xC000000000) (d % 0xC000000000) else .reserved
  else if 0x4000000000000 ≤ a && a < 0xC000000000000 then .pool ((a - 0x4000000000000) / 0x1000000000000)
  else if 0xC000000000000 ≤ a && a < 0x10000000000000 then .host
  else .reserved

/-- The home port die of a line's address (R130); a stage address stands on the port die of its window (R129). -/
def State.homePd (s : State) (a : Nat) : Nat :=
  match s.target a with
  | .stage p _ => p
  | _ => if s.z240 then bitsOf a 12 12 else bitsOf a 13 12
/-- The home slice of a line's address (R130); that of a stage offset is given by R141. -/
def State.homeSlice (s : State) (a : Nat) : Nat :=
  match s.target a with
  | .stage _ off => off / 256 % 64
  | _ => if s.z240 then bitsOf a 11 8 + 16 * bitsOf a 14 13 else bitsOf a 11 8 + 16 * bitsOf a 15 14
/-- The die offset of an address (R130). -/
def State.dieOffset (s : State) (a : Nat) : Nat :=
  (if s.z240 then a / 2 ^ 13 else a / 2 ^ 14) * 4096 + a % 4096
/-- The device stack of a local HBM address (R130, R17). -/
def State.stackOf (s : State) (a : Nat) : Nat := 3 * s.homePd a + s.dieOffset a / 256 % 3
/-- The pseudo-channel of a local HBM address (R130). -/
def State.channelOf (s : State) (a : Nat) : Nat := s.dieOffset a / 256 / 3 % 256
/-- The channel offset of a local HBM address (R130). -/
def State.channelOffset (s : State) (a : Nat) : Nat := s.dieOffset a / 256 / 768 * 256 + s.dieOffset a % 256
/-- The pool range entry that holds an address (R256). -/
def State.poolRange (s : State) (a port : Nat) : Option Nat :=
  (upTo 64).find? (fun i =>
    bitOf (s.regN .cxpPmctl i) 0 && s.regBits .cxpPmbase i 2 0 = port &&
    s.regBits .cxpPmbase i 51 16 ≤ a / 65536 && a / 65536 ≤ s.regBits .cxpPmctl i 51 16)
/-- Has the pool range failed (Table 12.7)? -/
def State.rangeFailed (s : State) (i : Nat) : Bool := bitOf (s.regN .cxpPmctl i) 1
/-- Does the address lie in a failed pool range or package (R263)? -/
def State.addrFailed (s : State) (a : Nat) : Bool :=
  match s.target a with
  | .pool port => match s.poolRange a port with | some i => s.rangeFailed i | none => false
  | .domain pkg _ => s.failed.contains pkg && pkg ≠ s.regN .zlkId
  | _ => false
/-- The address under which the bytes stand: a window of the package's own number is local HBM (R258). -/
def State.canonAddr (s : State) (a : Nat) : Nat :=
  match s.target a with
  | .domain pkg off => if pkg = s.regN .zlkId then off else a
  | _ => a
/-- Is the stage address within its port die's carve (R141)? -/
def State.stageOk (s : State) (p off : Nat) : Bool :=
  p < s.portDies && off < (KMap.lookD s.stage p {}).carve * 0x100000
/-- Is the 4-byte word full? Words outside stage memory count as full (R342). -/
def State.wordFull (s : State) (a : Nat) : Bool :=
  match s.target a with
  | .stage _ _ => s.full.contains (a / 4)
  | _ => true
/-- A stage word made full or empty (Table 7.5); no effect outside the stage memory that is carved. -/
def State.setFull (s : State) (a : Nat) (v : Bool) : State :=
  match s.target a with
  | .stage p off =>
    { s with full := if v then (if s.full.contains (a / 4) || !s.stageOk p off then s.full else s.full ++ [a / 4])
                     else s.full.filter (· ≠ a / 4) }
  | _ => s

/-! ## Tokens (R53 to R59) -/

/-- The tag word of Table 3.1. A token of the handler thread of handler slot j carries j in SLOT (log entry 7). -/
def Token.tagNat (t : Token) : Nat :=
  let burst := match t.burst with | .none => 0 | .head => 1 | .body => 2 | .tail => 3
  t.die * 2 ^ 29 + b2n t.deferred * 2 ^ 28 + burst * 2 ^ 26 + t.fmt.code.toNat * 2 ^ 23 + b2n t.pred * 2 ^ 22 +
  t.iter.toNat * 2 ^ 14 + (t.slot % 4096) * 4 + b2n t.eos

/-- A token from the tag word of a repair and its data (Table 3.1, R378). -/
def Token.ofTag (tag : Nat) (data : Beat) : Token :=
  { data := data, die := bitsOf tag 31 29, deferred := bitOf tag 28
    burst := match bitsOf tag 27 26 with | 0 => .none | 1 => .head | 2 => .body | _ => .tail
    fmt := Fmt.ofCode (BitVec.ofNat 3 (bitsOf tag 25 23)), pred := bitOf tag 22
    iter := BitVec.ofNat 8 (bitsOf tag 21 14), slot := bitsOf tag 13 2, eos := bitsOf tag 1 0 = 1 }

/-- The EOS token of a die (R54). -/
def eosToken (die : Nat) : Token := { die := die, pred := false, slot := 0xFFF, eos := true }

/-- Is the token a beat (R53)? -/
def Token.isBeat (t : Token) : Bool := t.burst ≠ .none

/-- The low 64 bits of a token. -/
def Token.w64 (t : Token) : Word := t.data.extractLsb' 0 64
/-- 64 bits in a token's data. -/
def beatOf (w : Word) : Beat := w.zeroExtend 256
/-- Sub-word m of a beat (R114). -/
def subWord (b : Beat) (m : Nat) : Word := b.extractLsb' (64 * m) 64
/-- A beat of sub-words. -/
def beatOfWords (l : List Word) : Beat :=
  BitVec.ofNat 256 (l.foldr (fun w acc => w.toNat + 2 ^ 64 * acc) 0)

/-- The input port codes: 0 to 7 channels as in Table 4.2, 8 to 11 local queues. -/
def srcPort : Src → Option Nat
  | .lit | .zero | .none => Option.none
  | s => some s.code.toNat

/-- The tile and channel that a link destination reaches (R59, Tables 4.2 and 4.3). -/
def linkTarget (t : Nat) : Dst → Option (Nat × Nat)
  | .n0 => if tileY t = 0 then none else some (t - 8, 4)
  | .n1 => if tileY t = 0 then none else some (t - 8, 5)
  | .e0 => if tileX t = 7 then none else some (t + 1, 6)
  | .e1 => if tileX t = 7 then none else some (t + 1, 7)
  | .s0 => if tileY t = 7 then none else some (t + 8, 0)
  | .s1 => if tileY t = 7 then none else some (t + 8, 1)
  | .w0 => if tileX t = 0 then none else some (t - 1, 2)
  | .w1 => if tileX t = 0 then none else some (t - 1, 3)
  | _ => none

/-- The queue of a queue destination. -/
def dstQueue : Dst → Option Nat
  | .q0 => some 0 | .q1 => some 1 | .q2 => some 2 | .q3 => some 3 | _ => none

/-- Everything that a destination of a tile delivers to: receiving tile, its port, and its distance (R59), which is the number
of fabric cycles that a broadcast takes to it (log entry 35). -/
def receivers (rect : Rect) (t : Nat) (d : Dst) : List (Nat × Nat × Nat) :=
  match d with
  | .row => (rect.tiles.filter (fun u => tileY u = tileY t && u ≠ t)).map (fun u =>
      if tileX t < tileX u then (u, 6, tileX u - tileX t) else (u, 2, tileX t - tileX u))
  | .col => (rect.tiles.filter (fun u => tileX u = tileX t && u ≠ t)).map (fun u =>
      if tileY t < tileY u then (u, 0, tileY u - tileY t) else (u, 4, tileY t - tileY u))
  | d => match dstQueue d with
    | some q => [(t, 8 + q, 1)]
    | none => match linkTarget t d with | some (u, p) => [(u, p, 1)] | none => []

/-- The tokens on a port of a plane context. -/
def PlaneCtx.port (c : PlaneCtx) (p : Nat) : List Arrival :=
  if p < 8 then KMap.lookD c.chans p [] else KMap.lookD c.queues (p - 8) []

/-- The tokens on a port changed. -/
def PlaneCtx.updPort (c : PlaneCtx) (p : Nat) (f : List Arrival → List Arrival) : PlaneCtx :=
  if p < 8 then { c with chans := KMap.alter c.chans p [] f } else { c with queues := KMap.alter c.queues (p - 8) [] f }

/-- The places of a port: a channel's declared depth or 2, a queue's 8, and in the handler context 2 (R58, R71, R207). -/
def PlaneCtx.places (c : PlaneCtx) (p : Nat) : Nat :=
  if c.plane.handler then 2 else if p < 8 then KMap.lookD c.plane.depths p 2 else 8

/-- Has the port a free place? -/
def PlaneCtx.room (c : PlaneCtx) (p : Nat) : Bool := (c.port p).length < c.places p

/-- The code under which a destination's waiting beats stand: Table 4.3, and 32 more in the handler context. -/
def emitKey (handler : Bool) (d : Dst) : Nat := d.code.toNat + (if handler then 32 else 0)

/-- A token put on a port behind those that are present no later than it is (R55, R59). -/
def arriveAt (a : Arrival) : List Arrival → List Arrival
  | [] => [a]
  | x :: r => if x.cycle ≤ a.cycle then x :: arriveAt a r else a :: x :: r

/-- The ports that a destination of a tile reaches, none for discard and the Dealer. -/
def State.reaches (s : State) (c t : Nat) (handler : Bool) (d : Dst) : List (Nat × Nat × Nat) :=
  receivers ((s.tile c t).ctx handler).plane.rect t d

/-- Can the destination itself take a token in this cycle: no result waits for it, and it has taken none in this cycle where it
takes one in each (R53, R126)? -/
def State.dstOpen (s : State) (c t : Nat) (handler : Bool) (d : Dst) : Bool :=
  let tl := s.tile c t
  !(tl.pendingEmits.any (fun p => p.dst = emitKey handler d)) &&
  KMap.look (tl.ctx handler).busyDst d.code.toNat ≠ some (s.cycle c)

/-- Can the destination accept a token in this cycle (R53, R58)? -/
def State.canSend (s : State) (c t : Nat) (handler : Bool) (d : Dst) : Bool :=
  match d with
  | .discard | .dlr => true
  | d => s.dstOpen c t handler d &&
    (s.reaches c t handler d).all (fun r => (s.ctx c r.1 handler).room r.2.1)

/-- Can both destinations of a result accept a token in this cycle? A port that both reach needs two places (R58). -/
def State.canSendBoth (s : State) (c t : Nat) (handler : Bool) (d0 d1 : Dst) : Bool :=
  s.canSend c t handler d0 && s.canSend c t handler d1 &&
  (s.reaches c t handler d0).all (fun r =>
    !(s.reaches c t handler d1).any (fun q => q.1 = r.1 && q.2.1 = r.2.1) ||
    decide (((s.ctx c r.1 handler).port r.2.1).length + 2 ≤ (s.ctx c r.1 handler).places r.2.1))

/-- A token placed on the ports that a destination reaches, present from the next cycle on (R55). -/
def State.deliver (s : State) (c t : Nat) (handler : Bool) (d : Dst) (tok : Token) : State :=
  (s.reaches c t handler d).foldl (fun s r =>
    s.updCtx c r.1 handler (fun x => x.updPort r.2.1 (arriveAt { tok := tok, cycle := s.cycle c + r.2.2 }))) s

/-- The cycle noted in which a destination has taken a token. -/
def State.noteSent (s : State) (c t : Nat) (handler : Bool) (d : Dst) : State :=
  s.updCtx c t handler (fun x => { x with busyDst := KMap.put x.busyDst d.code.toNat (s.cycle c) })

/-- A token sent on a destination: a link channel or a broadcast takes one in each cycle (R53), a queue one for each free
place. -/
def State.send (s : State) (c t : Nat) (handler : Bool) (d : Dst) (tok : Token) : State :=
  let s := s.deliver c t handler d tok
  if (dstQueue d).isSome then s else s.noteSent c t handler d

/-- A result of one or more tokens sent on a destination: the first leaves at once, the others one in each following cycle
in which there is room (R340, R126). -/
def State.emit (s : State) (c t : Nat) (handler : Bool) (d : Dst) (toks : List Token) : State :=
  if d = .discard || d = .dlr then s
  else match toks with
  | [] => s
  | x :: r =>
    let s := s.send c t handler d x
    if r.isEmpty then s
    else s.updTile c t (fun tl =>
      { tl with pendingEmits := tl.pendingEmits ++ r.map (fun y => ⟨emitKey handler d, y, none, false⟩) })

/-- The result of a burst load and its completion token, which leaves with the tail (R340, R341). -/
def State.emitWithTail (s : State) (c t : Nat) (handler : Bool) (d0 d1 : Dst) (toks : List Token) (done : Token) : State :=
  let s := s.emit c t handler d0 toks
  if d0 = .discard || toks.length ≤ 1 then s.emit c t handler d1 [done]
  else if d1 = .discard then s
  else s.updTile c t (fun tl =>
    { tl with pendingEmits := tl.pendingEmits ++ [⟨emitKey handler d1, done, some (emitKey handler d0), false⟩] })

/-! ## Lasting failures (R264) -/

/-- The places of a resource that lasting failures have disabled (Table 12.8): kind is SRC of Table 12.9, index its number. -/
def State.worn (s : State) (kind index : Nat) : Nat :=
  (s.checks.filter (fun x => x.kind = kind && x.index = index && x.lasting)).length

/-! ## Rings (R203, R265, R272, R273) -/

/-- Is the ring full: places as given, tail and head counting on without bound? -/
def ringFull (tail head places : Nat) : Bool := tail - head ≥ places

/-- Is a core's trace on (R272)? -/
def State.traced (s : State) (c : Nat) : Bool :=
  let ctl := s.regN .dbgTrctl
  bitOf ctl 0 && (bitOf ctl 16 || bitsOf ctl 15 8 = c)

/-- The words of a trace record (Table 13.1): the tag and the data of the result, and the tick of the firing. -/
def State.traceWords (s : State) (f : Firing) (d0 : Dst) (tok : Token) (time : Tick) : List Nat :=
  let c := f.site.core
  let th := s.thread c tok.slot
  let team := match s.team? th.team with | some x => x.index | none => 0xFFFFFFFF
  let blk := match th.exec with | some e => e.block | none => 0xFF
  [team * 2 ^ 32 + th.tid * 2 ^ 20 + tok.iter.toNat * 2 ^ 12 + blk * 16,
   c * 2 ^ 56 + f.site.tile * 2 ^ 50 + f.site.slot * 2 ^ 45 + d0.code.toNat * 2 ^ 40 +
     dieOf c * 2 ^ 37 + b2n tok.pred * 2 ^ 36 + b2n tok.deferred * 2 ^ 35,
   time, tok.w64.toNat]

/-- A trace record written, or counted as lost where the ring is full (R272). -/
def State.putTrace (s : State) (l : List Nat) : State :=
  let size := 1024 * 2 ^ bitsOf (s.regN .dbgTrctl) 4 1
  if ringFull s.dbg.trTail s.dbg.trHead size then
    let n := s.regN .dbgTrlost
    s.setRegN .dbgTrlost 0 (min (n + 1) 0xFFFFFFFF)
  else
    { s.putWords (s.regN .dbgTrbase + 32 * (s.dbg.trTail % size)) l with
      dbg := { s.dbg with trTail := s.dbg.trTail + 1 } }

/-- A trace record that waits behind another of its tile. -/
def State.holdTrace (s : State) (w : TraceWait) : State := { s with dbg := { s.dbg with trWait := s.dbg.trWait ++ [w] } }

/-- Does a record of a tile wait for the result of its access? -/
def State.traceWaits (s : State) (x : Site) : Bool := s.dbg.trWait.any (fun w => w.core = x.core && w.tile = x.tile)

/-- The record of an access whose result has come: it holds its words where it waits. -/
def State.fillTrace (s : State) (n : Nat) (words : Tick → List Nat) : State :=
  { s with dbg := { s.dbg with trWait := s.dbg.trWait.map (fun w =>
      if w.access = some n then { w with access := none, words := words w.time } else w) } }

/-- The trace record of a firing, with its result (R272, Table 13.1). That of an access whose result has come takes the place of
its firing; any other is written at once, or waits while a record of its tile still does, so that the tile's records stand in
the order of its firings. -/
def State.trace (s : State) (f : Firing) (d0 : Dst) (tok : Token) : State :=
  let c := f.site.core
  if f.trace.isSome && s.dbg.trWait.any (fun w => w.access = f.trace) then
    s.fillTrace (f.trace.getD 0) (s.traceWords f d0 tok)
  else if s.traced c then
    let l := s.traceWords f d0 tok (s.now c)
    if s.traceWaits f.site then s.holdTrace { core := c, tile := f.site.tile, access := none, time := s.now c, words := l }
    else s.putTrace l
  else s

/-- The records of R272 whose turn has come are written: those of a tile up to its first access without a result. The record of
an access that was discarded leaves the order. -/
def State.drainTrace (s : State) : State :=
  let out := s.dbg.trWait.foldl (fun (acc : List TraceWait × State) w =>
    if acc.1.any (fun x => x.core = w.core && x.tile = w.tile) then (acc.1 ++ [w], acc.2)
    else match w.access with
      | none => (acc.1, acc.2.putTrace w.words)
      | some n =>
        if (s.core w.core).accesses.any (fun a => a.2.trace = some n) then (acc.1 ++ [w], acc.2) else acc) ([], s)
  if s.dbg.trWait.isEmpty then s else { out.2 with dbg := { out.2.dbg with trWait := out.1 } }

/-- One wait of w cycles counted in a histogram, with the spill of R273 where its bin wraps. A bin whose spill waits for a
place counts nothing. -/
def State.countWait (s : State) (c t slot w : Nat) : State :=
  let bin := min 15 (Nat.log2 (w + 1))
  let key := slot * 16 + bin
  let tl := s.tile c t
  if tl.spills.any (fun p => p.1 = key) then s
  else
    let v := KMap.lookD tl.hist key 0
    if v = 0xFFFFFFFF then
      let w0 : Nat := t + slot * 2 ^ 6 + bin * 2 ^ 11 + c * 2 ^ 15
      let s := s.updTile c t (fun x => { x with hist := KMap.put x.hist key 0 })
      if ringFull s.dbg.spTail s.dbg.spHead 4096 then
        s.updTile c t (fun x => { x with spills := x.spills ++ [(key, BitVec.ofNat 64 w0)] })
      else
        let a := s.regN .pmcSpill + 16 * (s.dbg.spTail % 4096)
        { s.putWords a [w0, s.now c] with dbg := { s.dbg with spTail := s.dbg.spTail + 1 } }
    else s.updTile c t (fun x => { x with hist := KMap.put x.hist key (v + 1) })

/-- An error record written to the error log, or counted in ELG_LOST (R265, Table 12.9). unit is the UNIT field. -/
def State.logError (s : State) (src kind unit addr count : Nat) : State :=
  let ctl := s.regN .elgCtl
  let size := 128 * 2 ^ bitsOf ctl 4 1
  let seq := s.elog.seq
  let s := { s with elog := { s.elog with seq := seq + 1 } }
  if !bitOf ctl 0 || ringFull s.elog.tail (s.regN .elgHead) size then
    s.setRegN .elgLost 0 (min (s.regN .elgLost + 1) 0xFFFFFFFF)
  else
    let w0 := src * 2 ^ 56 + kind * 2 ^ 48 + (unit % 65536) * 2 ^ 32 + seq.toNat
    let a := s.regN .elgBase + 32 * (s.elog.tail % size)
    { s.putWords a [w0, addr, s.time.ref, count] with
      elog := { s.elog with tail := s.elog.tail + 1 }
      hostOut := s.hostOut ++ [.msix (bitsOf ctl 23 16)] }

/-- UNIT of an error record: die in [47:44], number in [43:32]. -/
def errUnit (die n : Nat) : Nat := die * 4096 + n % 4096

/-- The loss of a write to a failed pool range or package logged (R263). -/
def State.logDiscard (s : State) (line : Nat) : State :=
  match s.target (64 * line) with
  | .pool port => s.logError 10 6 (errUnit 0 ((s.poolRange (64 * line) port).getD 0)) (64 * line) 1
  | .domain pkg _ => s.logError 8 6 (errUnit 0 pkg) (64 * line) 1
  | _ => s

/-! ## Fault records (R200 to R203) -/

/-- A field of a record that is all ones where it does not apply. -/
def onesIfNone (w : Nat) (x : Option Nat) : Nat := match x with | some v => v % 2 ^ w | none => allOnesNat w

/-- The eight words of a record (Table 10.2). -/
def Record.toWords (r : Record) : List Nat :=
  let w0 := r.code * 2 ^ 56 + r.kind * 2 ^ 53 + b2n r.hlp * 2 ^ 52 + onesIfNone 8 r.core * 2 ^ 44 +
    onesIfNone 6 r.tile * 2 ^ 38 + onesIfNone 5 r.slot * 2 ^ 33 + onesIfNone 1 r.plane * 2 ^ 32 + r.seq.toNat
  if r.kind = 4 then
    let pad := (r.words ++ List.replicate 4 0).take 4
    [w0, 0] ++ pad.map BitVec.toNat ++ [0, 0]
  else
    [ w0
    , onesIfNone 32 r.team * 2 ^ 32 + onesIfNone 12 r.tid * 2 ^ 20 + onesIfNone 12 r.htid * 2 ^ 8 + onesIfNone 8 r.block
    , (match r.bits with | some b => b.word.toNat * 2 ^ 32 + b.lit.toNat | none => allOnesNat 64)
    , r.addr.toNat, r.time.toNat, r.info.toNat
    , onesIfNone 6 r.queue * 2 ^ 58 + onesIfNone 16 (r.gen.map BitVec.toNat) * 2 ^ 42 + onesIfNone 8 r.aspace * 2 ^ 34 +
        r.nops * 2 ^ 26 + b2n r.nt * 2 ^ 25 + b2n r.nb * 2 ^ 24
    , if r.nops = 0 then 0 else r.oplist.toNat ]

/-- The 64 bytes of a record. -/
def Record.toBytes (r : Record) : List Byte := r.toWords.flatMap (leBytes 8)

/-- A record with the next SEQ (R200). -/
def State.numberRecord (s : State) (r : Record) : Record × State :=
  ({ r with seq := s.station.seq }, { s with station := { s.station with seq := s.station.seq + 1 } })

/-- A record created for the system queue: it takes a SEQ and waits for delivery (R203). -/
def State.queueRecord (s : State) (r : Record) : State :=
  let (r, s) := s.numberRecord r
  { s with station := { s.station with pending := s.station.pending ++ [r] } }

/-- A record that keeps its SEQ entering behind those already waiting (R203: a trap raised later). -/
def State.queueKept (s : State) (r : Record) : State :=
  { s with station := { s.station with pending := s.station.pending ++ [r] } }

/-- A system event (Table 10.4). -/
def State.event (s : State) (code : Nat) (words : List Nat) : State :=
  s.queueRecord { code := code, kind := 4, time := BitVec.ofNat 64 s.time.ref, words := words.map (BitVec.ofNat 64) }

/-- The fields of a record that name the thread charged and the block executed (R200, R233). -/
def State.chargeRecord (s : State) (c k : Nat) (r : Record) : Record :=
  let th := s.thread c k
  let r := { r with core := some c, aspace := some (s.aspaceOf c k)
                    block := match th.exec with | some e => some e.block | none => r.block
                    nb := th.exec.isNone && r.block.isNone }
  if isHandlerKey k then { r with nt := true }
  else
    let g := s.gridOfTeam th.team
    { r with
      team := (s.team? th.team).map (·.index)
      hlp := th.helper.isSome
      tid := some (match th.helper with | some h => h.recruiter | none => th.tid)
      htid := th.helper.map (fun _ => th.tid)
      queue := g.map (·.queue)
      gen := g.map (·.gen) }

/-- The record of a fault that charges no thread, as the stray that EOS uncovers (R73, R381): it names the tile's block. -/
def Record.uncharged (r : Record) (blk : Option Nat) : Record :=
  { r with nt := true, team := none, tid := none, htid := none, hlp := false, block := blk, nb := blk.isNone }

/-- A record of a fault of a firing. -/
def State.firingRecord (s : State) (f : Firing) (k code kind : Nat) : Record :=
  s.chargeRecord f.site.core k
    { code := code, kind := kind, tile := some f.site.tile, slot := some f.site.slot
      plane := some (b2n f.site.handler), bits := some f.bits, time := BitVec.ofNat 64 (s.now f.site.core) }

/-! ## Taking a fault (R197 to R199)

A fault of any kind reaches the fault station as a fault token; the row FAULT_TOKEN then makes the record's trap. What the
fault does to its thread or tile at once is done here. -/

/-- A fault token sent on the core's exception network (R197). -/
def State.sendFault (s : State) (c : Nat) (t : FaultTok) : State :=
  s.updCore c (fun k => { k with faultNet := k.faultNet ++ [t] })

/-- A deferrable fault of an access (R135): recorded against the thread's execution, with its fault token. k is the thread
of the access. -/
def State.takeAccessFault (s : State) (f : Firing) (k code : Nat) (addr info : Word) : State :=
  let r := { s.firingRecord f k code 0 with addr := addr, info := info }
  let atomic := match s.exec? f.site.core k with | some e => e.atomic | none => false
  let s := s.updExec f.site.core k (fun e =>
    { e with faults := e.faults ++ [⟨code, f.site, f.bits, addr, info, s.now f.site.core⟩], sentFault := true })
  s.sendFault f.site.core
    { code := code, thread := some k, tile := some f.site.tile, kind := .exit, record := r, afterAtomic := atomic
      ctxHandler := f.site.handler }

/-- A freezing fault (R199): the tile stops firing, the faulting operand set or token is held for the resolution. -/
def State.takeFreeze (s : State) (f : Firing) (k code : Nat) (fz : Freeze) (info : Word) : State :=
  let c := f.site.core
  let t := f.site.tile
  let region := s.regionOfTile c t
  let r := { s.firingRecord f k code 2 with info := info, tile := some t }
  let r := if fz.atEos then r.uncharged (s.tile c t).main.plane.block else r
  let s := if f.site.handler then s
    else s.updTile c t (fun x => { x with frozen := some { fz with code := code, site := f.site, cycle := s.cycle c } })
  s.sendFault c
    { code := code, thread := if isHandlerKey k then some k else none, tile := some (t + 64 * (region.getD 0))
      kind := .freezing, record := r, ctxHandler := f.site.handler }

/-- An exit trap (R199): the thread becomes TRAPPED and its fault token goes to the station. The record is charged before the
execution ends. -/
def State.takeExitTrap (s : State) (c k code : Nat) (r : Record) (afterAtomic : Bool) : State :=
  let s := s.updThread c k (fun t => { t with st := .trapped, wait := none })
  s.sendFault c { code := code, thread := some k, tile := none, kind := .exit, record := r, afterAtomic := afterAtomic }

/-- A wait trap (R199): the thread leaves SLEEPING or LAYERWAIT for TRAPPED and keeps its wait for the resolution. -/
def State.takeWaitTrap (s : State) (c k code : Nat) (addr info : Word) : State :=
  let th := s.thread c k
  let r := s.chargeRecord c k { code := code, kind := 1, addr := addr, info := info, block := some th.next,
                                time := BitVec.ofNat 64 (s.now c) }
  let s := s.updThread c k (fun t => { t with st := .trapped, wait := none })
  s.sendFault c { code := code, thread := some k, tile := none, kind := .wait, record := r, waitOf := th.wait }

/-! ## Entering a state (R41, R212, R213) -/

/-- The hand of the team that a thread's faults and parking concern: its own, or its recruiter's (R211, R212). -/
def Thread.hand (t : Thread) : Nat := match t.helper with | some h => h.recruiter / 32 | none => t.tid / 32

/-- Is the thread's hand parked? -/
def State.handParked (s : State) (c k : Nat) : Bool :=
  let th := s.thread c k
  match s.team? th.team with
  | some t => (KMap.look t.parks (th.tid / 32)).isSome
  | none => false

/-- A thread about to wait on a block: WAITING, or in its hand's parked vector (R41, R212). A helper is held only with its
recruiter's fault (R233). -/
def State.enterWaiting (s : State) (c k blk : Nat) : State :=
  let parked := (s.thread c k).helper.isNone && !isHandlerKey k && s.handParked c k
  s.updThread c k (fun t =>
    { t with st := if parked then .parked else .waiting, next := blk, wait := none, exec := none })

/-- A thread about to become EXITED (R34, R47): a helper returns to EXITED with its contribution as it stands. -/
def State.enterExited (s : State) (c k : Nat) : State :=
  s.updThread c k (fun t => { t with st := .exited, wait := none, exec := none, helper := none })

/-- A thread put to sleep until a tick (R208 RETRYAT, R373). -/
def State.enterSleep (s : State) (c k : Nat) (w : Wait) : State :=
  s.updThread c k (fun t => { t with st := .sleeping, wait := some w, exec := none })

end Sys2Proof.Machine
end

