-- ==== Sys2Proof/Machine/Operands.lean ====
section
/-! DEFINITION. The operands of a firing and the forms of its result: lanes and elements of tokens, beats and bursts (R97,
R114, R286), the result tag under each tag action (R62, R63), bubbles and deferred firings (R68, R69), and the wrappers
under which every meaning of a firing stands. -/

namespace Sys2Proof.Machine

/-! ## Lanes and elements -/

/-- The parts of w bits of a word, the lowest first (R97). -/
def splitLanes (w : Nat) (x : Word) : List Nat := (upTo (64 / w)).map (fun i => bitsOf x.toNat (w * i + w - 1) (w * i))

/-- A word of parts of w bits, the lowest first; each taken modulo 2^w. -/
def joinLanes (w : Nat) (l : List Nat) : Word :=
  BitVec.ofNat 64 (l.foldr (fun x acc => x % 2 ^ w + 2 ^ w * acc) 0)

/-- A lane operation on one operand. -/
def lanes1 (w : Nat) (f : Nat → Nat) (a : Word) : Word := joinLanes w ((splitLanes w a).map f)

/-- A lane operation on two operands. -/
def lanes2 (w : Nat) (f : Nat → Nat → Nat) (a b : Word) : Word :=
  joinLanes w (List.zipWith f (splitLanes w a) (splitLanes w b))

/-- A lane operation on three operands. -/
def lanes3 (w : Nat) (f : Nat → Nat → Nat → Nat) (a b q : Word) : Word :=
  joinLanes w (List.zipWith (fun p c => f p.1 p.2 c) (List.zip (splitLanes w a) (splitLanes w b)) (splitLanes w q))

/-- Bits of an element of a token of a format under R114 (INT taken in lanes of the given width). -/
def elemBits (f : Fmt) (intLane : Nat) : Nat :=
  match f with
  | .bf16 => 16 | .e4m3 | .e5m2 => 8 | .q4 => 4 | .f32 => 32 | .a36 => 36 | .addr => 64 | .int => intLane

/-- The elements of a 64-bit token (Table 4.4): F32 and A36 tokens hold one. -/
def wordElems (f : Fmt) (intLane : Nat) (x : Word) : List Nat :=
  match f with
  | .f32 => [bitsOf x.toNat 31 0]
  | .a36 => [bitsOf x.toNat 35 0]
  | .addr => [x.toNat]
  | f => splitLanes (elemBits f intLane) x

/-- The sub-words of a token: one, or four of a beat (R114). -/
def Token.words (t : Token) : List Word := if t.isBeat then (upTo 4).map (subWord t.data) else [t.w64]

/-- The elements of a burst or token in index order (R114). -/
def tokenElems (f : Fmt) (intLane : Nat) (l : List Token) : List Nat :=
  l.flatMap (fun t => t.words.flatMap (wordElems f intLane))

/-- Sub-word m of an operand that combines elementwise: a 64-bit operand combines with each sub-word (R286). -/
def Token.sub (t : Token) (m : Nat) : Word := if t.isBeat then subWord t.data m else t.w64

/-- Data of a result with its flags. -/
structure Data where
  data : Beat
  flags : FpFlags := 0
  deriving DecidableEq, Repr

/-- A result of several words put together as a beat, or of one word. -/
def Data.ofWords (l : List (Word × FpFlags)) : Data := ⟨beatOfWords (l.map (·.1)), orFlags (l.map (·.2))⟩

/-- An elementwise operation on one operand (R286): m is the sub-word. -/
def elementwise1 (f : Nat → Word → Word × FpFlags) (a : Token) : Data :=
  if a.isBeat then Data.ofWords ((upTo 4).map (fun m => f m (a.sub m)))
  else Data.ofWords [f 0 a.w64]

/-- An elementwise operation on two operands; none where a 64-bit A meets a beat (R286). -/
def elementwise2 (f : Nat → Word → Word → Word × FpFlags) (a b : Token) : Option Data :=
  if a.isBeat then some (Data.ofWords ((upTo 4).map (fun m => f m (a.sub m) (b.sub m))))
  else if b.isBeat then none
  else some (Data.ofWords [f 0 a.w64 b.w64])

/-- An elementwise operation on three operands (R286). -/
def elementwise3 (f : Nat → Word → Word → Word → Word × FpFlags) (a b q : Token) : Option Data :=
  if a.isBeat then some (Data.ofWords ((upTo 4).map (fun m => f m (a.sub m) (b.sub m) (q.sub m))))
  else if b.isBeat || q.isBeat then none
  else some (Data.ofWords [f 0 a.w64 b.w64 q.w64])

/-! ## Constants -/

/-- The value that a slot of integer role receives under LIT (R78): sign-extended, and for a packed form truncated to the
lane and placed in every lane. -/
def litValue (w : Lane) (l : IntLit) : Word :=
  let x : Word := l.val.signExtend 64
  match w with
  | .w64 => x
  | w => joinLanes w.bits (List.replicate w.count (x.toNat % 2 ^ w.bits))

/-- The lane width that an integer instruction gives its literal: MD, or literal [30:29] for ADDS and SUBS; LEA and the
others take 64 bits. -/
def litLane : Instr → Lane
  | .add _ w _ | .sub _ w _ | .mul _ w _ | .mulh _ w _ | .min _ w _ | .max _ w _ | .and _ w _ | .or _ w _
  | .xor _ w _ | .andn _ w _ | .shl _ w _ | .shr _ w _ | .sar _ w _ | .rotl _ w _ | .bfx _ w _ | .cmp _ w _ _
  | .adds _ w _ | .subs _ w _ => w
  | _ => .w64

/-- The data of a source that is always present (R56): LIT, and ZERO. An opcode whose literal nobody examines takes LIT as
the integer role forms it (R329). -/
def constData (i : Instr) (lit : BitVec 32) (src : Src) : Word :=
  match src with
  | .lit => match i.intLit? with
    | some l => litValue (litLane i) l
    | none => (lit.extractLsb' 0 29).signExtend 64
  | _ => 0

/-- The token of a constant: the tag of the streamed operand, PRED = 1, DEF = 0 (R56). With the tag of a beat the value
stands in every sub-word, with which R286 combines it (log entry 32). -/
def constToken (data : Word) (streamed : Token) : Token :=
  { streamed with data := if streamed.isBeat then beatOfWords (List.replicate 4 data) else beatOf data
                  pred := true, deferred := false, deps := [], fixed := true }

/-- Is the token a beat where a 64-bit token is called for (R315)? A constant never is one. -/
def Token.isWide (t : Token) : Bool := t.isBeat && !t.fixed

/-! ## Results -/

/-- The first token of an operand; a constant zero where the operand has none. -/
def opTok (l : List Token) : Token := l.headD {}
/-- Operand A. -/
def Firing.tokA (f : Firing) : Token := opTok f.a
/-- Operand B. -/
def Firing.tokB (f : Firing) : Token := opTok f.b
/-- The third operand. -/
def Firing.tokQ (f : Firing) : Token := opTok f.q
/-- PRED of an operand (R62): of all its beats, where those of a burst differ (log entry 33); an absent operand counts as
true. -/
def predOf (l : List Token) : Bool := l.all (·.pred)
/-- DEF of an operand (R62): of any of its beats (log entry 33). -/
def defOf (l : List Token) : Bool := l.any (·.deferred)
/-- DEF of the result (R62, R69). -/
def Firing.deferred (f : Firing) : Bool := defOf f.a || defOf f.b || defOf f.q
/-- PRED of the result (R62, PREDA of R63). -/
def Firing.pred (f : Firing) (ta : TagAction) : Bool := predOf f.a && (ta = .preda || predOf f.b)
/-- The data of the first deferred operand in the order A, B, third (R69). -/
def Firing.deferredData (f : Firing) : Beat := (opTok ((f.a ++ f.b ++ f.q).filter (·.deferred))).data
/-- The accesses that the operands depend on (R137). -/
def Firing.deps (f : Firing) : List Nat := dedupNat ((f.a ++ f.b ++ f.q).flatMap (·.deps))
/-- The thread of the firing: that of B under STICKA and PURGE, else of A (R63). -/
def Firing.tagSource (f : Firing) (ta : TagAction) : Token :=
  match ta with | .sticka | .purge => f.tokB | _ => f.tokA
/-- The thread's key. -/
def Firing.key (f : Firing) (ta : TagAction) : Nat := (f.tagSource ta).slot

/-- A token with its data cut to the 64 bits that a token carries (R53). -/
def Token.fit (t : Token) : Token := if t.isBeat then t else { t with data := beatOf t.w64 }

/-- The result tag (R62, R63) with a format, data zero and DEF as the operands have it. -/
def Firing.resultTag (f : Firing) (ta : TagAction) (fmt : Fmt) : Token :=
  let t := f.tagSource ta
  { data := 0, die := dieOf f.site.core, deferred := f.deferred
    burst := match ta with
      | .head => .head | .tail => .tail | .whole => .none
      | .isect => if f.tokA.burst = .tail && f.tokB.burst = .tail then .tail else .none
      | _ => t.burst
    fmt := fmt, pred := f.pred ta
    iter := match ta with | .itinc => t.iter + 1 | .itclr => 0 | _ => t.iter
    slot := t.slot, deps := f.deps }

/-- What a firing that computes sends: tokens for D0 and D1, and the flags it raises. -/
structure Out where
  toks0 : List Token
  toks1 : List Token
  flags : FpFlags := 0
  deriving DecidableEq, Repr

/-- The same tokens on both destinations. -/
def Out.both (l : List Token) (fl : FpFlags := 0) : Out := ⟨l, l, fl⟩

/-- One token of the tag with data on both destinations. -/
def Out.data (tag : Token) (d : Data) : Out := Out.both [{ tag with data := d.data }.fit] d.flags

/-- Pending flags of a firing joined to its execution (R107). -/
def State.addFlags (s : State) (c k : Nat) (fl : FpFlags) : State :=
  if fl = 0 then s else s.updExec c k (fun e => { e with pend := e.pend ||| fl })

/-- Is a result emitted: not a bubble under DROPF, a deferred one always (R63, R69)? -/
def emitted (ta : TagAction) (t : Token) : Bool := ta ≠ .dropf || t.pred || t.deferred

/-- A mismatch slot whose D0 is discard returns its result to the port that diverted the token (R70), before the tokens that
wait there (log entry 34). -/
def State.returnToPort (s : State) (x : Site) (port : Option Nat) (d0 : Dst) (l : List Token) : State :=
  match port, d0 with
  | some p, .discard => s.updCtx x.core x.tile x.handler (fun c => c.updPort p (fun old =>
      l.map (fun t => (⟨t, s.cycle x.core + 1, true⟩ : Arrival)) ++ old))
  | _, _ => s

/-- The results of a firing leave on its two destinations (R58). -/
def State.sendOut (s : State) (f : Firing) (r : Route) (o : Out) : State :=
  let x := f.site
  let s := s.returnToPort x f.port r.d0 o.toks0
  let s := s.emit x.core x.tile x.handler r.d0 (o.toks0.filter (emitted r.ta))
  s.emit x.core x.tile x.handler r.d1 (o.toks1.filter (emitted r.ta))

/-- The results of a firing leave, and its trace record is written (R58, R272). -/
def State.emitOut (s : State) (f : Firing) (r : Route) (o : Out) : State :=
  (s.trace f r.d0 (opTok o.toks0)).sendOut f r o

/-- A firing with a deferred operand: it computes nothing and its result is deferred (R69). -/
def State.emitDeferred (s : State) (f : Firing) (r : Route) (fmt : Fmt) : State :=
  s.emitOut f r (.both [{ f.resultTag r.ta fmt with data := f.deferredData, deferred := true }.fit])

/-- A bubble: nothing is computed, and its result carries data zero and PRED = 0 (R68). -/
def State.emitBubble (s : State) (f : Firing) (r : Route) (fmt : Fmt) : State :=
  s.emitOut f r (.both [{ f.resultTag r.ta fmt with pred := false }])

/-- The firing raises a freezing fault: the tile stops and holds the operand set (R199). -/
def State.freezeFiring (s : State) (f : Firing) (ta : TagAction) (code : Nat) : State :=
  s.takeFreeze f (f.key ta) code { code := code, site := f.site, held := some f } 0

/-- FMTMIS (Table 10.1). -/
def codeFMTMIS : Nat := 0x03

/-! ## The wrappers of a meaning -/

/-- A meaning of a firing: it acts on the operand set that the tile has consumed; without one it changes nothing. -/
def withFiring (s : State) (k : State → Firing → State) : Host.Outcome State Fault Refusal :=
  match s.firing with
  | none => .next s
  | some f => .next (k { s with firing := none } f)

/-- The three cases of a firing (R68, R69): deferred, bubble, and the instruction's own effect. -/
def fireCases (r : Route) (fmt : Fmt) (own : State → Firing → State) (s : State) (f : Firing) : State :=
  if f.deferred then s.emitDeferred f r fmt
  else if !f.pred r.ta then s.emitBubble f r fmt
  else own s f

/-- An instruction's own effect where it is a value: the tokens it sends, or FMTMIS where its operands do not agree in
shape. -/
def valueEffect (r : Route) (compute : State → Firing → Option Out) (s : State) (f : Firing) : State :=
  match compute s f with
  | none => s.freezeFiring f r.ta codeFMTMIS
  | some o => (s.addFlags f.site.core (f.key r.ta) o.flags).emitOut f r o

/-- A firing that sends a value. -/
def valueFiring (r : Route) (fmt : Fmt) (compute : State → Firing → Option Out) (s : State) :
    Host.Outcome State Fault Refusal :=
  withFiring s (fireCases r fmt (valueEffect r compute))

/-- A firing whose result is one token of the result tag with the data computed. -/
def dataFiring (r : Route) (fmt : Fmt) (compute : State → Firing → Option Data) (s : State) :
    Host.Outcome State Fault Refusal :=
  valueFiring r fmt (fun s f => (compute s f).map (Out.data (f.resultTag r.ta fmt))) s

/-- A firing that emits A unchanged and has an effect beside (R356, R371 and others). The own effect acts first. -/
def passFiring (r : Route) (own : State → Firing → State) (s : State) : Host.Outcome State Fault Refusal :=
  withFiring s (fun s f => fireCases r f.tokA.fmt (fun s f =>
    (own s f).emitOut f r (Out.data (f.resultTag r.ta f.tokA.fmt) ⟨f.tokA.data, 0⟩)) s f)

/-- A firing that emits a 64-bit INT value and has an effect beside. -/
def wordFiring (r : Route) (own : State → Firing → State × Word) (s : State) : Host.Outcome State Fault Refusal :=
  withFiring s (fireCases r .int (fun s f =>
    let (s, v) := own s f
    s.emitOut f r (Out.data (f.resultTag r.ta .int) ⟨beatOf v, 0⟩)))

/-- A commit-time action of a firing recorded in its execution (R37). -/
def State.atCommit (s : State) (f : Firing) (ta : TagAction) (a : CommitAct) : State :=
  s.updExec f.site.core (f.key ta) (fun e => { e with acts := e.acts ++ [a] })

/-- The stochastic-rounding fields of a firing (R104). -/
def State.stochCtx (s : State) (f : Firing) (r : Route) : StochCtx :=
  let c := f.site.core
  let k := f.key r.ta
  let th := s.thread c k
  { seed := s.seedOf c k
    team := match s.team? th.team with | some t => t.index | none => 0
    tid := th.tid
    blk := match th.exec with | some e => e.block | none => 0
    tile := f.site.tile, slot := f.site.slot, iter := (f.resultTag r.ta .int).iter.toNat }

/-- Rounding of one element under a float control (R79, R104). -/
def roundCtl (c : FloatCtl) (x : StochCtx) (lane : Nat) : RoundCtl :=
  { rnd := c.rnd, sat := c.sat, stoch := if c.rnd = .rs then x.bits lane else 0 }

end Sys2Proof.Machine
end

