-- ==== Sys2Proof/Machine/IntOps.lean ====
section
/-! DEFINITION. The integer instructions (R287 to R293, R335, R349 to R351): lane results and meanings. -/

namespace Sys2Proof.Machine

/-! ## Lane results (Tables 15.3, 17.2, R289 to R293) -/

def laneAdd (w a b : Nat) : Nat := (a + b) % 2 ^ w
def laneSub (w a b : Nat) : Nat := (a + (2 ^ w - b % 2 ^ w)) % 2 ^ w
def laneMul (w a b : Nat) : Nat := (a * b) % 2 ^ w
/-- Bits [2w−1:w] of the exact product under S. -/
def laneMulh (w : Nat) (signed : Bool) (a b : Nat) : Nat :=
  intToLane w ((laneInt w signed a * laneInt w signed b) / (2 ^ w : Nat))
def laneMad (w a b q : Nat) : Nat := (a * b + q) % 2 ^ w
def laneLesser (signed : Bool) (w a b : Nat) : Nat := if laneInt w signed b < laneInt w signed a then b else a
def laneGreater (signed : Bool) (w a b : Nat) : Nat := if laneInt w signed a < laneInt w signed b then b else a
def laneAbs (w : Nat) (signed : Bool) (x : Nat) : Nat :=
  if signed && bitOf x (w - 1) then (2 ^ w - x) % 2 ^ w else x
def laneNot (w b : Nat) : Nat := (2 ^ w - 1) - b % 2 ^ w
def laneShl (w a c : Nat) : Nat := if c ≥ w then 0 else (a * 2 ^ c) % 2 ^ w
def laneShr (w a c : Nat) : Nat := if c ≥ w then 0 else a / 2 ^ c
def laneSar (w a c : Nat) : Nat := intToLane w (laneInt w true a / (2 ^ (min c w) : Nat))
def laneRotl (w a c : Nat) : Nat := let k := c % w; (a * 2 ^ k) % 2 ^ w + a / 2 ^ (w - k)
def lanePopc (w x : Nat) : Nat := ((upTo w).filter (bitOf x)).length
def laneClz (w x : Nat) : Nat := if x = 0 then w else w - 1 - Nat.log2 x
def laneCtz (w x : Nat) : Nat := ((upTo w).find? (bitOf x)).getD w
def laneBrev (w x : Nat) : Nat := (upTo w).foldl (fun acc i => acc + b2n (bitOf x i) * 2 ^ (w - 1 - i)) 0
/-- R291. -/
def laneBfx (w : Nat) (signed : Bool) (a spec : Nat) : Nat :=
  let n := min (bitsOf spec 15 8) w
  let p := bitsOf spec 7 0
  let f := if p ≥ w then 0 else (a / 2 ^ p) % 2 ^ n
  if signed && n > 0 && bitOf f (n - 1) then intToLane w ((f : Int) - (2 ^ n : Nat)) else f
/-- R292. -/
def laneBfi (w a b spec : Nat) : Nat :=
  let n := min (bitsOf spec 15 8) w
  let p := bitsOf spec 7 0
  let m := if p ≥ w then 0 else ((2 ^ n - 1) * 2 ^ p) % 2 ^ w
  (a &&& laneNot w m) ||| ((b * 2 ^ (min p w)) &&& m)
/-- R293. -/
def laneCmp (w : Nat) (signed : Bool) (c : Cond) (a b : Nat) : Nat :=
  let x := laneInt w signed a
  let y := laneInt w signed b
  let t : Bool := match c with | .eq => x = y | .ne => x ≠ y | .lt => x < y | .le => x ≤ y
  if t then 2 ^ w - 1 else 0
/-- R98, R290. -/
def laneSat (w : Nat) (signed sub : Bool) (a b : Nat) : Nat × FpFlags :=
  let x := laneInt w signed a
  let y := laneInt w signed b
  let (v, c) := clampLane w signed (if sub then x - y else x + y)
  (intToLane w v, flagIf fSAT c)
/-- R99, Table 5.1: the quotient or the remainder of the emulated division. -/
def laneDiv (w : Nat) (signed rem : Bool) (a b : Nat) : Nat :=
  let x := laneInt w signed a
  let y := laneInt w signed b
  if y = 0 then (if rem then a else 2 ^ w - 1)
  else intToLane w (if rem then Int.tmod x y else Int.tdiv x y)

/-! ## Shared forms -/

/-- An elementwise integer instruction of one operand, without flags. -/
def intFiring1 (r : Route1) (w : Lane) (f : Nat → Nat → Nat) (s : State) : Host.Outcome State Fault Refusal :=
  dataFiring r.full .int (fun _ x => some (elementwise1 (fun _ a => (lanes1 w.bits (f w.bits) a, 0)) x.tokA)) s

/-- An elementwise integer instruction of two operands, without flags. -/
def intFiring2 (r : Route) (w : Lane) (f : Nat → Nat → Nat → Nat) (s : State) : Host.Outcome State Fault Refusal :=
  dataFiring r .int (fun _ x => elementwise2 (fun _ a b => (lanes2 w.bits (f w.bits) a b, 0)) x.tokA x.tokB) s

/-- An elementwise integer instruction of three operands. -/
def intFiring3 (r : Route) (w : Lane) (f : Nat → Nat → Nat → Nat → Nat) (s : State) : Host.Outcome State Fault Refusal :=
  dataFiring r .int
    (fun _ x => elementwise3 (fun _ a b q => (lanes3 w.bits (f w.bits) a b q, 0)) x.tokA x.tokB x.tokQ) s

/-- ADDS and SUBS of two words (R98): the clamped lanes and SAT. -/
def satWords (w : Nat) (signed sub : Bool) (a b : Word) : Word × FpFlags :=
  let l := List.zipWith (laneSat w signed sub) (splitLanes w a) (splitLanes w b)
  (joinLanes w (l.map (·.1)), orFlags (l.map (·.2)))

/-! ## Meanings -/

/-- R289. -/
def execAdd (r : Route) (w : Lane) (_ : IntLit) (s : State) := intFiring2 r w laneAdd s
/-- R349. -/
def execSub (r : Route) (w : Lane) (_ : IntLit) (s : State) := intFiring2 r w laneSub s
/-- R349. -/
def execMul (r : Route) (w : Lane) (_ : IntLit) (s : State) := intFiring2 r w laneMul s
/-- R349. -/
def execMulh (r : Route) (w : Lane) (l : IntLit) (s : State) := intFiring2 r w (fun w => laneMulh w l.signed) s
/-- R351. -/
def execMad (r : Route) (w : Lane) (_ : BitVec 2) (s : State) := intFiring3 r w laneMad s
/-- R349. -/
def execMin (r : Route) (w : Lane) (l : IntLit) (s : State) := intFiring2 r w (laneLesser l.signed) s
/-- R349. -/
def execMax (r : Route) (w : Lane) (l : IntLit) (s : State) := intFiring2 r w (laneGreater l.signed) s
/-- R288. -/
def execAbs (r : Route1) (w : Lane) (signed : Bool) (s : State) := intFiring1 r w (fun w => laneAbs w signed) s
/-- R289. -/
def execAnd (r : Route) (w : Lane) (_ : IntLit) (s : State) := intFiring2 r w (fun _ a b => a &&& b) s
/-- R349. -/
def execOr (r : Route) (w : Lane) (_ : IntLit) (s : State) := intFiring2 r w (fun _ a b => a ||| b) s
/-- R349. -/
def execXor (r : Route) (w : Lane) (_ : IntLit) (s : State) := intFiring2 r w (fun _ a b => a ^^^ b) s
/-- R289. -/
def execAndn (r : Route) (w : Lane) (_ : IntLit) (s : State) := intFiring2 r w (fun w a b => a &&& laneNot w b) s
/-- R349. -/
def execShl (r : Route) (w : Lane) (_ : IntLit) (s : State) := intFiring2 r w laneShl s
/-- R349. -/
def execShr (r : Route) (w : Lane) (_ : IntLit) (s : State) := intFiring2 r w laneShr s
/-- R349. -/
def execSar (r : Route) (w : Lane) (_ : IntLit) (s : State) := intFiring2 r w laneSar s
/-- R349. -/
def execRotl (r : Route) (w : Lane) (_ : IntLit) (s : State) := intFiring2 r w laneRotl s
/-- R350. -/
def execPopc (r : Route1) (w : Lane) (_ : Bool) (s : State) := intFiring1 r w lanePopc s
/-- R288. -/
def execClz (r : Route1) (w : Lane) (_ : Bool) (s : State) := intFiring1 r w laneClz s
/-- R288. -/
def execCtz (r : Route1) (w : Lane) (_ : Bool) (s : State) := intFiring1 r w laneCtz s
/-- R288. -/
def execBrev (r : Route1) (w : Lane) (_ : Bool) (s : State) := intFiring1 r w laneBrev s
/-- R291. -/
def execBfx (r : Route) (w : Lane) (l : IntLit) (s : State) := intFiring2 r w (fun w => laneBfx w l.signed) s
/-- R292. -/
def execBfi (r : Route) (w : Lane) (_ : BitVec 2) (s : State) := intFiring3 r w laneBfi s
/-- R293. -/
def execCmp (r : Route) (w : Lane) (c : Cond) (l : IntLit) (s : State) :=
  intFiring2 r w (fun w => laneCmp w l.signed c) s
/-- R335: not elementwise; the sum modulo 2^64 as an address. -/
def execLea (r : Route) (_ : IntLit) (s : State) : Host.Outcome State Fault Refusal :=
  dataFiring r .addr (fun _ x =>
    if x.tokA.isWide || x.tokB.isWide then none else some ⟨beatOf (x.tokA.w64 + x.tokB.w64), 0⟩) s
/-- R290. -/
def execAdds (r : Route) (w : Lane) (l : IntLit) (s : State) : Host.Outcome State Fault Refusal :=
  dataFiring r .int (fun _ x => elementwise2 (fun _ => satWords w.bits l.signed false) x.tokA x.tokB) s
/-- R290. -/
def execSubs (r : Route) (w : Lane) (l : IntLit) (s : State) : Host.Outcome State Fault Refusal :=
  dataFiring r .int (fun _ x => elementwise2 (fun _ => satWords w.bits l.signed true) x.tokA x.tokB) s

/-! ## Emulated division and opcodes without an instruction (R82, R329, R330) -/

/-- A firing that raises a freezing fault where it is neither a bubble nor deferred (R82, R304). -/
def faultFiring (r : Route) (fmt : Fmt) (code : Nat) (s : State) : Host.Outcome State Fault Refusal :=
  withFiring s (fireCases r fmt (fun s f => s.freezeFiring f r.ta code))

/-- EMUOP and ILLOP (Table 10.1). -/
def codeEMUOP : Nat := 0x02
/-- EMUOP and ILLOP (Table 10.1). -/
def codeILLOP : Nat := 0x01

/-- R330. -/
def execIdiv (r : Route) (_ : BitVec 2) (_ : BitVec 32) (s : State) := faultFiring r .int codeEMUOP s
/-- R330. -/
def execIrem (r : Route) (_ : BitVec 2) (_ : BitVec 32) (s : State) := faultFiring r .int codeEMUOP s
/-- R330. -/
def execIdivn (r : Route) (_ : BitVec 2) (_ : BitVec 32) (s : State) := faultFiring r .int codeEMUOP s
/-- R330. -/
def execIremn (r : Route) (_ : BitVec 2) (_ : BitVec 32) (s : State) := faultFiring r .int codeEMUOP s
/-- R82: an unassigned opcode of 0x09 to 0xEF raises ILLOP. Its result format is not stated; INT (log entry 8). -/
def execUnassignedOpcode (_ : BitVec 8) (r : Route) (_ : BitVec 2) (_ : BitVec 32) (s : State) :=
  faultFiring r .int codeILLOP s
/-- R82: an opcode of 0xF4 to 0xFF raises EMUOP. -/
def execEmulationOpcode (_ : BitVec 8) (r : Route) (_ : BitVec 2) (_ : BitVec 32) (s : State) :=
  faultFiring r .int codeEMUOP s

end Sys2Proof.Machine
end

