-- ==== Sys2Proof/Machine/RouteOps.lean ====
section
/-! DEFINITION. The routing nodes (R326, R327, R336, R352 to R357), the key instructions (R333, R334), BKT (R301), the
system reads and markers (R328, R370, R371), BKPT and TRAP (R304, R377). -/

namespace Sys2Proof.Machine

/-- R352: a sink, bubbles and deferred operands included. -/
def execNop (_ _ : Src) (_ : TagAction) (s : State) : Host.Outcome State Fault Refusal :=
  withFiring s (fun s f => s.trace f .discard f.tokA)

/-- R353. -/
def execMov (r : Route) (s : State) : Host.Outcome State Fault Refusal :=
  withFiring s (fun s f => fireCases r f.tokA.fmt
    (valueEffect r (fun _ f => some (Out.data (f.resultTag r.ta f.tokA.fmt) ⟨f.tokA.data, 0⟩))) s f)

/-- The data and format of LIT (R336). -/
def litResult (kind : LitKind) (v : BitVec 32) : Word × Fmt :=
  match kind with
  | .i64 => (v.signExtend 64, .int)
  | .n64 => (v.zeroExtend 64, .int)
  | .f32 => (v.zeroExtend 64, .f32)
  | .bf16 => (joinLanes 16 (List.replicate 4 (v.toNat % 65536)), .bf16)

/-- R336. -/
def execLit (r : Route1) (kind : LitKind) (v : BitVec 32) (s : State) : Host.Outcome State Fault Refusal :=
  dataFiring r.full (litResult kind v).2 (fun _ _ => some ⟨beatOf (litResult kind v).1, 0⟩) s

/-- The token SEL forms (R354). -/
def selToken (r : Route) (f : Firing) : Token :=
  let a := f.tokA
  let b := f.tokB
  let x := if a.pred then a else b
  let t := f.resultTag r.ta x.fmt
  let t := { t with data := if f.deferred then f.deferredData else x.data
                    pred := a.pred || b.pred
                    burst := (match r.ta with | .head | .tail => t.burst | _ => x.burst) }
  if f.deferred then t.fit else if t.pred then t.fit else { t with data := 0 }

/-- R354: the two arms of a predicated if-then-else merged; a mixture of a beat and a 64-bit token raises FMTMIS. A deferred
operand carries one token whatever the other is. -/
def execSel (r : Route) (s : State) : Host.Outcome State Fault Refusal :=
  withFiring s (fun s f =>
    if !f.deferred && f.tokA.isBeat ≠ f.tokB.isBeat then s.freezeFiring f r.ta codeFMTMIS
    else s.emitOut f r (.both [selToken r f]))

/-- The test of GATE and STEER (R327, R355). -/
def maskTest (f : Firing) (sense : Bool) : Bool := (f.tokB.w64 ≠ 0) != sense

/-- A result of GATE or STEER under a predicate: a deferred one with the data of R69, a bubble with data zero. -/
def gateToken (r : Route) (f : Firing) (p : Bool) : Token :=
  { f.resultTag r.ta f.tokA.fmt with
    pred := p
    data := if f.deferred then f.deferredData else if p then f.tokA.data else 0 }.fit

/-- R327: a beat on B raises FMTMIS (R315). -/
def execGate (r : Route) (sense : Bool) (s : State) : Host.Outcome State Fault Refusal :=
  withFiring s (fun s f =>
    if !f.deferred && f.tokB.isWide then s.freezeFiring f r.ta codeFMTMIS
    else
    let p := predOf f.a && predOf f.b && (defOf f.b || maskTest f sense)
    s.emitOut f r (.both [gateToken r f p]))

/-- R355: a beat on B raises FMTMIS (R315). -/
def execSteer (r : Route) (sense : Bool) (s : State) : Host.Outcome State Fault Refusal :=
  withFiring s (fun s f =>
    if !f.deferred && f.tokB.isWide then s.freezeFiring f r.ta codeFMTMIS
    else
    let p := predOf f.a && predOf f.b
    let p0 := p && (defOf f.b || maskTest f sense)
    let p1 := p && (defOf f.b || !maskTest f sense)
    s.emitOut f r ⟨[gateToken r f p0], [gateToken r f p1], 0⟩)

/-- The lanes of PACK for one word of each operand (R357). -/
def packWords (w : Nat) (signed sat : Bool) (a b : Word) : Word × FpFlags :=
  let h := w / 2
  let narrow (x : Nat) : Nat × FpFlags :=
    if sat then
      let (v, c) := clampLane h signed (laneInt w signed x)
      (intToLane h v, flagIf fSAT c)
    else (x % 2 ^ h, 0)
  let l := (splitLanes w a ++ splitLanes w b).map narrow
  (joinLanes h (l.map (·.1)), orFlags (l.map (·.2)))

/-- R357. -/
def execPack (r : Route) (w : Lane) (signed sat : Bool) (s : State) : Host.Outcome State Fault Refusal :=
  dataFiring r .int (fun _ x => elementwise2 (fun _ => packWords w.bits signed sat) x.tokA x.tokB) s

/-- R326. -/
def execFmts (r : Route1) (m : Fmt) (s : State) : Host.Outcome State Fault Refusal :=
  dataFiring r.full m (fun _ f => some ⟨f.tokA.data, 0⟩) s

/-! ## Keys (R300, R301, R333, R334) -/

/-- The key of a sub-word as an integer (R333). -/
def keyInt (key32 signed : Bool) (x : Word) : Int :=
  if key32 then laneInt 32 signed (bitsOf x.toNat 63 32) else laneInt 64 signed x.toNat

/-- Merging of R333: fuel is the number of outputs still to come. -/
def mergeKeys (before : Word → Word → Bool) : Nat → List Word → List Word → List Word
  | 0, _, _ => []
  | n + 1, a, b =>
    match a, b with
    | [], [] => []
    | x :: xs, [] => x :: mergeKeys before n xs []
    | [], y :: ys => y :: mergeKeys before n [] ys
    | x :: xs, y :: ys =>
      if before x y then x :: mergeKeys before n xs (y :: ys) else y :: mergeKeys before n (x :: xs) ys

/-- R333: the lower four sub-words on D0, the upper four on D1. -/
def kmergeOut (r : Route) (key32 desc signed : Bool) (f : Firing) : Option Out :=
  if !f.tokA.isBeat || !f.tokB.isBeat then none
  else
    let before (x y : Word) : Bool :=
      if desc then keyInt key32 signed x ≥ keyInt key32 signed y else keyInt key32 signed x ≤ keyInt key32 signed y
    let m := mergeKeys before 8 f.tokA.words f.tokB.words
    let t := f.resultTag r.ta .int
    some ⟨[{ t with data := beatOfWords (m.take 4) }], [{ t with data := beatOfWords (m.drop 4) }], 0⟩

/-- R333. -/
def execKmerge (r : Route) (key32 desc signed : Bool) (s : State) : Host.Outcome State Fault Refusal :=
  valueFiring r .int (fun _ f => kmergeOut r key32 desc signed f) s

/-- R334: the list with the key inserted. -/
def kselOut (r : Route) (key32 desc signed : Bool) (f : Firing) : Option Out :=
  if !f.tokA.isBeat || f.tokB.isWide then none
  else
    let precedes (x y : Word) : Bool :=
      if desc then keyInt key32 signed x > keyInt key32 signed y else keyInt key32 signed x < keyInt key32 signed y
    let c := f.tokB.w64
    let l := f.tokA.words
    let p := (l.findIdx? (precedes c)).getD 4
    let m := l.take p ++ [c] ++ l.drop p
    let t := f.resultTag r.ta .int
    some ⟨[{ t with data := beatOfWords (m.take 4) }],
          [{ t with data := beatOf (m.getD 4 0), burst := .none }], 0⟩

/-- R334. -/
def execKsel (r : Route) (key32 desc signed : Bool) (s : State) : Host.Outcome State Fault Refusal :=
  valueFiring r .int (fun _ f => kselOut r key32 desc signed f) s

/-- The bucket of a key among the first NS splitters (R301). -/
def bucketOf (signed : Bool) (ns : Nat) (splitters : List Word) (key : Word) : Nat :=
  ((splitters.take ns).filter (fun x => laneInt 64 signed x.toNat < laneInt 64 signed key.toNat)).length

/-- The result of BKT in a mode (R300). -/
def bktResult (mode : BktMode) (b : Nat) : Word :=
  match mode with
  | .index => BitVec.ofNat 64 b
  | .onehot16 => BitVec.ofNat 64 (2 ^ (16 * b))
  | .onehot8 => BitVec.ofNat 64 (2 ^ (8 * b))

/-- R301: B is the held splitter burst; a beat on A raises FMTMIS. -/
def execBkt (r : Route2) (mode : BktMode) (signed : Bool) (ns : BitVec 5) (s : State) :
    Host.Outcome State Fault Refusal :=
  dataFiring (r.full .stickb) .int (fun _ f =>
    if f.tokA.isBeat then none
    else
      let b := bucketOf signed (ns.toNat + 1) (f.b.flatMap Token.words) f.tokA.w64
      some ⟨beatOf (bktResult mode b), 0⟩) s

/-! ## System reads and markers (R328, R370, R371) -/

/-- The value of a special register (R28, Table 2.2). -/
def sregValue (s : State) (f : Firing) (k : Nat) (sel : SReg) : Word :=
  let c := f.site.core
  let th := s.thread c k
  let n (x : Nat) : Word := BitVec.ofNat 64 x
  let team := s.team? th.team
  let grid := s.gridOfTeam th.team
  match sel with
  | .tid => n th.tid
  | .lane => n (th.tid % 32)
  | .hand => n (th.tid / 32)
  | .team => n (match team with | some t => t.index | none => 0)
  | .teamhi => n (match grid with | some g => g.teams - 1 | none => 0)
  | .cluster =>
    match team, grid with
    | some t, some g => n (t.rank * 2 ^ 32 + t.index / (g.cw * g.ch))
    | _, _ => 0
  | .core => n c
  | .die => n (dieOf c)
  | .node => n (nodeOf c)
  | .time => n (s.now c)
  | .hidx => match th.helper with | some h => n h.index | none => BitVec.allOnes 64
  | .rcr => match th.helper with | some h => n h.recruiter | none => BitVec.allOnes 64
  | .block => n (match th.exec with | some e => e.block | none => 0)
  | .fpflags => th.fpflags.zeroExtend 64
  | .fault => n (bitsOf (s.regN .fstRecbase) 56 27 * 2 ^ 27 + (32 * c + (k - 4096)) * 16384)

/-- R370: read at firing; MD = 1 on $fpflags marks what was returned for clearing at commit. -/
def execSreg (r : Route1) (clear : Bool) (sel : SReg) (s : State) : Host.Outcome State Fault Refusal :=
  wordFiring r.full (fun s f =>
    let k := f.key .unary
    let v := sregValue s f k sel
    let s := if clear then s.updExec f.site.core k (fun e => { e with cleared := e.cleared ||| v.extractLsb' 0 6 }) else s
    (s, v)) s

/-- R328: the executing die's copy of the time base at the firing; VALID decides only when the set may fire. -/
def execGtime (r : Route1) (_ : Bool) (s : State) : Host.Outcome State Fault Refusal :=
  wordFiring r.full (fun s f => (s, BitVec.ofNat 64 (s.now f.site.core))) s

/-- R371: its trace record holds CODE above the low 48 bits of A, and A leaves unchanged. -/
def execPmark (r : Route1) (code : BitVec 16) (s : State) : Host.Outcome State Fault Refusal :=
  withFiring s (fun s f => fireCases r.full f.tokA.fmt (fun s f =>
    (s.trace f r.d0 { f.resultTag .unary f.tokA.fmt with
      data := beatOf (BitVec.ofNat 64 (code.toNat * 2 ^ 48 + bitsOf f.tokA.w64.toNat 47 0)) }).sendOut f r.full
        (Out.data (f.resultTag .unary f.tokA.fmt) ⟨f.tokA.data, 0⟩)) s f)

/-- R304. -/
def execBkpt (sa : Src) (_ : BitVec 16) (s : State) := faultFiring (sinkRoute sa .none .unary) .int 0x51 s
/-- R377. -/
def execTrap (sa : Src) (_ : BitVec 16) (s : State) := faultFiring (sinkRoute sa .none .unary) .int 0x50 s

end Sys2Proof.Machine
end

