-- ==== Sys2Proof/Machine/FloatOps.lean ====
section
/-! DEFINITION. The floating-point instructions (R316 to R325), the conversions (R313, R314), the Q4 packing (R110 to R113,
R361, R362) and the reductions (R115, R358 to R360). -/

namespace Sys2Proof.Machine

/-- The format tag of an element format. -/
def felemFmt : FElem → Fmt | .f32 => .f32 | .bf16 => .bf16
/-- The format tag of an element format of FSUM and FDOT. -/
def felem4Fmt : FElem4 → Fmt | .f32 => .f32 | .bf16 => .bf16 | .e4m3 => .e4m3 | .e5m2 => .e5m2
/-- The format tag of an operand format of FCLASS. -/
def fclassFmt : FClassElem → Fmt | .f32 => .f32 | .bf16 => .bf16 | .a36 => .a36

/-- A word of elements of a format, the lowest first (Table 4.4). -/
def joinElems (f : Fmt) (l : List Nat) : Word :=
  match f with
  | .f32 => BitVec.ofNat 64 (l.headD 0 % 2 ^ 32)
  | .a36 => BitVec.ofNat 64 (l.headD 0 % 2 ^ 36)
  | .bf16 => joinLanes 16 l
  | .e4m3 | .e5m2 => joinLanes 8 l
  | .q4 => joinLanes 4 l
  | .int | .addr => joinLanes 64 l

/-- The results of the elements of a word, put together. -/
def elemResult (f : Fmt) (l : List (Nat × FpFlags)) : Word × FpFlags := (joinElems f (l.map (·.1)), orFlags (l.map (·.2)))

/-- An operation on the elements of one word; it is given the element's index within the result, count L times m on. -/
def fwords1 (e : FElem) (op : Nat → FloatFmt → Nat → Nat × FpFlags) (m : Nat) (a : Word) : Word × FpFlags :=
  let t := felemFmt e
  elemResult t ((wordElems t 64 a).mapIdx (fun j x => op (t.count * m + j) (.ofTag t) x))

/-- An operation on the elements of two words. -/
def fwords2 (e : FElem) (op : Nat → FloatFmt → Nat → Nat → Nat × FpFlags) (m : Nat) (a b : Word) : Word × FpFlags :=
  let t := felemFmt e
  elemResult t ((List.zip (wordElems t 64 a) (wordElems t 64 b)).mapIdx
    (fun j p => op (t.count * m + j) (.ofTag t) p.1 p.2))

/-- An elementwise floating-point instruction of one operand. -/
def floatFiring1 (r : Route1) (e : FElem) (c : FloatCtl) (op : RoundCtl → FloatFmt → Nat → Nat × FpFlags) (s : State) :
    Host.Outcome State Fault Refusal :=
  dataFiring r.full (felemFmt e) (fun s f =>
    let x := s.stochCtx f r.full
    some (elementwise1 (fwords1 e (fun i t a => op (roundCtl c x i) t a)) f.tokA)) s

/-- An elementwise floating-point instruction of two operands. -/
def floatFiring2 (r : Route) (e : FElem) (c : FloatCtl) (op : RoundCtl → FloatFmt → Nat → Nat → Nat × FpFlags)
    (s : State) : Host.Outcome State Fault Refusal :=
  dataFiring r (felemFmt e) (fun s f =>
    let x := s.stochCtx f r
    elementwise2 (fwords2 e (fun i t a b => op (roundCtl c x i) t a b)) f.tokA f.tokB) s

/-- Nearest even without saturation. -/
def ctlRn : FloatCtl := ⟨.rn, false⟩

/-- R317. -/
def execFadd (r : Route) (e : FElem) (c : FloatCtl) (s : State) :=
  floatFiring2 r e c (fun k t a b => fvAdd t k (t.value a) (t.value b)) s
/-- R317. -/
def execFsub (r : Route) (e : FElem) (c : FloatCtl) (s : State) :=
  floatFiring2 r e c (fun k t a b => fvAdd t k (t.value a) (t.value b).negate) s
/-- R317. -/
def execFmul (r : Route) (e : FElem) (c : FloatCtl) (s : State) :=
  floatFiring2 r e c (fun k t a b => fvMul t k (t.value a) (t.value b)) s
/-- R317, R102. -/
def execFmin (r : Route) (e : FElem) (s : State) := floatFiring2 r e ctlRn (fun _ t a b => fMinMax t false a b) s
/-- R317, R102. -/
def execFmax (r : Route) (e : FElem) (s : State) := floatFiring2 r e ctlRn (fun _ t a b => fMinMax t true a b) s

/-- The fused multiply-add of one word (R318). -/
def fmaWords (e : FElem) (a b q : Word) : Word × FpFlags :=
  let t := felemFmt e
  let g := FloatFmt.ofTag t
  elemResult t (List.zipWith (fun p z => fvFma g {} (g.value p.1) (g.value p.2) (g.value z))
    (List.zip (wordElems t 64 a) (wordElems t 64 b)) (wordElems t 64 q))

/-- R318: rounded once under .rn without saturation. -/
def execFfma (r : Route) (e : FElem) (_ : BitVec 2) (s : State) : Host.Outcome State Fault Refusal :=
  dataFiring r (felemFmt e) (fun _ f => elementwise3 (fun _ => fmaWords e) f.tokA f.tokB f.tokQ) s

/-- R320: the sign bit cleared, no flag. -/
def execFabs (r : Route1) (e : FElem) (s : State) :=
  floatFiring1 r e ctlRn (fun _ t a => (a % 2 ^ (t.ebits + t.fbits), 0)) s
/-- R320: the sign bit inverted, no flag. -/
def execFneg (r : Route1) (e : FElem) (s : State) :=
  floatFiring1 r e ctlRn (fun _ t a => (a ^^^ 2 ^ (t.ebits + t.fbits), 0)) s

/-- The width of a result lane of FCMP and FCLASS (R322, R323). -/
def maskLane : Fmt → Nat | .bf16 => 16 | _ => 64

/-- R322: lanes of all ones or zero. -/
def fcmpWords (e : FElem) (c : Cond) (a b : Word) : Word × FpFlags :=
  let t := felemFmt e
  let w := maskLane t
  let l := (List.zip (wordElems t 64 a) (wordElems t 64 b)).map (fun p => fCompare (.ofTag t) c p.1 p.2)
  (joinLanes w (l.map (fun x => if x.1 then 2 ^ w - 1 else 0)), orFlags (l.map (·.2)))

/-- R322. -/
def execFcmp (r : Route) (e : FElem) (c : Cond) (s : State) : Host.Outcome State Fault Refusal :=
  dataFiring r .int (fun _ f => elementwise2 (fun _ => fcmpWords e c) f.tokA f.tokB) s

/-- R323: the class bits of a word's elements, and NV for a signalling NaN. -/
def fclassWords (e : FClassElem) (a : Word) : Word × FpFlags :=
  let t := fclassFmt e
  let l := (wordElems t 64 a).map (fClass (.ofTag t))
  (joinLanes (maskLane t) (l.map (2 ^ ·)), flagIf fNV (l.contains 8))

/-- R323. -/
def execFclass (r : Route1) (e : FClassElem) (s : State) : Host.Outcome State Fault Refusal :=
  dataFiring r.full .int (fun _ f => some (elementwise1 (fun _ => fclassWords e) f.tokA)) s

/-- R319. -/
def execFrcp (r : Route1) (e : FElem) (c : FloatCtl) (s : State) :=
  floatFiring1 r e c (fun k t a => fFunction .rcp t k a) s
/-- R319. -/
def execFrsq (r : Route1) (e : FElem) (c : FloatCtl) (s : State) :=
  floatFiring1 r e c (fun k t a => fFunction .rsq t k a) s
/-- R319. -/
def execFsqrt (r : Route1) (e : FElem) (c : FloatCtl) (s : State) :=
  floatFiring1 r e c (fun k t a => fFunction .sqrt t k a) s
/-- R319. -/
def execFexp2 (r : Route1) (e : FElem) (c : FloatCtl) (s : State) :=
  floatFiring1 r e c (fun k t a => fFunction .exp2 t k a) s
/-- R319. -/
def execFlog2 (r : Route1) (e : FElem) (c : FloatCtl) (s : State) :=
  floatFiring1 r e c (fun k t a => fFunction .log2 t k a) s
/-- R319. -/
def execFsin (r : Route1) (e : FElem) (c : FloatCtl) (s : State) :=
  floatFiring1 r e c (fun k t a => fFunction .sin t k a) s
/-- R319. -/
def execFcos (r : Route1) (e : FElem) (c : FloatCtl) (s : State) :=
  floatFiring1 r e c (fun k t a => fFunction .cos t k a) s
/-- R319. -/
def execFtanh (r : Route1) (e : FElem) (c : FloatCtl) (s : State) :=
  floatFiring1 r e c (fun k t a => fFunction .tanh t k a) s

/-- The exponents of FSCALE: B[31:0], or the 16-bit lane of each element (R321). -/
def scaleExps (e : FElem) (b : Word) : List Int :=
  match e with
  | .f32 => [laneInt 32 true (bitsOf b.toNat 31 0)]
  | .bf16 => (splitLanes 16 b).map (laneInt 16 true)

/-- R321. -/
def execFscale (r : Route) (e : FElem) (c : FloatCtl) (s : State) : Host.Outcome State Fault Refusal :=
  dataFiring r (felemFmt e) (fun s f =>
    let x := s.stochCtx f r
    let t := felemFmt e
    elementwise2 (fun m a b => elemResult t ((List.zip (wordElems t 64 a) (scaleExps e b)).mapIdx
      (fun j p => fScaleBy (.ofTag t) (roundCtl c x (t.count * m + j)) p.1 p.2))) f.tokA f.tokB) s

/-! ## Reductions to F32 (R115, R324, R325, R359) -/

/-- An element that no operation has acted on: a NaN is canonical, with NV if it was signalling (R115). -/
def canonElem (t : FloatFmt) (x : Nat) : Nat × FpFlags :=
  let v := t.value x
  if v.isNan then (t.nanBits, flagIf fNV v.isSnan) else (x, 0)

/-- Tree over F32 elements with the flags of every operation (R115). -/
def floatTree (op : Nat → Nat → Nat × FpFlags) (l : List (Nat × FpFlags)) : Nat × FpFlags :=
  let f (x y : Nat × FpFlags) : Nat × FpFlags := let (v, fl) := op x.1 y.1; (v, x.2 ||| y.2 ||| fl)
  match treeFold f l.length l with
  | none => (0, 0)
  | some (v, fl) => let (v', fl') := canonElem fmtF32 v; (v', fl ||| fl')

/-- Elements widened exactly to F32 (R108); an F32 element is itself. -/
def widenF32 (t : Fmt) (l : List Nat) : List (Nat × FpFlags) :=
  if t = .f32 then l.map (fun x => (x, 0)) else l.map (fConvert (.ofTag t) fmtF32 {})

/-- Addition of two F32 values under a float control. -/
def addF32 (c : RoundCtl) (a b : Nat) : Nat × FpFlags := fvAdd fmtF32 c (fmtF32.value a) (fmtF32.value b)

/-- The operand of a reduction: one 64-bit token under UNARY, a burst under WHOLE; none where a beat stands under UNARY. -/
def reduceTokens (r : Route) (f : Firing) : Option (List Token) :=
  if r.ta = .unary && f.tokA.isBeat then none else some f.a

/-- R324. -/
def execFsum (r : Route) (e : FElem4) (c : FloatCtl) (s : State) : Host.Outcome State Fault Refusal :=
  valueFiring r .f32 (fun _ f => (reduceTokens r f).map (fun l =>
    let (v, fl) := floatTree (addF32 (roundCtl c {} 0)) (widenF32 (felem4Fmt e) (tokenElems (felem4Fmt e) 64 l))
    Out.both [{ f.resultTag r.ta .f32 with data := beatOf (BitVec.ofNat 64 v), burst := .none }] fl)) s

/-- Does a product or an infinite pair of terms make the sum invalid: ∞ × 0, or infinite terms of both signs (R102, R122,
R325)? -/
def dotInvalid (pairs : List (FVal × FVal)) (extra : Option FVal) : Bool :=
  let infs := (pairs.filter (fun p => (p.1.isInf || p.2.isInf) && !p.1.isZero && !p.2.isZero && !p.1.isNan && !p.2.isNan)).map
      (fun p => p.1.neg != p.2.neg) ++ (extra.toList.filter FVal.isInf).map FVal.neg
  pairs.any (fun p => (p.1.isInf && p.2.isZero) || (p.1.isZero && p.2.isInf)) || (infs.contains true && infs.contains false)

/-- The exact sum of products and a further term, rounded once (R122, R325): NaNs, infinite terms and the sign of a zero sum
as those rules state. -/
def dotRound (dst : FloatFmt) (c : RoundCtl) (pairs : List (FVal × FVal)) (extra : Option FVal) : Nat × FpFlags :=
  let xs := pairs.flatMap (fun p => [p.1, p.2]) ++ extra.toList
  let infs := (pairs.filter (fun p => p.1.isInf || p.2.isInf)).map (fun p => p.1.neg != p.2.neg) ++
    (extra.toList.filter FVal.isInf).map FVal.neg
  if dotInvalid pairs extra then nanRes dst true
  else if xs.any FVal.isNan then nanRes dst (xs.any FVal.isSnan)
  else match infs with
  | n :: _ => infRes dst c n
  | [] =>
    let terms := pairs.map (fun p => p.1.dy.mul p.2.dy) ++ extra.toList.map FVal.dy
    let signs := pairs.map (fun p => p.1.neg != p.2.neg) ++ extra.toList.map FVal.neg
    let zeroNeg :=
      if terms.all (fun d => d.m = 0) && signs.all (· = true) then true
      else if terms.all (fun d => d.m = 0) && signs.all (· = false) then false
      else c.rnd = .rm
    roundDy dst c zeroNeg (Dy.sum terms)

/-- R325: both operands are 64-bit tokens or both are beats. MD = 0, which no plane holds since the loader refuses it (0x0A),
would take F32 elements as FSUM's does (log entry 31). -/
def execFdot (r : Route) (e : FElem4) (c : FloatCtl) (s : State) : Host.Outcome State Fault Refusal :=
  valueFiring r .f32 (fun _ f =>
    if f.tokA.isBeat ≠ f.tokB.isBeat then none
    else
      let t := felem4Fmt e
      let g := FloatFmt.ofTag t
      let ps := List.zip ((tokenElems t 64 [f.tokA]).map g.value) ((tokenElems t 64 [f.tokB]).map g.value)
      let (v, fl) := dotRound fmtF32 (roundCtl c {} 0) ps none
      some (Out.both [{ f.resultTag r.ta .f32 with data := beatOf (BitVec.ofNat 64 v), burst := .none }] fl)) s

/-- An integer operation of Table 17.3 on lanes of w bits. -/
def redInt (op : RedOp) (signed : Bool) (w a b : Nat) : Nat :=
  match op with
  | .iadd => laneAdd w a b
  | .imin => laneLesser signed w a b
  | .imax => laneGreater signed w a b
  | .and => a &&& b
  | .or => a ||| b
  | _ => a ^^^ b

/-- A float operation of Table 17.3 on F32 values. -/
def redFloat (l : RedLit) (a b : Nat) : Nat × FpFlags :=
  match l.op with
  | .fmin => fMinMax fmtF32 false a b
  | .fmax => fMinMax fmtF32 true a b
  | _ => addF32 (roundCtl l.ctl {} 0) a b

/-- The element format that MD names in RED of a float operation (R358). -/
def redFmt (md : BitVec 2) : Fmt := felem4Fmt (FElem4.ofCode md)

/-- The result of RED (R359): data and format. -/
def redOut (r : Route) (md : BitVec 2) (l : RedLit) (f : Firing) : Option Out :=
  (reduceTokens r f).map (fun toks =>
    if l.op.isInt then
      let w := (Lane.ofCode md).bits
      let v := (treeFold (redInt l.op l.signed w) 256 (tokenElems .int w toks)).getD 0
      let x := if l.signed then intToLane 64 (laneInt w true v) else v
      Out.both [{ f.resultTag r.ta .int with data := beatOf (BitVec.ofNat 64 x), burst := .none }]
    else
      let (v, fl) := floatTree (redFloat l) (widenF32 (redFmt md) (tokenElems (redFmt md) 64 toks))
      Out.both [{ f.resultTag r.ta .f32 with data := beatOf (BitVec.ofNat 64 v), burst := .none }] fl)

/-- R359. -/
def execRed (r : Route) (md : BitVec 2) (l : RedLit) (s : State) : Host.Outcome State Fault Refusal :=
  valueFiring r (if l.op.isInt then .int else .f32) (fun _ f => redOut r md l f) s

/-- The inclusive prefix of R360, from the value before on. -/
def scanFrom {α : Type} (op : α → α → α) (x : α) : List α → List α
  | [] => []
  | y :: r => let z := op x y; z :: scanFrom op z r

/-- The inclusive prefix of R360. -/
def scanList {α : Type} (op : α → α → α) : List α → List α
  | [] => []
  | x :: r => x :: scanFrom op x r

/-- Elements put back into words of n, in order. -/
def regroup (n : Nat) : Nat → List Nat → List (List Nat)
  | 0, _ => []
  | k + 1, l => l.take n :: regroup n k (l.drop n)

/-- The tokens of a burst with the elements replaced (R360): shape, marks and ITER values of A. -/
def replaceElems (tag : Token) (whole : Bool) (f : Fmt) (n w : Nat) : List Token → List Nat → List Token
  | [], _ => []
  | t :: r, l =>
    let k := if t.isBeat then 4 else 1
    let words := (regroup n k l).map (fun x => if f = .int then joinLanes w x else joinElems f x)
    { tag with data := beatOfWords words, burst := if whole then t.burst else tag.burst
               iter := if whole then t.iter else tag.iter } :: replaceElems tag whole f n w r (l.drop (n * k))

/-- The result of SCAN (R360). -/
def scanOut (r : Route) (md : BitVec 2) (l : RedLit) (f : Firing) : Option Out :=
  (reduceTokens r f).map (fun toks =>
    if l.op.isInt then
      let w := (Lane.ofCode md).bits
      let v := scanList (redInt l.op l.signed w) (tokenElems .int w toks)
      Out.both (replaceElems (f.resultTag r.ta .int) (r.ta = .whole) .int (64 / w) w toks v)
    else
      let xs := tokenElems .f32 64 toks
      let st := fun (x y : Nat × FpFlags) => redFloat l x.1 y.1
      let v := match xs with
        | [] => []
        | x :: r => scanList st (canonElem fmtF32 x :: r.map (fun y => (y, 0)))
      Out.both (replaceElems (f.resultTag r.ta .f32) (r.ta = .whole) .f32 1 64 toks (v.map (·.1)))
        (orFlags (v.map (·.2))))

/-- R360. -/
def execScan (r : Route) (md : BitVec 2) (l : RedLit) (s : State) : Host.Outcome State Fault Refusal :=
  valueFiring r (if l.op.isInt then .int else .f32) (fun _ f => scanOut r md l f) s

/-! ## Conversions (R108, R313, R314) -/

/-- The placement of R314 for sub-word m: nA and nD elements, converted elements and their lane. -/
def convPlace (nA nD part m : Nat) (conv : Nat → Nat → Nat × FpFlags) (a b : List Nat) : List (Nat × FpFlags) :=
  if nD ≤ nA then (upTo nD).map (fun j => conv (nD * m + j) (a.getD (part * nD + j) 0))
  else (upTo nD).map (fun i =>
    if part * nA ≤ i && i < (part + 1) * nA then conv (nD * m + i) (a.getD (i - part * nA) 0)
    else (b.getD i 0, 0))

/-- CVT of one sub-word: the elements and the fill elements. -/
def cvtWords (l : CvtLit) (x : StochCtx) (m : Nat) (a b : Word) : Word × FpFlags :=
  elemResult l.dst (convPlace l.src.count l.dst.count l.part.toNat m
    (fun i v => fConvert (.ofTag l.src) (.ofTag l.dst) (roundCtl l.ctl x i) v)
    (wordElems l.src 64 a) (wordElems l.dst 64 b))

/-- CVTI of one sub-word. -/
def cvtiWords (l : CvtLit) (x : StochCtx) (m : Nat) (a b : Word) : Word × FpFlags :=
  let w := l.lw.bits
  let p := convPlace l.src.count l.lw.count l.part.toNat m
    (fun i v => fToInt (.ofTag l.src) (roundCtl l.ctl x i) w l.signed v) (wordElems l.src 64 a) (splitLanes w b)
  (joinLanes w (p.map (·.1)), orFlags (p.map (·.2)))

/-- CVTF of one sub-word: INT lanes, or A36 as a 36-bit integer (R109). -/
def cvtfWords (l : CvtLit) (x : StochCtx) (m : Nat) (a b : Word) : Word × FpFlags :=
  let w := if l.src = .a36 then 36 else l.lw.bits
  let signed := l.src = .a36 || l.signed
  let n := if l.src = .a36 then 1 else l.lw.count
  elemResult l.dst (convPlace n l.dst.count l.part.toNat m
    (fun i v => intToF (.ofTag l.dst) (roundCtl l.ctl x i) (laneInt w signed v))
    (if l.src = .a36 then wordElems .a36 64 a else splitLanes w a) (wordElems l.dst 64 b))

/-- A conversion, elementwise over the sub-words (R314). -/
def cvtFiring (r : Route) (l : CvtLit) (dst : Fmt) (op : CvtLit → StochCtx → Nat → Word → Word → Word × FpFlags)
    (s : State) : Host.Outcome State Fault Refusal :=
  dataFiring r dst (fun s f => elementwise2 (op l (s.stochCtx f r)) f.tokA f.tokB) s

/-- R313: a literal that the loader refuses (0x0A) never stands in a plane, and the same formulas would apply to it (log
entry 31). -/
def execCvt (r : Route) (l : CvtLit) (s : State) : Host.Outcome State Fault Refusal := cvtFiring r l l.dst cvtWords s
/-- R313. -/
def execCvti (r : Route) (l : CvtLit) (s : State) : Host.Outcome State Fault Refusal := cvtFiring r l .int cvtiWords s
/-- R313. -/
def execCvtf (r : Route) (l : CvtLit) (s : State) : Host.Outcome State Fault Refusal := cvtFiring r l l.dst cvtfWords s

/-! ## Q4 blocks (R110, R111, R113, R361, R362) -/

/-- The magnitudes of codes 0 to 7 of a type, times 8 (Table 5.7). -/
def q4Mags (type : Nat) : List Nat :=
  match type with
  | 0 => [0, 8, 16, 24, 32, 40, 48, 56]
  | 1 => [0, 4, 8, 12, 16, 24, 32, 48]
  | 2 => [0, 1, 2, 4, 8, 16, 32, 64]
  | _ => [0, 8, 16, 24, 32, 48, 64, 96]

/-- The value of a code times 8, and its sign (Table 5.7). -/
def q4Value (type code : Nat) : Bool × Nat :=
  if type = 0 then (if code < 8 then (false, 8 * code) else (true, 8 * (16 - code)))
  else (code ≥ 8, (q4Mags type).getD (code % 8) 0)

/-- The codes of one sign of a type in order of magnitude times 8. -/
def q4Column (type : Nat) (neg : Bool) : List (Nat × Nat) :=
  if type = 0 then
    if neg then (upTo 9).map (fun k => (8 * k, (16 - k) % 16)) else (upTo 8).map (fun k => (8 * k, k))
  else (q4Mags type).mapIdx (fun k m => (m, if neg then 8 + k else k))

/-- M of R111. -/
def q4Max (type : Nat) : Nat := match type with | 0 => 7 | 1 => 6 | 2 => 8 | _ => 12

/-- One element encoded (R111): the quotient is num / den, times 8 in the column's unit. -/
def q4Encode (type : Nat) (c : RoundCtl) (neg : Bool) (num den : Nat) : Nat × FpFlags :=
  let col := q4Column type neg
  let n := 8 * num
  let lo := (col.filter (fun p => p.1 * den ≤ n)).getLastD (0, 0)
  if lo.1 * den = n then (lo.2, 0)
  else match col.find? (fun p => p.1 * den > n) with
    | none => (lo.2, fSAT ||| fNX)
    | some hi =>
      let up := match c.rnd with
        | .rn => 2 * n > (lo.1 + hi.1) * den || (2 * n = (lo.1 + hi.1) * den && hi.2 % 2 = 0)
        | .rz => false
        | .rp => !neg
        | .rm => neg
        | .rs => (n - lo.1 * den) * 2 ^ 32 / ((hi.1 - lo.1) * den) + c.stoch ≥ 2 ^ 32
      ((if up then hi else lo).2, fNX)

/-- The scale exponent E of R111 for a largest magnitude m * 2^e. -/
def q4Scale (type m : Nat) (e : Int) : Nat :=
  let j := ((upTo 64).find? (fun j => m * 16 ≤ q4Max type * 2 ^ j)).getD 64
  (max 0 (min 62 (32 + ((j : Int) - 4) + e))).toNat

/-- A block of 32 elements encoded (R111): the scale byte, the codes and the flags. -/
def q4Block (g : FloatFmt) (type : Nat) (rnd : Rnd) (x : StochCtx) (elems : List Nat) : Nat × List Nat × FpFlags :=
  let vs := elems.map g.value
  if vs.any (fun v => v.isNan || v.isInf) then
    (type * 64 + 63, List.replicate 32 0, flagIf fNV (vs.any FVal.isSnan))
  else
    let mags := vs.map (fun v => ({ v.dy with m := (v.dy.m.natAbs : Nat) } : Dy))
    let amax : Dy := mags.foldl (fun a b => if a.lt b then b else a) (⟨0, 0⟩ : Dy)
    if amax.m = 0 then
      (type * 64, vs.map (fun v => if v.neg && type ≠ 0 then 8 else 0), 0)
    else
      let e := q4Scale type amax.m.natAbs amax.e
      let l := vs.mapIdx (fun i v =>
        let d := v.dy
        let k := d.e - ((e : Int) - 32)
        if d.m = 0 then ((if v.neg && type ≠ 0 then 8 else 0), (0 : FpFlags))
        else q4Encode type (roundCtl ⟨rnd, false⟩ x i) v.neg (d.m.natAbs * 2 ^ k.toNat) (2 ^ (-k).toNat))
      (type * 64 + e, l.map (·.1), orFlags (l.map (·.2)))

/-- Tokens of a burst of beats: marked head to tail with ITER 0 upward (R67). -/
def burstTokens (tag : Token) (beats : List Beat) : List Token :=
  beats.mapIdx (fun k d =>
    { tag with data := d, iter := BitVec.ofNat 8 k
               burst := if k = 0 then .head else if k + 1 = beats.length then .tail else .body })

/-- A Q4 burst of blocks (R113). -/
def q4Burst (tag : Token) (blocks : List (Nat × List Nat)) : List Token :=
  let nb := blocks.length
  let head : Nat := nb + 256 * (blocks.map (·.1)).foldr (fun b acc => b + 256 * acc) 0
  let code (i : Nat) : Nat := ((blocks.getD i (0, [])).2).foldr (fun c acc => c + 16 * acc) 0
  burstTokens { tag with fmt := .q4 }
    (BitVec.ofNat 256 head ::
      (upTo ((nb + 1) / 2)).map (fun k => BitVec.ofNat 256 (code (2 * k) + 2 ^ 128 * code (2 * k + 1))))

/-- The blocks of a Q4 burst (R113). -/
def q4Blocks (l : List Token) : List (Nat × List Nat) :=
  match l with
  | [] => []
  | h :: r =>
    (upTo (bitsOf h.data.toNat 7 0)).map (fun j =>
      let d := (r.getD (j / 2) {}).data.toNat
      (bitsOf h.data.toNat (8 * j + 15) (8 * j + 8),
       (upTo 32).map (fun i => bitsOf d (128 * (j % 2) + 4 * i + 3) (128 * (j % 2) + 4 * i))))

/-- Is a collected Q4 burst in order: NB from 1 to 14 and 1 + ⌈NB / 2⌉ tokens (R113)? -/
def q4BurstOk (l : List Token) : Bool :=
  let nb := bitsOf (opTok l).data.toNat 7 0
  1 ≤ nb && nb ≤ 14 && l.length = 1 + (nb + 1) / 2

/-- R361. -/
def execQpack (r : Route1) (e : FElem) (type : BitVec 2) (rnd : Rnd) (s : State) : Host.Outcome State Fault Refusal :=
  let rt : Route := ⟨r.sa, .zero, r.d0, r.d1, .whole⟩
  valueFiring rt .q4 (fun s f =>
    let xs := tokenElems (felemFmt e) 64 f.a
    if xs.length = 0 || xs.length % 32 ≠ 0 then none
    else
      let bl := (regroup 32 (xs.length / 32) xs).map
        (q4Block (.ofTag (felemFmt e)) type.toNat rnd (s.stochCtx f rt))
      some (Out.both (q4Burst (f.resultTag .whole .q4) (bl.map (fun b => (b.1, b.2.1)))) (orFlags (bl.map (·.2.2))))) s

/-- A code decoded to a format (R110); E = 63 gives the canonical NaN. -/
def q4Decode (g : FloatFmt) (scale code : Nat) : Nat :=
  let e := scale % 64
  if e = 63 then g.nanBits
  else
    let (neg, m) := q4Value (scale / 64) code
    (roundDy g {} neg ⟨if neg then -(m : Int) else m, (e : Int) - 35⟩).1

/-- R362. -/
def execQunpk (r : Route1) (e : FElem) (n : BitVec 2) (j0 : BitVec 4) (s : State) : Host.Outcome State Fault Refusal :=
  let rt : Route := ⟨r.sa, .zero, r.d0, r.d1, .whole⟩
  valueFiring rt (felemFmt e) (fun _ f =>
    let bl := q4Blocks f.a
    let cnt := n.toNat + 1
    if j0.toNat + cnt > bl.length then none
    else
      let t := felemFmt e
      let xs := ((bl.drop j0.toNat).take cnt).flatMap (fun b => b.2.map (q4Decode (.ofTag t) b.1))
      let words := (regroup t.count (xs.length / t.count) xs).map (joinElems t)
      let beats := (upTo (words.length / 4)).map (fun k => beatOfWords ((words.drop (4 * k)).take 4))
      some (Out.both (burstTokens (f.resultTag .whole t) beats))) s

end Sys2Proof.Machine
end

