-- ==== Sys2Proof/Machine/Matrix.lean ====
section
/-! DEFINITION. Matrix sections (06): the matrix unit of a C-tile, MMA and MMARM, the row step, and the requests that read,
clear and drain the accumulator store. -/

namespace Sys2Proof.Machine

/-- A change of a tile's matrix unit. -/
def State.updMx (s : State) (c t : Nat) (f : Matrix → Matrix) : State := s.updTile c t (fun x => { x with mx := f x.mx })

/-- An entry of the accumulator store; an entry that nothing has written holds zero (log entry 2). -/
def Matrix.entry (m : Matrix) (row j : Nat) : Nat := (KMap.lookD m.acc (16 * row + j) 0).toNat

/-- The format of the tokens of a mode (Table 6.2): A for side false, B for side true. -/
def mmaFmt (mode sub : BitVec 2) (b : Bool) : Fmt :=
  match mode.toNat with
  | 0 => .bf16
  | 1 => if bitOf sub.toNat (b2n b) then .e5m2 else .e4m3
  | 2 => .int
  | _ => .q4

/-- Has a collected row or column the shape of its mode: four beats, or a Q4 burst of eight blocks (R117)? -/
def mmaBurstOk (mode : BitVec 2) (l : List Token) : Bool :=
  if mode = 3#2 then q4BurstOk l && bitsOf (opTok l).data.toNat 7 0 = 8 else l.length = 4

/-- The elements of a row or column as values (R100, R110, R114). -/
def mmaVals (mode sub : BitVec 2) (b : Bool) (l : List Token) : List FVal :=
  if mode = 3#2 then
    (q4Blocks l).flatMap (fun blk =>
      blk.2.map (fun code =>
        if blk.1 % 64 = 63 then FVal.nan false
        else FVal.fin (q4Value (blk.1 / 64) code).1 (q4Value (blk.1 / 64) code).2 (((blk.1 % 64 : Nat) : Int) - 35)))
  else
    let f := mmaFmt mode sub b
    (tokenElems f 64 l).map (FloatFmt.ofTag f).value

/-- The elements of an INT8 row or column (R117). -/
def mmaInts (sub : BitVec 2) (b : Bool) (l : List Token) : List Int :=
  (tokenElems .int 8 l).map (fun x => laneInt 8 (bitOf sub.toNat (b2n b)) x)

/-- One entry of a row step (R122): the new value and the flags. -/
def mmaEntry (mode sub : BitVec 2) (c : Nat) (a col : List Token) : Nat × FpFlags :=
  if mode = 2#2 then
    let sum := (List.zipWith (· * ·) (mmaInts sub false a) (mmaInts sub true col)).foldl (· + ·) 0
    let (v, clamped) := clampLane 36 true (laneInt 36 true c + sum)
    (intToLane 36 v, flagIf fSAT clamped)
  else
    dotRound fmtA36 {} (List.zip (mmaVals mode sub false a) (mmaVals mode sub true col)) (some (fmtA36.value c))

/-- The row step of the row at the head of the queue (R122). -/
def Matrix.step (m : Matrix) (row : MatRow) : Matrix :=
  let r := m.rowbase + row.window
  let fresh := m.clr && row.pass = 0
  let deferred := defOf row.beats
  let new : List (Nat × FpFlags) := (upTo m.ncol).map (fun j =>
    mmaEntry m.mode m.subs (if fresh then 0 else m.entry r j) row.beats (m.cols.getD j []))
  let m := if deferred then { m with defs := dedupNat (m.defs ++ [r]) }
    else if !predOf row.beats then m
    else { m with
      acc := (List.zip (upTo m.ncol) new).foldl (fun a p => KMap.put a (16 * r + p.1) (BitVec.ofNat 36 p.2.1)) m.acc
      flags := m.flags ||| orFlags (new.map (·.2)) }
  let m := if fresh && !deferred then { m with defs := m.defs.filter (· ≠ r) } else m
  let stepped := KMap.alter m.stepped row.window 0 (· + 1)
  let m := { m with rem := m.rem - 1, rows := m.rows.drop 1, stepped := stepped }
  -- a set is released once every window row has stepped a row of its pass (R121)
  if (upTo m.wrows).all (fun p => KMap.lookD stepped p 0 > m.setPass) then
    { m with cols := [], setPass := m.setPass + 1 }
  else m

/-- The accumulator rows that a request concerns (R124 to R127): none where it concerns every row. -/
def requestRows (i : Instr) (req : Nat) : Option (List Nat) :=
  let first := bitsOf req 7 0
  match i with
  | .accrd _ => if bitOf req 8 then none else some [first]
  | .accclr _ _ n => some ((upTo (n.toNat + 1)).map (fun j => first + j))
  | _ => some ((upTo (bitsOf req 15 8 + 1)).map (fun j => first + j))

/-- Does a request concern an accumulator row? -/
def requestHas (i : Instr) (req row : Nat) : Bool :=
  match requestRows i req with | none => true | some l => l.contains row

/-- Is the instruction a request to the accumulator store? -/
def isAccRequest : Instr → Bool
  | .accrd _ | .accclr _ _ _ | .accdr _ _ _ _ => true
  | _ => false

/-- The window row of a thread (R121). -/
def windowOf (s : State) (c : Nat) (m : Matrix) (k : Nat) : Nat := (s.thread c k).tid % max m.wrows 1

/-- R119, R121: the row enters the row queue under the pass counted at its firing; bubbles and deferred rows enter too. -/
def execMma (_ _ : Src) (_ _ : BitVec 2) (s : State) : Host.Outcome State Fault Refusal :=
  withFiring s (fun s f =>
    let c := f.site.core
    let t := f.site.tile
    let m := (s.tile c t).mx
    let p := windowOf s c m f.tokA.slot
    let q := KMap.lookD m.pass p 0
    let s := s.trace f .discard f.tokA
    s.updMx c t (fun m =>
      { m with rows := m.rows ++ [⟨f.a, p, q, f.arrived, s.cycle c⟩], pass := KMap.put m.pass p (q + 1) }))

/-- The mode and SUB of the plane's MMA. -/
def planeMma (p : Plane) : BitVec 2 × BitVec 2 :=
  (p.slots.findSome? (fun x => match (decode x.2.word x.2.lit).toOption with
    | some (.mma _ _ md sub) => some (md, sub)
    | _ => none)).getD (0, 0)

/-- R120: the section is armed; a count of zero arms nothing and completes at once. -/
def execMmarm (r : Route1) (clr : Bool) (ncol : BitVec 4) (wrows rowbase : BitVec 8) (s : State) :
    Host.Outcome State Fault Refusal :=
  withFiring s (fireCases r.full .int (fun s f =>
    let c := f.site.core
    let t := f.site.tile
    let n := min f.tokA.w64.toNat (2 ^ 20)
    let tag := f.resultTag .unary .int
    if n = 0 then s.emitOut f r.full (Out.data tag ⟨0, 0⟩)
    else
      let (md, sub) := planeMma (s.ctx c t f.site.handler).plane
      let w := wrows.toNat + 1
      let s := s.trace f r.d0 f.tokA
      s.updMx c t (fun m => { m with
        armed := true, mode := md, subs := sub, clr := clr, ncol := ncol.toNat + 1, wrows := w, rowbase := rowbase.toNat
        rem := n * w, total := n * w, pass := [], stepped := [], setPass := 0, arming := some tag
        armSlot := f.site.slot })))

/-- A token on a destination: at once where it can accept, else behind what waits. -/
def State.sendOrWait (s : State) (c t : Nat) (d : Dst) (tok : Token) : State :=
  if d = .discard || d = .dlr then s
  else if s.canSend c t false d then s.send c t false d tok
  else s.updTile c t (fun x => { x with pendingEmits := x.pendingEmits ++ [⟨emitKey false d, tok, none, false⟩] })

/-- The completion token of a section leaves on the MMARM's destinations in the cycle after the last step (R120, R123). -/
def State.sectionDone (s : State) (c t : Nat) : State :=
  let m := (s.tile c t).mx
  match m.arming with
  | none => s
  | some tag =>
    let tok := { tag with data := beatOf (BitVec.ofNat 64 m.total) }.fit
    let route := (KMap.look (s.ctx c t false).plane.slots m.armSlot).bind (fun b =>
      ((decode b.word b.lit).toOption).bind Instr.route?)
    let s := s.updMx c t (fun m => { m with arming := none })
    match route with
    | none => s
    | some r => (s.sendOrWait c t r.d0 tok).sendOrWait c t r.d1 tok

/-- The requests that wait in a tile: the instruction, the request word and the cycle of its arrival. -/
def State.waitingRequests (s : State) (c t : Nat) : List (Instr × Nat × Nat) :=
  let ctx := s.ctx c t false
  ctx.plane.slots.flatMap (fun p =>
    match (decode p.2.word p.2.lit).toOption with
    | some i =>
      if isAccRequest i then
        (ctx.store.filter (fun e => e.slot = p.1 && e.side = .a && e.kind = .operand)).map
          (fun e => (i, e.tok.w64.toNat, e.cycle))
      else []
    | none => [])

/-- Can the head row of the queue step in this cycle (R123, R127)? -/
def State.canRowStep (s : State) (c t : Nat) : Bool :=
  let m := (s.tile c t).mx
  match m.rows with
  | [] => false
  | row :: _ =>
    decide (max row.fired m.stepUntil + 5 ≤ s.cycle c) &&
    !(s.waitingRequests c t).any (fun q => q.2.2 < row.arrived && requestHas q.1 q.2.1 (m.rowbase + row.window))

/-- R122, R123: the step of the head row; the section completes with its last step. -/
def execRowStep (core tile : Nat) (s : State) : Host.Outcome State Fault Refusal :=
  .next (if s.canRowStep core tile then
    match (s.tile core tile).mx.rows with
    | [] => s
    | row :: _ =>
      let s := s.updMx core tile (fun m => { m.step row with stepUntil := s.cycle core - 1 })
      if (s.tile core tile).mx.rem = 0 then
        (s.updMx core tile (fun m => { m with armed := false })).sectionDone core tile
      else s
    else s)

/-- The rows that a request must wait for (R127): fired or still collected, with a tail that arrived no later than the
request. -/
def State.accReady (s : State) (c t : Nat) (i : Instr) (req arrived : Nat) : Bool :=
  let m := (s.tile c t).mx
  let ctx := s.ctx c t false
  !m.rows.any (fun r => decide (r.arrived ≤ arrived) && requestHas i req (m.rowbase + r.window)) &&
  !(m.armed && ctx.store.any (fun e =>
      e.kind = .whole && e.tok.burst = .tail && decide (e.cycle ≤ arrived) &&
      (match (KMap.look ctx.plane.slots e.slot).bind (fun b => (decode b.word b.lit).toOption) with
       | some (.mma _ _ _ _) => requestHas i req (m.rowbase + windowOf s c m e.tok.slot)
       | _ => false)))

/-- A row of the store as a burst (R124, R126): entries of the output format, the flags of a conversion. -/
def Matrix.rowBurst (m : Matrix) (out : AccOut) (tag : Token) (row : Nat) : List Token × FpFlags :=
  let conv (x : Nat) : Word × FpFlags :=
    match out with
    | .a36 => (BitVec.ofNat 64 x, 0)
    | .f32 => let (v, fl) := fConvert fmtA36 fmtF32 {} x; (BitVec.ofNat 64 v, fl)
    | .int => (BitVec.ofInt 64 (laneInt 36 true x), 0)
  let ws := (upTo 16).map (fun j => conv (m.entry row j))
  let tag := { tag with
    fmt := match out with | .a36 => .a36 | .f32 => .f32 | .int => .int
    deferred := m.defs.contains row }
  (burstTokens tag ((upTo 4).map (fun k => beatOfWords ((ws.drop (4 * k)).take 4 |>.map (·.1)))),
   orFlags (ws.map (·.2)))

/-- The shape of a row without data: a bubble's burst (R124). -/
def emptyRow (tag : Token) (fmt : Fmt) : List Token :=
  burstTokens { tag with fmt := fmt, pred := false } [0, 0, 0, 0]

/-- R124. -/
def execAccrd (r : Route1) (s : State) : Host.Outcome State Fault Refusal :=
  withFiring s (fun s f =>
    let c := f.site.core
    let t := f.site.tile
    let tag := f.resultTag .unary .a36
    let req := f.tokA.w64.toNat
    let m := (s.tile c t).mx
    if f.deferred then s.emitDeferred f r.full .a36
    else if !f.pred .unary then s.emitOut f r.full (.both (emptyRow tag .a36))
    else if bitOf req 8 then
      let s := if bitOf req 9 then s.updMx c t (fun m => { m with flags := 0 }) else s
      s.emitOut f r.full (Out.data { tag with fmt := .int } ⟨beatOf (m.flags.zeroExtend 64), 0⟩)
    else s.emitOut f r.full (.both (m.rowBurst .a36 tag (bitsOf req 7 0)).1))

/-- R125. -/
def execAccclr (r : Route1) (clrf : Bool) (nrow : BitVec 8) (s : State) : Host.Outcome State Fault Refusal :=
  passFiring r.full (fun s f =>
    let first := bitsOf f.tokA.w64.toNat 7 0
    let hit (row : Nat) : Bool := decide (first ≤ row) && decide (row ≤ first + nrow.toNat)
    s.updMx f.site.core f.site.tile (fun m => { m with
      acc := m.acc.filter (fun p => !hit (p.1 / 16)), defs := m.defs.filter (fun row => !hit row)
      flags := if clrf then 0 else m.flags })) s

/-- The route that a steering token chooses (R126). -/
def drainDst (r : Route) (r3 r2 : Dst) (steer : Nat) : Dst :=
  match steer % 4 with | 0 => r.d0 | 1 => r.d1 | 2 => r2 | _ => r3

/-- R126: the rows leave in ascending order on the steered route; a bubble or a deferred operand leaves on route 0 in the
shape of one row (R124, log entry 13). -/
def execAccdr (r : Route) (out : AccOut) (r3 r2 : Dst) (s : State) : Host.Outcome State Fault Refusal :=
  withFiring s (fun s f =>
    let c := f.site.core
    let t := f.site.tile
    let req := f.tokA.w64.toNat
    let fmt : Fmt := match out with | .a36 => .a36 | .f32 => .f32 | .int => .int
    let tag := f.resultTag r.ta fmt
    let d := if f.deferred then r.d0 else drainDst r r3 r2 f.tokB.w64.toNat
    let send (s : State) (l : List Token) : State := (s.trace f d (opTok l)).emit c t f.site.handler d l
    if f.deferred then send s [{ tag with data := f.deferredData, deferred := true }.fit]
    else if !f.pred r.ta then send s (emptyRow tag fmt)
    else
      let rows := ((upTo (bitsOf req 15 8 + 1)).map (fun j => bitsOf req 7 0 + j)).filter (· ≤ 255)
      let m := (s.tile c t).mx
      let l := rows.map (fun row => m.rowBurst out tag row)
      let s := s.updMx c t (fun m => { m with flags := m.flags ||| orFlags (l.map (·.2)) })
      send s (l.flatMap (·.1)))

end Sys2Proof.Machine
end

