-- ==== Sys2Proof/Machine/Match.lean ====
section
/-! DEFINITION. The matching store (R55 to R73): which operand a channel or queue feeds, the formats a slot accepts, the
arrival of a token and the set that a slot holds complete under each tag action. -/

namespace Sys2Proof.Machine

/-! ## Slots of a plane -/

/-- STRAY (Table 10.1). -/
def codeSTRAY : Nat := 0x30

/-- The instruction of slot bits. -/
def slotInstr (b : SlotBits) : Option Instr := (decode b.word b.lit).toOption

/-- The port of a select in a plane: on a mirrored handler plane W0 and W1 are read as E0 and E1 (R207). -/
def planePort (p : Plane) (x : Src) : Option Nat :=
  match srcPort x with
  | some 6 => some (if p.mirrored then 2 else 6)
  | some 7 => some (if p.mirrored then 3 else 7)
  | y => y

/-- The slot and the side that a port feeds, with the slot's instruction and route (R56). -/
def portSlot (p : Plane) (port : Nat) : Option (Nat × Side × Instr × Route) :=
  p.slots.findSome? (fun x =>
    match slotInstr x.2 with
    | none => none
    | some i => match i.route? with
      | none => none
      | some r =>
        if planePort p r.sa = some port then some (x.1, .a, i, r)
        else if planePort p r.sb = some port then some (x.1, .b, i, r)
        else match i.third? with
          | some q => if port = 8 + q.toNat then some (x.1, .third, i, r) else none
          | none => none)

/-- The input channels that a plane names. -/
def namedChannels (p : Plane) : List Nat := (upTo 8).filter (fun c => (portSlot p c).isSome)

/-- The producers of a channel (R71). -/
def producersOf (p : Plane) (ch : Nat) : Nat := KMap.lookD p.producers ch 1

/-! ## Formats (R70) -/

/-- The formats of an address operand (R284). -/
def addrFmts : Option (List Fmt) := some [.addr, .int]


/-- The formats that an instruction accepts on an operand, none for any. lintInt says that LINT's A is checked as INT
(R346). -/
def acceptFmts (i : Instr) (side : Side) (lintInt : Bool) : Option (List Fmt) :=
  let int : Option (List Fmt) := some [.int]
  let one (f : Fmt) : Option (List Fmt) := some [f]
  let isA : Bool := side = .a
  match i with
  | .gate _ _ | .steer _ _ => if isA then none else int
  | .pack _ _ _ _ | .linx _ _ _ => int
  | .lint _ _ _ => if lintInt then int else none
  | .loutx _ _ => if isA then none else int
  | .add _ _ _ | .sub _ _ _ | .mul _ _ _ | .mulh _ _ _ | .mad _ _ _ | .min _ _ _ | .max _ _ _ | .abs _ _ _
  | .and _ _ _ | .or _ _ _ | .xor _ _ _ | .andn _ _ _ | .shl _ _ _ | .shr _ _ _ | .sar _ _ _ | .rotl _ _ _
  | .popc _ _ _ | .clz _ _ _ | .ctz _ _ _ | .brev _ _ _ | .bfx _ _ _ | .bfi _ _ _ | .cmp _ _ _ _ | .adds _ _ _
  | .subs _ _ _ => int
  | .lea _ _ => if isA then addrFmts else int
  | .fadd _ f _ | .fsub _ f _ | .fmul _ f _ | .ffma _ f _ | .fmin _ f | .fmax _ f | .fabs _ f | .fneg _ f
  | .fcmp _ f _ | .frcp _ f _ | .frsq _ f _ | .fsqrt _ f _ | .fexp2 _ f _ | .flog2 _ f _ | .fsin _ f _ | .fcos _ f _
  | .ftanh _ f _ | .qpack _ f _ _ => one (felemFmt f)
  | .fscale _ f _ => if isA then one (felemFmt f) else int
  | .fclass _ f => one (match f with | .f32 => .f32 | .bf16 => .bf16 | .a36 => .a36)
  | .fdot _ f _ | .fsum _ f _ => one (felem4Fmt f)
  | .cvt _ l | .cvti _ l | .cvtf _ l => one (if isA then l.src else l.dst)
  | .qunpk _ _ _ _ => one .q4
  | .ld _ _ _ _ _ _ | .ldf _ _ _ _ _ _ _ | .lds _ _ _ _ | .ll _ _ _ _ _ _ | .sete _ _ _ _ | .pref _ _ _ | .st _ _ _ _
  | .stf _ _ _ _ => if isA then addrFmts else none
  | .ldb _ _ split _ _ => if isA || split then addrFmts else none
  | .stb _ _ _ _ _ => if isA then one .q4 else addrFmts
  | .sts _ _ _ => if isA then none else addrFmts
  | .atom _ _ op _ _ => if isA then addrFmts else if op = .fadd then one .f32 else int
  | .cas _ _ _ _ _ | .sc _ _ _ _ => if isA then addrFmts else int
  | .clrp _ copy _ _ => if isA || copy then addrFmts else int
  | .copy _ _ | .cfginv _ _ => addrFmts
  | .waitt _ _ _ | .jmpi _ | .barw _ _ | .sleep _ _ | .waitly _ | .lyrel _ | .trret _ _ _ | .eosi _ => int
  | .recruit _ _ _ _ => if isA then int else none
  | .hred _ float => one (if float then .f32 else .int)
  | .trprep _ _ _ _ => if isA then none else int
  | .mma _ _ md sub => one (mmaFmt md sub (!isA))
  | .mmarm _ _ _ _ _ | .accrd _ | .accclr _ _ _ | .accdr _ _ _ _ => int
  | .red _ md l | .scan _ md l => one (if l.op.isInt then .int else felem4Fmt (FElem4.ofCode md))
  | .bkt _ _ _ _ | .kmerge _ _ _ _ | .ksel _ _ _ _ => int
  | _ => none

/-- Is LINT's operand of this thread checked as INT: an ordinary thread, or a handler of a freezing fault (R346)? -/
def State.lintInt (s : State) (c k : Nat) : Bool :=
  if isHandlerKey k then (match s.servedTrap c k with | some t => t.kind = .freezing | none => false)
  else (s.thread c k).helper.isNone

/-- The format check of an arriving token (R70). -/
def State.fmtOk (s : State) (c : Nat) (i : Instr) (side : Side) (t : Token) : Bool :=
  t.deferred || match acceptFmts i side (s.lintInt c t.slot) with
    | none => true
    | some l => l.contains t.fmt

/-! ## Entries -/

/-- Full-tag match (R63). -/
def sameTag (x y : Token) : Bool := x.slot = y.slot && x.iter = y.iter

/-- The entries of a slot on a side of a kind in arrival order. -/
def PlaneCtx.of (c : PlaneCtx) (slot : Nat) (side : Side) (k : EntryKind) : List Entry :=
  c.store.filter (fun e => e.slot = slot && e.side = side && e.kind = k)

/-- Operand entries in use: all but the sticky ones (R60). -/
def PlaneCtx.used (c : PlaneCtx) : Nat := (c.store.filter (fun e => e.kind ≠ .sticky)).length

/-- Operand entries of a tile's context: 64, and 8 in the handler context (R60, R207). -/
def PlaneCtx.capacity (c : PlaneCtx) : Nat := if c.plane.handler then 8 else 64

/-- Sticky entries in use. -/
def PlaneCtx.sticky (c : PlaneCtx) : Nat := (c.store.filter (fun e => e.kind = .sticky)).length

/-- The side of a slot that is sticky under its action. -/
def stickySide (ta : TagAction) : Option Side :=
  match ta with | .sticka | .purge => some .a | .stickb => some .b | _ => none

/-- Does the slot collect a burst on this side: A under WHOLE, B of BKT, both sides of MMA (R67, R119, R301)? -/
def collects (i : Instr) (r : Route) (side : Side) : Bool :=
  (r.ta = .whole && side = .a) ||
  (match i with | .bkt _ _ _ _ => side = .b | .mma _ _ _ _ => true | _ => false)

/-- The bursts that a list of WHOLE entries of one thread holds, closed ones first, in arrival order: closed bursts and the
open rest. -/
def splitBursts : List Entry → List Entry → List (List Entry) × List Entry
  | [], acc => ([], acc)
  | e :: r, acc =>
    if e.tok.burst = .tail then
      let (l, o) := splitBursts r []
      ((acc ++ [e]) :: l, o)
    else splitBursts r (acc ++ [e])

/-- A complete set: the operands, the entries it frees, the sticky operand it uses with the cycle in which that had arrived,
and the port that diverted its token (R70). -/
structure MatchSet where
  a : List Token
  b : List Token := []
  q : List Token := []
  entries : List Entry
  stickyUse : Option Nat := none
  stickyAt : Nat := 0
  marker : Option (Side × Token) := none
  port : Option Nat := none
  deriving DecidableEq, Repr

/-- The cycle in which the set's last operand arrived, the sticky one among them (R60). -/
def MatchSet.last (m : MatchSet) : Nat := (m.entries.map (·.cycle)).foldl max m.stickyAt
/-- The cycle in which operand A was complete (R127). -/
def MatchSet.lastA (m : MatchSet) : Nat := ((m.entries.filter (fun e => e.side = .a)).map (·.cycle)).foldl max 0
/-- The arrival number of the set's last operand. -/
def MatchSet.lastSeq (m : MatchSet) : Nat := (m.entries.map (·.seq)).foldl max 0
/-- The cycle in which the first operand arrived (R273). -/
def MatchSet.first (m : MatchSet) : Nat := ((leastBy (·.cycle) m.entries).map (·.cycle)).getD 0

/-- The set of a list that was completed earliest (R60); the first in the list of those completed in one cycle. -/
def earliestSet (l : List MatchSet) : Option MatchSet := leastBy MatchSet.last l

/-- The operand of a side that is always present, or nothing (R56). -/
def constSide (i : Instr) (lit : BitVec 32) (x : Src) (streamed : Token) : Option (List Token) :=
  match x with
  | .none => some []
  | .lit | .zero => some [constToken (constData i lit x) streamed]
  | _ => none

/-- The sets of a slot that a pairing rule completes: every candidate A (or B where A is a constant) in arrival order with the
first partners that match it. -/
def pairCandidates (i : Instr) (r : Route) (lit : BitVec 32) (c : PlaneCtx) (slot : Nat) (eq : Token → Token → Bool) :
    List MatchSet :=
  let as := c.of slot .a .operand
  let bs := c.of slot .b .operand
  let qs := c.of slot .third .operand
  let withQ (m : MatchSet) (t : Token) : Option MatchSet :=
    match i.third? with
    | none => some m
    | some _ => (qs.find? (fun q => eq t q.tok)).map (fun q => { m with q := [q.tok], entries := m.entries ++ [q] })
  if r.sa.isToken then
    as.filterMap (fun x =>
      match constSide i lit r.sb x.tok with
      | some b => withQ { a := [x.tok], b := b, entries := [x], port := x.port } x.tok
      | none => (bs.find? (fun y => eq x.tok y.tok)).bind (fun y =>
          withQ { a := [x.tok], b := [y.tok], entries := [x, y] } x.tok))
  else if r.sa = .none then as.map (fun x => { a := [x.tok], entries := [x], port := x.port })
  else if r.sb.isToken then
    bs.filterMap (fun y =>
      withQ { a := (constSide i lit r.sa y.tok).getD [], b := [y.tok], entries := [y] } y.tok)
  else
    qs.map (fun q =>
      { a := (constSide i lit r.sa q.tok).getD [], b := (constSide i lit r.sb q.tok).getD [], q := [q.tok], entries := [q] })

/-- The set of a slot that a pairing rule completed earliest. -/
def pairSets (i : Instr) (r : Route) (lit : BitVec 32) (c : PlaneCtx) (slot : Nat) (eq : Token → Token → Bool) :
    Option MatchSet := earliestSet (pairCandidates i r lit c slot eq)

/-- The set of a slot whose A or B is sticky (R64): the oldest operand of the other side with the sticky burst. -/
def stickySet (i : Instr) (r : Route) (lit : BitVec 32) (c : PlaneCtx) (slot : Nat) (side : Side) : Option MatchSet :=
  let held := c.of slot side .sticky
  let other : Side := if side = .a then .b else .a
  let own : Src := if side = .a then r.sa else r.sb
  let partner : Src := if side = .a then r.sb else r.sa
  let put (h o : List Token) (es : List Entry) (u : Option Nat) : MatchSet :=
    let at_ := (held.map (·.cycle)).foldl max 0
    if side = .a then { a := h, b := o, entries := es, stickyUse := u, stickyAt := at_ }
    else { a := o, b := h, entries := es, stickyUse := u, stickyAt := at_ }
  if partner.isToken then
    (c.of slot other .operand).head?.bind (fun o =>
      match constSide i lit own o.tok with
      | some h => some (put h [o.tok] [o] none)
      | none => match held with
        | [] => none
        | h :: _ => some (put (held.map (·.tok)) [o.tok] [o] (some h.seq)))
  else none

/-- The set of a WHOLE slot that was completed earliest: the first closed burst of a thread, with B on the head's tag (R63,
R67). -/
def wholeSet (i : Instr) (r : Route) (lit : BitVec 32) (c : PlaneCtx) (slot : Nat) : Option MatchSet :=
  let ws := c.of slot .a .whole
  earliestSet ((dedupNat (ws.map (·.tok.slot))).filterMap (fun k =>
    match (splitBursts (ws.filter (fun e => e.tok.slot = k)) []).1 with
    | [] => none
    | burst :: _ =>
      let head := opTok (burst.map (·.tok))
      match constSide i lit r.sb head with
      | some b => some { a := burst.map (·.tok), b := b, entries := burst }
      | none => ((c.of slot .b .operand).find? (fun y => sameTag head y.tok)).map (fun y =>
          { a := burst.map (·.tok), b := [y.tok], entries := burst ++ [y] })))

/-- The set of an ISECT slot (R65): the oldest A and B of a thread with equal coordinates; the closing bubble stands as two
tail operands. -/
def isectSet (i : Instr) (r : Route) (lit : BitVec 32) (c : PlaneCtx) (slot : Nat) : Option MatchSet :=
  let as := c.of slot .a .operand
  let bs := c.of slot .b .operand
  if !r.sa.isToken || !r.sb.isToken then pairSets i r lit c slot sameTag
  else
    earliestSet ((dedupNat (as.map (·.tok.slot))).filterMap (fun k =>
      match as.find? (fun e => e.tok.slot = k), bs.find? (fun e => e.tok.slot = k) with
      | some x, some y => if x.tok.iter = y.tok.iter then some { a := [x.tok], b := [y.tok], entries := [x, y] } else none
      | _, _ => none))

/-- The set of a FIRST slot (R63, R66): the oldest operand whose full tag no marker holds. uses = 1 says that its later
partner has been absorbed already. -/
def firstSet (c : PlaneCtx) (slot : Nat) : Option MatchSet :=
  let ops := c.store.filter (fun e => e.slot = slot && e.kind = .operand)
  let marks := c.store.filter (fun e => e.slot = slot && e.kind = .marker)
  (ops.find? (fun e => !marks.any (fun m => sameTag m.tok e.tok))).map (fun e =>
    { a := [e.tok], b := [constToken 0 e.tok], entries := [e]
      marker := if e.uses = 1 then none else some (e.side, e.tok) })

/-- The set of an MMA slot (R119): a collected row while its section is armed, its pass's column set is held and the row
queue has room. -/
def State.mmaSet (s : State) (core : Nat) (m : Matrix) (c : PlaneCtx) (slot : Nat) : Option MatchSet :=
  let ws := c.of slot .a .whole
  if !m.armed || m.cols.length ≠ m.ncol || m.rows.length ≥ 4 then none
  else earliestSet ((dedupNat (ws.map (·.tok.slot))).filterMap (fun k =>
    match (splitBursts (ws.filter (fun e => e.tok.slot = k)) []).1 with
    | [] => none
    | burst :: _ =>
      if KMap.lookD m.pass (windowOf s core m k) 0 = m.setPass then
        some { a := burst.map (·.tok), b := [constToken 0 (opTok (burst.map (·.tok)))], entries := burst }
      else none))

/-- The complete set that a slot holds in a context, the one completed earliest. An MMARM operand is complete only while no
section is armed and the completion token of the last has left (R120). -/
def State.slotSetIn (s : State) (core tile slot : Nat) (b : SlotBits) (c : PlaneCtx) : Option MatchSet :=
  match slotInstr b with
  | none => none
  | some i => match i.route? with
    | none => none
    | some r =>
      match i with
      | .mma _ _ _ _ => s.mmaSet core (s.tile core tile).mx c slot
      | .mmarm _ _ _ _ _ =>
        if (s.tile core tile).mx.armed || (s.tile core tile).mx.arming.isSome then none
        else pairSets i r b.lit c slot sameTag
      | _ =>
        match r.ta with
        | .whole => wholeSet i r b.lit c slot
        | .isect => isectSet i r b.lit c slot
        | .first => firstSet c slot
        | .xthr => pairSets i r b.lit c slot (fun x y => x.iter = y.iter)
        | ta => match stickySide ta with
          | some side => stickySet i r b.lit c slot side
          | none => pairSets i r b.lit c slot sameTag

/-- The complete set that a slot of a tile holds. -/
def State.slotSet (s : State) (core tile : Nat) (handler : Bool) (slot : Nat) (b : SlotBits) : Option MatchSet :=
  s.slotSetIn core tile slot b (s.ctx core tile handler)

/-- The closed burst of a thread that a slot has collected on a side first. -/
def firstBurst (l : List Entry) : Option (List Entry) :=
  leastBy (fun b => ((b.map (·.seq)).getLast?).getD 0)
    ((dedupNat (l.map (·.tok.slot))).flatMap (fun k => (splitBursts (l.filter (fun e => e.tok.slot = k)) []).1))

/-! ## After a firing and on removal -/

/-- The next operand of a sticky side becomes sticky where none is held and entries are free (R64). BKT's burst becomes
sticky whole (R301). -/
def promoteSlot (c : PlaneCtx) (slot : Nat) (b : SlotBits) : PlaneCtx :=
  match slotInstr b with
  | none => c
  | some i => match i.route? with
    | none => c
    | some r => match i with
      | .mma _ _ _ _ => c
      | _ => match stickySide r.ta with
        | none => c
        | some side =>
          if !(c.of slot side .sticky).isEmpty then c
          else if collects i r side then
            match firstBurst (c.of slot side .whole) with
            | none => c
            | some burst =>
              if c.sticky + burst.length > 16 then c
              else { c with store := c.store.map (fun e =>
                if burst.any (fun x => x.seq = e.seq) then { e with kind := .sticky } else e) }
          else match (c.of slot side .operand).head? with
            | none => c
            | some x => if c.sticky ≥ 16 then c
              else { c with store := c.store.map (fun e => if e.seq = x.seq then { e with kind := .sticky, uses := 0 } else e) }

/-- Promotion on every slot of a plane. -/
def promoteAll (c : PlaneCtx) : PlaneCtx := c.plane.slots.foldl (fun c p => promoteSlot c p.1 p.2) c

/-- The entries of a fired set leave the store: the sticky operand counts its use and goes when PURGE's count is reached, and
a FIRST firing leaves its marker (R63, R64, R66). -/
def afterFire (r : Route) (slot : Nat) (m : MatchSet) (c : PlaneCtx) : PlaneCtx :=
  let c := { c with store := c.store.filter (fun e => !m.entries.any (fun x => x.seq = e.seq)) }
  let c := match m.stickyUse with
    | none => c
    | some q =>
      let c := { c with store := c.store.map (fun e => if e.seq = q then { e with uses := e.uses + 1 } else e) }
      if r.ta = .purge then
        { c with store := c.store.filter (fun e => !(e.seq = q && e.kind = .sticky && e.uses > e.tok.iter.toNat)) }
      else c
  let c := match m.marker with
    | none => c
    | some (side, t) => { c with store := c.store ++
        [{ slot := slot, side := side, kind := .marker, tok := t, cycle := m.last, seq := m.lastSeq }] }
  promoteAll c

/-! ## ISECT (R65) -/

/-- The sides of a thread's ISECT streams that have ended. -/
def PlaneCtx.ended (c : PlaneCtx) (slot k : Nat) (side : Side) : Bool := c.ends.contains ⟨slot, k, side⟩

/-- The tokens of a stream up to its tail. -/
def upToTail : List Entry → List Entry
  | [] => []
  | e :: r => if e.tok.burst = .tail then [e] else e :: upToTail r

/-- A side of a thread's ISECT streams ends: the other side's stored tokens are discarded up to its tail. The number counts
the discarded tokens; the token is the last that was discarded, or the one given. -/
def isectEnd (slot k : Nat) (side : Side) (last : Token) (c : PlaneCtx) : PlaneCtx × Nat × Token :=
  let other : Side := if side = .a then .b else .a
  let ends := if c.ended slot k side then c.ends else c.ends ++ [⟨slot, k, side⟩]
  let gone := upToTail ((c.of slot other .operand).filter (fun e => e.tok.slot = k))
  let ends := if gone.any (fun e => e.tok.burst = .tail) then
      (if ends.contains ⟨slot, k, other⟩ then ends else ends ++ [⟨slot, k, other⟩]) else ends
  ({ c with ends := ends, store := c.store.filter (fun e => !gone.any (fun x => x.seq = e.seq)) }, gone.length,
   match gone.getLast? with | some e => e.tok | none => last)

/-- Both sides have ended without a firing that ended both: the closing bubble stands as two tail operands (R65). -/
def isectClose (slot k : Nat) (last : Token) (cycle seq : Nat) (c : PlaneCtx) : PlaneCtx :=
  if c.ended slot k .a && c.ended slot k .b then
    let t : Token := { last with data := 0, pred := false, deferred := false, burst := .tail, deps := [] }
    { c with
      ends := c.ends.filter (fun e => !(e.slot = slot && e.thread = k))
      store := c.store ++ [⟨slot, .a, .operand, t, cycle, seq, 0, none⟩, ⟨slot, .b, .operand, t, cycle, seq, 0, none⟩] }
  else c

/-- The comparison of the oldest A and B of a thread (R65): the lesser coordinate is discarded until the coordinates are
equal or one side is empty. fuel is the number of stored tokens. -/
def isectSettle (slot k cycle seq : Nat) : Nat → PlaneCtx → PlaneCtx × Nat
  | 0, c => (c, 0)
  | n + 1, c =>
    match (c.of slot .a .operand).find? (fun e => e.tok.slot = k), (c.of slot .b .operand).find? (fun e => e.tok.slot = k) with
    | some x, some y =>
      if x.tok.iter = y.tok.iter then (c, 0)
      else
        let (lo, side) := if x.tok.iter.toNat < y.tok.iter.toNat then (x, Side.a) else (y, Side.b)
        let c := { c with store := c.store.filter (fun e => e.seq ≠ lo.seq) }
        let (c, d) := if lo.tok.burst = .tail then
            let (c, d, last) := isectEnd slot k side lo.tok c
            (isectClose slot k last cycle seq c, d)
          else (c, 0)
        let (c, d') := isectSettle slot k cycle seq n c
        (c, d + d' + 1)
    | _, _ => (c, 0)

/-- What an ISECT firing does to the thread's streams: tails end their sides. -/
def isectFired (slot cycle seq : Nat) (x y : Token) (c : PlaneCtx) : PlaneCtx × Nat :=
  let k := x.slot
  if x.burst = .tail && y.burst = .tail then
    ({ c with ends := c.ends.filter (fun e => !(e.slot = slot && e.thread = k)) }, 0)
  else
    let (c, d) := if x.burst = .tail || y.burst = .tail then
        let (c, d, last) := isectEnd slot k (if x.burst = .tail then .a else .b) x c
        (isectClose slot k last cycle seq c, d)
      else (c, 0)
    let (c, d') := isectSettle slot k cycle seq c.store.length c
    (c, d + d')

/-! ## TOKEN_ARRIVE -/

/-- What comes of the token at the head of a port: it stays, it is taken into the context (with the count of ISECT
discards), the tile freezes, or a column reaches the matrix unit. -/
inductive Taken
  | stall
  | into (c : PlaneCtx) (discards : Nat)
  | freeze (code : Nat)
  | column
  deriving DecidableEq, Repr

/-- Is the burst mark of a beat wrong for a collecting slot (R67)? -/
def burstWrong (open_ : List Token) (t : Token) : Bool :=
  match t.burst with
  | .none => true
  | .head => !open_.isEmpty
  | .body | .tail => open_.isEmpty || open_.length ≥ 8

/-- Shape errors that R117, R113, R301 and R365 raise when a burst is complete. -/
def burstShapeWrong (i : Instr) (l : List Token) : Bool :=
  match i with
  | .mma _ _ md _ => !mmaBurstOk md l
  | .bkt _ _ _ ns => (l.length * 4) < ns.toNat + 1
  | .sts _ _ _ => l.length ≠ 4 || l.any (fun t => t.fmt = .q4)
  | .stb _ _ _ _ _ | .qunpk _ _ _ _ => !q4BurstOk l
  | _ => false

/-- The beats of the open burst that a beat of a thread continues on a collecting side (R67, R119, R301): in operand entries,
or for a column in the matrix unit. -/
def openBurst (i : Instr) (slot : Nat) (side : Side) (t : Token) (c : PlaneCtx) (m : Matrix) : List Token :=
  match i, side with
  | .mma _ _ _ _, .b => m.colPart.filter (fun x => x.slot = t.slot)
  | _, _ => (splitBursts ((c.of slot side .whole).filter (fun x => x.tok.slot = t.slot)) []).2.map (·.tok)

/-- An arriving operand of a slot (R60, R63 to R67). full says that no operand entry is free for it. -/
def takeOperand (i : Instr) (r : Route) (slot : Nat) (side : Side) (t : Token) (cycle seq : Nat) (port : Option Nat)
    (c : PlaneCtx) (m : Matrix) (full : Bool) : Taken :=
  let e : Entry := { slot := slot, side := side, kind := .operand, tok := t, cycle := cycle, seq := seq, port := port }
  let store (e : Entry) : Taken := if full then .stall else .into (promoteSlot { c with store := c.store ++ [e] } slot
    ((KMap.look c.plane.slots slot).getD ⟨0, 0⟩)) 0
  if collects i r side then
    let open_ := openBurst i slot side t c m
    if burstWrong open_ t then .freeze codeFMTMIS
    else if t.burst = .tail && burstShapeWrong i (open_ ++ [t]) then .freeze codeFMTMIS
    else match i, side with
      | .mma _ _ _ _, .b => .column
      | _, _ =>
        -- a burst that is to become sticky stalls where the sticky entries do not hold it (R64)
        if stickySide r.ta = some side && (c.of slot side .sticky).isEmpty && c.sticky + open_.length + 1 > 16 then .stall
        else store { e with kind := .whole }
  else match r.ta with
    | .isect =>
      if !r.sa.isToken || !r.sb.isToken then store e
      else if c.ended slot t.slot (if side = .a then .b else .a) then
        -- the other side has ended: discarded on arrival, its tail ends it
        let c := if t.burst = .tail then isectClose slot t.slot t cycle seq (isectEnd slot t.slot side t c).1 else c
        .into c 1
      else
        let c' := { c with store := c.store ++ [e] }
        let (c'', d) := isectSettle slot t.slot cycle seq c'.store.length c'
        if full && c''.used > c.used then .stall else .into c'' d
    | .first =>
      let marks := c.store.filter (fun m => m.slot = slot && m.kind = .marker && sameTag m.tok t)
      match marks.find? (fun m => m.side ≠ side) with
      | some m => .into { c with store := c.store.filter (fun x => !(x.seq = m.seq && x.kind = .marker)) } 0
      | none =>
        match c.store.find? (fun x => x.slot = slot && x.kind = .operand && x.side ≠ side && x.uses = 0 && sameTag x.tok t) with
        | some x =>
          if marks.isEmpty then .into { c with store := c.store.map (fun y => if y.seq = x.seq then { y with uses := 1 } else y) } 0
          else store e
        | none => store e
    | ta =>
      match stickySide ta with
      | some sd =>
        if sd = side then
          -- a sticky operand takes a sticky entry; a second one waits in an operand entry (R64)
          if (c.of slot side .sticky).isEmpty then
            (if c.sticky ≥ 16 then .stall else .into { c with store := c.store ++ [{ e with kind := .sticky }] } 0)
          else store e
        else store e
      | none => store e

/-- The column store after a beat of a column (R119); none where it must wait. A column whose tail has not arrived counts
among those that the store holds; columns are numbered as their tails arrive. -/
def takeColumn (t : Token) (m : Matrix) : Option Matrix :=
  let mine := m.colPart.filter (fun x => x.slot = t.slot)
  if !m.armed || (mine.isEmpty && m.cols.length + (dedupNat (m.colPart.map (·.slot))).length ≥ m.ncol) then none
  else if t.burst = .tail then
    some { m with cols := m.cols ++ [mine ++ [t]], colPart := m.colPart.filter (fun x => x.slot ≠ t.slot) }
  else some { m with colPart := m.colPart ++ [t] }

/-- A token popped from its port. -/
def State.popPort (s : State) (c t : Nat) (handler : Bool) (port : Nat) : State :=
  s.updCtx c t handler (fun x => x.updPort port (fun l => l.drop 1))

/-- A tile frozen by a token on a port (R57, R70, R199): the token is held for the resolution. -/
def State.freezeToken (s : State) (c t : Nat) (handler : Bool) (slot : Nat) (bits : SlotBits) (code port : Nat)
    (tok : Token) (info : Word) : State :=
  let site : Site := { core := c, tile := t, slot := slot, handler := handler }
  let f : Firing := { site := site, bits := bits, a := [tok] }
  (s.popPort c t handler port).takeFreeze f tok.slot code
    { code := code, site := site, token := some tok, channel := port } info

/-- INFO of a STRAY from a tile (Table 10.3). -/
def strayInfo (m : Matrix) (channel : Nat) : Word :=
  BitVec.ofNat 64 (if m.armed then m.rem % 2 ^ 32 * 32 + 16 + channel else channel)

/-- Is the head of a port present and not held behind EOS (R55, R72)? -/
def PlaneCtx.headReady (x : PlaneCtx) (port cycle : Nat) : Bool :=
  match x.port port with
  | [] => false
  | a :: _ => decide (a.cycle ≤ cycle) && !(port < 8 && KMap.lookD x.eos port 0 ≥ producersOf x.plane port)

/-- Can the slot's set fire in this cycle as far as its destinations go (R60)? -/
def State.destsFree (s : State) (c t : Nat) (handler : Bool) (r : Route) : Bool := s.canSendBoth c t handler r.d0 r.d1

/-- The tile frozen by the token at the head of a port: the slot and code charged. -/
structure FreezeAt where
  slot : Nat
  bits : SlotBits
  code : Nat
  info : Word
  deriving DecidableEq, Repr

/-- What comes of a DATA token at the head of a port (R57, R60, R70): a freeze with its slot, or what takeOperand says. full says
that an operand finds no free entry. -/
def State.takeHead (s : State) (c t port : Nat) (handler : Bool) (a : Arrival) (full : Bool) : Taken ⊕ FreezeAt :=
  let tl := s.tile c t
  let x := tl.ctx handler
  let now := s.cycle c
  let seq := s.nextId
  match portSlot x.plane port with
  | none => if port < 8 then .inr ⟨31, ⟨0, 0⟩, codeSTRAY, strayInfo tl.mx port⟩ else .inl .stall
  | some (slot, side, i, r) =>
    let bits := (KMap.look x.plane.slots slot).getD ⟨0, 0⟩
    if !s.fmtOk c i side a.tok then
      match x.plane.mismatch with
      | none => .inr ⟨slot, bits, codeFMTMIS, 0⟩
      | some m =>
        if a.retried then .inr ⟨slot, bits, codeFMTMIS, 0⟩
        else if full then .inl .stall
        else .inl (.into { x with store := x.store ++
          [{ slot := m, side := .a, kind := .operand, tok := a.tok, cycle := now, seq := seq, port := some port }] } 0)
    else match takeOperand i r slot side a.tok now seq none x tl.mx full with
      | .freeze code => .inr ⟨slot, bits, code, 0⟩
      | .column => if (takeColumn a.tok tl.mx).isSome then .inl .column else .inl .stall
      | y => .inl y

/-- The operand entries of a context: those of R60, less those of the tile that lasting failures have disabled (R264). -/
def State.storeCap (s : State) (c t : Nat) (x : PlaneCtx) : Nat :=
  x.capacity - (if x.plane.handler then 0 else s.worn 6 (64 * c + t))

/-- Has a context of a tile no free operand entry? -/
def State.isFull (s : State) (c t : Nat) (x : PlaneCtx) : Bool := x.used ≥ s.storeCap c t x

/-- The token at the head of a port taken as takeHead says. -/
def State.putHead (s : State) (c t port : Nat) (handler : Bool) (a : Arrival) (full : Bool) : State :=
  match s.takeHead c t port handler a full with
  | .inr z => s.freezeToken c t handler z.slot z.bits z.code port a.tok z.info
  | .inl .stall | .inl (.freeze _) => s
  | .inl .column =>
    match takeColumn a.tok (s.tile c t).mx with
    | none => s
    | some m => (s.popPort c t handler port).updMx c t (fun _ => m)
  | .inl (.into y d) =>
    ({ s with nextId := s.nextId + 1 } : State).updTile c t (fun z =>
      { z.updCtx handler (fun _ => y.updPort port (fun l => l.drop 1)) with discarded := z.discarded + d })

/-- The token at the head of a port, where it is present and the context takes tokens. -/
def State.headOf (s : State) (c t port : Nat) (handler : Bool) : Option Arrival :=
  let tl := s.tile c t
  let x := tl.ctx handler
  if !x.headReady port (s.cycle c) || (tl.frozen.isSome && !handler) then none else (x.port port).head?

/-- The token at the head of a port (R60). An operand that needs an entry when none is free stays. -/
def State.arrive (s : State) (c t port : Nat) (handler : Bool) : State :=
  match s.headOf c t port handler with
  | none => s
  | some a =>
    if a.tok.eos then
      -- an EOS is held and counted; it takes no entry (R72)
      (s.popPort c t handler port).updCtx c t handler (fun y => { y with eos := KMap.alter y.eos port 0 (· + 1) })
    else s.putHead c t port handler a (s.isFull c t (s.ctx c t handler))

/-- R55, R60: a token on a channel or in a queue reaches the matching store. -/
def execTokenArrive (core tile port : Nat) (handler : Bool) (s : State) : Host.Outcome State Fault Refusal :=
  .next (s.arrive core tile port handler)

/-! ## PURGE -/

/-- The matching store without the sticky operand of a slot's sides (R356); the next waiting operand of the side becomes
sticky (R64). -/
def purgeSticky (side : PurgeSide) (slot : Nat) (c : PlaneCtx) : PlaneCtx :=
  let hit (e : Entry) : Bool := e.kind = .sticky && e.slot = slot &&
    (match side with | .a => e.side = .a | .b => e.side = .b | .both => true)
  promoteAll { c with store := c.store.filter (fun e => !hit e) }

/-- R356. -/
def execPurge (r : Route1) (side : PurgeSide) (slot : BitVec 5) (s : State) : Host.Outcome State Fault Refusal :=
  passFiring r.full (fun s f =>
    s.updCtx f.site.core f.site.tile f.site.handler (purgeSticky side slot.toNat)) s

end Sys2Proof.Machine
end

