-- ==== Sys2Proof/Machine/Coherence.lean ====
section
/-! DEFINITION. Coherence (08, 12): the words of the L1s and their registrants (R139, R162), the lines of the nodes' L2s and
the directory of their homes (R246 to R252), what an outside home must grant first (R254 to R259), reservations and holds
(R164, R165), and the moves by which a home serves its requests. Memory holds what the home of a line holds; a node's copy
and the registered words of its cores lie over it. -/

namespace Sys2Proof.Machine

/-! ## Homes and entries -/

/-- The home node of a line (R245). -/
def State.homeNode (s : State) (line : Nat) : Nat := s.homePd (64 * line)

/-- Is the outside home of the line a host, a pool or another package (R245)? -/
def State.isOuter (s : State) (line : Nat) : Bool :=
  match s.target (64 * line) with
  | .domain _ _ | .pool _ | .host => true
  | _ => false

/-- Is the line one of another package (R259)? -/
def State.isDomain (s : State) (line : Nat) : Bool :=
  match s.target (64 * line) with
  | .domain _ _ => true
  | _ => false

/-- Lines that stand at their slice alone and are never cached elsewhere: stage memory and control space (R139, R141). -/
def State.isSliceOnly (s : State) (line : Nat) : Bool :=
  match s.target (64 * line) with
  | .stage _ _ | .control _ => true
  | _ => false

/-- The key of a line's home slice. -/
def State.sliceKey (s : State) (line : Nat) : Nat := s.homeNode line * 64 + s.homeSlice (64 * line)

/-- The directory entry of a line; a line without one has the slice's spill horizon (R247). -/
def State.dirOf (s : State) (line : Nat) : DirEntry :=
  (KMap.look s.coh.dir line).getD { h := KMap.lookD s.coh.spill (s.sliceKey line) 0 }

/-- Has anything been recorded against which a home-node write must wait (R247, R249)? -/
def State.hasHorizon (s : State) (line : Nat) : Bool :=
  (KMap.look s.coh.dir line).isSome || (KMap.look s.coh.spill (s.sliceKey line)).isSome

/-- A directory entry set. -/
def State.setDir (s : State) (line : Nat) (e : DirEntry) : State :=
  { s with coh := { s.coh with dir := KMap.put s.coh.dir line e } }

/-! ## Copies and registered words -/

/-- Word i of a line. -/
def lineWord (d : BitVec 512) (i : Nat) : BitVec 32 := d.extractLsb' (32 * i) 32

/-- A line with word i set. -/
def setLineWord (d : BitVec 512) (i : Nat) (v : BitVec 32) : BitVec 512 :=
  (d &&& ~~~((0xFFFFFFFF : BitVec 512) <<< (32 * i))) ||| (v.zeroExtend 512 <<< (32 * i))

/-- A line with byte i set. -/
def setLineByte (d : BitVec 512) (i : Nat) (v : Byte) : BitVec 512 :=
  (d &&& ~~~((0xFF : BitVec 512) <<< (8 * i))) ||| (v.zeroExtend 512 <<< (8 * i))

/-- The line as its home's memory holds it. -/
def State.baseLine (s : State) (line : Nat) : BitVec 512 := BitVec.ofNat 512 (s.load (64 * line) 64)

/-- The home's memory with a line written. -/
def State.setBase (s : State) (line : Nat) (d : BitVec 512) : State := s.putNat (64 * line) 64 d.toNat

/-- A node's MOESIL copy. -/
def State.l2Line (s : State) (n line : Nat) : Option L2Line := KMap.look (KMap.lookD s.coh.l2 n []) line

/-- A node's copy set. -/
def State.setL2 (s : State) (n line : Nat) (x : L2Line) : State :=
  { s with coh := { s.coh with l2 := KMap.alter s.coh.l2 n [] (fun m => KMap.put m line x) } }

/-- A node's copy dropped. -/
def State.dropL2 (s : State) (n line : Nat) : State :=
  { s with coh := { s.coh with l2 := KMap.alter s.coh.l2 n [] (fun m => KMap.del m line) } }

/-- What the node holds of the line before its cores' registered words: memory at the home, the copy elsewhere. -/
def State.copyLine (s : State) (n line : Nat) : BitVec 512 :=
  if n = s.homeNode line then s.baseLine line else match s.l2Line n line with | some x => x.data | none => 0

/-- That copy changed. -/
def State.setCopy (s : State) (n line : Nat) (d : BitVec 512) : State :=
  if n = s.homeNode line then s.setBase line d
  else match s.l2Line n line with
    | some x => s.setL2 n line { x with data := d }
    | none => s

/-- A word of a core's L1 (word number: address div 4). -/
def State.l1Word (s : State) (c w : Nat) : Option L1Word := KMap.look (KMap.lookD s.coh.l1 c []) w

/-- A core's L1 changed. -/
def State.updL1 (s : State) (c : Nat) (f : KMap L1Word → KMap L1Word) : State :=
  { s with coh := { s.coh with l1 := KMap.alter s.coh.l1 c [] f } }

/-- The registered words of a line in a node: core, word number, value. -/
def State.registered (s : State) (n line : Nat) : List (Nat × Nat × BitVec 32) :=
  s.coh.l1.flatMap (fun p =>
    if nodeOf p.1 = n then
      p.2.filterMap (fun q => if q.1 / 16 = line && q.2.registered then some (p.1, q.1, q.2.data) else none)
    else [])

/-- The registrant of a word in a node (R140). -/
def State.registrant (s : State) (n w : Nat) : Option Nat :=
  (s.coh.l1.find? (fun p => nodeOf p.1 = n && (match KMap.look p.2 w with | some x => x.registered | none => false))).map (·.1)

/-- Does the node hold writes to the line that have not performed outside it (R250)? -/
def State.pendingAt (s : State) (n line : Nat) : Bool := s.coh.unperf.any (fun u => u.line = line && u.node = n)

/-- The line with the node's registered words over it. -/
def State.overlaid (s : State) (n line : Nat) : BitVec 512 :=
  (s.registered n line).foldl (fun d r => setLineWord d (r.2.1 % 16) r.2.2) (s.copyLine n line)

/-- The line as the node has performed it for agents outside: registered words count unless they wait for ownership. -/
def State.nodeLine (s : State) (n line : Nat) : BitVec 512 :=
  if s.pendingAt n line then s.copyLine n line else s.overlaid n line

/-- The performed value of a line: that of its owner, else that of its home. -/
def State.outsideLine (s : State) (line : Nat) : BitVec 512 :=
  match (s.dirOf line).owner with
  | some m => s.nodeLine m line
  | none => s.nodeLine (s.homeNode line) line

/-- The line as the copy engines of a node read it, which see what its threads have written (Table 8.1: NODE): the performed
value, with the node's own registered words over it. -/
def State.nodeView (s : State) (n line : Nat) : BitVec 512 :=
  (s.registered n line).foldl (fun d r => setLineWord d (r.2.1 % 16) r.2.2) (s.outsideLine line)

/-- A byte as an agent that is no core reads it. -/
def State.outsideByte (s : State) (a : Nat) : Byte :=
  if s.isSliceOnly (a / 64) then s.byte a else (s.outsideLine (a / 64)).extractLsb' (8 * (a % 64)) 8

/-- The 64 bytes of a line as an agent that is no core reads them. -/
def State.outsideLineBytes (s : State) (line : Nat) : List Byte :=
  if s.isSliceOnly line then s.bytes (64 * line) 64 else leBytes 64 (s.outsideLine line).toNat

/-- n bytes as such an agent reads them. -/
def State.outsideBytes (s : State) (a n : Nat) : List Byte :=
  (((upTo ((a % 64 + n + 63) / 64)).flatMap (fun i => s.outsideLineBytes (a / 64 + i))).drop (a % 64)).take n

/-- n bytes as such an agent reads them, little-endian. -/
def State.outsideLoad (s : State) (a n : Nat) : Nat := leNat (s.outsideBytes a n)

/-! ## Poison (R260) -/

/-- The poison bit of a node's copy of a line: that of memory at the home and for a line held at its slice alone. -/
def State.copyPoison (s : State) (n line : Nat) : Bool :=
  if n = s.homeNode line || s.isSliceOnly line then s.poison.contains line
  else match s.l2Line n line with | some x => x.poison | none => false

/-- That bit set or cleared. -/
def State.setCopyPoison (s : State) (n line : Nat) (b : Bool) : State :=
  if n = s.homeNode line || s.isSliceOnly line then (if b then s.setPoison line else s.clearPoison line)
  else match s.l2Line n line with
    | some x => s.setL2 n line { x with poison := b }
    | none => s

/-- The poison bit of the performed value of a line. -/
def State.outsidePoison (s : State) (line : Nat) : Bool :=
  match (s.dirOf line).owner with
  | some m => s.copyPoison m line
  | none => s.copyPoison (s.homeNode line) line

/-- The home's memory written with a whole line and its poison bit. -/
def State.setBaseBit (s : State) (line : Nat) (d : BitVec 512) (b : Bool) : State :=
  let s := s.setBase line d
  if b then s.setPoison line else s.clearPoison line

/-! ## The words of an L1 -/

/-- The registered words of a line in a node moved into its copy; their registration stands. -/
def State.collect (s : State) (n line : Nat) : State :=
  if s.pendingAt n line || (s.registered n line).isEmpty then s else s.setCopy n line (s.overlaid n line)

/-- The registration of a line's words in a node ended; the words become invalid (Table 8.4). -/
def State.unregister (s : State) (n line : Nat) : State :=
  { s with coh := { s.coh with l1 := KMap.mapKV s.coh.l1 (fun c m =>
      if nodeOf c = n then m.filter (fun q => !(q.1 / 16 = line && q.2.registered)) else m) } }

/-- Words of a line that a node's slice takes over (Table 8.4): what their registrants hold is collected into the copy, and
their registration ends. -/
def State.endWords (s : State) (n line : Nat) (ws : List Nat) : State :=
  let regs := (s.registered n line).filter (fun r => ws.contains r.2.1)
  if regs.isEmpty then s
  else
    let s := s.setCopy n line (regs.foldl (fun d r => setLineWord d (r.2.1 % 16) r.2.2) (s.copyLine n line))
    regs.foldl (fun s r => s.updL1 r.1 (fun m => KMap.del m r.2.1)) s

/-- Words that a core holds without registration dropped. -/
def State.dropValid (s : State) (c : Nat) (ws : List Nat) : State :=
  s.updL1 c (fun m => m.filter (fun (q : Nat × L1Word) => q.2.registered || !ws.contains q.1))

/-- The lines of a core's L1 that can give way to another: those whose registered words wait for no ownership (R248). -/
def State.l1Victims (s : State) (c : Nat) : List Nat :=
  (dedupNat ((KMap.keys (KMap.lookD s.coh.l1 c [])).map (· / 16))).filter (fun l => !s.pendingAt (nodeOf c) l)

/-- The lines of a core's L1: 4,096, less the entries that lasting failures have disabled (R139, R264). -/
def State.l1Cap (s : State) (c : Nat) : Nat := 4096 - s.worn 3 c

/-- Can the core's L1 take one more line, of four at most that a write brings: it has free lines or lines that can give way
(R139)? -/
def State.l1Room (s : State) (c w : Nat) : Bool :=
  let lines := dedupNat ((KMap.keys (KMap.lookD s.coh.l1 c [])).map (· / 16))
  lines.contains (w / 16) || decide (lines.length + 4 ≤ s.l1Cap c + (s.l1Victims c).length)

/-- A word of the L1 held; where the core's lines are all taken, of the lines that can give way that with the lowest address does,
its registered words written to the node (R139, log entry 12). -/
def State.putL1 (s : State) (c w : Nat) (x : L1Word) : State :=
  let m := KMap.lookD s.coh.l1 c []
  let lines := dedupNat ((KMap.keys m).map (· / 16))
  let victim := if lines.contains (w / 16) || lines.length < s.l1Cap c then none else (s.l1Victims c).head?
  let s := match victim with
    | none => s
    | some l =>
      let mine := m.filter (fun (q : Nat × L1Word) => q.1 / 16 = l && q.2.registered)
      let n := nodeOf c
      (s.setCopy n l (mine.foldl (fun d (q : Nat × L1Word) => setLineWord d (q.1 % 16) q.2.data) (s.copyLine n l))).updL1 c
        (fun m => m.filter (fun (q : Nat × L1Word) => q.1 / 16 ≠ l))
  s.updL1 c (fun m => KMap.put m w x)

/-- An acquire or fence at CLUSTER scope or wider: valid words that are not registered become invalid (R158). -/
def State.selfInvalidate (s : State) (c : Nat) : State := s.updL1 c (fun m => m.filter (fun (q : Nat × L1Word) => q.2.registered))

/-! ## What a home and a node can do at once -/

/-- Does the outside home's grant stand at the internal home (R246, R255, R256)? -/
def State.outerOk (s : State) (line : Nat) (own : Bool) : Bool :=
  if !s.isOuter line || s.addrFailed (64 * line) then true
  else match KMap.look s.coh.outer line with
    | none => false
    | some x => !own || x.st = .m || x.st = .e

/-- Can the home read the line at once: no owner that holds it alone, the host not exclusive (R249, R254)? -/
def State.homeReadable (s : State) (line : Nat) : Bool :=
  let e := s.dirOf line
  (match e.owner with
   | none => true
   | some m => match s.l2Line m line with | some x => x.st = .o | none => true) &&
  e.host ≠ .a && s.outerOk line false

/-- Must a write that performs at the home wait (R249): for the horizon and its guard band, an owner, the host or the outside
home? -/
def State.homeMustWait (s : State) (line : Nat) : Bool :=
  let e := s.dirOf line
  (s.hasHorizon line && decide (s.homeNow (s.homeNode line) < e.h + 16)) || e.owner.isSome ||
  e.host ≠ .none || !s.outerOk line true

/-- Can a load by a node read its copy (Table 12.2, R251)? -/
def State.nodeReadable (s : State) (n line : Nat) : Bool :=
  if n = s.homeNode line then s.homeReadable line
  else match s.l2Line n line with
    | none => false
    | some x => match x.st with
      | .l => s.nodeValid n && decide (s.homeNow n + 16 < x.expiry)
      | _ => true

/-- Is an access of a node performed at the home, without a copy (R251, R252, R259)? -/
def State.atHome (s : State) (n line mode : Nat) : Bool :=
  n ≠ s.homeNode line &&
  (mode = 1 || s.isDomain line || (!s.nodeValid n && (match s.l2Line n line with | some x => x.st = .l | none => true)))

/-- The word as a load by a core of a node finds it behind the L1. -/
def State.nodeWord (s : State) (n w : Nat) : BitVec 32 :=
  match s.registrant n w with
  | some c => match s.l1Word c w with | some x => x.data | none => 0
  | none => lineWord (s.copyLine n (w / 16)) (w % 16)

/-- Is the access one of a MODE 0b01 page at a node that is not the home (R252)? -/
def State.uncachedAt (s : State) (n line mode : Nat) : Bool := mode = 1 && n ≠ s.homeNode line

/-- Can the home serve an uncached read: no owner is left (R252)? -/
def State.homeServes (s : State) (line : Nat) : Bool := (s.dirOf line).owner.isNone && s.homeReadable line

/-- A word as core c reads it behind the unregistered words of its own L1; none while a request must be answered first
(Table 8.4, Table 12.2, R252). -/
def State.behindWord (s : State) (c w mode : Nat) : Option (BitVec 32) :=
  let line := w / 16
  let n := nodeOf c
  if s.isSliceOnly line then some (BitVec.ofNat 32 (s.load (4 * w) 4))
  else if s.uncachedAt n line mode then
    (if !s.pendingAt n line && s.homeServes line then some (s.nodeWord (s.homeNode line) w) else none)
  else if (s.registrant n w).isSome then some (s.nodeWord n w)
  else if s.atHome n line mode then
    (if s.homeReadable line then some (s.nodeWord (s.homeNode line) w) else none)
  else if s.nodeReadable n line then some (s.nodeWord n w) else none

/-- Does the core read the words of one single-copy-atomic unit from its own L1: it holds them all, and those that are not
registered were bound together (R162, R167)? -/
def State.unitLocal (s : State) (c mode : Nat) (ws : List Nat) : Bool :=
  let held := ws.filterMap (fun w => s.l1Word c w)
  let stamps := (held.filter (fun x => !x.registered)).map (·.stamp)
  held.length = ws.length && stamps.all (fun x => x = stamps.headD 0) &&
  !ws.any (fun w => s.uncachedAt (nodeOf c) (w / 16) mode)

/-- The value that core c reads for a word of a unit. -/
def State.unitWord (s : State) (c mode : Nat) (ws : List Nat) (w : Nat) : Option (BitVec 32) :=
  if s.unitLocal c mode ws then (s.l1Word c w).map (·.data) else s.behindWord c w mode

/-- The word that a load of that word alone by core c returns now. -/
def State.peekWord (s : State) (c w mode : Nat) : Option (BitVec 32) := s.unitWord c mode [w] w

/-- Does the read of a word of a unit meet poison (R261)? An unregistered word of the L1 is never poisoned. -/
def State.unitPoison (s : State) (c mode : Nat) (ws : List Nat) (w : Nat) : Bool :=
  let line := w / 16
  let n := nodeOf c
  let own : Bool := match s.l1Word c w with | some x => !x.registered | none => false
  !(own && s.unitLocal c mode ws) &&
  s.copyPoison (if s.atHome n line mode then s.homeNode line else n) line

/-- The word bound by a load: held valid in the L1 under the load's stamp, unless it is registered, or the line is poisoned or
may not be held there (R139, R261). -/
def State.bindWord (s : State) (c w mode : Nat) (v : BitVec 32) : State :=
  let line := w / 16
  let kept : Bool := match s.l1Word c w with | some x => x.registered | none => false
  if s.isSliceOnly line || s.atHome (nodeOf c) line mode || s.copyPoison (nodeOf c) line || kept || !s.l1Room c w then s
  else s.putL1 c w ⟨v, false, s.coh.stamp⟩

/-- A new stamp for the words of one read. -/
def State.newStamp (s : State) : State := { s with coh := { s.coh with stamp := s.coh.stamp + 1 } }

/-! ## Ownership returned -/

/-- RECALL: ownership returns to the home (Table 12.2). -/
def State.recallLine (s : State) (line : Nat) : State :=
  match (s.dirOf line).owner with
  | none => s
  | some m =>
    let e := { s.dirOf line with owner := none }
    match s.l2Line m line with
    | none => s.setDir line e
    | some x =>
      let d := s.nodeLine m line
      let s := if s.pendingAt m line then s else (s.collect m line).unregister m line
      let s := s.dropL2 m line
      let s := if x.st = .m || x.st = .o then s.setBaseBit line d x.poison else s
      s.setDir line e

/-- Is the time of the horizon and its guard band past for the request at the head of a line's queue? -/
def State.horizonPast (s : State) (line : Nat) : Bool :=
  !s.hasHorizon line || decide ((s.dirOf line).h + 16 ≤ s.homeNow (s.homeNode line))

/-- Are the home's other nodes and cores free of what keeps an outside line: no lease that runs, no write that waits? -/
def State.outerQuiet (s : State) (line : Nat) : Bool := s.horizonPast line && !s.coh.unperf.any (fun u => u.line = line)

/-- A MemWr to a pool that waits for its completion (R263), where one has been sent. -/
def State.writeSent (s : State) (sent : Bool) (line : Nat) : State :=
  match sent, s.target (64 * line) with
  | true, .pool _ => { s with coh := { s.coh with writes := s.coh.writes ++ [⟨line, true, s.time.ref⟩] } }
  | _, _ => s

/-- The whole device gives up an outside line: its nodes' copies are recalled, its cores' registrations collected, an M line
written back, a host line in E or S given up by CleanEvict or CleanEvictNoData (R255, R257). Words that still wait for
ownership stay registered at their node until it is granted (R248). -/
def State.giveUpOuter (s : State) (line : Nat) : State :=
  let home := s.homeNode line
  let s := s.recallLine line
  let s := if s.pendingAt home line then s else (s.collect home line).unregister home line
  let dirty : Bool := match KMap.look s.coh.outer line with | some x => decide (x.st = LineState.m) | none => false
  let shared : Bool := match KMap.look s.coh.outer line with | some x => decide (x.st = LineState.s) | none => true
  let out : List HostMsg :=
    if dirty then [.outerWrite line (s.baseLine line) (BitVec.allOnes 64) (s.poison.contains line) none]
    else if s.target (64 * line) = .host then [.cleanEvict line shared]
    else []
  ({ s with
    coh := { s.coh with outer := KMap.del s.coh.outer line }
    hostOut := s.hostOut ++ out } : State).writeSent dirty line

/-- The lines of slice k of the L2 of a node: its copies, and the outside lines whose internal home it is (R140). Local
HBM lines at their home are not told apart from the memory they stand in. -/
def State.l2Slice (s : State) (n k : Nat) : List Nat :=
  (KMap.keys (KMap.lookD s.coh.l2 n [])).filter (fun l => s.homeSlice (64 * l) = k) ++
  (KMap.keys s.coh.outer).filter (fun l => s.homeNode l = n && s.homeSlice (64 * l) = k)

/-- The lines that a slice of a node holds: of 192 MiB on 64 slices, less 16 KiB for each MiB of stage memory (R17, R141), and
less the ways that lasting failures have disabled (R264). -/
def State.l2Cap (s : State) (n k : Nat) : Nat := (192 - (KMap.lookD s.stage n {}).carve) * 256 - s.worn 2 (64 * n + k)

/-- Can a line be evicted from a node's L2: a copy, or an outside line that nothing in the device stands on? A line with a
reservation stays (R164). -/
def State.l2Evictable (s : State) (n line : Nat) : Bool :=
  (s.l2Line n line).isSome ||
  (s.outerQuiet line && (s.dirOf line).owner.isNone &&
   !s.cores.any (fun c => c.2.threads.any (fun t => match t.2.resv with | some r => r.granule = line | none => false)))

/-- A line evicted from a node's L2 (Tables 12.2 and 12.5): a lease is dropped, ownership returns to the home, an outside line is
given up. -/
def State.l2Evict (s : State) (n line : Nat) : State :=
  match s.l2Line n line with
  | some x => if x.st = .l then s.dropL2 n line else s.recallLine line
  | none => s.giveUpOuter line

/-- Room for a line in a node's L2: where its slice is full, the first line that can be evicted is (log entry 12). -/
def State.l2Make (s : State) (n line : Nat) : State :=
  let k := s.homeSlice (64 * line)
  let l := s.l2Slice n k
  if l.contains line || l.length < s.l2Cap n k then s
  else match l.find? (fun v => s.l2Evictable n v) with
    | some v => s.l2Evict n v
    | none => s

/-- The lines of the slices of a node beyond a capacity, in their order (R142). -/
def State.l2Beyond (s : State) (n cap : Nat) : List Nat := (upTo 64).flatMap (fun k => (s.l2Slice n k).drop cap)

/-- Those of them that can be evicted written back and invalidated. -/
def State.l2Shrink (s : State) (n cap : Nat) : State :=
  ((s.l2Beyond n cap).filter (s.l2Evictable n)).foldl (fun s l => s.l2Evict n l) s

/-- A node's copy entered in its L2, with room made for it. -/
def State.fillL2 (s : State) (n line : Nat) (x : L2Line) : State := (s.l2Make n line).setL2 n line x

/-- The outside lines held of a 64 KiB page. -/
def State.outerLinesOf (s : State) (page : Nat) : List Nat := (KMap.keys s.coh.outer).filter (fun l => l / 1024 = page)

/-- The presence filter with the entry of a pool page set (R257): 16 ways of 65,536 sets; where the set is full, the first
page of it whose lines can be given up makes room. None while there is no room. -/
def State.presenceAdd (s : State) (page : Nat) : Option State :=
  if s.coh.presence.contains page then some s
  else
    let mine := s.coh.presence.filter (fun p => p % 65536 = page % 65536)
    let add (s : State) : State := { s with coh := { s.coh with presence := s.coh.presence ++ [page] } }
    if mine.length < 16 then some (add s)
    else (mine.find? (fun p => (s.outerLinesOf p).all s.outerQuiet &&
        !s.coh.outerReqs.any (fun r => r.line / 1024 = p))).map (fun p =>
      let s := (s.outerLinesOf p).foldl (fun s l => s.giveUpOuter l) s
      add { s with coh := { s.coh with presence := s.coh.presence.filter (· ≠ p) } })

/-! ## Requests -/

/-- A request to a home, unless the same one waits already. -/
def State.request (s : State) (line node : Nat) (kind : ReqKind) (mode2 : Bool := false) : State :=
  let r : LineReq := { line := line, node := node, kind := kind, mode2 := mode2 }
  if s.coh.reqs.contains r then s else { s with coh := { s.coh with reqs := s.coh.reqs ++ [r] } }

/-- The Zelas port that serves accesses to a line of another package: one of its route, chosen by a hash of PA[15:6] (R258). -/
def State.zelasPort (s : State) (line : Nat) : Option Nat :=
  match s.target (64 * line) with
  | .domain pkg _ =>
    let ports := (upTo 24).filter (fun j => bitOf (s.regN .zlkRoute pkg) j)
    ports[Config.portHash (bitsOf (64 * line) 15 6) % max 1 ports.length]?
  | _ => none

/-- The request to the outside home (R255, R256, R259), with the presence filter's entry set first (R257). -/
def State.requestOuter (s : State) (line : Nat) (own : Bool) : State :=
  if s.outerOk line own || s.coh.outerReqs.any (fun r => r.line = line && (r.own || !own)) then s
  else
    let made : Option State := match s.target (64 * line) with
      | .pool _ => s.presenceAdd (line / 1024)
      | _ => some s
    match made with
    | none => s
    | some s => { s with
        coh := { s.coh with outerReqs := s.coh.outerReqs ++ [⟨line, own, s.time.ref⟩] }
        hostOut := s.hostOut ++ [.outerRead line own (s.zelasPort line)] }

/-- What a load by a node that cannot read a line sends (Table 12.2). -/
def State.requestRead (s : State) (n line mode : Nat) : State :=
  if s.isSliceOnly line then s
  else
    let s := if s.isOuter line then s.requestOuter line false else s
    if s.uncachedAt n line mode then
      (if s.homeServes line then s else s.request line (s.homeNode line) .uncached)
    else if s.atHome n line mode || n = s.homeNode line then
      (if s.homeReadable line then s else s.request line (s.homeNode line) .readShared)
    else if s.nodeReadable n line then s else s.request line n .readShared (decide (mode = 2))

/-- Can the device read a line now: the outside home and the host have granted it (R254, R255)? -/
def State.readReady (s : State) (line : Nat) : Bool :=
  s.isSliceOnly line || s.addrFailed (64 * line) || (s.outerOk line false && (s.dirOf line).host ≠ .a)

/-- What a device read that must wait asks for. -/
def State.readRequest (s : State) (line : Nat) : State :=
  let s := if s.isOuter line then s.requestOuter line false else s
  s.request line (s.homeNode line) .readShared

/-- The lines of a byte range. -/
def linesOf (pa n : Nat) : List Nat := (upTo (lineOf (pa + n - 1) - lineOf pa + 1)).map (· + lineOf pa)

/-- Does the node hold the line so that a write of its own performs at once (Table 12.2, R249)? -/
def State.ownsLine (s : State) (n line : Nat) : Bool :=
  s.isSliceOnly line ||
  (if n = s.homeNode line then !s.homeMustWait line
   else match s.l2Line n line with | some x => x.st = .m || x.st = .e | none => false)

/-- The request for ownership of a line. -/
def State.requestOwn (s : State) (n line : Nat) : State :=
  let s := if s.isOuter line then s.requestOuter line true else s
  if s.ownsLine n line then s
  else s.request line n (if n = s.homeNode line then .homeWrite else .readOwn)

/-! ## Reservations and holds (R164, R165) -/

/-- The thread that holds a granule. -/
def State.holder (s : State) (granule : Nat) : Option (Nat × Nat) :=
  s.cores.findSome? (fun p => p.2.threads.findSome? (fun q =>
    match q.2.hold with
    | some h => if h.granule = granule then some (p.1, q.1) else none
    | none => none))

/-- Must a write of an agent wait behind another thread's hold? -/
def State.heldBack (s : State) (granule : Nat) (who : Option (Nat × Nat)) : Bool :=
  match s.holder granule with
  | none => false
  | some h => who ≠ some h

/-- A write by an agent performs on a granule for the cores that p selects: the reservations of others are lost. -/
def State.breakResv (s : State) (granule : Nat) (who : Option (Nat × Nat)) (p : Nat → Bool) : State :=
  { s with cores := KMap.mapKV s.cores (fun c k =>
      if p c then
        { k with threads := KMap.mapKV k.threads (fun j t =>
            match t.resv with
            | some r => if r.granule = granule && who ≠ some (c, j) && t.hold.isNone then { t with resv := none } else t
            | none => t) }
      else k) }

/-! ## Writes -/

/-- The recorded sharers of a line in other packages invalidated (R259), as part of the step of the write at its home (log
entry 49). -/
def State.invalidateSharers (s : State) (line : Nat) : State :=
  if (KMap.lookD s.coh.sharers line []).isEmpty then s
  else { s with
    coh := { s.coh with sharers := KMap.del s.coh.sharers line }
    hostOut := s.hostOut ++ (KMap.lookD s.coh.sharers line []).map (fun p => HostMsg.zelasInv p line) }

/-- A line of the home after a write that performs there: the predictor starts anew, leases are forgotten (R249), the sharers
in other packages are invalidated (R259). -/
def State.homeWrote (s : State) (line : Nat) : State :=
  let s := s.invalidateSharers line
  if (KMap.look s.coh.dir line).isSome then s.setDir line { s.dirOf line with k := 0, leased := [] }
  else s

/-- An outside line that has been written is in M at its internal home (Table 12.5). -/
def State.outerWrote (s : State) (line : Nat) : State :=
  match KMap.look s.coh.outer line with
  | none => s
  | some _ => { s with coh := { s.coh with outer := KMap.put s.coh.outer line ⟨.m⟩ } }

/-- A whole word registered by a core (Table 8.4, R248): it performs at once where the node owns the line, and otherwise
when the home grants ownership. -/
def State.registerWord (s : State) (c k team w : Nat) (v : BitVec 32) : State :=
  let line := w / 16
  let n := nodeOf c
  let owns := s.ownsLine n line
  let s := if owns then s else s.collect n line
  let s := match s.registrant n w with
    | some r => if r = c then s else s.updL1 r (fun m => KMap.del m w)
    | none => s
  let s := s.putL1 c w { data := v, registered := true }
  if owns then
    let s := match s.l2Line n line with
      | some x => if n ≠ s.homeNode line && x.st = LineState.e then s.setL2 n line { x with st := .m } else s
      | none => s
    let s := if n = s.homeNode line then (s.homeWrote line).outerWrote line else s
    s.breakResv line (some (c, k)) (fun _ => true)
  else
    let u : Unperf := { line := line, node := n, core := c, thread := k, team := team }
    let s := if s.coh.unperf.contains u then s else { s with coh := { s.coh with unperf := s.coh.unperf ++ [u] } }
    (s.requestOwn n line).breakResv line (some (c, k)) (fun x => nodeOf x = n)

/-- Bytes of one line written into the copy at a slice. -/
def State.setCopyCells (s : State) (n line : Nat) (cells : List Host.Cell) : State :=
  if s.isSliceOnly line then s.putCells (cells.filter (fun x => match s.target x.1 with
    | .stage p off => s.stageOk p off
    | _ => true))
  else s.setCopy n line (cells.foldl (fun d c => setLineByte d (c.1 % 64) c.2) (s.copyLine n line))

/-- Bytes written at a node's slice by an access that performs there: the registration of their words ends first
(Table 8.4). -/
def State.writeAtSlice (s : State) (n : Nat) (who : Option (Nat × Nat)) (cells : List Host.Cell) : State :=
  let lines := dedupNat (cells.map (fun c => c.1 / 64))
  let s := lines.foldl (fun s l =>
    if s.isSliceOnly l then s else
      let s := if s.pendingAt n l then s
        else s.endWords n l (dedupNat ((cells.filter (fun c => c.1 / 64 = l)).map (fun c => c.1 / 4)))
      match s.l2Line n l with
      | some x => if n ≠ s.homeNode l then s.setL2 n l { x with st := .m } else s
      | none => s) s
  let s := lines.foldl (fun s l => s.setCopyCells n l (cells.filter (fun c => c.1 / 64 = l))) s
  lines.foldl (fun s l => ((s.homeWrote l).outerWrote l).breakResv l who (fun _ => true)) s

/-- May an agent that is no core write a line now? -/
def State.agentReady (s : State) (line : Nat) (who : Option (Nat × Nat)) : Bool :=
  s.isSliceOnly line || s.addrFailed (64 * line) || s.isDomain line ||
  (!s.homeMustWait line && !s.heldBack line who)

/-- What an agent that must wait for a line asks for. -/
def State.agentRequest (s : State) (line : Nat) : State :=
  if s.isSliceOnly line || s.isDomain line then s else s.requestOwn (s.homeNode line) line

/-- A write to a line of another package, performed at that package (R259): the bytes leave, and every copy here ends. -/
def State.domainWrite (s : State) (c k team line : Nat) (cells : List Host.Cell) (bad : Bool := false) : State :=
  let d := cells.foldl (fun d x => setLineByte d (x.1 % 64) x.2) 0
  let mask := cells.foldl (fun (m : BitVec 64) x => m ||| BitVec.ofNat 64 (2 ^ (x.1 % 64))) 0
  let u : Unperf := { line := line, node := s.homeNode line, core := c, thread := k, team := team }
  ({ s with
    coh := { s.coh with
      outer := KMap.del s.coh.outer line
      l1 := KMap.mapVals s.coh.l1 (fun m => m.filter (fun q => q.1 / 16 ≠ line))
      l2 := KMap.mapVals s.coh.l2 (fun m => KMap.del m line)
      unperf := if s.coh.unperf.contains u then s.coh.unperf else s.coh.unperf ++ [u] }
    hostOut := s.hostOut ++ [.outerWrite line d mask bad (s.zelasPort line)] } : State).breakResv line (some (c, k)) (fun _ => true)

/-! ## The moves of a home (R248, R249) -/

/-- Must a request for a write wait for the hold of a thread: the holder's node is another, or other threads of it have writes
waiting there (R165)? -/
def State.holdBlocks (s : State) (r : LineReq) : Bool :=
  (r.kind = .readOwn || r.kind = .homeWrite || r.kind = .hostOwn) &&
  (match s.holder r.line with
   | none => false
   | some h => r.node ≠ nodeOf h.1 ||
       s.coh.unperf.any (fun u => u.line = r.line && u.node = r.node && !(u.core = h.1 && u.thread = h.2)))

/-- The first request waiting for a line that no hold keeps back (R165, R248). -/
def State.headReq (s : State) (line : Nat) : Option LineReq := s.coh.reqs.find? (fun r => r.line = line && !s.holdBlocks r)

/-- The head request of a line answered. -/
def State.answerReq (s : State) (r : LineReq) : State :=
  { s with coh := { s.coh with reqs := s.coh.reqs.erase r } }

/-- The directory entries of a line's slice. -/
def State.dirMates (s : State) (line : Nat) : List Nat :=
  (KMap.keys s.coh.dir).filter (fun l => s.sliceKey l = s.sliceKey line)

/-- Can the slice's directory take an entry for a line: it has one, or room, or an entry of a line that the host does not hold
to give up? -/
def State.dirRoom (s : State) (line : Nat) : Bool :=
  (KMap.look s.coh.dir line).isSome || decide ((s.dirMates line).length < s.timing.dirEntries) ||
  (s.dirMates line).any (fun v => (s.dirOf v).host = .none)

/-- Eviction of an entry of a full slice directory (R247): the first of a line that the host does not hold gives way; any owner
is recalled, and the slice's spill horizon rises to the entry's. -/
def State.dirEvict (s : State) (line : Nat) : State :=
  if (KMap.look s.coh.dir line).isSome || (s.dirMates line).length < s.timing.dirEntries then s
  else match (s.dirMates line).find? (fun v => (s.dirOf v).host = .none) with
    | none => s
    | some v =>
      let e := s.dirOf v
      let s := s.recallLine v
      { s with coh := { s.coh with
          dir := KMap.del s.coh.dir v
          spill := KMap.alter s.coh.spill (s.sliceKey v) 0 (fun h => if h < e.h then e.h else h) } }

/-- The lease length of R249, with the predictor after a renewal; mode2 for pages of MODE 0b10 (R252). A lease has expired for
its holder 16 ticks before its tick. -/
def leaseOf (e : DirEntry) (n : Nat) (now : Tick) (mode2 : Bool) : Nat × DirEntry :=
  let renews := e.leased.any (fun p => p.1 = n && p.2 ≤ now + 16)
  let k := if renews then min (e.k + 1) 8 else e.k
  ((if mode2 then 65536 else 256 * 2 ^ k), { e with k := if mode2 then e.k else k })

/-- The lease that a node is granted now: its tick, and the entry with it (R249). -/
def State.leaseFor (s : State) (line n : Nat) (mode2 : Bool) : Tick × DirEntry :=
  let now := s.homeNow (s.homeNode line)
  let (len, e) := leaseOf (s.dirOf line) n now mode2
  let x := now + len
  (x, { e with
    h := if e.h < x then x else e.h
    leased := (e.leased.filter (fun p => p.1 ≠ n)) ++ [(n, x)] })

/-- The grant of a leased copy to a node (R249). -/
def State.grantLease (s : State) (line n : Nat) (mode2 : Bool) : State :=
  let s := s.dirEvict line
  let (x, e) := s.leaseFor line n mode2
  let s := s.setDir line e
  if s.nodeValid n then s.fillL2 n line ⟨.l, s.outsideLine line, x, s.outsidePoison line⟩ else s

/-- READ_SHARED: the home serves the read request at the head of a line's queue, when no owner holds the line alone. -/
def State.canReadShared (s : State) (line n : Nat) : Bool :=
  (match s.headReq line with | some r => r.node = n && r.kind = .readShared | none => false) && s.homeReadable line

/-- FORWARDED_READ: the owner supplies the data first. -/
def State.canForward (s : State) (line n : Nat) : Bool :=
  (match s.headReq line with | some r => r.node = n && r.kind = .readShared | none => false) &&
  (match (s.dirOf line).owner with
   | some m => match s.l2Line m line with | some x => x.st ≠ .o | none => false
   | none => false)

/-- The forwarded read at the owner (Table 12.2): M and O become O, E becomes L until tick t; the data reach the home. -/
def State.forwardRead (s : State) (line : Nat) (t : Tick) : State :=
  match (s.dirOf line).owner with
  | none => s
  | some m =>
    match s.l2Line m line with
    | none => s.setDir line { s.dirOf line with owner := none }
    | some x =>
      let s := s.collect m line
      let d := s.nodeLine m line
      let s := s.setBaseBit line d x.poison
      if x.st = .e then
        let e := s.dirOf line
        (s.setL2 m line ⟨.l, d, t, x.poison⟩).setDir line { e with owner := none, h := if e.h < t then t else e.h }
      else s.setL2 m line { x with st := .o, data := d }

/-- A forwarded read for a reader that takes no lease: an owner in E keeps a lease of its own (log entry 38). -/
def State.forwardPlain (s : State) (line : Nat) : State :=
  match (s.dirOf line).owner with
  | some m => s.forwardRead line (s.leaseFor line m false).1
  | none => s

/-- Can the owner be recalled for the request at the head of the line's queue? An uncached read waits for no lease (R252). -/
def State.canRecall (s : State) (line : Nat) : Bool :=
  match s.headReq line with
  | some r => (r.kind = .uncached || (r.kind ≠ .readShared && s.horizonPast line)) &&
      (match (s.dirOf line).owner with | some m => m ≠ r.node || r.kind ≠ .readOwn | none => false)
  | none => false

/-- Can READ_OWN grant the request at the head of the line's queue? -/
def State.canReadOwn (s : State) (line n : Nat) : Bool :=
  match s.headReq line with
  | some r => r.node = n && (r.kind = .readOwn || r.kind = .homeWrite) && s.horizonPast line &&
      ((s.dirOf line).owner = none || ((s.dirOf line).owner = some n && r.kind = .readOwn)) &&
      (s.dirOf line).host = .none && s.outerOk line true && (r.kind = .homeWrite || s.dirRoom line)
  | none => false

/-- READ_OWN's grant (R249, R250): registrations of the home node are collected, the node receives the line in M, and its
waiting writes perform, with the poison that they leave. -/
def State.grantOwn (s : State) (line n : Nat) (kind : ReqKind) : State :=
  let home := s.homeNode line
  let s := s.invalidateSharers line
  let s := if kind = .readOwn then s.dirEvict line else s
  let s := if n = home || s.pendingAt home line then s else (s.collect home line).unregister home line
  let e := s.dirOf line
  let s := if kind = .readOwn then s.setDir line { e with k := 0, leased := [], owner := some n }
           else if (KMap.look s.coh.dir line).isSome then s.setDir line { e with k := 0, leased := [], owner := none }
           else s
  let s := if kind = .readOwn then
      (match s.l2Line n line with
       | some x =>
         s.fillL2 n line ⟨.m, if x.st = .o then x.data else s.baseLine line, 0,
           if x.st = .o then x.poison else s.poison.contains line⟩
       | none => s.fillL2 n line ⟨.m, s.baseLine line, 0, s.poison.contains line⟩)
    else s
  let done := s.coh.unperf.filter (fun u => u.line = line && u.node = n)
  let s := { s with coh := { s.coh with unperf := s.coh.unperf.filter (fun u => !(u.line = line && u.node = n)) } }
  let s := if done.isEmpty then s else s.outerWrote line
  done.foldl (fun s u =>
    let s := match u.poison with | some b => s.setCopyPoison n line b | none => s
    s.breakResv line (some (u.core, u.thread)) (fun _ => true)) s

/-- The leased copies of a node dropped (R251). -/
def State.dropLeases (s : State) (n : Nat) : State :=
  { s with coh := { s.coh with l2 := KMap.alter s.coh.l2 n [] (fun m => m.filter (fun q => q.2.st ≠ .l)) } }

end Sys2Proof.Machine
end

