-- ==== Sys2Proof/Machine/Translate.lean ====
section
/-! DEFINITION. Translation (R146 to R150) and the checks on an access in the order of Table 7.3 (R136). -/

namespace Sys2Proof.Machine

/-- Fault codes of the checks on an access (Table 10.1). -/
def codeXLATE : Nat := 0x10
/-- PROT. -/
def codePROT : Nat := 0x11
/-- POISON. -/
def codePOISON : Nat := 0x12
/-- MODE. -/
def codeMODE : Nat := 0x13
/-- ALIGN. -/
def codeALIGN : Nat := 0x14

/-- A level of Table 7.8: lowest VA bit of its index, bits of the index, may an entry be a leaf, must it, and the size of the
table that an entry names. -/
structure WalkLevel where
  shift : Nat
  bits : Nat
  leafOk : Bool
  mustLeaf : Bool
  nextSize : Nat
  deriving DecidableEq, Repr

/-- Table 7.8. -/
def walkLevels : List WalkLevel :=
  [⟨48, 9, false, false, 4096⟩, ⟨39, 9, false, false, 4096⟩, ⟨30, 9, true, false, 4096⟩, ⟨21, 9, true, false, 256⟩,
   ⟨16, 5, true, true, 1⟩]

/-- PA[51:8] of an entry as an address (Table 7.9). -/
def entryAddr (e : Nat) : Nat := bitsOf e 51 8 * 256

/-- Is an entry usable at its level: V = 1 and not malformed (R147)? -/
def entryUsable (l : WalkLevel) (e : Nat) : Bool :=
  let leaf := bitOf e 1
  bitOf e 0 && bitsOf e 61 52 = 0 && bitsOf e 7 7 = 0 && bitsOf e 3 2 = 0 &&
  (if leaf then l.leafOk && entryAddr e % 2 ^ l.shift = 0
   else !l.mustLeaf && bitsOf e 63 62 = 0 && entryAddr e % l.nextSize = 0)

/-- The key of a cached upper-level entry: address space, level and the VA bits above the level's index and its own. -/
def upperKey (aspace va : Nat) (l : WalkLevel) : Nat := (aspace * 64 + l.shift) * 2 ^ 57 + bitsOf va 56 0 / 2 ^ l.shift

/-- The walk of an address from a table, by the entries cached on the port die where it has them (R149): the upper entries
read, and the size of the page with its leaf, or none for XLATE. -/
def State.walkFrom (s : State) (pd aspace va : Nat) :
    List WalkLevel → Nat → List (Nat × Word) → List (Nat × Word) × Option (Nat × Nat)
  | [], _, acc => (acc, none)
  | l :: rest, table, acc =>
    let key := upperKey aspace va l
    let a := s.canonAddr (table + 8 * (va / 2 ^ l.shift % 2 ^ l.bits))
    let cached := KMap.look (KMap.lookD s.mmu.upper pd []) key
    let e := match cached with | some x => x.toNat | none => s.outsideLoad a 8
    if cached.isNone && (s.outsidePoison (lineOf a) || s.addrFailed a) then (acc, none)
    else if !entryUsable l e then (acc, none)
    else if bitOf e 1 then (acc, some (2 ^ l.shift, e))
    else s.walkFrom pd aspace va rest (entryAddr e) (acc ++ [(key, BitVec.ofNat 64 e)])

/-- The whole walk of an address of a space from a root register's value (R146, R150). -/
def State.walk (s : State) (pd aspace va : Nat) (root : Word) : List (Nat × Word) × Option (Nat × Nat) :=
  if !bitOf root.toNat 0 then ([], none)
  else s.walkFrom pd aspace va walkLevels (bitsOf root.toNat 51 12 * 4096) []

/-- The line that the walk of an address must wait for: the first entry, by the entries cached, whose line the host or the
outside home has still to grant (R149: each entry is read by a load with acquire at DEVICE scope). -/
def State.walkWaitFrom (s : State) (pd aspace va : Nat) : List WalkLevel → Nat → Option Nat
  | [], _ => none
  | l :: rest, table =>
    let a := s.canonAddr (table + 8 * (va / 2 ^ l.shift % 2 ^ l.bits))
    let cached := KMap.look (KMap.lookD s.mmu.upper pd []) (upperKey aspace va l)
    if cached.isNone && !s.readReady (lineOf a) then some (lineOf a)
    else
      let e := match cached with | some x => x.toNat | none => s.outsideLoad a 8
      if !entryUsable l e || bitOf e 1 then none else s.walkWaitFrom pd aspace va rest (entryAddr e)

/-- That line for the whole walk from a root register's value. -/
def State.walkWait (s : State) (pd aspace va : Nat) (root : Word) : Option Nat :=
  if !bitOf root.toNat 0 then none else s.walkWaitFrom pd aspace va walkLevels (bitsOf root.toNat 51 12 * 4096)

/-! ## Cached translations (R149) -/

/-- Does a cached translation hold the address? -/
def Tlb.hits (t : Tlb) (aspace va : Nat) : Bool :=
  t.aspace = aspace && t.va ≤ bitsOf va 56 0 && bitsOf va 56 0 < t.va + t.size

/-- A list of translations with one more, the oldest given up beyond the capacity (log entry 12). -/
def tlbAdd (cap : Nat) (t : Tlb) (l : List Tlb) : List Tlb :=
  let l := l.filter (fun x => x ≠ t) ++ [t]
  l.drop (l.length - cap)

/-- The translation of an address that a core or its port die holds: page size and leaf. -/
def State.tlbLook (s : State) (c aspace va : Nat) : Option (Nat × Nat) :=
  match (KMap.lookD s.mmu.coreTlb c []).find? (fun t => t.hits aspace va) with
  | some t => some (t.size, t.leaf.toNat)
  | none => ((KMap.lookD s.mmu.dieTlb (nodeOf c) []).find? (fun t => t.hits aspace va)).map (fun t => (t.size, t.leaf.toNat))

/-- A translation entered on a port die and on a core. -/
def State.tlbFill (s : State) (pd : Nat) (c : Option Nat) (aspace va size : Nat) (leaf : Nat) : State :=
  let t : Tlb := ⟨aspace, bitsOf va 56 0 / size * size, size, BitVec.ofNat 64 leaf⟩
  let m := s.mmu
  { s with mmu := { m with
      dieTlb := KMap.alter m.dieTlb pd [] (tlbAdd 8192 t)
      coreTlb := match c with | some c => KMap.alter m.coreTlb c [] (tlbAdd 512 t) | none => m.coreTlb } }

/-- Upper-level entries entered on a port die. -/
def State.upperFill (s : State) (pd : Nat) (l : List (Nat × Word)) : State :=
  { s with mmu := { s.mmu with
      upper := KMap.alter s.mmu.upper pd [] (fun m => l.foldl (fun m p => KMap.put m p.1 p.2) m) } }

/-! ## Checks (R136) -/

/-- Checks 4 to 6 of Table 7.3 on the bytes pa to pa + n − 1 of one page: the fault code, or none. A page with PV = 0 may map
the second 64 KiB of the DST window and nothing else of control space (R7, R129); the window of the package's own number is
checked as the local HBM it stands for (R258). -/
def State.leafFault (s : State) (write handler : Bool) (leaf pa n : Nat) : Option Nat :=
  let mode := bitsOf leaf 63 62
  let pv := bitOf leaf 6
  let reserved := match s.target (s.canonAddr pa) with
    | .reserved => true
    | .control off => !pv && !(decide (RegName.dstSem.offset 0 ≤ off) && decide (off + n ≤ RegName.dstSem.offset 0 + 0x10000))
    | .stage p off => !s.stageOk p off
    | .pool port => (s.poolRange pa port).isNone
    | .domain pkg _ => s.regN .zlkRoute pkg = 0 && !s.failed.contains pkg
    | _ => false
  if (write && !bitOf leaf 5) || (!write && !bitOf leaf 4) || (pv && !handler) || mode = 3 || reserved then some codePROT
  else if write && mode = 2 then some codeMODE
  else if s.addrFailed pa then some codePOISON
  else none

/-- What the checks on an access answer: the physical address and page mode of every byte, a fault with the address of the
first byte of the page that fails, or a page to be walked first. -/
inductive AddrCheck
  | ok (bytes : List (Nat × Nat))
  | fault (code va : Nat)
  | miss (va : Nat)
  deriving DecidableEq, Repr

/-- Checks 2 to 6 on the bytes va to va + n − 1 within one 64 KiB page. -/
def State.checkPiece (s : State) (c k va n : Nat) (write : Bool) : AddrCheck :=
  if bitsOf va 63 57 ≠ (if bitOf va 56 then 127 else 0) then .fault codePROT va
  else match s.tlbLook c (s.aspaceOf c k) va with
    | none => .miss va
    | some (size, leaf) =>
      let pa := entryAddr leaf + bitsOf va 56 0 % size
      match s.leafFault write (isHandlerKey k) leaf pa n with
      | some code => .fault code va
      | none => .ok ((upTo n).map (fun i => (s.canonAddr (pa + i), bitsOf leaf 63 62)))

/-- The pieces of an address range by 64 KiB page in ascending order; addresses are modulo 2^64. -/
def pagePieces (va n : Nat) : List (Nat × Nat) :=
  let first := 65536 - va % 65536
  if n ≤ first then [(va, n)]
  else (va, first) :: (upTo (ceilDiv (n - first) 65536)).map (fun i =>
    ((va + first + 65536 * i) % 2 ^ 64, min 65536 (n - first - 65536 * i)))

/-- Checks 2 to 6 page by page (R136); the first failure in ascending order. -/
def State.checkRange (s : State) (c k va n : Nat) (write : Bool) : AddrCheck :=
  (pagePieces va n).foldl (fun acc p =>
    match acc with
    | .ok l => match s.checkPiece c k p.1 p.2 write with
      | .ok m => .ok (l ++ m)
      | x => x
    | x => x) (.ok [])

/-- A range of an access: address, bytes, alignment and whether it is checked as a write. -/
structure Range where
  va : Nat
  n : Nat
  align : Nat
  write : Bool
  deriving DecidableEq, Repr

/-- All checks on the ranges of an access, in the order given. -/
def State.checkAll (s : State) (c k : Nat) (l : List Range) : AddrCheck :=
  match l.find? (fun r => r.va % r.align ≠ 0) with
  | some r => .fault codeALIGN r.va
  | none => l.foldl (fun acc r =>
      match acc with
      | .ok x => match s.checkRange c k r.va r.n r.write with
        | .ok y => .ok (x ++ y)
        | z => z
      | z => z) (.ok [])

/-- The translation of one address for a device agent (engine, Loader, station) or for the pages of a copy: the translation
that the port die holds, or a walk at once, with the checks 2 to 6 (R42, R48, R149, R309; log entry 39). -/
def State.deviceXlat (s : State) (pd aspace va n : Nat) (write handler : Bool) : Except Nat Nat :=
  if bitsOf va 63 57 ≠ (if bitOf va 56 then 127 else 0) then .error codePROT
  else
    let held := ((KMap.lookD s.mmu.dieTlb pd []).find? (fun t => t.hits aspace va)).map (fun t => (t.size, t.leaf.toNat))
    match held.orElse (fun _ => (s.walk pd aspace va (s.reg .mmuRoot aspace)).2) with
    | none => .error codeXLATE
    | some (size, leaf) =>
      let pa := entryAddr leaf + bitsOf va 56 0 % size
      match s.leafFault write handler leaf pa n with
      | some code => .error code
      | none => .ok (s.canonAddr pa)

/-- A walk for a page, merged with one that is under way (R149). -/
def State.startWalk (s : State) (pd aspace va : Nat) (waiter : Nat × Nat) : State :=
  let page := bitsOf va 56 16
  match s.mmu.walks.find? (fun w => w.pd = pd && w.aspace = aspace && w.page = page) with
  | some w =>
    { s with mmu := { s.mmu with walks := s.mmu.walks.map (fun x =>
        if x.id = w.id then { x with waiters := x.waiters ++ [waiter] } else x) } }
  | none =>
    { s with
      nextId := s.nextId + 1
      mmu := { s.mmu with walks := s.mmu.walks ++ [⟨s.nextId, pd, aspace, page, s.reg .mmuRoot aspace, [waiter]⟩] } }

/-! ## Invalidation (R150, R253) -/

/-- The range that MMU_INV or MMU_PGMODE names: address space, first VA and bytes; size 3 is the whole space. -/
def invRange (v : Nat) : Nat × Nat × Nat :=
  let n := match bitsOf v 14 13 with | 0 => 2 ^ 16 | 1 => 2 ^ 21 | 2 => 2 ^ 30 | _ => 2 ^ 57
  (bitsOf v 63 56, bitsOf v 55 15 * 65536 / n * n, n)

/-- Does a cached translation meet a range? -/
def Tlb.meets (t : Tlb) (aspace va n : Nat) : Bool := t.aspace = aspace && t.va < va + n && va < t.va + t.size

/-- The translations of a range dropped on every core and port die. -/
def State.dropXlat (s : State) (aspace va n : Nat) : State :=
  let keep (l : List Tlb) : List Tlb := l.filter (fun t => !t.meets aspace va n)
  { s with mmu := { s.mmu with
      coreTlb := KMap.mapVals s.mmu.coreTlb keep
      dieTlb := KMap.mapVals s.mmu.dieTlb keep
      upper := KMap.mapVals s.mmu.upper (fun m => m.filter (fun p =>
        let top := p.1 / 2 ^ 57
        let base := p.1 % 2 ^ 57 * 2 ^ (top % 64)
        !(top / 64 = aspace && base < va + n && va < base + 2 ^ (top % 64)))) } }

end Sys2Proof.Machine
end

