-- ==== Sys2Proof/Machine/RegRead.lean ====
section
/-! DEFINITION. Reads of control space (R5, R6): the registers whose value follows the state of a unit, and the value of an
access of a width at an offset. -/

namespace Sys2Proof.Machine

/-- A word with bit i set where p i holds. -/
def maskOf (n : Nat) (p : Nat → Bool) : Nat := (upTo n).foldl (fun acc i => acc + (if p i then 2 ^ i else 0)) 0

/-- SEC_STAT (Table 14.1). -/
def State.secStat (s : State) : Nat :=
  s.sec.stage * 32 + b2n s.sec.nv.erased * 16 + b2n s.sec.keys * 8 + b2n s.sec.recordValid * 4 + b2n s.sec.recovery * 2 +
  b2n s.sec.imageVerified

/-- LQ_STAT (Table 9.3): IDLE, no packet begun and incomplete, from the first setting of EN on; the register's reset value is 0
(log entry 48). -/
def Queue.stat (q : Queue) : Nat :=
  (if q.tear ≠ 0 then 2 else 0) + b2n (q.opened && !(q.packets.any (fun p => p.2.st = .begun)))

/-- What a read of a register returns. -/
def State.readReg (s : State) (n : RegName) (i : Nat) : Nat :=
  match n with
  | .tmbNow => s.time.ref
  | .tmbView => maskOf 13 (fun d => (s.die d).valid)
  | .stgStat => maskOf 4 (fun p => (KMap.lookD s.stage p {}).target.isSome)
  | .stgCarve => if i < s.portDies then s.regN .stgCarve i else 0
  | .hbmBins => let b := KMap.lookD s.hbm i {}; b.fast.length * 2 ^ 24 + b.middle.length
  | .mmuInvstat => b2n s.mmu.inv.isSome
  | .mmuPgstat => b2n s.mmu.pgErr * 2 + b2n s.mmu.pgmode.isSome
  | .lqHead => (s.queue i).head
  | .lqGen => (s.queue i).gen.toNat
  | .lqStat => (s.queue i).stat
  | .dstMode => if s.z240 then 1 else s.regN .dstMode
  | .fstQtail => s.station.tail
  | .fstHstat => b2n s.station.himage.isSome
  | .dlrSaveuse => s.saves.length
  | .dlrPstat => maskOf 8 (fun d => (s.distOf d).restoring) * 65536 + maskOf 8 (fun d => (s.distOf d).refused) * 256 +
      maskOf 8 (fun d => (s.distOf d).preempting)
  | .chrFree => s.regN .chrFramen - s.chr.used.length
  | .chrStat => (s.chr.fetches.filter (fun f => f.frames.isNone)).length * 2 ^ 32 +
      (s.chr.fetches.filter (fun f => f.frames.isSome)).length
  | .zlkPort => KMap.lookD s.links.zelas i 0
  | .cxpLink => KMap.lookD s.links.cxl i 0
  | .cxpPpfocc => s.coh.presence.length
  | .elgTail => s.elog.tail
  | .dbgStat => b2n s.dbg.stepNone * 4 + b2n s.dbg.stepping.isSome * 2 + b2n s.dbg.settled
  | .dbgTrtail => s.dbg.trTail
  | .pmcSptail => s.dbg.spTail
  | .pmcHbin =>
    let v := s.regN .pmcHsel
    (KMap.lookD (s.tile (bitsOf v 18 11) (bitsOf v 10 5)).hist (bitsOf v 4 0 * 16 + i) 0).toNat
  | .rplLast => s.rpl.last
  | .secStat => s.secStat
  | .secSvn => s.sec.nv.svn
  | n => if n.info.access = .wo then 0 else s.regN n i

/-- An access of n bytes at an offset of control space as a read (R5, R6): 8 aligned bytes or 4 aligned bytes are performed,
and every other read returns zero. -/
def State.readControl (s : State) (off n : Nat) : Nat :=
  if (n = 8 && off % 8 = 0) || (n = 4 && off % 4 = 0) then
    match regAt (off / 8 * 8) with
    | none => 0
    | some (r, i) => (s.readReg r i % 2 ^ 64) / 2 ^ (8 * (off % 8)) % 2 ^ (8 * n)
  else 0

end Sys2Proof.Machine
end

