-- ==== Sys2Proof/Machine/Access.lean ====
section
/-! DEFINITION. The accesses of a core (R135 to R138, R153 to R165, R338, R363): what each memory and LVS instruction reads
and writes, its place on the chain, the values a load takes from the thread's own buffer and from memory, the placing of an
entry in the store buffer, and what performs when the reply comes. -/

namespace Sys2Proof.Machine

/-! ## What an instruction names -/

/-- Bytes of a size. -/
def sizeBytes : Size → Nat
  | .s8 => 8 | .s4 => 4 | .s2 => 2 | .s1 => 1

/-- The memory control of an instruction. -/
def memCtlOf : Instr → Option MemCtl
  | .ld _ _ _ _ _ m | .st _ _ _ m | .ldb _ _ _ _ m | .stb _ _ _ _ m | .ldf _ _ _ _ _ _ m | .stf _ _ _ m
  | .sete _ _ _ m | .pref _ _ m | .atom _ _ _ _ m | .cas _ _ _ _ m | .ll _ _ _ _ _ m | .sc _ _ _ m
  | .clrp _ _ _ m | .copy _ m | .lds _ _ _ m | .sts _ _ m => some m
  | _ => none

/-- The scope of an instruction. -/
def scopeOf (i : Instr) : Scope :=
  match i with
  | .fence _ _ s => s
  | i => match memCtlOf i with | some m => m.scope | none => .team

/-- Is the access an acquire (R156)? -/
def isAcquire : Instr → Bool
  | .ld _ _ _ _ a _ | .ldb _ _ _ a _ | .ldf _ _ _ _ _ a _ | .ll _ _ _ _ a _ | .lds _ _ a _ => a
  | .atom _ _ _ o _ | .cas _ _ _ o _ => o = .acq
  | _ => false

/-- The scope at which the access is a release (R156). -/
def releaseOf (i : Instr) : Option Scope :=
  let rel : Bool := match i with
    | .st _ _ r _ | .stb _ _ _ r _ | .stf _ _ r _ | .sete _ _ r _ | .clrp _ _ r _ | .sts _ r _ | .sc _ _ r _ => r
    | .atom _ _ _ o _ | .cas _ _ _ o _ => o = .rel
    | _ => false
  if rel then some (scopeOf i) else none

/-- Is the scope wider than CLUSTER or equal to it (R158)? -/
def wideScope (s : Scope) : Bool := s ≠ .team

/-- Is the scope DEVICE or SYSTEM (R162)? -/
def deviceScope (s : Scope) : Bool := s = .device || s = .system

/-- Is the instruction an atomic (R39)? -/
def isAtomic : Instr → Bool
  | .atom _ _ _ _ _ | .cas _ _ _ _ _ | .sc _ _ _ _ => true
  | _ => false

/-- Is the access checked as a write (R136)? -/
def isWriteCheck : Instr → Bool
  | .st _ _ _ _ | .stb _ _ _ _ _ | .stf _ _ _ _ | .sts _ _ _ | .atom _ _ _ _ _ | .cas _ _ _ _ _ | .sc _ _ _ _
  | .clrp _ _ _ _ | .sete _ _ _ _ | .ll _ _ _ _ _ _ => true
  | _ => false

/-- The own wave number, or 63 (R201). -/
def ownWave (i : Instr) : Nat := match i.wave? with | some w => if w.waved then w.own.toNat else 63 | none => 63

/-- INFO of an access fault (Table 10.3). -/
def accessInfo (i : Instr) : Word := BitVec.ofNat 64 (ownWave i * 256 + b2n (isWriteCheck i))

/-- INFO of a fault of an access, whose check was one of a write or not (Table 10.3). A fault token of XLATE carries what a PROT
of its denied request will say (R213); the station enters the request's identifier. -/
def faultInfo (i : Instr) (code : Nat) (write : Bool) : Word :=
  if code = codePROT || code = codePOISON || code = codeMODE || code = codeALIGN || code = codeXLATE then
    BitVec.ofNat 64 (ownWave i * 256 + b2n write)
  else 0

/-- Is the operand a 64-bit token (R315)? -/
def isWord (l : List Token) : Bool := match l with | [t] => !t.isWide | _ => false

/-- The address in an operand. -/
def addrOf (l : List Token) : Nat := (opTok l).w64.toNat

/-- The blocks of a Q4 burst in an operand. -/
def burstBlocks (l : List Token) : Nat := bitsOf (opTok l).data.toNat 7 0

/-- The byte ranges an access checks, in order; none where an operand does not have the entry's shape (R315, R364 to R366). -/
def memRanges (i : Instr) (f : Firing) : Option (List Range) :=
  let a := addrOf f.a
  let b := addrOf f.b
  let word (n : Size) (w : Bool) : List Range := [⟨a, sizeBytes n, sizeBytes n, w⟩]
  match i with
  | .ld _ n _ _ _ _ => if isWord f.a then some (word n false) else none
  | .ldf _ n _ _ _ _ _ => if isWord f.a then some (word n false) else none
  | .ll _ n _ _ _ _ => if isWord f.a then some (word n true) else none
  | .lds _ _ _ _ => if isWord f.a then some [⟨a, 128, 8, false⟩] else none
  | .ldb _ nb split _ _ =>
    let n := nb.toNat + 1
    if !isWord f.a || (split && !isWord f.b) then none
    else if split then some [⟨a, 16 * n, 16, false⟩, ⟨b, n, 1, false⟩]
    else some [⟨a, 17 * n, 1, false⟩]
  | .st _ n _ _ | .stf _ n _ _ => if isWord f.a && isWord f.b then some (word n true) else none
  | .sete _ n _ _ => if isWord f.a then some (word n true) else none
  | .sts _ _ _ =>
    if f.a.length = 4 && f.a.all (fun t => t.fmt ≠ .q4) && isWord f.b then some [⟨b, 128, 8, true⟩] else none
  | .stb _ ds split _ _ =>
    let n := burstBlocks f.a
    if !(q4BurstOk f.a && f.a.all (fun t => t.fmt = .q4) && isWord f.b) then none
    else if split then some [⟨b, 16 * n, 16, true⟩, ⟨(b + 2 ^ (ds.toNat + 12)) % 2 ^ 64, n, 1, true⟩]
    else some [⟨b, 17 * n, 1, true⟩]
  | .atom _ n _ _ _ => if isWord f.a && isWord f.b then some (word n true) else none
  | .cas _ n _ _ _ => if isWord f.a && isWord f.b && isWord f.q then some (word n true) else none
  | .sc _ n _ _ => if isWord f.a && isWord f.b then some (word n true) else none
  | .clrp _ copy _ _ =>
    if !(isWord f.a && isWord f.b) then none
    else if copy then some [⟨a, 64, 64, true⟩, ⟨b, 64, 64, false⟩] else some [⟨a, 64, 64, true⟩]
  | .pref _ _ _ => if isWord f.a then some [⟨a, 1, 1, false⟩] else none
  | .copy _ _ => if isWord f.a then some [⟨a, 64, 64, false⟩] else none
  | _ => some []

/-! ## The chain (R138) -/

/-- One pass of placing: every unplaced report that a placed one links to is placed after it. -/
def placeOnce (l : List Report) : List Report :=
  l.map (fun y =>
    if y.before.isSome then y
    else if y.own = 0 then { y with before := some [] }
    else match l.find? (fun x => x.before.isSome && (y.pred = x.own || x.succ = y.own)) with
      | some x => { y with before := some (x.before.getD [] ++ [x.id]) }
      | none => y)

/-- Placing until nothing more is placed. -/
def placeReports : Nat → List Report → List Report
  | 0, l => l
  | n + 1, l => placeReports n (placeOnce l)

/-- The report of a waved firing (R138). -/
def State.report (s : State) (c k id : Nat) (i : Instr) : State :=
  match i.wave? with
  | none => s
  | some w =>
    if !w.waved then s
    else s.updExec c k (fun e =>
      let l := e.reports ++ [⟨w.own.toNat, w.pred.toNat, w.succ.toNat, id, none⟩]
      { e with reports := placeReports l.length l })

/-- The accesses before an access on the thread's chain, once it is placed. -/
def Exec.before (e : Exec) (id : Nat) : Option (List Nat) :=
  match e.reports.find? (fun r => r.id = id) with
  | some r => r.before
  | none => some []

/-- Is the access placed, or unwaved (R138)? -/
def Exec.placed (e : Exec) (id : Nat) : Bool := (e.before id).isSome

/-- The accesses that precede an access under R137: those before it on the chain and those its operands depend on. -/
def Exec.preceding (e : Exec) (id : Nat) (deps : List Nat) : List Nat := deps ++ (e.before id).getD []

/-- A new number for an access of an execution, and the state after. -/
def State.accessId (s : State) (c k : Nat) : Nat × State :=
  match s.exec? c k with
  | none => (0, s)
  | some e => (e.nextId, s.updExec c k (fun e => { e with nextId := e.nextId + 1 }))

/-! ## Results -/

/-- The format of the value that an instruction returns on D0. -/
def resultFmt : Instr → Fmt
  | .ld _ _ f _ _ _ | .ldf _ _ _ f _ _ _ | .ll _ _ f _ _ _ | .lds _ f _ _ => f
  | .ldb _ _ _ _ _ => .q4
  | .atom _ _ o _ _ => if o = .fadd then .f32 else .int
  | .lin _ f _ | .linx _ f _ | .lint _ f _ => match f with | .int => .int | .f32 => .f32 | .bf16 => .bf16
  | _ => .int

/-- The completion token of an access (R160): data zero, FMT INT, and the numbers its value depends on. -/
def doneToken (f : Firing) (r : Route) (id : Nat) : Token :=
  { f.resultTag r.ta .int with deps := dedupNat (f.deps ++ [id]) }.fit

/-- The tag of the D0 result of an access. -/
def valueTag (i : Instr) (f : Firing) (r : Route) (id : Nat) : Token :=
  { f.resultTag r.ta (resultFmt i) with deps := dedupNat (f.deps ++ [id]) }

/-- A deferred result of an access on both destinations: the fault code, zero above (R135). -/
def State.emitFault (s : State) (i : Instr) (f : Firing) (r : Route) (id code : Nat) : State :=
  let d : Beat := BitVec.ofNat 256 code
  s.emitOut f r ⟨[{ valueTag i f r id with data := d, deferred := true }.fit],
    [{ doneToken f r id with data := d, deferred := true }], 0⟩

/-- An access that raises a deferrable fault at a check of a write or of a read (R135): nothing performs, and the execution is
abandoned at its exit. -/
def State.accessFaultAt (s : State) (i : Instr) (f : Firing) (r : Route) (id code va : Nat) (write : Bool) : State :=
  let c := f.site.core
  let k := f.key r.ta
  let s := s.takeAccessFault f k code (BitVec.ofNat 64 va) (faultInfo i code write)
  let s := s.updExec c k (fun e => { e with bad := e.bad ++ [id] })
  s.emitFault i f r id code

/-- An access that raises a deferrable fault at the check of its kind. -/
def State.accessFault (s : State) (i : Instr) (f : Firing) (r : Route) (id code va : Nat) : State :=
  s.accessFaultAt i f r id code va (isWriteCheck i)

/-- The address of a fault that has none: all ones (R200). -/
def noAddr : Nat := 2 ^ 64 - 1

/-- A firing of an access with a deferred operand (R69) or as a bubble (R68): the result on D0 in the format of the value,
and the completion token on D1. -/
def State.emitIdle (s : State) (i : Instr) (f : Firing) (r : Route) (id : Nat) : State :=
  if f.deferred then
    let c := f.site.core
    let s := s.updExec c (f.key r.ta) (fun e => { e with bad := e.bad ++ [id] })
    s.emitOut f r ⟨[{ valueTag i f r id with data := f.deferredData, deferred := true }.fit],
      [{ doneToken f r id with data := f.deferredData, deferred := true }.fit], 0⟩
  else s.emitOut f r ⟨[{ valueTag i f r id with pred := false }.fit], [{ doneToken f r id with pred := false }], 0⟩

/-! ## The values that a load takes (R137) -/

/-- The value that a buffered entry gives a byte, if it covers it. -/
def Buffered.byteAt (b : Buffered) (a : Nat) : Option Byte :=
  match b.kind with
  | .bytes units _ _ => units.findSome? (fun u => (u.find? (fun c => c.1 = a)).map (·.2))
  | .fill line v => if a / 64 = line then some (v.extractLsb' (8 * (a % 8)) 8) else none
  | _ => none

/-- The entries of a list that no other entry of it follows under R137. -/
def lastOnes (e : Exec) (l : List Buffered) : List Buffered :=
  l.filter (fun x => !(l.any (fun y => (e.preceding y.id y.deps).contains x.id)))

/-- A choice among n outcomes that the rules leave open (log entry 5). -/
def State.choose (s : State) (n : Nat) : Nat × State :=
  if n ≤ 1 then (0, s) else (Config.freeChoice s.free % n, { s with free := s.free + 1 })

/-- May a read take the value of a buffered write that does not precede it: the write is not known to follow it, and where both
are waved it is placed, since a write not yet placed may turn out to follow (R137, R138)? -/
def Exec.unorderedWith (e : Exec) (id : Nat) (deps : List Nat) (b : Buffered) : Bool :=
  !(e.preceding id deps).contains b.id && !(e.preceding b.id b.deps).contains id &&
  (e.placed b.id || !e.reports.any (fun r => r.id = id))

/-- Bytes of a load unit that come from the thread's own buffered writes: for each address a value, or none for memory
(R137). id and deps are those of the load. A CLRP in copy mode gives no value before its release (R308). -/
def State.forwardUnit (s : State) (e : Exec) (id : Nat) (deps : List Nat) (unit : List Nat) :
    List (Option Byte) × State :=
  let covers (b : Buffered) : Bool := unit.any (fun a => (b.byteAt a).isSome)
  let bufs := e.buffered.filter covers
  if bufs.isEmpty then (unit.map (fun _ => none), s)
  else
    let before := e.preceding id deps
    let prior := bufs.filter (fun b => before.contains b.id)
    let free := bufs.filter (e.unorderedWith id deps)
    let (pick, s) := s.choose (free.length + 1)
    let chosen := if pick = 0 then none else free[pick - 1]?
    let n := (unit.map (fun a => (lastOnes e (prior.filter (fun b => (b.byteAt a).isSome))).length)).foldl max 0
    let (which, s) := s.choose n
    (unit.map (fun a =>
      match chosen.bind (fun b => b.byteAt a) with
      | some v => some v
      | none =>
        let l := lastOnes e (prior.filter (fun b => (b.byteAt a).isSome))
        (l[which % max l.length 1]?).bind (fun b => b.byteAt a)), s)

/-- The value of a register as the thread's own read sees it (R137, R345): buffered writes that precede the read or are
unordered with it, or the register at block entry. none where the value comes from a poisoned register. -/
def State.forwardReg (s : State) (e : Exec) (t : Thread) (id : Nat) (deps : List Nat) (n : Nat) :
    Option Word × State :=
  let val (b : Buffered) : Option Word := match b.kind with | .reg m v => if m = n then some v else none | _ => none
  let bufs := e.buffered.filter (fun b => (val b).isSome)
  let before := e.preceding id deps
  let prior := lastOnes e (bufs.filter (fun b => before.contains b.id))
  let free := bufs.filter (e.unorderedWith id deps)
  let (pick, s) := s.choose (free.length + 1)
  let (which, s) := s.choose prior.length
  let own := if pick = 0 then (prior[which]?).bind val else (free[pick - 1]?).bind val
  match own with
  | some v => (some v, s)
  | none => (if t.poison.contains n then none else some (t.reg n), s)

/-! ## The store buffer -/

/-- An entry placed in the store buffer (R36). -/
def State.buffer (s : State) (c k : Nat) (b : Buffered) : State :=
  s.updExec c k (fun e => { e with buffered := e.buffered ++ [b] })

/-- The cells of n bytes of data at physical addresses. -/
def cellsOf (pas : List Nat) (data : List Byte) : List Host.Cell := List.zip pas data

/-- The bytes of a Q4 block: scale first, then the 16 code bytes (R112). -/
def blockBytes (b : Nat × List Nat) : List Byte :=
  BitVec.ofNat 8 b.1 :: (upTo 16).map (fun i => BitVec.ofNat 8 (b.2.getD (2 * i) 0 + 16 * b.2.getD (2 * i + 1) 0))

/-- The units of a store: the cells that it writes as one (R167, Table 8.5). -/
def storeUnits (i : Instr) (f : Firing) (pas : List Nat) : List (List Host.Cell) :=
  match i with
  | .st _ n _ _ | .stf _ n _ _ => [cellsOf pas (leBytes (sizeBytes n) f.tokB.w64.toNat)]
  | .sts _ _ _ =>
    (upTo 16).map (fun u =>
      cellsOf ((pas.drop (8 * u)).take 8) (leBytes 8 (subWord (f.a.getD (u / 4) {}).data (u % 4)).toNat))
  | .stb _ _ split _ _ =>
    let blocks := q4Blocks f.a
    let n := blocks.length
    blocks.mapIdx (fun j b =>
      let l := blockBytes b
      if split then cellsOf (pas.getD (16 * n + j) 0 :: (pas.drop (16 * j)).take 16) l
      else cellsOf ((pas.drop (17 * j)).take 17) l)
  | _ => []

/-- The 64-byte lines that an STS covers whole (R261, R365). -/
def wholeLines (i : Instr) (pas : List Nat) : List Nat :=
  match i with
  | .sts _ _ _ => (dedupNat (pas.map lineOf)).filter (fun l => (pas.filter (fun a => lineOf a = l)).length = 64)
  | _ => []

/-- What a checked store leaves in the store buffer. -/
def storeKind (i : Instr) (f : Firing) (pas : List Nat) : BufKind :=
  match i with
  | .sete _ _ _ _ => .empties (dedupNat (pas.map (· / 4)))
  | .clrp _ copy _ _ =>
    if copy then .lineCopy (lineOf (pas.getD 0 0)) (lineOf (pas.getD 64 0)) else .fill (lineOf (pas.getD 0 0)) f.tokB.w64
  | .stf _ _ _ _ => .bytes (storeUnits i f pas) true []
  | i => .bytes (storeUnits i f pas) false (wholeLines i pas)

/-- A checked store placed in the store buffer, and its completion tokens (Table 8.3). -/
def State.placeStore (s : State) (i : Instr) (f : Firing) (r : Route) (id : Nat) (bytes : List (Nat × Nat)) : State :=
  let pas := bytes.map (·.1)
  let s := s.buffer f.site.core (f.key r.ta)
    { id := id, own := (match i.wave? with | some w => if w.waved then some w.own.toNat else none | none => none)
      deps := f.deps, kind := storeKind i f pas, rel := releaseOf i, mode := (bytes.headD (0, 0)).2 }
  s.emitOut f r (.both [doneToken f r id])

/-! ## Starting an access -/

/-- Is the instruction a store of the store buffer? -/
def isBufferedStore : Instr → Bool
  | .st _ _ _ _ | .stb _ _ _ _ _ | .stf _ _ _ _ | .sts _ _ _ | .sete _ _ _ _ | .clrp _ _ _ _ => true
  | _ => false

/-- The node at whose slice an atomic performs: the core's own for a line of local HBM, the internal home for an outside line
and for a page of MODE 0b01 (R163, R252, R259). -/
def State.atomicNode (s : State) (c : Nat) (bytes : List (Nat × Nat)) : Nat :=
  let b := bytes.headD (0, 0)
  let l := lineOf b.1
  if s.isOuter l || s.isSliceOnly l || s.atHome (nodeOf c) l b.2 then s.homeNode l else nodeOf c

/-- The requests that the bytes of an access need (Table 12.2); an atomic on a line of another package goes there (R259). -/
def State.requestBytes (s : State) (c : Nat) (i : Instr) (bytes : List (Nat × Nat)) : State :=
  let lines := dedupNat (bytes.map (fun b => lineOf b.1))
  let mode := (bytes.headD (0, 0)).2
  lines.foldl (fun s l =>
    if isAtomic i then (if s.isDomain l then s else s.requestOwn (s.atomicNode c bytes) l)
    else s.requestRead (nodeOf c) l mode) s

/-- An outstanding access entered. The trace record of its firing awaits its result, unless it does so already. -/
def State.outstanding (s : State) (f : Firing) (r : Route) (id : Nat) (st : AccessStage) (due : Nat)
    (deadline : Option Tick) (bytes : List (Nat × Nat)) : Nat × State :=
  let c := f.site.core
  let key := s.nextId
  let tr := if f.trace.isSome then f.trace else if s.traced c then some key else none
  let x : Access :=
    { id := id, thread := f.key r.ta, site := f.site, bits := f.bits, a := f.a, b := f.b, q := f.q, stage := st, due := due
      fired := s.now c, deadline := deadline, bytes := bytes, port := f.port
      trace := tr }
  let s := if f.trace.isNone && tr.isSome then s.holdTrace { core := c, tile := f.site.tile, access := tr, time := s.now c }
    else s
  (key, { s with nextId := s.nextId + 1 }.updCore c (fun k => { k with accesses := KMap.put k.accesses key x }))

/-- The tick at which an LDF gives up (R342), counted from its firing. -/
def ldfDeadline (i : Instr) (fired : Tick) : Option Tick :=
  match i with
  | .ldf _ _ tmo _ _ _ _ => some (fired + 2 ^ (tmo.toNat + 10))
  | _ => none

/-- Does the access name control space? -/
def State.inControl (s : State) (bytes : List (Nat × Nat)) : Bool :=
  bytes.any (fun b => match s.target b.1 with | .control _ => true | _ => false)

/-- PREF (R369): the line brought to a level where a copy is allowed there. -/
def State.prefetch (s : State) (c : Nat) (level : PrefLevel) (pa mode : Nat) : State :=
  let l := lineOf pa
  let n := nodeOf c
  if s.isSliceOnly l || s.atHome n l mode || s.addrFailed pa then s
  else match level with
    | .own => if mode = 2 || s.isDomain l then s else s.requestOwn n l
    | .l2 => s.requestRead n l mode
    | .l1 =>
      if s.nodeReadable n l then
        (upTo 16).foldl (fun s i => match s.behindWord c (16 * l + i) mode with
          | some v => if (s.l1Word c (16 * l + i)).isSome then s else s.bindWord c (16 * l + i) mode v
          | none => s) s.newStamp
      else s.requestRead n l mode

/-- The tokens of a PREF, which carries no result (Table 8.3, R369). -/
def State.prefDone (s : State) (i : Instr) (f : Firing) (r : Route) (id : Nat) : State :=
  s.emitOut f r (.both [{ f.resultTag r.ta (resultFmt i) with deps := dedupNat (f.deps ++ [id]) }.fit])

/-- Was the check that an address failed one of a write: that of the first range that holds it? -/
def checkedWrite (i : Instr) (l : List Range) (va : Nat) : Bool :=
  ((l.find? (fun g => decide (g.va ≤ va) && decide (va < g.va + g.n))).map (·.write)).getD (isWriteCheck i)

/-- A check that fails: PREF does nothing, every other access takes the fault (R135, R369). -/
def State.accessFails (s : State) (i : Instr) (f : Firing) (r : Route) (id code va : Nat) : State :=
  match i with
  | .pref _ _ _ => s.prefDone i f r id
  | i => s.accessFaultAt i f r id code va (checkedWrite i ((memRanges i f).getD []) va)

/-- An access with its checks passed: a store enters the buffer, a prefetch is issued, every other one waits for its reply. -/
def State.accessChecked (s : State) (i : Instr) (f : Firing) (r : Route) (id : Nat) (bytes : List (Nat × Nat)) : State :=
  match i with
  | .pref _ level _ => (s.prefetch f.site.core level (bytes.headD (0, 0)).1 (bytes.headD (0, 0)).2).prefDone i f r id
  | i =>
    if isBufferedStore i then s.placeStore i f r id bytes
    else if isAtomic i && s.inControl bytes then s.accessFault i f r id codePROT (addrOf f.a)
    else
      let c := f.site.core
      let s := s.requestBytes c i bytes
      (s.outstanding f r id .reply (s.cycle c + s.timing.load) (ldfDeadline i (s.now c)) bytes).2

/-- An access begun: its shape, its checks in the order of Table 7.3, or the walk they need first. -/
def State.startAccess (s : State) (i : Instr) (f : Firing) (r : Route) (id : Nat) : State :=
  let c := f.site.core
  let k := f.key r.ta
  match memRanges i f with
  | none => s.freezeFiring f r.ta codeFMTMIS
  | some l =>
    match s.checkAll c k l with
    | .fault code va => s.accessFails i f r id code va
    | .ok bytes => s.accessChecked i f r id bytes
    | .miss va =>
      let (key, s) := s.outstanding f r id (.walk (bitsOf va 56 16)) (s.cycle c) (ldfDeadline i (s.now c)) []
      s.startWalk (nodeOf c) (s.aspaceOf c k) va (c, key)

/-- A firing of a memory instruction: its report (R138), and its access, unless a bubble or a deferred operand leaves
nothing to do. -/
def memFiring (i : Instr) (r : Route) (own : State → Firing → Nat → State) (s : State) :
    Host.Outcome State Fault Refusal :=
  withFiring s (fun s f =>
    let c := f.site.core
    let k := f.key r.ta
    let (id, s) := s.accessId c k
    let s := s.report c k id i
    if f.deferred || !f.pred r.ta then s.emitIdle i f r id else own s f id)

/-! ## Performing (R153) -/

/-- The firing of an outstanding access. -/
def Access.firing (a : Access) : Firing :=
  { site := a.site, bits := a.bits, a := a.a, b := a.b, q := a.q, port := a.port, trace := a.trace }

/-- The units of a load by the index of their bytes (Table 8.5). -/
def loadUnits (i : Instr) (n : Nat) : List (List Nat) :=
  match i with
  | .lds _ _ _ _ => (upTo 16).map (fun u => (upTo 8).map (fun j => 8 * u + j))
  | .ldb _ nb split _ _ =>
    let m := nb.toNat + 1
    (upTo m).map (fun j =>
      if split then (16 * m + j) :: (upTo 16).map (fun x => 16 * j + x) else (upTo 17).map (fun x => 17 * j + x))
  | _ => [upTo n]

/-- The words of a unit of a load. -/
def unitWords (bytes : List (Nat × Nat)) (u : List Nat) : List Nat :=
  dedupNat (u.map (fun j => (bytes.getD j (0, 0)).1 / 4))

/-- The words of the unit of a load in which byte j stands. -/
def wordsAt (i : Instr) (bytes : List (Nat × Nat)) (j : Nat) : List Nat :=
  unitWords bytes (((loadUnits i bytes.length).find? (fun u => u.contains j)).getD [j])

/-- The bytes that a load finds in memory now: none where a request must be answered first. Each single-copy-atomic unit is
read whole, from the core's own L1 or behind it (R167). -/
def State.peekBytes (s : State) (c : Nat) (i : Instr) (bytes : List (Nat × Nat)) : Option (List Byte) :=
  (upTo bytes.length).mapM (fun j =>
    let b := bytes.getD j (0, 0)
    (s.unitWord c b.2 (wordsAt i bytes j) (b.1 / 4)).map (fun w => w.extractLsb' (8 * (b.1 % 4)) 8))

/-- Does byte j of a load meet poison or a failed range (R261, R263)? -/
def State.byteBad (s : State) (c : Nat) (i : Instr) (bytes : List (Nat × Nat)) (j : Nat) : Bool :=
  let b := bytes.getD j (0, 0)
  s.unitPoison c b.2 (wordsAt i bytes j) (b.1 / 4) || s.addrFailed b.1

/-- The words of the units of a load bound by it, where they were not read from the core's own L1 (R139, Table 8.4). -/
def State.bindUnits (s : State) (c : Nat) (bytes : List (Nat × Nat)) (units : List (List Nat)) : State :=
  units.foldl (fun s u =>
    let ws := unitWords bytes u
    let mode := (bytes.getD (u.headD 0) (0, 0)).2
    if s.unitLocal c mode ws then s
    else
      let vals := ws.filterMap (fun w => (s.behindWord c w mode).map (fun v => (w, v)))
      vals.foldl (fun s (p : Nat × BitVec 32) => s.bindWord c p.1 mode p.2) (s.dropValid c ws)) s.newStamp

/-- The scale and the 32 codes of block j of the bytes of an LDB (R112, R341). -/
def loadedBlock (split : Bool) (m j : Nat) (data : List Byte) : Nat × List Nat :=
  let byte (x : Nat) : Nat := (data.getD x 0).toNat
  let code (x : Nat) : Nat := if split then byte (16 * j + x) else byte (17 * j + 1 + x)
  (if split then byte (16 * m + j) else byte (17 * j),
   (upTo 16).flatMap (fun x => [code x % 16, code x / 16]))

/-- The tokens that a load sends on D0 for the bytes it has taken (R339 to R343). -/
def loadTokens (i : Instr) (tag : Token) (data : List Byte) : List Token :=
  let v := leNat data
  let word (n : Size) (sext : Bool) : Word :=
    let w := 8 * sizeBytes n
    if sext && bitOf v (w - 1) then BitVec.ofNat 64 (v + (2 ^ 64 - 2 ^ w)) else BitVec.ofNat 64 v
  match i with
  | .ld _ n _ sext _ _ | .ldf _ n _ _ sext _ _ | .ll _ n _ sext _ _ => [{ tag with data := beatOf (word n sext) }.fit]
  | .lds _ _ _ _ => burstTokens tag ((upTo 4).map (fun k => BitVec.ofNat 256 (leNat ((data.drop (32 * k)).take 32))))
  | .ldb _ nb split _ _ =>
    let m := nb.toNat + 1
    q4Burst tag ((upTo m).map (fun j => loadedBlock split m j data))
  | _ => []

/-- A poisoned load: every token of its result deferred (R340, R341). -/
def State.poisonLoad (s : State) (i : Instr) (f : Firing) (r : Route) (id va : Nat) (n : Nat) : State :=
  let c := f.site.core
  let k := f.key r.ta
  let s := s.takeAccessFault f k codePOISON (BitVec.ofNat 64 va) (accessInfo i)
  let s := s.updExec c k (fun e => { e with bad := e.bad ++ [id] })
  let code : Beat := BitVec.ofNat 256 codePOISON
  let done := { doneToken f r id with data := code, deferred := true }
  match i with
  | .lds _ _ _ _ | .ldb _ _ _ _ _ =>
    let toks := (loadTokens i (valueTag i f r id) (List.replicate n 0)).map (fun t => { t with data := code, deferred := true })
    (s.returnToPort f.site f.port r.d0 toks).emitWithTail c f.site.tile f.site.handler r.d0 r.d1 toks done
  | _ => s.emitFault i f r id codePOISON

/-- What an acquire does when it performs (R158). -/
def State.acquire (s : State) (c : Nat) (i : Instr) : State :=
  if isAcquire i && wideScope (scopeOf i) then s.selfInvalidate c else s

/-- The reservation and the hold of an LL that performs (R164, R165, R343). -/
def State.setResv (s : State) (c k pa : Nat) : State :=
  let g := lineOf pa
  let t := s.thread c k
  let now := s.now c
  let hold := t.failed ≥ 8 && s.target pa = .hbm && !s.heldBack g (some (c, k))
  let s := s.updThread c k (fun t =>
    { t with resv := some ⟨g, now⟩, hold := if hold then some ⟨g, now⟩ else none })
  s.updExec c k (fun e => { e with setResv := true })

/-- The words of an LDF that are still empty (R342). -/
def State.ldfWaits (s : State) (i : Instr) (bytes : List (Nat × Nat)) : Bool :=
  match i with
  | .ldf _ _ _ _ _ _ _ => bytes.any (fun b => !s.wordFull b.1)
  | _ => false

/-- A load whose reply is in: its value bound and sent (R153). -/
def State.performLoad (s : State) (i : Instr) (f : Firing) (r : Route) (x : Access) (mem : List Byte) : State :=
  let c := f.site.core
  let k := x.thread
  match s.exec? c k with
  | none => s
  | some e =>
    let pas := x.bytes.map (·.1)
    let units := loadUnits i pas.length
    let (vals, s) := units.foldl (fun (acc : List (Nat × Option Byte) × State) u =>
      let (l, s) := acc.2.forwardUnit e x.id f.deps (u.map (fun j => pas.getD j 0))
      (acc.1 ++ List.zip u l, s)) ([], s)
    let own (j : Nat) : Option Byte := ((vals.find? (fun p => p.1 = j)).map (·.2)).getD none
    let fromMem := (upTo pas.length).filter (fun j => (own j).isNone)
    if fromMem.any (s.byteBad c i x.bytes) then s.poisonLoad i f r x.id (addrOf f.a) pas.length
    else
      let control := match s.target (pas.getD 0 0) with
        | .control off => some (s.readControl off pas.length)
        | _ => none
      let data := match control with
        | some v => leBytes pas.length v
        | none => (upTo pas.length).map (fun j => (own j).getD (mem.getD j 0))
      let s := if control.isSome then s
        else s.bindUnits c x.bytes (units.filter (fun u => u.any (fun j => fromMem.contains j)))
      let s := match i with | .ll _ _ _ _ _ _ => s.setResv c k (pas.getD 0 0) | _ => s
      let s := s.acquire c i
      let toks := loadTokens i (valueTag i f r x.id) data
      let s := (s.trace f r.d0 (opTok toks)).returnToPort f.site f.port r.d0 toks
      match toks with
      | [t] =>
        let s := s.emit c f.site.tile f.site.handler r.d0 ([t].filter (emitted r.ta))
        s.emit c f.site.tile f.site.handler r.d1 [doneToken f r x.id]
      | l => s.emitWithTail c f.site.tile f.site.handler r.d0 r.d1 l (doneToken f r x.id)

end Sys2Proof.Machine
end

