-- ==== Sys2Proof/Machine/Release.lean ====
section
/-! DEFINITION. The release of buffered entries (R36, R37, R157): the order within an execution, what a released entry does
to memory, to stage words, to control space and to registers, and the writes that wait (R157, R162, R165, R250). -/

namespace Sys2Proof.Machine

/-- The lines that a write touches. -/
def BufKind.lines : BufKind → List Nat
  | .bytes units _ _ => dedupNat ((units.flatMap id).map (fun c => c.1 / 64))
  | .empties ws => dedupNat (ws.map (· / 16))
  | .fill l _ => [l]
  | .lineCopy d _ => [d]
  | .reg _ _ => []

/-- The words of cells: word number and its cells. -/
def cellWords (cells : List Host.Cell) : List (Nat × List Host.Cell) :=
  (dedupNat (cells.map (fun c => c.1 / 4))).map (fun w => (w, cells.filter (fun c => c.1 / 4 = w)))

/-- A word with cells laid over it. -/
def overlayCells (v : BitVec 32) (cells : List Host.Cell) : BitVec 32 :=
  cells.foldl (fun (v : BitVec 32) c =>
    (v &&& ~~~((0xFF : BitVec 32) <<< (8 * (c.1 % 4)))) ||| BitVec.shiftLeft (c.2.zeroExtend 32) (8 * (c.1 % 4))) v

/-- Can cells be written by a core now: partial words obtain the rest of the word first (R162), the L1 has room for them, a
write that performs at the home waits for it (R249, R252), and a unit in more than one line, which must be seen whole, waits
until its node owns them all (R167, R250; log entry 40)? -/
def State.cellsReady (s : State) (c mode : Nat) (cells : List Host.Cell) : Bool :=
  let n := nodeOf c
  let whole : Bool := (dedupNat (cells.map (fun x => x.1 / 64))).length ≤ 1
  (cellWords cells).all (fun p =>
    let l := p.1 / 16
    if s.isSliceOnly l || s.isDomain l || s.addrFailed (4 * p.1) then true
    else if s.uncachedAt n l mode then !s.homeMustWait l
    else (p.2.length = 4 || (s.behindWord c p.1 mode).isSome) && (whole || s.ownsLine n l) && s.l1Room c p.1)

/-- The requests that a write which cannot perform yet sends. -/
def State.cellsRequest (s : State) (c mode : Nat) (cells : List Host.Cell) : State :=
  (dedupNat (cells.map (fun x => x.1 / 64))).foldl (fun s l =>
    if s.isSliceOnly l || s.isDomain l || s.addrFailed (64 * l) then s
    else if s.uncachedAt (nodeOf c) l mode then s.requestOwn (s.homeNode l) l
    else if (dedupNat (cells.map (fun x => x.1 / 64))).length ≤ 1 then s.requestRead (nodeOf c) l mode
    else s.requestOwn (nodeOf c) l) s

/-- Cells written by a core (R162, R248, R252, R259, R263). A write to a failed range is discarded and logged. A register
write becomes the step of its register (R5). bad marks the data of a whole line as poison (R308). -/
def State.writeCells (s : State) (c k team mode : Nat) (cells : List Host.Cell) (full : Bool) (bad : Bool := false) : State :=
  match cells with
  | [] => s
  | first :: _ =>
    let l := first.1 / 64
    if s.addrFailed first.1 then s.logDiscard l
    else match s.target first.1 with
      | .control _ =>
        { s with agenda := s.agenda ++
            [.event (.registerWrite first.1 cells.length (BitVec.ofNat 64 (leNat (cells.map (·.2)))))] }
      | .stage p _ =>
        let live := cells.filter (fun x => s.stageOk p ((x.1 - 0xC000000000) % 0x8000000))
        let s := live.foldl (fun s x => if full then (s.putByte x.1 x.2).setFull x.1 true else s.putByte x.1 x.2) s
        s.breakResv l (some (c, k)) (fun _ => true)
      | .domain _ _ => s.domainWrite c k team l cells bad
      | .reserved => s
      | _ =>
        if s.uncachedAt (nodeOf c) l mode then s.writeAtSlice (s.homeNode l) (some (c, k)) cells
        else (cellWords cells).foldl (fun s p =>
          s.registerWord c k team p.1 (overlayCells ((s.behindWord c p.1 mode).getD 0) p.2)) s

/-- Cells cut at lines, each part in order. -/
def cellsByLine (cells : List Host.Cell) : List (List Host.Cell) :=
  (dedupNat (cells.map (fun x => x.1 / 64))).map (fun l => cells.filter (fun x => x.1 / 64 = l))

/-- The cells of a line. -/
def lineCells (line : Nat) (d : List Byte) : List Host.Cell := (upTo 64).map (fun i => (64 * line + i, d.getD i 0))

/-- The bytes of a fill (R308). -/
def fillBytes (v : Word) : List Byte := (upTo 64).map (fun i => v.extractLsb' (8 * (i % 8)) 8)

/-- Can an entry perform now? -/
def State.kindReady (s : State) (c k mode : Nat) (kind : BufKind) : Bool :=
  kind.lines.all (fun l => !s.heldBack l (some (c, k))) &&
  match kind with
  | .bytes units _ _ => units.all (fun u => s.cellsReady c mode u)
  | .fill l v => s.cellsReady c mode (lineCells l (fillBytes v))
  | .lineCopy d src =>
    s.cellsReady c mode (lineCells d []) &&
    (s.addrFailed (64 * src) || (upTo 16).all (fun i => (s.behindWord c (16 * src + i) mode).isSome))
  | _ => true

/-- What an entry that cannot perform yet asks for. -/
def State.kindRequest (s : State) (c mode : Nat) (kind : BufKind) : State :=
  match kind with
  | .bytes units _ _ => units.foldl (fun s u => s.cellsRequest c mode u) s
  | .fill l v => s.cellsRequest c mode (lineCells l (fillBytes v))
  | .lineCopy d src => (s.cellsRequest c mode (lineCells d [])).requestRead (nodeOf c) src mode
  | _ => s

/-- The poison that a write of a core to a whole line leaves there (R261): at the slice where it performs, or with the
ownership that its words wait for. -/
def State.leavePoison (s : State) (c k team mode line : Nat) (b : Bool) : State :=
  let n := nodeOf c
  if s.isDomain line || s.addrFailed (64 * line) then s
  else if s.isSliceOnly line || s.uncachedAt n line mode then s.setCopyPoison (s.homeNode line) line b
  else if s.pendingAt n line then
    let mine (u : Unperf) : Bool := u.line = line && u.node = n && u.core = c && u.thread = k
    { s with coh := { s.coh with unperf := s.coh.unperf.filter (fun u => !mine u) ++ [⟨line, n, c, k, team, some b⟩] } }
  else s.setCopyPoison n line b

/-- Does a write name control space, where its whole width is that of the access (R5)? -/
def State.unitsControl (s : State) (units : List (List Host.Cell)) : Bool :=
  units.any (fun u => u.any (fun x => match s.target x.1 with | .control _ => true | _ => false))

/-- A released entry performs (R37, Table 7.5, R261, R308). A store of several units to control space has neither width that a
register takes and is discarded (R5). -/
def State.performKind (s : State) (c k team mode : Nat) (kind : BufKind) : State :=
  match kind with
  | .bytes units full whole =>
    if s.unitsControl units then
      (match units with | [u] => if u.length ≤ 8 then s.writeCells c k team mode u full else s | _ => s)
    else
      let s := units.foldl (fun s u => (cellsByLine u).foldl (fun s x => s.writeCells c k team mode x full) s) s
      whole.foldl (fun s l => s.leavePoison c k team mode l false) s
  | .empties ws => ws.foldl (fun s w => s.setFull (4 * w) false) s
  | .fill l v => (s.writeCells c k team mode (lineCells l (fillBytes v)) false).leavePoison c k team mode l false
  | .lineCopy d src =>
    let n := nodeOf c
    let bad := s.copyPoison (if s.atHome n src mode then s.homeNode src else n) src || s.addrFailed (64 * src)
    let data := (upTo 16).flatMap (fun i => leBytes 4 ((s.behindWord c (16 * src + i) mode).getD 0).toNat)
    (s.writeCells c k team mode (lineCells d data) false bad).leavePoison c k team mode d bad
  | .reg n v => s.updThread c k (fun t => t.setReg n v)

/-- Has a committed write not yet performed as a scope requires: outside its node for DEVICE and SYSTEM (R250), at the other
package for SYSTEM alone (R259)? -/
def State.unperfFor (s : State) (sc : Scope) (u : Unperf) : Bool :=
  deviceScope sc && (sc = .system || !s.isDomain u.line)

/-- Has every committed write of the thread performed as a scope requires (R157, R161, R250)? -/
def State.visibleAt (s : State) (c k : Nat) (sc : Scope) : Bool :=
  !(s.coh.held.any (fun h => h.core = c && h.thread = k)) &&
  !(s.coh.unperf.any (fun u => u.core = c && u.thread = k && s.unperfFor sc u))

/-- Has every committed write of a team performed at a scope (R47: SYSTEM, R171: DEVICE)? -/
def State.teamVisible (s : State) (t : Nat) (sc : Scope) : Bool :=
  !(s.coh.held.any (fun h => h.team = t)) && !(s.coh.unperf.any (fun u => u.team = t && s.unperfFor sc u))

/-- The lines that an entry reads as it performs: the source of a CLRP in copy mode. -/
def BufKind.sources : BufKind → List Nat
  | .lineCopy _ src => [src]
  | _ => []

/-- Must an access to lines by a thread of a core wait for a write that its core has committed and that has not performed: its
own, which its later accesses observe (R35, R155), or that of another thread, among them the handler or the trapped thread
that it follows (R171), unless that write waits for the thread's own hold (R165)? -/
def State.behindHeld (s : State) (c k : Nat) (lines : List Nat) (held : List HeldWrite) : Bool :=
  held.any (fun h => h.core = c && h.kind.lines.any (fun l =>
    lines.contains l && (h.thread = k || s.holder l ≠ some (c, k))))

/-- Must a released write wait behind the writes already held: a release behind the thread's own writes, any write behind an
earlier one to its line, but for the holder's own behind those that wait for its hold (R155, R157, R165)? -/
def State.mustHold (s : State) (earlier : List HeldWrite) (h : HeldWrite) : Bool :=
  (match h.rel with
   | none => false
   | some sc => earlier.any (fun x => x.core = h.core && x.thread = h.thread) ||
       s.coh.unperf.any (fun u => u.core = h.core && u.thread = h.thread && s.unperfFor sc u)) ||
  earlier.any (fun x => x.kind.lines.any (fun l => (h.kind.lines ++ h.kind.sources).contains l &&
    (x.core = h.core && x.thread = h.thread || s.holder l ≠ some (h.core, h.thread)))) ||
  !s.kindReady h.core h.thread h.mode h.kind

/-- The held writes tried again in their order. -/
def State.flushHeld (s : State) : State :=
  let l := s.coh.held
  let (kept, s) := l.foldl (fun (acc : List HeldWrite × State) h =>
    if acc.2.mustHold acc.1 h then (acc.1 ++ [h], acc.2)
    else (acc.1, acc.2.performKind h.core h.thread h.team h.mode h.kind)) ([], s)
  { s with coh := { s.coh with held := kept } }

/-- The place of a scope in the order TEAM, CLUSTER, NODE, DEVICE, SYSTEM (Table 8.1). -/
def scopeRank : Scope → Nat
  | .team => 0 | .cluster => 1 | .node => 2 | .device => 3 | .system => 4

/-- The scope at which a released entry orders what precedes it: its own as a release, or that of a REL or FULL fence before
it, the wider of the two (R157, R161). -/
def widerScope : Option Scope → Option Scope → Option Scope
  | none, x => x
  | x, none => x
  | some a, some b => some (if scopeRank a < scopeRank b then b else a)

/-- The scope at which an access that depends on the given accesses is ordered behind what precedes the thread's fences: those of
its own execution on whose output it fires, and those of earlier ones (R161). -/
def State.fencedAt (s : State) (c k : Nat) (deps : List Nat) (fences : List (Nat × Scope)) : Option Scope :=
  let inner := (fences.filter (fun p => deps.contains p.1)).foldl (fun acc p => widerScope acc (some p.2)) none
  widerScope (s.thread c k).fence inner

/-- One entry released by its thread. -/
def State.releaseOne (s : State) (c k : Nat) (fences : List (Nat × Scope)) (b : Buffered) : State :=
  match b.kind with
  | .reg _ _ => s.performKind c k 0 b.mode b.kind
  | kind =>
    let t := s.thread c k
    let h : HeldWrite :=
      { core := c, thread := k, team := t.team, kind := kind, rel := widerScope b.rel (s.fencedAt c k b.deps fences), mode := b.mode }
    if s.mustHold s.coh.held h then
      { s.kindRequest c b.mode kind with coh := { (s.kindRequest c b.mode kind).coh with
          held := (s.kindRequest c b.mode kind).coh.held ++ [h] } }
    else s.performKind c k t.team b.mode kind

/-- Do two entries write one byte or one register? -/
def Buffered.overlaps (x y : Buffered) : Bool :=
  match x.kind, y.kind with
  | .reg n _, .reg m _ => n = m
  | a, b => a.lines.any (fun l => b.lines.contains l)

/-- The entries of an execution in an order of release that R137 allows: an entry follows those that precede it, and where
unordered entries write the same place the order among them is left open. -/
def releaseOrder (e : Exec) : Nat → List Buffered → State → List Buffered × State
  | 0, _, s => ([], s)
  | n + 1, l, s =>
    let first := l.filter (fun x => !(l.any (fun y => (e.preceding x.id x.deps).contains y.id)))
    match first with
    | [] => (l, s)
    | x :: rest =>
      let rivals := x :: rest.filter (fun y => x.overlaps y)
      let (i, s) := s.choose rivals.length
      let pick := rivals.getD i x
      let (more, s) := releaseOrder e n (l.filter (fun y => y.id ≠ pick.id)) s
      (pick :: more, s)

/-- The entries of an execution that p selects released, in order (R37, R39). -/
def State.releaseEntries (s : State) (c k : Nat) (p : Buffered → Bool) : State :=
  match s.exec? c k with
  | none => s
  | some e =>
    let mine := e.buffered.filter p
    let (order, s) := releaseOrder e mine.length mine s
    let s := s.updExec c k (fun e => { e with buffered := e.buffered.filter (fun b => !p b) })
    order.foldl (fun s b => s.releaseOne c k e.fences b) s

/-- Is the entry a write to memory? -/
def Buffered.isStore (b : Buffered) : Bool := match b.kind with | .reg _ _ => false | _ => true

end Sys2Proof.Machine
end

