-- ==== Sys2Proof/Machine/MemOps.lean ====
section
/-! DEFINITION. The memory and LVS instructions (R295 to R297, R307, R337 to R347, R363 to R369), FENCE (R161), COPY and
WAITT (R309 to R311, R374), and the step in which a reply binds an access (R153). -/

namespace Sys2Proof.Machine

/-! ## Loads and stores -/

/-- R339. -/
def execLd (r : Route) (n : Size) (rfmt : Fmt) (sext acq : Bool) (m : MemCtl) (s : State) :=
  memFiring (.ld r n rfmt sext acq m) r (fun s f id => s.startAccess (.ld r n rfmt sext acq m) f r id) s
/-- R364. -/
def execSt (r : Route) (n : Size) (rel : Bool) (m : MemCtl) (s : State) :=
  memFiring (.st r n rel m) r (fun s f id => s.startAccess (.st r n rel m) f r id) s
/-- R341. -/
def execLdb (r : Route) (nb : BitVec 4) (split acq : Bool) (m : MemCtl) (s : State) :=
  memFiring (.ldb r nb split acq m) r (fun s f id => s.startAccess (.ldb r nb split acq m) f r id) s
/-- R366. -/
def execStb (r : Route2) (ds : BitVec 3) (split rel : Bool) (m : MemCtl) (s : State) :=
  memFiring (.stb r ds split rel m) (r.full .whole)
    (fun s f id => s.startAccess (.stb r ds split rel m) f (r.full .whole) id) s
/-- R342. -/
def execLdf (r : Route) (n : Size) (tmo : BitVec 4) (rfmt : Fmt) (sext acq : Bool) (m : MemCtl) (s : State) :=
  memFiring (.ldf r n tmo rfmt sext acq m) r (fun s f id => s.startAccess (.ldf r n tmo rfmt sext acq m) f r id) s
/-- R367. -/
def execStf (r : Route) (n : Size) (rel : Bool) (m : MemCtl) (s : State) :=
  memFiring (.stf r n rel m) r (fun s f id => s.startAccess (.stf r n rel m) f r id) s
/-- R367. -/
def execSete (r : Route) (n : Size) (rel : Bool) (m : MemCtl) (s : State) :=
  memFiring (.sete r n rel m) r (fun s f id => s.startAccess (.sete r n rel m) f r id) s
/-- R295, R297: the access performs in the step of its reply. -/
def execAtom (r : Route) (n : Size) (aop : AtomOp) (ord : Ord3) (m : MemCtl) (s : State) :=
  memFiring (.atom r n aop ord m) r (fun s f id => s.startAccess (.atom r n aop ord m) f r id) s
/-- R295, R297. -/
def execCas (r : Route) (n : Size) (q : BitVec 2) (ord : Ord3) (m : MemCtl) (s : State) :=
  memFiring (.cas r n q ord m) r (fun s f id => s.startAccess (.cas r n q ord m) f r id) s
/-- R343. -/
def execLl (r : Route) (n : Size) (rfmt : Fmt) (sext acq : Bool) (m : MemCtl) (s : State) :=
  memFiring (.ll r n rfmt sext acq m) r (fun s f id => s.startAccess (.ll r n rfmt sext acq m) f r id) s
/-- R368. -/
def execSc (r : Route) (n : Size) (rel : Bool) (m : MemCtl) (s : State) :=
  memFiring (.sc r n rel m) r (fun s f id => s.startAccess (.sc r n rel m) f r id) s
/-- R307. -/
def execClrp (r : Route) (copy rel : Bool) (m : MemCtl) (s : State) :=
  memFiring (.clrp r copy rel m) r (fun s f id => s.startAccess (.clrp r copy rel m) f r id) s
/-- R340. -/
def execLds (r : Route) (rfmt : Fmt) (acq : Bool) (m : MemCtl) (s : State) :=
  memFiring (.lds r rfmt acq m) r (fun s f id => s.startAccess (.lds r rfmt acq m) f r id) s
/-- R365. -/
def execSts (r : Route2) (rel : Bool) (m : MemCtl) (s : State) :=
  memFiring (.sts r rel m) (r.full .whole) (fun s f id => s.startAccess (.sts r rel m) f (r.full .whole) id) s

/-! ## PREF (R369) -/

/-- R369. -/
def execPref (r : Route) (level : PrefLevel) (m : MemCtl) (s : State) :=
  memFiring (.pref r level m) r (fun s f id => s.startAccess (.pref r level m) f r id) s

/-! ## FENCE (R161) -/

/-- The writes that a FULL fence makes visible before it fires: those of the thread's earlier executions. -/
def State.fenceReady (s : State) (c k : Nat) (kind : FenceKind) (sc : Scope) : Bool := kind ≠ .full || s.visibleAt c k sc

/-- The effect of a fence: an ACQ or FULL fence at CLUSTER or wider invalidates; a REL or FULL fence orders the writes that
depend on it, and those of later executions, behind the writes before it. -/
def State.fenceEffect (s : State) (r : Route) (kind : FenceKind) (sc : Scope) (f : Firing) : State :=
  let c := f.site.core
  let k := f.key r.ta
  let (id, s) := s.accessId c k
  let s := if kind ≠ .rel && wideScope sc then s.selfInvalidate c else s
  let s := if kind ≠ .acq then s.updExec c k (fun e => { e with fences := e.fences ++ [(id, sc)] }) else s
  s.emitOut f r (.both [doneToken f r id])

/-- R161. -/
def execFence (r : Route) (kind : FenceKind) (sc : Scope) (s : State) : Host.Outcome State Fault Refusal :=
  withFiring s (fireCases r .int (fun s f => s.fenceEffect r kind sc f))

/-! ## The live-value store (R344 to R347) -/

/-- The number of registers of a thread (R84, R206). -/
def State.regCount (s : State) (c k : Nat) : Nat :=
  if isHandlerKey k then 64 else (s.thread c k).nregs

/-- A read of the LVS begun: its value comes with the reply. -/
def State.lvsRead (s : State) (f : Firing) (r : Route) (id : Nat) : State :=
  (s.outstanding f r id .reply (s.cycle f.site.core + s.timing.lvs) none []).2

/-- R345. -/
def execLin (r : Route1) (fm : LinFmt) (l : LvsLit) (s : State) :=
  memFiring (.lin r fm l) r.full (fun s f id => s.lvsRead f r.full id) s

/-- R133, R345. -/
def execLinx (r : Route1) (fm : LinFmt) (l : LvsLit) (s : State) :=
  memFiring (.linx r fm l) r.full (fun s f id =>
    if !isWord f.a then s.freezeFiring f .unary codeFMTMIS
    else if l.reg.toNat + addrOf f.a ≥ s.regCount f.site.core (f.key .unary) then
      s.accessFault (.linx r fm l) f r.full id codePROT noAddr
    else s.lvsRead f r.full id) s

/-- The thread that LINT reads: core slot, or none for a target outside the team (R134, R206, R346). -/
def State.lintTarget (s : State) (c k a : Nat) : Option Nat :=
  if isHandlerKey k then
    match s.servedTrap c k with
    | some t => if t.kind = .freezing then some (a % 4096) else t.thread
    | none => none
  else
    let th := s.thread c k
    match s.team? th.team with
    | none => none
    | some t => match th.helper with
      | some h => t.slotOf h.recruiter
      | none => if a < 32 * t.hands then t.slotOf a else none

/-- R134, R346. -/
def execLint (r : Route1) (fm : LinFmt) (l : LvsLit) (s : State) :=
  memFiring (.lint r fm l) r.full (fun s f id =>
    match s.lintTarget f.site.core (f.key .unary) (addrOf f.a) with
    | none => s.accessFault (.lint r fm l) f r.full id codePROT noAddr
    | some _ => s.lvsRead f r.full id) s

/-- A register write placed in the store buffer, and its completion tokens (R347). -/
def State.placeReg (s : State) (i : Instr) (f : Firing) (r : Route) (id n : Nat) : State :=
  let w := i.wave?
  let s := s.buffer f.site.core (f.key r.ta)
    { id := id, own := w.bind (fun w => if w.waved then some w.own.toNat else none), deps := f.deps
      kind := .reg n f.tokA.w64 }
  s.emitOut f r (.both [doneToken f r id])

/-- R347. -/
def execLout (r : Route1) (l : LvsLit) (s : State) :=
  memFiring (.lout r l) r.full (fun s f id =>
    if !isWord f.a then s.freezeFiring f .unary codeFMTMIS
    else s.placeReg (.lout r l) f r.full id l.reg.toNat) s

/-- R133, R347. -/
def execLoutx (r : Route) (l : LvsLit) (s : State) :=
  memFiring (.loutx r l) r (fun s f id =>
    if !isWord f.a || !isWord f.b then s.freezeFiring f r.ta codeFMTMIS
    else if l.reg.toNat + addrOf f.b ≥ s.regCount f.site.core (f.key r.ta) then
      s.accessFault (.loutx r l) f r id codePROT noAddr
    else s.placeReg (.loutx r l) f r id (l.reg.toNat + addrOf f.b)) s

/-- The value that an LVS read returns: none where its register is poisoned (R261, Table 12.8). -/
def State.lvsValue (s : State) (i : Instr) (f : Firing) (x : Access) : Option Word × State :=
  let c := f.site.core
  let t := s.thread c x.thread
  let own (n : Nat) : Option Word × State :=
    match t.exec with
    | some e => s.forwardReg e t x.id f.deps n
    | none => (some (t.reg n), s)
  match i with
  | .lin _ _ l => own l.reg.toNat
  | .linx _ _ l => own (l.reg.toNat + addrOf f.a)
  | .lint _ _ l =>
    match s.lintTarget c x.thread (addrOf f.a) with
    | none => (some 0, s)
    | some j =>
      let u := s.thread c j
      (if u.poison.contains l.reg.toNat then none else some (u.reg l.reg.toNat), s)
  | _ => (some 0, s)

/-! ## Atomics (R39, R163, R297, R368) -/

/-- The bytes at the slice. -/
def State.sliceBytes (s : State) (n : Nat) (pas : List Nat) : List Byte :=
  pas.map (fun a => if s.isSliceOnly (lineOf a) then s.byte a else (s.nodeWord n (a / 4)).extractLsb' (8 * (a % 4)) 8)

/-- The new value of ATOM and its flags (R297). -/
def atomNew (op : AtomOp) (bits old v : Nat) : Nat × FpFlags :=
  let sv := laneInt bits true
  match op with
  | .add => ((old + v) % 2 ^ bits, 0)
  | .and => (old &&& v, 0)
  | .or => (old ||| v, 0)
  | .xor => (old ^^^ v, 0)
  | .smin => (if sv old ≤ sv v then old else v, 0)
  | .smax => (if sv old ≥ sv v then old else v, 0)
  | .umin => (min old v, 0)
  | .umax => (max old v, 0)
  | .xchg => (v, 0)
  | .fadd => fvAdd fmtF32 ⟨.rn, false, 0⟩ (fmtF32.value old) (fmtF32.value v)

/-- The accesses before an atomic that are still outstanding. -/
def State.chainBusy (s : State) (c k id : Nat) : Bool :=
  match s.exec? c k with
  | none => false
  | some e =>
    match e.before id with
    | none => true
    | some l => (s.core c).accesses.any (fun p => p.2.thread = k && l.contains p.2.id)

/-- Is the slice ready for the atomic: the line owned there and not held by another thread (R163, R165)? -/
def State.atomicReady (s : State) (x : Access) : Bool :=
  let c := x.site.core
  let l := lineOf (x.bytes.headD (0, 0)).1
  s.addrFailed (64 * l) || s.isDomain l ||
  (s.ownsLine (s.atomicNode c x.bytes) l && !s.heldBack l (some (c, x.thread)))

/-- The write of an atomic at its slice; a successful SC on a line of another package leaves for that package (R259). -/
def State.atomicWrite (s : State) (c k : Nat) (bytes : List (Nat × Nat)) (v : Nat) : State :=
  let pas := bytes.map (·.1)
  let l := lineOf (pas.getD 0 0)
  let cells := List.zip pas (leBytes pas.length v)
  if s.isDomain l then s.domainWrite c k (s.thread c k).team l cells
  else s.writeAtSlice (s.atomicNode c bytes) (some (c, k)) cells

/-- What a slice does with the words of an atomic that performs there (Table 8.4): registrations end with their values
collected, and the core's own words become invalid. -/
def State.takeWords (s : State) (c : Nat) (bytes : List (Nat × Nat)) : State :=
  let ws := dedupNat (bytes.map (fun b => b.1 / 4))
  let l := lineOf (bytes.headD (0, 0)).1
  let n := s.atomicNode c bytes
  if s.isSliceOnly l || s.isDomain l then s
  else (if s.pendingAt n l then s else s.endWords n l ws).dropValid c ws

/-- An atomic performs on the old value of its unit: its write, its results (R297, R368). Where another package has answered,
the write has been made there (R259). -/
def State.performAtomic (s : State) (i : Instr) (f : Firing) (r : Route) (x : Access) (old : Nat) (away : Bool) : State :=
  let c := f.site.core
  let k := x.thread
  let pas := x.bytes.map (·.1)
  let bits := 8 * pas.length
  let v := f.tokB.w64.toNat % 2 ^ bits
  let write (s : State) (v : Nat) : State := if away then s else (s.takeWords c x.bytes).atomicWrite c k x.bytes v
  let s := s.updExec c k (fun e => { e with atomic := true })
  let send (s : State) (w : Word) : State :=
    (s.acquire c i).emitOut f r
      ⟨[{ valueTag i f r x.id with data := beatOf w }.fit], [doneToken f r x.id], 0⟩
  match i with
  | .atom _ _ op _ _ =>
    let (new, fl) := atomNew op bits old v
    send ((write s new).addFlags c k fl) (BitVec.ofNat 64 old)
  | .cas _ _ _ _ _ =>
    let s := if old = v then write s (f.tokQ.w64.toNat % 2 ^ bits)
      else if away then s else s.takeWords c x.bytes
    send s (BitVec.ofNat 64 old)
  | .sc _ _ _ _ =>
    let g := lineOf (pas.getD 0 0)
    let t := s.thread c k
    let ok : Bool := match t.resv with | some q => q.granule = g | none => false
    let s := if ok then write s v else s
    let s := s.updThread c k (fun t => { t with resv := none, hold := none, failed := if ok then 0 else t.failed + 1 })
    send s (if ok then 1 else 0)
  | _ => s

/-- Does the atomic meet poison (R39, R261, R368)? SC reads no data. -/
def State.atomicPoison (s : State) (i : Instr) (x : Access) : Bool :=
  match i with
  | .sc _ _ _ _ => false
  | _ => s.copyPoison (s.atomicNode x.site.core x.bytes) (lineOf (x.bytes.headD (0, 0)).1)

/-- The scope at which an atomic is a release: its own, or that of a REL or FULL fence before it (R157, R161). -/
def State.atomicRelease (s : State) (c k : Nat) (i : Instr) (f : Firing) (e : Exec) : Option Scope :=
  widerScope (releaseOf i) (s.fencedAt c k f.deps e.fences)

/-- What an atomic asks of another package: its access goes to the home of the line there (R259). SC sends its write alone. -/
def remoteKind (i : Instr) (f : Firing) (off : Nat) : Option RemoteKind :=
  match i with
  | .atom _ n op _ _ => some (.atom off n op f.tokB.w64)
  | .cas _ n _ _ _ => some (.cas off n f.tokB.w64 f.tokQ.w64)
  | _ => none

/-- An atomic on a line of another package is sent there, and waits for its answer (R259). -/
def State.sendAtomic (s : State) (x : Access) (key : Nat) (kind : RemoteKind) : State :=
  let pa := (x.bytes.headD (0, 0)).1
  { s.updCore x.site.core (fun q => { q with accesses := KMap.put q.accesses key { x with stage := .remote } }) with
    hostOut := s.hostOut ++ [.outerAtomic (lineOf pa) kind (s.zelasPort (lineOf pa))] }

/-- The reply of an atomic (R39): deferred where an earlier access of the execution was or where it meets poison; else the
block's earlier stores are released, and the atomic performs, as a release only once they are visible. -/
def State.replyAtomic (s : State) (i : Instr) (f : Firing) (r : Route) (x : Access) (key : Nat) : State :=
  let c := f.site.core
  let k := x.thread
  let pa := (x.bytes.headD (0, 0)).1
  let gone (s : State) : State := s.updCore c (fun q => { q with accesses := KMap.del q.accesses key })
  match s.exec? c k with
  | none => gone s
  | some e =>
    let before := (e.before x.id).getD []
    if e.bad.any (fun b => before.contains b) then
      let code := ((e.faults.map (·.code)).headD 0)
      (gone (s.updExec c k (fun e => { e with bad := e.bad ++ [x.id] }))).emitFault i f r x.id code
    else match x.stage with
      | .answered old bad =>
        if bad then (gone s).accessFault i f r x.id codePOISON (addrOf f.a)
        else (gone s).performAtomic i f r x old true
      | _ =>
        if s.atomicPoison i x || s.addrFailed pa then (gone s).accessFault i f r x.id codePOISON (addrOf f.a)
        else
          let s := if e.relDone then s else
            (s.releaseEntries c k (fun b => b.isStore && before.contains b.id)).updExec c k (fun e => { e with relDone := true })
          let visible := match s.atomicRelease c k i f e with | none => true | some sc => s.visibleAt c k sc
          if !visible || s.behindHeld c k [lineOf pa] s.coh.held then s.requestBytes c i x.bytes
          else if s.isDomain (lineOf pa) then
            (match remoteKind i f (pa % 64) with
             | some kind => s.sendAtomic x key kind
             | none => (gone s).performAtomic i f r x 0 false)
          else if s.atomicReady x then
            (gone s).performAtomic i f r x (leNat (s.sliceBytes (s.atomicNode c x.bytes) (x.bytes.map (·.1)))) false
          else s.requestBytes c i x.bytes

/-! ## MEMORY_REPLY -/

/-- The state in which a load finds its bytes: LL reads past the words that its core holds without registration, so that an
SC which succeeds has read the write before its own (R163, DEDUCED, log entry 30). -/
def State.readState (s : State) (c : Nat) (i : Instr) (bytes : List (Nat × Nat)) : State :=
  match i with
  | .ll _ _ _ _ _ _ => s.dropValid c (dedupNat (bytes.map (fun b => b.1 / 4)))
  | _ => s

/-- Has a stage word of the access been removed by a carve since its checks (R141, R142)? -/
def State.bytesGone (s : State) (bytes : List (Nat × Nat)) : Bool :=
  bytes.any (fun b => match s.target b.1 with | .stage p off => !s.stageOk p off | _ => false)

/-- Must a load wait for an access before it on the thread's chain that has not performed: an acquire (R158), or one that may
read its bytes, since two loads of a unit return writes in their order (R155)? -/
def State.behindChain (s : State) (x : Access) : Bool :=
  match s.exec? x.site.core x.thread with
  | none => false
  | some e =>
    let before := (e.before x.id).getD []
    let lines := x.bytes.map (fun b => lineOf b.1)
    (s.core x.site.core).accesses.any (fun p =>
      p.2.thread = x.thread && before.contains p.2.id &&
      ((match (decode p.2.bits.word p.2.bits.lit).toOption with | some i => isAcquire i | none => false) ||
       p.2.bytes.isEmpty || p.2.bytes.any (fun b => lines.contains (lineOf b.1))))

/-- The enabling condition of a reply: the destinations have room, the access is placed, what must perform before it has, and
its data are there. -/
def State.replyReady (s : State) (x : Access) (i : Instr) (r : Route) : Bool :=
  let c := x.site.core
  s.canSendBoth c x.site.tile x.site.handler r.d0 r.d1 &&
  match x.stage with
  | .walk _ => false
  | .recheck | .xlate _ | .answered _ _ => true
  | .remote => x.bytes.any (fun b => s.addrFailed b.1)
  | .reply =>
    decide (x.due ≤ s.cycle c) &&
    (match s.exec? c x.thread with | some e => e.placed x.id | none => true) &&
    (s.bytesGone x.bytes ||
     (if isAtomic i then !s.chainBusy c x.thread x.id && s.atomicReady x
      else !s.behindChain x && !s.behindHeld c x.thread (dedupNat (x.bytes.map (fun b => lineOf b.1))) s.coh.held &&
        !s.ldfWaits i x.bytes &&
        (((s.readState c i x.bytes).peekBytes c i x.bytes).isSome || x.bytes.any (fun b => s.addrFailed b.1))))

/-- Does the access name host or pool memory (R222)? -/
def State.farAccess (s : State) (x : Access) : Bool :=
  x.bytes.any (fun b => match s.target b.1 with | .host | .pool _ => true | _ => false)

/-- Is the access one to host or pool memory that has been out for more than 4 µs (R222)? -/
def State.slowAccess (s : State) (x : Access) : Bool :=
  s.farAccess x && decide (x.fired + 4000 < s.now x.site.core)

/-- A slow host or pool access has its reply: its excess over 4 µs extends the bounds of its die (R222). -/
def State.noteSlow (s : State) (x : Access) : State :=
  if !s.slowAccess x then s
  else
    let now := s.now x.site.core
    s.updDist (dieOf x.site.core) (fun d => { d with
      slow := d.slow + (now - max (x.fired + 4000) d.slowTo), slowTo := now })

/-- The reply of an access (R135, R153): its checks after a walk, its fault, its value or its atomic step. -/
def State.reply (s : State) (core key : Nat) : State :=
  match KMap.look (s.core core).accesses key with
  | none => s
  | some x =>
    match (decode x.bits.word x.bits.lit).toOption with
    | none => s
    | some i =>
      match i.route? with
      | none => s
      | some r =>
        let f := x.firing
        let gone (s : State) : State := s.updCore core (fun q => { q with accesses := KMap.del q.accesses key })
        if !s.replyReady x i r then s
        else
          let s := s.noteSlow x
          match x.stage with
          | .walk _ => s
          | .recheck => (gone s).startAccess i f r x.id
          | .xlate va => (gone s).accessFails i f r x.id codeXLATE va
          | .remote | .answered _ _ => s.replyAtomic i f r x key
          | .reply =>
            if s.bytesGone x.bytes then (gone s).accessFault i f r x.id codePROT (addrOf f.a)
            else if isAtomic i then s.replyAtomic i f r x key
            else match i with
              | .lin _ _ _ | .linx _ _ _ | .lint _ _ _ =>
                let (v, s) := s.lvsValue i f x
                (match v with
                 | none => (gone s).accessFault i f r x.id codePOISON noAddr
                 | some w => (gone s).emitOut f r (.both [{ valueTag i f r x.id with data := beatOf w }.fit]))
              | _ =>
                let s := s.readState core i x.bytes
                (gone s).performLoad i f r x ((s.peekBytes core i x.bytes).getD (List.replicate x.bytes.length 0))

/-- R153: an outstanding access performs and returns its result. -/
def execMemoryReply (core access : Nat) (s : State) : Host.Outcome State Fault Refusal := .next (s.reply core access)

/-- R342: an LDF whose time has passed emits deferred tokens with LDFTO; R220: one that waits on a die that is pre-empted
returns the same code without raising it. -/
def execLdfTimeout (core access : Nat) (s : State) : Host.Outcome State Fault Refusal :=
  .next (match KMap.look (s.core core).accesses access with
    | none => s
    | some x =>
      match (decode x.bits.word x.bits.lit).toOption, x.deadline with
      | some i, some t =>
        let r := (i.route?).getD (sinkRoute .none .none .unary)
        if !s.canSendBoth core x.site.tile x.site.handler r.d0 r.d1 then s
        else if t ≤ s.now core then
          let s := s.updCore core (fun q => { q with accesses := KMap.del q.accesses access })
          s.accessFault i x.firing r x.id 0x21 (addrOf x.a)
        else if (s.distOf (dieOf core)).preempting && x.stage = .reply && s.ldfWaits i x.bytes then
          let s := s.updCore core (fun q => { q with accesses := KMap.del q.accesses access })
          let s := s.updExec core x.thread (fun e => { e with ldfEnded := true, bad := e.bad ++ [x.id] })
          s.emitFault i x.firing r x.id 0x21
        else s
      | _, _ => s)

/-! ## Walks (R149) -/

/-- Is the walk under one of its port die's 16 walkers? -/
def State.walking (s : State) (w : Walk) : Bool :=
  ((s.mmu.walks.filter (fun x => x.pd = w.pd)).take 16).any (fun x => x.id = w.id)

/-- R146, R149: a walk ends; its translation is held, and every access that waited goes on, or raises XLATE. -/
def execTranslationWalk (walk : Nat) (s : State) : Host.Outcome State Fault Refusal :=
  .next (match s.mmu.walks.find? (fun w => w.id = walk) with
    | none => s
    | some w =>
      let va := w.page * 65536
      if !s.walking w then s
      else match s.walkWait w.pd w.aspace va w.root with
      | some line => s.readRequest line
      | none =>
        let (up, res) := s.walk w.pd w.aspace va w.root
        let s := { s with mmu := { s.mmu with walks := s.mmu.walks.filter (fun x => x.id ≠ walk) } }
        let s := s.upperFill w.pd up
        let s := match res with
          | none => s
          | some (size, leaf) =>
            (dedupNat (w.waiters.map (·.1))).foldl (fun s c => s.tlbFill w.pd (some c) w.aspace va size leaf) s
        w.waiters.foldl (fun s p =>
          s.updCore p.1 (fun q => { q with accesses := q.accesses.map (fun e =>
            if e.1 ≠ p.2 then e
            else
              let first := (match (decode e.2.bits.word e.2.bits.lit).toOption with
                | none => 0
                | some i => match memRanges i e.2.firing with
                  | none => 0
                  | some l => ((l.flatMap (fun g => (pagePieces g.va g.n).map (·.1))).find?
                      (fun a => bitsOf a 56 16 = w.page)).getD va)
              (e.1, { e.2 with stage := if res.isSome then .recheck else .xlate first })) })) s)

/-! ## COPY (R309 to R312) and WAITT (R374) -/

/-- A copy descriptor (Table 15.7). -/
structure CopyDesc where
  src : Nat
  dst : Nat
  rows : Nat
  len : Nat
  sstride : Nat
  dstride : Nat
  flag : Nat
  flagok : Nat
  flagerr : Nat
  malformed : Bool
  deriving DecidableEq, Repr

/-- The descriptor in 64 bytes (R310, Table 15.7). -/
def copyDesc (l : List Byte) : CopyDesc :=
  let w (i : Nat) : Nat := leNat ((l.drop (8 * i)).take 8)
  let rows := bitsOf (w 2) 63 48 + 1
  let len := bitsOf (w 2) 31 0
  let ss := bitsOf (w 3) 31 0
  let ds := bitsOf (w 3) 63 32
  { src := w 0, dst := w 1, rows := rows, len := len, sstride := ss, dstride := ds
    flag := w 4, flagok := w 5, flagerr := w 6
    malformed := bitsOf (w 2) 47 32 ≠ 0 || w 7 ≠ 0 || len % 8 ≠ 0 || ss % 8 ≠ 0 || ds % 8 ≠ 0 || w 0 % 8 ≠ 0 ||
      w 1 % 8 ≠ 0 || w 4 % 8 ≠ 0 || len = 0 || len > 2 ^ 24 || len * rows > 2 ^ 28 }

/-- The pages of the rows of a copy, in ascending order of rows. -/
def rowPages (va rows len stride : Nat) : List Nat :=
  (upTo rows).flatMap (fun i => (pagePieces ((va + i * stride) % 2 ^ 64) len).map (·.1))

/-- The first fault of the pages that a copy names (R309), with its address and whether the check was one of a write. -/
def State.copyFault (s : State) (pd aspace : Nat) (handler : Bool) (d : CopyDesc) : Option (Nat × Nat × Bool) :=
  let bad (write : Bool) (va : Nat) : Option (Nat × Nat × Bool) :=
    match s.deviceXlat pd aspace va 8 write handler with | .error e => some (e, va, write) | .ok _ => none
  match (rowPages d.src d.rows d.len d.sstride).findSome? (bad false) with
  | some x => some x
  | none => match (rowPages d.dst d.rows d.len d.dstride).findSome? (bad true) with
    | some x => some x
    | none => if d.flag = 0 then none else bad true d.flag

/-- Does every address of the copy lie in local HBM or stage memory (R311)? -/
def State.copyLocal (s : State) (pd aspace : Nat) (handler : Bool) (d : CopyDesc) : Bool :=
  let near (write : Bool) (va : Nat) : Bool :=
    match s.deviceXlat pd aspace va 8 write handler with
    | .ok pa => (match s.target pa with | .hbm | .stage _ _ => true | _ => false)
    | .error _ => true
  (rowPages d.src d.rows d.len d.sstride).all (near false) && (rowPages d.dst d.rows d.len d.dstride).all (near true) &&
  (d.flag = 0 || near true d.flag)

/-- A copy engine: 16 on each port die. -/
def State.engine (s : State) (pd e : Nat) : Engine := KMap.lookD s.engines (16 * pd + e) {}
/-- A change of a copy engine. -/
def State.updEngine (s : State) (pd e : Nat) (f : Engine → Engine) : State :=
  { s with engines := KMap.alter s.engines (16 * pd + e) {} f }

/-- The engine that a COPY takes: of those with a free place the one whose horizon is least, the lower index of equals
(R311). -/
def State.copyEngine (s : State) (pd : Nat) : Option Nat :=
  leastBy (fun e => (s.engine pd e).busy) ((upTo 16).filter (fun e => (s.engine pd e).queue.length < 64))

/-- The 64 bytes of a descriptor as the thread's own plain read sees them (R309, R136, R137): its buffered writes that precede
the COPY or are unordered with it, else memory. -/
def State.descBytes (s : State) (c k id : Nat) (deps : List Nat) (pa : Nat) : List Byte × State :=
  let mem (j : Nat) : Byte := ((s.peekWord c ((pa + j) / 4) 0).map
    (fun w => w.extractLsb' (8 * (j % 4)) 8)).getD (s.outsideByte (pa + j))
  match s.exec? c k with
  | none => ((upTo 64).map mem, s)
  | some e => (upTo 8).foldl (fun (acc : List Byte × State) u =>
      let (v, s) := acc.2.forwardUnit e id deps ((upTo 8).map (fun j => pa + 8 * u + j))
      (acc.1 ++ v.mapIdx (fun j x => x.getD (mem (8 * u + j))), s)) ([], s)

/-- The effect of a COPY that fires (R309, R311). -/
def State.copyEffect (s : State) (i : Instr) (r : Route) (f : Firing) (id : Nat) : State :=
  let c := f.site.core
  let k := f.key r.ta
  let pd := nodeOf c
  let asp := s.aspaceOf c k
  let a := addrOf f.a
  let h := isHandlerKey k
  if !isWord f.a then s.freezeFiring f r.ta codeFMTMIS
  else if a % 64 ≠ 0 then s.accessFault i f r id codeALIGN a
  else match s.deviceXlat pd asp a 64 false h, s.copyEngine pd with
    | .error e, _ => s.accessFault i f r id e a
    | .ok _, none => s
    | .ok pa, some e =>
      if s.outsidePoison (lineOf pa) then s.accessFault i f r id codePOISON a
      else
        let (bytes, s) := s.descBytes c k id f.deps pa
        let d := copyDesc bytes
        if d.malformed then s.accessFault i f r id codePROT a
        else match s.copyFault pd asp h d with
          | some (code, va, write) => s.accessFaultAt i f r id code va write
          | none =>
            let eng := s.engine pd e
            let now := s.now c
            let l := if s.copyLocal pd asp h d then 400 else 2000
            let p := max now eng.busy + l + ceilDiv (d.len * d.rows) 128
            let th := s.thread c k
            let cmd : CopyCmd :=
              { count := eng.count, core := c, thread := k, team := th.team, tid := th.tid, aspace := asp, handler := h
                scope := scopeOf i, src := BitVec.ofNat 64 d.src, dst := BitVec.ofNat 64 d.dst, rows := d.rows, len := d.len
                sstride := d.sstride, dstride := d.dstride, flag := BitVec.ofNat 64 d.flag
                flagok := BitVec.ofNat 64 d.flagok, flagerr := BitVec.ofNat 64 d.flagerr, due := p
                record := s.firingRecord f k 0 6 }
            let s := s.updEngine pd e (fun x => { x with busy := p, count := x.count + 1, queue := x.queue ++ [cmd] })
            let s := s.atCommit f r.ta (.copy pd e eng.count)
            let v : Nat := pd * 2 ^ 62 + e * 2 ^ 58 + eng.count % 1024 * 2 ^ 48 + p % 2 ^ 48
            s.emitOut f r ⟨[{ valueTag i f r id with data := BitVec.ofNat 256 v }.fit], [doneToken f r id], 0⟩

/-- Must a COPY wait before it reads its descriptor: for a free engine place (R309), or for a write that its core has committed
and that has not performed (R35)? -/
def State.copyReady (s : State) (c k a : Nat) : Bool :=
  (s.copyEngine (nodeOf c)).isSome &&
  (match s.deviceXlat (nodeOf c) (s.aspaceOf c k) a 64 false (isHandlerKey k) with
   | .ok pa => !s.behindHeld c k [lineOf pa] s.coh.held
   | .error _ => true)

/-- R309. -/
def execCopy (r : Route1) (m : MemCtl) (s : State) :=
  memFiring (.copy r m) r.full (fun s f id => s.copyEffect (.copy r m) r.full f id) s

/-- The route of WAITT: D1 is discard. -/
def waittRoute (sa : Src) (d0 : Dst) : Route := ⟨sa, .none, d0, .discard, .unary⟩

/-- R374: the promise passes on; the wait is entered at commit. -/
def execWaitt (sa : Src) (d0 : Dst) (reg : BitVec 7) (s : State) : Host.Outcome State Fault Refusal :=
  withFiring s (fireCases (waittRoute sa d0) .int (fun s f =>
    let r := waittRoute sa d0
    let i : Instr := .waitt sa d0 reg
    let (id, s) := s.accessId f.site.core (f.key .unary)
    if !isWord f.a then s.freezeFiring f .unary codeFMTMIS
    else if bitsOf (addrOf f.a) 63 62 ≥ s.portDies then s.accessFault i f r id codePROT noAddr
    else (s.atCommit f .unary (.waitt f.tokA.w64 reg.toNat)).emitOut f r
      ⟨[{ f.resultTag .unary f.tokA.fmt with data := f.tokA.data }.fit], [], 0⟩))

end Sys2Proof.Machine
end

