-- ==== Sys2Proof/Machine/Fire.lean ====
section
/-! DEFINITION. What a tile fires in a cycle (R60), the threads that a debugger stop holds (R266), the conditions that an
instruction adds (R120, R127, R161, R311, R328), the operand set consumed, the breakpoints (R269), and the swap of a plane
behind EOS (R73, R128). -/

namespace Sys2Proof.Machine

/-! ## Stopped threads (R266) -/

/-- The team and the hand that a thread's stops concern, and the team's key: a helper counts with its recruiter's hand. -/
def State.stopTeamHand (s : State) (c k : Nat) : Nat × Nat :=
  let t := s.thread c k
  (t.team, t.hand)

/-- Does a stop hold a thread that is no handler's? -/
def State.stopHolds (s : State) (c k : Nat) (x : Stop) : Bool :=
  match x with
  | .device => true
  | .core n => n = c
  | .team t => (s.stopTeamHand c k).1 = t && (s.thread c k).st ≠ .vacant
  | .hand t h => s.stopTeamHand c k = (t, h) && (s.thread c k).st ≠ .vacant

/-- Does a stop hold the thread, or the thread that it serves? -/
def State.stopped (s : State) (c k : Nat) : Bool :=
  if s.dbg.stepping = some (c, k) then false
  else if isHandlerKey k then
    match s.servedTrap c k with
    | none => s.dbg.stops.any (fun x => match x with | .device => true | .core n => n = c | _ => false)
    | some t => match t.thread with
      | some j => s.dbg.stops.any (fun x => s.stopHolds c j x)
      | none => s.dbg.stops.any (fun x => match x with
          | .device => true
          | .core n => n = c
          | .team g => t.team = some g
          | .hand g h => t.team = some g && t.record.tid.map (· / 32) = some h)
  else s.dbg.stops.any (fun x => s.stopHolds c k x)

/-- The context without the operands of stopped threads: sticky operands stay for the others (R266). -/
def State.unstopped (s : State) (c : Nat) (x : PlaneCtx) : PlaneCtx :=
  if s.dbg.stops.isEmpty then x
  else { x with store := x.store.filter (fun e => e.kind = .sticky || !s.stopped c e.tok.slot) }

/-! ## The set that fires (R60) -/

/-- A set that could fire: its slot, its bits, the instruction, its route and the set. via is the port at whose head an operand
stands that finds no free entry and completes the set (R60). -/
structure Ready where
  slot : Nat
  bits : SlotBits
  instr : Instr
  route : Route
  mset : MatchSet
  via : Option Nat := none
  deriving DecidableEq, Repr

/-- The firing of a ready set. -/
def Ready.firing (x : Ready) (c t : Nat) (handler : Bool) (now : Nat) : Firing :=
  { site := { core := c, tile := t, slot := x.slot, handler := handler }, bits := x.bits, a := x.mset.a, b := x.mset.b
    q := x.mset.q, waited := now - x.mset.first, arrived := x.mset.lastA, port := x.mset.port }

/-- The conditions that an instruction adds to those of R60. A bubble and a deferred firing perform nothing and wait for
nothing. -/
def State.instrReady (s : State) (f : Firing) (i : Instr) (r : Route) : Bool :=
  let c := f.site.core
  let t := f.site.tile
  let k := f.key r.ta
  let req := f.tokA.w64.toNat
  if f.deferred || !f.pred r.ta then true
  else match i with
  | .fence _ kind sc => s.fenceReady c k kind sc
  | .gtime _ v => !v || (s.die (dieOf c)).valid
  | .copy _ _ => s.copyReady c k req
  | .accrd _ | .accclr _ _ _ | .accdr _ _ _ _ => s.accReady c t i req f.arrived
  | _ => true

/-- Can the destinations of the firing accept? A drain needs only the route that its steering token chooses (R126). -/
def State.firingDests (s : State) (f : Firing) (i : Instr) (r : Route) : Bool :=
  let x := f.site
  match i with
  | .accdr _ _ r3 r2 =>
    s.canSend x.core x.tile x.handler (if f.deferred then r.d0 else drainDst r r3 r2 f.tokB.w64.toNat)
  | _ => s.destsFree x.core x.tile x.handler r

/-- The sets of a tile's context that could fire now, under a view of the context. -/
def State.readySets (s : State) (c t : Nat) (handler : Bool) (x : PlaneCtx) : List Ready :=
  x.plane.slots.filterMap (fun p =>
    match s.slotSetIn c t p.1 p.2 x with
    | none => none
    | some m => match slotInstr p.2 with
      | none => none
      | some i => match i.route? with
        | none => none
        | some r =>
          let y : Ready := ⟨p.1, p.2, i, r, m, none⟩
          let f := y.firing c t handler (s.cycle c)
          if s.firingDests f i r && s.instrReady f i r then some y else none)

/-- The sets that an operand at the head of a port completes although no entry is free for it: it is consumed without one where
its set fires at once (R60). A FIRST operand needs the entry for its marker (R66). -/
def State.edgeSets (s : State) (c t : Nat) (handler : Bool) : List Ready :=
  if !s.isFull c t (s.ctx c t handler) then []
  else (upTo 12).flatMap (fun p => match s.headOf c t p handler with
    | none => []
    | some a =>
      if a.tok.eos || s.stopped c a.tok.slot then []
      else match s.takeHead c t p handler a false with
        | .inl (.into y _) =>
          ((s.readySets c t handler (s.unstopped c y)).filter (fun z =>
            z.mset.marker.isNone && z.mset.entries.any (fun e => e.seq = s.nextId))).map (fun z => { z with via := some p })
        | _ => [])

/-- The earliest by the arrival of the last operand, then the lower slot (R60). -/
def earliest (l : List Ready) : Option Ready := leastBy (fun y => y.mset.last * 32 + y.slot) l

/-- The set that a context fires in this cycle. -/
def State.pick (s : State) (c t : Nat) (handler : Bool) : Option Ready :=
  earliest (s.readySets c t handler (s.unstopped c (s.ctx c t handler)) ++ s.edgeSets c t handler)

/-! ## A region that stops (R61, R138) -/

/-- Is the slot an MMA, whose operands lead to no access and no exit (R119)? -/
def slotIsMma (p : Plane) (slot : Nat) : Bool :=
  match (KMap.look p.slots slot).bind slotInstr with | some (.mma _ _ _ _) => true | _ => false

/-- Does the port feed an MMA slot? -/
def portIsMma (p : Plane) (port : Nat) : Bool :=
  match portSlot p port with | some x => slotIsMma p x.1 | none => false

/-- Does a plane context hold a token of the thread that can still lead to an access or an exit? A sticky operand and a
marker lead to none of their own. -/
def PlaneCtx.holdsToken (x : PlaneCtx) (k : Nat) : Bool :=
  x.store.any (fun e => (e.kind = .operand || e.kind = .whole) && e.tok.slot = k && !slotIsMma x.plane e.slot) ||
  x.chans.any (fun q => q.2.any (fun a => !a.tok.eos && a.tok.slot = k && !portIsMma x.plane q.1)) ||
  x.queues.any (fun q => q.2.any (fun a => a.tok.slot = k && !portIsMma x.plane (8 + q.1)))

/-- Does a tile hold such a token? -/
def Tile.holdsToken (tl : Tile) (k : Nat) : Bool :=
  tl.main.holdsToken k || (match tl.hctx with | some x => x.holdsToken k | none => false) ||
  tl.pendingEmits.any (fun e => !e.tok.eos && e.tok.slot = k) ||
  (match tl.frozen with
   | none => false
   | some z => (match z.held with | some f => (f.a ++ f.b ++ f.q).any (fun t => t.slot = k) | none => false) ||
       (match z.token with | some t => t.slot = k | none => false)) ||
  (match tl.mx.arming with | some t => t.slot = k | none => false)

/-- Is no token of the thread left in the core that could lead to another access or exit (R33, R197)? -/
def State.exitsDone (s : State) (c k : Nat) : Bool := !(s.core c).tiles.any (fun t => t.2.holdsToken k)

/-- Can an access of the thread's execution never be placed: nothing of it is left that could report another (R138)? -/
def State.neverPlaced (s : State) (c k : Nat) : Bool :=
  match s.exec? c k with
  | none => false
  | some e =>
    let loose := e.reports.filter (fun x => x.before.isNone)
    !loose.isEmpty && s.exitsDone c k &&
    (s.core c).accesses.all (fun a => a.2.thread ≠ k || (a.2.stage = .reply && loose.any (fun x => x.id = a.2.id)))

/-- Has a region stopped firing because an access of a thread of it can never be placed (R138)? -/
def State.regionStuck (s : State) (c r : Nat) : Bool :=
  (s.core c).threads.any (fun p => match p.2.exec with
    | some e => e.region = r && s.neverPlaced c p.1
    | none => false)

/-- May a context fire in this cycle: the tile has not fired, its active plane is not frozen, its region has not stopped, and the
handler context only when the active plane fires nothing (R60, R138, R199, R207)? -/
def State.mayFire (s : State) (c t : Nat) (handler : Bool) : Bool :=
  let tl := s.tile c t
  s.dieRuns (dieOf c) && tl.firedAt ≠ some (s.cycle c) && !tl.pendingEmits.any (·.first) &&
  (if handler then tl.hctx.isSome && (tl.frozen.isSome || (s.pick c t false).isNone) else tl.frozen.isNone &&
    !(match s.regionOfTile c t with | some r => s.regionStuck c r | none => false))

/-! ## Breakpoints (R269) -/

/-- Does a breakpoint match the firing? -/
def brkMatches (b : Nat) (f : Firing) (tag : Token) : Bool :=
  bitOf b 63 && bitsOf b 60 53 = f.site.core && bitsOf b 52 47 = f.site.tile && bitsOf b 46 42 = f.site.slot &&
  (bitOf b 20 || bitsOf b 41 30 = tag.slot) && (!bitOf b 21 || bitsOf b 29 22 = tag.iter.toNat)

/-- A stop entered, and the settling starts anew. -/
def State.addStop (s : State) (x : Stop) : State :=
  { s with dbg := { s.dbg with stops := if s.dbg.stops.contains x then s.dbg.stops else s.dbg.stops ++ [x], settled := false } }

/-- The stops that the breakpoints put in force for a firing. -/
def State.breakpoints (s : State) (f : Firing) (r : Route) : State :=
  let tag := f.tagSource r.ta
  let c := f.site.core
  (upTo 4).foldl (fun s i =>
    let b := s.regN .dbgBrk i
    if brkMatches b f tag then
      s.addStop (match bitsOf b 62 61 with
        | 0 => .hand (s.stopTeamHand c tag.slot).1 (s.stopTeamHand c tag.slot).2
        | 1 => .team (s.stopTeamHand c tag.slot).1
        | 2 => .core c
        | _ => .device)
    else s) s

/-! ## The firing -/

/-- The operand at the head of a port that completes the set, taken for it. -/
def State.takeVia (s : State) (c t : Nat) (handler : Bool) (y : Ready) : State :=
  match y.via with
  | none => s
  | some p => match s.headOf c t p handler with
    | none => s
    | some a => s.putHead c t p handler a false

/-- A ready set consumed: its entries leave the store, its wait is counted, the tile has fired in this cycle, and
breakpoints that match take effect. The operand set stands in State.firing for the meaning. -/
def State.consume (s : State) (c t : Nat) (handler : Bool) (y : Ready) : State :=
  let s := s.takeVia c t handler y
  let now := s.cycle c
  let f := y.firing c t handler now
  let s := s.updTile c t (fun tl =>
    let x := afterFire y.route y.slot y.mset (tl.ctx handler)
    let (x, d) := match y.route.ta with
      | .isect => if y.route.sa.isToken && y.route.sb.isToken then
            isectFired y.slot now s.nextId f.tokA f.tokB x else (x, 0)
      | _ => (x, 0)
    { tl.updCtx handler (fun _ => x) with firedAt := some now, discarded := tl.discarded + d })
  let s := (s.countWait c t y.slot f.waited).breakpoints f y.route
  { s with firing := some f, nextId := s.nextId + 1 }

/-- The move of a tile that fires a slot: enabled when the slot's set is the one that R60 picks. -/
def State.prepareFiring (s : State) (c t : Nat) (handler : Bool) (slot : Nat) : Option State :=
  if !s.mayFire c t handler then none
  else match s.pick c t handler with
    | none => none
    | some y => if y.slot = slot then some (s.consume c t handler y) else none

/-! ## TILE_EOS_SWAP (R72, R73, R128) -/

/-- The key of PlaneCtx.eos under which the injection reaches a plane that names no input channel (R72). -/
def eosKey : Nat := 99

/-- Condition 1 of R73; a plane without slots waits for no EOS (R179). -/
def PlaneCtx.eosComplete (x : PlaneCtx) : Bool :=
  let ch := namedChannels x.plane
  x.plane.slots.isEmpty ||
  (if ch.isEmpty then KMap.lookD x.eos eosKey 0 ≥ 1
   else ch.all (fun c => KMap.lookD x.eos c 0 ≥ producersOf x.plane c))

/-- Does the plane hold an MMA? -/
def planeHasMma (p : Plane) : Bool := p.slots.any (fun b => match slotInstr b.2 with | some (.mma _ _ _ _) => true | _ => false)

/-- Does the head of a port stay where it is: nothing is there, or it finds no entry (R60) or no slot that names the queue? -/
def State.headStays (s : State) (c t port : Nat) : Bool :=
  match s.headOf c t port false with
  | none => ((s.ctx c t false).port port).isEmpty
  | some a => match s.takeHead c t port false a (s.isFull c t (s.ctx c t false)) with
    | .inl .stall => true
    | _ => false

/-- Condition 2 of R73 with R128: no complete set unfired, every result gone, no queued token that can still be taken. -/
def State.drained (s : State) (c t : Nat) : Bool :=
  let tl := s.tile c t
  let x := tl.main
  x.plane.slots.all (fun p => (s.slotSetIn c t p.1 p.2 x).isNone) &&
  tl.pendingEmits.all (fun p => decide (p.dst ≥ 32)) &&
  (upTo 4).all (fun q => s.headStays c t (8 + q)) &&
  (!planeHasMma x.plane || (tl.mx.rows.isEmpty && tl.mx.arming.isNone && (s.waitingRequests c t).isEmpty) ||
    (tl.mx.armed && tl.mx.rows.isEmpty && (s.waitingRequests c t).isEmpty))

/-- Condition 3 of R73. -/
def State.accessesBack (s : State) (c t : Nat) : Bool :=
  (s.core c).accesses.all (fun a => !(a.2.site.tile = t && !a.2.site.handler))

/-- The link and broadcast destinations that a plane names. -/
def outputDests (p : Plane) : List Dst :=
  let l : List Dst := p.slots.flatMap (fun b => match slotInstr b.2 with
    | none => []
    | some i => match i.route? with
      | none => []
      | some r => [r.d0, r.d1] ++ (match i with | .accdr _ _ r3 r2 => [r3, r2] | _ => []))
  ([.n0, .n1, .e0, .e1, .s0, .s1, .w0, .w1, .row, .col] : List Dst).filter (fun d => l.contains d)

/-- The EOS on the destinations of the plane that a tile leaves: at once where there is room, else behind what waits. -/
def State.sendEos (s : State) (c t : Nat) (p : Plane) : State :=
  (outputDests p).foldl (fun s d => s.sendOrWait c t d (eosToken (dieOf c))) s

/-- Does the tile keep its plane although EOS is complete: an armed section at a pre-emption's drain (R221)? -/
def State.keepsForPreempt (s : State) (c t : Nat) : Bool :=
  (s.distOf (dieOf c)).preempting && (s.tile c t).mx.armed && planeHasMma (s.tile c t).main.plane

/-- A plane made active: queues and store empty, EOS counted anew, the channels as they are. -/
def PlaneCtx.swapTo (x : PlaneCtx) (p : Plane) : PlaneCtx :=
  let n := KMap.lookD x.eos eosKey 0
  let left := if !x.plane.slots.isEmpty && (namedChannels x.plane).isEmpty then n - 1 else n
  { plane := p, chans := x.chans, eos := if left = 0 then [] else [(eosKey, left)] }

/-- The leftovers that make a stray at EOS (R73): the slot that each waits for, and its token. -/
def PlaneCtx.leftovers (x : PlaneCtx) : List (Nat × Token) :=
  (x.store.filter (fun e => e.kind ≠ .sticky)).map (fun e => (e.slot, e.tok)) ++
  x.queues.flatMap (fun q => q.2.map (fun a =>
    ((match portSlot x.plane (8 + q.1) with | some y => y.1 | none => 31), a.tok)))

/-- A tile's STRAY at EOS (R73, R128). Where several operands are left, the first in the order of the store, and then of the
queues, gives the record its slot and configuration word (log entry 36). -/
def State.strayAtEos (s : State) (c t : Nat) : State :=
  let tl := s.tile c t
  let first := (tl.main.leftovers.head?).getD (31, eosToken (dieOf c))
  let site : Site := { core := c, tile := t, slot := first.1 }
  let f : Firing := { site := site, bits := (KMap.look tl.main.plane.slots first.1).getD ⟨0, 0⟩, a := [first.2] }
  s.takeFreeze f first.2.slot codeSTRAY { code := codeSTRAY, site := site, atEos := true } (strayInfo tl.mx 15)

/-- The swap of a tile whose conditions of R73 hold. -/
def State.eosSwap (s : State) (c t : Nat) : State :=
  let tl := s.tile c t
  let x := tl.main
  let idle := match s.regionOfTile c t with
    | some r => (s.region c r).idle && !(s.region c r).loads.any (fun l => l.tiles.contains t)
    | none => true
  let next := match tl.shadow with
    | some p => some p
    | none => if idle && !x.plane.slots.isEmpty then some { rect := x.plane.rect } else none
  match next with
  | none => s
  | some p =>
    if tl.frozen.isSome || !x.eosComplete || !s.drained c t || !s.accessesBack c t || s.keepsForPreempt c t then s
    else if !x.leftovers.isEmpty || (planeHasMma x.plane && tl.mx.armed) then s.strayAtEos c t
    else
      (s.sendEos c t x.plane).updTile c t (fun y =>
        { y with main := y.main.swapTo p, shadow := none
                 mx := if planeHasMma x.plane then { y.mx with cols := [], colPart := [] } else y.mx })

/-- R73: a tile forwards EOS and swaps. A handler context of a frozen region receives no EOS. -/
def execTileEosSwap (core tile : Nat) (handler : Bool) (s : State) : Host.Outcome State Fault Refusal :=
  .next (if handler then s else s.eosSwap core tile)

end Sys2Proof.Machine
end

