-- ==== Sys2Proof/Machine/Control.lean ====
section
/-! DEFINITION. The control instructions at their firing: the exits (R302, R303, R331, R332), barriers (R185, R298), waits
(R373, R374, R376), recruitment and layers (R224 to R227, R238, R239), repairs and returns from traps (R378, R379), CFGINV
and EOSI (R305, R306). What they do at commit stands in Dealer.lean. -/

namespace Sys2Proof.Machine

/-! ## Exits (R32, R34) -/

/-- An exit reaches the Dealer: true with its next block, false, or deferred. -/
def State.seeExit (s : State) (f : Firing) (k : Nat) (x : ExitSeen) : State :=
  s.updExec f.site.core k (fun e => { e with exits := e.exits ++ [x] })

/-- A firing of an exit. next is the block that it names, none for EXIT. -/
def exitFiring (r : Route) (next : Firing → Option Word) (s : State) : Host.Outcome State Fault Refusal :=
  withFiring s (fun s f =>
    let k := f.key r.ta
    let s := s.trace f .dlr { f.resultTag r.ta .int with data := f.tokA.data }
    s.seeExit f k
      { site := f.site, bits := f.bits, fired := !f.deferred && f.pred r.ta, deferred := f.deferred, next := next f
        code := bitsOf f.deferredData.toNat 7 0 })

/-- R302. -/
def execBr (sa sb : Src) (tblk fblk : BitVec 8) (s : State) : Host.Outcome State Fault Refusal :=
  exitFiring (exitRoute sa sb .preda)
    (fun f => some (BitVec.ofNat 64 (if predOf f.b then tblk.toNat else fblk.toNat))) s

/-- R331. -/
def execJmp (sa : Src) (blk : BitVec 8) (s : State) : Host.Outcome State Fault Refusal :=
  exitFiring (exitRoute sa .none .unary) (fun _ => some (BitVec.ofNat 64 blk.toNat)) s

/-- R332. -/
def execJmpi (sa : Src) (s : State) : Host.Outcome State Fault Refusal :=
  match s.firing with
  | some f =>
    if !f.deferred && f.pred .unary && !isWord f.a then withFiring s (fun s f => s.freezeFiring f .unary codeFMTMIS)
    else exitFiring (exitRoute sa .none .unary) (fun f => some f.tokA.w64) s
  | none => .next s

/-- R303. -/
def execExit (sa : Src) (s : State) : Host.Outcome State Fault Refusal :=
  exitFiring (exitRoute sa .none .unary) (fun _ => none) s

/-! ## Barriers (R185, R298, R299) -/

/-- Teams of the cluster of a grid. -/
def Grid.clusterSize (g : Grid) : Nat := g.cw * g.ch

/-- The members of a team's cluster: its key and those of the teams of the same grid and cluster index. -/
def State.clusterTeams (s : State) (t : Nat) : List Nat :=
  match s.team? t with
  | none => []
  | some x => match s.grid? x.grid with
    | none => [t]
    | some g => (s.teams.filter (fun p =>
        p.2.grid = x.grid && p.2.index / max 1 g.clusterSize = x.index / max 1 g.clusterSize)).map (·.1)

/-- A barrier of a team: 0 to 15 its own, 16 to 23 those of its cluster. -/
def State.barrier (s : State) (t n : Nat) : Barrier :=
  match s.team? t with
  | none => {}
  | some x =>
    if n < 16 then KMap.lookD x.bars n {}
    else match s.grid? x.grid with
      | none => {}
      | some g => KMap.lookD (KMap.lookD g.clusterBars (x.index / max 1 g.clusterSize) []) n {}

/-- A change of a barrier of a team. -/
def State.updBarrier (s : State) (t n : Nat) (f : Barrier → Barrier) : State :=
  match s.team? t with
  | none => s
  | some x =>
    if n < 16 then s.updTeam t (fun x => { x with bars := KMap.alter x.bars n {} f })
    else s.updGrid x.grid (fun g => { g with
      clusterBars := KMap.alter g.clusterBars (x.index / max 1 g.clusterSize) [] (fun m => KMap.alter m n {} f) })

/-- The phase of a barrier that a thread reads at firing; a handler thread, which has no team, reads zero. -/
def State.phaseFor (s : State) (c k n : Nat) : BitVec 32 :=
  if isHandlerKey k then 0 else (s.barrier (s.thread c k).team n).phase

/-- R298: BARA emits the phase read at firing and arrives at commit. -/
def execBara (r : Route1) (n : BitVec 5) (s : State) : Host.Outcome State Fault Refusal :=
  wordFiring r.full (fun s f =>
    let p := s.phaseFor f.site.core (f.key .unary) n.toNat
    (s.atCommit f .unary (.arrive n.toNat p), p.zeroExtend 64)) s

/-- R298: BAR emits the phase read at firing, and at commit arrives and waits with it. -/
def execBar (r : Route1) (n : BitVec 5) (s : State) : Host.Outcome State Fault Refusal :=
  wordFiring r.full (fun s f =>
    let p := s.phaseFor f.site.core (f.key .unary) n.toNat
    ((s.atCommit f .unary (.arrive n.toNat p)).atCommit f .unary (.barWait n.toNat p), p.zeroExtend 64)) s

/-- R298: BARW waits at commit with the phase in A[31:0]. -/
def execBarw (r : Route1) (n : BitVec 5) (s : State) : Host.Outcome State Fault Refusal :=
  passFiring r.full (fun s f => s.atCommit f .unary (.barWait n.toNat (f.tokA.w64.extractLsb' 0 32))) s

/-! ## Instructions that act at commit and emit A -/

/-- A firing that takes a 64-bit token, records an action for the commit and emits A. -/
def commitFiring (r : Route) (act : Firing → CommitAct) (s : State) : Host.Outcome State Fault Refusal :=
  withFiring s (fun s f => fireCases r f.tokA.fmt (fun s f =>
    if !isWord f.a then s.freezeFiring f r.ta codeFMTMIS
    else (s.atCommit f r.ta (act f)).emitOut f r (Out.data (f.resultTag r.ta f.tokA.fmt) ⟨f.tokA.data, 0⟩)) s f)

/-- R376. -/
def execYield (r : Route1) (s : State) : Host.Outcome State Fault Refusal :=
  passFiring r.full (fun s f => s.atCommit f .unary .yield) s

/-- R373. -/
def execSleep (r : Route1) (abs : Bool) (s : State) : Host.Outcome State Fault Refusal :=
  commitFiring r.full (fun f => .sleep f.tokA.w64 abs) s

/-- R232: HJOIN joins at commit. -/
def execHjoin (r : Route1) (mreg : BitVec 7) (s : State) : Host.Outcome State Fault Refusal :=
  passFiring r.full (fun s f => s.atCommit f .unary (.hjoin mreg.toNat)) s

/-- R230: HRED delivers its value at commit. -/
def execHred (r : Route1) (_ : Bool) (s : State) : Host.Outcome State Fault Refusal :=
  commitFiring r.full (fun f => .hred f.tokA.w64) s

/-- R228: HEND ends the helper at commit. -/
def execHend (r : Route1) (s : State) : Host.Outcome State Fault Refusal :=
  passFiring r.full (fun s f => s.atCommit f .unary .hend) s

/-- R239, R348. -/
def execLyrel (r : Route1) (s : State) : Host.Outcome State Fault Refusal :=
  commitFiring r.full (fun f => .lyrel f.tokA.w64) s

/-- R305. -/
def execCfginv (r : Route1) (scope : InvScope) (s : State) : Host.Outcome State Fault Refusal :=
  commitFiring r.full (fun f => .cfginv f.tokA.w64 scope) s

/-- R306. -/
def execEosi (r : Route1) (s : State) : Host.Outcome State Fault Refusal :=
  passFiring r.full (fun s f => s.atCommit f .unary (.eosi (bitsOf f.tokA.w64.toNat 1 0))) s

/-- R379: the resolution performs at commit. -/
def execTrret (r : Route1) (action : BitVec 4) (blk : BitVec 8) (s : State) : Host.Outcome State Fault Refusal :=
  commitFiring r.full (fun f => .trret action.toNat blk.toNat f.tokA.w64) s

/-- R378: a repair is recorded for the commit; its destinations are discard. -/
def execTrprep (sa sb : Src) (ta : TagAction) (kind : RepairKind) (s : State) : Host.Outcome State Fault Refusal :=
  withFiring s (fun s f => fireCases (sinkRoute sa sb ta) f.tokA.fmt (fun s f =>
    if !isWord f.b then s.freezeFiring f ta codeFMTMIS
    else (s.atCommit f ta (.trprep kind f.tokA.data f.tokB.w64)).trace f .discard f.tokA) s f)

/-! ## WAITLY (R238) -/

/-- LAYER (Table 10.1). -/
def codeLAYER : Nat := 0x22

/-- The layers of a context: NL (Table 11.2). -/
def State.layersOf (s : State) (ctx : Nat) : Nat := s.regBits .chrCtl ctx 43 32 + 1

/-- INFO of LAYER (Table 10.3). -/
def layerInfo (cause ctx layer : Nat) : Word :=
  BitVec.ofNat 64 (cause * 2 ^ 18 + ctx % 64 * 2 ^ 12 + layer % 4096)

/-- The model context of a thread's grid. -/
def State.ctxOf (s : State) (c k : Nat) : Option Nat := (s.gridOfTeam (s.thread c k).team).bind (·.ctx)

/-- The cause for which WAITLY faults at its firing (R238). -/
def State.waitlyCause (s : State) (c k : Nat) (layer : Word) : Option Nat :=
  match s.ctxOf c k with
  | none => some 2
  | some x =>
    if layer.toNat ≥ s.layersOf x then some 2
    else match s.team? (s.thread c k).team with
      | none => some 2
      | some t => if t.uses.length ≥ 64 && (KMap.look t.uses layer.toNat).isNone then some 1 else none

/-- R238. -/
def execWaitly (r : Route1) (s : State) : Host.Outcome State Fault Refusal :=
  withFiring s (fun s f => fireCases r.full f.tokA.fmt (fun s f =>
    let c := f.site.core
    let k := f.key .unary
    let layer := f.tokA.w64
    if !isWord f.a then s.freezeFiring f .unary codeFMTMIS
    else match s.waitlyCause c k layer with
      | some cause =>
        let s := s.takeAccessFault f k codeLAYER (BitVec.ofNat 64 noAddr)
          (layerInfo cause ((s.ctxOf c k).getD 0) layer.toNat)
        s.emitOut f r.full (.both [{ f.resultTag .unary f.tokA.fmt with data := BitVec.ofNat 256 codeLAYER, deferred := true }])
      | none => (s.atCommit f .unary (.waitly layer)).emitOut f r.full
          (Out.data (f.resultTag .unary f.tokA.fmt) ⟨f.tokA.data, 0⟩)) s f)

/-! ## RECRUIT (R225 to R227) -/

/-- The free slots of a team as $tid in the order of R227: the recruiter's hand in ascending lane, then the other hands in
ascending distance, the lower number first. -/
def State.freeSlots (s : State) (c : Nat) (t : Team) (hand : Nat) : List Nat :=
  let dist (h : Nat) : Nat := (if h < hand then hand - h else h - hand) * 2 + (if h < hand then 0 else 1)
  let hands := sortBy dist (upTo t.hands)
  (hands.flatMap (fun h => (upTo 32).map (fun l => 32 * h + l))).filter (fun tid =>
    match t.slotOf tid with
    | none => false
    | some k => let u := s.thread c k
                u.st = .exited && u.helper.isNone && !u.reserved)

/-- Does RECRUIT grant nothing whatever slots are free (R226)? A recruitment that its recruiter's EXIT has closed no longer
counts (R232). -/
def State.recruitRefused (s : State) (c k : Nat) (t : Team) : Bool :=
  let th := s.thread c k
  let g := s.grid? t.grid
  th.helper.isSome || (KMap.look t.recs th.tid).isSome || (t.recs.filter (fun x => !x.2.orphan)).length ≥ 64 || t.mark.isSome ||
  (s.distOf (dieOf c)).preempting || (KMap.look t.parks (th.tid / 32)).isSome ||
  (match g with | some g => g.norcr || (s.queue g.queue).tear = 2 | none => true)

/-- R227: slots are reserved at firing, and the grant is emitted. -/
def execRecruit (r : Route2) (reg : BitVec 7) (fop : FoldOp) (hblk : BitVec 8) (s : State) :
    Host.Outcome State Fault Refusal :=
  wordFiring (r.full .plain) (fun s f =>
    let c := f.site.core
    let k := f.key .plain
    let th := s.thread c k
    if isHandlerKey k then (s, 0)
    else match s.team? th.team with
      | none => (s, 0)
      | some t =>
        let free := if s.recruitRefused c k t then [] else s.freeSlots c t (th.tid / 32)
        let g := min (min f.tokA.w64.toNat 64) free.length
        if g = 0 then (s, 0)
        else
          let slots := free.take g
          let s := slots.foldl (fun s tid => match t.slotOf tid with
            | some j => s.updThread c j (fun u => { u with reserved := true })
            | none => s) s
          let s := s.updTeam th.team (fun x => { x with
            recs := KMap.put x.recs th.tid { reg := reg.toNat, fop := fop, hblk := hblk.toNat, slots := slots, arg := f.tokB.w64 } })
          (s.atCommit f .plain .recruit, BitVec.ofNat 64 g)) s

end Sys2Proof.Machine
end

