-- ==== Sys2Proof/Machine/Threads.lean ====
section
/-! DEFINITION. What happens to threads outside a firing: passing on to the next block (R34, R176, R212), barriers (R185),
helpers and recruitments (R227 to R234), layers (R237 to R239), retirement (R47), and the resolution of traps with its
repairs (R208, R209). -/

namespace Sys2Proof.Machine

/-! ## Regions and waiting threads (R31, R172) -/

/-- The regions of a core, by number. -/
def State.regionsOf (s : State) (c : Nat) : List Nat := upTo ((s.core c).layout.getD []).length

/-- The tiles of a region. -/
def State.regionTiles (s : State) (c r : Nat) : List Nat := (s.regionRect c r).tiles

/-- Is a tile of the region frozen (R199)? -/
def State.regionFrozen (s : State) (c r : Nat) : Bool := (s.regionTiles c r).any (fun t => (s.tile c t).frozen.isSome)

/-- Does a plane context hold a token of a thread that p selects? -/
def PlaneCtx.holdsOf (x : PlaneCtx) (p : Nat → Bool) : Bool :=
  x.store.any (fun e => e.kind ≠ .marker && p e.tok.slot) ||
  x.chans.any (fun q => q.2.any (fun a => !a.tok.eos && p a.tok.slot)) ||
  x.queues.any (fun q => q.2.any (fun a => p a.tok.slot))

/-- Does a tile hold such a token? -/
def Tile.holdsOf (tl : Tile) (p : Nat → Bool) : Bool :=
  tl.main.holdsOf p || (match tl.hctx with | some x => x.holdsOf p | none => false) ||
  tl.pendingEmits.any (fun e => !e.tok.eos && p e.tok.slot) ||
  (match tl.frozen with
   | none => false
   | some z => (match z.held with | some f => (f.a ++ f.b ++ f.q).any (fun t => p t.slot) | none => false) ||
       (match z.token with | some t => !t.eos && p t.slot | none => false)) ||
  (match tl.mx.arming with | some t => p t.slot | none => false)

/-- Has a region stopped under R61: a tile of it is full, no set of it can fire, and a channel of it is stalled; or an access of
a thread of it can never be placed (R138)? -/
def State.regionStopped (s : State) (c r : Nat) : Bool :=
  s.regionStuck c r ||
  (s.regionTiles c r).any (fun t =>
    let x := (s.tile c t).main
    s.isFull c t x && (x.plane.slots.all (fun p => (s.slotSetIn c t p.1 p.2 x).isNone)) &&
    (upTo 12).any (fun p => x.headReady p (s.cycle c)) && s.accessesBack c t)

/-- Does a region stand still: frozen, or stopped under R61? -/
def State.regionStill (s : State) (c r : Nat) : Bool := s.regionFrozen c r || s.regionStopped c r

/-- Does a region hold a token of a thread, or its execution whose access can never be placed? -/
def State.regionHolds (s : State) (c r k : Nat) : Bool :=
  (s.regionTiles c r).any (fun u => (s.tile c u).holdsOf (· = k)) ||
  (s.neverPlaced c k && (match s.exec? c k with | some e => e.region = r | none => false))

/-- The regions of a team's core that stand still and hold a token of it. -/
def State.stillRegions (s : State) (t : Nat) : List (Nat × Nat) :=
  match (s.team? t).bind (·.core) with
  | none => []
  | some c => ((s.regionsOf c).filter (fun r => s.regionStill c r &&
      (s.core c).threads.any (fun p => !isHandlerKey p.1 && p.2.team = t && p.2.st ≠ .vacant && s.regionHolds c r p.1))).map
        (fun r => (c, r))

/-- The bound of R222 of a die in ticks: W × D fabric cycles and 4 µs. -/
def State.drainBound (s : State) (d : Nat) : Tick :=
  let depths := (coresOfDie d).flatMap (fun c => (s.regionsOf c).flatMap (fun r =>
    (s.regionTiles c r).filterMap (fun t =>
      let p := (s.tile c t).main.plane
      p.block.bind (fun b => (s.block? p.image b).map (·.depth)))))
  ceilDiv (s.regN .dlrInjwin * depths.foldl max 0 * 10) (max 1 (s.die d).mhz) + 4000

/-- Has the bound that counts from a tick passed on a die on which no debugger stop is in force? The ticks since slow in which a
host or pool access was out for more than 4 µs do not count (R222). -/
def State.boundPast (s : State) (d : Nat) (from_ bound slow : Tick) : Bool :=
  s.dbg.stops.isEmpty &&
  (coresOfDie d).all (fun c => (s.core c).accesses.all (fun a => !s.slowAccess a.2)) &&
  decide (from_ + bound + ((s.distOf d).slow - slow) ≤ s.nowDie d)

/-- The handler tile of a region (R207). -/
def handlerTile (r : Rect) : Nat := if r.x = 0 then 8 * r.y else 8 * r.y + 7

/-- The region in which a thread runs a block: that of the block, or for a handler thread the one of its trap (R207). -/
def State.regionForBlock (s : State) (c k blk : Nat) : Nat :=
  if isHandlerKey k then (s.thread c k).lastRegion
  else match s.block? (s.imageOf c k) blk with | some b => b.region | none => 0

/-- Is the thread held by an invalidation of its own (R91)? -/
def State.invHeld (s : State) (c k : Nat) : Bool := s.invals.any (fun v => v.core = c && v.thread = k)

/-- May the Dealer inject the thread's team: not marked, not discarded (R215)? -/
def State.teamInjects (s : State) (c k : Nat) : Bool :=
  isHandlerKey k || (match s.team? (s.thread c k).team with
    | some t => t.mark.isNone && !t.discard
    | none => false)

/-- Does the thread wait in a waiting vector, with nothing that keeps it from being injected? -/
def State.waits (s : State) (c k : Nat) : Bool :=
  (s.thread c k).st = .waiting && !s.invHeld c k && s.teamInjects c k && !s.stopped c k

/-- The threads that wait in the region: key, image and block. A handler of a frozen region is not among them (R207). -/
def State.waitingIn (s : State) (c r : Nat) : List (Nat × Nat × Nat) :=
  (s.core c).threads.filterMap (fun p =>
    if s.waits c p.1 && s.regionForBlock c p.1 p.2.next = r && !(isHandlerKey p.1 && s.regionFrozen c r) then
      some (p.1, s.imageOf c p.1, p.2.next)
    else none)

/-- A thread's class (R173): handler threads are of class 0. -/
def State.classOf (s : State) (c k : Nat) : Nat := if isHandlerKey k then 0 else (s.thread c k).cls

/-! ## Passing on (R34, R176) -/

/-- Can the thread enter the entry queue of the region's batch (R176, R207, R215, R220, R376)? -/
def State.entersQueue (s : State) (c k blk : Nat) : Bool :=
  let r := s.regionForBlock c k blk
  let g := s.region c r
  match g.batch with
  | none => false
  | some b =>
    b.image = s.imageOf c k && b.block = blk && g.entry.length < 64 && s.classOf c k ≠ 2 && !(s.thread c k).yielded &&
    !g.held && !(s.distOf (dieOf c)).preempting && s.teamInjects c k && !s.invHeld c k &&
    !((s.thread c k).helper.isNone && !isHandlerKey k && s.handParked c k) &&
    (isHandlerKey k = b.class0) && g.hplane ≠ some k

/-- A thread passed to its next block (R34): the entry queue of a region where the block is configured, else its waiting
vector or its hand's parked vector. -/
def State.passOn (s : State) (c k blk : Nat) : State :=
  if s.entersQueue c k blk then
    let r := s.regionForBlock c k blk
    let s := s.updThread c k (fun t =>
      { t with st := .running, next := blk, wait := none, exec := none, queued := true, yielded := false })
    s.updRegion c r (fun g => { g with entry := g.entry ++ [k] })
  else
    (s.enterWaiting c k blk).updThread c k (fun t => { t with yielded := false })

/-- A thread that leaves a wait for the block that its exit named (R372). -/
def State.leaveWait (s : State) (c k : Nat) : State := s.passOn c k (s.thread c k).next

/-! ## Barriers (R185 to R187) -/

/-- The threads of a team: core and key. -/
def State.teamThreads (s : State) (t : Nat) : List (Nat × Nat) :=
  match s.team? t with
  | none => []
  | some x => match x.core with
    | none => []
    | some c => x.slots.map (fun k => (c, k))

/-- The teams whose threads a barrier number concerns. -/
def State.barrierTeams (s : State) (t n : Nat) : List Nat := if n < 16 then [t] else s.clusterTeams t

/-- The members of a barrier with the number under which they arrive. -/
def State.barrierMembers (s : State) (t n : Nat) : List (Nat × Nat × Nat) :=
  (s.barrierTeams t n).flatMap (fun g =>
    let rank := match s.team? g with | some x => if n < 16 then 0 else x.rank | none => 0
    (s.teamThreads g).filterMap (fun p =>
      let u := s.thread p.1 p.2
      if u.st ≠ .exited && u.st ≠ .vacant && u.helper.isNone then some (p.1, p.2, rank * 4096 + u.tid) else none))

/-- A barrier whose every member has arrived completes: the phase advances, and its waiting threads are released with the
acquire of R186. -/
def State.barrierCheck (s : State) (t n : Nat) : State :=
  let b := s.barrier t n
  let ms := s.barrierMembers t n
  if b.arrived.isEmpty || !ms.all (fun m => b.arrived.contains m.2.2) then s
  else
    let s := s.updBarrier t n (fun b => { phase := b.phase + 1 })
    ms.foldl (fun s m =>
      match (s.thread m.1 m.2.1).st, (s.thread m.1 m.2.1).wait with
      | .barwait, some (.barrier j _) =>
        if j = n then ((if n < 16 then s else s.selfInvalidate m.1)).leaveWait m.1 m.2.1 else s
      | _, _ => s) s

/-- Every barrier of a team looked at again: a member has become EXITED. -/
def State.barriersCheck (s : State) (t : Nat) : State := (upTo 24).foldl (fun s n => s.barrierCheck t n) s

/-- Arrive (R185): in a helper nothing. -/
def State.arriveAt (s : State) (c k n : Nat) : State :=
  let th := s.thread c k
  if isHandlerKey k || th.helper.isSome then s
  else match s.team? th.team with
    | none => s
    | some t =>
      let me := (if n < 16 then 0 else t.rank) * 4096 + th.tid
      (s.updBarrier th.team n (fun b =>
        if b.arrived.contains me then b else { b with arrived := b.arrived ++ [me] })).barrierCheck th.team n

/-! ## Layers (R237 to R239) -/

/-- The key of a layer. -/
def layerKey (ctx n : Nat) : Nat := ctx * 4096 + n
/-- A layer of a context. -/
def State.layer (s : State) (ctx n : Nat) : Layer := KMap.lookD s.chr.layers (layerKey ctx n) {}
/-- A change of a layer. -/
def State.updLayer (s : State) (ctx n : Nat) (f : Layer → Layer) : State :=
  { s with chr := { s.chr with layers := KMap.alter s.chr.layers (layerKey ctx n) {} f } }
/-- The address of a layer's residency flag (Table 11.2). -/
def State.flagAddr (s : State) (ctx n : Nat) : Nat := s.regBits .chrFlags ctx 51 3 * 8 + 8 * n
/-- STATE of a layer's flag (R237): 0 absent, 1 fetching, 2 resident, 3 failed. -/
def State.layerState (s : State) (ctx n : Nat) : Nat := bitsOf (s.outsideLoad (s.flagAddr ctx n) 8) 1 0
/-- A demand for a layer, behind the demands already made (R240). -/
def State.demand (s : State) (ctx n : Nat) : State :=
  if (s.layer ctx n).demand.isSome then s
  else { (s.updLayer ctx n (fun l => { l with demand := some s.chr.demands })) with
    chr := { (s.updLayer ctx n (fun l => { l with demand := some s.chr.demands })).chr with demands := s.chr.demands + 1 } }

/-- A use taken by a team, with the acquire of R238. -/
def State.takeUse (s : State) (c t ctx n : Nat) : State :=
  let s := s.updTeam t (fun x => { x with uses := KMap.alter x.uses n 0 (· + 1) })
  (s.updLayer ctx n (fun l => { l with uses := l.uses + 1, last := s.time.ref })).selfInvalidate c

/-- A use given up by a team; nothing where it holds none (R239, R348). -/
def State.dropUse (s : State) (t ctx n : Nat) : State :=
  match s.team? t with
  | none => s
  | some x =>
    match KMap.look x.uses n with
    | none => s
    | some u =>
      let s := s.updTeam t (fun x => { x with
        uses := if u ≤ 1 then KMap.del x.uses n else KMap.put x.uses n (u - 1) })
      s.updLayer ctx n (fun l => { l with uses := l.uses - 1 })

/-- The examination of a layer's flag at commit (R238). blk is the block that the exit named. -/
def State.waitLayer (s : State) (c k n blk : Nat) : State :=
  let th := s.thread c k
  match s.ctxOf c k with
  | none => s.passOn c k blk
  | some x =>
    let wait (s : State) : State :=
      s.updThread c k (fun t => { t with st := .layerwait, wait := some (.layer n), next := blk, exec := none })
    match s.layerState x n with
    | 2 => (s.takeUse c th.team x n).passOn c k blk
    | 3 => (wait s).takeWaitTrap c k codeLAYER (BitVec.ofNat 64 noAddr) (layerInfo 0 x n)
    | 0 => wait (s.demand x n)
    | _ => wait s

/-! ## Retirement (R47) -/

/-- The block-table entries of a core that a resident team still needs (R47 step 4). -/
def State.trimBlocks (s : State) (c : Nat) : State :=
  let imgs := s.teams.filterMap (fun p =>
    if p.2.core = some c then (s.grid? p.2.grid).map (·.image) else none)
  s.updCore c (fun k => { k with
    blocks := k.blocks.filter (fun b => imgs.contains b.image)
    layout := if imgs.isEmpty then none else k.layout })

/-- The slots and registers of a team freed on its core (R47 step 4, R215 step 7). -/
def State.freeTeam (s : State) (t : Nat) : State :=
  match s.team? t with
  | none => s
  | some x => match x.core with
    | none => s
    | some c =>
      let slots := x.slots
      let s := s.updCore c (fun k => { k with threads := k.threads.filter (fun p => !slots.contains p.1) })
      (s.updTeam t (fun x => { x with core := none, bases := [] })).trimBlocks c

/-- Every layer use of a team released (R47 step 1). -/
def State.releaseUses (s : State) (t : Nat) : State :=
  match s.team? t with
  | none => s
  | some x =>
    let ctx := ((s.grid? x.grid).bind (·.ctx)).getD 0
    let s := x.uses.foldl (fun s u => s.updLayer ctx u.1 (fun l => { l with uses := l.uses - u.2 })) s
    s.updTeam t (fun x => { x with uses := [] })

/-- A team leaves for good (R47): layer uses, reservations with the slots, barrier state with its arrivals at the barriers of its
cluster, slots and registers. -/
def State.retireTeam (s : State) (t : Nat) : State :=
  match s.team? t with
  | none => s
  | some x =>
    let s := (s.releaseUses t).freeTeam t
    let s := s.updTeam t (fun x => { x with bars := [], retired := true, mark := none, parks := [], recs := [] })
    s.updGrid x.grid (fun g => { g with
      retired := g.retired + 1
      clusterBars := KMap.alter g.clusterBars (x.index / max 1 g.clusterSize) [] (fun m => KMap.mapVals m (fun b =>
        { b with arrived := b.arrived.filter (fun a => a / 4096 ≠ x.rank) })) })

/-- A team whose every slot is EXITED, none HELPER, retires. -/
def State.retireCheck (s : State) (t : Nat) : State :=
  let l := s.teamThreads t
  if l.isEmpty || !l.all (fun p => (s.thread p.1 p.2).st = .exited && (s.thread p.1 p.2).helper.isNone) then s
  else s.retireTeam t

/-! ## Helpers (R227 to R234) -/

/-- The trap of a helper that has been released (R234): one whose handler has not started leaves the station, any other resolves
with no effect on the slot. -/
def State.voidTraps (s : State) (c k : Nat) : State :=
  let mine (t : Trap) : Bool := t.thread = some k
  s.updCore c (fun q => { q with
    traps := q.traps.filter (fun t => !mine t)
    hslots := (q.hslots.filter (fun h => !mine h.2 || h.2.running || h.2.raised)).map (fun h =>
      if mine h.2 then (h.1, { h.2 with void := true }) else h) })

/-- A helper's slot returns to EXITED; its recruitment is changed by f, and one that its recruiter left is dropped with its
last helper. -/
def State.helperLeaves (s : State) (c k : Nat) (f : Recruitment → Recruitment) : State :=
  let th := s.thread c k
  match th.helper with
  | none => s
  | some h =>
    let s := s.updThread c k (fun t =>
      { t with st := .exited, helper := none, reserved := false, wait := none, exec := none, resv := none, hold := none
               replay := [], denied := none, pageRec := [] })
    let s := s.voidTraps c k
    let s := s.updTeam th.team (fun x =>
      match KMap.look x.recs h.recruiter with
      | none => x
      | some r =>
        let r := f r
        if r.orphan && r.done.length + r.released.length ≥ r.slots.length then { x with recs := KMap.del x.recs h.recruiter }
        else { x with recs := KMap.put x.recs h.recruiter r })
    s.retireCheck th.team

/-- A helper ends (R228): DONE is set. -/
def State.helperEnd (s : State) (c k : Nat) : State :=
  match (s.thread c k).helper with
  | none => s
  | some h => s.helperLeaves c k (fun r =>
      { r with done := r.done ++ [h.index], contrib := if r.orphan then [] else r.contrib })

/-- A helper is force-released now (R234): its contribution is cleared, DONE stays clear. -/
def State.releaseHelper (s : State) (c k : Nat) : State :=
  match (s.thread c k).helper with
  | none => s
  | some h => s.helperLeaves c k (fun r =>
      { r with released := r.released ++ [h.index], contrib := KMap.del r.contrib h.index })

/-- A helper is force-released: at once, or behind its current block (R234). -/
def State.forceRelease (s : State) (c k : Nat) : State :=
  match (s.thread c k).helper with
  | none => s
  | some h =>
    if (s.thread c k).exec.isSome then s.updThread c k (fun t => { t with helper := some { h with release := true } })
    else
      let s := s.updCore c (fun q => { q with regions := KMap.mapVals q.regions (fun g =>
        { g with entry := g.entry.filter (· ≠ k)
                 batch := g.batch.map (fun b => { b with batch := b.batch.filter (· ≠ k) }) }) })
      s.releaseHelper c k

/-- Every helper of a team force-released. -/
def State.forceReleaseAll (s : State) (t : Nat) : State :=
  (s.teamThreads t).foldl (fun s p => s.forceRelease p.1 p.2) s

/-- FoldOp (R231). -/
def foldOp (f : FoldOp) (a b : Word) : Word × FpFlags :=
  let x := a.toNat % 2 ^ 32
  let y := b.toNat % 2 ^ 32
  let w (p : Nat × FpFlags) : Word × FpFlags := (BitVec.ofNat 64 p.1, p.2)
  match f with
  | .iadd => (a + b, 0)
  | .fadd => w (fvAdd fmtF32 ⟨.rn, false, 0⟩ (fmtF32.value x) (fmtF32.value y))
  | .fmin => w (fMinMax fmtF32 false x y)
  | .fmax => w (fMinMax fmtF32 true x y)

/-- HRED at commit (R230). -/
def State.contribute (s : State) (c k : Nat) (v : Word) : State :=
  let th := s.thread c k
  match th.helper, s.team? th.team with
  | some h, some t =>
    match KMap.look t.recs h.recruiter with
    | none => s
    | some r =>
      let x : Word := match r.fop with | .iadd => v | _ => BitVec.ofNat 64 (v.toNat % 2 ^ 32)
      let (y, fl) := match KMap.look r.contrib h.index with
        | none => (x, (0 : FpFlags))
        | some q => foldOp r.fop q x
      let s := s.updTeam th.team (fun t => { t with
        recs := KMap.put t.recs h.recruiter { r with contrib := KMap.put r.contrib h.index y } })
      s.updThread c k (fun t => { t with fpflags := t.fpflags ||| fl })
  | _, _ => s

/-- A committed RECRUIT opens its recruitment: each reserved slot becomes a helper waiting on HBLK (R227, R228). -/
def State.openRecruitment (s : State) (c k : Nat) : State :=
  let th := s.thread c k
  match s.team? th.team with
  | none => s
  | some t =>
    match KMap.look t.recs th.tid with
    | none => s
    | some r =>
      if r.opened then s
      else
        let s := s.updTeam th.team (fun t => { t with recs := KMap.put t.recs th.tid { r with opened := true } })
        (List.zip (upTo r.slots.length) r.slots).foldl (fun s p =>
          match t.slotOf p.2 with
          | none => s
          | some j => s.updThread c j (fun u =>
              { st := .waiting, team := u.team, tid := u.tid, nregs := u.nregs, regs := [(0, r.arg)], next := r.hblk
                helper := some ⟨th.tid, p.1, false⟩ })) s

/-- The reservation of an abandoned RECRUIT released (R227). -/
def State.releaseReservation (s : State) (c k : Nat) : State :=
  let th := s.thread c k
  match s.team? th.team with
  | none => s
  | some t =>
    match KMap.look t.recs th.tid with
    | none => s
    | some r =>
      if r.opened then s
      else
        let s := s.updTeam th.team (fun t => { t with recs := KMap.del t.recs th.tid })
        r.slots.foldl (fun s tid => match t.slotOf tid with
          | some j => s.updThread c j (fun u => { u with reserved := false })
          | none => s) s

/-- Have all helpers of a recruitment ended or been released? -/
def Recruitment.over (r : Recruitment) : Bool := r.done.length + r.released.length ≥ r.slots.length

/-- Does a running handler serve the trap of a thread that p selects? -/
def Core.handlerRuns (k : Core) (p : Nat → Bool) : Bool :=
  k.hslots.any (fun h => h.2.running && (match h.2.thread with | some j => p j | none => false))

/-- May a recruitment of a team on a core be joined: every helper has ended or been released, and no handler of one still runs
(R232)? -/
def State.joinable (s : State) (c : Nat) (t : Team) (r : Recruitment) : Bool :=
  r.over && !(s.core c).handlerRuns (fun k => r.slots.any (fun tid => t.slotOf tid = some k))

/-- The fold of a join (R232): the committed value of REG with the contributions in index order, and the flags. -/
def Recruitment.fold (r : Recruitment) (v : Word) : Word × FpFlags :=
  (upTo r.slots.length).foldl (fun (acc : Word × FpFlags) i =>
    match KMap.look r.contrib i with
    | some x => if r.done.contains i then
        let y := foldOp r.fop acc.1 x
        (y.1, acc.2 ||| y.2) else acc
    | none => acc) (v, 0)

/-- R231, R232: the join of a JOINING thread. -/
def State.joinNow (s : State) (c k : Nat) : State :=
  let th := s.thread c k
  match th.st, th.wait, s.team? th.team with
  | .joining, some (.joinOf mreg), some t =>
    (match KMap.look t.recs th.tid with
     | none => s
     | some r =>
       if !s.joinable c t r then s
       else
         let (v, fl) := r.fold (th.reg r.reg)
         let mask := BitVec.ofNat 64 (r.done.foldl (fun acc i => acc + 2 ^ i) 0)
         let s := s.updTeam th.team (fun t => { t with recs := KMap.del t.recs th.tid })
         let s := s.updThread c k (fun u => { (u.setReg r.reg v).setReg mreg mask with fpflags := u.fpflags ||| fl })
         s.leaveWait c k)
  | _, _, _ => s

/-- R232: the join. -/
def execJoin (core thread : Nat) (s : State) : Host.Outcome State Fault Refusal := .next (s.joinNow core thread)

/-! ## Next blocks (R34, R228) -/

/-- Does the image hold the block, and does the helper rule allow the thread to enter it? -/
def State.blockAllowed (s : State) (c k blk : Nat) : Bool :=
  match s.block? (s.imageOf c k) blk with
  | none => false
  | some b => b.helper = (s.thread c k).helper.isSome

/-! ## Resolutions (R208, R209) -/

/-- The tokens of threads gone from a plane context. -/
def PlaneCtx.without (x : PlaneCtx) (p : Nat → Bool) : PlaneCtx :=
  let keep (l : List Arrival) : List Arrival := l.filter (fun a => a.tok.eos || !p a.tok.slot)
  { x with store := x.store.filter (fun e => !p e.tok.slot), chans := KMap.mapVals x.chans keep
           queues := KMap.mapVals x.queues keep, ends := x.ends.filter (fun e => !p e.thread) }

/-- Does a freeze hold the operand set or the token of a thread that p selects? -/
def Freeze.holds (z : Freeze) (p : Nat → Bool) : Bool :=
  z.held.any (fun f => (f.a ++ f.b ++ f.q).any (fun t => p t.slot)) || z.token.any (fun t => p t.slot)

/-- The tokens of threads gone from a tile; one frozen with what they held runs again. -/
def Tile.without (tl : Tile) (p : Nat → Bool) : Tile :=
  { tl with
    main := tl.main.without p
    hctx := tl.hctx.map (fun x => x.without p)
    pendingEmits := tl.pendingEmits.filter (fun e => e.tok.eos || !p e.tok.slot)
    frozen := match tl.frozen with
      | none => none
      | some z => if z.holds p then none else some z }

/-- Is a trap that of a tile which the removal of the threads' tokens lets run again, and not yet begun? -/
def Core.thawed (k : Core) (p : Nat → Bool) (t : Trap) : Bool :=
  t.kind = .freezing && !t.running && !t.raised && !t.performed &&
  ((KMap.lookD k.tiles t.tile {}).frozen.any (fun z => z.holds p))

/-- A core without the tokens and outstanding accesses of threads, and without the faults that they alone have raised. -/
def Core.without (k : Core) (p : Nat → Bool) : Core :=
  { k with
    tiles := KMap.mapVals k.tiles (fun tl => tl.without p)
    accesses := k.accesses.filter (fun a => !p a.2.thread)
    faultNet := k.faultNet.filter (fun f => match f.thread with | some j => !p j | none => true)
    traps := k.traps.filter (fun t => !k.thawed p t)
    hslots := k.hslots.filter (fun h => !k.thawed p h.2) }

/-- The tokens and outstanding accesses of threads removed in place from a core (R210, R215). -/
def State.purgeTokens (s : State) (c : Nat) (p : Nat → Bool) : State := s.updCore c (fun k => k.without p)

/-- A handler thread ends (R208, R210): its tokens go, and a frozen region's handler context is free again. -/
def State.endHandler (s : State) (c j : Nat) : State :=
  let k := 4096 + j
  let s := s.purgeTokens c (fun x => x = k)
  let s := (s.core c).regions.foldl (fun (s : State) (g : Nat × Region) =>
    if g.2.hplane = some k then s.updTile c (handlerTile (s.regionRect c g.1)) (fun tl => { tl with hctx := none }) else s) s
  s.updCore c (fun q => { q with
    threads := KMap.del q.threads k
    regions := KMap.mapVals q.regions (fun g => { g with
      hplane := if g.hplane = some k then none else g.hplane
      entry := g.entry.filter (· ≠ k)
      batch := g.batch.map (fun b => { b with batch := b.batch.filter (· ≠ k) }) }) })

/-- RAISE (R208): the trap's record enters the system queue; the slot stays held. -/
def State.raiseTrap (s : State) (c j : Nat) : State :=
  match KMap.look (s.core c).hslots j with
  | none => s
  | some t =>
    if t.raised then s
    else
      let s := if t.running then s.endHandler c j else s
      (s.updCore c (fun k => { k with
        hslots := KMap.put k.hslots j { t with raised := true, repairs := [], running := false, performed := true } })).queueKept
          t.record

/-- The operand of a side of the set that a frozen tile holds for its resolution. -/
def heldOf (z : Freeze) (side : Side) : List Token :=
  match z.held with
  | none => []
  | some f => match side with | .a => f.a | .b => f.b | .third => f.q

/-- The item of a frozen tile that an operand-list entry names, removed (R209 DROP): the first that is equal to it. -/
def dropItem (tl : Tile) (o : OpItem) : Tile :=
  let side : Side := match o.side with | 0 => .a | 1 => .b | _ => .third
  let kind : EntryKind := match o.loc with | 0 => .operand | 1 => .sticky | 2 => .marker | _ => .whole
  let gone (l : List Arrival) : List Arrival := match l.find? (fun a => a.tok = o.tok) with | some a => l.erase a | none => l
  let port := if o.loc = 4 then 8 + o.index else o.index
  if o.loc = 4 || o.loc = 5 then
    -- the token that froze the tile stands before those that are still on its port
    if tl.frozen.any (fun z => z.channel = port && z.token = some o.tok) then
      { tl with frozen := tl.frozen.map (fun z => { z with token := none }) }
    else { tl with main := tl.main.updPort port gone }
  else if tl.frozen.any (fun z => (heldOf z side).contains o.tok && z.site.slot = o.slot && o.loc ≠ 1 && o.loc ≠ 2) then
    -- an operand of the set that the tile holds for its resolution
    { tl with frozen := tl.frozen.map (fun z => { z with held := z.held.map (fun f => match side with
        | .a => { f with a := f.a.erase o.tok }
        | .b => { f with b := f.b.erase o.tok }
        | .third => { f with q := f.q.erase o.tok }) }) }
  else match tl.main.store.find? (fun e => e.slot = o.slot && e.kind = kind && e.tok = o.tok && (o.side = 3 || e.side = side)) with
    | some e => { tl with main := { tl.main with store := tl.main.store.erase e } }
    | none => tl

/-- The port that feeds a side of a slot of a plane; none for the mismatch slot. -/
def sidePort (p : Plane) (i : Instr) (r : Route) (side : Side) : Option Nat :=
  match side with
  | .a => planePort p r.sa
  | .b => planePort p r.sb
  | .third => i.third?.map (fun q => 8 + q.toNat)

/-- A token inserted as an operand of a slot exactly as if it had arrived on the port that feeds the side (R209 INSERT): it is
checked, diverted, taken or it freezes the tile, and where no entry is free it waits at the head of that port. -/
def State.insertToken (s : State) (c t : Nat) (r : Repair) : State :=
  let d := r.desc.toNat
  let slot := bitsOf d 36 32
  let side : Side := match bitsOf d 38 37 with | 0 => .a | 1 => .b | _ => .third
  let tok := (Token.ofTag (bitsOf d 31 0) r.data).fit
  let p := (s.ctx c t false).plane
  match KMap.look p.slots slot with
  | none => s
  | some b => match slotInstr b with
    | none => s
    | some i => match i.route? with
      | none => s
      | some rt => match sidePort p i rt side with
        | some port =>
          let a : Arrival := { tok := tok, cycle := s.cycle c }
          let s := s.updCtx c t false (fun x => x.updPort port (fun l => a :: l))
          s.putHead c t port false a (s.isFull c t (s.ctx c t false))
        | none =>
          ({ s with nextId := s.nextId + 1 } : State).updCtx c t false (fun x => { x with store := x.store ++
            [{ slot := slot, side := side, kind := .operand, tok := tok, cycle := s.cycle c, seq := s.nextId }] })

/-- One repair of a frozen tile (R209) that is made before it runs again: a drop, or a token that leaves. -/
def State.repairTile (s : State) (c t : Nat) (ops : List OpItem) (r : Repair) : State :=
  let d := r.desc.toNat
  match r.kind with
  | .reg => s
  | .drop => match ops[d % 256]? with
    | some o => s.updTile c t (fun tl => dropItem tl o)
    | none => s
  | .insert => s
  | .emit =>
    let tok := { (Token.ofTag (bitsOf d 31 0) r.data).fit with die := dieOf c }
    s.updTile c t (fun tl => { tl with pendingEmits := tl.pendingEmits ++ [⟨bitsOf d 36 32, tok, none, true⟩] })

/-- The entries that put a held operand set back so that it fires again (R208 RETRY). -/
def heldEntries (f : Firing) (i : Instr) (r : Route) : List Entry :=
  let mk (side : Side) (l : List Token) : List Entry :=
    l.map (fun t => { slot := f.site.slot, side := side, kind := if collects i r side then .whole else .operand
                      tok := t, cycle := f.arrived, seq := 0, port := f.port })
  (if (r.sa.isToken || r.sa = .none) && stickySide r.ta ≠ some .a then mk .a f.a else []) ++
  (if r.sb.isToken && stickySide r.ta ≠ some .b then mk .b f.b else []) ++
  (match i.third? with | some _ => mk .third f.q | none => [])

/-- The bounds of R222 of a die start anew at the resolution of a freezing fault. -/
def State.restartBounds (s : State) (c : Nat) : State :=
  let d := dieOf c
  { s with
    teams := KMap.mapVals s.teams (fun t =>
      if t.core.any (fun x => dieOf x = d) then
        { t with mark := t.mark.map (fun m => { m with restart := s.nowDie d, slow := (s.distOf d).slow }) } else t)
    dist := KMap.mapKV s.dist (fun i x =>
      if i = d && x.preempting then { x with writtenAt := s.nowDie d, slowAt := x.slow } else x) }

/-- The tile runs again: with retry the held set, or the held token, is put back; else it is discarded. -/
def State.unfreeze (s : State) (c t : Nat) (retry : Bool) : State :=
  match (s.tile c t).frozen with
  | none => s
  | some z =>
    let s := (s.updTile c t (fun tl => { tl with frozen := none })).restartBounds c
    if !retry then s
    else
      let s := match z.token with
        | some tok => if z.channel = 15 then s else
            s.updCtx c t false (fun x => x.updPort z.channel (fun l => ⟨tok, s.cycle c, false⟩ :: l))
        | none => s
      match z.held with
      | none => s
      | some f => match slotInstr f.bits with
        | none => s
        | some i => match i.route? with
          | none => s
          | some r =>
            let n := s.nextId
            let back := (heldEntries f i r).mapIdx (fun j e => { e with seq := n + j })
            let s := { s with nextId := n + back.length }
            let mark (e : Entry) : Bool :=
              r.ta = .first && e.kind = .marker && e.slot = f.site.slot && f.a.any (fun a => sameTag a e.tok)
            s.updCtx c t false (fun x => { x with store := back ++ x.store.filter (fun e => !mark e) })

/-- The tokens that a trap's repairs insert, in order (R209): they arrive at the tile that runs again. -/
def State.applyInserts (s : State) (c : Nat) (t : Trap) : State :=
  (t.repairs.filter (fun r => r.kind = .insert)).foldl (fun s r => s.insertToken c t.tile r) s

/-- The repairs of a trap applied in order (R209). -/
def State.applyRepairs (s : State) (c : Nat) (t : Trap) : State :=
  t.repairs.foldl (fun s r =>
    match r.kind, t.thread with
    | .reg, some k => if t.kind = .freezing then s
        else s.updThread c k (fun u => u.setReg (bitsOf r.desc.toNat 6 0) (r.data.extractLsb' 0 64))
    | _, _ => s.repairTile c t.tile t.ops r) s

/-- Does the action do what Table 10.6 names for the kind, rather than act as RAISE? -/
def actionAllowed (kind : TrapKind) (afterAtomic : Bool) (act : Nat) : Bool :=
  match kind, act with
  | .exit, 1 | .exit, 2 => !afterAtomic
  | .exit, 3 | .exit, 5 => true
  | .wait, 1 | .wait, 2 | .wait, 3 | .wait, 5 => true
  | .freezing, 1 | .freezing, 4 => true
  | _, _ => false

/-- What an allowed action does to the trapped thread or the frozen tile (Table 10.6). -/
def State.resolveEffect (s : State) (c : Nat) (t : Trap) (act blk : Nat) (arg : Word) : State :=
  match t.kind with
  | .freezing => ((s.applyRepairs c t).unfreeze c t.tile (act = 1)).applyInserts c t
  | _ =>
    match t.thread with
    | none => s
    | some k =>
      let th := s.thread c k
      let s := if act = 5 || t.void then s else s.applyRepairs c t
      if t.void then s
      else match act with
      | 1 =>
        (match t.kind, t.waitOf with
         | .wait, some (.layer n) => s.waitLayer c k n th.next
         | .wait, some w => s.updThread c k (fun u => { u with st := .sleeping, wait := some w })
         | _, _ => s.enterWaiting c k th.next)
      | 2 =>
        (match t.kind, t.waitOf with
         | .wait, some (.layer n) => s.enterSleep c k (.layerAt arg.toNat n)
         | .wait, some (.promise _ id reg sc) => s.enterSleep c k (.promise arg.toNat id reg sc)
         | _, _ => s.enterSleep c k (.retryAt arg.toNat))
      | 3 =>
        if s.blockAllowed c k blk then s.enterWaiting c k blk
        else
          let r := { s.chargeRecord c k { code := 1, kind := 0, info := BitVec.ofNat 64 blk, block := some th.next,
                                          time := BitVec.ofNat 64 (s.now c) } with tile := none }
          s.takeExitTrap c k 1 r false
      | _ =>
        if th.helper.isSome then s.releaseHelper c k
        else
          let s := s.enterExited c k
          let s := s.updTeam th.team (fun x =>
            match KMap.look x.recs th.tid with
            | none => x
            | some r => if r.over then { x with recs := KMap.del x.recs th.tid }
                else { x with recs := KMap.put x.recs th.tid { r with orphan := true } })
          (s.barriersCheck th.team).retireCheck th.team

/-- A resolution by TRRET (R208): once only. The slot is freed when the handler thread ends. -/
def State.trret (s : State) (c j act blk : Nat) (arg : Word) : State :=
  match KMap.look (s.core c).hslots j with
  | none => s
  | some t =>
    if t.performed then s
    else if !actionAllowed t.kind t.afterAtomic act then s.raiseTrap c j
    else (s.updCore c (fun k => { k with hslots := KMap.put k.hslots j { t with performed := true, repairs := [] } })).resolveEffect
      c t act blk arg

/-- A resolution by FST_RESOLVE of a raised trap (R208): the slot is freed; an action that acts as RAISE leaves all as it
is. -/
def State.fstResolve (s : State) (c j act blk : Nat) (arg : Word) : State :=
  match KMap.look (s.core c).hslots j with
  | none => s.setRegBit .fstErr 0 2
  | some t =>
    if !t.raised then s.setRegBit .fstErr 0 2
    else if !actionAllowed t.kind t.afterAtomic act then s
    else (s.updCore c (fun k => { k with hslots := KMap.del k.hslots j })).resolveEffect c t act blk arg

end Sys2Proof.Machine
end

