-- ==== Sys2Proof/Machine/Dealer.lean ====
section
/-! DEFINITION. The Dealer (09): the choice of a block (R172 to R175), plane loads (R179), injection (R177, R180, R181), the
end of a batch (R72, R175), what a thread's exit does (R33 to R39, R197), and the barrier watchdog (R187). -/

namespace Sys2Proof.Machine

/-! ## Choosing a block (R172 to R175) -/

/-- A block of a region with its waiting threads. -/
structure Candidate where
  image : Nat
  block : Nat
  threads : List Nat
  deriving DecidableEq, Repr

/-- The blocks of a region on which threads wait, in ascending block number. -/
def State.candidates (s : State) (c r : Nat) : List Candidate :=
  let w := s.waitingIn c r
  let keys := sortBy (fun (p : Nat × Nat) => p.2 * 2 ^ 32 + p.1)
    (w.foldl (fun (acc : List (Nat × Nat)) x => if acc.contains (x.2.1, x.2.2) then acc else acc ++ [(x.2.1, x.2.2)]) [])
  keys.map (fun p => ⟨p.1, p.2, (w.filter (fun x => x.2 = p)).map (·.1)⟩)

/-- The waiting threads of a class on a candidate. -/
def State.ofClass (s : State) (c n : Nat) (x : Candidate) : List Nat := x.threads.filter (fun k => s.classOf c k = n)

/-- MostWaiting (R172): the lower block number of equals. -/
def State.mostWaiting (s : State) (c n : Nat) (l : List Candidate) : Option Candidate :=
  greatestBy (fun x => (s.ofClass c n x).length) (l.filter (fun x => !(s.ofClass c n x).isEmpty))

/-- Is the thread a due class-2 thread (R182)? -/
def State.isDue (s : State) (c k : Nat) : Bool := s.classOf c k = 2 && (s.thread c k).due.isSome

/-- The earliest due time on a candidate. -/
def State.earliestDue (s : State) (c : Nat) (x : Candidate) : Nat :=
  ((x.threads.filterMap (fun k => if s.isDue c k then (s.thread c k).due else none)).foldl
    (fun (m : Option Nat) d => match m with | none => some d | some y => some (min y d)) none).getD 0

/-- The block-table entry of a block (R31). -/
def State.entryOf (s : State) (c : Nat) (x : Candidate) : BlockEntry :=
  ((s.core c).blocks.find? (fun b => b.image = x.image && b.block = x.block)).getD ⟨x.image, x.block, 0, false⟩

/-- The line of R172 through which a choice returns, 1 to 5, and the block. -/
def State.chooseFrom (s : State) (c : Nat) (l : List Candidate) : Option (Nat × Candidate) :=
  match s.mostWaiting c 0 l with
  | some x => some (1, x)
  | none =>
    match leastBy (fun x => s.earliestDue c x) (l.filter (fun x => x.threads.any (fun k => s.isDue c k))) with
    | some x => some (2, x)
    | none =>
      match greatestBy (fun x => (s.entryOf c x).age)
          (l.filter (fun x => (s.entryOf c x).promoted && !(s.ofClass c 1 x).isEmpty)) with
      | some x => some (3, x)
      | none => match s.mostWaiting c 1 l with
        | some x => some (4, x)
        | none => (s.mostWaiting c 2 l).map (fun x => (5, x))

/-- Ages and promotion at a choice (R174): in a class-1 round every other block with waiting class-1 threads ages. -/
def State.ageBlocks (s : State) (c line : Nat) (l : List Candidate) (x : Candidate) : State :=
  let ones := l.filter (fun y => !(s.ofClass c 1 y).isEmpty)
  let p := min 8 ones.length
  s.updCore c (fun k => { k with blocks := k.blocks.map (fun b =>
    if b.image = x.image && b.block = x.block then { b with age := 0, promoted := false }
    else if (line = 3 || line = 4) && ones.any (fun y => y.image = b.image && y.block = b.block) then
      { b with age := b.age + 1, promoted := b.promoted || b.age + 1 ≥ p }
    else b) })

/-- The order of injection within a batch (R177, R213): replayed threads in ascending $tid, replayed helpers in ascending
index, then the others in ascending slot. -/
def State.injectKey (s : State) (c k : Nat) : Nat :=
  let t := s.thread c k
  if t.replay.isEmpty then 2 ^ 20 + k
  else match t.helper with | some h => 2 ^ 16 + h.index | none => t.tid

/-- A block of an image as a die's store holds it: its own copy where the die has reloaded the image alone (R91). -/
def State.blockOn (s : State) (d img blk : Nat) : Option Block :=
  (s.image? img).bind (fun i => match KMap.look i.copies d with
    | some x => KMap.look x.2 blk
    | none => KMap.look i.blocks blk)

/-- The planes of a block on a region by tile; a handler block stands on the region's handler tile alone, mirrored on column
7 (R207). -/
def State.blockPlanes (s : State) (c r img blk : Nat) : KMap Plane :=
  let rect := s.regionRect c r
  match s.blockOn (dieOf c) img blk with
  | none => []
  | some b =>
    if b.handler then
      let t := handlerTile rect
      rect.tiles.map (fun u =>
        if u = t then (u, { (KMap.lookD b.planes 0 {}) with block := some blk, image := img, rect := rect, mirrored := rect.x ≠ 0 })
        else (u, { block := some blk, image := img, rect := rect }))
    else rect.tiles.map (fun u => (u, { (KMap.lookD b.planes u {}) with block := some blk, image := img, rect := rect }))

/-- The entry channels of a block on a region (R75, R207). -/
def State.blockEntries (s : State) (c r img blk : Nat) : List (Nat × Nat) :=
  let rect := s.regionRect c r
  match s.block? img blk with
  | none => []
  | some b =>
    if b.handler then
      let t := handlerTile rect
      b.entries.map (fun e => (t, if rect.x ≠ 0 && e.2 = 6 then 2 else if rect.x ≠ 0 && e.2 = 7 then 3 else e.2))
    else b.entries

/-- The planes of a round that miss in the configuration cache (R179). -/
def State.planeMisses (s : State) (c img blk : Nat) (tiles : List Nat) : List (Nat × Nat × Nat) :=
  (tiles.map (fun t => (img, blk, t))).filter (fun x => !(KMap.lookD s.cfgCache c []).contains x)

/-- The fabric cycle of the first plane after a choice (R179): 3 cycles, and for misses 64 more with 512 bytes a cycle. -/
def State.firstPlaneAt (s : State) (c img blk : Nat) (tiles : List Nat) : Nat :=
  let m := (s.planeMisses c img blk tiles).length
  s.cycle c + 3 + (if m = 0 then 0 else 64 + ceilDiv m 2)

/-- A configuration cache with planes entered, the oldest given up beyond 1,024 less the entries that lasting failures have
disabled (R91, R264, log entry 12). -/
def State.cacheFill (s : State) (c : Nat) (l : List (Nat × Nat × Nat)) : State :=
  { s with cfgCache := KMap.alter s.cfgCache c [] (fun m => let n := m ++ l; n.drop (n.length - (1024 - s.worn 5 c))) }

/-- May the Dealer choose for the region now? It does so in the cycle after the EOS of the last batch (R172), whatever planes of
earlier rounds are still to come. -/
def State.mayChoose (s : State) (c r : Nat) : Bool :=
  let g := s.region c r
  s.dieRuns (dieOf c) && decide (r < (s.regionsOf c).length) && g.batch.isNone && !g.held &&
  !(s.distOf (dieOf c)).preempting && !s.rpl.draining &&
  (match g.chooseAt with | some t => decide (t ≤ s.cycle c) | none => true)

/-- The handler threads that wait for a frozen region's handler tile, by the SEQ of their trap (R207). -/
def State.frozenHandlers (s : State) (c r : Nat) : List Nat :=
  sortBy (fun k => match s.servedTrap c k with | some t => t.record.seq.toNat | none => 0)
    ((s.core c).threads.filterMap (fun p =>
      if isHandlerKey p.1 && p.2.st = .waiting && p.2.lastRegion = r && !s.stopped c p.1 && !s.invHeld c p.1 then some p.1
      else none))

/-- A frozen region takes the block of its first handler (R207): the shadow plane of the handler tile is displaced, and the
handler's plane is to be loaded there. -/
def State.chooseFrozen (s : State) (c r : Nat) : State :=
  let g := s.region c r
  match s.frozenHandlers c r with
  | [] => s
  | k :: _ =>
    if g.hplane.isSome || g.held then s
    else
      let t := handlerTile (s.regionRect c r)
      let s := match (s.tile c t).shadow with
        | none => s
        | some p => (s.updRegion c r (fun g => { g with displaced := g.displaced ++ [(t, p)] })).updTile c t
            (fun tl => { tl with shadow := none })
      let th := s.thread c k
      (s.updRegion c r (fun g => { g with hplane := some k })).updThread c k (fun u =>
        { u with st := .running, lastInj := s.firstPlaneAt c (s.imageOf c k) th.next [t] })

/-- The choice of a block for a region that is not frozen, with its batch and the load of its planes. -/
def State.choosePlain (s : State) (c r : Nat) : State :=
  let l := s.candidates c r
  match s.chooseFrom c l with
  | none => s.updRegion c r (fun g => { g with idle := true, chooseAt := none })
  | some (line, x) =>
    let s := s.ageBlocks c line l x
    let zeros := l.flatMap (s.ofClass c 0)
    let ks := sortBy (fun k => s.injectKey c k)
      (x.threads.filter (fun k => !(s.classOf c k = 2 && !s.isDue c k && line ≠ 5)))
    let s := ks.foldl (fun s k => s.updThread c k (fun t => { t with st := .running })) s
    let tiles := s.regionTiles c r
    let load : PlaneLoad :=
      { image := x.image, block := x.block, tiles := tiles, first := true, cycle := s.firstPlaneAt c x.image x.block tiles }
    s.updRegion c r (fun g => { g with
      batch := some { image := x.image, block := x.block, batch := ks, class0 := decide (line = 1), known := zeros }
      idle := false, chooseAt := none, window := s.regN .dlrInjwin, loads := g.loads ++ [load] })

/-- R172: the choice of a block for a region. -/
def execChooseBlock (core region : Nat) (s : State) : Host.Outcome State Fault Refusal :=
  .next (if s.regionFrozen core region && s.dieRuns (dieOf core) then
      let s := s.chooseFrozen core region
      if s.mayChoose core region && !(s.candidates core region).isEmpty then s.choosePlain core region else s
    else if s.mayChoose core region then s.choosePlain core region else s)

/-! ## Plane loads (R179, R207) -/

/-- The tiles of the i-th load of a list whose shadow plane is free for it: no earlier load owes the tile a plane. -/
def State.loadTiles (s : State) (c : Nat) (ls : List PlaneLoad) (i : Nat) : List Nat :=
  match ls[i]? with
  | none => []
  | some l => l.tiles.filter (fun t => (s.tile c t).shadow.isNone && !(ls.take i).any (fun y => y.tiles.contains t))

/-- Can the i-th load of a list bring planes now: its time has come, its planes are at hand, and a shadow plane is free? -/
def State.loadReady (s : State) (c : Nat) (ls : List PlaneLoad) (i : Nat) : Bool :=
  match ls[i]? with
  | none => false
  | some l =>
    decide (l.cycle ≤ s.cycle c) && !(s.loadTiles c ls i).isEmpty &&
    (l.planes.isSome || (match s.image? l.image with | some x => x.dies.contains (dieOf c) | none => false))

/-- The next group of the earliest load that can bring planes: its first plane alone, then four in every cycle. From its first
group on a load holds the planes that it brings, old ones after an invalidation that comes between (R91). A tile whose shadow
plane is still held takes its own later. -/
def State.loadGroup (s : State) (c r : Nat) : State :=
  let ls := (s.region c r).loads
  match (upTo ls.length).find? (fun i => s.loadReady c ls i) with
  | none => s
  | some i => match ls[i]? with
    | none => s
    | some l =>
      let planes := l.planes.getD (s.blockPlanes c r l.image l.block)
      let now := (s.loadTiles c ls i).take (if l.first then 1 else 4)
      let s := now.foldl (fun s t => s.updTile c t (fun tl => { tl with shadow := some (KMap.lookD planes t {}) })) s
      let s := s.cacheFill c (s.planeMisses c l.image l.block now)
      let rest := l.tiles.filter (fun t => !now.contains t)
      let l' : PlaneLoad := { l with tiles := rest, first := false, cycle := s.cycle c + 1, planes := some planes }
      s.updRegion c r (fun g => { g with loads := if rest.isEmpty then ls.eraseIdx i else ls.set i l' })

/-- The handler's plane on a frozen region's handler tile, or a displaced shadow plane reloaded after the last handler
(R207). -/
def State.loadHandlerPlane (s : State) (c r : Nat) : State :=
  let g := s.region c r
  let t := handlerTile (s.regionRect c r)
  match g.hplane with
  | some k =>
    let th := s.thread c k
    let img := s.imageOf c k
    let stored := match s.image? img with | some i => i.dies.contains (dieOf c) | none => false
    if (s.tile c t).hctx.isSome || s.cycle c < th.lastInj || !stored then s
    else
      let p := KMap.lookD (s.blockPlanes c r img th.next) t {}
      (s.cacheFill c (s.planeMisses c img th.next [t])).updTile c t (fun tl =>
        { tl with hctx := some { plane := { p with handler := true } } })
  | none =>
    if (s.frozenHandlers c r).isEmpty then
      let s := g.displaced.foldl (fun s d => s.updTile c d.1 (fun tl => { tl with shadow := some d.2 })) s
      s.updRegion c r (fun g => { g with displaced := [] })
    else s

/-- R179, R207: planes reach shadow planes. -/
def execShadowPlaneLoad (core region : Nat) (s : State) : Host.Outcome State Fault Refusal :=
  .next ((s.loadGroup core region).loadHandlerPlane core region)

/-! ## Injection (R177, R180, R181) -/

/-- The entry token of a thread (R32). -/
def entryToken (c k : Nat) : Token := { die := dieOf c, slot := k }

/-- The hash of R180. -/
def State.spinHash (s : State) (c k : Nat) (b : Block) (blk : Nat) : BitVec 32 :=
  let t := s.thread c k
  BitVec.ofNat 32 (crc32c (BitVec.ofNat 8 blk :: b.linRegs.flatMap (fun n => leBytes 8 (t.reg n).toNat)))

/-- The spin detector at an injection (R181). -/
def State.spinUpdate (s : State) (c k blk : Nat) (h : BitVec 32) : State :=
  s.updThread c k (fun t =>
    let t := if t.spinB = some blk && t.spinH = h then { t with spinN := t.spinN + 1 }
             else { t with spinB := some blk, spinH := h, spinN := 0, cls := 1 }
    { t with cls := if t.spinN ≥ 4 then 2 else t.cls, due := none, lastInj := s.now c })

/-- Threads of a region in flight (R177). -/
def State.inFlight (s : State) (c r : Nat) : Nat :=
  ((s.core c).threads.filter (fun p => match p.2.exec with | some e => e.region = r | none => false)).length

/-- Entries of the store buffer of a core (Table 1.2). -/
def storeBufferSize : Nat := 2048

/-- The conditions 2 to 5 of R177 for a block on a region. An entry tile has made the plane of the round active when no plane is
still to come to it or stands in its shadow. -/
def State.injectOk (s : State) (c r img blk : Nat) (b : Block) : Bool :=
  decide (s.inFlight c r < (s.region c r).window) && decide ((s.core c).bufUsed + b.budget ≤ storeBufferSize) &&
  (s.regionTiles c r).all (fun t => (s.tile c t).main.used + 8 ≤ s.storeCap c t (s.tile c t).main) &&
  (s.blockEntries c r img blk).all (fun e =>
    let x := (s.tile c e.1).main
    x.plane.block = some blk && x.plane.image = img && x.room e.2 && (s.tile c e.1).shadow.isNone &&
    !(s.region c r).loads.any (fun l => l.tiles.contains e.1))

/-- A thread injected: its execution begins, the detector looks at it, and its entry tokens are present in the same cycle
(R380), each taken at once where its channel holds nothing else. -/
def State.inject (s : State) (c r k img blk : Nat) (b : Block) (handler : Bool) : State :=
  let s := s.spinUpdate c k blk (s.spinHash c k b blk)
  let s := s.updThread c k (fun t =>
    { t with st := .running, next := blk, queued := false, replay := [], lastRegion := r
             exec := some { image := img, block := blk, region := r } })
  let s := s.updCore c (fun q => { q with bufUsed := q.bufUsed + b.budget })
  let taken := (s.blockEntries c r img blk).filter (fun e => ((s.ctx c e.1 handler).port e.2).isEmpty)
  let s := (s.blockEntries c r img blk).foldl (fun s e =>
    s.updCtx c e.1 handler (fun x => x.updPort e.2 (fun l => l ++ [⟨entryToken c k, s.cycle c, false⟩]))) s
  { s with agenda := taken.map (fun e => .event (.tokenArrive c e.1 e.2 handler)) ++ s.agenda }

/-- The next thread of a region's batch: the batch before the entry queue. -/
def State.nextToInject (s : State) (c : Nat) (g : Region) : Option Nat :=
  match g.batch with
  | none => none
  | some b => (b.batch ++ g.entry).find? (fun k => !s.stopped c k && !s.invHeld c k && s.teamInjects c k)

/-- The injection of a batch's next thread. -/
def State.injectPlain (s : State) (c r : Nat) : State :=
  let g := s.region c r
  match g.batch, s.nextToInject c g with
  | some b, some k =>
    (match s.blockOn (dieOf c) b.image b.block with
     | none => s
     | some blk =>
       let spaced := match g.lastInj with | none => true | some t => decide (t + blk.ii ≤ s.cycle c)
       if !spaced || b.injected ≥ 4096 || g.held || (s.distOf (dieOf c)).preempting || s.rpl.draining ||
          !s.injectOk c r b.image b.block blk then s
       else
         let s := s.updRegion c r (fun g => { g with
           entry := g.entry.filter (· ≠ k), lastInj := some (s.cycle c)
           batch := g.batch.map (fun b => { b with batch := b.batch.filter (· ≠ k), injected := b.injected + 1 }) })
         s.inject c r k b.image b.block blk false)
  | _, _ => s

/-- The injection of a handler thread into the handler context of a frozen region (R207). -/
def State.injectFrozen (s : State) (c r : Nat) : State :=
  let g := s.region c r
  let t := handlerTile (s.regionRect c r)
  match g.hplane with
  | none => s
  | some k =>
    let th := s.thread c k
    let img := s.imageOf c k
    match s.blockOn (dieOf c) img th.next, (s.tile c t).hctx with
    | some b, some x =>
      if th.exec.isSome || x.plane.block ≠ some th.next || s.stopped c k || g.held ||
         !decide ((s.core c).bufUsed + b.budget ≤ storeBufferSize) then s
      else s.inject c r k img th.next b true
    | _, _ => s

/-- R177: at most one thread of a region in a fabric cycle. -/
def execInjectThread (core region : Nat) (s : State) : Host.Outcome State Fault Refusal :=
  .next ((s.injectPlain core region).injectFrozen core region)

/-- R182: the waiting class-2 threads of a core whose time has passed become due. -/
def execSpinDue (core : Nat) (s : State) : Host.Outcome State Fault Refusal :=
  let half := s.regN .dlrSpinPeriod / 2
  let now := s.now core
  .next (s.updCore core (fun k => { k with threads := KMap.mapVals k.threads (fun t =>
    if t.st = .waiting && t.cls = 2 && t.due.isNone && decide (t.lastInj + half ≤ now) then
      { t with due := some (t.lastInj + half) } else t) }))

/-! ## The end of a batch (R72, R175) -/

/-- The tiles of a block whose plane names no input channel: the injection is their EOS (R72). -/
def State.unnamedTiles (s : State) (c r img blk : Nat) : List Nat :=
  (s.blockPlanes c r img blk).filterMap (fun p =>
    if !p.2.slots.isEmpty && (namedChannels p.2).isEmpty then some p.1 else none)

/-- The batch ends (R175): EOS on the entry edges, threads not injected return to their waiting vector. -/
def State.endBatch (s : State) (c r : Nat) : State :=
  let g := s.region c r
  match g.batch with
  | none => s
  | some b =>
    let s := (s.blockEntries c r b.image b.block).foldl (fun s e =>
      s.updCtx c e.1 false (fun x => x.updPort e.2 (fun l => l ++ [⟨eosToken (dieOf c), s.cycle c + 1, false⟩]))) s
    let s := (s.unnamedTiles c r b.image b.block).foldl (fun s t =>
      s.updCtx c t false (fun x => { x with eos := KMap.alter x.eos eosKey 0 (· + 1) })) s
    let s := s.updRegion c r (fun g => { g with batch := none, entry := [], chooseAt := some (s.cycle c + 1) })
    (b.batch ++ g.entry).foldl (fun s k =>
      (s.enterWaiting c k (s.thread c k).next).updThread c k (fun t => { t with queued := false })) s

/-- Does one of the events of R175 end the batch: nothing is left to inject, 4,096 threads have been injected, a class-0 thread has
come to wait on the region since the choice, or a due class-2 thread waits on another block, once the due threads of the batch
itself have been injected (R182)? A pre-emption or the drain for a checkpoint ends it too (R220, R274). -/
def State.batchEnds (s : State) (c r : Nat) : Bool :=
  let g := s.region c r
  match g.batch with
  | none => false
  | some b =>
    (b.batch.isEmpty && g.entry.isEmpty) || b.injected ≥ 4096 || (s.distOf (dieOf c)).preempting || s.rpl.draining ||
    (s.waitingIn c r).any (fun x => isHandlerKey x.1 && !b.known.contains x.1) ||
    (!b.batch.any (fun k => s.isDue c k) &&
      (s.waitingIn c r).any (fun x => s.isDue c x.1 && !(x.2.1 = b.image && x.2.2 = b.block)))

/-- R72, R175. -/
def execBatchEndEos (core region : Nat) (s : State) : Host.Outcome State Fault Refusal :=
  .next (if s.batchEnds core region && !(s.region core region).held then s.endBatch core region else s)

end Sys2Proof.Machine
end

