-- ==== Sys2Proof/Machine/Exit.lean ====
section
/-! DEFINITION. A thread's exit at the Dealer (R33, R34, R37 to R39, R197): when the Dealer acts, the commit of a block with
its actions, its abandonment, and the barrier watchdog (R187). -/

namespace Sys2Proof.Machine

/-! ## When the Dealer acts (R197) -/

/-- May the Dealer act on the thread's exit: every access has passed its checks and replied and has its place on the chain, no
fault token is on its way (R138, R197)? -/
def State.exitReady (s : State) (c k : Nat) : Bool :=
  match s.exec? c k with
  | none => false
  | some e =>
    e.reports.all (fun x => x.before.isSome) && !(s.core c).accesses.any (fun a => a.2.thread = k) &&
    !(s.core c).faultNet.any (fun f => f.thread = some k) && s.exitsDone c k

/-! ## Actions of a commit (R37, R372) -/

/-- The actions that enter a wait (R372). -/
def CommitAct.isWait : CommitAct → Bool
  | .barWait _ _ | .sleep _ _ | .waitt _ _ | .hjoin _ | .waitly _ => true
  | _ => false

/-- The scope at which an action follows the block's writes: it performs only once they are visible there (R91, R186, R229). -/
def CommitAct.after : CommitAct → Option Scope
  | .arrive n _ => some (if n < 16 then .team else .cluster)
  | .recruit | .hend | .hred _ => some .team
  | .cfginv _ _ => some .device
  | _ => none

/-- Does HJOIN find no open recruitment (R232)? One that an EXIT of its recruiter has closed is none. -/
def State.noRecruitment (s : State) (c k : Nat) : Bool :=
  match s.team? (s.thread c k).team with
  | none => true
  | some t => match KMap.look t.recs (s.thread c k).tid with
    | none => true
    | some r => !r.opened || r.orphan

/-- A handler's fault at its commit (R209, R210): its token goes to the station. -/
def State.handlerProt (s : State) (c k : Nat) : State :=
  s.takeExitTrap c k codePROT { s.chargeRecord c k { code := codePROT, kind := 5, time := BitVec.ofNat 64 (s.now c) } with
    info := BitVec.ofNat 64 (63 * 256) } false

/-- Is the descriptor of a repair allowed (R378)? -/
def State.repairOk (s : State) (c : Nat) (t : Trap) (kind : RepairKind) (data : Beat) (desc : Word) : Bool :=
  let d := desc.toNat
  let frozen : Bool := t.kind = .freezing
  let beatOk : Bool := bitsOf d 27 26 ≠ 0 || data.toNat < 2 ^ 64
  t.repairs.length < 64 &&
  (match kind with
   | .reg => !frozen && d < 128 && (match t.thread with
      | some k => decide (d < (if isHandlerKey k then 64 else (s.thread c k).nregs)) | none => false)
   | .drop => frozen && d < 256 && decide (d < t.ops.length) && !t.dropped.contains d
   | .insert => frozen && bitsOf d 63 39 = 0 && bitsOf d 1 0 = 0 && beatOk &&
      (match KMap.look (s.tile c t.tile).main.plane.slots (bitsOf d 36 32) with
       | none => false
       | some b => match slotInstr b with
         | none => false
         | some i => match i.route? with
           | none => false
           | some r => match bitsOf d 38 37 with
             | 0 => r.sa.isToken || r.sa = .none
             | 1 => r.sb.isToken
             | 2 => i.third?.isSome
             | _ => false)
   | .emit => frozen && bitsOf d 63 37 = 0 && beatOk &&
      (let x := bitsOf d 36 32; (1 ≤ x && x ≤ 12) || x = 14 || x = 15))

/-- TRPREP at commit: the repair is appended, or it is a handler fault (R209, R378). -/
def State.prepRepair (s : State) (c k : Nat) (kind : RepairKind) (data : Beat) (desc : Word) : State :=
  if !isHandlerKey k then s
  else match KMap.look (s.core c).hslots (k - 4096) with
    | none => s
    | some t =>
      if t.performed then s
      else if s.repairOk c t kind data desc then
        let t' : Trap := { t with
          repairs := t.repairs ++ [⟨kind, data, desc⟩]
          dropped := match kind with | .drop => t.dropped ++ [desc.toNat] | _ => t.dropped }
        s.updCore c (fun q => { q with hslots := KMap.put q.hslots (k - 4096) t' })
      else s.handlerProt c k

/-- An action that is no wait performs (R37). -/
def State.performAct (s : State) (c k : Nat) (a : CommitAct) : State :=
  match a with
  | .arrive n _ => s.arriveAt c k n
  | .copy pd e n => s.updEngine pd e (fun x => { x with
      queue := x.queue.map (fun q => if q.count = n then { q with handed := true } else q) })
  | .recruit => s.openRecruitment c k
  | .hred v => s.contribute c k v
  | .lyrel l => match s.ctxOf c k with
    | some x => if l.toNat < s.layersOf x then s.dropUse (s.thread c k).team x l.toNat else s
    | none => s
  | .yield => s.updThread c k (fun t => { t with yielded := true })
  | .cfginv va sc =>
    { s with
      nextId := s.nextId + 1
      invals := s.invals ++ [⟨s.nextId, c, k, s.aspaceOf c k, bitsOf va.toNat 56 8 * 256, sc⟩] }
  | .eosi r => if (s.region c r).batch.isSome then s.endBatch c r else s
  | .trprep kind data desc => s.prepRepair c k kind data desc
  | .trret act blk arg => if isHandlerKey k then s.trret c (k - 4096) act blk arg else s
  | _ => s

/-- The tick that a promise names (R374): the one nearest to now with the low 48 bits given. -/
def promiseTick (now : Tick) (id : Word) : Tick :=
  let p := id.toNat % 2 ^ 48
  let base := now / 2 ^ 48 * 2 ^ 48 + p
  if base > now + 2 ^ 47 then base - 2 ^ 48
  else if base + 2 ^ 47 ≤ now then base + 2 ^ 48
  else base

/-- The scope of the copy that an identifier names; DEVICE where the engine no longer holds it. -/
def State.copyScope (s : State) (id : Word) : Scope :=
  let n := id.toNat
  match (s.engine (bitsOf n 63 62) (bitsOf n 61 58)).queue.find? (fun q => q.count % 1024 = bitsOf n 57 48) with
  | some q => q.scope
  | none => .device

/-- A wait entered at commit, or the thread passed on where there is nothing to wait for (R185, R232, R238, R373, R374). -/
def State.enterWait (s : State) (c k blk : Nat) (a : CommitAct) : State :=
  let th := s.thread c k
  let into (st : TState) (w : Wait) : State :=
    s.updThread c k (fun t => { t with st := st, wait := some w, next := blk, exec := none })
  match a with
  | .barWait n p =>
    if isHandlerKey k || th.helper.isSome || (s.barrier th.team n).phase ≠ p then s.passOn c k blk
    else into .barwait (.barrier n p)
  | .sleep v abs =>
    let wake := if abs then v.toNat else min (s.now c + v.toNat) (2 ^ 64 - 1)
    if wake ≤ s.now c then s.passOn c k blk else into .sleeping (.tick wake)
  | .waitt id reg => into .sleeping (.promise (promiseTick (s.now c) id) id reg (s.copyScope id))
  | .hjoin mreg =>
    if s.noRecruitment c k then (s.updThread c k (fun t => t.setReg mreg 0)).passOn c k blk
    else into .joining (.joinOf mreg)
  | .waitly l => s.waitLayer c k l.toNat blk
  | _ => s.passOn c k blk

/-! ## Commit (R37) -/

/-- The execution's store-buffer space is free again, at a commit as soon as its last entry has been released (R37). -/
def State.freeBuffer (s : State) (c k : Nat) : State :=
  match s.exec? c k with
  | none => s
  | some e =>
    if e.freed then s
    else
      let n := match s.block? e.image e.block with | some b => b.budget | none => 0
      (s.updCore c (fun q => { q with bufUsed := q.bufUsed - n })).updExec c k (fun e => { e with freed := true })

/-- The buffered entries of an execution that is not abandoned released in wave order, and their space freed (R37). -/
def State.releaseBlock (s : State) (c k : Nat) : State := (s.releaseEntries c k (fun _ => true)).freeBuffer c k

/-- The flags of a commit (R107). -/
def State.commitFlags (s : State) (c k : Nat) (e : Exec) : State :=
  s.updThread c k (fun t => { t with fpflags := (t.fpflags &&& ~~~e.cleared) ||| e.pend })

/-- A thread becomes EXITED (R34, R232): a helper ends, a handler thread that has not resolved its trap raises it, and an
open recruitment loses its recruiter. -/
def State.threadExits (s : State) (c k : Nat) : State :=
  if isHandlerKey k then
    let j := k - 4096
    match KMap.look (s.core c).hslots j with
    | none => s.endHandler c j
    | some t =>
      if t.performed then
        (s.endHandler c j).updCore c (fun q => { q with
          hslots := if t.raised then KMap.put q.hslots j { t with running := false } else KMap.del q.hslots j })
      else s.raiseTrap c j
  else
    let th := s.thread c k
    match th.helper with
    | some h => if h.release then s.releaseHelper c k else s.helperEnd c k
    | none =>
      let s := s.enterExited c k
      let s := s.updTeam th.team (fun x =>
        match KMap.look x.recs th.tid with
        | none => x
        | some r => if r.over then { x with recs := KMap.del x.recs th.tid }
            else { x with recs := KMap.put x.recs th.tid { r with orphan := true, contrib := [] } })
      (s.barriersCheck th.team).retireCheck th.team

/-- The handler context of a frozen region is free once its thread has left the block (R207). -/
def State.leaveHandlerPlane (s : State) (c k : Nat) : State :=
  (s.core c).regions.foldl (fun (s : State) (g : Nat × Region) =>
    if g.2.hplane = some k then
      (s.updTile c (handlerTile (s.regionRect c g.1)) (fun tl => { tl with hctx := none })).updRegion c g.1
        (fun g => { g with hplane := none })
    else s) s

/-- Must an action of the commit wait for the visibility of the block's writes? The source reads of a copy follow the accesses that
precede the COPY for the agents in its scope (R168). -/
def State.actWaits (s : State) (c k : Nat) : CommitAct → Bool
  | .copy pd e n => match (s.engine pd e).queue.find? (fun q => q.count = n) with
    | some q => !s.visibleAt c k q.scope
    | none => false
  | a => match a.after with | some sc => !s.visibleAt c k sc | none => false

/-- Must the actions of the commit still wait for the visibility of the block's writes? -/
def State.actsWait (s : State) (c k : Nat) (e : Exec) : Bool := e.acts.any (fun a => s.actWaits c k a)

/-- The committed block's fences go on to order the thread's later writes (R161). -/
def State.keepFences (s : State) (c k : Nat) (e : Exec) : State :=
  match (e.fences.map (·.2)).foldl (fun acc x => widerScope acc (some x)) none with
  | none => s
  | some sc => if s.visibleAt c k sc then s else s.updThread c k (fun t => { t with fence := some sc })

/-- The wait that the block has entered, or its next block. -/
def State.continueTo (s : State) (c k : Nat) (e : Exec) (blk : Nat) : State :=
  match e.acts.find? (·.isWait) with
  | some a => s.enterWait c k blk a
  | none => s.passOn c k blk

/-- The block commits (R37): buffered entries are released, then the actions perform in firing order, and the thread enters
its wait or its next block. Where an action orders the block's writes before it and they are not yet visible, the entries
are released now and the rest follows. -/
def State.commit (s : State) (c k : Nat) (e : Exec) (next : Option Nat) : State :=
  let s := s.releaseBlock c k
  if s.actsWait c k e then s
  else
    let s := (s.commitFlags c k e).keepFences c k e
    let s := (e.acts.filter (fun a => !a.isWait)).foldl (fun s a => s.performAct c k a) s
    let s := s.leaveHandlerPlane c k
    let th := s.thread c k
    if th.st = .vacant then s
    else if th.st = .trapped then s.updThread c k (fun t => { t with exec := none })
    else match th.helper with
      | some h =>
        if h.release then s.releaseHelper c k
        else if e.acts.contains .hend || next.isNone then s.helperEnd c k
        else s.continueTo c k e (next.getD 0)
      | none => match next with
        | none => s.threadExits c k
        | some b => s.continueTo c k e b

/-- A commit as far as it can (R39): every entry is released, every action that is no wait performs, no wait is entered, and the
execution ends as f says. The actions wait for the block's writes as at any commit (R186). A helper that is to be released
leaves behind its block (R234). -/
def State.commitPartly (s : State) (c k : Nat) (e : Exec) (f : State → State) : State :=
  let s := s.releaseBlock c k
  if s.actsWait c k e then s
  else
    let s := (s.commitFlags c k e).keepFences c k e
    let s := (e.acts.filter (fun a => !a.isWait && a ≠ .yield && a ≠ .hend)).foldl (fun s a => s.performAct c k a) s
    let s := (f s).updThread c k (fun t => { t with exec := none, next := e.block })
    match (s.thread c k).helper with
    | some h => if h.release then s.releaseHelper c k else s
    | none => s

/-! ## Abandonment (R38) -/

/-- The copy commands of an abandoned execution leave their engines (R168). -/
def State.dropCopies (s : State) (acts : List CommitAct) : State :=
  acts.foldl (fun s a => match a with
    | .copy pd e n => s.updEngine pd e (fun x =>
        { x with queue := x.queue.filter (fun q => q.count ≠ n), count := if x.count = n + 1 then n else x.count })
    | _ => s) s

/-- The block is abandoned for the thread (R38): nothing of it remains; a reservation that it set is dropped (R164), a
reservation of helpers released (R227). -/
def State.abandon (s : State) (c k : Nat) (e : Exec) : State :=
  let s := (s.dropCopies e.acts).freeBuffer c k
  let s := if e.acts.contains .recruit then s.releaseReservation c k else s
  let s := s.leaveHandlerPlane c k
  s.updThread c k (fun t => { t with
    next := e.block, exec := none
    resv := if e.setResv then none else t.resv
    hold := if e.setResv then none else t.hold })

/-- The record of a trap that the Dealer raises at an exit (R33, R34); it names the block of the execution. -/
def State.exitRecord (s : State) (c k : Nat) (e : Exec) (code : Nat) (info : Nat) (x : Option ExitSeen) : Record :=
  let r := { s.chargeRecord c k { code := code, kind := 0, info := BitVec.ofNat 64 info, block := some e.block
                                  time := BitVec.ofNat 64 (s.now c) } with nb := false }
  match x with
  | none => r
  | some y => { r with tile := some y.site.tile, slot := some y.site.slot, bits := some y.bits, plane := some (b2n y.site.handler) }

/-- INFO of an XLATE that makes no page request (R39): the identifier does not apply. -/
def noRequest : Word := BitVec.ofNat 64 (2 ^ 32 - 1)

/-- The record of a fault that an execution has seen (R135, R197), for the trap of R39. -/
def State.seenRecord (s : State) (c k : Nat) (e : Exec) (x : FaultSeen) : Record :=
  { s.exitRecord c k e x.code 0 none with
    tile := some x.site.tile, slot := some x.site.slot, bits := some x.bits, plane := some (b2n x.site.handler)
    addr := x.addr, time := BitVec.ofNat 64 x.time, info := if x.code = codeXLATE then noRequest else x.info }

/-- The code of the trap of an execution whose exit is deferred although no fault of it is recorded: that of the exit token where
it is one of an exit trap, else POISON, so that no code outside Table 10.1 is raised (R198). -/
def deferredCode (e : Exec) : Nat :=
  let n := ((e.exits.find? (·.deferred)).map (·.code)).getD codePOISON
  if [codePROT, codePOISON, codeMODE, codeALIGN, 0x21, codeLAYER].contains n then n else codePOISON

/-- The exit trap of a page request that was denied (R213): PROT with what the record of its fault says. -/
def State.deniedTrap (s : State) (c k blk : Nat) : State :=
  let t := s.thread c k
  let q := t.denied.bind (fun id => KMap.look t.pageRec id)
  let r := s.chargeRecord c k { code := codePROT, kind := 0, block := some blk, time := BitVec.ofNat 64 (s.now c)
                                info := BitVec.ofNat 64 (63 * 256) }
  let r := match q with
    | some q => { r with addr := q.addr, tile := q.tile, slot := q.slot, bits := q.bits, plane := q.plane, info := q.info }
    | none => r
  (s.updThread c k (fun t => { t with replay := [], denied := none, pageRec := [] })).takeExitTrap c k codePROT
    { r with nb := false } false

/-- Is the hand parked in which the faults of the thread are held: its own, or its recruiter's (R211)? -/
def State.parkedFor (s : State) (c k : Nat) : Bool :=
  match s.team? (s.thread c k).team with
  | some x => (KMap.look x.parks (s.thread c k).hand).isSome
  | none => false

/-- An abandoned execution that is to trap or to replay (R199, R211, R220). -/
def State.afterAbandon (s : State) (c k : Nat) (e : Exec) : State :=
  match (s.thread c k).helper with
  | some h => if h.release then s.releaseHelper c k else body s
  | none => body s
where
  /-- The thread of an abandoned execution: parked or replayed after XLATE, trapped where its request has been denied meanwhile
  and none holds its hand any more, WAITING again after a drained LDF, TRAPPED otherwise. -/
  body (s : State) : State :=
    if isHandlerKey k then s
    else if e.faults.any (fun f => f.code = codeXLATE) then
      if s.parkedFor c k then s.updThread c k (fun t => { t with st := .parked, wait := none })
      else if (s.thread c k).denied.isSome then s.deniedTrap c k e.block
      else s.updThread c k (fun t => { t with st := .waiting, wait := none })
    else if e.faults.isEmpty && e.ldfEnded then s.enterWaiting c k e.block
    else if e.faults.isEmpty then
      let n := deferredCode e
      s.takeExitTrap c k n (s.exitRecord c k e n
        (if n = 0x21 || n = codeLAYER then 0 else 63 * 256) (e.exits.find? (·.deferred))) false
    else s.updThread c k (fun t => { t with st := .trapped, wait := none })

/-! ## EXIT_AT_DEALER -/

/-- The block that the one true exit names is one the thread may enter; EXIT and a helper's end name none (R34, R228). -/
def State.nextAllowed (s : State) (c k : Nat) (e : Exec) (x : ExitSeen) : Bool :=
  match x.next with
  | none => true
  | some w => ((s.thread c k).helper.isSome && e.acts.contains .hend) || (w.toNat < 256 && s.blockAllowed c k w.toNat)

/-- The trap of R39 after a fault of a block whose atomic has performed: the one that stands at the station, now known to follow the
atomic, or that of the first fault where none stands there, as for an XLATE that parked the hand before the atomic
performed. -/
def State.faultedCommit (s : State) (c k : Nat) (e : Exec) : State :=
  let mine (t : Trap) : Bool := t.thread = some k && t.kind = .exit && !t.void
  let s := s.updThread c k (fun t => { t with st := .trapped, wait := none, replay := [], denied := none, pageRec := [] })
  if (s.core c).traps.any mine || (s.core c).hslots.any (fun h => mine h.2) then
    let note (t : Trap) : Trap := if mine t then { t with afterAtomic := true } else t
    s.updCore c (fun q => { q with traps := q.traps.map note, hslots := KMap.mapVals q.hslots note })
  else match e.faults.find? (fun x => x.code = codeXLATE) with
    | some x => s.takeExitTrap c k codeXLATE (s.seenRecord c k e x) true
    | none => match e.faults.head? with
      | some x => s.takeExitTrap c k x.code (s.seenRecord c k e x) true
      | none => s

/-- An exit trap of an abandoned execution; a helper that is to be released is released instead (R234). -/
def State.trapOrRelease (s : State) (c k code : Nat) (r : Record) : State :=
  match (s.thread c k).helper with
  | some h => if h.release then s.releaseHelper c k else s.takeExitTrap c k code r false
  | none => s.takeExitTrap c k code r false

/-- What the Dealer does with a thread's exit (R33, R34, R38, R39, R197). -/
def State.dealExit (s : State) (c k : Nat) : State :=
  match s.exec? c k with
  | none => s
  | some e =>
    if !s.exitReady c k then s
    else
      let trues := e.exits.filter (·.fired)
      let deferred := e.exits.any (·.deferred) || e.sentFault || e.ldfEnded
      let stray := s.exitRecord c k e codeSTRAY (min 7 trues.length) none
      let illop := s.exitRecord c k e 1 (((trues.head?.bind (·.next)).map BitVec.toNat).getD 0) trues.head?
      if e.atomic then
        if !e.faults.isEmpty then s.commitPartly c k e (fun s => s.faultedCommit c k e)
        else if trues.length ≠ 1 then s.commitPartly c k e (fun s => s.takeExitTrap c k codeSTRAY stray true)
        else if !(trues.head?.all (fun x => s.nextAllowed c k e x)) then
          s.commitPartly c k e (fun s => s.takeExitTrap c k 1 illop true)
        else s.commit c k e ((trues.head?.bind (·.next)).map BitVec.toNat)
      else if deferred then (s.abandon c k e).afterAbandon c k e
      else if trues.length ≠ 1 then (s.abandon c k e).trapOrRelease c k codeSTRAY stray
      else if !(trues.head?.all (fun x => s.nextAllowed c k e x)) then (s.abandon c k e).trapOrRelease c k 1 illop
      else s.commit c k e ((trues.head?.bind (·.next)).map BitVec.toNat)

/-- A block step ends when the thread's exit or abandonment has reached the Dealer (R270): the thread is stopped again. -/
def State.stepOver (s : State) (c k : Nat) (ran : Bool) : State :=
  if s.dbg.stepping = some (c, k) && ran && (s.exec? c k).isNone then
    { s with dbg := { s.dbg with stepping := none, settled := false } }
  else s

/-- R197: the Dealer acts on a thread's exit. -/
def execExitAtDealer (core thread : Nat) (s : State) : Host.Outcome State Fault Refusal :=
  .next ((s.dealExit core thread).stepOver core thread (s.exec? core thread).isSome)

/-! ## The watchdog (R187) -/

/-- Is a member of the barrier in a state in which the watchdog does not count? -/
def State.watchdogPauses (s : State) (t n : Nat) : Bool :=
  (s.barrierTeams t n).any (fun g => match s.team? g with
    | some x => x.core.isNone && !x.retired
    | none => false) ||
  (s.barrierMembers t n).any (fun m =>
    (s.thread m.1 m.2.1).st = .parked || (s.thread m.1 m.2.1).st = .layerwait || s.stopped m.1 m.2.1)

/-- Does the barrier's watchdog run? -/
def State.watchdogRuns (s : State) (t n : Nat) : Bool :=
  !(s.barrier t n).arrived.isEmpty && !s.watchdogPauses t n

/-- The four words of HANG (R187). -/
def State.hangWords (s : State) (t n : Nat) : List Nat :=
  let b := s.barrier t n
  let missing := (s.barrierMembers t n).filter (fun m => !b.arrived.contains m.2.2)
  let first := if n < 16 then t else ((s.clusterTeams t).find? (fun g =>
    match s.team? g with | some x => x.rank = 0 | none => false)).getD t
  let name := match s.team? first with | some x => x.index | none => 0
  let w0 := name * 2 ^ 32 + n * 2 ^ 24
  if n < 16 then
    let hands := missing.map (fun m => m.2.2 / 32)
    [w0, b.phase.toNat, maskOf 64 (fun i => hands.contains i), maskOf 64 (fun i => hands.contains (64 + i))]
  else
    let ranks := missing.map (fun m => m.2.2 / 4096)
    [w0, b.phase.toNat, maskOf 12 (fun i => ranks.contains i), 0]

/-- One team's barrier looked at by the watchdog. -/
def State.watchdog (s : State) (t n : Nat) : State :=
  let b := s.barrier t n
  let lim := s.regN .barWdt
  if lim = 0 || b.hung || b.arrived.isEmpty || b.count < lim then s
  else (s.event 0x80 (s.hangWords t n)).updBarrier t n (fun b => { b with hung := true })

/-- R187: HANG for the barriers of the given number of a core's teams whose count has reached BAR_WDT. -/
def execBarrierWatchdog (core barrier : Nat) (s : State) : Host.Outcome State Fault Refusal :=
  .next ((s.teams.filter (fun p => p.2.core = some core)).foldl (fun s p => s.watchdog p.1 barrier) s)

end Sys2Proof.Machine
end

