-- ==== Sys2Proof/Machine/Faults.lean ====
section
/-! DEFINITION. The fault station (10): records and traps (R197 to R203), handler slots (R206), page requests and parking
(R211 to R214), the system queue (R203), the resolutions by FST_RESOLVE (R208). -/

namespace Sys2Proof.Machine

/-! ## Writes of the device (R171, R250) -/

/-- The lines of n bytes at a physical address, an address of the package's own domain window taken for the line that it names
(R258). -/
def State.deviceLines (s : State) (pa n : Nat) : List Nat :=
  dedupNat ((upTo n).map (fun i => lineOf (s.canonAddr (pa + i))))

/-- May the device write bytes at a physical address now? -/
def State.deviceReady (s : State) (pa n : Nat) : Bool := (s.deviceLines pa n).all (fun l => s.agentReady l none)

/-- What a device write that must wait asks for. -/
def State.deviceRequest (s : State) (pa n : Nat) : State := (s.deviceLines pa n).foldl (fun s l => s.agentRequest l) s

/-- A write of the device to control space: a register write, where the width is one that a register takes (R5). -/
def State.deviceControl (s : State) (pa off : Nat) (l : List Byte) : State :=
  let v := BitVec.ofNat 64 (leNat l)
  match regAt (off / 8 * 8) with
  | some (.dstSem, i) => if l.length = 8 && off % 8 = 0 then { s with agenda := .event (.dstSemWrite i v) :: s.agenda } else s
  | _ => { s with agenda := .event (.registerWrite pa l.length v) :: s.agenda }

/-- A write of bytes by the device: at the home of each line, for a failed range nowhere (R263), for another package as a
write that leaves, with its poison (R259, R260), for a register as its write (R5). -/
def State.deviceWrite (s : State) (pa : Nat) (l : List Byte) (bad : Bool := false) : State :=
  match s.target (s.canonAddr pa) with
  | .control off => s.deviceControl (s.canonAddr pa) off l
  | _ =>
    let cells : List Host.Cell := l.mapIdx (fun i b => (s.canonAddr (pa + i), b))
    (dedupNat (cells.map (fun x => lineOf x.1))).foldl (fun s line =>
      let mine := cells.filter (fun x => lineOf x.1 = line)
      if s.addrFailed (64 * line) then s.logDiscard line
      else match s.target (64 * line) with
        | .control _ | .reserved => s
        | .domain _ _ => s.domainWrite 0 4095 0 line mine bad
        | _ => s.writeAtSlice (s.homeNode line) none mine) s

/-! ## Operand lists (R202) -/

/-- The items of a slot in the store, in order. -/
def storeItems (store : List Entry) (slot : Nat) : List OpItem :=
  (store.filter (fun e => e.slot = slot)).map (fun e =>
    { tok := e.tok
      loc := match e.kind with | .operand => 0 | .sticky => 1 | .marker => 2 | .whole => 3
      index := 0
      side := match e.kind with | .marker => 3 | _ => (match e.side with | .a => 0 | .b => 1 | .third => 2)
      slot := slot })

/-- The items of the operand set that a frozen tile holds. -/
def heldItems (z : Freeze) : List OpItem :=
  match z.held with
  | none => []
  | some f => match slotInstr f.bits with
    | none => []
    | some i => match i.route? with
      | none => []
      | some r => (heldEntries f i r).flatMap (fun e => storeItems [e] f.site.slot)

/-- The operand list of a tile (R202): store entries in ascending slot order, then queued tokens and channel tokens, at most
176. EOS tokens are no operands and are not listed, nor is a token that was not yet present in the cycle of the freeze, as
the record of R381 shows. -/
def operandList (tl : Tile) : List OpItem :=
  let x := tl.main
  let held := match tl.frozen with | some z => heldItems z | none => []
  let waits (port : Nat) : Nat := match portSlot x.plane port with | some y => y.1 | none => 31
  let here (l : List Arrival) : List Token :=
    (match tl.frozen with | some z => l.filter (fun (a : Arrival) => decide (a.cycle ≤ z.cycle)) | none => l).map Arrival.tok
  let chanTok := match tl.frozen with
    | some z => (match z.token with
        | some t => if z.channel < 8 then [(z.channel, t)] else []
        | none => [])
    | none => []
  let queueTok := match tl.frozen with
    | some z => (match z.token with
        | some t => if 8 ≤ z.channel && z.channel < 12 then [(z.channel - 8, t)] else []
        | none => [])
    | none => []
  ((upTo 32).flatMap (fun n => held.filter (fun o => o.slot = n) ++ storeItems x.store n) ++
   (upTo 4).flatMap (fun q =>
     ((queueTok.filter (fun p => p.1 = q)).map (·.2) ++ here (KMap.lookD x.queues q [])).map (fun t =>
       ({ tok := t, loc := 4, index := q, side := 3, slot := waits (8 + q) } : OpItem))) ++
   (upTo 8).flatMap (fun ch =>
     ((chanTok.filter (fun p => p.1 = ch)).map (·.2) ++ (here (KMap.lookD x.chans ch [])).filter (fun t => !t.eos)).map (fun t =>
       ({ tok := t, loc := 5, index := ch, side := 3, slot := waits ch } : OpItem)))).take 176

/-- The 48 bytes of an operand-list entry (Table 10.5). -/
def OpItem.toBytes (o : OpItem) : List Byte :=
  leBytes 32 o.tok.data.toNat ++ leBytes 4 o.tok.tagNat ++
  leBytes 2 (o.loc * 2 ^ 13 + o.index * 2 ^ 10 + o.side * 2 ^ 8 + o.slot % 32) ++ List.replicate 10 0

/-! ## Parking (R211 to R214) -/

/-- Free save areas (R217). -/
def State.freeAreas (s : State) : List Nat := (upTo (s.regN .dlrSaven)).filter (fun i => !s.saves.contains i)

/-- A team and the others of its cluster marked for swapping, where areas are free for all (R214). -/
def State.markTeam (s : State) (t : Nat) : State :=
  match s.team? t with
  | none => s
  | some x =>
    let ts := (s.clusterTeams t).filter (fun g => match s.team? g with | some y => y.mark.isNone && y.core.isSome | none => false)
    if x.mark.isSome || x.core.isNone || x.discard || ts.isEmpty || s.freeAreas.length < ts.length ||
       ts.any (fun g => match s.team? g with | some y => y.unmarkable && !(s.stillRegions g).isEmpty | none => false) then s
    else
      ts.foldl (fun s g =>
        match s.freeAreas.head?, s.team? g with
        | some a, some y =>
          let c := y.core.getD 0
          let m : Mark := ⟨s.now c, s.now c, s.drainBound (dieOf c), (s.distOf (dieOf c)).slow⟩
          (({ s with saves := s.saves ++ [a] }).updTeam g (fun y =>
            { y with mark := some m, area := some a, unmarkable := false })).forceReleaseAll g
        | _, _ => s) s

/-- Is a team to be marked now: a hand parked for the limit, or half of at least two hands (R214)? -/
def State.markDue (s : State) (t : Nat) : Bool :=
  match s.team? t with
  | none => false
  | some x => match x.core with
    | none => false
    | some c =>
      let lim := s.regN .dlrParklim
      (lim ≠ 0 && x.parks.any (fun p => decide (p.2.since + lim ≤ s.now c))) ||
      (x.hands ≥ 2 && 2 * x.parks.length ≥ x.hands && !x.parks.isEmpty)

/-- The layer of a context whose range holds an address (R236, R244). -/
def State.layerAtVa (s : State) (ctx va : Nat) : Option Nat :=
  if !bitOf (s.regN .chrCtl ctx) 0 then none
  else
    let table := s.regBits .chrCtxd ctx 51 5 * 32
    (upTo (s.layersOf ctx)).find? (fun n =>
      let w := s.outsideLoad (table + 32 * n + 8) 8
      let base := bitsOf w 56 21 * 2 ^ 21
      decide (base ≤ bitsOf va 56 0) && decide (bitsOf va 56 0 < base + (bitsOf w 11 0 + 1) * 2 ^ 21))

/-- XLATE at the station (R211, R244): the request of the page is made or joined, and the hand parked. The thread keeps the record
of its first fault on the page for the case that the request is denied (R213). -/
def State.parkFault (s : State) (c k : Nat) (r : Record) : State :=
  let th := s.thread c k
  let asp := s.aspaceOf c k
  let page := bitsOf r.addr.toNat 56 16
  let hand := th.hand
  let made : Nat × State := match s.station.requests.find? (fun q => q.aspace = asp && q.page = page) with
    | some q => (q.id, s)
    | none =>
      let id := s.station.nextReq
      let layer := (s.ctxOf c k).bind (fun x => (s.layerAtVa x r.addr.toNat).map (fun n => (x, n)))
      let s := { s with station := { s.station with
        nextReq := id + 1, requests := s.station.requests ++ [(⟨id, asp, page, layer⟩ : PageReq)] } }
      (match layer with
       | some (x, n) => (id, s.demand x n)
       | none => (id, s.queueRecord { r with kind := 3, info := BitVec.ofNat 64 id }))
  let id := made.1
  let s : State := made.2
  let s := s.updThread c k (fun t => { t with
    replay := if t.replay.contains id then t.replay else t.replay ++ [id]
    pageRec := if (KMap.look t.pageRec id).isSome then t.pageRec else KMap.put t.pageRec id r })
  match s.team? th.team with
  | none => s
  | some x =>
    let fresh := (KMap.look x.parks hand).isNone
    let s := s.updTeam th.team (fun x => { x with
      parks := KMap.alter x.parks hand ⟨s.now c, []⟩ (fun p =>
        { p with requests := if p.requests.contains id then p.requests else p.requests ++ [id] }) })
    if fresh then
      let s := (s.teamThreads th.team).foldl (fun s p =>
        let u := s.thread p.1 p.2
        if u.st = .waiting && u.helper.isNone && u.tid / 32 = hand then
          s.updThread p.1 p.2 (fun u => { u with st := .parked }) else s) s
      if x.hands ≥ 2 && s.markDue th.team then s.markTeam th.team else s
    else s

/-- A faulted thread that leaves the parked vector (R213): WAITING on its block marked for replay, or the exit trap of a
denied request. -/
def State.replayThread (s : State) (c k : Nat) : State :=
  let s := s.updThread c k (fun t => { t with spinN := 0, cls := 1, due := none })
  if (s.thread c k).denied.isSome then s.deniedTrap c k (s.thread c k).next
  else s.updThread c k (fun t => { t with st := .waiting, wait := none, pageRec := [] })

/-- A hand unparked (R213). -/
def State.unpark (s : State) (t hand : Nat) : State :=
  let s := s.updTeam t (fun x => { x with parks := KMap.del x.parks hand })
  let all := s.teamThreads t
  let own := all.filter (fun p => (s.thread p.1 p.2).helper.isNone && (s.thread p.1 p.2).tid / 32 = hand)
  let helpers := sortBy (fun (p : Nat × Nat) => match (s.thread p.1 p.2).helper with | some h => h.index | none => 0)
    (all.filter (fun p => match (s.thread p.1 p.2).helper with | some h => h.recruiter / 32 = hand | none => false))
  let parked (l : List (Nat × Nat)) : List (Nat × Nat) := l.filter (fun p => (s.thread p.1 p.2).st = .parked)
  let marked (l : List (Nat × Nat)) : List (Nat × Nat) := (parked l).filter (fun p => !(s.thread p.1 p.2).replay.isEmpty)
  let s := (marked own ++ marked helpers).foldl (fun s p => s.replayThread p.1 p.2) s
  (parked own ++ parked helpers).foldl (fun s p =>
    if (s.thread p.1 p.2).st = .parked then
      s.updThread p.1 p.2 (fun u => { u with st := .waiting, wait := none, spinN := 0, cls := 1, due := none })
    else s) s

/-- The threads that replay for a page request remember that it was denied, wherever they stand (R211, R213): of several denied
requests the first. -/
def State.markDenied (s : State) (id : Nat) : State :=
  let note (t : Thread) : Thread := if t.replay.contains id && t.denied.isNone then { t with denied := some id } else t
  { s with
    cores := KMap.mapVals s.cores (fun k => { k with threads := KMap.mapVals k.threads note })
    teams := KMap.mapVals s.teams (fun x => { x with saved := KMap.mapVals x.saved note })
    contexts := KMap.mapVals s.contexts (fun x => { x with
      cores := KMap.mapVals x.cores (fun k => { k with threads := KMap.mapVals k.threads note }) }) }

/-- A parked hand of a team after the answer of a request: unparked where no other request holds it (R213). -/
def State.answerHand (s : State) (id t : Nat) (h : Nat × Park) : State :=
  let rest := h.2.requests.filter (· ≠ id)
  if !h.2.requests.contains id then s
  else if rest.isEmpty then s.unpark t h.1
  else s.updTeam t (fun x => { x with parks := KMap.put x.parks h.1 { h.2 with requests := rest } })

/-- The parked hands of every team after the answer of a request. -/
def State.answerHands (s : State) (id : Nat) : State :=
  s.teams.foldl (fun (s : State) (p : Nat × Team) =>
    p.2.parks.foldl (fun (s : State) (h : Nat × Park) => s.answerHand id p.1 h) s) s

/-- A page request answered (R211, R213): every hand that it held and that no other request holds is unparked; denied
faults are remembered by their threads. -/
def State.answerPage (s : State) (id : Nat) (denied : Bool) : State :=
  let s := { s with station := { s.station with requests := s.station.requests.filter (fun q => q.id ≠ id) } }
  (if denied then s.markDenied id else s).answerHands id

/-- Is the identifier outstanding to system software (R211)? -/
def State.pgOutstanding (s : State) (id : Nat) : Bool :=
  s.station.requests.any (fun q => q.id = id && q.layer.isNone)

/-- R211: FST_PGDONE with status mapped. -/
def execPgdoneMapped (request : Nat) (s : State) : Host.Outcome State Fault Refusal :=
  .next (if s.pgOutstanding request then s.answerPage request false else s.setRegBit .fstErr 0 1)

/-- R211, R213: FST_PGDONE with status denied. -/
def execPgdoneDenied (request : Nat) (s : State) : Host.Outcome State Fault Refusal :=
  .next (if s.pgOutstanding request then s.answerPage request true else s.setRegBit .fstErr 0 1)

/-- R214: a team whose hand has been parked for the limit, or half of whose hands are parked, is marked. -/
def execParkLimitExpiry (team hand : Nat) (s : State) : Host.Outcome State Fault Refusal :=
  .next (if s.markDue team && (match s.team? team with | some x => (KMap.look x.parks hand).isSome | none => false) then
    s.markTeam team else s)

/-- R214, R218: the new limit applies at once. -/
def execDlrParklimWrite (v : Word) (s : State) : Host.Outcome State Fault Refusal :=
  let s := s.setReg .dlrParklim 0 v
  .next (s.teams.foldl (fun (s : State) (p : Nat × Team) => if s.markDue p.1 then s.markTeam p.1 else s) s)

/-! ## FAULT_TOKEN (R197 to R201, R210) -/

/-- A fault in a handler thread (R210): its KIND 5 record, then the record of the trap that it handled, which stays raised. -/
def State.handlerFault (s : State) (c j : Nat) (r : Record) : State :=
  let s := s.queueRecord { r with kind := 5 }
  match KMap.look (s.core c).hslots j with
  | none => s.endHandler c j
  | some t =>
    let s := s.endHandler c j
    if t.raised then s
    else if t.performed then s.updCore c (fun q => { q with hslots := KMap.del q.hslots j })
    else (s.updCore c (fun q => { q with
      hslots := KMap.put q.hslots j { t with raised := true, repairs := [], running := false, performed := true } })).queueKept
        t.record

/-- Is a checked handler image installed that names a handler block for the code (R205, R206)? -/
def State.handlerBlock (s : State) (code : Nat) : Option Nat :=
  match s.station.himage.bind s.image? with
  | none => none
  | some i => match i.actions[code]? with
    | some b => if b = 0xFF then none else some b.toNat
    | none => none

/-- A trap entered behind those of lesser SEQ (R206); one that occurs where no handler block serves it is for system software. -/
def State.addTrap (s : State) (c : Nat) (t : Trap) : State :=
  s.updCore c (fun k => { k with traps := k.traps ++ [{ t with toSystem := (s.handlerBlock t.record.code).isNone }] })

/-- The trap of a freezing fault, with the operand list of its tile (R202). -/
def State.freezeTrap (s : State) (c : Nat) (f : FaultTok) : State :=
  let tile := (f.tile.getD 0) % 64
  let ops := operandList (s.tile c tile)
  let (r, s) := s.numberRecord { f.record with nops := ops.length }
  s.addTrap c { record := r, ops := ops, kind := .freezing, thread := none, tile := tile, region := (f.tile.getD 0) / 64 }

/-- Is a trap the exit trap of a thread that no handler and no raising has yet taken up? -/
def Trap.waitsFor (t : Trap) (k : Nat) : Bool := t.thread = some k && t.kind = .exit && !t.running && !t.raised && !t.performed

/-- Has the station an exit trap of the thread's execution already? -/
def Core.exitTrapped (q : Core) (k : Nat) : Bool :=
  q.traps.any (fun t => t.waitsFor k) || q.hslots.any (fun h => h.2.waitsFor k)

/-- The exit traps of a thread's execution dropped: it is a translation fault (R197). -/
def State.dropExitTraps (s : State) (c k : Nat) : State :=
  s.updCore c (fun q => { q with
    traps := q.traps.filter (fun t => !t.waitsFor k), hslots := q.hslots.filter (fun h => !h.2.waitsFor k) })

/-- What the station makes of a fault token (R197, R199, R211). A fault of an execution whose atomic has performed is never
parked (R39). -/
def State.station1 (s : State) (c : Nat) (f : FaultTok) : State :=
  match f.thread with
  | some k =>
    if isHandlerKey k then
      s.handlerFault c (k - 4096) (if f.code = codeXLATE then { f.record with info := noRequest } else f.record)
    else
      let e := s.exec? c k
      let xlate : Bool := match e with
        | some e => !e.atomic && e.faults.any (fun x => x.code = codeXLATE)
        | none => false
      if f.kind = .exit && f.code = codeXLATE && !f.afterAtomic && e.isSome then (s.dropExitTraps c k).parkFault c k f.record
      else if f.kind = .exit && (xlate || (s.core c).exitTrapped k) then s
      else
        let (r, s) := s.numberRecord { f.record with
          kind := (match f.kind with | .wait => 1 | _ => 0), info := if f.code = codeXLATE then noRequest else f.record.info }
        s.addTrap c
          { record := r, kind := f.kind, thread := some k, region := (s.thread c k).lastRegion, afterAtomic := f.afterAtomic
            waitOf := f.waitOf, team := some (s.thread c k).team }
  | none => s.freezeTrap c f

/-- R197: a fault token reaches the fault station. -/
def execFaultToken (core : Nat) (s : State) : Host.Outcome State Fault Refusal :=
  .next (match (s.core core).faultNet with
    | [] => s
    | f :: rest => (s.updCore core (fun k => { k with faultNet := rest })).station1 core f)

/-! ## Handler slots (R203, R206) -/

/-- The virtual address of a handler slot's record page (R203). -/
def State.recordPage (s : State) (c j : Nat) : Nat := s.regBits .fstRecbase 0 56 27 * 2 ^ 27 + (32 * c + j) * 0x4000

/-- The first free handler slot of a core. -/
def State.freeHslot (s : State) (c : Nat) : Option Nat := (upTo 32).find? (fun j => (KMap.look (s.core c).hslots j).isNone)

/-- Can a trap begin: its thread is TRAPPED, or it is that of a frozen tile? -/
def State.trapReady (s : State) (c : Nat) (t : Trap) : Bool :=
  match t.kind with
  | .freezing => true
  | _ => match t.thread with | some k => (s.thread c k).st = .trapped | none => false

/-- The trap that takes the next slot: the one of least SEQ (R206). -/
def State.nextTrap (s : State) (c : Nat) : Option Trap := leastBy (fun t => t.record.seq.toNat) (s.core c).traps

/-- The slots whose trap has its place and its record page and now can begin, in SEQ order. -/
def State.nextBegin (s : State) (c : Nat) : Option (Nat × Trap) :=
  leastBy (fun (h : Nat × Trap) => h.2.record.seq.toNat) ((s.core c).hslots.filter (fun h =>
    !h.2.running && !h.2.raised && !h.2.performed && s.trapReady c h.2))

/-- A handler thread begun (R206). -/
def State.startHandler (s : State) (c j blk region va : Nat) : State :=
  let t : Thread := { st := .waiting, nregs := 64, regs := [(0, BitVec.ofNat 64 va)], next := blk, cls := 0, lastRegion := region }
  s.updCore c (fun q => { q with threads := KMap.put q.threads (4096 + j) t })

/-- A trap moved from those that wait to a handler slot of the core. -/
def State.takeTrap (s : State) (c j : Nat) (t0 t : Trap) : State :=
  s.updCore c (fun q => { q with traps := q.traps.erase t0, hslots := KMap.put q.hslots j t })

/-- The 64 bytes of a trap's record and its operand list, as its record page holds them (R201, R202). -/
def Trap.pageBytes (t : Trap) : List Byte := t.record.toBytes ++ t.ops.flatMap OpItem.toBytes

/-- A trap in its handler slot begins: its handler is started, or it is raised (R205, R206). -/
def State.beginHandler (s : State) (c j : Nat) (t : Trap) : State :=
  let asp := s.regBits .fstHimg 0 63 56
  match if t.toSystem then none else s.handlerBlock t.record.code with
  | none => s.raiseTrap c j
  | some b => (s.updCore c (fun q => { q with
      hslots := KMap.put q.hslots j { t with running := true, img := s.station.himage.map (fun i => (i, asp)) } })).startHandler
        c j b t.region (s.recordPage c j)

/-- INFO of a device access fault (Table 10.3): no wave number, and whether it was a write; the identifier of a page request
does not apply. -/
def deviceInfo (code : Nat) (write : Bool) : Word :=
  if code = codeXLATE then noRequest else BitVec.ofNat 64 (63 * 256 + b2n write)

/-- The record page of a handler slot written (R203, R206): a page that does not translate is a fault of the handler image
(KIND 6) and the trap is raised; a write that must wait is asked for. The handler reads the record that the station has
written (R382). -/
def State.writeRecordPage (s : State) (c j asp va : Nat) (t0 t : Trap) : State :=
  match s.deviceXlat (nodeOf c) asp va t.pageBytes.length true true with
  | .error code =>
    (s.takeTrap c j t0 { t with toSystem := true }).queueRecord { t.record with
      code := code, kind := 6, addr := BitVec.ofNat 64 va, nops := 0, info := deviceInfo code true
      time := BitVec.ofNat 64 (s.now c) }
  | .ok pa =>
    if !s.deviceReady pa t.pageBytes.length then s.deviceRequest pa t.pageBytes.length
    else ((s.deviceWrite pa t.pageBytes).dropValid c ((upTo (t.pageBytes.length / 4)).map (fun i => pa / 4 + i))).takeTrap c j t0 t

/-- The least SEQ among the traps that have their place and can begin: it begins. -/
def State.beginNext (s : State) (c : Nat) : State :=
  match s.nextBegin c with
  | some h => s.beginHandler c h.1 h.2
  | none => s

/-- A trap whose record names its operand list, 64 bytes into the record page (R202, R203). -/
def Trap.withPage (t : Trap) (va : Nat) : Trap := { t with record := { t.record with oplist := BitVec.ofNat 64 (va + 0x40) } }

/-- R203, R206: the trap of least SEQ is given a free handler slot and its record page is written; and a trap in its slot begins
once its thread is TRAPPED: its handler is started, or it is raised. -/
def execHandlerSlotAllocate (core : Nat) (s : State) : Host.Outcome State Fault Refusal :=
  .next ((match s.nextTrap core, s.freeHslot core with
    | some t, some j =>
      s.writeRecordPage core j (s.regBits .fstHimg 0 63 56) (s.recordPage core j) t (t.withPage (s.recordPage core j))
    | _, _ => s).beginNext core)

/-! ## The system queue (R203) -/

/-- Places of the system queue (Table 10.7). -/
def State.sysQueueSize (s : State) : Nat := 64 * 2 ^ s.regBits .fstQctl 0 4 1

/-- R203: the record at the head of those waiting enters the ring; while the ring is full it waits. -/
def execSystemQueueDeliver (s : State) : Host.Outcome State Fault Refusal :=
  .next (match s.station.pending with
    | [] => s
    | r :: rest =>
      if !bitOf (s.regN .fstQctl) 0 then s
      else if ringFull s.station.tail (s.regN .fstQhead) s.sysQueueSize then s.setRegBit .fstErr 0 0
      else
        let a := s.regBits .fstQbase 0 51 12 * 4096 + 64 * (s.station.tail % s.sysQueueSize)
        if !s.deviceReady a 64 then s.deviceRequest a 64
        else
          let s := s.deviceWrite a r.toBytes
          { s with
            station := { s.station with pending := rest, tail := s.station.tail + 1 }
            hostOut := s.hostOut ++ [.msix (s.regBits .fstQctl 0 23 16)] })

/-! ## FST_RESOLVE (R208) -/

/-- R208: RAISE leaves a raised trap raised, its slot held. -/
def execResolveRaise (core hslot : Nat) (s : State) : Host.Outcome State Fault Refusal :=
  .next (s.fstResolve core hslot 0 0 0)
/-- R208, R209. -/
def execResolveRetry (core hslot : Nat) (s : State) : Host.Outcome State Fault Refusal :=
  .next (s.fstResolve core hslot 1 0 0)
/-- R208: the argument is FST_RARG. -/
def execResolveRetryat (core hslot : Nat) (s : State) : Host.Outcome State Fault Refusal :=
  .next (s.fstResolve core hslot 2 0 (s.reg .fstRarg))
/-- R208. -/
def execResolveBranch (core hslot blk : Nat) (s : State) : Host.Outcome State Fault Refusal :=
  .next (s.fstResolve core hslot 3 blk 0)
/-- R208: the faulting operand set is discarded. -/
def execResolveResume (core hslot : Nat) (s : State) : Host.Outcome State Fault Refusal :=
  .next (s.fstResolve core hslot 4 0 0)
/-- R208, R233. -/
def execResolveExit (core hslot : Nat) (s : State) : Host.Outcome State Fault Refusal :=
  .next (s.fstResolve core hslot 5 0 0)

end Sys2Proof.Machine
end

