-- ==== Sys2Proof/Machine/Place.lean ====
section
/-! DEFINITION. Places for teams (R18, R26, R27, R31, R131, R195): what a team asks of a core, what a core has free, which core
or rectangle a team or cluster goes to, and the allocation of slots, registers and block-table entries (R46). -/

namespace Sys2Proof.Machine

/-- What a team asks of a core. -/
structure Need where
  hands : Nat
  nregs : Nat
  image : Nat
  deriving DecidableEq, Repr

/-- What a team of a grid asks of a core. -/
def Grid.need (g : Grid) : Need := ⟨g.hands, g.nregs, g.image⟩

/-- Registers of an allocation (R18). -/
def Need.regs (n : Need) : Nat := 32 * n.hands * n.nregs

/-- The teams resident on a core. -/
def State.coreTeams (s : State) (c : Nat) : List (Nat × Team) := s.teams.filter (fun p => p.2.core = some c)

/-- Registers in use on a core. -/
def State.regsUsed (s : State) (c : Nat) : Nat :=
  ((s.coreTeams c).map (fun p => match s.grid? p.2.grid with | some g => g.need.regs | none => 0)).sum

/-- Hands in use on a core. -/
def State.handsUsed (s : State) (c : Nat) : Nat := ((s.coreTeams c).map (fun p => p.2.hands)).sum

/-- The free hand places of a core: first slots, multiples of 32 (R26). -/
def State.freeBases (s : State) (c : Nat) : List Nat :=
  ((upTo 128).map (fun h => 32 * h)).filter (fun b => !(s.coreTeams c).any (fun p => p.2.bases.contains b))

/-- Block numbers of an image. -/
def State.imageBlocks (s : State) (img : Nat) : List Nat :=
  match s.image? img with | some i => KMap.keys i.blocks | none => []

/-- The blocks of an image that a core's block table lacks (R46). -/
def State.newBlocks (s : State) (c img : Nat) : List Nat :=
  (s.imageBlocks img).filter (fun b => !(s.core c).blocks.any (fun e => e.image = img && e.block = b))

/-- Is the core between layouts: no team, and no region at work? -/
def State.coreClear (s : State) (c : Nat) : Bool :=
  (s.coreTeams c).isEmpty &&
  (s.core c).regions.all (fun g => g.2.batch.isNone && g.2.loads.isEmpty && g.2.hplane.isNone && !g.2.held) &&
  (s.core c).tiles.all (fun t => t.2.frozen.isNone)

/-- Does the core's layout admit an image (R31)? -/
def State.layoutOk (s : State) (c img : Nat) : Bool :=
  match s.image? img with
  | none => false
  | some i => (s.core c).layout = some i.layout || s.coreClear c

/-- What a core lacks for a team, resource by resource (R26, R31). -/
structure Shortfall where
  regs : Nat
  slots : Nat
  places : Nat
  blocks : Nat
  layout : Bool
  deriving DecidableEq, Repr

/-- What the core lacks. -/
def State.shortfall (s : State) (c : Nat) (n : Need) : Shortfall :=
  { regs := s.regsUsed c + n.regs - 262144
    slots := 32 * (s.handsUsed c + n.hands) - 4096
    places := (s.coreTeams c).length + 1 - 16
    blocks := (s.core c).blocks.length + (s.newBlocks c n.image).length - 256
    layout := !s.layoutOk c n.image }

/-- Does the die admit teams: it runs, and no pre-emption or restore of it is in progress (R220)? -/
def State.dieAdmits (s : State) (d : Nat) : Bool :=
  s.dieRuns d && !(s.distOf d).preempting && !(s.distOf d).restoring

/-- Does a core have room for a team (R26, R31)? -/
def State.coreFits (s : State) (c : Nat) (n : Need) : Bool :=
  s.dieAdmits (dieOf c) && !(s.core c).degraded && decide (s.shortfall c n = ⟨0, 0, 0, 0, false⟩)

/-- Threads resident on a core. -/
def State.residentThreads (s : State) (c : Nat) : Nat := 32 * s.handsUsed c

/-- The core of a team that is not in a cluster (R195). -/
def State.teamCore (s : State) (dies : List Nat) (n : Need) : Option Nat :=
  leastBy (fun c => s.residentThreads c) ((dies.flatMap coresOfDie).filter (fun c => s.coreFits c n))

/-- The cores of the rectangle of a cluster whose first core stands at row i and column j of a die, in rank order (R27). -/
def rectCores (d i j w h : Nat) : List Nat :=
  (upTo (w * h)).map (fun k => 32 * d + 8 * (i + k / w) + (j + k % w))

/-- The rectangle of a cluster (R195): the one whose lowest core number is least. -/
def State.clusterCores (s : State) (dies : List Nat) (w h : Nat) (n : Need) : Option (List Nat) :=
  (dies.flatMap (fun d => (upTo (5 - h)).flatMap (fun i => (upTo (9 - w)).map (fun j => rectCores d i j w h)))).find?
    (fun l => l.all (fun c => s.coreFits c n))

/-- The cores for the teams of one unit of admission, a team or a cluster, in rank order. -/
def State.unitCores (s : State) (dies : List Nat) (g : Grid) : Option (List Nat) :=
  if g.clusterSize ≤ 1 then (s.teamCore dies g.need).map (fun c => [c])
  else s.clusterCores dies g.cw g.ch g.need

/-- The dies that a grid's teams may run on (R219): every fabric die in stealing mode, the queue's die in split mode. -/
def State.partition (s : State) (g : Grid) : List Nat :=
  if s.readReg .dstMode 0 = 1 then [s.regBits .lqCtl g.queue 7 5] else upTo s.fabricDies

/-- A team placed on a core: hand places, block-table entries and, on an empty core, the layout (R26, R31, R46). -/
def State.placeTeam (s : State) (t c : Nat) (g : Grid) : State :=
  let bases := (s.freeBases c).take g.hands
  let fresh := (s.newBlocks c g.image).map (fun b => (⟨g.image, b, 0, false⟩ : BlockEntry))
  let layout := (s.image? g.image).map (·.layout)
  let clear := (s.core c).layout ≠ layout
  let s := s.updCore c (fun k => { k with
    layout := layout
    blocks := k.blocks ++ fresh
    regions := if clear then [] else k.regions })
  s.updTeam t (fun x => { x with core := some c, bases := bases })

/-- A thread of a newly admitted team (R46). -/
def freshThread (t tid : Nat) (g : Grid) : Thread :=
  { st := .waiting, team := t, tid := tid, nregs := g.nregs, regs := [(0, g.param)] }

/-- The threads of a placed team entered in their slots. -/
def State.enterThreads (s : State) (t c : Nat) (f : Nat → Thread) : State :=
  match s.team? t with
  | none => s
  | some x => (upTo (32 * x.hands)).foldl (fun s tid =>
      match x.slotOf tid with
      | some k => s.updThread c k (fun _ => f tid)
      | none => s) s

/-- A team admitted (R46): every thread WAITING on block 0. The examination of the signals that its packet waited for is an acquire
at SYSTEM scope (R44), which its core's loads follow. -/
def State.admitTeam (s : State) (t c : Nat) (g : Grid) : State :=
  ((s.placeTeam t c g).selfInvalidate c).enterThreads t c (fun tid => freshThread t tid g)

end Sys2Proof.Machine
end

