-- ==== Sys2Proof/Machine/Loader.lean ====
section
/-! DEFINITION. The checks of the image loader (R83 to R89, R205): a kernel image given by its bytes is accepted with its blocks,
or refused under the first CAUSE of Table 4.9 that the order of R89 meets. -/

namespace Sys2Proof.Machine

/-- A configuration error: CAUSE, and the block, tile and slot where they apply. -/
structure ImgErr where
  cause : Nat
  block : Option Nat := none
  tile : Option Nat := none
  slot : Option Nat := none
  deriving DecidableEq, Repr

/-- The first error of a list of checks. -/
def firstErr (l : List (Option ImgErr)) : Option ImgErr := l.findSome? id

/-- An error when the condition holds. -/
def errIf (b : Bool) (e : ImgErr) : Option ImgErr := if b then some e else none

/-- n bytes of an image at an offset as a number. -/
def imgAt (raw : List Byte) (off n : Nat) : Nat := leNat ((raw.drop off).take n)

/-- The bytes of an image from an offset. -/
def imgPart (raw : List Byte) (off n : Nat) : List Byte := (raw.drop off).take n

/-! ## Kernel header (R84) -/

/-- What an image must meet besides R83 to R88: a packet's REGS and context, or the rules of a handler image. -/
inductive ImgUse
  | packet (regs : Nat) (ctx : Option Nat)
  | handler
  deriving DecidableEq, Repr

/-- SIZE. -/
def hdrSize (raw : List Byte) : Nat := imgAt raw 0x14 4
/-- DATAOFF. -/
def hdrDataOff (raw : List Byte) : Nat := imgAt raw 0x24 4
/-- DATASIZE. -/
def hdrDataSize (raw : List Byte) : Nat := imgAt raw 0x20 4
/-- REGS: least registers per thread / 16 − 1. -/
def hdrRegs (raw : List Byte) : Nat := bitsOf (imgAt raw 0x10 8) 2 0
/-- NBLK. -/
def hdrNblk (raw : List Byte) : Nat := bitsOf (imgAt raw 0x10 8) 24 16
/-- The context that the kernel requires. -/
def hdrCtx (raw : List Byte) : Option Nat :=
  let w := imgAt raw 0x10 8
  if bitOf w 3 then some (bitsOf w 9 4) else none
/-- NORCR. -/
def hdrNorcr (raw : List Byte) : Bool := bitOf (imgAt raw 0x28 8) 0

/-- A region word. -/
def rectOf (w : Nat) : Rect := ⟨bitsOf w 14 12, bitsOf w 11 9, bitsOf w 8 6 + 1, bitsOf w 5 3 + 1⟩

/-- The region words. -/
def regionWords (raw : List Byte) : List Nat := (upTo 4).map (fun k => imgAt raw (0x18 + 2 * k) 2)

/-- The layout (R84). -/
def hdrLayout (raw : List Byte) : List Rect := ((regionWords raw).filter (fun w => bitOf w 15)).map rectOf

/-- The checks of 0x01 on the header. -/
def headerBad (raw : List Byte) (use : ImgUse) : Bool :=
  let w2 := imgAt raw 0x10 8
  imgAt raw 0 4 ≠ 0x5A4B4E4C || imgAt raw 4 2 ≠ 0 || imgAt raw 6 2 ≠ 1 || bitsOf w2 31 25 ≠ 0 || bitsOf w2 15 10 ≠ 0 ||
  hdrNblk raw < 1 || hdrNblk raw > 256 || imgAt raw 0x28 8 / 2 ≠ 0 || (imgPart raw 0x30 0xC8).any (· ≠ 0) ||
  imgAt raw 0xFC 4 ≠ 0 || (hdrDataOff raw = 0 && hdrDataSize raw ≠ 0) ||
  (use = .handler && (hdrRegs raw > 3 || (hdrCtx raw).isSome || hdrDataOff raw = 0 || hdrDataSize raw < 256))

/-- The checks of 0x02 on SIZE and the data section. A DATAOFF below 0x900, over the header or the table, stands under no case of
Table 4.9: the model refuses it with 0x02 (log entry 45). -/
def sizeBad (raw : List Byte) : Bool :=
  let size := hdrSize raw
  let off := hdrDataOff raw
  size % 256 ≠ 0 || size < 0x900 || (off ≠ 0 && (off % 256 ≠ 0 || off < 0x900 || off + hdrDataSize raw > size))

/-- Do two rectangles share a tile? -/
def Rect.meets (r q : Rect) : Bool := r.x < q.x + q.w && q.x < r.x + r.w && r.y < q.y + q.h && q.y < r.y + r.h

/-- Do the rectangles of a layout stay apart? -/
def rectsApart : List Rect → Bool
  | [] => true
  | r :: rest => rest.all (fun q => !r.meets q) && rectsApart rest

/-- The checks of 0x04 on the layout (R30, R84, R205). -/
def layoutBad (raw : List Byte) (use : ImgUse) : Bool :=
  let ws := regionWords raw
  let l := hdrLayout raw
  let n := l.length
  n = 0 || !(ws.take n).all (fun w => bitOf w 15) || ws.any (fun w => bitsOf w 2 0 ≠ 0) ||
  l.any (fun r => r.x + r.w > 8 || r.y + r.h > 8 || !(r.tiles.any isMTile)) || !rectsApart l ||
  (use = .handler && l ≠ [⟨0, 0, 1, 1⟩])

/-- Step 2 of R89. -/
def headerErr (raw : List Byte) (use : ImgUse) : Option ImgErr :=
  firstErr [errIf (headerBad raw use) { cause := 0x01 }, errIf (hdrSize raw > 0x800000) { cause := 0x12 },
            errIf (sizeBad raw) { cause := 0x02 }, errIf (layoutBad raw use) { cause := 0x04 }]

/-- Step 3 of R89. -/
def packetErr (raw : List Byte) (use : ImgUse) : Option ImgErr :=
  match use with
  | .handler => none
  | .packet regs ctx =>
    errIf (regs < hdrRegs raw || ((hdrCtx raw).isSome && ctx ≠ hdrCtx raw)) { cause := 0x11 }

/-! ## Block table and uncovered bytes (R83, R85) -/

/-- The checksum of an image (R84). -/
def imageCrc (raw : List Byte) : Nat :=
  crc32c (imgPart raw 0 0xF8 ++ List.replicate 4 0 ++ raw.drop 0xFC)

/-- A used table entry: block number, first byte and length in bytes. -/
def tableEntry (raw : List Byte) (n : Nat) : Option (Nat × Nat) :=
  let e := imgAt raw (0x100 + 8 * n) 8
  if bitsOf e 31 16 = 0 then none else some (bitsOf e 15 0 * 256, bitsOf e 31 16 * 256)

/-- Do two byte ranges meet? Whether a section of no bytes that lies inside a block image overlaps it is open: the model counts
it as an overlap (log entry 46). -/
def spansMeet (a b : Nat × Nat) : Bool := a.1 < b.1 + b.2 && b.1 < a.1 + a.2

/-- The data section's bytes. -/
def dataSpan (raw : List Byte) : Nat × Nat := (hdrDataOff raw, hdrDataSize raw)

/-- An entry of the table wrong (R85), given the entries before it. -/
def entryBad (raw : List Byte) (n : Nat) : Bool :=
  let e := imgAt raw (0x100 + 8 * n) 8
  e / 2 ^ 32 ≠ 0 || (n ≥ hdrNblk raw && e ≠ 0) || (n = 0 && (tableEntry raw 0).isNone) ||
  (match tableEntry raw n with
   | none => false
   | some s => s.1 < 0x900 || s.1 + s.2 > hdrSize raw || spansMeet s (dataSpan raw) ||
       (upTo n).any (fun m => match tableEntry raw m with | some t => spansMeet s t | none => false))

/-- Step 6 of R89 but for the reload's comparison. -/
def tableErr (raw : List Byte) (use : ImgUse) : Option ImgErr :=
  match (upTo 256).find? (fun n => entryBad raw n) with
  | some n => some { cause := 0x03, block := some n }
  | none =>
    match use with
    | .packet _ _ => none
    | .handler =>
      errIf ((imgPart raw (hdrDataOff raw) 256).any (fun b => b ≠ 0xFF && (tableEntry raw b.toNat).isNone)) { cause := 0x03 }

/-- Step 7: a byte that nothing covers is not zero. -/
def uncoveredBad (raw : List Byte) : Bool :=
  let spans := (0, 0x900) :: dataSpan raw :: (upTo 256).filterMap (fun n => tableEntry raw n)
  let pages := (upTo (raw.length / 256)).filter (fun p => !spans.any (fun s => s.1 ≤ 256 * p && 256 * (p + 1) ≤ s.1 + s.2))
  pages.any (fun p => (upTo 256).any (fun i =>
    let a := 256 * p + i
    !spans.any (fun s => s.1 ≤ a && a < s.1 + s.2) && imgAt raw a 1 ≠ 0))

/-! ## Slots (R74 to R82) -/

/-- A block as read: number, header bytes, region rectangle and the planes' slots. -/
structure RawBlock where
  n : Nat
  header : List Byte
  rect : Rect
  planes : KMap Plane
  deriving DecidableEq, Repr

/-- HANDLER of a block header. -/
def RawBlock.handler (b : RawBlock) : Bool := bitOf (imgAt b.header 0 8) 43
/-- HELPER of a block header. -/
def RawBlock.helper (b : RawBlock) : Bool := bitOf (imgAt b.header 0 8) 42
/-- WAVES of a block header. -/
def RawBlock.waves (b : RawBlock) : Nat := imgAt b.header 0x0A 1
/-- BUDGET of a block header. -/
def RawBlock.budget (b : RawBlock) : Nat := imgAt b.header 0x09 1
/-- LIVEIN of a block header. -/
def RawBlock.livein (b : RawBlock) : Nat := imgAt b.header 0x08 1
/-- NEDGE of a block header. -/
def RawBlock.nedge (b : RawBlock) : Nat := imgAt b.header 0x0B 1
/-- NMIS of a block header. -/
def RawBlock.nmis (b : RawBlock) : Nat := imgAt b.header 0x0C 1
/-- The edge descriptors. -/
def RawBlock.edges (b : RawBlock) : List Nat := (upTo 12).map (fun i => imgAt b.header (0x10 + 2 * i) 2)
/-- The mismatch descriptors. -/
def RawBlock.misses (b : RawBlock) : List Nat := (upTo 4).map (fun i => imgAt b.header (0x28 + 2 * i) 2)
/-- The slot that the first mismatch descriptor of a tile names (R87). -/
def RawBlock.misSlot (b : RawBlock) (t : Nat) : Option Nat :=
  ((b.misses.take b.nmis).find? (fun d => bitsOf d 10 5 = t)).map (fun d => bitsOf d 4 0)

/-- The slots of a plane image (R88). -/
def planeSlots (raw : List Byte) : KMap SlotBits :=
  (upTo 32).filterMap (fun s =>
    let w := imgAt raw (4 * s) 4
    let l := imgAt raw (0x80 + 4 * s) 4
    if w = 0 && l = 0 then none else some (s, ⟨BitVec.ofNat 32 w, BitVec.ofNat 32 l⟩))

/-- A block of an image as read. -/
def rawBlock (raw : List Byte) (n off len : Nat) (rect : Rect) : RawBlock :=
  { n := n, header := imgPart raw off 64, rect := rect
    planes := rect.tiles.mapIdx (fun i t =>
      (t, { slots := if 0x40 + 256 * (i + 1) ≤ len then planeSlots (imgPart raw (off + 0x40 + 256 * i) 256) else []
            block := some n, rect := rect })) }

/-- The instructions of a plane with their slots. -/
def planeInstrs (p : Plane) : List (Nat × Instr) := p.slots.filterMap (fun b => (slotInstr b.2).map (fun i => (b.1, i)))

/-- The route that the select fields of a slot name, whatever else is wrong with the slot. -/
def slotHead (x : SlotBits) : Option Route :=
  if x.word = 0 then none else (RawWord.ofWord x.word).head.toOption

/-- The instructions of a block: tile, slot, instruction, in plane order. -/
def RawBlock.instrs (b : RawBlock) : List (Nat × Nat × Instr) :=
  b.planes.flatMap (fun p => (planeInstrs p.2).map (fun x => (p.1, x.1, x.2)))

/-- The destinations of an instruction, the further routes of ACCDR among them (R126). -/
def instrDests (i : Instr) : List Dst :=
  match i.route? with
  | none => []
  | some r => [r.d0, r.d1] ++ (match i with | .accdr _ _ r3 r2 => [r3, r2] | _ => [])

/-- The destinations of a slot; of one that holds no instruction those that its fields name. -/
def slotDests (x : SlotBits) : List Dst :=
  match slotInstr x with
  | some i => instrDests i
  | none => match slotHead x with | some r => [r.d0, r.d1] | none => []

/-- The distinct destinations of a plane. -/
def planeDests (p : Plane) : List Dst :=
  (p.slots.flatMap (fun x => slotDests x.2)).foldl (fun acc d => if acc.contains d then acc else acc ++ [d]) []

/-- The distinct link and broadcast destinations of the block that reach a channel of a tile, as producers (R71). -/
def RawBlock.producers (b : RawBlock) (t port : Nat) : Nat :=
  ((b.planes.map (fun p =>
    ((planeDests p.2).filter (fun d => p.1 ≠ t && (receivers b.rect p.1 d).any (fun x => x.1 = t && x.2.1 = port))).length)).sum)

/-- Does a channel of a tile face outward on the core's edge? -/
def facesOut (t port : Nat) : Bool :=
  match port / 2 with
  | 0 => tileY t = 0 | 1 => tileX t = 7 | 2 => tileY t = 7 | _ => tileX t = 0

/-- The neighbour that a channel of a tile faces. -/
def faces (t port : Nat) : Nat :=
  match port / 2 with
  | 0 => t - 8 | 1 => t + 1 | 2 => t + 8 | _ => t - 1

/-- Is the port an entry channel of the tile (R75)? -/
def isEntry (t port : Nat) : Bool := (tileX t = 0 && port = 6) || (tileX t = 7 && port = 2)

/-- The ports that an instruction names as sources. -/
def instrPorts (i : Instr) : List Nat := i.tokenSources.filterMap srcPort

/-- The ports that a slot names as sources; of one that holds no instruction those that its fields name. -/
def slotPorts (x : SlotBits) : List Nat :=
  match slotInstr x with
  | some i => instrPorts i
  | none => match slotHead x with | some r => [r.sa, r.sb].filterMap srcPort | none => []

/-- The ports that a plane names. -/
def planePorts (p : Plane) : List Nat := p.slots.flatMap (fun x => slotPorts x.2)

/-- May a port be named in the tile's plane (R75)? -/
def RawBlock.portOk (b : RawBlock) (t : Nat) (p : Plane) (port : Nat) : Bool :=
  if port ≥ 8 then (planeDests p).any (fun d => (dstQueue d).map (· + 8) = some port)
  else if facesOut t port then isEntry t port
  else b.rect.has (faces t port) && b.producers t port ≥ 1

/-- R118: the rules of MMA and MMARM in a plane, at a slot. -/
def mmaPlaneBad (p : Plane) (slot : Nat) (i : Instr) : Bool :=
  let mmas := (planeInstrs p).filter (fun x => match x.2 with | .mma _ _ _ _ => true | _ => false)
  let arms := (planeInstrs p).filter (fun x => match x.2 with | .mmarm _ _ _ _ _ => true | _ => false)
  match i with
  | .mma _ sb md su =>
    arms.isEmpty ||
    (match mmas with
     | (a, .mma _ _ md0 su0) :: rest =>
       if a = slot then decide (sb = .none)
       else decide (sb ≠ .none) || decide (md ≠ md0) || decide (su ≠ su0) || decide ((rest.head?.map (·.1)) ≠ some slot)
     | _ => false)
  | .mmarm _ _ _ _ _ => mmas.isEmpty || (arms.head?.map (·.1)) ≠ some slot
  | _ => false

/-- The rules of CAUSE 0x07 that relate a slot to its plane and block (R56, R75, R118). -/
def RawBlock.sourceBad (b : RawBlock) (t slot : Nat) (p : Plane) (i : Instr) (r : Route) : Bool :=
  (r.sa = .none && b.misSlot t ≠ some slot) ||
  (instrPorts i).any (fun q => !b.portOk t p q ||
    p.slots.any (fun x => x.1 < slot && (slotPorts x.2).contains q)) ||
  mmaPlaneBad p slot i

/-- The rules of CAUSE 0x08 that relate a slot to its plane and block (R76). -/
def RawBlock.destBad (b : RawBlock) (t : Nat) (p : Plane) (i : Instr) : Bool :=
  (instrDests i).any (fun d =>
    match dstQueue d with
    | some q => !(planePorts p).contains (8 + q)
    | none => match d with
      | .row | .col => (receivers b.rect t d).any (fun x => !(planePorts (KMap.lookD b.planes x.1 {})).contains x.2.1)
      | .discard | .dlr => false
      | d => match linkTarget t d with
        | none => true
        | some x => !b.rect.has x.1 || !(planePorts (KMap.lookD b.planes x.1 {})).contains x.2)

/-- The tile kinds of an opcode (Table 4.6): M-tiles for the LVS and memory instructions, C-tiles for the matrix ones. -/
def tileKindBad (op t : Nat) (handler helper : Bool) : Bool :=
  (((0x10 ≤ op && op ≤ 0x15) || (0x60 ≤ op && op ≤ 0x71)) && !isMTile t) ||
  (0xA0 ≤ op && op ≤ 0xA4 && isMTile t) || (op = 0xB3 && !handler) || ((op = 0x8B || op = 0x8C) && !helper)

/-- The register that an instruction names and that must lie below the kernel's least count (R132, R224, R374). -/
def namedReg : Instr → Option Nat
  | .lin _ _ l | .linx _ _ l | .lint _ _ l | .lout _ l | .loutx _ l => some l.reg.toNat
  | .recruit _ reg _ _ => some reg.toNat
  | .hjoin _ mreg => some mreg.toNat
  | .waitt _ _ reg => some reg.toNat
  | _ => none

/-- The further rules of an entry that relate it to the image (R120, R132, R224, R356). helpers are the block numbers with
HELPER = 1. -/
def entryRuleBad (regs : Nat) (helpers : List Nat) (p : Plane) (i : Instr) : Bool :=
  (match namedReg i with | some n => n ≥ 16 * (regs + 1) | none => false) ||
  (match i with
   | .recruit _ _ _ hblk => !helpers.contains hblk.toNat
   | .mmarm _ _ _ wrows rowbase => rowbase.toNat + (wrows.toNat + 1) > 256
   | .purge _ _ slot =>
     (match (planeInstrs p).find? (fun x => x.1 = slot.toNat) with
      | none => true
      | some (_, .mma _ _ _ _) => true
      | some x => match x.2.route? with
        | none => true
        | some r => !(r.ta = .sticka || r.ta = .stickb || r.ta = .purge))
   | _ => false)

/-- R80 for a slot: its number below the wave count, its links other waved slots' numbers. -/
def RawBlock.waveBad (b : RawBlock) (i : Instr) : Bool :=
  match i.wave? with
  | none => false
  | some w =>
    let owns := b.instrs.filterMap (fun x => match x.2.2.wave? with
      | some v => if v.waved then some v.own else none
      | none => none)
    !w.ok || (w.waved && (w.own.toNat ≥ b.waves || (w.pred ≠ 63#6 && !owns.contains w.pred) ||
      (w.succ ≠ 63#6 && !owns.contains w.succ)))

/-- $fault outside a handler block (R28). -/
def faultSelector (i : Instr) : Bool := match i with | .sreg _ _ .fault => true | _ => false

/-- The checks of a slot's instruction in the order of R89 step 8.2, from 0x0F on: whether each fails, with its CAUSE. -/
def RawBlock.instrChecks (b : RawBlock) (regs : Nat) (helpers : List Nat) (t slot : Nat) (p : Plane) (i : Instr) :
    List (Bool × Nat) :=
  match i.route? with
  | none => [(true, 0x0A)]
  | some r =>
    [ (faultSelector i && !b.handler, 0x0F), (!i.litOk r, 0x0A), (!i.sourceOk r || b.sourceBad t slot p i r, 0x07)
    , (!i.destOk r || b.destBad t p i, 0x08), (!i.entryOk || entryRuleBad regs helpers p i, 0x0A), (b.waveBad i, 0x0E) ]

/-- The CAUSE of the first check that fails. -/
def firstCause (l : List (Bool × Nat)) : Option Nat := (l.find? (·.1)).map (·.2)

/-- The word with D0 and D1 given. -/
def withDests (w : BitVec 32) (d0 d1 : BitVec 5) : BitVec 32 :=
  (w &&& ~~~0xFFC0#32) ||| (d0.zeroExtend 32 <<< 11) ||| (d1.zeroExtend 32 <<< 6)

/-- The instruction that a slot would hold without the one error for which the decoder refuses it, so that the checks that come
before that error find what they judge. -/
def mendedSlot (x : SlotBits) (e : DecodeError) : Option Instr :=
  match e with
  | .destination =>
    let w := x.word
    [withDests w (w.extractLsb' 11 5) 0, withDests w 0 0, withDests w 13 0].findSome? (fun v => (decode v x.lit).toOption)
  | .fenceWaved => (decode x.word (x.lit &&& 0xFFDC0000#32)).toOption
  | _ => none

/-- The CAUSE of a slot that the decoder refuses: that of the decoder, behind the checks that come before it. -/
def RawBlock.refusedErr (b : RawBlock) (regs : Nat) (helpers : List Nat) (t slot : Nat) (p : Plane) (x : SlotBits)
    (e : DecodeError) : Nat :=
  match mendedSlot x e with
  | some i =>
    let l := b.instrChecks regs helpers t slot p i
    (firstCause (l.take (if e.cause = 0x08 then 3 else 5))).getD e.cause
  | none =>
    if e.cause = 0x07 && (match slotHead x with | some r => r.sa = .lit || r.sb = .lit | none => false) then 0x0A else e.cause

/-- The CAUSE of a slot in the order of R89 step 8.2. -/
def RawBlock.slotErr (b : RawBlock) (regs : Nat) (helpers : List Nat) (t slot : Nat) (p : Plane) (x : SlotBits) : Option Nat :=
  let kind := tileKindBad (bitsOf x.word.toNat 31 24) t b.handler b.helper
  match decode x.word x.lit with
  | .error e =>
    if e.cause = 0x06 || e.cause = 0x10 then some e.cause
    else if kind then some 0x09
    else some (b.refusedErr regs helpers t slot p x e)
  | .ok i => if kind then some 0x09 else firstCause (b.instrChecks regs helpers t slot p i)

/-- Step 8.2 for a block: the slots in plane order, and then the entry channel that R75 asks for. Where in the order, and with
which TILE and SLOT, a block that names no entry channel is reported is open: the model reports it behind all slots, with TILE
and SLOT all ones (log entry 47). -/
def RawBlock.slotsErr (b : RawBlock) (regs : Nat) (helpers : List Nat) : Option ImgErr :=
  match b.planes.findSome? (fun p => p.2.slots.findSome? (fun x =>
      (b.slotErr regs helpers p.1 x.1 p.2 x.2).map (fun c => (⟨c, some b.n, some p.1, some x.1⟩ : ImgErr)))) with
  | some e => some e
  | none => errIf (b.planes.all (fun p => (planePorts p.2).all (fun q => !isEntry p.1 q))) ⟨0x07, some b.n, none, none⟩

/-! ## Blocks (R86, R87) -/

/-- Step 8.1: the block header. -/
def RawBlock.headerErr (b : RawBlock) (len regions : Nat) (use : ImgUse) : Option ImgErr :=
  let w := imgAt b.header 0 8
  errIf (bitsOf w 31 0 ≠ 0x5A424C4B || bitsOf w 39 32 ≠ b.n || bitsOf w 41 40 ≥ regions || bitsOf w 47 44 ≠ 0 ||
      bitsOf w 63 52 = 0 || (b.handler && b.helper) || imgAt b.header 0x0D 3 ≠ 0 || b.nedge > 12 || b.nmis > 4 ||
      b.waves > 63 || b.livein > 128 || (imgPart b.header 0x30 16).any (· ≠ 0) ||
      len ≠ 256 * (b.rect.w * b.rect.h + 1) || (use = .handler && !b.handler)) ⟨0x05, some b.n, none, none⟩

/-- The slots of a block that p selects. -/
def RawBlock.slotsOf (b : RawBlock) (p : Instr → Bool) : List (Nat × Nat × Instr) := b.instrs.filter (fun x => p x.2.2)

/-- Slots that count in the store budget (R40, R307, R347, R363). -/
def budgetSlot (i : Instr) : Bool :=
  isBufferedStore i || (match i with | .lout _ _ | .loutx _ _ => true | _ => false)

/-- LIN and LINX slots (R86). -/
def liveinSlot : Instr → Bool
  | .lin _ _ _ | .linx _ _ _ => true
  | _ => false

/-- The wave count that the waved slots of a block need: one more than the highest own number (R80, R86). The count that WAVES must
equal is not stated apart from R80 (DEDUCED, log entry 51). -/
def RawBlock.waveCount (b : RawBlock) : Nat :=
  b.instrs.foldl (fun n x => match x.2.2.wave? with | some w => if w.waved then max n (w.own.toNat + 1) else n | none => n) 0

/-- CAUSE 0x05 against what the block holds. -/
def RawBlock.countsBad (b : RawBlock) : Bool :=
  (b.slotsOf budgetSlot).length ≠ b.budget || (b.slotsOf liveinSlot).length ≠ b.livein || b.waveCount ≠ b.waves ||
  (b.edges.drop b.nedge).any (· ≠ 0) || (b.misses.drop b.nmis).any (· ≠ 0)

/-- CAUSE 0x0B for one edge descriptor, given those before it. -/
def RawBlock.edgeBad (b : RawBlock) (before : List Nat) (e : Nat) : Bool :=
  let t := bitsOf e 5 0
  let ch := bitsOf e 8 6
  !b.rect.has t || !(planePorts (KMap.lookD b.planes t {})).contains ch || bitsOf e 12 9 = 0 ||
  (if isEntry t ch then 1 else b.producers t ch) ≠ bitsOf e 15 13 + 1 || before.any (fun x => bitsOf x 8 0 = bitsOf e 8 0)

/-- The first bad edge descriptor. -/
def RawBlock.edgesErr (b : RawBlock) : List Nat → List Nat → Option ImgErr
  | _, [] => none
  | before, e :: rest =>
    if b.edgeBad before e then some ⟨0x0B, some b.n, some (bitsOf e 5 0), none⟩ else b.edgesErr (before ++ [e]) rest

/-- The declared depth of a channel (R71, R87). -/
def RawBlock.depth (b : RawBlock) (t ch : Nat) : Nat :=
  match (b.edges.take b.nedge).find? (fun e => bitsOf e 5 0 = t && bitsOf e 8 6 = ch) with
  | some e => bitsOf e 12 9 + 1
  | none => 2

/-- CAUSE 0x0B for the channels of a tile. -/
def RawBlock.tileEdgesErr (b : RawBlock) : Option ImgErr :=
  (b.planes.find? (fun p =>
    (upTo 8).any (fun ch =>
      (planePorts p.2).contains ch && !isEntry p.1 ch && b.producers p.1 ch ≠ 1 &&
      !(b.edges.take b.nedge).any (fun e => bitsOf e 5 0 = p.1 && bitsOf e 8 6 = ch)) ||
    ((upTo 8).map (fun ch => b.depth p.1 ch)).sum > 64)).map (fun p => ⟨0x0B, some b.n, some p.1, none⟩)

/-- CAUSE 0x0C (R70, R87). -/
def RawBlock.missErr (b : RawBlock) : List Nat → List Nat → Option ImgErr
  | _, [] => none
  | before, d :: rest =>
    let t := bitsOf d 10 5
    let ok := (planeInstrs (KMap.lookD b.planes t {})).any (fun x => x.1 = bitsOf d 4 0 &&
      (match x.2.route? with | some r => r.sa = .none && r.sb = .none && r.ta = .unary | none => false))
    if d / 2 ^ 11 ≠ 0 || !b.rect.has t || !ok || before.any (fun x => bitsOf x 10 5 = t) then
      some ⟨0x0C, some b.n, some t, some (bitsOf d 4 0)⟩
    else b.missErr (before ++ [d]) rest

/-- The barrier slots (R298). -/
def barrierSlot : Instr → Bool
  | .bar _ _ | .bara _ _ | .barw _ _ => true
  | _ => false

/-- The wait slots (R372). -/
def waitSlot : Instr → Bool
  | .waitt _ _ _ | .sleep _ _ | .bar _ _ | .barw _ _ | .hjoin _ _ | .waitly _ => true
  | _ => false

/-- RECRUIT. -/
def recruitSlot : Instr → Bool
  | .recruit _ _ _ _ => true
  | _ => false

/-- HRED. -/
def hredSlot : Instr → Bool
  | .hred _ _ => true
  | _ => false

/-- The memory slots that an atomic's block must wave (R296). -/
def mustWave (i : Instr) : Bool :=
  match memCtlOf i with | some m => !m.wave.waved | none => false

/-- The second of the slots that may stand once. -/
def RawBlock.twice (b : RawBlock) (p : Instr → Bool) : Option ImgErr :=
  match b.slotsOf p with
  | _ :: x :: _ => some ⟨0x0D, some b.n, some x.1, some x.2.1⟩
  | _ => none

/-- CAUSE 0x0D: the budget, the atomic's placement and the slots that stand once (R39, R40, R224, R296, R298, R372). -/
def RawBlock.limitsErr (b : RawBlock) : Option ImgErr :=
  let atomics := b.slotsOf isAtomic
  let waves := b.instrs.filterMap (fun x => match x.2.2.wave? with
    | some w => if w.waved then some w.own.toNat else none
    | none => none)
  firstErr
    [ (match (b.slotsOf budgetSlot)[32]? with | some x => some ⟨0x0D, some b.n, some x.1, some x.2.1⟩ | none => none)
    , (match atomics with
       | [] => none
       | x :: _ =>
         (match (b.slotsOf mustWave).head? with
          | some y => some (⟨0x0D, some b.n, some y.1, some y.2.1⟩ : ImgErr)
          | none => match x.2.2.wave? with
            | none => none
            | some w => errIf (w.succ ≠ 63#6 || waves.any (fun n => n > w.own.toNat)) ⟨0x0D, some b.n, some x.1, some x.2.1⟩))
    , b.twice isAtomic, b.twice recruitSlot, b.twice hredSlot, b.twice barrierSlot, b.twice waitSlot ]

/-- CAUSE 0x0E of the block: the later of two slots with one own number. -/
def RawBlock.sharedWave (b : RawBlock) : List Nat → List (Nat × Nat × Instr) → Option ImgErr
  | _, [] => none
  | seen, x :: rest =>
    match x.2.2.wave? with
    | none => b.sharedWave seen rest
    | some w =>
      if !w.waved then b.sharedWave seen rest
      else if seen.contains w.own.toNat then some ⟨0x0E, some b.n, some x.1, some x.2.1⟩
      else b.sharedWave (w.own.toNat :: seen) rest

/-- Step 8 of R89 for one block. -/
def RawBlock.err (b : RawBlock) (len regions regs : Nat) (helpers : List Nat) (use : ImgUse) : Option ImgErr :=
  firstErr
    [ b.headerErr len regions use, b.slotsErr regs helpers, errIf b.countsBad ⟨0x05, some b.n, none, none⟩
    , b.edgesErr [] (b.edges.take b.nedge), b.tileEdgesErr, b.missErr [] (b.misses.take b.nmis), b.limitsErr
    , b.sharedWave [] b.instrs ]

/-- A checked block. -/
def RawBlock.block (b : RawBlock) : Block :=
  let w := imgAt b.header 0 8
  let planes : KMap Plane := b.planes.map (fun p => (p.1, { p.2 with
    depths := (b.edges.take b.nedge).filterMap (fun e =>
      if bitsOf e 5 0 = p.1 then some (bitsOf e 8 6, bitsOf e 12 9 + 1) else none)
    producers := (upTo 8).filterMap (fun ch =>
      if (planePorts p.2).contains ch && !isEntry p.1 ch then some (ch, b.producers p.1 ch) else none)
    mismatch := b.misSlot p.1 }))
  { region := bitsOf w 41 40, depth := bitsOf w 63 52, ii := bitsOf w 51 48 + 1, handler := b.handler, helper := b.helper
    waves := b.waves, budget := b.budget, livein := b.livein
    linRegs := sortBy id (dedupNat ((b.slotsOf liveinSlot).filterMap (fun x => namedReg x.2.2)))
    entries := b.planes.flatMap (fun p => ((planePorts p.2).filter (fun q => isEntry p.1 q)).map (fun q => (p.1, q)))
    planes := planes, header := b.header }

/-! ## The whole check (R89) -/

/-- The blocks of an image as read. -/
def imageRawBlocks (raw : List Byte) : List (Nat × RawBlock) :=
  (upTo 256).filterMap (fun n => (tableEntry raw n).map (fun e =>
    let region := bitsOf (imgAt raw e.1 8) 41 40
    (e.2, rawBlock raw n e.1 e.2 ((hdrLayout raw).getD region ⟨0, 0, 0, 0⟩))))

/-- The blocks with HELPER = 1. -/
def helperBlocks (l : List (Nat × RawBlock)) : List Nat := (l.filter (fun b => b.2.helper)).map (fun b => b.2.n)

/-- Step 8 of R89. -/
def blocksErr (raw : List Byte) (use : ImgUse) : Option ImgErr :=
  let l := imageRawBlocks raw
  l.findSome? (fun b => b.2.err b.1 (hdrLayout raw).length (hdrRegs raw) (helperBlocks l) use)

/-- The header, table and block headers that a reload compares, without IMGTAG and CHECK (R92). -/
def imageFace (raw : List Byte) : List (List Byte) :=
  [imgPart raw 0 8 ++ imgPart raw 0x10 0xE8 ++ imgPart raw 0xFC 4, imgPart raw 0x100 0x800] ++
  (upTo 256).filterMap (fun n => (tableEntry raw n).map (fun e => imgPart raw e.1 64))

/-- Steps 5 to 8 of R89 on an image read in full; old is the face of the copy that a reload replaces. -/
def bodyErr (raw : List Byte) (use : ImgUse) (old : Option (List (List Byte))) : Option ImgErr :=
  firstErr
    [ errIf (imageCrc raw ≠ imgAt raw 0xF8 4) { cause := 0x02 }, tableErr raw use
    , (match old with | some f => errIf (f ≠ imageFace raw) { cause := 0x13 } | none => none)
    , errIf (uncoveredBad raw) { cause := 0x02 }, blocksErr raw use ]

/-- An accepted image. -/
def imageOf (aspace va : Nat) (raw : List Byte) (handler : Bool) (dies : List Nat) (now : Tick) : Image :=
  { aspace := aspace, va := va, tag := BitVec.ofNat 64 (imgAt raw 8 8), size := hdrSize raw, nregs := 16 * (hdrRegs raw + 1)
    ctx := hdrCtx raw, norcr := hdrNorcr raw, handler := handler, layout := hdrLayout raw
    blocks := (imageRawBlocks raw).map (fun b => (b.2.n, b.2.block)), header := imgPart raw 0 0x100
    table := imgPart raw 0x100 0x800, actions := if handler then imgPart raw (hdrDataOff raw) 256 else []
    dies := dies, lastUse := now }

/-- The face of a stored image (R92). -/
def Image.face (i : Image) : List (List Byte) :=
  [i.header.take 8 ++ (i.header.drop 0x10).take 0xE8 ++ (i.header.drop 0xFC).take 4, i.table] ++
  (KMap.vals i.blocks).map (·.header)

/-- The code word of CFGERR (R89). -/
def ImgErr.word (e : ImgErr) (q : Option Nat) : Nat :=
  e.cause * 2 ^ 40 + onesIfNone 8 e.block * 2 ^ 32 + onesIfNone 6 e.tile * 2 ^ 26 + onesIfNone 5 e.slot * 2 ^ 21 + onesIfNone 6 q

end Sys2Proof.Machine
end

