-- ==== Sys2Proof/Machine/Areas.lean ====
section
/-! DEFINITION. What a swap and a pre-emption write to memory: the parts of a team's save area (R217, Table 10.8) and of a die's
context area (R221, R223). The spec gives the offsets and the contents of the parts; the packing within a part is the model's
(log entry 20). -/

namespace Sys2Proof.Machine

/-! ## The team save area (R217, Table 10.8) -/

/-- The 528 bytes of a barrier; mine selects the arrival bits of the team. -/
def Barrier.toBytes (b : Barrier) (rank : Option Nat) : List Byte :=
  let ids := b.arrived.filterMap (fun a => match rank with
    | none => some a
    | some r => if a / 4096 = r then some (a % 4096) else none)
  leBytes 512 (ids.foldl (fun m i => m ||| 2 ^ i) 0) ++ leBytes 4 b.phase.toNat ++ leBytes 4 0 ++ leBytes 8 b.count

/-- The number of a state in the order of Table 2.3. -/
def TState.code : TState → Nat
  | .vacant => 0 | .waiting => 1 | .running => 2 | .sleeping => 3 | .barwait => 4 | .joining => 5 | .layerwait => 6
  | .parked => 7 | .trapped => 8 | .exited => 9

/-- The number of a slot state: HELPER for a slot that serves as one. -/
def Thread.stateCode (t : Thread) : Nat := if t.helper.isSome then 10 else t.st.code

/-- The tick at which a thread wakes, or the layer for which it waits. -/
def Thread.wakeOrLayer (t : Thread) : Nat :=
  match t.wait with
  | some (.tick n) | some (.promise n _ _ _) | some (.layer n) | some (.retryAt n) | some (.layerAt n _) => n
  | _ => 0

/-- The 32 bytes of a thread record: state, block, class, spin-detector B, H and n, wake tick or layer, replay mark. -/
def Thread.toBytes (t : Thread) : List Byte :=
  leBytes 1 t.stateCode ++ leBytes 1 t.next ++ leBytes 1 t.cls ++ leBytes 1 (b2n t.spinB.isSome + 2 * b2n (!t.replay.isEmpty)) ++
  leBytes 4 (t.spinB.getD 0) ++ leBytes 4 t.spinH.toNat ++ leBytes 4 t.spinN ++ leBytes 8 t.wakeOrLayer ++ leBytes 8 0

/-- The 1,024 bytes of a recruitment under its recruiter's $tid. -/
def Recruitment.toBytes (tid : Nat) (r : Recruitment) : List Byte :=
  let mask (l : List Nat) : Nat := l.foldl (fun m i => m ||| 2 ^ i) 0
  leBytes 2 tid ++ leBytes 1 r.reg ++ leBytes 1 r.fop.code.toNat ++ leBytes 1 r.hblk ++ leBytes 1 r.slots.length ++
  leBytes 1 (1 + 2 * b2n r.opened + 4 * b2n r.orphan) ++ leBytes 1 0 ++ leBytes 8 r.arg.toNat ++
  leBytes 8 (mask r.done) ++ leBytes 8 (mask (KMap.keys r.contrib)) ++ leBytes 8 (mask r.released) ++ leBytes 24 0 ++
  (upTo 64).flatMap (fun i => leBytes 2 (r.slots.getD i 0)) ++ leBytes 64 0 ++
  (upTo 64).flatMap (fun i => leBytes 8 (KMap.lookD r.contrib i 0).toNat) ++ leBytes 256 0

/-- The recruitments of a team in order, closed by an entry of zero. -/
def Team.recBytes (x : Team) : List Byte :=
  x.recs.flatMap (fun p => p.2.toBytes p.1) ++ (if x.recs.length < 64 then leBytes 8 0 else [])

/-- The parts of a team's save area: offset and bytes; saved gives the thread of a slot as the area keeps it. -/
def State.areaParts (s : State) (saved : Nat → Thread) (t c : Nat) (x : Team) (g : Grid) : List (Nat × List Byte) :=
  let header : List Nat := [g.queue, g.gen.toNat, g.packet, x.index, x.rank, x.hands, g.nregs, s.now c]
  let ids := (x.parks.flatMap (fun p => p.2.requests.map (fun i => p.1 * 2 ^ 32 + i))).take 4096
  let regs := x.slots.mapIdx (fun tid k =>
    (0x40000 + 8 * g.nregs * tid, (upTo g.nregs).flatMap (fun v => leBytes 8 ((s.thread c k).reg v).toNat)))
  [(0, header.flatMap (leBytes 8)),
   (0x1000, x.slots.flatMap (fun k => (saved k).toBytes)),
   (0x21000, (upTo 16).flatMap (fun n => (s.barrier t n).toBytes none)),
   (0x23100, (upTo 8).flatMap (fun n => (s.barrier t (16 + n)).toBytes (some x.rank))),
   (0x25000, x.recBytes),
   (0x35000, (ids ++ [0]).flatMap (leBytes 8))] ++ regs

/-- The physical address of a save area. -/
def State.areaBase (s : State) (a : Nat) : Nat := s.regBits .dlrSavebase 0 51 22 * 2 ^ 22 + a * 0x240000

/-! ## The die context area (R221, R223) -/

/-- The 136 bytes of a row or column: 128 of its data, and 8 scales of a Q4 burst. -/
def sectionBytes (l : List Token) : List Byte :=
  let data := ((l.drop (l.length - 4)).flatMap (fun t => leBytes 32 t.data.toNat))
  let scales := if l.length = 5 then (q4Blocks l).flatMap (fun b => leBytes 1 b.1) else []
  (data ++ List.replicate (128 - data.length) 0) ++ (scales ++ List.replicate (8 - scales.length) 0)

/-- The state of a C-tile's matrix unit (Table 6.1): one accumulator per 8 bytes, DEF bits, flag word, section registers, pass
counters, the column set, and the rows held. -/
def Matrix.toBytes (m : Matrix) : List Byte :=
  (upTo 4096).flatMap (fun i => leBytes 8 (KMap.lookD m.acc i 0).toNat) ++
  leBytes 32 (m.defs.foldl (fun a r => a ||| 2 ^ r) 0) ++ leBytes 8 m.flags.toNat ++
  [b2n m.armed, m.mode.toNat, m.subs.toNat, b2n m.clr, m.ncol, m.wrows, m.rowbase, m.rem].flatMap (leBytes 8) ++
  (upTo 256).flatMap (fun p => leBytes 4 (KMap.lookD m.pass p 0)) ++
  (upTo 16).flatMap (fun j => sectionBytes (m.cols.getD j [])) ++
  (upTo 4).flatMap (fun j => match m.rows[j]? with
    | some r => leBytes 1 1 ++ leBytes 1 r.window ++ leBytes 6 0 ++ leBytes 8 r.pass ++ sectionBytes r.beats
    | none => leBytes 152 0)

/-- The bytes of a plane: the words and literals of its 32 slots (R74). -/
def Plane.toBytes (p : Plane) : List Byte :=
  (upTo 32).flatMap (fun n => match KMap.look p.slots n with
    | some b => leBytes 4 b.word.toNat ++ leBytes 4 b.lit.toNat
    | none => leBytes 8 0)

/-- The bytes of a buffered entry (R223): its kind and size, and its cells, words or values. -/
def Buffered.toBytes (b : Buffered) : List Byte :=
  let cells (units : List (List Host.Cell)) : List Byte := units.flatMap (fun u => u.flatMap (fun x => leBytes 7 x.1 ++ [x.2]))
  let x : Nat × List Byte := match b.kind with
    | .bytes units full _ => (b2n full, cells units)
    | .empties ws => (2, ws.flatMap (leBytes 8))
    | .fill l v => (3, leBytes 8 l ++ leBytes 8 v.toNat)
    | .lineCopy d src => (4, leBytes 8 d ++ leBytes 8 src)
    | .reg n v => (5, leBytes 8 n ++ leBytes 8 v.toNat)
  leBytes 1 x.1 ++ leBytes 1 (b.own.getD 255) ++ leBytes 2 b.id ++ leBytes 4 x.2.length ++ x.2

/-- What a thread whose tokens a held region holds carries with it: its buffered stores and LOUTs, and the values of its HRED
(R223). -/
def heldBytes (k : Nat) (e : Exec) : List Byte :=
  let reds := e.acts.filterMap (fun a => match a with | .hred v => some v | _ => none)
  leBytes 2 k ++ leBytes 1 e.block ++ leBytes 1 reds.length ++ leBytes 4 e.buffered.length ++
  e.buffered.flatMap Buffered.toBytes ++ reds.flatMap (fun v => leBytes 8 v.toNat)

/-- The C-tiles of a core in slot order (R12): the columns 1 to 6. -/
def cTiles : List Nat := (upTo 64).filter (fun t => 1 ≤ t % 8 && t % 8 ≤ 6)

/-- The held regions of a core as the area keeps them: the active plane and the items of every tile, the entries of the threads,
and the records of the traps of a frozen region. -/
def Core.heldPart (k : Core) (tiles : List Nat) (threads : List (Nat × Exec))
    (traps : List Trap) : List Byte :=
  tiles.flatMap (fun t =>
    let tl := KMap.lookD k.tiles t {}
    let l := operandList tl
    leBytes 4 t ++ leBytes 4 l.length ++ tl.main.plane.toBytes ++ l.flatMap OpItem.toBytes) ++
  leBytes 8 threads.length ++ threads.flatMap (fun p => heldBytes p.1 p.2) ++
  leBytes 8 traps.length ++ traps.flatMap (fun t => t.record.toBytes)

end Sys2Proof.Machine
end

