-- ==== Sys2Proof/Machine/Swap.lean ====
section
/-! DEFINITION. Swapping and pre-emption (R214 to R223): the drain and the save of a team, the withdrawal of a swap,
re-admission, and the pre-emption and restore of a fabric die. -/

namespace Sys2Proof.Machine

/-! ## The state of a team that leaves its core (R215) -/

/-- Is the thread one of the team's? -/
def State.ofTeam (s : State) (c t k : Nat) : Bool :=
  !isHandlerKey k && (s.thread c k).team = t && (s.thread c k).st ≠ .vacant

/-- Step 3 of R215: no token, no store-buffer entry, no running handler; and no access and no fault token outstanding. -/
def State.teamDrained (s : State) (t : Nat) : Bool :=
  match (s.team? t).bind (·.core) with
  | none => false
  | some c =>
    let p (k : Nat) : Bool := s.ofTeam c t k
    (s.core c).threads.all (fun x => !p x.1 || x.2.exec.isNone) && !(s.core c).tiles.any (fun x => x.2.holdsOf p) &&
    !(s.core c).accesses.any (fun a => p a.2.thread) && !(s.core c).handlerRuns p &&
    !(s.core c).faultNet.any (fun f => match f.thread with | some k => p k | none => false)

/-- The trap of a thread: one that waits for a handler slot, or one that was raised. -/
def Core.trapOf (k : Core) (j : Nat) : Option Trap :=
  match k.traps.find? (fun t => t.thread = some j) with
  | some t => some t
  | none => (k.hslots.find? (fun h => h.2.thread = some j)).map (·.2)

/-- A thread as a save area keeps it (R49, R164, R165, R215): at the entry of its block, without reservation and with its count of
failed SCs at zero. One whose block has committed behind an atomic stays TRAPPED (R39). The region of a trap that it takes in its
wait is that of the block it is to enter (R207). -/
def State.savedThread (s : State) (c k : Nat) : Thread :=
  let t := s.thread c k
  let t : Thread := { t with
    exec := none, resv := none, hold := none, failed := 0, queued := false, reserved := false, fence := none
    lastRegion := s.regionForBlock c k t.next }
  match t.st with
  | .running => { t with st := .waiting, wait := none }
  | .trapped =>
    (match (s.core c).trapOf k with
     | some x => match x.kind, x.waitOf with
       | .wait, some (.layer n) => { t with st := .layerwait, wait := some (.layer n) }
       | .wait, some w => { t with st := .sleeping, wait := some w }
       | _, _ => if x.afterAtomic then t else { t with st := .waiting, wait := none }
     | none => { t with st := .waiting, wait := none })
  | _ => t

/-- A trap that is to be delivered again: not begun, nothing repaired. -/
def Trap.afresh (t : Trap) : Trap :=
  { t with running := false, raised := false, repairs := [], dropped := [], performed := false, img := none }

/-- The traps of a thread that it takes along, by its $tid: those of R39, unresolved. -/
def State.keptTraps (s : State) (c : Nat) (x : Team) : KMap Trap :=
  (x.slots.mapIdx (fun tid k => (tid, k))).filterMap (fun p =>
    match (s.core c).trapOf p.2 with
    | some t => if t.afterAtomic && t.kind = .exit && (s.thread c p.2).st = .trapped then some (p.1, t.afresh) else none
    | none => none)

/-- The traps of threads that leave a core leave its station (R215 step 4). One that has been raised keeps its slot, which only the
FST_RESOLVE that names it frees (R208), and resolves with no effect. -/
def Core.dropTraps (q : Core) (p : Nat → Bool) : Core :=
  let gone (x : Trap) : Bool := match x.thread with | some k => p k | none => false
  { q with
    traps := q.traps.filter (fun x => !gone x)
    hslots := (q.hslots.filter (fun h => !gone h.2 || h.2.raised)).map (fun h =>
      if gone h.2 then (h.1, { h.2 with void := true }) else h) }

/-- The traps of the team's threads leave the station. -/
def State.dropTraps (s : State) (c t : Nat) : State :=
  s.updCore c (fun k => k.dropTraps (fun j => s.ofTeam c t j))

/-- The team's threads leave batches and entry queues. -/
def State.leaveBatches (s : State) (c : Nat) (p : Nat → Bool) : State :=
  s.updCore c (fun q => { q with regions := KMap.mapVals q.regions (fun g =>
    { g with entry := g.entry.filter (fun k => !p k)
             batch := g.batch.map (fun b => { b with batch := b.batch.filter (fun k => !p k) }) }) })

/-! ## The save (R215, R217) -/

/-- What is written when a team is saved: physical address and bytes. -/
def State.saveWrites (s : State) (t : Nat) : List (Nat × List Byte) :=
  match s.team? t with
  | none => []
  | some x => match x.core, x.area, s.grid? x.grid with
    | some c, some a, some g => (s.areaParts (s.savedThread c) t c x g).map (fun p => (s.areaBase a + p.1, p.2))
    | _, _, _ => []

/-- Bytes written by the device at several addresses. -/
def State.writeAll (s : State) (w : List (Nat × List Byte)) : State := w.foldl (fun s p => s.deviceWrite p.1 p.2) s

/-- A team's state saved, and its place on the core freed (R215 steps 4 to 7). -/
def State.saveTeam (s : State) (t : Nat) : State :=
  match s.team? t with
  | none => s
  | some x => match x.core with
    | none => s
    | some c =>
      let saved : KMap Thread := x.slots.mapIdx (fun tid k => (tid, s.savedThread c k))
      let kept := s.keptTraps c x
      let s := s.writeAll (s.saveWrites t)
      let s := (s.dropTraps c t).leaveBatches c (fun k => s.ofTeam c t k)
      (s.updTeam t (fun x => { x with saved := saved, kept := kept, mark := none })).freeTeam t

/-! ## SWAP_OUT (R191, R215) -/

/-- A discarded team's tokens in regions that stand still are removed, and the blocks of their threads abandoned (R215), as are those
with an access that can never be placed (R138). -/
def State.purgeStill (s : State) (t : Nat) : State :=
  (s.stillRegions t).foldl (fun s cr =>
    let c := cr.1
    let ks := ((s.core c).threads.filter (fun p => s.ofTeam c t p.1 && s.regionHolds c cr.2 p.1)).map (·.1)
    let s := ks.foldl (fun s k => match s.exec? c k with
      | some e => (s.abandon c k e).updThread c k (fun t => { t with st := .waiting })
      | none => s) s
    s.purgeTokens c (fun k => ks.contains k)) s

/-- A die context without the threads of a team: their slots, executions, tokens and traps (R191). -/
def DieContext.dropTeam (x : DieContext) (t : Nat) : DieContext :=
  { x with
    teams := KMap.del x.teams t
    cores := KMap.mapVals x.cores (fun k =>
      let p (j : Nat) : Bool := !isHandlerKey j && (KMap.lookD k.threads j {}).team = t
      let k' := (k.without p).dropTraps p
      { k' with
        threads := k.threads.filter (fun q => !p q.1)
        regions := KMap.mapVals k.regions (fun g =>
          { g with entry := g.entry.filter (fun j => !p j)
                   batch := g.batch.map (fun b => { b with batch := b.batch.filter (fun j => !p j) }) }) }) }

/-- A discarded team that has drained leaves (R191): pending faults and page requests are withdrawn, and R47's order holds. -/
def State.discardTeam (s : State) (t : Nat) : State :=
  match s.team? t with
  | none => s
  | some x =>
    let s := match x.core with
      | some c => (s.dropTraps c t).leaveBatches c (fun k => s.ofTeam c t k)
      | none => s
    let s := { s with saves := match x.area with | some a => s.saves.filter (· ≠ a) | none => s.saves }
    let s := { s with contexts := KMap.mapVals s.contexts (fun x => x.dropTeam t) }
    let s := s.updTeam t (fun x => { x with area := none, saved := [], kept := [], context := none })
    s.retireTeam t

/-- The teams that swap with a team: those of its cluster that are resident (R214, R217). -/
def State.swapUnit (s : State) (t : Nat) : List Nat :=
  (s.clusterTeams t).filter (fun g => match s.team? g with | some y => y.core.isSome && y.mark.isSome | none => false)

/-- May the marked teams of a cluster be saved now (R215 steps 3 and 5)? -/
def State.swapReady (s : State) (t : Nat) : Bool :=
  let l := s.swapUnit t
  l.contains t && l.all (fun g => s.teamDrained g && s.teamVisible g .device)

/-- R215: the marked teams of a cluster are saved together once they have drained, or a discarded team leaves. -/
def execSwapOut (team : Nat) (s : State) : Host.Outcome State Fault Refusal :=
  .next (match s.team? team with
    | none => s
    | some x =>
      if x.discard then
        (if x.retired then s
         else if x.core.isNone then s.discardTeam team
         else
           let s := s.purgeStill team
           if s.teamDrained team && s.teamVisible team .device then s.discardTeam team else s)
      else if !s.swapReady team then s
      else
        let l := s.swapUnit team
        let w := l.flatMap (fun g => s.saveWrites g)
        if w.all (fun p => s.deviceReady p.1 p.2.length) then l.foldl (fun s g => s.saveTeam g) s
        else w.foldl (fun s p => s.deviceRequest p.1 p.2.length) s)

/-! ## SWAP_WITHDRAW (R216) -/

/-- Is the swap of a team to be withdrawn: not drained within the bound, with a region that stands still and holds a token of
it? -/
def State.withdrawDue (s : State) (t : Nat) : Bool :=
  match s.team? t with
  | none => false
  | some x => match x.mark, x.core with
    | some m, some c => s.boundPast (dieOf c) m.restart m.bound m.slow && !s.teamDrained t && !(s.stillRegions t).isEmpty
    | _, _ => false

/-- R216: the marks of the cluster are cleared and the areas freed; helpers stay released. -/
def execSwapWithdraw (team : Nat) (s : State) : Host.Outcome State Fault Refusal :=
  .next (if !s.withdrawDue team then s
    else (s.swapUnit team).foldl (fun s g =>
      match s.team? g with
      | none => s
      | some x =>
        let s := { s with saves := match x.area with | some a => s.saves.filter (· ≠ a) | none => s.saves }
        s.updTeam g (fun y => { y with mark := none, area := none, unmarkable := true })) s)

/-! ## TEAM_READMIT and READMIT_EVENT (R219) -/

/-- Is a swapped team ready: its hands' requests answered, and not held by a pre-emption's context? -/
def State.teamSaved (s : State) (t : Nat) : Bool :=
  match s.team? t with
  | some x => x.core.isNone && !x.retired && !x.discard && x.area.isSome && x.context.isNone && x.parks.isEmpty
  | none => false

/-- The teams that are re-admitted with a team: the swapped ones of its cluster. -/
def State.readmitUnit (s : State) (t : Nat) : List Nat :=
  (s.clusterTeams t).filter (fun g => match s.team? g with
    | some y => y.core.isNone && !y.retired && !y.discard && y.area.isSome
    | none => false)

/-- Is the whole cluster of a team ready, and the team its first? -/
def State.readmitReady (s : State) (t : Nat) : Bool :=
  let l := s.readmitUnit t
  l.head? = some t && l.all (fun g => s.teamSaved g)

/-- The ready teams that stand first in their clusters, in the order in which they are tried. -/
def State.readyTeams (s : State) : List Nat := (KMap.keys s.teams).filter (fun t => s.readmitReady t)

/-- The cores for a ready team and its cluster: rectangle positions of retired members stay empty (R219). -/
def State.readmitCores (s : State) (t : Nat) : Option (List (Nat × Nat)) :=
  match (s.team? t).bind (fun x => s.grid? x.grid) with
  | none => none
  | some g =>
    let l := s.readmitUnit t
    (s.unitCores (s.partition g) g).map (fun cores =>
      l.map (fun k => (k, match s.team? k with | some y => cores.getD y.rank (cores.getD 0 0) | none => 0)))

/-- A thread that resumes: its LAYERWAIT is examined again, its parked hand's answered faults replay (R213, R219). -/
def State.resumeTeam (s : State) (t c : Nat) : State :=
  match s.team? t with
  | none => s
  | some x =>
    let s := (upTo x.hands).foldl (fun s h => if (KMap.look x.parks h).isNone then s.unpark t h else s) s
    (x.slots).foldl (fun s k =>
      let th := s.thread c k
      match th.st, th.wait with
      | .layerwait, some (.layer n) =>
        (match s.ctxOf c k with
         | some m => if s.layerState m n = 1 then s else s.waitLayer c k n th.next
         | none => s)
      | .joining, _ => s.joinNow c k
      | _, _ => s) s

/-- A saved team on its new core (R171, R219): every thread in its saved state, its LVS from the save area. A trap of R39 is
delivered again. -/
def State.readmitTeam (s : State) (t c : Nat) : State :=
  match s.team? t, (s.team? t).bind (fun x => s.grid? x.grid) with
  | some x, some g =>
    let s := s.placeTeam t c g
    let s := s.enterThreads t c (fun tid =>
      let th := KMap.lookD x.saved tid {}
      { th with spinN := 0, cls := 1, due := none })
    let s := { s with saves := match x.area with | some a => s.saves.filter (· ≠ a) | none => s.saves }
    let s := s.updTeam t (fun y => { y with saved := [], kept := [], area := none, readmitAt := none })
    let s := x.kept.foldl (fun (s : State) (p : Nat × Trap) => match ((s.team? t).bind (fun y => y.slotOf p.1)) with
      | some k => s.addTrap c { p.2 with thread := some k, region := (s.thread c k).lastRegion }
      | none => s) s
    (s.selfInvalidate c).resumeTeam t c
  | _, _ => s

/-- R219: a ready team, with its cluster, is placed on a core of its partition, if one has room. -/
def execTeamReadmit (team : Nat) (s : State) : Host.Outcome State Fault Refusal :=
  .next (if !s.readmitReady team then s
    else match s.readmitCores team with
      | none => s
      | some l => l.foldl (fun s p => s.readmitTeam p.1 p.2) s)

/-- The second data word of READMIT: the least shortfall over the cores of the partition, resource by resource. -/
def State.readmitWord (s : State) (g : Grid) : Nat :=
  let l := ((s.partition g).flatMap coresOfDie).map (fun c => s.shortfall c g.need)
  let least (f : Shortfall → Nat) : Nat :=
    match l.map f with | [] => 0 | x :: r => r.foldl min x
  least (·.regs) * 2 ^ 45 + least (·.slots) * 2 ^ 32 + least (·.places) * 2 ^ 27 + least (·.blocks) * 2 ^ 18 +
  b2n (l.all (·.layout)) * 2 ^ 17

/-- R219: READMIT at the first failure, and then at most once per 1,000,000 ticks. -/
def execReadmitEvent (team : Nat) (s : State) : Host.Outcome State Fault Refusal :=
  .next (match s.team? team, (s.team? team).bind (fun x => s.grid? x.grid) with
    | some x, some g =>
      if !s.readmitReady team || (s.readmitCores team).isSome ||
         (match x.readmitAt with | some t => decide (s.time.ref < t) | none => false) then s
      else
        (s.event 0x81 [x.index * 2 ^ 32 + g.queue, s.readmitWord g]).updTeam team
          (fun y => { y with readmitAt := some (s.time.ref + 1000000) })
    | _, _ => s)

/-! ## Pre-emption (R220 to R222) -/

/-- The teams resident on a die. -/
def State.dieTeams (s : State) (d : Nat) : List Nat :=
  (s.teams.filter (fun p => match p.2.core with | some c => dieOf c = d | none => false)).map (·.1)

/-- Save areas assigned to teams that have none, in order. -/
def State.assignAreas (s : State) (l : List Nat) : State :=
  l.foldl (fun s t =>
    match s.team? t, s.freeAreas.head? with
    | some x, some a =>
      if x.area.isSome then s else { s with saves := s.saves ++ [a] }.updTeam t (fun y => { y with area := some a })
    | _, _ => s) s

/-- The entry-queue threads of a core returned to the waiting vectors (R220). -/
def State.emptyEntries (s : State) (c : Nat) : State :=
  let ks := (s.core c).regions.flatMap (fun g => g.2.entry)
  let s := s.updCore c (fun q => { q with regions := KMap.mapVals q.regions (fun g => { g with entry := [], idle := true }) })
  ks.foldl (fun s k => (s.enterWaiting c k (s.thread c k).next).updThread c k (fun t => { t with queued := false })) s

/-- Is a request to pre-empt a die refused (R220)? -/
def State.preemptRefused (s : State) (d : Nat) : Bool :=
  d ≥ s.fabricDies || (s.distOf d).preempting || (s.distOf d).restoring ||
  s.freeAreas.length < (s.dieTeams d).length || s.regN .dlrParg = 0

/-- R220: a write to DLR_PREEMPT. -/
def execDlrPreempt (die : Nat) (s : State) : Host.Outcome State Fault Refusal :=
  .next (if s.preemptRefused die then s.updDist die (fun x => { x with refused := true })
    else
      let teams := s.dieTeams die
      let s := s.assignAreas teams
      let b := s.drainBound die
      let s := s.updDist die (fun x => { x with
        preempting := true, refused := false, writtenAt := s.nowDie die, bound := b, parg := s.regN .dlrParg, slowAt := x.slow })
      let s := teams.foldl (fun s t => s.forceReleaseAll t) s
      (coresOfDie die).foldl (fun s c => s.emptyEntries c) s)

/-- Is a tile quiet for the quiescence tree: nothing in it, or held with its region or its armed section (R220, R221)? -/
def State.tileQuiet (s : State) (c t : Nat) : Bool :=
  let tl := s.tile c t
  let armed := tl.mx.armed && planeHasMma tl.main.plane
  let empty (x : PlaneCtx) : Bool :=
    (armed || x.store.isEmpty) && x.chans.all (fun q => q.2.isEmpty) && x.queues.all (fun q => q.2.isEmpty)
  (match s.regionOfTile c t with | some r => (s.region c r).held | none => false) ||
  (empty tl.main && tl.hctx.isNone && tl.frozen.isNone && tl.pendingEmits.isEmpty &&
    (armed || (tl.mx.arming.isNone && tl.mx.rows.isEmpty)))

/-- Does a region that is held hold tokens of the thread's execution? -/
def State.execHeld (s : State) (c k : Nat) : Bool :=
  match s.exec? c k with | some e => (s.region c e.region).held | none => false

/-- Is a core quiet (R220)? A held region counts as quiet, with the accesses of its threads that still wait for their replies (R138,
R223); a handler thread between two blocks does not keep the core from being saved. -/
def State.coreQuiet (s : State) (c : Nat) : Bool :=
  (s.core c).tiles.all (fun t => s.tileQuiet c t.1) &&
  (s.core c).accesses.all (fun a => a.2.stage = .reply && s.execHeld c a.2.thread && !isHandlerKey a.2.thread) &&
  (s.core c).faultNet.isEmpty &&
  (s.core c).threads.all (fun p => p.2.exec.isNone || (s.execHeld c p.1 && !isHandlerKey p.1))

/-- Does a trap go with the die context: that of a frozen tile (R223), of a thread whose tokens a held region holds, or one of R39?
Every other trap is that of a thread saved as R215 states. -/
def State.savedTrap (s : State) (c : Nat) (t : Trap) : Bool :=
  !t.void && (t.kind = .freezing || (match t.thread with
    | some k => s.execHeld c k || (t.afterAtomic && (s.thread c k).st = .trapped)
    | none => false))

/-- A trap of the context: its handler begins anew, and one raised to system software is raised again (R223). -/
def Trap.again (t : Trap) : Trap := { t.afresh with toSystem := t.toSystem || t.raised }

/-- A core as the die context keeps it: held regions with their planes, items and executions, armed sections, and the matrix
state of every C-tile; a handler that had begun on a held region begins anew (R221, R223). -/
def State.savedCore (s : State) (c : Nat) : Core :=
  let k := s.core c
  let heldTile (t : Nat) : Bool := match s.regionOfTile c t with | some r => (s.region c r).held | none => false
  let displaced (t : Nat) : Option Plane :=
    (k.regions.flatMap (fun g => g.2.displaced)).find? (fun d => d.1 = t) |>.map (·.2)
  let tiles := KMap.mapKV k.tiles (fun t tl =>
    if heldTile t then
      { tl with hctx := none, firedAt := none, shadow := match displaced t with | some p => some p | none => tl.shadow }
    else if tl.mx.armed && planeHasMma tl.main.plane then { tl with shadow := none, hctx := none, firedAt := none }
    else ({ mx := tl.mx } : Tile))
  let open_ := k.traps ++ ((k.hslots.map (·.2)).filter (fun t => t.raised || !t.performed))
  { layout := k.layout, blocks := k.blocks
    regions := KMap.mapVals k.regions (fun g =>
      if g.held then
        { g with hplane := none, displaced := [], chooseAt := none
                 loads := g.loads.map (fun l => { l with cycle := 0 }), lastInj := none }
      else {})
    threads := k.threads.filterMap (fun p =>
      if isHandlerKey p.1 then none
      else some (p.1, if s.execHeld c p.1 then { p.2 with resv := none, hold := none, failed := 0 } else s.savedThread c p.1))
    tiles := tiles
    accesses := k.accesses
    traps := (sortBy (fun t => t.record.seq.toNat) (open_.filter (s.savedTrap c))).map Trap.again
    bufUsed := k.bufUsed }

/-- What remains on a core of a pre-empted die: its matrix state, which no vacancy clears (R116), and the slots of raised traps whose
threads have left, until an FST_RESOLVE names them (R208). -/
def vacatedCore (k : Core) : Core :=
  { degraded := k.degraded
    hslots := (k.hslots.filter (fun h => h.2.raised && h.2.kind ≠ .freezing)).map (fun h => (h.1, { h.2 with void := true }))
    tiles := KMap.mapVals k.tiles (fun tl => ({ mx := tl.mx, hist := tl.hist, spills := tl.spills } : Tile)) }

/-- The context of a die as it stands: its teams' cores and what each core keeps. -/
def State.contextOf (s : State) (d : Nat) : DieContext :=
  { teams := (s.dieTeams d).map (fun t => (t, (((s.team? t).bind (·.core)).getD 0) % 32))
    cores := (coresOfDie d).map (fun c => (c % 32, s.savedCore c)), cycle := (s.die d).cycle }

/-- Teams that leave their cores for the context at an address. -/
def State.vacateTeams (s : State) (l : List Nat) (pa : Nat) : State :=
  l.foldl (fun s t => s.updTeam t (fun x => { x with core := none, mark := none, context := some pa })) s

/-- The cores of a die vacated. -/
def State.vacateCores (s : State) (d : Nat) : State := (coresOfDie d).foldl (fun s c => s.updCore c vacatedCore) s

/-- A die's context entered under its address; the pre-emption is over. -/
def State.keepContext (s : State) (d pa : Nat) (x : DieContext) : State :=
  ({ s with contexts := KMap.put s.contexts pa x } : State).updDist d (fun x => { x with preempting := false })

/-- The header of a context area (R221): the save areas of the teams, with their cores, and for each core its layout and the block
that each held region holds. -/
def State.contextHeader (s : State) (d : Nat) : List (Nat × List Byte) :=
  let ts := s.dieTeams d
  let word (t : Nat) : Nat := match s.team? t with
    | some x => x.area.getD 0 + (x.core.getD 0) % 32 * 2 ^ 32
    | none => 0
  (0, (ts.length :: ts.map word).flatMap (leBytes 8)) ::
  (coresOfDie d).map (fun c =>
    let l := (s.core c).layout.getD []
    (0x40000 + c % 32 * 0x4000,
     leBytes 8 l.length ++ (l.mapIdx (fun r x =>
       [x.x, x.y, x.w, x.h].flatMap (leBytes 2) ++
       leBytes 8 (match (s.region c r).batch with | some b => if (s.region c r).held then b.block + 1 else 0 | none => 0))).flatten))

/-- The parts of a context area (R221, R223): the header, the matrix units of every C-tile of each core, and behind them what each
core's held regions hold. -/
def State.contextParts (s : State) (d : Nat) : List (Nat × List Byte) :=
  s.contextHeader d ++
  (coresOfDie d).flatMap (fun c =>
    let k := s.core c
    let held := (s.regionsOf c).filter (fun r => (s.region c r).held)
    cTiles.mapIdx (fun i t => (0x100000 + c % 32 * 0x200000 + 0xA000 * i, (KMap.lookD k.tiles t {}).mx.toBytes)) ++
    [(0x4100000 + c % 32 * 0x1F0000, k.heldPart (held.flatMap (s.regionTiles c))
      (k.threads.filterMap (fun p => if s.execHeld c p.1 then p.2.exec.map (fun e => (p.1, e)) else none)) (s.savedCore c).traps)])

/-- What the save of a die writes: its teams' areas, and its context area. -/
def State.preemptWrites (s : State) (d : Nat) : List (Nat × List Byte) :=
  (s.dieTeams d).flatMap (fun t => s.saveWrites t) ++
  (s.contextParts d).map (fun p => (bitsOf (s.distOf d).parg 51 27 * 2 ^ 27 + p.1, p.2))

/-- The save of a pre-empted die, after which it is vacant (R221, R223). -/
def State.savePreempted (s : State) (d : Nat) : State :=
  let pa := (s.distOf d).parg
  let w := s.preemptWrites d
  (((s.writeAll w).vacateTeams (s.dieTeams d) pa).vacateCores d).keepContext d pa (s.contextOf d)

/-- May the save of a pre-empted die be written: every core quiet, every committed write visible at DEVICE scope (R171)? -/
def State.preemptQuiet (s : State) (d : Nat) : Bool :=
  (s.distOf d).preempting && (coresOfDie d).all (fun c => s.coreQuiet c) && (s.dieTeams d).all (fun t => s.teamVisible t .device)

/-- R220, R221: the quiescence tree reports, and the die is saved. -/
def execPreemptQuiesce (die : Nat) (s : State) : Host.Outcome State Fault Refusal :=
  .next (if !s.preemptQuiet die then s
    else
      let w := s.preemptWrites die
      if w.all (fun p => s.deviceReady p.1 p.2.length) then s.savePreempted die
      else w.foldl (fun s p => s.deviceRequest p.1 p.2.length) s)

/-- The regions of a die that stand still, with their cores. -/
def State.stillOf (s : State) (d : Nat) : List (Nat × Nat) :=
  (coresOfDie d).flatMap (fun c => ((s.regionsOf c).filter (fun r => s.regionStill c r)).map (fun r => (c, r)))

/-- R222, R223: the bound has passed with a region that stands still: such regions are held. -/
def execPreemptBoundExpiry (die : Nat) (s : State) : Host.Outcome State Fault Refusal :=
  let x := s.distOf die
  .next (if !x.preempting || s.preemptQuiet die || !s.boundPast die x.writtenAt x.bound x.slowAt then s
    else (s.stillOf die).foldl (fun s p => s.updRegion p.1 p.2 (fun g => { g with held := true })) s)

/-! ## Restore (R221, R223) -/

/-- Cycle numbers of another die made those of this one; what was past stays past. -/
def rebase (old new x : Nat) : Nat := new - (old - x)

/-- A plane context with its cycle numbers made those of another die. -/
def PlaneCtx.rebase (x : PlaneCtx) (old new : Nat) : PlaneCtx :=
  let shift (l : List Arrival) : List Arrival := l.map (fun a => { a with cycle := Machine.rebase old new a.cycle })
  { x with store := x.store.map (fun e => { e with cycle := Machine.rebase old new e.cycle }), busyDst := []
           chans := KMap.mapVals x.chans shift, queues := KMap.mapVals x.queues shift }

/-- A tile with its cycle numbers made those of another die. -/
def Tile.rebase (tl : Tile) (old new : Nat) : Tile :=
  { tl with
    main := tl.main.rebase old new
    frozen := tl.frozen.map (fun z => { z with cycle := Machine.rebase old new z.cycle })
    mx := { tl.mx with
      stepUntil := 0
      rows := tl.mx.rows.map (fun r =>
        { r with arrived := Machine.rebase old new r.arrived, fired := Machine.rebase old new r.fired }) } }

/-- Is a request to restore onto a die refused (R221)? -/
def State.restoreRefused (s : State) (d : Nat) : Bool :=
  d ≥ s.fabricDies || !(s.dieTeams d).isEmpty || (s.distOf d).preempting || (s.distOf d).restoring ||
  (KMap.look s.contexts (s.regN .dlrParg)).isNone

/-- A saved core on its target: held blocks stand first, frozen regions are frozen, and their traps are delivered again. -/
def State.restoreCore (s : State) (c old : Nat) (k : Core) : State :=
  let now := (s.die (dieOf c)).cycle
  let keep := s.core c
  (s.updCore c (fun _ => { k with
    degraded := keep.degraded, hslots := keep.hslots
    accesses := KMap.mapVals k.accesses (fun a => { a with
      due := rebase old now a.due, site := { a.site with core := c } })
    tiles := KMap.mapVals k.tiles (fun tl => tl.rebase old now)
    regions := KMap.mapVals k.regions (fun g => { g with held := false })
    threads := KMap.mapVals k.threads (fun t => { t with
      spinN := if t.exec.isSome then t.spinN else 0, cls := if t.exec.isSome then t.cls else 1, due := none }) })).selfInvalidate c

/-- The teams of a context on their cores again (R219). -/
def State.restoreTeams (s : State) (d : Nat) (ctx : DieContext) : State :=
  ctx.teams.foldl (fun s p =>
    match s.team? p.1 with
    | none => s
    | some x =>
      let c := 32 * d + p.2
      let s := { s with saves := match x.area with | some a => s.saves.filter (· ≠ a) | none => s.saves }
      let s := s.updTeam p.1 (fun y => { y with core := some c, area := none, context := none })
      s.resumeTeam p.1 c) s

/-- R221: a write to DLR_RESTORE. -/
def execDlrRestore (die : Nat) (s : State) : Host.Outcome State Fault Refusal :=
  .next (match s.restoreRefused die, KMap.look s.contexts (s.regN .dlrParg) with
    | false, some ctx =>
      let s := ctx.cores.foldl (fun s p => s.restoreCore (32 * die + p.1) ctx.cycle p.2) s
      let s := { s with contexts := KMap.del s.contexts (s.regN .dlrParg) }.updDist die (fun x => { x with refused := false })
      s.restoreTeams die ctx
    | _, _ => s.updDist die (fun x => { x with refused := true }))

end Sys2Proof.Machine
end

