-- ==== Sys2Proof/Machine/Launch.lean ====
section
/-! DEFINITION. Launch (R42 to R49, R89 to R92, R188 to R196): doorbells, packets, signals, the loader's steps, the beginning,
admission, stealing, completion and teardown of grids. -/

namespace Sys2Proof.Machine

/-! ## What the device reads and writes for a launch -/

/-- A byte range as the device reads it, an address of the package's own domain window taken for the line that it names
(R258). -/
def State.deviceRead (s : State) (pa n : Nat) : Nat :=
  match s.target (s.canonAddr pa) with
  | .control off => s.readControl off n
  | _ => s.outsideLoad (s.canonAddr pa) n

/-- The translation of a signal: a semaphore passes no PV check (R196). R48 names translation and protection alone and R45 does
not make a packet with an unaligned DONE or WAIT invalid: the model fails such an address with ALIGN, so that DONE is a device
access fault and WAIT stays pending (log entry 41). -/
def State.signalXlat (s : State) (asp va : Nat) (write : Bool) : Except Nat Nat :=
  if va % 8 ≠ 0 then .error codeALIGN
  else match s.deviceXlat 0 asp va 8 write false with
    | .ok pa => .ok pa
    | .error e =>
      match s.deviceXlat 0 asp va 8 write true with
      | .ok pa =>
        (match s.target pa with
         | .control off => if RegName.dstSem.offset 0 ≤ off && off < RegName.dstSem.offset 256 then .ok pa else .error e
         | _ => .error e)
      | .error _ => .error e

/-- A device access fault (R48): KIND 6, no thread charged. -/
def State.deviceFault (s : State) (code asp va q : Nat) (gen : BitVec 16) (write : Bool) : State :=
  s.queueRecord { code := code, kind := 6, nt := true, nb := true, addr := BitVec.ofNat 64 va, queue := some q, gen := some gen
                  aspace := some asp, time := BitVec.ofNat 64 s.time.ref, info := deviceInfo code write }

/-- STATUS codes of a signal (Table 2.5). -/
inductive SigStatus
  | done | aborted | invalid | imgerr
  deriving DecidableEq, Repr

/-- The code of a STATUS. -/
def SigStatus.code : SigStatus → Nat
  | .done => 1 | .aborted => 2 | .invalid => 3 | .imgerr => 4

/-- Can a completion signal be written now? -/
def State.signalReady (s : State) (asp va : Nat) : Bool :=
  va = 0 || (match s.signalXlat asp va true with | .ok pa => s.deviceReady pa 8 | .error _ => true)

/-- What a signal that must wait asks for. -/
def State.signalRequest (s : State) (asp va : Nat) : State :=
  match s.signalXlat asp va true with
  | .ok pa => s.deviceRequest pa 8
  | .error _ => s

/-- A completion signal written (R43, R48). -/
def State.writeSignal (s : State) (asp va q : Nat) (gen : BitVec 16) (st : SigStatus) : State :=
  if va = 0 then s
  else match s.signalXlat asp va true with
    | .error code => s.deviceFault code asp va q gen true
    | .ok pa => s.deviceWrite pa (leBytes 8 (gen.toNat * 2 ^ 48 + st.code * 2 ^ 40))

/-! ## Queues and packets (R42 to R45, R188, R189) -/

/-- Packet places of a queue's ring. -/
def State.lqSize (s : State) (q : Nat) : Nat := 16 * 2 ^ s.regBits .lqCtl q 3 1
/-- EN of a queue. -/
def State.lqEn (s : State) (q : Nat) : Bool := bitOf (s.regN .lqCtl q) 0
/-- The address space of a queue. -/
def State.lqAspace (s : State) (q : Nat) : Nat := s.regBits .lqCtl q 63 56
/-- The address of a packet. -/
def State.packetVa (s : State) (q i : Nat) : Nat := s.regBits .lqBase q 56 12 * 4096 + 128 * (i % s.lqSize q)

/-- Word n of a packet. -/
def Packet.word (p : Packet) (n : Nat) : Nat := (p.words.getD n 0).toNat
/-- TYPE. -/
def Packet.type (p : Packet) : Nat := bitsOf (p.word 0) 7 0
/-- SER. -/
def Packet.ser (p : Packet) : Bool := bitOf (p.word 0) 53
/-- ROA. -/
def Packet.roa (p : Packet) : Bool := bitOf (p.word 0) 44
/-- NWAIT. -/
def Packet.nwait (p : Packet) : Nat := bitsOf (p.word 0) 43 41
/-- Cluster width. -/
def Packet.cw (p : Packet) : Nat := bitsOf (p.word 0) 40 38 + 1
/-- Cluster height. -/
def Packet.ch (p : Packet) : Nat := bitsOf (p.word 0) 37 36 + 1
/-- REGS. -/
def Packet.regs (p : Packet) : Nat := bitsOf (p.word 0) 34 32
/-- Hands per team. -/
def Packet.hands (p : Packet) : Nat := bitsOf (p.word 0) 31 25 + 1
/-- Teams of the grid. -/
def Packet.teams (p : Packet) : Nat := bitsOf (p.word 1) 31 0 + 1
/-- The model context. -/
def Packet.ctx (p : Packet) : Option Nat := if bitOf (p.word 0) 45 then some (bitsOf (p.word 0) 51 46) else none
/-- The completion signal. -/
def Packet.done (p : Packet) : Nat := p.word 4
/-- A wait signal's address. -/
def Packet.waitVa (p : Packet) (i : Nat) : Nat := p.word (5 + i)
/-- A wait signal's expected generation. -/
def Packet.waitGen (p : Packet) (i : Nat) : Nat := bitsOf (p.word 9) (16 * i + 15) (16 * i)

/-- Is a reserved field non-zero (Table 2.4)? A SIGNAL packet's ignored fields are not among them. -/
def Packet.reservedBad (p : Packet) : Bool :=
  bitsOf (p.word 0) 63 54 ≠ 0 || bitOf (p.word 0) 35 || bitsOf (p.word 0) 24 8 ≠ 0 || bitsOf (p.word 1) 63 32 ≠ 0 ||
  (upTo 6).any (fun i => p.word (10 + i) ≠ 0)

/-- R45: is the packet invalid? -/
def State.packetInvalid (s : State) (p : Packet) : Bool :=
  p.reservedBad || p.nwait > 4 || (p.type ≠ 1 && p.type ≠ 2) ||
  (p.type = 1 &&
    (p.cw * p.ch > 12 || p.teams % (p.cw * p.ch) ≠ 0 || p.hands * 32 * ((p.regs + 1) * 16) > 262144 || p.word 2 % 256 ≠ 0 ||
     (match p.ctx with | some c => !bitOf (s.regN .chrCtl c) 0 | none => false)))

/-- A change of a packet, which its key names. -/
def State.updPacket (s : State) (q i : Nat) (f : Packet → Packet) : State :=
  s.updQueue q (fun x => match KMap.look x.packets i with
    | none => x
    | some p => { x with packets := KMap.put x.packets i (f p) })

/-- R189: a doorbell. -/
def execLqDoorbell (q : Nat) (v : Word) (s : State) : Host.Outcome State Fault Refusal :=
  let x := s.queue q
  .next (if s.lqEn q && x.tear = 0 && decide (v.toNat > x.accepted) && decide (v.toNat ≤ x.head + s.lqSize q) then
      s.updQueue q (fun x => { x with accepted := v.toNat })
    else s.setRegBit .lqErr 0 q)

/-- The completion signal of a packet written, and the packet complete. -/
def State.closePacket (s : State) (q : Nat) (p : Packet) (st : SigStatus) : State :=
  (s.writeSignal (s.lqAspace q) p.done q p.gen st).updPacket q p.key (fun x => { x with st := .complete })

/-- The packet at a queue's head taken into the device: checked, and written INVALID where R45 says so. -/
def State.takePacket (s : State) (q : Nat) (p : Packet) : State :=
  let s := s.updQueue q (fun x => { x with head := x.head + 1, packets := KMap.put x.packets p.key p })
  if s.packetInvalid p then s.closePacket q p .invalid else s

/-- R42, R45: the packet at LQ_HEAD is read in one read. A packet that cannot be read starts nothing (log entry 21). -/
def execPacketRead (q : Nat) (s : State) : Host.Outcome State Fault Refusal :=
  let x := s.queue q
  .next (if x.head ≥ x.accepted then s
    else
      let va := s.packetVa q x.head
      let asp := s.lqAspace q
      let skip (s : State) : State := s.updQueue q (fun x => { x with head := x.head + 1 })
      match s.deviceXlat 0 asp va 128 false false with
      | .error code => skip (s.deviceFault code asp va q x.gen false)
      | .ok pa =>
        if !(linesOf pa 128).all s.readReady then (linesOf pa 128).foldl (fun s l => s.readRequest l) s
        else if (linesOf pa 128).any (fun l => s.outsidePoison l || s.addrFailed (64 * l)) then
          skip (s.deviceFault codePOISON asp va q x.gen false)
        else
          let words := (upTo 16).map (fun i => BitVec.ofNat 64 (s.outsideLoad (pa + 8 * i) 8))
          let p : Packet :=
            { index := x.head, key := x.base + x.head, va := va, words := words, gen := x.gen, seed := s.reg .srdSeed }
          let p : Packet := if p.type = 2 then { p with st := .imaged } else p
          if s.packetInvalid p && !s.signalReady asp p.done then s.signalRequest asp p.done
          else s.takePacket q p)

/-! ## The loader (R89 to R92, R205) -/

/-- The pages of a byte range of an address space as physical pieces, or none where a byte fails translation or protection. -/
def State.imagePieces (s : State) (asp va n : Nat) (handler : Bool) : Option (List (Nat × Nat)) :=
  (pagePieces va n).foldl (fun acc p =>
    match acc, s.deviceXlat 0 asp p.1 p.2 false handler with
    | some l, .ok pa => some (l ++ [(pa, p.2)])
    | _, _ => none) (some [])

/-- Can every line of the pieces be read now? -/
def State.piecesReady (s : State) (l : List (Nat × Nat)) : Bool := l.all (fun p => (linesOf p.1 p.2).all s.readReady)

/-- The bytes of the pieces, or none where a read meets poison or a failed range (R89). -/
def State.piecesBytes (s : State) (l : List (Nat × Nat)) : Option (List Byte) :=
  if l.any (fun p => (linesOf p.1 p.2).any (fun x => s.outsidePoison x || s.addrFailed (64 * x))) then none
  else some (l.flatMap (fun p => s.outsideBytes p.1 p.2))

/-- What the loader's reading of an image answers. -/
inductive LoadResult
  | wait (pieces : List (Nat × Nat))
  | bad (e : ImgErr)
  | good (raw : List Byte)
  deriving DecidableEq, Repr

/-- A range read, or what keeps it from being read. -/
def State.readImage (s : State) (asp va n : Nat) (handler : Bool) : LoadResult :=
  match s.imagePieces asp va n handler with
  | none => .bad { cause := 0x14 }
  | some l =>
    if !s.piecesReady l then .wait l
    else match s.piecesBytes l with
      | none => .bad { cause := 0x14 }
      | some b => .good b

/-- The loader's check of an image in full (R89): steps 1 to 3, the rest of the image, steps 5 to 8. -/
def State.checkImage (s : State) (asp va : Nat) (use : ImgUse) (old : Option (List (List Byte))) : LoadResult :=
  let handler : Bool := use = .handler
  match s.readImage asp va 256 handler with
  | .good hd =>
    (match headerErr hd use, packetErr hd use with
     | some e, _ => .bad e
     | none, some e => .bad e
     | none, none =>
       match s.readImage asp va (hdrSize hd) handler with
       | .good raw => (match bodyErr raw use old with | some e => .bad e | none => .good raw)
       | x => x)
  | x => x

/-- Requests for the lines that the loader waits for. -/
def State.requestPieces (s : State) (l : List (Nat × Nat)) : State :=
  l.foldl (fun s p => (linesOf p.1 p.2).foldl (fun s x => if s.readReady x then s else s.readRequest x) s) s

/-- CFGERR (R89). -/
def State.cfgErr (s : State) (va : Nat) (e : ImgErr) (q : Option Nat) : State := s.event 0x83 [va, e.word q]

/-- The fabric dies of the part as a list. -/
def State.allDies (s : State) : List Nat := upTo s.fabricDies

/-- Is the image needed: a resident team of it, a packet of it waiting for admission, or the handler image (R90)? -/
def State.imagePinned (s : State) (i : Nat) : Bool :=
  s.teams.any (fun t => t.2.core.isSome && (match s.grid? t.2.grid with | some g => g.image = i | none => false)) ||
  s.dist.any (fun d => d.2.shares.any (fun x => !x.units.isEmpty &&
    (match s.grid? x.grid with | some g => g.image = i | none => false))) ||
  s.queues.any (fun q => q.2.packets.any (fun p => p.2.st = .imaged && p.2.image = some i)) ||
  s.station.himage = some i ||
  s.cores.any (fun c => c.2.hslots.any (fun h => h.2.running && h.2.img.any (fun x => x.1 = i)))

/-- Bytes of a fabric die's configuration store (Table 1.2). -/
def storeBytes : Nat := 0x800000

/-- Bytes in use in a die's store. -/
def State.storeUsed (s : State) (d : Nat) : Nat :=
  ((s.images.filter (fun i => i.2.dies.contains d)).map (fun i => i.2.size)).sum

/-- Stores with space made for an image, the images not needed removed in order of last use; none where it still does not
fit (R90). -/
def State.makeRoom (s : State) (size : Nat) : Nat → Option State
  | 0 => none
  | n + 1 =>
    if s.allDies.all (fun d => s.storeUsed d + size ≤ storeBytes) then some s
    else match leastBy (fun (i : Nat × Image) => i.2.lastUse)
        (s.images.filter (fun i => !i.2.dies.isEmpty && !s.imagePinned i.1)) with
      | none => none
      | some i => (s.updImage i.1 (fun x => { x with dies := [], copies := [], dropped := true })).makeRoom size n

/-- A checked image broadcast to the store of every fabric die, and its number; none while it does not fit. -/
def State.storeImage (s : State) (img : Image) : Option (Nat × State) :=
  (s.makeRoom img.size (s.images.length + 1)).map (fun s =>
    (s.nextId, { s with nextId := s.nextId + 1, images := KMap.put s.images s.nextId img }))

/-- The first packet of a queue that waits for its image. -/
def State.packetToLoad (s : State) (q : Nat) : Option Packet :=
  if (s.queue q).tear ≠ 0 then none else ((s.queue q).packets.find? (fun p => p.2.st = .read)).map (·.2)

/-- A stored image of an identity (R90): one that every die holds under the tag. -/
def State.findImage (s : State) (asp va : Nat) (tag : Word) : Option Nat :=
  (s.images.find? (fun i => i.2.aspace = asp && i.2.va = va && i.2.tag = tag && !i.2.handler && !i.2.dropped &&
    i.2.dies = s.allDies && i.2.copies.all (fun c => c.2.1 = tag))).map (·.1)

/-- A packet whose image is at hand. -/
def State.imaged (s : State) (q : Nat) (p : Packet) (i : Nat) : State :=
  (s.updImage i (fun x => { x with lastUse := s.time.ref })).updPacket q p.key
    (fun x => { x with st := .imaged, image := some i })

/-- A packet whose image has failed (R45, R89). -/
def State.imageFails (s : State) (q : Nat) (p : Packet) (e : ImgErr) : State :=
  if !s.signalReady (s.lqAspace q) p.done then s.signalRequest (s.lqAspace q) p.done
  else (s.cfgErr p.va e (some q)).closePacket q p .imgerr

/-- R89, R90: the loader reads the header of the image that a queue's next packet names, and loads and checks the image where
it is not stored. -/
def execImageLoad (q : Nat) (s : State) : Host.Outcome State Fault Refusal :=
  .next (match s.packetToLoad q with
    | none => s
    | some p =>
      let asp := s.lqAspace q
      let va := bitsOf (p.word 2) 56 0
      let use : ImgUse := .packet p.regs p.ctx
      match s.readImage asp (p.word 2) 256 false with
      | .wait l => s.requestPieces l
      | .bad e => s.imageFails q p e
      | .good hd =>
        match s.findImage asp va (BitVec.ofNat 64 (imgAt hd 8 8)) with
        | some i =>
          (match packetErr hd use with
           | some e => s.imageFails q p e
           | none => s.imaged q p i)
        | none =>
          match s.checkImage asp (p.word 2) use none with
          | .wait l => s.requestPieces l
          | .bad e => s.imageFails q p e
          | .good raw =>
            match s.storeImage (imageOf asp va raw false s.allDies s.time.ref) with
            | none => s
            | some (i, s) => s.imaged q p i)

/-- R205: the handler image named by a write of FST_HIMG is checked and installed, or rejected. -/
def execFstHimgWrite (v : Word) (s : State) : Host.Outcome State Fault Refusal :=
  let s := s.setReg .fstHimg 0 v
  let asp := bitsOf v.toNat 63 56
  let low := bitsOf v.toNat 48 0 * 256
  let va := if bitOf low 56 then low + (2 ^ 64 - 2 ^ 57) else low
  .next (match s.checkImage asp va .handler none with
    | .wait l => { s.requestPieces l with waiting := s.waiting ++ [.event (.fstHimgWrite v)] }
    | .bad e =>
      ({ s with station := { s.station with himage := none } }.setRegBit .fstErr 0 3).cfgErr va e none
    | .good raw =>
      match s.storeImage (imageOf asp va raw true s.allDies s.time.ref) with
      | none => { s with waiting := s.waiting ++ [.event (.fstHimgWrite v)] }
      | some (i, s) => { s with station := { s.station with himage := some i } })

/-! ## Aborted grids (R92, R191) -/

/-- Unadmitted units of a grid on any die. -/
def State.unitsLeft (s : State) (g : Nat) : Bool := s.dist.any (fun d => d.2.shares.any (fun x => x.grid = g && !x.units.isEmpty))

/-- A team to be discarded (R191): its helpers are released, its page requests withdrawn; it drains as R215 states. -/
def State.markDiscard (s : State) (t : Nat) : State :=
  match s.team? t with
  | none => s
  | some x =>
    if x.retired then s
    else
      let ids := x.parks.flatMap (fun p => p.2.requests)
      let s := (s.updTeam t (fun y => { y with discard := true, mark := none, parks := [] })).forceReleaseAll t
      let used := s.teams.flatMap (fun p => p.2.parks.flatMap (fun h => h.2.requests))
      { s with station := { s.station with
          requests := s.station.requests.filter (fun r => !ids.contains r.id || used.contains r.id) } }

/-- An incomplete grid aborted: unadmitted units dropped, admitted teams discarded. A grid whose last team has retired stays
as it is. -/
def State.abortGrid (s : State) (g : Nat) (imgErr : Bool) : State :=
  match s.grid? g with
  | none => s
  | some x =>
    if x.complete || x.aborted || (x.retired = x.teams && !s.unitsLeft g) then s
    else
      let s := s.updGrid g (fun y => { y with aborted := true, imgErr := imgErr })
      let s := { s with dist := KMap.mapVals s.dist (fun d => { d with shares := d.shares.filter (fun h => h.grid ≠ g) }) }
      (s.teams.filter (fun t => t.2.grid = g)).foldl (fun s t => s.markDiscard t.1) s

/-! ## IMAGE_RELOAD (R92) -/

/-- Does a plane load, a waiting team or a swapped team need a copy of the image that a store lacks? A load that has begun holds
its planes (R91), and an image whose reload has failed is not read again. -/
def State.reloadDue (s : State) (i : Nat) : Bool :=
  match s.image? i with
  | none => false
  | some x =>
    x.dies ≠ s.allDies && !x.failed &&
    (s.cores.any (fun c => c.2.regions.any (fun g => g.2.loads.any (fun l =>
        l.image = i && l.planes.isNone && !x.dies.contains (dieOf c.1)))) ||
     s.cores.any (fun c => c.2.regions.any (fun g => match g.2.hplane with
        | some k => s.imageOf c.1 k = i && !x.dies.contains (dieOf c.1)
        | none => false)) ||
     s.dist.any (fun d => match (d.2.shares.filter (fun h => !h.units.isEmpty)).head? with
        | some h => (match s.grid? h.grid with | some g => g.image = i && !x.dies.contains d.1 | none => false)
        | none => false) ||
     s.readyTeams.any (fun t => match s.gridOfTeam t with | some g => g.image = i | none => false))

/-- The grids of an image that have a team resident, swapped out or waiting. -/
def State.gridsOfImage (s : State) (i : Nat) : List Nat :=
  (s.grids.filter (fun g => g.2.image = i && !g.2.complete && !g.2.aborted &&
    (s.unitsLeft g.1 || s.teams.any (fun t => t.2.grid = g.1 && !t.2.retired)))).map (·.1)

/-- The image with the copy that a reload has read, in the stores of the dies that lacked it: every die's where none held one,
else as copies of their own (R91, R92). -/
def Image.reloaded (x new : Image) (dies : List Nat) : Image :=
  if x.dies.isEmpty then new
  else { x with
    dies := dies, dropped := false, lastUse := new.lastUse
    copies := (dies.filter (fun d => !x.dies.contains d)).foldl
      (fun (m : KMap (Word × KMap Block)) d => KMap.put m d (new.tag, new.blocks)) x.copies }

/-- R92: a dropped image is read and checked again; a failure aborts the grids of the image. -/
def execImageReload (image : Nat) (s : State) : Host.Outcome State Fault Refusal :=
  .next (match s.image? image with
    | none => s
    | some x =>
      if !s.reloadDue image then s
      else
        let va := if bitOf x.va 56 then x.va + (2 ^ 64 - 2 ^ 57) else x.va
        let use : ImgUse := if x.handler then .handler else .packet 7 x.ctx
        match s.checkImage x.aspace va use (some x.face) with
        | .wait l => s.requestPieces l
        | .bad e =>
          let s := s.updImage image (fun y => { y with failed := true })
          if x.handler then
            ({ s with station := { s.station with himage := none } }.setRegBit .fstErr 0 3).cfgErr va e none
          else (s.gridsOfImage image).foldl (fun s g =>
            match s.grid? g with
            | some y => (s.cfgErr y.va e (some y.queue)).abortGrid g true
            | none => s) s
        | .good raw =>
          let new := imageOf x.aspace x.va raw x.handler s.allDies s.time.ref
          match (s.updImage image (fun y => { y with dies := [] })).makeRoom new.size (s.images.length + 1) with
          | none => s
          | some s => s.updImage image (fun _ => x.reloaded new s.allDies))

/-! ## Waits and the beginning of dispatch (R44, R190) -/

/-- The first packet of a queue that has not begun. -/
def State.packetToBegin (s : State) (q : Nat) : Option Packet :=
  ((s.queue q).packets.find? (fun p => p.2.st = .read || p.2.st = .imaged)).map (·.2)

/-- What an examination makes of a packet whose wait signal i holds the word w (R44). -/
def Packet.examined (p : Packet) (i w : Nat) : Packet :=
  if bitsOf w 63 48 ≠ p.waitGen i then p
  else match bitsOf w 47 40 with
    | 1 => { p with satisfied := p.satisfied ++ [i] }
    | 2 | 3 | 4 => if p.roa then { p with satisfied := p.satisfied ++ [i] } else { p with failedWait := true }
    | _ => p

/-- The semaphore that an address names (R196). -/
def State.semaphoreAt (s : State) (asp va : Nat) : Option Nat :=
  match s.signalXlat asp va false with
  | .error _ => none
  | .ok pa => match s.target pa with
    | .control off => (match regAt off with | some (.dstSem, i) => some i | _ => none)
    | _ => none

/-- R44: wait signal i of the next packet of a queue is examined. A signal that cannot be read counts as pending. A semaphore
is noted as seen: only a write of it brings its next examination (R196). -/
def execWaitSignalExamine (q i : Nat) (s : State) : Host.Outcome State Fault Refusal :=
  .next (match s.packetToBegin q with
    | none => s
    | some p =>
      if i ≥ p.nwait || p.satisfied.contains i || p.failedWait then s
      else match s.signalXlat (s.lqAspace q) (p.waitVa i) false with
        | .error _ => s
        | .ok pa =>
          if !s.readReady (lineOf pa) then s.readRequest (lineOf pa)
          else if s.outsidePoison (lineOf pa) || s.addrFailed pa then s
          else
            let seen := (s.semaphoreAt (s.lqAspace q) (p.waitVa i)).isSome && !p.seen.contains i
            s.updPacket q p.key (fun x =>
              { x.examined i (s.deviceRead pa 8) with seen := if seen then x.seen ++ [i] else x.seen }))

/-- The wait signals of a queue's next packet that are due for an examination: of those neither satisfied nor failed, the ones in
memory, and a semaphore that has not been examined yet. -/
def State.waitsDue (s : State) (q : Nat) : List Nat :=
  match s.packetToBegin q with
  | none => []
  | some p => (upTo p.nwait).filter (fun i => !p.satisfied.contains i && !p.failedWait && !p.seen.contains i)

/-- The examinations that a write of semaphore i brings (R196). -/
def State.semaphoreWaits (s : State) (i : Nat) : List Move :=
  (KMap.keys s.queues).flatMap (fun q => match s.packetToBegin q with
    | none => []
    | some p => ((upTo p.nwait).filter (fun k => s.semaphoreAt (s.lqAspace q) (p.waitVa k) = some i)).map
        (fun k => .event (.waitSignalExamine q k)))

/-- The units, teams or clusters, of a grid that a die takes (R193). -/
def State.dieUnits (s : State) (q units d : Nat) : List Nat :=
  if s.readReg .dstMode 0 = 1 then (if s.regBits .lqCtl q 7 5 = d then upTo units else [])
  else (upTo units).filter (fun u => u % 8 = d)

/-- The grid that a packet of a queue begins (R42, R43). -/
def State.gridFor (s : State) (q : Nat) (p : Packet) (img : Nat) : Grid :=
  { queue := q, packet := p.index, pkt := p.key, gen := p.gen, seed := p.seed, image := img, aspace := s.lqAspace q, teams := p.teams
    cw := p.cw, ch := p.ch, hands := p.hands, nregs := 16 * (p.regs + 1), param := BitVec.ofNat 64 (p.word 3)
    doneVa := BitVec.ofNat 64 p.done, va := p.va, ctx := p.ctx
    norcr := bitOf (p.word 0) 52 || (match s.image? img with | some i => i.norcr | none => false) }

/-- A begun grid's units given to the fabric dies, of d to die d (R193). -/
def State.shareOut (s : State) (id : Nat) (of : Nat → List Nat) : State :=
  s.allDies.foldl (fun s d => s.updDist d (fun x => { x with shares := x.shares ++ [⟨id, of d⟩] })) s

/-- A grid begins (R190, R193). -/
def State.beginGrid (s : State) (q : Nat) (p : Packet) (img : Nat) : State :=
  (({ s with nextId := s.nextId + 1, grids := KMap.put s.grids s.nextId (s.gridFor q p img) } : State).shareOut s.nextId
    (s.dieUnits q (p.teams / (p.cw * p.ch)))).updPacket q p.key (fun x => { x with st := .begun, grid := some s.nextId })

/-- R44, R190, R191: the next packet of a queue begins dispatch, or is aborted, or as a SIGNAL packet writes DONE. -/
def execPacketBegin (q : Nat) (s : State) : Host.Outcome State Fault Refusal :=
  .next (match s.packetToBegin q with
    | none => s
    | some p =>
      let asp := s.lqAspace q
      let close (st : SigStatus) : State :=
        if s.signalReady asp p.done then s.closePacket q p st else s.signalRequest asp p.done
      let earlier := (s.queue q).packets.filter (fun x => x.1 < p.key)
      if (s.queue q).tear ≠ 0 then close .aborted
      else if p.failedWait then close .aborted
      else if p.satisfied.length < p.nwait || (p.ser && !earlier.all (fun x => x.2.st = .complete)) then s
      else if p.type = 2 then close .done
      else match p.st, p.image with
        | .imaged, some i => s.beginGrid q p i
        | _, _ => s)

/-! ## Distributors (R194, R195) -/

/-- The share that a Distributor admits from next. -/
def State.nextShare (s : State) (d : Nat) : Option (Share × Nat) :=
  match (s.distOf d).shares.find? (fun x => !x.units.isEmpty) with
  | some x => (x.units.head?).map (fun u => (x, u))
  | none => none

/-- Does a ready swapped team hold back the admission of new teams on the die (R195, R219)? -/
def State.readmitFirst (s : State) (d : Nat) : Bool :=
  s.readyTeams.any (fun t => match s.gridOfTeam t with | some g => (s.partition g).contains d | none => false)

/-- A unit leaves a die's share. -/
def State.dropUnit (s : State) (d g u : Nat) : State :=
  s.updDist d (fun x => { x with
    shares := x.shares.map (fun h => if h.grid = g then { h with units := h.units.filter (· ≠ u) } else h) })

/-- The teams of a unit created on their cores (R46). -/
def State.admitUnit (s : State) (gid : Nat) (g : Grid) (u : Nat) (cores : List Nat) : State :=
  let n := max 1 g.clusterSize
  (List.zip (upTo n) cores).foldl (fun s p =>
    let id := s.nextId
    let t : Team := { grid := gid, index := u * n + p.1, rank := p.1, core := none, hands := g.hands }
    ({ s with nextId := id + 1, teams := KMap.put s.teams id t }).admitTeam id p.2 g) s

/-- R195: the next team or cluster of a die's Distributor is admitted, if a core or rectangle has room. -/
def execTeamAdmit (die : Nat) (s : State) : Host.Outcome State Fault Refusal :=
  .next (match s.nextShare die with
    | none => s
    | some (h, u) =>
      match s.grid? h.grid with
      | none => s
      | some g =>
        let stored := match s.image? g.image with | some i => i.dies.contains die | none => false
        if !stored || s.readmitFirst die || g.aborted || !s.dieAdmits die then s
        else match s.unitCores [die] g with
          | none => s
          | some cores => (s.dropUnit die h.grid u).admitUnit h.grid g u cores)

/-- Unadmitted units of a die. -/
def State.unitsOf (s : State) (d : Nat) : Nat := ((s.distOf d).shares.map (fun x => x.units.length)).sum

/-- The die that a steal request goes to: the nearest, then the die of the same node, then the lower number (R194). -/
def State.stealVictim (s : State) (d : Nat) : Option Nat :=
  let dist (i : Nat) : Nat := (if i < d then d - i else i - d) * 64 + (if i / 2 = d / 2 then 0 else 32) + i
  leastBy dist (s.allDies.filter (fun i => i ≠ d && s.unitsOf i > 0))

/-- R194: a Distributor without unadmitted work sends a steal request. -/
def execStealRequest (die : Nat) (s : State) : Host.Outcome State Fault Refusal :=
  .next (if s.readReg .dstMode 0 = 1 || !s.dieRuns die || s.unitsOf die ≠ 0 || (s.distOf die).steal.isSome then s
    else s.updDist die (fun x => { x with steal := s.stealVictim die }))

/-- A unit put into an ascending list. -/
def insertUnit (u : Nat) : List Nat → List Nat
  | [] => [u]
  | x :: l => if u ≤ x then u :: x :: l else x :: insertUnit u l

/-- R194: the victim gives up half of the unadmitted units of its oldest grid, the highest indices; they join what the thief
holds of that grid by then. -/
def execStealTransfer (die victim : Nat) (s : State) : Host.Outcome State Fault Refusal :=
  .next (if (s.distOf die).steal ≠ some victim then s
    else
      let s := s.updDist die (fun x => { x with steal := none })
      match (s.distOf victim).shares.find? (fun x => !x.units.isEmpty) with
      | none => s
      | some h =>
        let n := h.units.length
        let m := if n = 1 then 1 else n / 2
        let given := h.units.drop (n - m)
        let s := s.updDist victim (fun x => { x with shares := x.shares.map (fun y =>
          if y.grid = h.grid then { y with units := y.units.take (n - m) } else y) })
        s.updDist die (fun x => { x with shares := x.shares.map (fun y =>
          if y.grid = h.grid then { y with units := y.units.foldr insertUnit given } else y) }))

/-! ## Completion and teardown (R47, R191) -/

/-- The teams of a grid. -/
def State.gridTeams (s : State) (g : Nat) : List Nat := (s.teams.filter (fun t => t.2.grid = g)).map (·.1)

/-- Has the last team of the grid gone, with every write of its teams visible? -/
def State.gridOver (s : State) (g : Nat) : Bool :=
  match s.grid? g with
  | none => false
  | some x =>
    !x.complete && !s.unitsLeft g &&
    (s.gridTeams g).all (fun t => (match s.team? t with | some y => y.retired | none => true) && s.teamVisible t .system) &&
    (x.aborted || x.retired = x.teams)

/-- R47: the completion signal of a grid is written. -/
def execGridComplete (grid : Nat) (s : State) : Host.Outcome State Fault Refusal :=
  .next (match s.grid? grid with
    | none => s
    | some g =>
      if !s.gridOver grid then s
      else if !s.signalReady g.aspace g.doneVa.toNat then s.signalRequest g.aspace g.doneVa.toNat
      else
        let st : SigStatus := if !g.aborted then .done else if g.imgErr then .imgerr else .aborted
        let s := s.writeSignal g.aspace g.doneVa.toNat g.queue g.gen st
        let s := { s with
          teams := s.teams.filter (fun t => t.2.grid ≠ grid)
          dist := KMap.mapVals s.dist (fun d => { d with shares := d.shares.filter (fun h => h.grid ≠ grid) }) }
        (s.updGrid grid (fun x => { x with complete := true })).updPacket g.queue g.pkt (fun p => { p with st := .complete }))

/-- The begun and incomplete grids of a queue. -/
def State.queueGrids (s : State) (q : Nat) : List Nat := (s.grids.filter (fun g => g.2.queue = q && !g.2.complete)).map (·.1)

/-- R191: LQ_TEAR with 1. -/
def execLqTearDrain (q : Nat) (s : State) : Host.Outcome State Fault Refusal :=
  .next (if (s.queue q).tear = 0 then s.updQueue q (fun x => { x with tear := 1 }) else s)

/-- R191: LQ_TEAR with 2; a drain in progress becomes an abort. -/
def execLqTearAbort (q : Nat) (s : State) : Host.Outcome State Fault Refusal :=
  .next ((s.queueGrids q).foldl (fun s g => s.abortGrid g false) (s.updQueue q (fun x => { x with tear := 2 })))

/-- Has an engine a command of a team of the queue that it has not completed? -/
def State.queueCopies (s : State) (q : Nat) : Bool :=
  s.engines.any (fun e => e.2.queue.any (fun c => c.record.queue = some q && !c.handler))

/-- R191: the teardown ends: BUSY and EN clear, the generation advances, and an abort raises ABORTED. -/
def execTeardownComplete (q : Nat) (s : State) : Host.Outcome State Fault Refusal :=
  let x := s.queue q
  .next (if x.tear = 0 || x.head < x.accepted || !x.packets.all (fun p => p.2.st = .complete) || !(s.queueGrids q).isEmpty ||
      s.queueCopies q then s
    else
      let s := s.setReg .lqCtl q (s.reg .lqCtl q &&& ~~~1#64)
      let s := s.updQueue q (fun y => { y with tear := 0, gen := y.gen + 1, packets := [] })
      if x.tear = 2 then s.event 0x82 [q * 2 ^ 10, x.gen.toNat] else s)

/-! ## LQ_CTL, DST_MODE, DST_SEM (R188, R192, R196) -/

/-- R188: a write of LQ_CTL that sets EN. Packets read earlier and not yet begun stay. -/
def execLqEnable (q : Nat) (v : Word) (s : State) : Host.Outcome State Fault Refusal :=
  .next (if s.z240 && bitsOf v.toNat 7 5 ≥ 4 then s.setRegBit .lqErr 0 q
    else if s.lqEn q || !bitOf v.toNat 0 then s
    else (s.setReg .lqCtl q v).updQueue q (fun x =>
      { x with base := x.base + x.head, head := 0, accepted := 0, opened := true }))

/-- R188: a write of LQ_CTL that clears EN changes nothing else. -/
def execLqDisable (q : Nat) (v : Word) (s : State) : Host.Outcome State Fault Refusal :=
  let x := s.queue q
  .next (if s.z240 && bitsOf v.toNat 7 5 ≥ 4 then s.setRegBit .lqErr 0 q
    else if !s.lqEn q || bitOf v.toNat 0 then s
    else if !(x.packets.any (fun p => p.2.st = .begun)) && x.tear = 0 && x.head = x.accepted then
      s.setReg .lqCtl q (s.reg .lqCtl q &&& ~~~1#64)
    else s.setRegBit .lqErr 0 q)

/-- R192. -/
def execDstModeWrite (v : Word) (s : State) : Host.Outcome State Fault Refusal :=
  .next (if s.z240 then s
    else if s.grids.any (fun g => !g.2.complete) then s.setRegBit .dstErr 0 0
    else s.setReg .dstMode 0 v)

/-- R196: the packets that wait on a semaphore examine it again at each write of it. -/
def execDstSemWrite (i : Nat) (v : Word) (s : State) : Host.Outcome State Fault Refusal :=
  .next { s.setReg .dstSem i v with agenda := s.semaphoreWaits i ++ s.agenda }

end Sys2Proof.Machine
end

