-- ==== Sys2Proof/Machine/Wakes.lean ====
section
/-! DEFINITION. Completions and wakes: copy engines (R168, R169, R312), sleeping threads (R373 to R375), reservations and holds
(R164, R165), and invalidations of images (R91). -/

namespace Sys2Proof.Machine

/-! ## Copies (R312) -/

/-- Does a stop hold the thread that issued a copy (R267)? -/
def State.copyStopped (s : State) (q : CopyCmd) : Bool :=
  s.dbg.stops.any (fun x => match x with
    | .device => true
    | .core n => n = q.core
    | .team t => !q.handler && t = q.team
    | .hand t h => !q.handler && t = q.team && q.record.tid.map (· / 32) = some h)

/-- The 8-byte units of a copy: source and destination address, row by row. -/
def CopyCmd.units (q : CopyCmd) : List (Nat × Nat) :=
  (upTo q.rows).flatMap (fun r => (upTo (q.len / 8)).map (fun j =>
    ((q.src.toNat + r * q.sstride + 8 * j) % 2 ^ 64, (q.dst.toNat + r * q.dstride + 8 * j) % 2 ^ 64)))

/-- The physical places of a unit, or the fault of one of them and its address. -/
def State.unitPlaces (s : State) (pd : Nat) (q : CopyCmd) (u : Nat × Nat) : Except (Nat × Nat) (Nat × Nat) :=
  match s.deviceXlat pd q.aspace u.1 8 false q.handler, s.deviceXlat pd q.aspace u.2 8 true q.handler with
  | .ok a, .ok b => .ok (a, b)
  | .error c, _ => .error (c, u.1)
  | _, .error c => .error (c, u.2)

/-- The units of a copy that can be copied. -/
def State.copyPlaces (s : State) (pd : Nat) (q : CopyCmd) : List (Nat × Nat) :=
  q.units.filterMap (fun u => match s.unitPlaces pd q u with | .ok x => some x | .error _ => none)

/-- The KIND 6 record of a copy (R312). -/
def State.copyRecord (s : State) (q : CopyCmd) (code va : Nat) (write : Bool) : State :=
  s.queueRecord { q.record with code := code, kind := 6, addr := BitVec.ofNat 64 va, info := deviceInfo code write
                                time := BitVec.ofNat 64 s.time.ref }

/-- A unit of a source as the engine reads it: with what the threads of its node have written (R168, Table 8.1). -/
def State.engineRead (s : State) (pd pa : Nat) : Nat :=
  match s.target pa with
  | .control off => s.readControl off 8
  | _ => if s.isSliceOnly (lineOf pa) then s.outsideLoad pa 8
    else ((s.nodeView pd (lineOf pa)).extractLsb' (8 * (pa % 64)) 64).toNat

/-- Does the engine read a unit poisoned (R261)? -/
def State.engineBad (s : State) (pa : Nat) : Bool := s.outsidePoison (lineOf pa) || s.addrFailed pa

/-- The data of a copy written: unit by unit, poison by line (R261), a failed unit reported once a command. -/
def State.copyData (s : State) (pd : Nat) (q : CopyCmd) : State × Bool :=
  let ok := s.copyPlaces pd q
  let bad := q.units.findSome? (fun u => match s.unitPlaces pd q u with | .error e => some (e, decide (u.2 = e.2)) | .ok _ => none)
  let dstLines := dedupNat (ok.map (fun x => lineOf x.2))
  let s' := ok.foldl (fun s x =>
    let s := s.deviceWrite x.2 (leBytes 8 (s.engineRead pd x.1)) (s.engineBad x.1)
    (upTo 2).foldl (fun s i => s.setFull (x.2 + 4 * i) true) s) s
  let s' := dstLines.foldl (fun s' l =>
    let mine := ok.filter (fun x => lineOf x.2 = l)
    if s'.isDomain l || s'.addrFailed (64 * l) then s'
    else if mine.any (fun x => s.engineBad x.1) then s'.setCopyPoison (s'.homeNode l) l true
    else if (dedupNat (mine.map (·.2))).length = 8 then s'.setCopyPoison (s'.homeNode l) l false
    else s') s'
  match bad with
  | none => (s', false)
  | some (e, w) => (s'.copyRecord q e.1 e.2 w, true)

/-- The flag and the status of a completed copy (R169, R312, R375). -/
def State.copyFinish (s : State) (pd e : Nat) (q : CopyCmd) (failed : Bool) : State :=
  let done (s : State) (bad : Bool) : State := s.updEngine pd e (fun x =>
    { x with queue := x.queue.filter (fun y => y.count ≠ q.count), status := KMap.put x.status (q.count % 1024) (b2n bad) })
  if q.flag = 0 then done s failed
  else match s.deviceXlat pd q.aspace q.flag.toNat 8 true q.handler with
    | .error c => done (s.copyRecord q c q.flag.toNat true) true
    | .ok pa =>
      if s.deviceReady pa 8 then
        let s := s.deviceWrite pa (leBytes 8 (if failed then q.flagerr else q.flagok).toNat)
        done ((upTo 2).foldl (fun s i => s.setFull (pa + 4 * i) true) s) failed
      else
        (s.deviceRequest pa 8).updEngine pd e (fun x =>
          { x with queue := x.queue.map (fun y => if y.count = q.count then { y with copied := true, failed := failed } else y) })

/-- R312: the first command of an engine that has been handed over is carried out; one that is done and waited is finished. -/
def execCopyComplete (pd engine : Nat) (s : State) : Host.Outcome State Fault Refusal :=
  .next (match (s.engine pd engine).queue.find? (fun q => q.copied && !s.copyStopped q) with
    | some q => s.copyFinish pd engine q q.failed
    | none =>
      match (s.engine pd engine).queue.find? (fun q => !q.copied) with
      | none => s
      | some q =>
        let ok := s.copyPlaces pd q
        let src := dedupNat (ok.map (fun x => lineOf x.1))
        let dst := dedupNat (ok.map (fun x => lineOf x.2))
        if !q.handed then s
        else if !(src.all s.readReady && dst.all (fun l => s.agentReady l none)) then
          dst.foldl (fun s l => if s.agentReady l none then s else s.agentRequest l)
            (src.foldl (fun s l => if s.readReady l then s else s.readRequest l) s)
        else
          let (s, failed) := s.copyData pd q
          if s.copyStopped q then
            s.updEngine pd engine (fun x =>
              { x with queue := x.queue.map (fun y => if y.count = q.count then { y with copied := true, failed := failed } else y) })
          else s.copyFinish pd engine q failed)

/-! ## Sleep (R373 to R375) -/

/-- Has the die's valid view reached a tick (R15)? -/
def State.viewReached (s : State) (c t : Nat) : Bool := (s.die (dieOf c)).valid && decide (t ≤ s.now c)

/-- R208, R373: a thread whose wake tick has come passes on, retries, or examines its layer again. -/
def execSleepWake (core thread : Nat) (s : State) : Host.Outcome State Fault Refusal :=
  let th := s.thread core thread
  .next (match th.st, th.wait with
    | .sleeping, some (.tick t) => if s.viewReached core t then s.leaveWait core thread else s
    | .sleeping, some (.retryAt t) => if s.viewReached core t then s.enterWaiting core thread th.next else s
    | .sleeping, some (.layerAt t n) => if s.viewReached core t then s.waitLayer core thread n th.next else s
    | _, _ => s)

/-- Code of PROMISE (Table 10.1). -/
def codePROMISE : Nat := 0x20

/-- The bytes that an engine has still to write up to the command of a count. -/
def Engine.bytesTo (x : Engine) (count : Nat) : Nat :=
  ((x.queue.filter (fun q => q.count ≤ count && !q.copied)).map (fun q => q.len * q.rows)).sum

/-- R375: WAITT at its wake tick. -/
def execWaittWake (core thread : Nat) (s : State) : Host.Outcome State Fault Refusal :=
  let th := s.thread core thread
  .next (match th.st, th.wait with
    | .sleeping, some (.promise t id reg sc) =>
      if !s.viewReached core t then s
      else
        let n := id.toNat
        let e := s.engine (bitsOf n 63 62) (bitsOf n 61 58)
        let cnt := bitsOf n 57 48
        (match e.queue.find? (fun q => q.count % 1024 = cnt) with
         | some q => s.takeWaitTrap core thread codePROMISE
             (BitVec.ofNat 64 (s.now core + ceilDiv (e.bytesTo q.count) 128 + 64)) (BitVec.ofNat 64 (n / 2 ^ 48))
         | none =>
           let s := s.updThread core thread (fun u => u.setReg reg (BitVec.ofNat 64 (KMap.lookD e.status cnt 2)))
           (if wideScope sc then s.selfInvalidate core else s).leaveWait core thread)
    | _, _ => s)

/-! ## Reservations and holds (R164, R165) -/

/-- R164: a reservation 10,000 ticks old is lost. -/
def execReservationAgeExpiry (core thread : Nat) (s : State) : Host.Outcome State Fault Refusal :=
  .next (match (s.thread core thread).resv with
    | none => s
    | some r => if r.tick + 10000 ≤ s.now core then
        s.updThread core thread (fun t => { t with resv := none, hold := none }) else s)

/-- R165: a hold ends 2,000 ticks after its LL; the writes that waited behind it may perform. -/
def execHoldExpiry (core thread : Nat) (s : State) : Host.Outcome State Fault Refusal :=
  .next (match (s.thread core thread).hold with
    | none => s
    | some r => if r.tick + 2000 ≤ s.now core then
        (s.updThread core thread (fun t => { t with hold := none })).flushHeld else s)

/-! ## CFGINV (R91, R92) -/

/-- The planes of an image dropped from the caches of cores. -/
def State.dropPlanes (s : State) (i : Nat) (p : Nat → Bool) : State :=
  { s with cfgCache := KMap.mapKV s.cfgCache (fun c l => if p c then l.filter (fun x => x.1 ≠ i) else l) }

/-- The stores of dies drop an image. -/
def State.dropStores (s : State) (i : Nat) (p : Nat → Bool) : State :=
  s.updImage i (fun x =>
    let dies := x.dies.filter (fun d => !p d)
    { x with dies := dies, dropped := dies.isEmpty, copies := x.copies.filter (fun c => !p c.1) })

/-- What an invalidation does to an image (R91). -/
def State.invalidateImage (s : State) (v : CfgInv) (i : Nat) : State :=
  match v.scope with
  | .core => s.dropPlanes i (· = v.core)
  | .die => (s.dropPlanes i (fun c => dieOf c = dieOf v.core)).dropStores i (· = dieOf v.core)
  | .device => (s.dropPlanes i (fun _ => true)).dropStores i (fun _ => true)

/-- R91: the oldest invalidation completes in every unit of its scope. -/
def execCfginvComplete (s : State) : Host.Outcome State Fault Refusal :=
  .next (match s.invals with
    | [] => s
    | v :: rest =>
      let ids := (s.images.filter (fun i => i.2.aspace = v.aspace && i.2.va = v.va)).map (·.1)
      ids.foldl (fun s i => s.invalidateImage v i) { s with invals := rest })

end Sys2Proof.Machine
end

