-- ==== Sys2Proof/Machine/Chr.lean ====
section
/-! DEFINITION. Chrysalis (R235 to R244): model contexts, residency flags, the order of fetches, frames and evictions. -/

namespace Sys2Proof.Machine

/-! ## Contexts and descriptors (R235, R236) -/

/-- Is the context defined: EN = 1? -/
def State.chrOn (s : State) (ctx : Nat) : Bool := bitOf (s.regN .chrCtl ctx) 0

/-- A layer descriptor (R236). -/
structure LayerDesc where
  src : Nat
  va : Nat
  frames : Nat
  leaf : Nat
  bad : Bool
  deriving DecidableEq, Repr

/-- The physical address of a layer's descriptor. -/
def State.descAddr (s : State) (ctx n : Nat) : Nat := s.regBits .chrCtxd ctx 51 5 * 32 + 32 * n

/-- A layer's descriptor as it stands in memory. -/
def State.layerDesc (s : State) (ctx n : Nat) : LayerDesc :=
  let a := s.descAddr ctx n
  let w0 := s.deviceRead a 8
  let w1 := s.deviceRead (a + 8) 8
  let w2 := s.deviceRead (a + 16) 8
  let w3 := s.deviceRead (a + 24) 8
  { src := bitsOf w0 51 0, va := bitsOf w1 56 21 * 2 ^ 21, frames := bitsOf w1 11 0 + 1, leaf := bitsOf w2 51 3 * 8
    bad := bitsOf w0 63 52 ≠ 0 || bitsOf w0 20 0 ≠ 0 || bitsOf w1 63 57 ≠ 0 || bitsOf w1 20 12 ≠ 0 || bitsOf w2 63 52 ≠ 0 ||
      bitsOf w2 2 0 ≠ 0 || w3 ≠ 0 }

/-- The source lines of a layer. -/
def LayerDesc.srcLines (d : LayerDesc) : List Nat := linesOf d.src (d.frames * 0x200000)

/-- The physical address of a frame. -/
def State.frameAddr (s : State) (f : Nat) : Nat := s.regBits .chrFramebase 0 51 21 * 2 ^ 21 + f * 0x200000

/-- The free frames, lowest first. -/
def State.freeFrames (s : State) : List Nat := (upTo (s.regN .chrFramen)).filter (fun f => !s.chr.used.contains f)

/-! ## Flags (R237) -/

/-- A layer's flag written with a state; GEN advances where told (R237). -/
def State.writeFlag (s : State) (ctx n st : Nat) (advance : Bool) : State :=
  let gen := bitsOf (s.outsideLoad (s.flagAddr ctx n) 8) 63 2
  let gen := if advance then (gen + 1) % 2 ^ 62 else gen
  s.deviceWrite (s.flagAddr ctx n) (leBytes 8 (gen * 4 + st))

/-- Can every place of a list be written by the device now? -/
def State.placesReady (s : State) (l : List (Nat × Nat)) : Bool := l.all (fun p => s.deviceReady p.1 p.2)

/-- What writes that must wait ask for. -/
def State.placesRequest (s : State) (l : List (Nat × Nat)) : State := l.foldl (fun s p => s.deviceRequest p.1 p.2) s

/-- The flag of a layer and its leaf entries. -/
def State.layerPlaces (s : State) (ctx n : Nat) : List (Nat × Nat) :=
  let d := s.layerDesc ctx n
  (s.flagAddr ctx n, 8) :: (upTo d.frames).map (fun i => (d.leaf + 8 * i, 8))

/-! ## Who waits and who uses (R238, R240) -/

/-- The threads in LAYERWAIT on a layer: core and key. -/
def State.layerWaiters (s : State) (ctx n : Nat) : List (Nat × Nat) :=
  s.cores.flatMap (fun c => c.2.threads.filterMap (fun t =>
    match t.2.st, t.2.wait with
    | .layerwait, some (.layer m) => if m = n && s.ctxOf c.1 t.1 = some ctx then some (c.1, t.1) else none
    | _, _ => none))

/-- D of a context (R240). -/
def State.chrDepth (s : State) (ctx : Nat) : Option Nat :=
  greatestBy id ((upTo (s.layersOf ctx)).filter (fun n =>
    (s.layer ctx n).uses > 0 || (s.layer ctx n).demand.isSome || !(s.layerWaiters ctx n).isEmpty))

/-- The layers of a context's prefetch window. -/
def State.chrWindow (s : State) (ctx : Nat) : List Nat :=
  match s.chrDepth ctx with
  | none => []
  | some d => ((upTo (s.layersOf ctx)).filter (fun n => d < n && n ≤ d + s.regBits .chrCtl ctx 23 16))

/-- The priority of a context. -/
def State.chrPrioOf (s : State) (ctx : Nat) : Nat := s.regBits .chrPrio ctx 2 0

/-- The fetch of a layer. -/
def State.fetchOf (s : State) (ctx n : Nat) : Option Fetch := s.chr.fetches.find? (fun f => f.ctx = ctx && f.layer = n)

/-- The demands in the order in which they were made: context and layer. -/
def State.demands (s : State) : List (Nat × Nat) :=
  (sortBy (fun (p : Nat × Layer) => p.2.demand.getD 0) (s.chr.layers.filter (fun p => p.2.demand.isSome))).map
    (fun p => (p.1 / 4096, p.1 % 4096))

/-- The layers to be fetched, in the order of R240; the third component tells a demand from a prefetch. -/
def State.fetchOrder (s : State) : List (Nat × Nat × Bool) :=
  let absent (x n : Nat) : Bool := s.chrOn x && s.layerState x n = 0 && (s.fetchOf x n).isNone
  let first := (s.demands.filter (fun p => absent p.1 p.2)).map (fun p => (p.1, p.2, true))
  let ctxs := sortBy (fun x => 7 - s.chrPrioOf x) ((upTo 64).filter s.chrOn)
  first ++ ctxs.flatMap (fun x => ((s.chrWindow x).filter (absent x)).map (fun n => (x, n, false)))

/-- The fetches that hold their frames. -/
def State.fetchesRunning (s : State) : Nat := (s.chr.fetches.filter (fun f => f.frames.isSome)).length

/-- The layer whose fetch starts next; at most 16 run at once. -/
def State.nextFetch (s : State) : Option (Nat × Nat × Bool) := if s.fetchesRunning < 16 then s.fetchOrder.head? else none

/-! ## Frames (R242) -/

/-- May a fetch take the frames of a layer? -/
def State.evictable (s : State) (f : Fetch) (ctx n : Nat) : Bool :=
  s.chrOn ctx && s.layerState ctx n = 2 && (s.layer ctx n).uses = 0 && (s.layerWaiters ctx n).isEmpty &&
  (f.demand || (s.layer f.ctx f.layer).demand.isSome || s.chrPrioOf ctx < s.chrPrioOf f.ctx ||
    (ctx = f.ctx && !(s.chrWindow ctx).contains n))

/-- The layers that a fetch may evict, in the order in which they give way. -/
def State.victims (s : State) (f : Fetch) : List (Nat × Nat) :=
  let l := (KMap.keys s.chr.layers).filterMap (fun k =>
    if s.evictable f (k / 4096) (k % 4096) then some (k / 4096, k % 4096) else none)
  sortBy (fun (p : Nat × Nat) => s.chrPrioOf p.1) (sortBy (fun (p : Nat × Nat) => (s.layer p.1 p.2).last) l)

/-- The victims that a fetch needs beside the free frames; none where they do not cover it. -/
def State.cover (s : State) (f : Fetch) : Option (List (Nat × Nat)) :=
  let need := (s.layerDesc f.ctx f.layer).frames
  let r := (s.victims f).foldl (fun (acc : Nat × List (Nat × Nat)) p =>
    if acc.1 ≥ need then acc else (acc.1 + (s.layer p.1 p.2).frames.length, acc.2 ++ [p])) (s.freeFrames.length, [])
  if r.1 ≥ need then some r.2 else none

/-- A layer's leaves written, one entry a frame. -/
def State.writeLeaves (s : State) (d : LayerDesc) (entry : Nat → Nat) : State :=
  (upTo d.frames).foldl (fun s i => s.deviceWrite (d.leaf + 8 * i) (leBytes 8 (entry i))) s

/-- The frames of a layer freed. -/
def State.freeLayer (s : State) (ctx n : Nat) : State :=
  let own := (s.layer ctx n).frames
  { (s.updLayer ctx n (fun l => { l with frames := [] })) with
    chr := { (s.updLayer ctx n (fun l => { l with frames := [] })).chr with used := s.chr.used.filter (fun f => !own.contains f) } }

/-- The eviction of a layer (R242). -/
def State.evictLayer (s : State) (ctx n : Nat) : State :=
  let d := s.layerDesc ctx n
  let s := s.writeFlag ctx n 0 false
  let s := s.writeLeaves d (fun _ => 0)
  let s := s.dropXlat (s.regBits .chrCtl ctx 63 56) d.va (d.frames * 0x200000)
  s.freeLayer ctx n

/-- A fetch changed. -/
def State.updFetch (s : State) (ctx n : Nat) (g : Fetch → Fetch) : State :=
  { s with chr := { s.chr with fetches := s.chr.fetches.map (fun f => if f.ctx = ctx && f.layer = n then g f else f) } }

/-- A fetch that waits takes its frames, where they are covered and the victims' flags and leaves can be written. -/
def State.takeFrames (s : State) (f : Fetch) : State :=
  if f.frames.isSome || s.fetchesRunning ≥ 16 then s
  else if (s.layerDesc f.ctx f.layer).bad then s.updFetch f.ctx f.layer (fun f => { f with frames := some [] })
  else match s.cover f with
    | none => s
    | some l =>
      let places := l.flatMap (fun p => s.layerPlaces p.1 p.2)
      if !s.placesReady places then s.placesRequest places
      else
        let s := l.foldl (fun s p => s.evictLayer p.1 p.2) s
        let got := s.freeFrames.take (s.layerDesc f.ctx f.layer).frames
        ({ s with chr := { s.chr with used := s.chr.used ++ got } }).updFetch f.ctx f.layer (fun f => { f with frames := some got })

/-! ## The end of a fetch -/

/-- The page requests that a layer's arrival or failure answers (R244). -/
def State.answerLayer (s : State) (ctx n : Nat) (denied : Bool) : State :=
  ((s.station.requests.filter (fun q => q.layer = some (ctx, n))).map (·.id)).foldl (fun s id => s.answerPage id denied) s

/-- Every thread in LAYERWAIT on a layer takes a use and passes on (R238). -/
def State.wakeLayer (s : State) (ctx n : Nat) : State :=
  (s.layerWaiters ctx n).foldl (fun s p => (s.takeUse p.1 (s.thread p.1 p.2).team ctx n).leaveWait p.1 p.2) s

/-- Every thread in LAYERWAIT on a layer takes LAYER as a wait trap (R238). -/
def State.trapLayer (s : State) (ctx n : Nat) : State :=
  (s.layerWaiters ctx n).foldl (fun s p =>
    s.takeWaitTrap p.1 p.2 codeLAYER (BitVec.ofNat 64 noAddr) (layerInfo 0 ctx n)) s

/-- A fetch ended, with the demand it served. -/
def State.endFetch (s : State) (ctx n : Nat) : State :=
  let s := { s with chr := { s.chr with fetches := s.chr.fetches.filter (fun f => !(f.ctx = ctx && f.layer = n)) } }
  s.updLayer ctx n (fun l => { l with demand := none })

/-- Does a fetch fail: a malformed descriptor, poison or a failed range in its source (R243)? -/
def State.fetchBad (s : State) (ctx n : Nat) : Bool :=
  let d := s.layerDesc ctx n
  d.bad || d.srcLines.any (fun l => s.outsidePoison l || s.addrFailed (64 * l))

/-- The frames of a fetch with their source: source line and destination line. -/
def State.fetchLines (s : State) (d : LayerDesc) (frames : List Nat) : List (Nat × Nat) :=
  (List.zip (upTo frames.length) frames).flatMap (fun p =>
    (upTo 32768).map (fun j => (lineOf (d.src + p.1 * 0x200000) + j, lineOf (s.frameAddr p.2) + j)))

/-- The leaf entry of a frame (R241). -/
def leafOfFrame (pa : Nat) : Nat := 2 * 2 ^ 62 + pa + 0x13

/-- A demand for a layer that is already resident, or failed, is answered at once. -/
def State.settleDemand (s : State) (ctx n : Nat) : State :=
  let st := s.layerState ctx n
  if (s.layer ctx n).demand.isSome && (st = 2 || st = 3) then
    (s.updLayer ctx n (fun l => { l with demand := none })).answerLayer ctx n (st = 3)
  else s

/-- R240, R242: the next fetch in the order of R240 starts, or one that waits takes its frames, with the evictions it needs. -/
def execChrysalisFetchStart (ctx layer : Nat) (s : State) : Host.Outcome State Fault Refusal :=
  .next (match s.fetchOf ctx layer with
    | some f => s.takeFrames f
    | none => match s.nextFetch with
      | some (x, n, d) =>
        if x = ctx && n = layer then
          if !s.deviceReady (s.flagAddr ctx layer) 8 then s.deviceRequest (s.flagAddr ctx layer) 8
          else
            let f : Fetch := { ctx := ctx, layer := layer, demand := d }
            ({ (s.writeFlag ctx layer 1 false) with
              chr := { (s.writeFlag ctx layer 1 false).chr with fetches := s.chr.fetches ++ [f] } }).takeFrames f
        else s.settleDemand ctx layer
      | none => s.settleDemand ctx layer)

/-- R241: the layer's data, leaves and flag are written, and its waiting threads take their uses. -/
def execFetchComplete (ctx layer : Nat) (s : State) : Host.Outcome State Fault Refusal :=
  .next (match (s.fetchOf ctx layer).bind (·.frames) with
    | none => s
    | some frames =>
      if s.fetchBad ctx layer then s
      else
        let d := s.layerDesc ctx layer
        let lines := s.fetchLines d frames
        let places := s.layerPlaces ctx layer
        if !(lines.all (fun p => s.readReady p.1 && s.agentReady p.2 none) && s.placesReady places) then
          lines.foldl (fun s p =>
            let s := if s.readReady p.1 then s else s.readRequest p.1
            if s.agentReady p.2 none then s else s.agentRequest p.2) (s.placesRequest places)
        else
          let s := lines.foldl (fun s p =>
            (s.deviceWrite (64 * p.2) (leBytes 64 (s.deviceRead (64 * p.1) 64))).clearPoison p.2) s
          let s := s.writeLeaves d (fun i => leafOfFrame (s.frameAddr (frames.getD i 0)))
          let s := s.writeFlag ctx layer 2 true
          let s := (s.endFetch ctx layer).updLayer ctx layer (fun l => { l with frames := frames, last := s.time.ref })
          (s.wakeLayer ctx layer).answerLayer ctx layer false)

/-- R243: a fetch whose source is lost or malformed ends with its layer failed. -/
def execFetchFail (ctx layer : Nat) (s : State) : Host.Outcome State Fault Refusal :=
  .next (match (s.fetchOf ctx layer).bind (·.frames) with
    | none => s
    | some frames =>
      if !s.fetchBad ctx layer then s
      else if !s.deviceReady (s.flagAddr ctx layer) 8 then s.deviceRequest (s.flagAddr ctx layer) 8
      else
        let s := { s with chr := { s.chr with used := s.chr.used.filter (fun f => !frames.contains f) } }
        let s := (s.writeFlag ctx layer 3 true).endFetch ctx layer
        (s.trapLayer ctx layer).answerLayer ctx layer true)

/-! ## Contexts (R235, R243) -/

/-- R235: CHR_CTL written with EN = 1 in a context that is not defined: every flag absent with generation 0. -/
def execChrCtxEnable (ctx : Nat) (v : Word) (s : State) : Host.Outcome State Fault Refusal :=
  .next (if s.chrOn ctx || ctx ≥ 64 then s
    else
      let s' := s.setReg .chrCtl ctx v
      let places := (upTo (s'.layersOf ctx)).map (fun n => (s'.flagAddr ctx n, 8))
      if !s.placesReady places then { (s.placesRequest places) with waiting := s.waiting ++ [.event (.chrCtxEnable ctx v)] }
      else
        let s' := { s' with chr := { s'.chr with layers := s'.chr.layers.filter (fun p => p.1 / 4096 ≠ ctx) } }
        places.foldl (fun s p => s.deviceWrite p.1 (leBytes 8 0)) s')

/-- Is a context in use: a team of a grid in it resident, swapped out or waiting, or a use held (R235)? -/
def State.chrInUse (s : State) (ctx : Nat) : Bool :=
  s.grids.any (fun g => g.2.ctx = some ctx && !g.2.complete &&
    (s.unitsLeft g.1 || s.teams.any (fun t => t.2.grid = g.1 && !t.2.retired))) ||
  s.chr.layers.any (fun p => p.1 / 4096 = ctx && p.2.uses > 0)

/-- R235: EN cleared: discarded while the context is in use, else every layer is evicted. -/
def execChrCtxDisable (ctx : Nat) (v : Word) (s : State) : Host.Outcome State Fault Refusal :=
  .next (if !s.chrOn ctx then s
    else if s.chrInUse ctx then s.setRegBit .chrErr 0 0
    else
      let mine := (upTo (s.layersOf ctx)).filter (fun n => s.layerState ctx n = 2)
      let fetching := (s.chr.fetches.filter (fun f => f.ctx = ctx)).map (·.layer)
      let places := mine.flatMap (fun n => s.layerPlaces ctx n) ++ fetching.map (fun n => (s.flagAddr ctx n, 8))
      if !s.placesReady places then { (s.placesRequest places) with waiting := s.waiting ++ [.event (.chrCtxDisable ctx v)] }
      else
        let s := mine.foldl (fun s n => s.evictLayer ctx n) s
        let held := (s.chr.fetches.filter (fun f => f.ctx = ctx)).flatMap (fun f => f.frames.getD [])
        let s := fetching.foldl (fun s n => (s.writeFlag ctx n 0 false).endFetch ctx n) s
        let s := { s with chr := { s.chr with
          used := s.chr.used.filter (fun f => !held.contains f)
          layers := s.chr.layers.filter (fun p => p.1 / 4096 ≠ ctx) } }
        s.setReg .chrCtl ctx (s.reg .chrCtl ctx &&& ~~~1))

/-- R243: a failed layer becomes absent, GEN kept. -/
def execChrReset (v : Word) (s : State) : Host.Outcome State Fault Refusal :=
  let ctx := bitsOf v.toNat 63 58
  let n := bitsOf v.toNat 11 0
  .next (if !(s.chrOn ctx && n < s.layersOf ctx && s.layerState ctx n = 3) then s
    else if s.deviceReady (s.flagAddr ctx n) 8 then s.writeFlag ctx n 0 false
    else { (s.deviceRequest (s.flagAddr ctx n) 8) with waiting := s.waiting ++ [.event (.chrReset v)] })

/-- The moves of Chrysalis that can be made now. -/
def State.chrMoves (s : State) : List Instr :=
  (match s.nextFetch with | some (x, n, _) => [.chrysalisFetchStart x n] | none => []) ++
  (s.demands.filter (fun p => s.layerState p.1 p.2 = 2 || s.layerState p.1 p.2 = 3)).map (fun p => .chrysalisFetchStart p.1 p.2) ++
  s.chr.fetches.flatMap (fun f =>
    if f.frames.isNone then [.chrysalisFetchStart f.ctx f.layer] else [.fetchComplete f.ctx f.layer, .fetchFail f.ctx f.layer])

end Sys2Proof.Machine
end

