-- ==== Sys2Proof/Machine/Home.lean ====
section
/-! DEFINITION. The moves of homes and of the agents beyond the node (R245 to R259): shared and owned grants, forwarded reads,
recalls and evictions, host and pool requests and snoops, and the accesses of the domain. -/

namespace Sys2Proof.Machine

/-! ## Requests served by a home (R248, R249) -/

/-- The number under which the host waits in a line's queue. -/
def hostNode : Nat := 16

/-- Is a host port up? -/
def State.hostUp (s : State) : Bool := KMap.lookD s.links.cxl 0 0 ≠ 0 || KMap.lookD s.links.cxl 1 0 ≠ 0

/-- The back-invalidation snoop of a line sent to the host, once (Table 12.4); data asks for BISnpData. -/
def State.snoopHost (s : State) (line : Nat) (data : Bool) : State :=
  if s.coh.snoops.any (fun p => p.1 = line) || !s.hostUp then s
  else { s with
    coh := { s.coh with snoops := s.coh.snoops ++ [(line, data)] }
    hostOut := s.hostOut ++ [.bisnp line data] }

/-- Room asked for in a slice's directory that host lines fill (R247): the host gives up the first of them. -/
def State.askRoom (s : State) (line : Nat) : State :=
  if s.dirRoom line then s
  else match (s.dirMates line).head? with
    | some v => s.snoopHost v false
    | none => s

/-- What the home of a line must ask for before it can serve the request at the head of the line's queue. -/
def State.homeAsk (s : State) (line : Nat) (own : Bool) : State :=
  let s := if s.isOuter line then s.requestOuter line own else s
  let s := s.askRoom line
  let h := (s.dirOf line).host
  if own then (if h ≠ .none && s.horizonPast line && (s.dirOf line).owner.isNone then s.snoopHost line false else s)
  else (if h = .a then s.snoopHost line true else s)

/-- R249, R252: READ_SHARED. The home serves the read at the head of the line's queue: a leased copy for another node, the
data alone for an access performed at the home, which for a page of MODE 0b01 finds no owner left. -/
def execReadShared (line node : Nat) (s : State) : Host.Outcome State Fault Refusal :=
  .next (match s.headReq line with
    | none => s
    | some r =>
      if r.node ≠ node then s
      else match r.kind with
        | .uncached => if s.homeServes line then s.answerReq r else s.homeAsk line false
        | .readShared =>
          if node = s.homeNode line || node = hostNode then
            (if s.homeReadable line then s.answerReq r else s.homeAsk line false)
          else if s.homeReadable line && s.dirRoom line then (s.answerReq r).grantLease line node r.mode2
          else s.homeAsk line false
        | _ => s)

/-- R249, R250: READ_OWN. After the horizon and the guard band, with no owner and no host copy left, the node of the request
at the head of the line's queue receives the line, and the writes that waited perform. -/
def execReadOwn (line node : Nat) (s : State) : Host.Outcome State Fault Refusal :=
  .next (match s.headReq line with
    | none => s
    | some r =>
      if !(r.node = node && (r.kind = .readOwn || r.kind = .homeWrite)) then s
      else if s.canReadOwn line node then (s.answerReq r).grantOwn line node r.kind
      else s.homeAsk line true)

/-- R248: the owner supplies the line of a forwarded read to the home and the reader: an owner in E keeps a lease until the tick
X that the reader is granted in the same step. -/
def execForwardedRead (line node : Nat) (s : State) : Host.Outcome State Fault Refusal :=
  .next (match s.headReq line with
    | none => s
    | some r =>
      if !s.canForward line node then s
      else if node = s.homeNode line || node = hostNode then s.forwardPlain line
      else
        let s' := s.forwardRead line (s.leaseFor line node r.mode2).1
        if s'.homeReadable line then (s'.answerReq r).grantLease line node r.mode2 else s')

/-- R248: the home recalls ownership for the request at the head of the line's queue. -/
def execRecall (line : Nat) (s : State) : Host.Outcome State Fault Refusal :=
  .next (if s.canRecall line then s.recallLine line else s)

/-- Does a node other than the home hold the line in a state? -/
def State.heldIn (s : State) (line node : Nat) (p : LineState → Bool) : Bool :=
  match s.l2Line node line with | some x => p x.st && node ≠ s.homeNode line | none => false

/-- The internal home's hold on an outside line given up by an eviction, where nothing in the device stands on it. -/
def State.outerEvictable (s : State) (line node : Nat) (p : LineState → Bool) : Bool :=
  node = s.homeNode line && (match KMap.look s.coh.outer line with | some x => p x.st | none => false) &&
  s.outerQuiet line && (s.dirOf line).owner.isNone

/-- R248, R255: an evicted M or O line is written back; an outside line in M by DirtyEvict or MemWr. -/
def execWriteBack (line node : Nat) (s : State) : Host.Outcome State Fault Refusal :=
  .next (if s.heldIn line node (fun x => x = .m || x = .o) && (s.dirOf line).owner = some node then s.recallLine line
    else if s.outerEvictable line node (· = .m) then s.giveUpOuter line
    else s)

/-- R248, R255: an evicted E line notifies the home, an L line is dropped; an outside line in E or S by CleanEvict. -/
def execEvictNotice (line node : Nat) (s : State) : Host.Outcome State Fault Refusal :=
  .next (if s.heldIn line node (· = .e) && (s.dirOf line).owner = some node then s.recallLine line
    else if s.heldIn line node (· = .l) then s.dropL2 node line
    else if s.outerEvictable line node (fun x => x = .e || x = .s) then s.giveUpOuter line
    else s)

/-- R249: a leased copy expires at X − 16 on its holder's view. -/
def execLeaseExpiry (node line : Nat) (s : State) : Host.Outcome State Fault Refusal :=
  .next (match s.l2Line node line with
    | some x => if x.st = .l && decide (x.expiry ≤ s.homeNow node + 16) then s.dropL2 node line else s
    | none => s)

/-! ## The host on device memory (R254) -/


/-- MetaValue of a host request: 0 Invalid, 1 Shared, 2 Any. -/
def hostReq (line : Nat) (own : Bool) : LineReq :=
  { line := line, node := hostNode, kind := if own then .hostOwn else .readShared }

/-- Does a host request stand at the head of its line's queue, or nothing wait there? -/
def State.hostTurn (s : State) (line : Nat) (own : Bool) : Bool :=
  match s.headReq line with
  | none => true
  | some r => r = hostReq line own

/-- The owner's data recalled and the home's registered words collected for the host. -/
def State.gatherForHost (s : State) (line : Nat) : State :=
  let home := s.homeNode line
  let s := s.recallLine line
  if s.pendingAt home line then s else (s.collect home line).unregister home line

/-- The host granted a line: its page stands in the host filter first (R254). -/
def State.hostGrant (s : State) (line : Nat) (h : HostShare) : State :=
  let page := line / 1024
  let s := { s with coh := { s.coh with
    hostPages := if s.coh.hostPages.contains page then s.coh.hostPages else s.coh.hostPages ++ [page]
    hostLines := if s.coh.hostLines.contains line then s.coh.hostLines else s.coh.hostLines ++ [line] } }
  s.setDir line { s.dirOf line with host := h }

/-- The data of a line returned to the host or to another package. -/
def State.supply (s : State) (line : Nat) : State :=
  { s with hostOut := s.hostOut ++ [.memData line (s.outsideLine line) (s.outsidePoison line)] }

/-- Is the line local HBM? -/
def State.isLocal (s : State) (line : Nat) : Bool := s.target (64 * line) = .hbm

/-- May a host request that takes the line as a ReadOwn be served now (R249)? -/
def State.hostOwnReady (s : State) (line : Nat) : Bool :=
  s.hostTurn line true && s.horizonPast line && !s.heldBack line none && !s.pendingAt (s.homeNode line) line

/-- A host request that must wait in its line's queue. -/
def State.hostWaits (s : State) (line : Nat) (own : Bool) (i : Instr) : State :=
  { (s.request line hostNode (if own then .hostOwn else .readShared)) with waiting := s.waiting ++ [.event i] }

/-- R254, Table 12.4: MemRd of the host. -/
def execHostMemrd (line state : Nat) (s : State) : Host.Outcome State Fault Refusal :=
  .next (if !s.isLocal line || !s.hostUp then s
    else if (state = 1 || state = 2) && !s.dirRoom line then
      (s.askRoom line).hostWaits line (decide (state = 2)) (.hostMemrd line state)
    else if state = 2 then
      if !s.hostOwnReady line then s.hostWaits line true (.hostMemrd line state)
      else
        let s := (s.answerReq (hostReq line true)).gatherForHost line
        let s := (s.dirEvict line).supply line
        (s.setDir line { s.dirOf line with k := 0, leased := [], owner := none }).hostGrant line .a
    else if !s.hostTurn line false then s.hostWaits line false (.hostMemrd line state)
    else
      let s := ((s.answerReq (hostReq line false)).gatherForHost line).supply line
      if state = 1 then (s.dirEvict line).hostGrant line .s else s)

/-- The bytes of a line that a write brings: those that its mask selects. -/
def maskCells (line : Nat) (data : BitVec 512) (mask : BitVec 64) : List Host.Cell :=
  ((upTo 64).filter (fun i => mask.getLsbD i)).map (fun i => (64 * line + i, data.extractLsb' (8 * i) 8))

/-- R254, Table 12.4: MemWr of the host, with the poison of its data (R260, R261); a write-back that a snoop asked for is taken
at once. -/
def execHostMemwr (line : Nat) (data : LineData) (state : Nat) (s : State) : Host.Outcome State Fault Refusal :=
  .next (if !s.isLocal line || !s.hostUp then s
    else if !(s.hostOwnReady line || s.coh.snoops.any (fun p => p.1 = line)) then
      s.hostWaits line true (.hostMemwr line data state)
    else
      let s := (s.answerReq (hostReq line true)).gatherForHost line
      let home := s.homeNode line
      let s := (s.writeAtSlice home none (maskCells line data.bits (BitVec.allOnes 64))).setCopyPoison home line data.poisoned
      if state = 0 && (KMap.look s.coh.dir line).isSome then s.setDir line { s.dirOf line with host := .none } else s)

/-- R254: the host's answer to a back-invalidation snoop: BIRspI, or BIRspS where it keeps a shared copy of a BISnpData. -/
def execBirsp (line : Nat) (invalid : Bool) (s : State) : Host.Outcome State Fault Refusal :=
  .next (match s.coh.snoops.find? (fun p => p.1 = line) with
    | none => s
    | some (_, data) =>
      let gone := invalid || !data
      let lines := if gone then s.coh.hostLines.filter (· ≠ line) else s.coh.hostLines
      let s := { s with coh := { s.coh with
        snoops := s.coh.snoops.filter (fun p => p.1 ≠ line)
        hostLines := lines
        hostPages := if lines.any (fun l => l / 1024 = line / 1024) then s.coh.hostPages
          else s.coh.hostPages.filter (· ≠ line / 1024) } }
      if (KMap.look s.coh.dir line).isSome then s.setDir line { s.dirOf line with host := if gone then .none else .s } else s)

/-! ## Host, pool and domain memory (R255 to R259) -/

/-- Codes of the answers to a host snoop: 0 RspIHitI, 1 RspIFwdM, 2 RspSFwdM, 3 RspIHitSE, 4 RspSHitSE. -/
def State.snoopAnswer (s : State) (line code : Nat) (data : Bool) : State :=
  { s with hostOut := s.hostOut ++ [.snoopRsp line code (if data then some (s.baseLine line) else none)
      (data && s.poison.contains line)] }

/-- The nodes' copies of an outside line brought to the internal home, as a snoop for an invalidation or for data asks. Words that
wait for ownership stay registered at their node, to be merged at its grant (R248); an invalidation takes the line for a
writer outside, and ends the reservations of its granule (R164). -/
def State.snoopNodes (s : State) (line : Nat) (inv : Bool) : State :=
  let home := s.homeNode line
  if inv then
    let s := s.recallLine line
    let s := if s.pendingAt home line then s else (s.collect home line).unregister home line
    s.breakResv line none (fun _ => true)
  else
    let owned : Bool := match (s.dirOf line).owner with
      | some m => (match s.l2Line m line with | some x => x.st ≠ .o | none => true)
      | none => false
    let s := if owned then s.forwardPlain line else s
    s.collect home line

/-- R255, Table 12.5: the host's SnpInv of a host line, answered once the leases of its copies are past. -/
def execHostSnpinv (line : Nat) (s : State) : Host.Outcome State Fault Refusal :=
  .next (if s.target (64 * line) ≠ .host then s
    else match KMap.look s.coh.outer line with
      | none => s.snoopAnswer line 0 false
      | some x =>
        if !s.horizonPast line then { s with waiting := s.waiting ++ [.event (.hostSnpinv line)] }
        else
          let s := s.snoopNodes line true
          let s := { s with coh := { s.coh with outer := KMap.del s.coh.outer line } }
          if x.st = .m then s.snoopAnswer line 1 true else s.snoopAnswer line 3 false)

/-- R255, Table 12.5: the host's SnpData of a host line. -/
def execHostSnpdata (line : Nat) (s : State) : Host.Outcome State Fault Refusal :=
  .next (if s.target (64 * line) ≠ .host then s
    else match KMap.look s.coh.outer line with
      | none => s.snoopAnswer line 0 false
      | some x =>
        let s := s.snoopNodes line false
        let s := { s with coh := { s.coh with outer := KMap.put s.coh.outer line ⟨.s⟩ } }
        if x.st = .m then s.snoopAnswer line 2 true else s.snoopAnswer line 4 false)

/-- An outside home's answer with data: the line stands at its internal home in E or S, poisoned where the data are, with room
made for it in the L2 (R17). Data that the device holds newer stay. -/
def State.outerFill (s : State) (line : Nat) (data : BitVec 512) (poisoned own : Bool) : State :=
  let s := s.l2Make (s.homeNode line) line
  let held : Bool := match KMap.look s.coh.outer line with | some x => decide (x.st = .m) | none => false
  let s := { s with coh := { s.coh with
    outerReqs := s.coh.outerReqs.filter (fun r => !(r.line = line && (own || !r.own)))
    outer := if held then s.coh.outer else KMap.put s.coh.outer line ⟨if own then .e else .s⟩ } }
  if (s.dirOf line).owner.isNone && !held then s.setBaseBit line data poisoned else s

/-- R255, R256: the host or a pool returns the data of the oldest request for a line; where no read waits, the pool completes
the oldest MemWr of the line (log entry 50). -/
def execCxlDataResponse (line : Nat) (data : BitVec 512) (poisoned : Bool) (s : State) : Host.Outcome State Fault Refusal :=
  .next (match s.coh.outerReqs.find? (fun r => r.line = line) with
    | none => (match s.coh.writes.find? (fun r => r.line = line) with
      | none => s
      | some r => { s with coh := { s.coh with writes := s.coh.writes.erase r } })
    | some r => if s.isDomain line then s else s.outerFill line data poisoned r.own)

/-- A snoop that meets the device's own request for its line: BIConflict is sent once, and the snoop waits for the end of the
request (R257). -/
def State.snoopConflict (s : State) (line : Nat) (invalid : Bool) : State :=
  let s : State := { s with waiting := s.waiting ++ [.event (.poolBisnp line invalid)] }
  if s.coh.conflicts.contains line then s
  else { s with coh := { s.coh with conflicts := s.coh.conflicts ++ [line] }, hostOut := s.hostOut ++ [.biConflict line] }

/-- R257: a pool's back-invalidation snoop: BIRspI at once without a filter entry or a copy; behind the device's own request
for the line; else as Table 12.5 gives. Codes of the answers: 0 BIRspI, 1 BIRspS. -/
def execPoolBisnp (line : Nat) (invalid : Bool) (s : State) : Host.Outcome State Fault Refusal :=
  let answer (s : State) (code : Nat) : State :=
    { s with coh := { s.coh with conflicts := s.coh.conflicts.filter (· ≠ line) }, hostOut := s.hostOut ++ [.birsp line code] }
  .next (if !s.coh.presence.contains (line / 1024) then answer s 0
    else if s.coh.outerReqs.any (fun r => r.line = line) then s.snoopConflict line invalid
    else match KMap.look s.coh.outer line with
      | none => answer s 0
      | some x =>
        if invalid then
          if !s.horizonPast line then { s with waiting := s.waiting ++ [.event (.poolBisnp line invalid)] }
          else answer ((s.breakResv line none (fun _ => true)).giveUpOuter line) 0
        else
          let s := s.snoopNodes line false
          let out : List HostMsg :=
            if x.st = .m then [.outerWrite line (s.baseLine line) (BitVec.allOnes 64) (s.poison.contains line) none] else []
          answer (({ s with coh := { s.coh with outer := KMap.put s.coh.outer line ⟨.s⟩ }
                            hostOut := s.hostOut ++ out } : State).writeSent (decide (x.st = .m)) line) 1)

/-- The sharers of a local line that other packages hold; 1024 stands for the whole domain (R259). -/
def addSharer (l : List Nat) (pkg : Nat) : List Nat :=
  if l.contains 1024 || l.contains pkg then l else if l.length < 4 then l ++ [pkg] else [1024]

/-- The poison that a write of another package leaves on a line (R261): that of its data where it covers the line or brings
poison. -/
def State.remotePoison (s : State) (line : Nat) (mask : BitVec 64) (poisoned : Bool) : State :=
  if mask = BitVec.allOnes 64 || poisoned then s.setCopyPoison (s.homeNode line) line poisoned else s

/-- What an atomic of another package finds and leaves in the bytes that it names: the value read, and the bytes written where
any are (R259, R297). -/
def remoteAtomic (line : Nat) (line512 : BitVec 512) (off : Nat) (n : Size) (f : Nat → Option Nat) : Nat × List Host.Cell :=
  let b := sizeBytes n
  let old := (line512.extractLsb' (8 * off) (8 * b)).toNat
  (old, match f old with
    | some v => ((leBytes b v).mapIdx (fun i x => (64 * line + off + i, x)))
    | none => [])

/-- The writing of an atomic: what ATOM leaves, what CAS leaves where it compares equal. -/
def remoteUpdate (k : RemoteKind) : Option (Nat × Size × (Nat → Option Nat)) :=
  match k with
  | .read | .write _ => none
  | .atom off n op v => some (off, n, fun old => some (atomNew op (8 * sizeBytes n) old (v.toNat % 2 ^ (8 * sizeBytes n))).1)
  | .cas off n e v => some (off, n, fun old =>
      if old = e.toNat % 2 ^ (8 * sizeBytes n) then some (v.toNat % 2 ^ (8 * sizeBytes n)) else none)

/-- An access of package pkg to a local line: a read that is recorded as a sharer, a write, or an atomic (R259). A poisoned line
answers an atomic with poison and keeps its bytes (R261). -/
def State.domainServes (s : State) (pkg line : Nat) (kind : RemoteKind) (poisoned : Bool) (data : BitVec 512) : State :=
  let home := s.homeNode line
  match kind with
  | .read => { (s.supply line) with coh := { s.coh with sharers := KMap.alter s.coh.sharers line [] (fun l => addSharer l pkg) } }
  | .write mask => (s.writeAtSlice home none (maskCells line data mask)).remotePoison line mask poisoned
  | _ =>
    match remoteUpdate kind with
    | none => s
    | some (off, n, f) =>
      if s.outsidePoison line then { s with hostOut := s.hostOut ++ [.atomicData pkg line 0 true] }
      else
        let (old, cells) := remoteAtomic line (s.outsideLine line) off n f
        let s : State := if cells.isEmpty then s else s.writeAtSlice home none cells
        { s with hostOut := s.hostOut ++ [.atomicData pkg line (BitVec.ofNat 64 old) false] }

/-- The first atomic sent to another package that an answer belongs to. -/
def State.atomicFor (s : State) (line : Nat) (kind : RemoteKind) : Option (Nat × Nat) :=
  s.cores.findSome? (fun c => c.2.accesses.findSome? (fun p =>
    let pa := (p.2.bytes.headD (0, 0)).1
    if p.2.stage ≠ .remote || lineOf pa ≠ line then none
    else match slotInstr p.2.bits with
      | some i => if remoteKind i p.2.firing (pa % 64) = some kind then some (c.1, p.1) else none
      | none => none))

/-- Another package's answer: data for a read, the end of a write with its acknowledgements, the old value of an atomic
(R259). -/
def State.domainAnswers (s : State) (line : Nat) (kind : RemoteKind) (poisoned : Bool) (data : BitVec 512) : State :=
  match kind with
  | .read => if s.coh.outerReqs.any (fun r => r.line = line) then s.outerFill line data poisoned false else s
  | .write _ => { s with coh := { s.coh with unperf := s.coh.unperf.filter (fun u => u.line ≠ line) } }
  | _ => match s.atomicFor line kind with
    | none => s
    | some (c, key) => s.updCore c (fun q => match KMap.look q.accesses key with
        | none => q
        | some x => { q with
            accesses := KMap.put q.accesses key { x with stage := .answered (data.toNat % 2 ^ 64) poisoned } })

/-- R258, R259: an access of the domain performs at its home. On a local line, package pkg reads, writes or makes an atomic here;
on a line of another package, that package answers. -/
def execZelasRemoteAccess (pkg line : Nat) (kind : RemoteKind) (poisoned : Bool) (data : BitVec 512) (s : State) :
    Host.Outcome State Fault Refusal :=
  let wait (s : State) : State := { s with waiting := s.waiting ++ [.event (.zelasRemoteAccess pkg line kind poisoned data)] }
  .next (if s.isLocal line then
      if kind = .read then
        (if s.homeReadable line then s.domainServes pkg line kind poisoned data
         else wait (s.request line (s.homeNode line) .readShared))
      else if s.agentReady line none then s.domainServes pkg line kind poisoned data
      else wait (s.agentRequest line)
    else if s.isDomain line then s.domainAnswers line kind poisoned data
    else s)

/-- R259: another package invalidates a line of its own that is shared here; the sharer acknowledges, and reservations of the
granule end (R164). -/
def execZelasInvalidate (line : Nat) (s : State) : Host.Outcome State Fault Refusal :=
  .next (if !s.isDomain line then s
    else
      let s := s.breakResv line none (fun _ => true)
      { s with
        coh := { s.coh with
          outer := KMap.del s.coh.outer line
          l1 := KMap.mapVals s.coh.l1 (fun m => m.filter (fun q => q.1 / 16 ≠ line))
          l2 := KMap.mapVals s.coh.l2 (fun m => KMap.del m line) }
        hostOut := s.hostOut ++ [.zelasAck line] })

end Sys2Proof.Machine
end

