-- ==== Sys2Proof/Machine/Links.lean ====
section
/-! DEFINITION. Links and failures: pool ranges and packages that fail (R263), link training and loss (R254, R256, R258),
checks and retries (R264), node and die resets (R262), refresh and scrub of HBM (R144, R145). -/

namespace Sys2Proof.Machine

/-! ## Failed ranges and packages (R263) -/

/-- Steps 2 to 4 of a failure for the lines that p selects: reads that wait complete as poison (the check of R136 and the
reply find the failure), writes that wait are discarded and logged, and every copy is invalidated, M data with a log
entry. unit is the UNIT of the range or package. -/
def State.failLines (s : State) (unit : Nat) (p : Nat → Bool) : State :=
  let lost := dedupNat ((s.coh.unperf.filter (fun u => p u.line)).map (·.line) ++
    (s.coh.writes.filter (fun r => p r.line)).map (·.line))
  let s := lost.foldl (fun s l => s.logDiscard l) s
  let dirty := dedupNat
    ((s.coh.l2.flatMap (fun n => n.2.filterMap (fun q => if p q.1 && (q.2.st = .m || q.2.st = .o) then some q.1 else none))) ++
     (s.coh.outer.filterMap (fun q => if p q.1 && q.2.st = .m then some q.1 else none)))
  let s := dirty.foldl (fun s l => s.logError 10 5 unit (64 * l) 1) s
  { s with coh := { s.coh with
      unperf := s.coh.unperf.filter (fun u => !p u.line)
      reqs := s.coh.reqs.filter (fun r => !p r.line)
      outerReqs := s.coh.outerReqs.filter (fun r => !p r.line)
      writes := s.coh.writes.filter (fun r => !p r.line)
      outer := s.coh.outer.filter (fun q => !p q.1)
      dir := s.coh.dir.filter (fun q => !p q.1)
      l1 := KMap.mapVals s.coh.l1 (fun m => m.filter (fun q => !p (q.1 / 16)))
      l2 := KMap.mapVals s.coh.l2 (fun m => m.filter (fun q => !p q.1)) } }

/-- A pool range fails (R263): FAILED is set, then what waits completes, copies end and its filter entries go. -/
def State.failRange (s : State) (i : Nat) : State :=
  if i ≥ 64 || !bitOf (s.regN .cxpPmctl i) 0 || s.rangeFailed i then s
  else
    let first := s.regBits .cxpPmbase i 51 16
    let last := s.regBits .cxpPmctl i 51 16
    let inside (page : Nat) : Bool := first ≤ page && page ≤ last
    let s := s.setRegBit .cxpPmctl i 1
    let s := (s.logError 10 4 (errUnit 0 i) (65536 * first) 1).failLines (errUnit 0 i) (fun l => inside (l / 1024))
    { s with coh := { s.coh with presence := s.coh.presence.filter (fun pg => !inside pg) } }

/-- The first line of a package's window and the number of its lines (R129). -/
def domainLine (pkg : Nat) : Nat := (0x1000000000000 + pkg * 0xC000000000) / 64

/-- A package of the domain fails (R263). -/
def State.failPackage (s : State) (pkg : Nat) : State :=
  if s.failed.contains pkg then s
  else
    let s := { s with failed := s.failed ++ [pkg] }
    (s.logError 8 4 (errUnit 0 pkg) (64 * domainLine pkg) 1).failLines (errUnit 0 pkg)
      (fun l => decide (domainLine pkg ≤ l) && decide (l < domainLine (pkg + 1)))

/-- A Zelas port lost for good: out of every route; a package whose route becomes empty fails (R258, R263, R264). -/
def State.loseZelas (s : State) (port : Nat) : State :=
  let s := { s with links := { s.links with zelas := KMap.put s.links.zelas port 2 } }
  let hit := (upTo 1024).filter (fun n => bitOf (s.regN .zlkRoute n) port)
  hit.foldl (fun s n =>
    let v := s.regN .zlkRoute n - 2 ^ port
    let s := s.setRegN .zlkRoute n v
    if v = 0 && n ≠ s.regN .zlkId then s.failPackage n else s) s

/-- A CXL port down; a pool port takes its ranges with it (R263). -/
def State.cxlDown (s : State) (port : Nat) : State :=
  let s := { s with links := { s.links with cxl := KMap.put s.links.cxl port 0 } }
  if port < 2 then s
  else (upTo 64).foldl (fun s i => if s.regBits .cxpPmbase i 2 0 = port - 2 then s.failRange i else s) s

/-- R263: a pool root port, 0 to 7, goes down and its ranges fail. -/
def execPoolPortDown (port : Nat) (s : State) : Host.Outcome State Fault Refusal :=
  .next (if port ≥ 8 then s else s.cxlDown (port + 2))

/-- R263: a switch reports the loss of a range's shelf. -/
def execShelfLossReport (range : Nat) (s : State) : Host.Outcome State Fault Refusal := .next (s.failRange range)

/-- The pool range of a request to an outside home. -/
def State.reqRange (s : State) (r : OuterReq) : Option Nat :=
  match s.target (64 * r.line) with
  | .pool port => s.poolRange (64 * r.line) port
  | _ => none

/-- Has a request of the range been unanswered for CXP_TMO ticks (R263)? -/
def State.rangeTimedOut (s : State) (i : Nat) : Bool :=
  (s.coh.outerReqs ++ s.coh.writes).any (fun r => s.reqRange r = some i && decide (r.since + s.regN .cxpTmo ≤ s.time.ref))

/-- R263: a range one of whose requests is unanswered for CXP_TMO ticks fails. -/
def execPoolRequestTimeout (range : Nat) (s : State) : Host.Outcome State Fault Refusal :=
  .next (if s.rangeTimedOut range then s.failRange range else s)

/-- R263, Table 12.7: CXP_PMCTL. A write of 0 to FAILED clears it; while V = 1 nothing else of the register changes. -/
def execCxpPmctlWrite (i : Nat) (v : Word) (s : State) : Host.Outcome State Fault Refusal :=
  .next (if i ≥ 64 then s
    else
      let old := s.reg .cxpPmctl i
      let failed := old &&& 2 &&& v
      if bitOf old.toNat 0 then s.setReg .cxpPmctl i ((old &&& ~~~2) ||| failed)
      else s.setReg .cxpPmctl i ((v &&& ~~~2) ||| failed))

/-- R258, R264: a lasting failure of a Zelas port. -/
def execZelasPortLoss (port : Nat) (s : State) : Host.Outcome State Fault Refusal :=
  .next (if port ≥ 24 then s else (s.logError 8 2 (errUnit 12 port) 0 1).loseZelas port)

/-- R254: a CXL link that cannot train to a 256-byte flit mode stays down and is logged. -/
def execLinkTrainingFail (port : Nat) (s : State) : Host.Outcome State Fault Refusal :=
  .next (if port ≥ 10 then s else (s.logError 9 7 (errUnit 12 port) 0 1).cxlDown port)

/-- R254, R256, R258: a port trains: CXL ports 0 to 9, Zelas ports under 10 to 33. A Zelas port lost for good stays out. -/
def execLinkUp (port : Nat) (s : State) : Host.Outcome State Fault Refusal :=
  .next (if port < 10 then { s with links := { s.links with cxl := KMap.put s.links.cxl port 1 } }
    else if port < 34 && KMap.lookD s.links.zelas (port - 10) 0 ≠ 2 then
      { s with links := { s.links with zelas := KMap.put s.links.zelas (port - 10) 1 } }
    else s)

/-! ## Checks (R264) -/

/-- R264: a check fails for the first time; the transfer or read is retried. -/
def execCheckFail (kind index : Nat) (pa : Nat) (s : State) : Host.Outcome State Fault Refusal :=
  .next { s with checks := s.checks ++ [⟨kind, index, pa, false⟩] }

/-- The copy of a line that cannot be read in the L2 of a node: an owned one is lost with the node's registered words, its line
poisoned at the home and the owner cleared (R262, Table 12.8), any other is poisoned in place. -/
def State.loseLine (s : State) (n line : Nat) : State :=
  if (s.dirOf line).owner = some n then
    (((s.unregister n line).dropL2 n line).setDir line { s.dirOf line with owner := none }).setPoison line
  else s.setCopyPoison n line true

/-- A line of a node poisoned in place at its L2; where its words still wait for ownership, the grant brings the poison. -/
def State.poisonAt (s : State) (n line : Nat) : State :=
  if s.pendingAt n line then
    { s with coh := { s.coh with unperf := s.coh.unperf.map (fun u =>
        if u.line = line && u.node = n then { u with poison := some true } else u) } }
  else s.setCopyPoison n line true

/-- A word of an L1 that cannot be read: reloaded from its source, which a registered word does not have. -/
def State.loseL1Word (s : State) (c w : Nat) : State :=
  match s.l1Word c w with
  | none => s
  | some x =>
    let s := s.updL1 c (fun m => KMap.del m w)
    if x.registered then s.poisonAt (nodeOf c) (w / 16) else s

/-- An operand of a matching store that cannot be recovered: the tile freezes with STRAY, the operand held as a stray. -/
def State.loseOperand (s : State) (c t n : Nat) : State :=
  let tl := s.tile c t
  match tl.main.store[n]? with
  | none => s
  | some e =>
    if tl.frozen.isSome then s
    else
      let bits := (KMap.look tl.main.plane.slots e.slot).getD ⟨0, 0⟩
      let site : Site := { core := c, tile := t, slot := e.slot }
      let s := s.updTile c t (fun x => { x with main := { x.main with store := x.main.store.eraseIdx n } })
      s.takeFreeze { site := site, bits := bits, a := [e.tok] } e.tok.slot codeSTRAY
        { code := codeSTRAY, site := site, token := some e.tok } (strayInfo tl.mx 15)

/-- The degraded action of Table 12.8 for a lasting failure. -/
def State.degrade (s : State) (x : Check) : State :=
  let line := lineOf x.pa
  match x.kind with
  | 1 => { (s.setPoison line) with
      hbm := KMap.alter s.hbm x.index {} (fun k => { k with repair := k.repair ++ [Config.rowOf line] }) }
  | 2 => s.loseLine (x.index / 64) line
  | 3 => s.loseL1Word x.index (x.pa / 4)
  | 4 => s.updThread x.index (x.pa / 128) (fun t => { t with poison := t.poison ++ [x.pa % 128] })
  | 5 => { s with cfgCache := KMap.alter s.cfgCache x.index [] (fun m => m.eraseIdx x.pa) }
  | 6 => s.loseOperand (x.index / 64) (x.index % 64) x.pa
  | 7 =>
    let c := x.index / 64
    (s.updCore c (fun k => { k with degraded := true })).updCtx c (x.index % 64) false (fun y =>
      y.updPort (x.pa % 8) (fun l => match l with
        | [] => []
        | a :: r => { a with tok := { a.tok with deferred := true, data := BitVec.ofNat 256 codePOISON } } :: r))
  | 8 => s.loseZelas x.index
  | 9 => { s with links := { s.links with cxl := KMap.alter s.links.cxl x.index 0 (fun v => if v = 1 then 2 else v) } }
  | _ => s

/-- UNIT of the resource of a check: its die and its number. -/
def Check.unit (x : Check) : Nat :=
  match x.kind with
  | 1 => errUnit (8 + x.index / 3) x.index
  | 2 => errUnit (8 + x.index / 64) x.index
  | 3 | 4 | 5 => errUnit (dieOf x.index) x.index
  | 6 | 7 => errUnit (dieOf (x.index / 64)) (x.index / 64)
  | _ => errUnit 12 x.index

/-- R264: the retry of a check succeeds and is logged as transient, or the failure is lasting. -/
def execCheckRetryResult (kind index : Nat) (ok : Bool) (s : State) : Host.Outcome State Fault Refusal :=
  .next (match s.checks.find? (fun x => x.kind = kind && x.index = index && !x.lasting) with
    | none => s
    | some x =>
      let s := { s with checks := s.checks.erase x }
      if ok then s.logError kind 1 x.unit x.pa 1
      else
        let s := { s with checks := s.checks ++ [{ x with lasting := true }] }
        (s.logError kind 2 x.unit x.pa 1).degrade x)

/-! ## HBM (R144, R145) -/

/-- Is a row found in a filter of a stack: entered, or a false positive? -/
def Stack.found (k : Stack) (stack filter row : Nat) : Bool :=
  (if filter = 0 then k.fast else k.middle).contains row || Config.filterHit stack filter row

/-- The refresh interval of a row in ticks (R144). -/
def Stack.interval (k : Stack) (stack row : Nat) : Tick :=
  let ms := if k.found stack 0 row then 32 else if k.found stack 1 row then 64 else 128
  ms * 1000000 / (if k.hot then 2 else 1)

/-- R144: a row whose interval has passed is refreshed. -/
def execHbmRefresh (stack row : Nat) (s : State) : Host.Outcome State Fault Refusal :=
  let k := KMap.lookD s.hbm stack {}
  .next (if stack < s.stacks && decide (KMap.lookD k.refreshed row 0 + k.interval stack row ≤ s.time.ref) then
    { s with hbm := KMap.put s.hbm stack { k with refreshed := KMap.put k.refreshed row s.time.ref } } else s)

/-- R144: the temperature of a stack crosses 85 °C. -/
def execStackTemperatureCrossing (stack : Nat) (hot : Bool) (s : State) : Host.Outcome State Fault Refusal :=
  .next (if stack < s.stacks then { s with hbm := KMap.alter s.hbm stack {} (fun k => { k with hot := hot }) } else s)

/-- The number of lines of a stack: 64 GiB (R17). -/
def stackLines : Nat := 2 ^ 30

/-- Line j of a stack in the order of the patrol (R130). -/
def State.stackLine (s : State) (n j : Nat) : Nat :=
  let o := (3 * (j / 4) + n % 3) * 256 + 64 * (j % 4)
  (o / 4096 * (if s.z240 then 2 ^ 13 else 2 ^ 14) + n / 3 * 4096 + o % 4096) / 64

/-- The ticks of a scrub pass: HBM_SCRUB seconds, or 3,600 where the register holds less (R145). -/
def State.scrubPeriod (s : State) : Tick := max (s.regN .hbmScrub) 3600 * 1000000000

/-- The patrol of a stack after the read of its next line at a tick: a pass of every line of the stack, then the next one. -/
def Stack.patrolled (k : Stack) (now : Tick) : Stack :=
  if k.scrubbed + 1 < stackLines then { k with scrubbed := k.scrubbed + 1 } else { k with scrubbed := 0, passStart := now }

/-- The rows whose interval has passed (R144): none in the first 16 ms, which no interval is shorter than. -/
def State.refreshMoves (s : State) : List Instr :=
  if s.time.ref < 16000000 then []
  else (upTo s.stacks).flatMap (fun n =>
    let k := KMap.lookD s.hbm n {}
    ((upTo Config.rows).filter (fun row =>
      let last := KMap.lookD k.refreshed row 0
      decide (last + 16000000 ≤ s.time.ref) && decide (last + k.interval n row ≤ s.time.ref))).map
        (fun row => .hbmRefresh n row))

/-- The patrol's reads that are due: line j of a pass by the time that its share of the period has passed (R145). What a read
finds is a free value (log entry 5). -/
def State.scrubMoves (s : State) : List Instr :=
  (upTo s.stacks).flatMap (fun n =>
    let k := KMap.lookD s.hbm n {}
    if k.passStart + (k.scrubbed + 1) * s.scrubPeriod / stackLines ≤ s.time.ref then
      [.scrubRead (s.stackLine n k.scrubbed) (Config.scrubFinds n s.time.ref % 3)]
    else [])

/-- R145: the scrubber reads a line; detected is 0 for no error, 1 for a correctable one, 2 for one that cannot be
corrected. A read of the next line of its stack's patrol moves the patrol on. -/
def execScrubRead (line : Nat) (detected : Nat) (s : State) : Host.Outcome State Fault Refusal :=
  .next (if !s.isLocal line then s
    else
      let n := s.stackOf (64 * line)
      let k := KMap.lookD s.hbm n {}
      let row := Config.rowOf line
      let k := if line = s.stackLine n k.scrubbed then k.patrolled s.time.ref else k
      let unit := errUnit (8 + n / 3) n
      match detected with
      | 0 => { s with hbm := KMap.put s.hbm n k }
      | 1 =>
        if k.found n 0 row then
          { (s.logError 1 2 unit (64 * line) 1) with hbm := KMap.put s.hbm n { k with repair := k.repair ++ [row] } }
        else if k.found n 1 row then { s with hbm := KMap.put s.hbm n { k with fast := k.fast ++ [row] } }
        else { s with hbm := KMap.put s.hbm n { k with middle := k.middle ++ [row] } }
      | _ => { ((s.setPoison line).logError 1 3 unit (64 * line) 1) with hbm := KMap.put s.hbm n k })

/-! ## Resets of nodes and dies (R262) -/

/-- The registered words of a node: core, word number, value. -/
def State.nodeRegistered (s : State) (n : Nat) : List (Nat × Nat × BitVec 32) :=
  s.coh.l1.flatMap (fun p => if nodeOf p.1 = n then
    p.2.filterMap (fun q => if q.2.registered then some (p.1, q.1, q.2.data) else none) else [])

/-- The L2 and the L1s of a node emptied; its writes wait no longer. -/
def State.emptyNode (s : State) (n : Nat) : State :=
  { s with coh := { s.coh with
      l2 := KMap.del s.coh.l2 n
      l1 := s.coh.l1.filter (fun p => nodeOf p.1 ≠ n)
      dir := KMap.mapVals s.coh.dir (fun e => if e.owner = some n then { e with owner := none } else e)
      unperf := s.coh.unperf.filter (fun u => u.node ≠ n)
      reqs := s.coh.reqs.filter (fun r => !(r.node = n && r.kind ≠ .hostOwn)) } }

/-- The outside lines that a node holds as their internal home. -/
def State.outerAt (s : State) (n : Nat) : List Nat := (KMap.keys s.coh.outer).filter (fun l => s.homeNode l = n)

/-- R262: a draining reset writes back every M and O line of the node and every registered word of its cores, once none of them
waits for ownership, and gives up the outside lines that the node holds. -/
def execDrainingNodeReset (node : Nat) (s : State) : Host.Outcome State Fault Refusal :=
  .next (if s.coh.unperf.any (fun u => u.node = node) then
      { s with waiting := s.waiting ++ [.event (.drainingNodeReset node)] }
    else
      let s := (s.outerAt node).foldl (fun s l => s.giveUpOuter l) s
      let words := s.nodeRegistered node
      let s := (dedupNat (words.map (fun w => w.2.1 / 16))).foldl (fun s l => s.collect node l) s
      let held := KMap.lookD s.coh.l2 node []
      let s := held.foldl (fun (s : State) (q : Nat × L2Line) =>
        if q.2.st = .m || q.2.st = .o then s.setBaseBit q.1 q.2.data q.2.poison else s) s
      s.emptyNode node)

/-- The outside lines that a node holds in M lost: the write-back brings poison, and every hold of the node ends (R262). -/
def State.loseOuter (s : State) (node : Nat) : State :=
  let l := s.outerAt node
  let dirty := l.filter (fun x => match KMap.look s.coh.outer x with | some y => decide (y.st = .m) | none => false)
  { s with
    coh := { s.coh with outer := s.coh.outer.filter (fun q => !l.contains q.1) }
    hostOut := s.hostOut ++ dirty.map (fun x => HostMsg.outerWrite x (s.baseLine x) (BitVec.allOnes 64) true none) }

/-- R262: a fatal node reset. The homes poison every line that the node held in M or O; the port die's reset sequencer poisons
every local line of the node that was dirty in its L2, those that hold a registered word and those that the retained tags
name; where that pass fails, every line of its HBM. -/
def execFatalNodeReset (node : Nat) (dirty : List Nat) (passFails : Bool) (s : State) : Host.Outcome State Fault Refusal :=
  let owned := (KMap.lookD s.coh.l2 node []).filterMap (fun q => if q.2.st = .m || q.2.st = .o then some q.1 else none)
  let words := (s.nodeRegistered node).map (fun w => w.2.1 / 16)
  let mine := (dirty ++ words).filter (fun l => s.isLocal l && s.homeNode l = node)
  let pass := if passFails then
      (upTo ((if s.z240 then 0x6000000000 else 0xC000000000) / 64)).filter (fun l => s.homeNode l = node)
    else mine
  let lines := dedupNat (owned ++ mine)
  let s := (s.loseOuter node).emptyNode node
  let s := (owned ++ pass).foldl (fun s l => s.setPoison l) s
  .next (if passFails then s.logError 11 5 (errUnit (8 + node) node) 0 (owned ++ pass).length
    else if lines.isEmpty then s else s.logError 11 3 (errUnit (8 + node) node) 0 lines.length)

/-- R262: a fatal reset of a fabric die poisons every line that holds a word registered by one of its cores, at the L2 of the
die's node, and clears the registrations. -/
def execFatalFabricDieReset (die : Nat) (s : State) : Host.Outcome State Fault Refusal :=
  let lines := dedupNat (s.coh.l1.flatMap (fun p => if dieOf p.1 = die then
    p.2.filterMap (fun q => if q.2.registered then some (q.1 / 16) else none) else []))
  let s := { s with coh := { s.coh with l1 := s.coh.l1.filter (fun p => dieOf p.1 ≠ die) } }
  let s := lines.foldl (fun s l => s.poisonAt (nodeOf (32 * die)) l) s
  .next (if lines.isEmpty then s else s.logError 11 3 (errUnit die die) 0 lines.length)

end Sys2Proof.Machine
end

