-- ==== Sys2Proof/Machine/Mgmt.lean ====
section
/-! DEFINITION. Time and clocks (R14 to R16), rails and power (R21 to R23), boot, recovery and keys (R276 to R280),
attestation (R281), alarms (R282) and the management channel (R283). -/

namespace Sys2Proof.Machine

/-! ## Time views (R15) -/

/-- The dies of the part: fabric dies 0 to 7, port dies 8 to 11, CD 12. -/
def State.isDie (s : State) (d : Nat) : Bool := d < s.fabricDies || (8 ≤ d && d < 8 + s.portDies) || d = 12

/-- A die marks its time view invalid (R15): TMB_LOSS, its cores' reservations (R164), its node's leased copies (R251). -/
def State.loseView (s : State) (d : Nat) : State :=
  let s := (s.updDie d (fun x => { x with valid := false })).setRegBit .tmbLoss 0 d
  let s := if d < 8 then
      { s with cores := KMap.mapKV s.cores (fun c k =>
          if dieOf c = d then { k with threads := KMap.mapVals k.threads (fun t => { t with resv := none }) } else k) }
    else s
  if d < 8 then s.dropLeases (d / 2) else if d < 12 then s.dropLeases (d - 8) else s

/-- R15: a die's copy, which has gained or lost at most 4 ticks since the last comparison, is compared with the reference. When
within the interval it gains or loses them is open: the model applies the whole gain or loss at the comparison (log entry
44). -/
def execTimeCompare (die : Nat) (s : State) : Host.Outcome State Fault Refusal :=
  .next (if !s.isDie die || !(s.die die).valid then s
    else
      let (c, s) := s.choose 9
      let s := s.updDie die (fun x => if c < 4 then { x with skip := x.skip + (4 - c) } else { x with copy := x.copy + (c - 4) })
      let x := s.die die
      if s.time.ref + 12 + x.skip < x.copy || x.copy + 12 < s.time.ref + x.skip then s.loseView die else s)

/-- R15: a die whose clock has stopped and restarted marks its view invalid. -/
def execClockRestart (die : Nat) (s : State) : Host.Outcome State Fault Refusal :=
  .next (if s.isDie die then s.loseView die else s)

/-- R15: a die whose view is invalid steps forward to the reference and marks it valid; a copy ahead of the reference waits
for it. -/
def execTimeResync (die : Nat) (s : State) : Host.Outcome State Fault Refusal :=
  .next (if !s.isDie die || (s.die die).valid then s
    else if s.time.ref < (s.die die).copy then s
    else s.updDie die (fun x => { x with copy := s.time.ref, skip := 0, valid := true, synced := true }))

/-! ## Management events and power (R23, R283) -/

/-- A management event numbered and kept, or counted by the LOST event where 256 wait unacknowledged (R283). -/
def State.mgmtEvent (s : State) (e : MgmtEvent) : State :=
  let x := s.sec
  if x.events.length < 256 then { s with sec := { x with dseq := x.dseq + 1, events := x.events ++ [(x.dseq + 1, e)] } }
  else match x.events.getLast? with
    | some (n, .dropped k) => { s with sec := { x with events := x.events.dropLast ++ [(n, .dropped (k + 1))] } }
    | _ => { s with sec := { x with dseq := x.dseq + 1, events := x.events ++ [(x.dseq + 1, .dropped 1)] } }

/-- The package TDP in watts (R21, Table 1.8). -/
def State.tdp (s : State) : Nat := if s.z240 then 1500 else 3000

/-- The power limit in force. -/
def State.powerLimit (s : State) : Nat := min s.sec.limit s.tdp

/-- One clock change of a fabric die, reported as a management event. -/
def State.setClock (s : State) (d mhz : Nat) : State :=
  (s.updDie d (fun x => { x with mhz := mhz })).mgmtEvent (.clock d (100 * mhz))

/-- R23: the end of a 1 ms window of a package power. -/
def execPowerWindow (watts : Nat) (s : State) : Host.Outcome State Fault Refusal :=
  let dies := upTo s.fabricDies
  .next (if watts > s.powerLimit || (s.sec.capping && watts = s.powerLimit) then
      let s := { s with sec := { s.sec with below := 0, capping := true } }
      dies.foldl (fun s d => if (s.die d).mhz > 10 then s.setClock d ((s.die d).mhz - 1) else s) s
    else if watts * 100 < 95 * s.powerLimit then
      if s.sec.below + 1 ≥ 10 then
        let s := { s with sec := { s.sec with below := 0, capping := false } }
        dies.foldl (fun s d => if (s.die d).mhz < (s.die d).base then s.setClock d ((s.die d).mhz + 1) else s) s
      else { s with sec := { s.sec with below := s.sec.below + 1, capping := false } }
    else { s with sec := { s.sec with below := 0, capping := false } })

/-- Every die held in reset by CD (R22, R282): nothing that was to come is carried out, and no view of time is valid. -/
def State.holdAll (s : State) : State :=
  { s with
    sec := { s.sec with held := true }
    time := { s.time with dies := KMap.mapVals s.time.dies (fun x => { x with valid := false }) }
    agenda := [], waiting := [] }

/-- R22: a rail leaves its range, or the order is broken: CD holds every die in reset and records the rail. -/
def execRailFault (rail : Nat) (s : State) : Host.Outcome State Fault Refusal :=
  let s := s.holdAll
  .next { s with sec := { s.sec with railFault := some rail, powerLog := s.sec.powerLog ++ [rail] } }

/-! ## Boot (R276 to R280) -/

/-- The non-volatile store as the next boot finds it: an image whose write was cut off does not verify (R279). -/
def Sec.stored (x : Sec) : Store := if x.commit.isSome then { x.nv with imageOk := false } else x.nv

/-- The part as the configuration record gives it: its identity and its dies (R278). -/
def Store.part (x : Store) : Store :=
  match x.record with
  | none => x
  | some r => { x with z240 := Config.recordZ240 r, disabled := Config.recordDisabled r }

/-- Does the configuration record verify (R277)? -/
def Store.recordPasses (x : Store) : Bool := x.recordOk && decide (x.svn ≤ x.recordSvn)

/-- Does the firmware image verify (R277)? -/
def Store.imagePasses (x : Store) : Bool := x.imageOk && decide (x.svn ≤ x.imageSvn)

/-- The package after a reset: what the non-volatile store and the management controller keep stands, all else is as after
reset. -/
def State.packageReset (s : State) : State :=
  { State.reset with
    sec := { nv := s.sec.stored, powerLog := s.sec.powerLog, e := s.sec.e, response := s.sec.response
             respEvents := s.sec.respEvents, epoch := s.sec.epoch, dseq := s.sec.dseq, events := s.sec.events }
    hostOut := s.hostOut, free := s.free, timing := s.timing }

/-- The package after a power-on: EPOCH counts it, E and the events' numbers start anew (R283). -/
def State.powerOn (s : State) : State :=
  let s := s.packageReset
  { s with sec := { s.sec with e := 0, response := [], respEvents := [], dseq := 0, events := [], epoch := s.sec.epoch + 1 } }

/-- The boot from the ROM (R276 to R280): the record, the image, the keys, the release of the dies, the firmware. -/
def State.bootUp (s : State) : State :=
  if !s.sec.nv.recordPasses then { s with sec := { s.sec with stage := 1, recovery := true } }
  else
    let nv := s.sec.nv.part
    let s := { s with sec := { s.sec with nv := nv, recordValid := true } }
    if !nv.imagePasses then { s with sec := { s.sec with stage := 2, recovery := true } }
    else
      let filter (n f : Nat) : List Nat := dedupNat (Config.weakRows n f)
      let hbm := (upTo s.stacks).foldl
        (fun (m : KMap Stack) n => KMap.put m n { fast := filter n 0, middle := filter n 1, passStart := s.time.ref }) ([] : KMap Stack)
      let rate (d : Nat) : Nat := 10 + Config.fabricRate d % 18
      let s := (upTo s.fabricDies).foldl (fun s d => s.updDie d (fun x => { x with mhz := rate d, base := rate d })) s
      { s with
        hbm := hbm
        sec := { s.sec with
          nv := { nv with svn := max nv.svn nv.imageSvn }, stage := 5, recovery := false
          imageVerified := true, keys := nv.keysOk && !nv.erased } }

/-- R276: CD leaves reset once the rails are in range. After a rail fault this is a power-on. -/
def execBoot (s : State) : Host.Outcome State Fault Refusal :=
  .next (if s.sec.railFault.isSome then s.powerOn.bootUp
    else if s.sec.stage = 0 && !s.sec.held then s.bootUp
    else s)

/-! ## Alarms (R282) -/

/-- The action set for a class: 0 voltage, 1 clock, 2 temperature, 3 mesh. -/
def State.alarmAction (s : State) (n : Nat) : Nat := s.regBits .secAlarmact 0 (2 * n + 1) (2 * n)

/-- R282: alarms of the classes of a mask (bit 0 voltage, 1 clock, 2 temperature, 3 mesh); the greatest of their actions
applies once. -/
def execAlarm (mask : BitVec 4) (s : State) : Host.Outcome State Fault Refusal :=
  let act := (((upTo 4).filter (fun n => bitOf mask.toNat n)).map s.alarmAction).foldl max 0
  .next (if mask = 0 then s
    else
      let s := if act = 3 then
          { s with sec := { s.sec with nv := { s.sec.nv with keysOk := false, erased := true }, keys := false } }
        else s
      let s := (s.setReg .secAlarm 0 (s.reg .secAlarm ||| mask.zeroExtend 64)).mgmtEvent (.alarm mask)
      match act with
      | 0 => s
      | 2 => s.packageReset.bootUp
      | _ => s.holdAll)

/-! ## The management channel (R283) -/

/-- What a command answers: its status, the words behind word 1, the events it returns, and the state. -/
structure MailboxReply where
  status : Nat
  words : List Nat
  events : List (Nat × MgmtEvent)
  state : State

/-- A command done without data. -/
def MailboxReply.done (s : State) : MailboxReply := ⟨0, [], [], s⟩

/-- A command refused. -/
def MailboxReply.refused (s : State) : MailboxReply := ⟨4, [], [], s⟩

/-- The bytes of a response (R283). -/
def State.mailboxBytes (s : State) (hseq status : Nat) (words : List Nat) : List Byte :=
  leBytes 8 (hseq * 2 ^ 32 + status * 2 ^ 16) ++ leBytes 8 (s.sec.epoch % 2 ^ 32 * 2 ^ 32 + s.sec.dseq % 2 ^ 32) ++
  words.flatMap (leBytes 8)

/-- The stored response with status 1. -/
def duplicateOf (hseq : Nat) (response : List Byte) : List Byte := leBytes 8 (hseq * 2 ^ 32 + 2 ^ 16) ++ response.drop 8

/-- A request of the mailbox (R283): executed once in its sequence, answered again where it is repeated. A command that
recovery does not mark is not answered there. -/
def State.mailbox (s : State) (recovery : Bool) (seq : List Byte) (run : State → MailboxReply) : State :=
  let hseq := leNat seq % 2 ^ 32
  let answer (s : State) (b : List Byte) (ev : List (Nat × MgmtEvent)) : State :=
    { s with hostOut := s.hostOut ++ [.mailbox b ev] }
  if s.sec.recovery && !recovery then s
  else if hseq = (s.sec.e + 1) % 2 ^ 32 then
    let r := run s
    let b := r.state.mailboxBytes hseq r.status r.words
    if r.status = 3 then answer s (s.mailboxBytes hseq 3 []) []
    else answer { r.state with sec := { r.state.sec with e := hseq, response := b, respEvents := r.events } } b r.events
  else if hseq = s.sec.e then answer s (duplicateOf hseq s.sec.response) s.sec.respEvents
  else answer s (s.mailboxBytes hseq 2 []) []

/-- The bytes of CD's staging buffer (R279). -/
def stagingSize : Nat := 0x4000000

/-- The staged bytes from the first on. -/
def Sec.staged (x : Sec) : List Byte :=
  let n := (KMap.keys x.staging).foldl (fun m k => max m (k + 1)) 0
  (upTo n).map (fun i => KMap.lookD x.staging i 0)

/-- Word 1 of a request. -/
def word1 (payload : List Byte) : Nat := leNat (payload.take 8)

/-- R279, R283: FWCHUNK stages data at a byte offset of the staging buffer; data beyond the buffer are refused. -/
def execFwchunk (seq payload : List Byte) (s : State) : Host.Outcome State Fault Refusal :=
  .next (s.mailbox true seq (fun s =>
    let data := payload.drop 8
    if word1 payload + data.length > stagingSize then .refused s
    else
      let m := (List.zip (upTo data.length) data).foldl
        (fun (m : KMap Byte) p => KMap.put m (word1 payload + p.1) p.2) s.sec.staging
      .done { s with sec := { s.sec with staging := m } }))

/-- R279, R283: FWCOMMIT verifies the staged image and starts writing it; busy while a commit runs. -/
def execFwcommit (seq _ : List Byte) (s : State) : Host.Outcome State Fault Refusal :=
  .next (s.mailbox true seq (fun s =>
    if s.sec.commit.isSome then ⟨3, [], [], s⟩
    else
      let img := s.sec.staged
      if Config.imageSigned img && decide (s.sec.nv.svn ≤ Config.imageSvn img) then
        .done { s with sec := { s.sec with commit := some ⟨img⟩ } }
      else .refused s))

/-- R279: the write of a committed image completes; in recovery the device then resets. -/
def execFwcommitWriteDone (s : State) : Host.Outcome State Fault Refusal :=
  .next (match s.sec.commit with
    | none => s
    | some c =>
      let nv := { s.sec.nv with image := c.image, imageOk := true, imageSvn := Config.imageSvn c.image }
      let s := { s with sec := { s.sec with nv := nv, commit := none } }
      if s.sec.recovery then s.packageReset.bootUp else s)

/-- R283: STATUS returns SEC_STAT and E. -/
def execStatus (seq : List Byte) (s : State) : Host.Outcome State Fault Refusal :=
  .next (s.mailbox true seq (fun s => ⟨0, [s.secStat, s.sec.e], [], s⟩))

/-- R23, R283: PWRLIMIT sets the power limit, at most TDP. -/
def execPwrlimit (seq payload : List Byte) (s : State) : Host.Outcome State Fault Refusal :=
  .next (s.mailbox false seq (fun s =>
    if word1 payload ≤ s.tdp then .done { s with sec := { s.sec with limit := word1 payload } } else .refused s))

/-- R283: EVREAD returns the events from a DSEQ. -/
def execEvread (seq payload : List Byte) (s : State) : Host.Outcome State Fault Refusal :=
  .next (s.mailbox true seq (fun s => ⟨0, [], s.sec.events.filter (fun e => word1 payload ≤ e.1), s⟩))

/-- R283: EVACK frees the events up to a DSEQ. -/
def execEvack (seq payload : List Byte) (s : State) : Host.Outcome State Fault Refusal :=
  .next (s.mailbox true seq (fun s =>
    .done { s with sec := { s.sec with events := s.sec.events.filter (fun e => word1 payload < e.1) } }))

/-- R277, R280, R283: REPROV installs the staged signed record with new wrapped keys while KEYS = 0. What the record says of the
part holds from the next boot on (R278). -/
def execReprov (seq _ : List Byte) (s : State) : Host.Outcome State Fault Refusal :=
  .next (s.mailbox true seq (fun s =>
    let r := s.sec.staged
    if s.sec.keys || !(Config.recordSigned r && decide (s.sec.nv.svn ≤ Config.recordSvn r)) then .refused s
    else .done { s with sec := { s.sec with
      nv := { s.sec.nv with
        record := some r, recordOk := true, recordSvn := Config.recordSvn r, keysOk := true, erased := false }
      keys := true } }))

/-- The bytes of the installed handler image, or none. -/
def State.handlerBytes (s : State) : Option (List Byte) :=
  (s.station.himage.bind s.image?).map (fun i =>
    i.header ++ i.table ++ i.actions ++ i.blocks.flatMap (fun b => b.2.header))

/-- R281: an SPDM request is answered with the four measurements, signed by both attestation keys where they are there. -/
def execSpdmRequest (payload : List Byte) (s : State) : Host.Outcome State Fault Refusal :=
  let nv := s.sec.nv
  let m := [Config.sha384 Config.rom, Config.sha384 (nv.record.getD Config.record), Config.sha384 nv.image,
            match s.handlerBytes with | some b => Config.sha384 b | none => 0]
  .next (if s.sec.recovery then s else { s with hostOut := s.hostOut ++ [.spdm payload m nv.imageSvn s.sec.keys] })

end Sys2Proof.Machine
end

