-- ==== Sys2Proof/Machine/Debug.lean ====
section
/-! DEFINITION. Debug, profiling and replay (R266 to R275): stops, settling and its list, steps, the reading of accumulator
rows, the trace and spill rings' registers, checkpoints and their replay. -/

namespace Sys2Proof.Machine

/-! ## Stops (R266 to R268) -/

/-- The team that a launch queue, the packet index of DBG_STOPPKT and a $team name. -/
def State.namedTeam (s : State) (q idx : Nat) : Option Nat :=
  (s.teams.find? (fun t => t.2.index = idx && !t.2.retired && (match s.grid? t.2.grid with
    | some g => g.queue = q && g.packet = s.regN .dbgStoppkt
    | none => false))).map (·.1)

/-- R266: a write to DBG_STOP. -/
def execDbgStop (v : Word) (s : State) : Host.Outcome State Fault Refusal :=
  let w := v.toNat
  let team := s.namedTeam (bitsOf w 61 56) (bitsOf w 31 0)
  .next (match bitsOf w 63 62, team with
    | 3, _ => s.addStop .device
    | 2, _ => if bitsOf w 55 48 < 32 * s.fabricDies then s.addStop (.core (bitsOf w 55 48)) else s
    | 1, some t => s.addStop (.team t)
    | 0, some t => s.addStop (.hand t (bitsOf w 47 41))
    | _, none => s
    | _, some _ => s)

/-- R266: every stop ends. -/
def execDbgResume (s : State) : Host.Outcome State Fault Refusal :=
  .next { s with dbg := { s.dbg with stops := [], settled := false, stepping := none } }

/-- Is a token that of a stopped thread? -/
def State.stoppedTok (s : State) (c : Nat) (t : Token) : Bool := !t.eos && s.stopped c t.slot

/-- Does a token of a stopped thread still move in a context of a tile: on its way on a channel, or at a head from which it
would be taken? -/
def State.tokMoves (s : State) (c t : Nat) (handler : Bool) : Bool :=
  let x := s.ctx c t handler
  (upTo 12).any (fun p =>
    (x.port p).any (fun a => s.stoppedTok c a.tok && decide (s.cycle c < a.cycle)) ||
    (match x.port p with
     | a :: _ => s.stoppedTok c a.tok && decide ((s.arrive c t p handler).cores ≠ s.cores)
     | [] => false))

/-- Does a result of a stopped thread that waits in a tile have room to leave? -/
def State.emitMoves (s : State) (c t : Nat) : Bool :=
  (s.tile c t).pendingEmits.any (fun e => s.stoppedTok c e.tok &&
    (match Dst.ofCode (BitVec.ofNat 5 (e.dst % 32)) with | some d => s.canSend c t (decide (e.dst ≥ 32)) d | none => false))

/-- Is an access at rest: its checks are past and it is not placed, so that it stands until another token of its execution
moves (R138)? -/
def State.accessRests (s : State) (c : Nat) (a : Access) : Bool :=
  a.stage = .reply && (match s.exec? c a.thread with | some e => !e.placed a.id | none => false)

/-- Has everything of the stopped threads come to rest: accesses returned, results where they wait (R266)? -/
def State.atRest (s : State) : Bool :=
  s.cores.all (fun k =>
    k.2.accesses.all (fun a => !s.stopped k.1 a.2.thread || s.accessRests k.1 a.2) &&
    k.2.tiles.all (fun t =>
      !s.tokMoves k.1 t.1 false && !(t.2.hctx.isSome && s.tokMoves k.1 t.1 true) && !s.emitMoves k.1 t.1))

/-- The entries of a tile that stopped threads hold (R268). -/
def State.stoppedItems (s : State) (c : Nat) (tl : Tile) : List OpItem :=
  let all := operandList tl ++
    (match tl.hctx with | some x => operandList { tl with main := x, frozen := none } | none => [])
  all.filter (fun o => s.stoppedTok c o.tok)

/-- The bytes of the list of R268. -/
def State.stopList (s : State) : List Byte :=
  s.cores.flatMap (fun k => k.2.tiles.flatMap (fun t =>
    match s.stoppedItems k.1 t.2 with
    | [] => []
    | l => leBytes 16 (t.1 % 64 + k.1 * 2 ^ 6 + l.length * 2 ^ 16) ++ l.flatMap OpItem.toBytes))

/-- May SETTLED be set now? -/
def State.maySettle (s : State) : Bool :=
  !s.dbg.stops.isEmpty && !s.dbg.settled && s.dbg.stepping.isNone && s.atRest

/-- R268: no token of a stopped thread moves: SETTLED is set and the list written, as far as its area reaches. -/
def execDbgSettled (s : State) : Host.Outcome State Fault Refusal :=
  .next (if s.maySettle then
    { s.putBytes (s.regN .dbgListbase) (s.stopList.take 0xFF000) with dbg := { s.dbg with settled := true } } else s)

/-! ## Steps (R270) -/

/-- The complete sets of a thread in a tile that can fire. -/
def State.threadSets (s : State) (c t k : Nat) (handler : Bool) : List (Nat × Bool × Ready) :=
  let x := s.ctx c t handler
  (s.readySets c t handler { x with store := x.store.filter (fun e => e.kind = .sticky || e.tok.slot = k) }).map
    (fun y => (t, handler, y))

/-- The set that a firing step fires: the earliest, then the lower tile, then the lower slot. -/
def State.stepSet (s : State) (c k : Nat) : Option (Nat × Bool × Ready) :=
  let l := (s.core c).tiles.flatMap (fun t =>
    if t.2.frozen.isSome then [] else
      s.threadSets c t.1 k false ++ (if t.2.hctx.isSome then s.threadSets c t.1 k true else []))
  leastBy (fun (p : Nat × Bool × Ready) => p.2.2.mset.last * 2048 + p.1 * 32 + p.2.2.slot) l

/-- The thread injected by a firing step, where it waits on a block that a region has configured and it can enter. -/
def State.stepInject (s : State) (c k : Nat) : Option State :=
  let th := s.thread c k
  let r := s.regionForBlock c k th.next
  match (s.region c r).batch with
  | none => none
  | some b =>
    if th.st = .waiting && b.block = th.next && b.image = s.imageOf c k then
      (match s.blockOn (dieOf c) b.image b.block with
       | none => none
       | some blk => if s.injectOk c r b.image b.block blk then some (s.inject c r k b.image b.block blk false) else none)
    else none

/-- R270: a firing step of the thread that DBG_STEP names. -/
def execDbgStepFiring (s : State) : Host.Outcome State Fault Refusal :=
  .next (match s.dbg.stepReq with
    | none => s
    | some (c, k) =>
      let s := { s with dbg := { s.dbg with stepReq := none } }
      if !(s.dbg.settled && s.stopped c k) then s
      else
        let s := { s with dbg := { s.dbg with stepNone := false } }
        match s.stepSet c k with
        | some (t, h, y) =>
          let s := s.consume c t h y
          { s with agenda := .event y.instr :: s.agenda, dbg := { s.dbg with settled := false } }
        | none => match s.stepInject c k with
          | some s => { s with dbg := { s.dbg with settled := false } }
          | none => { s with dbg := { s.dbg with stepNone := true } })

/-- R270: a block step of the thread that DBG_STEP names: it runs until its exit or its abandonment reaches the Dealer. -/
def execDbgStepBlock (s : State) : Host.Outcome State Fault Refusal :=
  .next (match s.dbg.stepReq with
    | none => s
    | some (c, k) =>
      let s := { s with dbg := { s.dbg with stepReq := none } }
      if !(s.dbg.settled && s.stopped c k) then s
      else { s with dbg := { s.dbg with stepNone := false, settled := false, stepping := some (c, k) } })

/-! ## Accumulator rows (R271) -/

/-- The rows that stopped threads hold in operand entries of MMA slots and that target a row of the accumulator. -/
def State.pendingRows (s : State) (c t row : Nat) : Nat :=
  let tl := s.tile c t
  (tl.main.store.filter (fun e => e.kind = .whole && e.tok.burst = .head && slotIsMma tl.main.plane e.slot &&
    tl.mx.rowbase + windowOf s c tl.mx e.tok.slot = row)).length

/-- The 17 words of R271: the entries of the row, then the state word. -/
def State.rowWords (s : State) (c t row : Nat) : List Nat :=
  let m := (s.tile c t).mx
  (upTo 16).map (fun j => m.entry row j) ++
    [s.pendingRows c t row % 256 + m.rem % 2 ^ 24 * 2 ^ 8 + b2n (m.defs.contains row) * 2 ^ 32 + m.flags.toNat * 2 ^ 33]

/-- R271: an accumulator row written to the list area, behind the rows in the row queue. -/
def execDbgAccrd (s : State) : Host.Outcome State Fault Refusal :=
  .next (match s.dbg.accrd with
    | none => s
    | some (c, t, row) =>
      let m := (s.tile c t).mx
      if !m.rows.isEmpty then s
      else
        { s.putWords (s.regN .dbgListbase + 0xFF000) (s.rowWords c t row) with dbg := { s.dbg with accrd := none } })

/-! ## Trace and spills (R272, R273) -/

/-- R272: DBG_TRCTL written with EN set: tracing begins with both indices zero. -/
def execTraceEnable (v : Word) (s : State) : Host.Outcome State Fault Refusal :=
  let s := (s.setReg .dbgTrctl 0 v).setReg .dbgTrhead 0 0
  .next { s with dbg := { s.dbg with trTail := 0, trHead := 0, trWait := [] } }

/-- The pending spill records written while the ring has places; their bins count again (R273). -/
def State.writeSpills (s : State) : State :=
  s.cores.foldl (fun (s : State) (k : Nat × Core) => k.2.tiles.foldl (fun (s : State) (t : Nat × Tile) =>
    t.2.spills.foldl (fun (s : State) (p : Nat × Word) =>
      if ringFull s.dbg.spTail s.dbg.spHead 4096 then s
      else
        let a := s.regN .pmcSpill + 16 * (s.dbg.spTail % 4096)
        let s := { s.putWords a [p.2.toNat, s.now k.1] with dbg := { s.dbg with spTail := s.dbg.spTail + 1 } }
        s.updTile k.1 t.1 (fun x => { x with spills := x.spills.filter (fun q => q.1 ≠ p.1) })) s) s) s

/-- R273: the spill head advanced; a value below the head or above the tail is discarded. -/
def execPmcSpheadWrite (v : Word) (s : State) : Host.Outcome State Fault Refusal :=
  .next (if v.toNat < s.dbg.spHead || s.dbg.spTail < v.toNat then s
    else { s.setReg .pmcSphead 0 v with dbg := { s.dbg with spHead := v.toNat } }.writeSpills)

/-- R273: the spill ring set, with both indices zero. -/
def execPmcSpillWrite (v : Word) (s : State) : Host.Outcome State Fault Refusal :=
  let s := (s.setReg .pmcSpill 0 v).setReg .pmcSphead 0 0
  .next ({ s with dbg := { s.dbg with spTail := 0, spHead := 0 } }.writeSpills)

/-! ## Replay (R274, R275) -/

/-- T of RPL_CTL in ticks. -/
def State.rplPeriod (s : State) : Tick := max 1 (s.regBits .rplCtl 0 10 1) * 1000000

/-- Is checkpointing enabled? -/
def State.rplOn (s : State) : Bool := bitOf (s.regN .rplCtl) 0

/-- R274: RPL_CTL. Enabling starts the period; disabling ends a drain that is in progress. -/
def execRplCtlWrite (v : Word) (s : State) : Host.Outcome State Fault Refusal :=
  let was := s.rplOn
  let s := s.setReg .rplCtl 0 v
  .next (if !s.rplOn then { s with rpl := { s.rpl with nextAt := none, draining := false } }
    else if was then s
    else { s with rpl := { s.rpl with nextAt := some (s.time.ref + s.rplPeriod) } })

/-- Is a core drained for a checkpoint: quiet but for regions that stand still (R222, R274)? -/
def State.ckptQuiet (s : State) (c : Nat) : Bool :=
  let still (t : Nat) : Bool := match s.regionOfTile c t with | some r => s.regionStill c r | none => false
  (s.core c).tiles.all (fun t => still t.1 || s.tileQuiet c t.1) && (s.core c).accesses.isEmpty &&
  (s.core c).faultNet.isEmpty &&
  (s.core c).threads.all (fun p => match p.2.exec with | some e => s.regionStill c e.region | none => true)

/-- The checkpoint of the device as it stands. -/
def State.ckpt (s : State) : Ckpt :=
  { time := s.time, regs := s.regs, mem := s.mem, full := s.full, poison := s.poison, coh := s.coh, mmu := s.mmu
    images := s.images, cfgCache := s.cfgCache, queues := s.queues, grids := s.grids, dist := s.dist, teams := s.teams
    cores := s.cores, saves := s.saves, contexts := s.contexts, engines := s.engines, chr := s.chr, station := s.station
    free := s.free, nextId := s.nextId }

/-- The number of the next checkpoint: the first is 0 (R275 restores "the pages of checkpoints 0 to k"; log entry 97). -/
def Rpl.nextNumber (x : Rpl) : Nat := if x.ckpts.isEmpty then 0 else x.last + 1

/-- The resident teams of the device, in the order of their dies. -/
def State.residentTeams (s : State) : List Nat := (upTo s.fabricDies).flatMap s.dieTeams

/-- The device as a checkpoint's contexts show it: the regions that stand still are held (R223), and the resident teams have the
checkpoint's team areas in their order. -/
def State.ckptView (s : State) : State :=
  let s := ((upTo s.fabricDies).flatMap s.stillOf).foldl
    (fun s p => s.updRegion p.1 p.2 (fun g => { g with held := true })) s
  (s.residentTeams.mapIdx (fun i t => (i, t))).foldl (fun s p => s.updTeam p.2 (fun x => { x with area := some p.1 })) s

/-- The 64 KiB pages of local HBM of which bytes stand in memory or in a cache. -/
def State.heldPages (s : State) : List Nat :=
  let cells : List Nat := s.mem.map (fun c => c.1 / 65536)
  let words : List Nat := s.coh.l1.flatMap (fun p => p.2.map (fun w => w.1 / 16384))
  let lines : List Nat := s.coh.l2.flatMap (fun p => p.2.map (fun l => l.1 / 1024))
  (cells ++ words ++ lines).filter (fun p => s.isLocal (1024 * p))

/-- The pages of local HBM that differ from what they held at the last checkpoint, or at reset (R274; log entry 97). -/
def State.changedPages (s : State) : List Nat :=
  let old : State := match KMap.look s.rpl.ckpts s.rpl.last with
    | some c => { s with mem := c.mem, coh := c.coh }
    | none => { s with mem := [], coh := {} }
  (dedupNat (s.heldPages ++ old.heldPages)).filter (fun p =>
    s.outsideBytes (65536 * p) 65536 ≠ old.outsideBytes (65536 * p) 65536)

/-- Where the next checkpoint stands in the area at RPL_BASE: behind those before it. -/
def State.ckptBase (s : State) : Nat := s.regBits .rplBase 0 51 30 * 2 ^ 30 + s.rpl.used

/-- What a checkpoint writes (R274): the die contexts in the layout of R221, 128 MiB apart; behind them the resident teams in that
of R217, 2,304 KiB apart; behind them each page that has changed, with its address (log entry 97). -/
def State.ckptWrites (s : State) : List (Nat × List Byte) :=
  let v := s.ckptView
  let base := s.ckptBase
  (upTo s.fabricDies).flatMap (fun d => (v.contextParts d).map (fun p => (base + 0x8000000 * d + p.1, p.2))) ++
  (v.residentTeams.mapIdx (fun i t => match v.team? t with
    | none => []
    | some x => match x.core, v.grid? x.grid with
      | some c, some g => (v.areaParts (v.savedThread c) t c x g).map (fun p => (base + 0x40000000 + 0x240000 * i + p.1, p.2))
      | _, _ => [])).flatten ++
  (s.changedPages.mapIdx (fun i pg =>
    let a := base + 0x40000000 + 0x240000 * v.residentTeams.length + 0x11000 * i
    [(a, leBytes 8 (65536 * pg)), (a + 0x1000, s.outsideBytes (65536 * pg) 65536)])).flatten

/-- The bytes of the area that a checkpoint takes. -/
def State.ckptSize (s : State) : Nat :=
  0x40000000 + 0x240000 * s.residentTeams.length + 0x11000 * s.changedPages.length

/-- The checkpoint written: the area, then the number, the log of the interval, and the state that it restores. -/
def State.takeCkpt (s : State) (due : Tick) : State :=
  let n := s.rpl.nextNumber
  let t := s.writeAll s.ckptWrites
  { t with rpl := { s.rpl with
      last := n, draining := false, nextAt := some (due + s.rplPeriod), used := s.rpl.used + s.ckptSize, log := []
      logs := KMap.put s.rpl.logs s.rpl.last s.rpl.log
      ckpts := KMap.put s.rpl.ckpts n t.ckpt } }

/-- R274: the period has passed: the device drains, then the checkpoint is written, once its lines can be, and injection
resumes. -/
def execCheckpoint (s : State) : Host.Outcome State Fault Refusal :=
  .next (match s.rpl.nextAt with
    | none => s
    | some t =>
      if !s.rplOn || s.time.ref < t then s
      else if !s.rpl.draining then { s with rpl := { s.rpl with draining := true } }
      else if !(s.cores.all (fun k => s.ckptQuiet k.1) && s.teams.all (fun x => s.teamVisible x.1 .system)) then s
      else if s.ckptWrites.all (fun p => s.deviceReady p.1 p.2.length) then s.takeCkpt t
      else s.ckptWrites.foldl (fun s p => s.deviceRequest p.1 p.2.length) s)

/-- A move recorded while checkpointing is enabled. -/
def State.logMove (s : State) (m : Move) : State :=
  if s.rplOn && !s.rpl.ckpts.isEmpty then { s with rpl := { s.rpl with log := s.rpl.log ++ [m] } } else s

/-- R275: RPL_START: the checkpoint restored, and what was logged since it to be run again. Accepted while no grid that has
begun is incomplete and RPL_CTL.EN = 0. -/
def execRplStart (v : Word) (s : State) : Host.Outcome State Fault Refusal :=
  let k := v.toNat % 2 ^ 32
  .next (if s.rplOn || s.grids.any (fun g => !g.2.complete) then s
    else match KMap.look s.rpl.ckpts k with
      | none => s
      | some c =>
        let logs := (s.rpl.logs.filter (fun l => k ≤ l.1)).flatMap (·.2)
        let keep := s.regs.filter (fun p => RegName.rplCtl.offset 0 ≤ p.1 && p.1 < RegName.rplCtl.offset 0 + 0x20000)
        let regs := keep.foldl (fun (m : KMap Word) p => KMap.put m p.1 p.2)
          (c.regs.filter (fun p => !(RegName.rplCtl.offset 0 ≤ p.1 && p.1 < RegName.rplCtl.offset 0 + 0x20000)))
        { s with
          time := c.time, regs := regs, mem := c.mem, full := c.full, poison := c.poison, coh := c.coh, mmu := c.mmu
          images := c.images, cfgCache := c.cfgCache, queues := c.queues, grids := c.grids, dist := c.dist, teams := c.teams
          cores := c.cores, saves := c.saves, contexts := c.contexts, engines := c.engines, chr := c.chr
          station := c.station, free := c.free, nextId := c.nextId, agenda := [], waiting := []
          rpl := { s.rpl with replaying := some k, moves := logs ++ s.rpl.log, startedAt := s.time.ref } })

/-- R275: the end of the log. The time base, which returned the logged values again, goes on from where the device stood. -/
def execReplayEnd (s : State) : Host.Outcome State Fault Refusal :=
  .next (match s.rpl.replaying with
    | none => s
    | some k =>
      if !s.rpl.moves.isEmpty then s
      else
        let begun := match KMap.look s.rpl.ckpts k with | some c => c.time.ref | none => s.time.ref
        let d := s.rpl.startedAt - begun
        { s with
          time := { s.time with ref := s.time.ref + d, dies := KMap.mapVals s.time.dies (fun x => { x with copy := x.copy + d }) }
          rpl := { s.rpl with replaying := none } })

end Sys2Proof.Machine
end

