-- ==== Sys2Proof/Machine/RegWrite.lean ====
section
/-! DEFINITION. Writes of control registers (R5 to R7): the dispatch of a write to its register's step, the stage carve (R142,
R143), translation invalidations (R150) and page-mode changes (R253). -/

namespace Sys2Proof.Machine

/-! ## Stage carve (R142, R143) -/

/-- R142: STG_CARVE: a change begins, or a value above 96 is discarded. -/
def execStgCarveWrite (p : Nat) (v : Word) (s : State) : Host.Outcome State Fault Refusal :=
  let n := bitsOf v.toNat 6 0
  .next (if p ≥ s.portDies then s
    else if n > 96 then s.setRegBit .stgErr 0 p
    else { (s.setRegN .stgCarve p n) with stage := KMap.alter s.stage p {} (fun x => { x with target := some n }) })

/-- Does an accepted copy have a destination in a port die's stage memory? -/
def State.copiesToStage (s : State) (p : Nat) : Bool :=
  s.engines.any (fun e => e.2.queue.any (fun q =>
    (s.copyPlaces (e.1 / 16) q).any (fun u => match s.target u.2 with | .stage d _ => d = p | _ => false)))

/-- Is the address a stage byte of a port die at or beyond a size in bytes? -/
def State.stageBeyond (s : State) (p size a : Nat) : Bool :=
  match s.target a with | .stage d off => d = p && size ≤ off | _ => false

/-- R142: the change of a carve takes effect once the L2 lines beyond the capacity that is left have been written back and
invalidated: words above a smaller size go, new words are empty, and an LDF that waits on a word that is gone is checked
again. -/
def execStgCarveDone (p : Nat) (s : State) : Host.Outcome State Fault Refusal :=
  .next (match (KMap.lookD s.stage p {}).target with
    | none => s
    | some n =>
      if s.copiesToStage p then s
      else
        let size := n * 0x100000
        let gone (a : Nat) : Bool := s.stageBeyond p size a
        let s := s.l2Shrink p ((192 - n) * 256)
        if !(s.l2Beyond p ((192 - n) * 256)).isEmpty then s
        else { s with
          stage := KMap.put s.stage p { carve := n, target := none }
          mem := s.mem.filter (fun c => !gone c.1)
          full := s.full.filter (fun w => !gone (4 * w))
          poison := s.poison.filter (fun l => !gone (64 * l))
          cores := KMap.mapVals s.cores (fun k => { k with accesses := KMap.mapVals k.accesses (fun x =>
            if x.stage = .reply && x.deadline.isSome && x.bytes.any (fun b => gone b.1) then { x with stage := .recheck }
            else x) }) })

/-! ## Invalidations (R150) -/

/-- R150: MMU_ROOT changes the root of the walks that begin later. -/
def execMmuRootWrite (a : Nat) (v : Word) (s : State) : Host.Outcome State Fault Refusal := .next (s.setReg .mmuRoot a v)

/-- The walks of an address space in progress. -/
def State.walksOf (s : State) (asp : Nat) : List Nat := (s.mmu.walks.filter (fun w => w.aspace = asp)).map (·.id)

/-- R150: MMU_INV. -/
def execMmuInv (v : Word) (s : State) : Host.Outcome State Fault Refusal :=
  .next (if s.mmu.inv.isSome then s.setRegBit .mmuInverr 0 0
    else { s with mmu := { s.mmu with inv := some { v := v, walks := s.walksOf (invRange v.toNat).1 } } })

/-- The name of a thread that it keeps over a swap of its team or a pre-emption: its team and $tid, for a helper with its
recruiter and index, for a handler its core and slot. -/
def Thread.keptName (t : Thread) (c k : Nat) : Nat × Nat × Nat :=
  if isHandlerKey k then (0, c, k)
  else match t.helper with
    | some h => (2 + h.index, t.team, h.recruiter)
    | none => (1, t.team, t.tid)

/-- The address space of a thread, resident or in a die context. -/
def State.aspaceOfThread (s : State) (c k : Nat) (t : Thread) : Nat :=
  if isHandlerKey k then s.aspaceOf c k
  else match s.gridOfTeam t.team with | some g => g.aspace | none => 0

/-- The threads of an address space whose executions hold buffered stores, those that a pre-emption has saved among them
(R150). -/
def State.storersOf (s : State) (asp : Nat) : List (Nat × Nat × Nat) :=
  (s.cores ++ s.contexts.flatMap (fun x => x.2.cores)).flatMap (fun k => k.2.threads.filterMap (fun t =>
    match t.2.exec with
    | some e => if s.aspaceOfThread k.1 t.1 t.2 = asp && e.buffered.any Buffered.isStore then some (t.2.keptName k.1 t.1) else none
    | none => none))

/-- An invalidation carried on: it waits for the walks, then drops the translations, then waits for the stores. None when it
is complete. -/
def State.invAdvance (s : State) (x : XInv) : Option XInv × State :=
  let (asp, va, n) := invRange x.v.toNat
  if s.mmu.walks.any (fun w => x.walks.contains w.id) then (some x, s)
  else
    let (s, l) := match x.stores with
      | none => (s.dropXlat asp va n, s.storersOf asp)
      | some l => (s, l.filter (fun p => (s.storersOf asp).contains p))
    (if l.isEmpty then none else some { x with stores := some l }, s)

/-- R150: the invalidation goes on, and BUSY clears at its end. -/
def execMmuInvComplete (s : State) : Host.Outcome State Fault Refusal :=
  .next (match s.mmu.inv with
    | none => s
    | some x =>
      let (y, s) := s.invAdvance x
      { s with mmu := { s.mmu with inv := y } })

/-! ## Page modes (R253) -/

/-- R253: MMU_PGMODE. -/
def execMmuPgmode (v : Word) (s : State) : Host.Outcome State Fault Refusal :=
  .next (if s.mmu.pgmode.isSome || bitsOf v.toNat 14 13 = 3 then { s with mmu := { s.mmu with pgErr := true } }
    else { s with mmu := { s.mmu with pgErr := false, pgmode := some { v := v, walks := s.walksOf (invRange v.toNat).1 } } })

/-- The frames that a range's pages map: first line and number of lines. -/
def State.rangeLines (s : State) (v : Nat) : List (Nat × Nat) :=
  let (asp, va, n) := invRange v
  (upTo (n / 65536)).filterMap (fun i =>
    let a := va + 65536 * i
    match (s.walk 0 asp a (s.reg .mmuRoot asp)).2 with
    | some (size, leaf) => some ((entryAddr leaf + a % size) / 64, 1024)
    | none => none)

/-- The lines of a range that a non-home node owns. -/
def State.ownedIn (s : State) (l : List (Nat × Nat)) : List Nat :=
  s.coh.dir.filterMap (fun p =>
    if p.2.owner.isSome && l.any (fun r => r.1 ≤ p.1 && p.1 < r.1 + r.2) then some p.1 else none)

/-- Has every home's view passed H + 16 for each line of a range? -/
def State.rangePast (s : State) (l : List (Nat × Nat)) : Bool :=
  (KMap.keys s.coh.dir).all (fun x => !l.any (fun r => r.1 ≤ x && x < r.1 + r.2) || s.horizonPast x) &&
  s.coh.spill.all (fun p => decide (p.2 + 16 ≤ s.homeNow (p.1 / 64)))

/-- R253: the mode change goes on: translations, owned copies, horizons; BUSY clears at its end. -/
def execPgmodeComplete (s : State) : Host.Outcome State Fault Refusal :=
  .next (match s.mmu.pgmode with
    | none => s
    | some x =>
      let (y, s) := s.invAdvance x
      match y with
      | some y => { s with mmu := { s.mmu with pgmode := some y } }
      | none =>
        let l := s.rangeLines x.v.toNat
        let s := (s.ownedIn l).foldl (fun s line => s.recallLine line) s
        if s.rangePast l then { s with mmu := { s.mmu with pgmode := none } }
        else { s with mmu := { s.mmu with pgmode := some { x with stores := some [] } } })

/-! ## The dispatch of a register write (R5, R6) -/

/-- A step put next in the order. -/
def State.nextEvent (s : State) (i : Instr) : State := { s with agenda := .event i :: s.agenda }

/-- A head of a ring moved by software: below its value, or above the tail, the write is discarded (R272). -/
def headOk (v head tail : Nat) : Bool := decide (head ≤ v) && decide (v ≤ tail)

/-- The resolution that FST_RESOLVE asks for (R208). -/
def resolution (v : Nat) : Instr :=
  let c := bitsOf v 47 40
  let j := bitsOf v 36 32
  match bitsOf v 3 0 with
  | 1 => .resolveRetry c j
  | 2 => .resolveRetryat c j
  | 3 => .resolveBranch c j (bitsOf v 15 8)
  | 4 => .resolveResume c j
  | 5 => .resolveExit c j
  | _ => .resolveRaise c j

/-- LQ_CTL written (R188): EN set or cleared are steps of their own; while EN stands as it is, a write changes the fields of
a disabled queue alone. -/
def State.writeLqCtl (s : State) (q : Nat) (v : Word) : State :=
  match s.lqEn q, bitOf v.toNat 0 with
  | false, true => s.nextEvent (.lqEnable q v)
  | true, false => s.nextEvent (.lqDisable q v)
  | true, true => if s.z240 && bitsOf v.toNat 7 5 ≥ 4 then s.setRegBit .lqErr 0 q else s
  | false, false => if s.z240 && bitsOf v.toNat 7 5 ≥ 4 then s.setRegBit .lqErr 0 q else s.setReg .lqCtl q v

/-- Is any context of Chrysalis defined? -/
def State.anyChrOn (s : State) : Bool := (upTo 64).any s.chrOn

/-- A Zelas port that is up. -/
def State.anyZelasUp (s : State) : Bool := s.links.zelas.any (fun p => p.2 = 1)

/-- What a write of 64 bits to a register does: the step of its row, or the effect its map states. -/
def State.writeReg (s : State) (n : RegName) (i : Nat) (v : Word) : State :=
  let w := v.toNat
  match n with
  | .stgCarve => s.nextEvent (.stgCarveWrite i v)
  | .mmuRoot => s.nextEvent (.mmuRootWrite i v)
  | .mmuInv => s.nextEvent (.mmuInv v)
  | .mmuPgmode => s.nextEvent (.mmuPgmode v)
  | .dlrInjwin => if bitsOf w 8 0 = 0 || bitsOf w 8 0 > 256 then s else s.setReg n i v
  | .dlrSpinPeriod => if bitsOf w 19 0 < 256 || bitsOf w 19 0 > 1000000 then s else s.setReg n i v
  | .dlrParklim => s.nextEvent (.dlrParklimWrite (v &&& 0xFFFFFFFF))
  | .dlrSavebase | .dlrSaven => if s.saves.isEmpty then s.setReg n i v else s
  | .dlrPreempt => s.nextEvent (.dlrPreempt (bitsOf w 2 0))
  | .dlrRestore => s.nextEvent (.dlrRestore (bitsOf w 2 0))
  | .lqBase => if s.lqEn i then s else s.setReg n i v
  | .lqCtl => s.writeLqCtl i v
  | .lqDoorbell => s.nextEvent (.lqDoorbell i v)
  | .lqTear =>
    (match bitsOf w 1 0 with
     | 1 => s.nextEvent (.lqTearDrain i)
     | 2 => s.nextEvent (.lqTearAbort i)
     | _ => s)
  | .dstMode => s.nextEvent (.dstModeWrite v)
  | .dstSem => s.nextEvent (.dstSemWrite i v)
  | .fstPgdone =>
    (match bitsOf w 63 62 with
     | 1 => s.nextEvent (.pgdoneMapped (bitsOf w 31 0))
     | 2 => s.nextEvent (.pgdoneDenied (bitsOf w 31 0))
     | _ => s.setRegBit .fstErr 0 1)
  | .fstHimg => s.nextEvent (.fstHimgWrite v)
  | .fstResolve => s.nextEvent (resolution w)
  | .chrCtxd | .chrFlags => if s.chrOn i then s else s.setReg n i v
  | .chrCtl =>
    (match s.chrOn i, bitOf w 0 with
     | false, true => s.nextEvent (.chrCtxEnable i v)
     | true, false => s.nextEvent (.chrCtxDisable i v)
     | true, true => s
     | false, false => s.setReg n i v)
  | .chrFramebase | .chrFramen => if s.anyChrOn then s.setRegBit .chrErr 0 1 else s.setReg n i v
  | .chrReset => s.nextEvent (.chrReset v)
  | .zlkId => if s.anyZelasUp then s else s.setReg n i v
  | .cxpPmbase => if bitOf (s.regN .cxpPmctl i) 0 then s else s.setReg n i v
  | .cxpPmctl => s.nextEvent (.cxpPmctlWrite i v)
  | .dbgStop => s.nextEvent (.dbgStop v)
  | .dbgResume => if bitOf w 0 then s.nextEvent .dbgResume else s
  | .dbgStep =>
    if !s.dbg.settled then s
    else { s with dbg := { s.dbg with stepReq := some (bitsOf w 19 12, bitsOf w 11 0) } }.nextEvent
      (if bitOf w 63 then .dbgStepBlock else .dbgStepFiring)
  | .dbgAccrd =>
    { s with dbg := { s.dbg with accrd := some (bitsOf w 21 14, bitsOf w 13 8, bitsOf w 7 0) } }.nextEvent .dbgAccrd
  | .dbgTrctl => if bitOf w 0 && !bitOf (s.regN n) 0 then s.nextEvent (.traceEnable v) else s.setReg n i v
  | .dbgTrhead =>
    if headOk w s.dbg.trHead s.dbg.trTail then { s.setReg n i v with dbg := { s.dbg with trHead := w } } else s
  | .pmcSpill => s.nextEvent (.pmcSpillWrite v)
  | .pmcSphead => s.nextEvent (.pmcSpheadWrite v)
  | .rplCtl => s.nextEvent (.rplCtlWrite v)
  | .rplStart => s.nextEvent (.rplStart v)
  | .secAlarmact => if bitOf (s.regN .secAlarmact) 8 then s else s.setReg n i v
  | n =>
    match n.info.access with
    | .ro | .wo => s
    | .rw => s.setReg n i v
    | .w1c => s.setReg n i (s.reg n i &&& ~~~v)

/-- The 64 bits that a write of 8 aligned bytes, or of an aligned half, brings to a register: the other half keeps what an RW
register holds and writes nothing elsewhere. None for a write that is not performed (R5). -/
def State.writeBits (s : State) (n : RegName) (i off size : Nat) (v : Word) : Option Word :=
  let old : Word := if n.info.access = .rw then BitVec.ofNat 64 (s.readReg n i) else 0
  if size = 8 && off % 8 = 0 then some v
  else if size = 4 && off % 8 = 0 then some ((old &&& 0xFFFFFFFF00000000) ||| (v &&& 0xFFFFFFFF))
  else if size = 4 && off % 8 = 4 then some ((old &&& 0xFFFFFFFF) ||| ((v &&& 0xFFFFFFFF) <<< 32))
  else none

/-- R5, R6: a write of control space: any width or alignment other than R5's, and an offset without a register, is
discarded. -/
def execRegisterWrite (pa size : Nat) (v : Word) (s : State) : Host.Outcome State Fault Refusal :=
  .next (match s.target pa with
    | .control off =>
      (match regAt (off / 8 * 8) with
       | none => s
       | some (n, i) => match s.writeBits n i off size v with
         | none => s
         | some w => s.writeReg n i w)
    | _ => s)

end Sys2Proof.Machine
end

