-- ==== Sys2Proof/Machine/Dispatch.lean ====
section
/-! DEFINITION. The dispatch: one arm per constructor of Instr, each a direct call of its meaning. -/

namespace Sys2Proof.Machine

/-- The meaning of every instruction. -/
def exec (i : Instr) (s : State) : Host.Outcome State Fault Refusal :=
  match i with
  | .nop sa sb ta => Sys2Proof.Machine.execNop sa sb ta s
  | .mov r => Sys2Proof.Machine.execMov r s
  | .lit r kind v => Sys2Proof.Machine.execLit r kind v s
  | .sel r => Sys2Proof.Machine.execSel r s
  | .gate r sense => Sys2Proof.Machine.execGate r sense s
  | .steer r sense => Sys2Proof.Machine.execSteer r sense s
  | .purge r side slot => Sys2Proof.Machine.execPurge r side slot s
  | .pack r w signed sat => Sys2Proof.Machine.execPack r w signed sat s
  | .fmts r f => Sys2Proof.Machine.execFmts r f s
  | .lin r f l => Sys2Proof.Machine.execLin r f l s
  | .linx r f l => Sys2Proof.Machine.execLinx r f l s
  | .lint r f l => Sys2Proof.Machine.execLint r f l s
  | .lout r l => Sys2Proof.Machine.execLout r l s
  | .loutx r l => Sys2Proof.Machine.execLoutx r l s
  | .sreg r clear sel => Sys2Proof.Machine.execSreg r clear sel s
  | .add r w l => Sys2Proof.Machine.execAdd r w l s
  | .sub r w l => Sys2Proof.Machine.execSub r w l s
  | .mul r w l => Sys2Proof.Machine.execMul r w l s
  | .mulh r w l => Sys2Proof.Machine.execMulh r w l s
  | .mad r w q => Sys2Proof.Machine.execMad r w q s
  | .min r w l => Sys2Proof.Machine.execMin r w l s
  | .max r w l => Sys2Proof.Machine.execMax r w l s
  | .abs r w signed => Sys2Proof.Machine.execAbs r w signed s
  | .and r w l => Sys2Proof.Machine.execAnd r w l s
  | .or r w l => Sys2Proof.Machine.execOr r w l s
  | .xor r w l => Sys2Proof.Machine.execXor r w l s
  | .andn r w l => Sys2Proof.Machine.execAndn r w l s
  | .shl r w l => Sys2Proof.Machine.execShl r w l s
  | .shr r w l => Sys2Proof.Machine.execShr r w l s
  | .sar r w l => Sys2Proof.Machine.execSar r w l s
  | .rotl r w l => Sys2Proof.Machine.execRotl r w l s
  | .popc r w signed => Sys2Proof.Machine.execPopc r w signed s
  | .clz r w signed => Sys2Proof.Machine.execClz r w signed s
  | .ctz r w signed => Sys2Proof.Machine.execCtz r w signed s
  | .brev r w signed => Sys2Proof.Machine.execBrev r w signed s
  | .bfx r w l => Sys2Proof.Machine.execBfx r w l s
  | .bfi r w q => Sys2Proof.Machine.execBfi r w q s
  | .cmp r w c l => Sys2Proof.Machine.execCmp r w c l s
  | .lea r l => Sys2Proof.Machine.execLea r l s
  | .adds r w l => Sys2Proof.Machine.execAdds r w l s
  | .subs r w l => Sys2Proof.Machine.execSubs r w l s
  | .fadd r f c => Sys2Proof.Machine.execFadd r f c s
  | .fsub r f c => Sys2Proof.Machine.execFsub r f c s
  | .fmul r f c => Sys2Proof.Machine.execFmul r f c s
  | .ffma r f q => Sys2Proof.Machine.execFfma r f q s
  | .fmin r f => Sys2Proof.Machine.execFmin r f s
  | .fmax r f => Sys2Proof.Machine.execFmax r f s
  | .fabs r f => Sys2Proof.Machine.execFabs r f s
  | .fneg r f => Sys2Proof.Machine.execFneg r f s
  | .fcmp r f c => Sys2Proof.Machine.execFcmp r f c s
  | .fclass r f => Sys2Proof.Machine.execFclass r f s
  | .frcp r f c => Sys2Proof.Machine.execFrcp r f c s
  | .frsq r f c => Sys2Proof.Machine.execFrsq r f c s
  | .fsqrt r f c => Sys2Proof.Machine.execFsqrt r f c s
  | .fexp2 r f c => Sys2Proof.Machine.execFexp2 r f c s
  | .flog2 r f c => Sys2Proof.Machine.execFlog2 r f c s
  | .fsin r f c => Sys2Proof.Machine.execFsin r f c s
  | .fcos r f c => Sys2Proof.Machine.execFcos r f c s
  | .ftanh r f c => Sys2Proof.Machine.execFtanh r f c s
  | .fscale r f c => Sys2Proof.Machine.execFscale r f c s
  | .fdot r f c => Sys2Proof.Machine.execFdot r f c s
  | .fsum r f c => Sys2Proof.Machine.execFsum r f c s
  | .cvt r l => Sys2Proof.Machine.execCvt r l s
  | .cvti r l => Sys2Proof.Machine.execCvti r l s
  | .cvtf r l => Sys2Proof.Machine.execCvtf r l s
  | .qpack r f type rnd => Sys2Proof.Machine.execQpack r f type rnd s
  | .qunpk r f n j0 => Sys2Proof.Machine.execQunpk r f n j0 s
  | .ld r n rfmt sext acq m => Sys2Proof.Machine.execLd r n rfmt sext acq m s
  | .st r n rel m => Sys2Proof.Machine.execSt r n rel m s
  | .ldb r nb split acq m => Sys2Proof.Machine.execLdb r nb split acq m s
  | .stb r ds split rel m => Sys2Proof.Machine.execStb r ds split rel m s
  | .ldf r n tmo rfmt sext acq m => Sys2Proof.Machine.execLdf r n tmo rfmt sext acq m s
  | .stf r n rel m => Sys2Proof.Machine.execStf r n rel m s
  | .sete r n rel m => Sys2Proof.Machine.execSete r n rel m s
  | .pref r level m => Sys2Proof.Machine.execPref r level m s
  | .atom r n aop ord m => Sys2Proof.Machine.execAtom r n aop ord m s
  | .cas r n q ord m => Sys2Proof.Machine.execCas r n q ord m s
  | .ll r n rfmt sext acq m => Sys2Proof.Machine.execLl r n rfmt sext acq m s
  | .sc r n rel m => Sys2Proof.Machine.execSc r n rel m s
  | .fence r kind scope => Sys2Proof.Machine.execFence r kind scope s
  | .clrp r copy rel m => Sys2Proof.Machine.execClrp r copy rel m s
  | .copy r m => Sys2Proof.Machine.execCopy r m s
  | .waitt sa d0 reg => Sys2Proof.Machine.execWaitt sa d0 reg s
  | .lds r rfmt acq m => Sys2Proof.Machine.execLds r rfmt acq m s
  | .sts r rel m => Sys2Proof.Machine.execSts r rel m s
  | .br sa sb tblk fblk => Sys2Proof.Machine.execBr sa sb tblk fblk s
  | .jmp sa blk => Sys2Proof.Machine.execJmp sa blk s
  | .jmpi sa => Sys2Proof.Machine.execJmpi sa s
  | .exit sa => Sys2Proof.Machine.execExit sa s
  | .bar r n => Sys2Proof.Machine.execBar r n s
  | .bara r n => Sys2Proof.Machine.execBara r n s
  | .barw r n => Sys2Proof.Machine.execBarw r n s
  | .yield r => Sys2Proof.Machine.execYield r s
  | .sleep r abs => Sys2Proof.Machine.execSleep r abs s
  | .recruit r reg fop hblk => Sys2Proof.Machine.execRecruit r reg fop hblk s
  | .hjoin r mreg => Sys2Proof.Machine.execHjoin r mreg s
  | .hred r float => Sys2Proof.Machine.execHred r float s
  | .hend r => Sys2Proof.Machine.execHend r s
  | .waitly r => Sys2Proof.Machine.execWaitly r s
  | .lyrel r => Sys2Proof.Machine.execLyrel r s
  | .trap sa code => Sys2Proof.Machine.execTrap sa code s
  | .trprep sa sb ta kind => Sys2Proof.Machine.execTrprep sa sb ta kind s
  | .trret r action blk => Sys2Proof.Machine.execTrret r action blk s
  | .bkpt sa code => Sys2Proof.Machine.execBkpt sa code s
  | .mma sa sb mode sub => Sys2Proof.Machine.execMma sa sb mode sub s
  | .mmarm r clr ncol wrows rowbase => Sys2Proof.Machine.execMmarm r clr ncol wrows rowbase s
  | .accrd r => Sys2Proof.Machine.execAccrd r s
  | .accclr r clrf nrow => Sys2Proof.Machine.execAccclr r clrf nrow s
  | .accdr r out r3 r2 => Sys2Proof.Machine.execAccdr r out r3 r2 s
  | .red r md l => Sys2Proof.Machine.execRed r md l s
  | .scan r md l => Sys2Proof.Machine.execScan r md l s
  | .bkt r mode signed ns => Sys2Proof.Machine.execBkt r mode signed ns s
  | .kmerge r key32 desc signed => Sys2Proof.Machine.execKmerge r key32 desc signed s
  | .ksel r key32 desc signed => Sys2Proof.Machine.execKsel r key32 desc signed s
  | .cfginv r scope => Sys2Proof.Machine.execCfginv r scope s
  | .gtime r valid => Sys2Proof.Machine.execGtime r valid s
  | .pmark r code => Sys2Proof.Machine.execPmark r code s
  | .eosi r => Sys2Proof.Machine.execEosi r s
  | .idiv r md l => Sys2Proof.Machine.execIdiv r md l s
  | .irem r md l => Sys2Proof.Machine.execIrem r md l s
  | .idivn r md l => Sys2Proof.Machine.execIdivn r md l s
  | .iremn r md l => Sys2Proof.Machine.execIremn r md l s
  | .unassignedOpcode op r md l => Sys2Proof.Machine.execUnassignedOpcode op r md l s
  | .emulationOpcode op r md l => Sys2Proof.Machine.execEmulationOpcode op r md l s
  | .tokenArrive core tile port handler => Sys2Proof.Machine.execTokenArrive core tile port handler s
  | .tileEosSwap core tile handler => Sys2Proof.Machine.execTileEosSwap core tile handler s
  | .chooseBlock core region => Sys2Proof.Machine.execChooseBlock core region s
  | .injectThread core region => Sys2Proof.Machine.execInjectThread core region s
  | .batchEndEos core region => Sys2Proof.Machine.execBatchEndEos core region s
  | .shadowPlaneLoad core region => Sys2Proof.Machine.execShadowPlaneLoad core region s
  | .spinDue core => Sys2Proof.Machine.execSpinDue core s
  | .exitAtDealer core thread => Sys2Proof.Machine.execExitAtDealer core thread s
  | .barrierWatchdog core barrier => Sys2Proof.Machine.execBarrierWatchdog core barrier s
  | .memoryReply core access => Sys2Proof.Machine.execMemoryReply core access s
  | .translationWalk walk => Sys2Proof.Machine.execTranslationWalk walk s
  | .faultToken core => Sys2Proof.Machine.execFaultToken core s
  | .handlerSlotAllocate core => Sys2Proof.Machine.execHandlerSlotAllocate core s
  | .pgdoneMapped request => Sys2Proof.Machine.execPgdoneMapped request s
  | .pgdoneDenied request => Sys2Proof.Machine.execPgdoneDenied request s
  | .resolveRaise core hslot => Sys2Proof.Machine.execResolveRaise core hslot s
  | .resolveRetry core hslot => Sys2Proof.Machine.execResolveRetry core hslot s
  | .resolveRetryat core hslot => Sys2Proof.Machine.execResolveRetryat core hslot s
  | .resolveBranch core hslot blk => Sys2Proof.Machine.execResolveBranch core hslot blk s
  | .resolveResume core hslot => Sys2Proof.Machine.execResolveResume core hslot s
  | .resolveExit core hslot => Sys2Proof.Machine.execResolveExit core hslot s
  | .fstHimgWrite v => Sys2Proof.Machine.execFstHimgWrite v s
  | .parkLimitExpiry team hand => Sys2Proof.Machine.execParkLimitExpiry team hand s
  | .dlrParklimWrite v => Sys2Proof.Machine.execDlrParklimWrite v s
  | .swapOut team => Sys2Proof.Machine.execSwapOut team s
  | .swapWithdraw team => Sys2Proof.Machine.execSwapWithdraw team s
  | .teamReadmit team => Sys2Proof.Machine.execTeamReadmit team s
  | .readmitEvent team => Sys2Proof.Machine.execReadmitEvent team s
  | .dlrPreempt die => Sys2Proof.Machine.execDlrPreempt die s
  | .preemptQuiesce die => Sys2Proof.Machine.execPreemptQuiesce die s
  | .preemptBoundExpiry die => Sys2Proof.Machine.execPreemptBoundExpiry die s
  | .dlrRestore die => Sys2Proof.Machine.execDlrRestore die s
  | .lqDoorbell q v => Sys2Proof.Machine.execLqDoorbell q v s
  | .packetRead q => Sys2Proof.Machine.execPacketRead q s
  | .imageLoad q => Sys2Proof.Machine.execImageLoad q s
  | .imageReload image => Sys2Proof.Machine.execImageReload image s
  | .waitSignalExamine q n => Sys2Proof.Machine.execWaitSignalExamine q n s
  | .packetBegin q => Sys2Proof.Machine.execPacketBegin q s
  | .teamAdmit die => Sys2Proof.Machine.execTeamAdmit die s
  | .stealRequest die => Sys2Proof.Machine.execStealRequest die s
  | .stealTransfer die victim => Sys2Proof.Machine.execStealTransfer die victim s
  | .gridComplete grid => Sys2Proof.Machine.execGridComplete grid s
  | .lqTearDrain q => Sys2Proof.Machine.execLqTearDrain q s
  | .lqTearAbort q => Sys2Proof.Machine.execLqTearAbort q s
  | .teardownComplete q => Sys2Proof.Machine.execTeardownComplete q s
  | .lqEnable q v => Sys2Proof.Machine.execLqEnable q v s
  | .lqDisable q v => Sys2Proof.Machine.execLqDisable q v s
  | .dstModeWrite v => Sys2Proof.Machine.execDstModeWrite v s
  | .dstSemWrite n v => Sys2Proof.Machine.execDstSemWrite n v s
  | .rowStep core tile => Sys2Proof.Machine.execRowStep core tile s
  | .copyComplete pd engine => Sys2Proof.Machine.execCopyComplete pd engine s
  | .ldfTimeout core access => Sys2Proof.Machine.execLdfTimeout core access s
  | .sleepWake core thread => Sys2Proof.Machine.execSleepWake core thread s
  | .waittWake core thread => Sys2Proof.Machine.execWaittWake core thread s
  | .reservationAgeExpiry core thread => Sys2Proof.Machine.execReservationAgeExpiry core thread s
  | .holdExpiry core thread => Sys2Proof.Machine.execHoldExpiry core thread s
  | .join core thread => Sys2Proof.Machine.execJoin core thread s
  | .chrysalisFetchStart ctx layer => Sys2Proof.Machine.execChrysalisFetchStart ctx layer s
  | .fetchComplete ctx layer => Sys2Proof.Machine.execFetchComplete ctx layer s
  | .fetchFail ctx layer => Sys2Proof.Machine.execFetchFail ctx layer s
  | .chrCtxEnable ctx v => Sys2Proof.Machine.execChrCtxEnable ctx v s
  | .chrCtxDisable ctx v => Sys2Proof.Machine.execChrCtxDisable ctx v s
  | .chrReset v => Sys2Proof.Machine.execChrReset v s
  | .readShared line node => Sys2Proof.Machine.execReadShared line node s
  | .readOwn line node => Sys2Proof.Machine.execReadOwn line node s
  | .forwardedRead line node => Sys2Proof.Machine.execForwardedRead line node s
  | .recall line => Sys2Proof.Machine.execRecall line s
  | .writeBack line node => Sys2Proof.Machine.execWriteBack line node s
  | .evictNotice line node => Sys2Proof.Machine.execEvictNotice line node s
  | .leaseExpiry node line => Sys2Proof.Machine.execLeaseExpiry node line s
  | .hostMemrd line state => Sys2Proof.Machine.execHostMemrd line state s
  | .hostMemwr line data state => Sys2Proof.Machine.execHostMemwr line data state s
  | .birsp line invalid => Sys2Proof.Machine.execBirsp line invalid s
  | .hostSnpinv line => Sys2Proof.Machine.execHostSnpinv line s
  | .hostSnpdata line => Sys2Proof.Machine.execHostSnpdata line s
  | .cxlDataResponse line data poisoned => Sys2Proof.Machine.execCxlDataResponse line data poisoned s
  | .poolBisnp line invalid => Sys2Proof.Machine.execPoolBisnp line invalid s
  | .zelasRemoteAccess pkg line kind poisoned data => Sys2Proof.Machine.execZelasRemoteAccess pkg line kind poisoned data s
  | .zelasInvalidate line => Sys2Proof.Machine.execZelasInvalidate line s
  | .poolPortDown port => Sys2Proof.Machine.execPoolPortDown port s
  | .shelfLossReport range => Sys2Proof.Machine.execShelfLossReport range s
  | .poolRequestTimeout range => Sys2Proof.Machine.execPoolRequestTimeout range s
  | .cxpPmctlWrite n v => Sys2Proof.Machine.execCxpPmctlWrite n v s
  | .zelasPortLoss port => Sys2Proof.Machine.execZelasPortLoss port s
  | .linkTrainingFail port => Sys2Proof.Machine.execLinkTrainingFail port s
  | .checkFail kind index pa => Sys2Proof.Machine.execCheckFail kind index pa s
  | .checkRetryResult kind index ok => Sys2Proof.Machine.execCheckRetryResult kind index ok s
  | .hbmRefresh stack row => Sys2Proof.Machine.execHbmRefresh stack row s
  | .scrubRead line detected => Sys2Proof.Machine.execScrubRead line detected s
  | .drainingNodeReset node => Sys2Proof.Machine.execDrainingNodeReset node s
  | .fatalNodeReset node dirty passFails => Sys2Proof.Machine.execFatalNodeReset node dirty passFails s
  | .fatalFabricDieReset die => Sys2Proof.Machine.execFatalFabricDieReset die s
  | .timeCompare die => Sys2Proof.Machine.execTimeCompare die s
  | .clockRestart die => Sys2Proof.Machine.execClockRestart die s
  | .timeResync die => Sys2Proof.Machine.execTimeResync die s
  | .powerWindow watts => Sys2Proof.Machine.execPowerWindow watts s
  | .railFault rail => Sys2Proof.Machine.execRailFault rail s
  | .alarm mask => Sys2Proof.Machine.execAlarm mask s
  | .fwchunk seq payload => Sys2Proof.Machine.execFwchunk seq payload s
  | .fwcommit seq payload => Sys2Proof.Machine.execFwcommit seq payload s
  | .status seq => Sys2Proof.Machine.execStatus seq s
  | .pwrlimit seq payload => Sys2Proof.Machine.execPwrlimit seq payload s
  | .evread seq payload => Sys2Proof.Machine.execEvread seq payload s
  | .evack seq payload => Sys2Proof.Machine.execEvack seq payload s
  | .reprov seq payload => Sys2Proof.Machine.execReprov seq payload s
  | .spdmRequest payload => Sys2Proof.Machine.execSpdmRequest payload s
  | .stgCarveWrite p v => Sys2Proof.Machine.execStgCarveWrite p v s
  | .stgCarveDone p => Sys2Proof.Machine.execStgCarveDone p s
  | .mmuRootWrite a v => Sys2Proof.Machine.execMmuRootWrite a v s
  | .mmuInv v => Sys2Proof.Machine.execMmuInv v s
  | .mmuPgmode v => Sys2Proof.Machine.execMmuPgmode v s
  | .dbgStop v => Sys2Proof.Machine.execDbgStop v s
  | .traceEnable v => Sys2Proof.Machine.execTraceEnable v s
  | .pmcSpheadWrite v => Sys2Proof.Machine.execPmcSpheadWrite v s
  | .pmcSpillWrite v => Sys2Proof.Machine.execPmcSpillWrite v s
  | .rplCtlWrite v => Sys2Proof.Machine.execRplCtlWrite v s
  | .rplStart v => Sys2Proof.Machine.execRplStart v s
  | .registerWrite pa size v => Sys2Proof.Machine.execRegisterWrite pa size v s
  | .linkUp port => Sys2Proof.Machine.execLinkUp port s
  | .stackTemperatureCrossing stack hot => Sys2Proof.Machine.execStackTemperatureCrossing stack hot s
  | .systemQueueDeliver => Sys2Proof.Machine.execSystemQueueDeliver s
  | .boot => Sys2Proof.Machine.execBoot s
  | .fwcommitWriteDone => Sys2Proof.Machine.execFwcommitWriteDone s
  | .mmuInvComplete => Sys2Proof.Machine.execMmuInvComplete s
  | .pgmodeComplete => Sys2Proof.Machine.execPgmodeComplete s
  | .dbgSettled => Sys2Proof.Machine.execDbgSettled s
  | .checkpoint => Sys2Proof.Machine.execCheckpoint s
  | .replayEnd => Sys2Proof.Machine.execReplayEnd s
  | .dbgResume => Sys2Proof.Machine.execDbgResume s
  | .dbgStepFiring => Sys2Proof.Machine.execDbgStepFiring s
  | .dbgStepBlock => Sys2Proof.Machine.execDbgStepBlock s
  | .cfginvComplete => Sys2Proof.Machine.execCfginvComplete s
  | .dbgAccrd => Sys2Proof.Machine.execDbgAccrd s

end Sys2Proof.Machine
end

