-- ==== Sys2Proof/Machine/Sched.lean ====
section
/-! DEFINITION. The order of the steps. One step of the machine is one move: the firing of a slot or one row of the table.
Moves that stand in State.agenda come first, in their order; what acts on the part from outside (a register write, a request
of the host, a management command, an error found in hardware) is such a move. When the agenda is empty, time passes by one
quantum, a period of 2.7 GHz, and the moves that the part itself can make in it are planned: first those of the Dealers, the
homes, the engines and the other units, then the firings of the tiles. A planned move that is no longer enabled when its turn
comes changes nothing. -/

namespace Sys2Proof.Machine

/-! ## Time (R14, R15, R18) -/

/-- The rate of a die's clock in units of 100 MHz: 1.8 GHz for port dies and CD (Table 1.7). -/
def State.rateOf (s : State) (d : Nat) : Nat := if d < 8 then (s.die d).mhz else 18

/-- The dies of the part (R14). Whether a die that the record disables (R276) shows a valid view is open: the model's record
disables none, and every die is resynchronised (log entry 43). -/
def State.dieNumbers (s : State) : List Nat := (upTo 13).filter s.isDie

/-- One quantum of a die's clock, and where the reference has counted, one tick of its copy of the time base. -/
def DieTime.pass (x : DieTime) (rate ref : Nat) (tick : Bool) : DieTime :=
  let acc := x.acc + rate
  let x := if acc ≥ 27 then { x with acc := acc - 27, cycle := x.cycle + 1 } else { x with acc := acc }
  if !tick then x
  else if !x.valid then { x with copy := max x.copy ref }
  else if x.skip > 0 then { x with skip := x.skip - 1 }
  else { x with copy := x.copy + 1 }

/-- The reference counts 1 GHz, that is 10 in 27 quanta. -/
def State.ticks (s : State) : Bool := decide (s.time.acc + 10 ≥ 27)

/-- The time base and the clocks after one quantum. -/
def State.passTime (s : State) : State :=
  let tick := s.ticks
  let ref := if tick then s.time.ref + 1 else s.time.ref
  let dies := s.dieNumbers.foldl
    (fun (m : KMap DieTime) d => KMap.put m d ((s.die d).pass (s.rateOf d) ref tick)) s.time.dies
  { s with time := { ref := ref, acc := if tick then s.time.acc + 10 - 27 else s.time.acc + 10, dies := dies } }

/-- Has the clock of a fabric die advanced in the quantum that is passing, and does the die run? -/
def State.advanced (s : State) (d : Nat) : Bool := s.dieRuns d && decide ((s.die d).acc < (s.die d).mhz)

/-- The cores in use on the dies that have advanced. -/
def State.coresNow (s : State) : List Nat := (KMap.keys s.cores).filter (fun c => s.advanced (dieOf c))

/-! ## What passes with every quantum -/

/-- Results that wait in a tile leave: in each cycle one token on each destination that has room, a completion token behind
the tokens it must follow (R58, R340). -/
def State.drainTile (s : State) (c t : Nat) : State :=
  let l := (s.tile c t).pendingEmits
  if l.isEmpty then s
  else
    let clear (s : State) : State := s.updTile c t (fun tl => { tl with pendingEmits := [] })
    let out := l.foldl (fun (acc : List PendingEmit × List Nat × State) e =>
      let (kept, sent, s) := acc
      let held := kept.any (fun k => k.dst = e.dst) || sent.contains e.dst ||
        (match e.behind with | some q => kept.any (fun k => k.dst = q) | none => false)
      match Dst.ofCode (BitVec.ofNat 5 (e.dst % 32)) with
      | none => (kept, sent, s)
      | some d =>
        if !held && s.canSend c t (decide (e.dst ≥ 32)) d then
          (kept, sent ++ [e.dst], (s.deliver c t (decide (e.dst ≥ 32)) d e.tok).noteSent c t (decide (e.dst ≥ 32)) d)
        else (kept ++ [e], sent, s)) (([], [], clear s) : List PendingEmit × List Nat × State)
    out.2.2.updTile c t (fun tl => { tl with pendingEmits := out.1 })

/-- The waiting results of the tiles of a core. -/
def State.drainCore (s : State) (c : Nat) : State :=
  (s.core c).tiles.foldl (fun (s : State) (p : Nat × Tile) => s.drainTile c p.1) s

/-- The requests of an access that still waits for its lines, made again where they have been answered and lost. -/
def State.askAgain (s : State) (c : Nat) : State :=
  (s.core c).accesses.foldl (fun (s : State) (p : Nat × Access) =>
    if p.2.stage ≠ .reply then s
    else match (decode p.2.bits.word p.2.bits.lit).toOption with
      | some i => s.requestBytes c i p.2.bytes
      | none => s) s

/-- The committed writes that wait, tried again, and what they still need asked for. -/
def State.pushHeld (s : State) : State :=
  let s := s.flushHeld
  s.coh.held.foldl (fun (s : State) (h : HeldWrite) => s.kindRequest h.core h.mode h.kind) s

/-- The barriers of a team that its own walk counts: its own, and for the first team of a cluster the cluster's. -/
def State.ownBarriers (s : State) (t : Nat) : List Nat :=
  if (s.clusterTeams t).head? = some t then upTo 24 else upTo 16

/-- One tick of the watchdogs of barriers (R187). -/
def State.countBarriers (s : State) : State :=
  (KMap.keys s.teams).foldl (fun (s : State) (t : Nat) =>
    (s.ownBarriers t).foldl (fun (s : State) (n : Nat) =>
      if s.watchdogRuns t n then s.updBarrier t n (fun b => { b with count := b.count + 1 }) else s) s) s

/-- Does CD hold every die in reset (R22, R282)? -/
def State.inReset (s : State) : Bool := s.sec.railFault.isSome || s.sec.held

/-- A quantum while CD holds every die in reset: the reference on CD alone counts. -/
def State.passReference (s : State) : State :=
  let tick := s.ticks
  { s with time := { s.time with
      ref := if tick then s.time.ref + 1 else s.time.ref
      acc := if tick then s.time.acc + 10 - 27 else s.time.acc + 10 } }

/-- One quantum: the clocks, then all that time alone moves. The steps that wait from before stand in the agenda again. -/
def State.quantum (s : State) : State :=
  if s.inReset then s.passReference
  else
    let tick := s.ticks
    let s := s.passTime
    let s := s.coresNow.foldl (fun (s : State) (c : Nat) => (s.drainCore c).askAgain c) s
    let s := s.pushHeld.drainTrace
    let s := if tick then s.countBarriers else s
    { s with agenda := s.agenda ++ s.waiting, waiting := [] }

/-! ## The plan of a quantum -/

/-- The wakes of a thread (R164, R165, R208, R373, R374). -/
def State.threadMoves (s : State) (c k : Nat) (t : Thread) : List Instr :=
  let a : List Instr := match t.wait with
    | some (.promise _ _ _ _) => [.waittWake c k]
    | some (.tick _) | some (.retryAt _) | some (.layerAt _ _) => [.sleepWake c k]
    | some (.joinOf _) => [.join c k]
    | _ => []
  let b : List Instr := if t.resv.isSome then [.reservationAgeExpiry c k] else []
  let d : List Instr := if t.hold.isSome then [.holdExpiry c k] else []
  let e : List Instr := if s.exitReady c k then [.exitAtDealer c k] else []
  a ++ b ++ d ++ e

/-- The arrivals at a tile, its row step and its swap. The ports take their turns in the order of their codes, so that of several
operands that arrive in one cycle the one of the lower port takes the last free entry (log entry 37). -/
def State.tileMoves (s : State) (c t : Nat) (tl : Tile) : List Instr :=
  let now := s.cycle c
  let a : List Instr := ((upTo 12).filter (fun p => tl.main.headReady p now)).map (fun p => .tokenArrive c t p false)
  let b : List Instr := match tl.hctx with
    | some x => ((upTo 12).filter (fun p => x.headReady p now)).map (fun p => .tokenArrive c t p true)
    | none => []
  let d : List Instr := if s.canRowStep c t then [.rowStep c t] else []
  let eosHead : Bool := (upTo 8).any (fun p => tl.main.headReady p now &&
    (match tl.main.port p with | x :: _ => x.tok.eos | [] => false))
  let e : List Instr := if tl.main.eosComplete || eosHead then [.tileEosSwap c t false] else []
  a ++ b ++ d ++ e

/-- The replies of a core's accesses (R153, R342, R220). -/
def State.accessMoves (s : State) (c : Nat) (p : Nat × Access) : List Instr :=
  let a : List Instr := match (decode p.2.bits.word p.2.bits.lit).toOption with
    | some i => (match i.route? with
      | some r => if s.replyReady p.2 i r then [.memoryReply c p.1] else []
      | none => [])
    | none => []
  let b : List Instr := if p.2.deadline.isSome then [.ldfTimeout c p.1] else []
  b ++ a

/-- The Dealer of a core: its regions, its traps, its spinning threads. -/
def State.dealerMoves (s : State) (c : Nat) : List Instr :=
  let k := s.core c
  let a : List Instr := k.faultNet.map (fun _ => .faultToken c)
  let b : List Instr :=
    if ((s.nextTrap c).isSome && (s.freeHslot c).isSome) || (s.nextBegin c).isSome then [.handlerSlotAllocate c] else []
  let d : List Instr := if k.threads.any (fun t => t.2.st = .waiting && t.2.cls = 2 && t.2.due.isNone) then [.spinDue c] else []
  let e : List Instr := (s.regionsOf c).flatMap (fun r => [.batchEndEos c r, .chooseBlock c r])
  a ++ b ++ d ++ e

/-- All moves of a core but its firings: injections, which follow the swap of the entry tiles by a cycle (R177), loads of
planes, which a tile may swap to in the same cycle (R380), arrivals and swaps, then replies, which are out of the tile in the
next cycle (R73), wakes and exits, then the Dealer. -/
def State.coreMoves (s : State) (c : Nat) : List Instr :=
  let k := s.core c
  (s.regionsOf c).flatMap (fun r => [.injectThread c r, .shadowPlaneLoad c r]) ++
  k.tiles.flatMap (fun p => s.tileMoves c p.1 p.2) ++
  k.accesses.flatMap (fun p => s.accessMoves c p) ++
  k.threads.flatMap (fun p => s.threadMoves c p.1 p.2) ++
  (if s.regN .barWdt = 0 || k.threads.isEmpty then [] else (upTo 24).map (fun n => .barrierWatchdog c n)) ++
  s.dealerMoves c

/-- What a home does for the request at the head of a line's queue (R248, R249). -/
def State.homeMoves (s : State) (line : Nat) : List Instr :=
  match s.headReq line with
  | none => []
  | some r =>
    if s.canRecall line then [.recall line]
    else match r.kind with
      | .readShared => if s.canForward line r.node then [.forwardedRead line r.node] else [.readShared line r.node]
      | .uncached => [.readShared line r.node]
      | .readOwn | .homeWrite => [.readOwn line r.node]
      | .hostOwn => []

/-- The moves of memory: walks, homes, leases, outside homes. -/
def State.memoryMoves (s : State) : List Instr :=
  let walks : List Instr := s.mmu.walks.map (fun w => .translationWalk w.id)
  let leases : List Instr := s.coh.l2.flatMap (fun n => n.2.filterMap (fun l =>
    if l.2.st = .l && decide (l.2.expiry ≤ s.homeNow n.1 + 16) then some (.leaseExpiry n.1 l.1) else none))
  let lost : List Instr := ((upTo 64).filter s.rangeTimedOut).map (fun i => .poolRequestTimeout i)
  walks ++ (dedupNat (s.coh.reqs.map (·.line))).flatMap s.homeMoves ++ leases ++ lost ++ s.refreshMoves ++ s.scrubMoves

/-- The copies whose promise has come (R312), or that wait for the end of a stop (R267). -/
def State.engineMoves (s : State) : List Instr :=
  s.engines.filterMap (fun e =>
    if e.2.queue.any (fun q => q.handed && decide (q.due ≤ s.homeNow (e.1 / 16))) then some (.copyComplete (e.1 / 16) (e.1 % 16))
    else none)

/-- The moves of a launch queue. -/
def State.queueMoves (s : State) (q : Nat) : List Instr :=
  let x := s.queue q
  let a : List Instr := if x.head < x.accepted then [.packetRead q] else []
  let b : List Instr := if (s.packetToLoad q).isSome then [.imageLoad q] else []
  let d : List Instr := match s.packetToBegin q with
    | some _ => (s.waitsDue q).map (fun i => .waitSignalExamine q i) ++ [.packetBegin q]
    | none => []
  let e : List Instr := if x.tear ≠ 0 then [.teardownComplete q] else []
  a ++ b ++ d ++ e

/-- The moves of a die's Distributor and of a pre-emption of the die. -/
def State.dieMoves (s : State) (d : Nat) : List Instr :=
  let x := s.distOf d
  let a : List Instr := if (s.nextShare d).isSome then [.teamAdmit d] else []
  let b : List Instr := match x.steal with
    | some v => [.stealTransfer d v]
    | none => if (s.stealVictim d).isSome && !(s.nextShare d).isSome then [.stealRequest d] else []
  let e : List Instr := if x.preempting then [.preemptQuiesce d, .preemptBoundExpiry d] else []
  a ++ b ++ e

/-- The moves of a team: parked hands, swaps, re-admission (R214 to R219). -/
def State.teamMoves (s : State) (t : Nat) (x : Team) : List Instr :=
  let a : List Instr := (KMap.keys x.parks).map (fun h => .parkLimitExpiry t h)
  let b : List Instr := if x.discard || x.mark.isSome then [.swapOut t, .swapWithdraw t] else []
  let d : List Instr := if s.readmitReady t then [.teamReadmit t, .readmitEvent t] else []
  a ++ b ++ d

/-- The moves of the launch path and of the fault station. -/
def State.launchMoves (s : State) : List Instr :=
  (KMap.keys s.queues).flatMap s.queueMoves ++
  s.teams.flatMap (fun p => s.teamMoves p.1 p.2) ++
  s.allDies.flatMap s.dieMoves ++
  ((KMap.keys s.images).filter s.reloadDue).map (fun i => .imageReload i) ++
  ((KMap.keys s.grids).filter s.gridOver).map (fun g => .gridComplete g) ++
  (if s.station.pending.isEmpty then [] else [.systemQueueDeliver])

/-- The completions of register writes, invalidations, debugger stops and checkpoints. -/
def State.controlMoves (s : State) : List Instr :=
  let stages : List Instr := s.stage.filterMap (fun p => if p.2.target.isSome then some (.stgCarveDone p.1) else none)
  let inv : List Instr := if s.mmu.inv.isSome then [.mmuInvComplete] else []
  let pg : List Instr := if s.mmu.pgmode.isSome then [.pgmodeComplete] else []
  let cfg : List Instr := if s.invals.isEmpty then [] else [.cfginvComplete]
  let stop : List Instr := if s.maySettle then [.dbgSettled] else []
  let acc : List Instr := if s.dbg.accrd.isSome then [.dbgAccrd] else []
  let ck : List Instr := if (match s.rpl.nextAt with | some t => decide (t ≤ s.time.ref) | none => false) then [.checkpoint] else []
  let fw : List Instr := if s.sec.commit.isSome then [.fwcommitWriteDone] else []
  stages ++ inv ++ pg ++ cfg ++ stop ++ acc ++ ck ++ fw

/-- The time views: one comparison of each valid copy every 1,024 ticks, one step to the reference for an invalid one
(R15). -/
def State.timeMoves (s : State) (tick : Bool) : List Instr :=
  s.dieNumbers.flatMap (fun d =>
    if !(s.die d).valid then [.timeResync d]
    else if tick && s.time.ref % 1024 = 0 then [.timeCompare d] else [])

/-- What the part can do in the quantum that has passed, but for the firings. Nothing runs before CD has booted it
(R276). -/
def State.plan (s : State) (tick : Bool) : List Instr :=
  if s.inReset then []
  else if s.sec.stage = 0 then [.boot]
  else if s.sec.stage < 5 then []
  else
    s.timeMoves tick ++ s.controlMoves ++ s.memoryMoves ++ s.engineMoves ++ s.coresNow.flatMap s.coreMoves ++
    s.launchMoves ++ s.chrMoves

/-- The firing of a context of a tile in this cycle, with the $tid of a recruiter whose firings are taken in the order of
$tid (R227). -/
def State.fireMove (s : State) (c t : Nat) (handler : Bool) : List (Option Nat × Move) :=
  if !s.mayFire c t handler then []
  else match s.pick c t handler with
    | none => []
    | some y =>
      let key : Option Nat := match y.instr with
        | .recruit _ _ _ _ => (y.mset.a.head?).map (fun k => (s.thread c k.slot).tid)
        | _ => none
      [(key, .fire c t handler y.slot)]

/-- The firings of a cycle: one of each tile that can fire, and recruitments last in the order of $tid. -/
def State.planFires (s : State) : List Move :=
  let all := s.coresNow.flatMap (fun c => (s.core c).tiles.flatMap (fun p =>
    s.fireMove c p.1 false ++ (if p.2.hctx.isSome then s.fireMove c p.1 true else [])))
  let plain := all.filter (fun p => p.1.isNone)
  let recruits := sortBy (fun (p : Option Nat × Move) => p.1.getD 0) (all.filter (fun p => p.1.isSome))
  (plain ++ recruits).map (·.2)

/-! ## One move -/

/-- What a slot's word and literal are in a context of a tile. -/
def State.slotBits (s : State) (c t : Nat) (handler : Bool) (slot : Nat) : SlotBits :=
  (KMap.look (s.ctx c t handler).plane.slots slot).getD ⟨0, 0⟩

/-- One move made: a firing takes its operand set and runs the instruction its slot decodes to (R60, R74). -/
def State.runMove (s : State) (m : Move) : Host.Outcome State Fault Refusal :=
  match m with
  | .quantum => .next s.quantum
  | .event i => exec i s
  | .fire c t handler slot =>
    let b := s.slotBits c t handler slot
    match decode b.word b.lit with
    | .error _ => .refused (.undecodable b.word b.lit)
    | .ok i => match s.prepareFiring c t handler slot with
      | none => .next s
      | some s => exec i s

/-- A step with an empty agenda: the firings of the cycle, or one quantum of time and the plan of what it brings. -/
def State.advance (s : State) : State :=
  if s.fires then { s with agenda := s.planFires, fires := false }
  else
    let tick := s.ticks
    let s := (s.logMove .quantum).quantum
    { s with agenda := s.agenda ++ (s.plan tick).map .event, fires := true }

/-- A step of a replay (R275): the next logged move, with nothing else put in the order. -/
def State.replayStep (s : State) : Host.Outcome State Fault Refusal :=
  match s.rpl.moves with
  | [] => exec .replayEnd s
  | m :: rest =>
    match ({ s with rpl := { s.rpl with moves := rest } } : State).runMove m with
    | .next t => .next { t with agenda := [], waiting := [] }
    | r => r

/-- The steps of CD and of its management controller, which go on while every other die is held in reset. -/
def ofController : Instr → Bool
  | .boot | .railFault _ | .alarm _ | .powerWindow _ | .fwchunk _ _ | .fwcommit _ _ | .fwcommitWriteDone | .status _
  | .pwrlimit _ _ | .evread _ _ | .evack _ _ | .reprov _ _ | .spdmRequest _ => true
  | _ => false

/-- Is a move lost because it comes to a die that is held in reset (R22)? -/
def State.lostInReset (s : State) (m : Move) : Bool :=
  s.inReset && (match m with | .event i => !ofController i | .fire _ _ _ _ => true | .quantum => false)

/-- One step of the machine. -/
def State.takeStep (s : State) : Host.Outcome State Fault Refusal :=
  if s.rpl.replaying.isSome then s.replayStep
  else match s.agenda with
    | [] => .next s.advance
    | m :: rest =>
      let s' := ({ s with agenda := rest } : State).logMove m
      if s.lostInReset m then .next s' else s'.runMove m

end Sys2Proof.Machine
end

