-- ==== Sys2Proof/Machine/Step.lean ====
section
/-! DEFINITION. The step of the machine, and the state in which a given word is the next to fire. -/

namespace Sys2Proof.Machine

/-- One step: the next move in the order. -/
def step (s : State) : Host.Outcome State Fault Refusal := s.takeStep

/-- The tile on which withFetchWord places a word: the C-tile (3, 3) for the matrix unit's opcodes, else the M-tile
(0, 3). -/
def fetchTile (i : Option Instr) : Nat :=
  match i with
  | some (.mma _ _ _ _) | some (.mmarm _ _ _ _ _) | some (.accrd _) | some (.accclr _ _ _) | some (.accdr _ _ _ _) => 27
  | _ => 24

/-- The entries that complete a side of slot 0: one operand, the sticky operand, or the two beats of a burst. -/
def fetchSide (i : Instr) (r : Route) (side : Side) (n : Nat) : List Entry :=
  if collects i r side && side = .a then
    [⟨0, side, .whole, { burst := .head }, 0, n, 0, none⟩, ⟨0, side, .whole, { burst := .tail }, 0, n + 1, 0, none⟩]
  else if stickySide r.ta = some side then [⟨0, side, .sticky, {}, 0, n, 0, none⟩]
  else [⟨0, side, .operand, {}, 0, n, 0, none⟩]

/-- The operand set of slot 0 that completes an instruction. -/
def fetchEntries (i : Option Instr) : List Entry :=
  match i with
  | none => []
  | some i => match i.route? with
    | none => []
    | some r =>
      (if r.sa.isToken then fetchSide i r .a 0 else []) ++ (if r.sb.isToken then fetchSide i r .b 2 else []) ++
      (match i.third? with | some _ => fetchSide i r .third 4 | none => [])

/-- The matrix unit for a word: an armed section where the word is MMA. -/
def fetchMatrix (i : Option Instr) : Matrix :=
  match i with
  | some (.mma _ _ _ _) => { armed := true, wrows := 1, rem := 1, total := 1 }
  | _ => {}

/-- The core on which withFetchWord places a word: one tile with the word in slot 0 of its active plane and a complete
operand set of thread 0, whose execution of block 0 runs. -/
def fetchCore (b : SlotBits) (i : Option Instr) : Core :=
  { layout := some [⟨0, 0, 8, 8⟩]
    regions := [(0, { idle := false })]
    threads := [(0, { st := .running, nregs := 64, exec := some { image := 0, block := 0, region := 0 } })]
    tiles := [(fetchTile i,
      { main := { plane := { slots := [(0, b)], block := some 0, rect := ⟨0, 0, 8, 8⟩ }, store := fetchEntries i }
        mx := fetchMatrix i })] }

/-- The state with an instruction placed where the next step takes its instruction: the firing of slot 0 of a tile of core 0
stands at the head of the agenda, with the word and the literal in the active plane and the operand set complete. It
stands for the load of a program: from reset, a program runs once CD has booted the part, a queue is enabled and rung, the
packet and the image it names are read, and the Dealer has injected a thread (log entry 3). -/
def State.withFetchWord (s : State) (_nbits w : Nat) : State :=
  let b : SlotBits := ⟨BitVec.ofNat 32 w, BitVec.ofNat 32 (w >>> 32)⟩
  let i := (decode b.word b.lit).toOption
  { s with
    cores := KMap.put s.cores 0 (fetchCore b i)
    sec := { s.sec with stage := 5, held := false, nv := { s.sec.nv with disabled := [] } }
    time := { s.time with dies := KMap.alter s.time.dies 0 {} (fun x => { x with valid := true }) }
    dbg := { s.dbg with stops := [] }
    rpl := { s.rpl with replaying := none }
    agenda := [.fire 0 (fetchTile i) false 0] }

end Sys2Proof.Machine
end

