-- ==== Sys2Proof/Safety.lean ====
section
/-! DEFINITION. The terms that the claims use: the invariant, a firing whose own effect is due, and the forms in which its
result leaves. -/

namespace Sys2Proof

/-- Does a condition hold of two integers (R293)? -/
def Cond.holds (c : Cond) (x y : Int) : Bool :=
  match c with | .eq => x = y | .ne => x ≠ y | .lt => x < y | .le => x ≤ y

end Sys2Proof

namespace Sys2Proof.Machine

/-- What every step keeps: memory, and the memory of every checkpoint from which RPL_START can restore it, stand in their
canonical form. -/
def State.Inv (s : State) : Prop := Memory.wf s.mem ∧ ∀ p ∈ s.rpl.ckpts, Memory.wf p.2.mem

/-! ## Lanes -/

/-- Part j of w bits of a word, the lowest first (R97). -/
def lane (w : Nat) (x : Word) (j : Nat) : Nat := x.toNat / 2 ^ (w * j) % 2 ^ w

/-- The number of sub-words of an elementwise result: four where A is a beat, else one (R286). -/
def Firing.subs (f : Firing) : Nat := if f.tokA.isBeat then 4 else 1

/-- A and B combine elementwise: no 64-bit A meets a beat (R286). -/
def Firing.Agree (f : Firing) : Prop := f.tokA.isBeat = true ∨ f.tokB.isBeat = false

/-- A, B and Q combine elementwise (R286). -/
def Firing.Agree3 (f : Firing) : Prop := f.tokA.isBeat = true ∨ f.tokB.isBeat = false ∧ f.tokQ.isBeat = false

/-! ## Firings -/

/-- A tile has consumed the operand set f, and the firing's own effect is due: no operand is deferred and the result has
PRED = 1 (R62, R68, R69). -/
def State.Fires (s : State) (f : Firing) (ta : TagAction) : Prop :=
  s.firing = some f ∧ f.deferred = false ∧ f.pred ta = true

/-- The operand set taken: the state in which a firing's effect begins. -/
def State.taken (s : State) : State := { s with firing := none }

/-- A firing that sends one value: its flags are pending in its execution, and on each destination leaves the result tag of
R62 and R63 with the data. -/
def State.yields (s : State) (f : Firing) (r : Route) (fmt : Fmt) (d : Data) : State :=
  (s.taken.addFlags f.site.core (f.key r.ta) d.flags).emitOut f r (Out.data (f.resultTag r.ta fmt) d)

/-- Element j of a 64-bit token of a format (Table 4.4). -/
def elem (t : Fmt) (x : Word) (j : Nat) : Nat :=
  match t with
  | .bf16 => lane 16 x j
  | .e4m3 | .e5m2 => lane 8 x j
  | .q4 => lane 4 x j
  | .f32 => x.toNat % 2 ^ 32
  | .a36 => x.toNat % 2 ^ 36
  | .int | .addr => x.toNat

/-- Bits of an element of the floating-point class. -/
def felemBits : FElem → Nat | .f32 => 32 | .bf16 => 16

/-- An instruction completes with one value of an element format: element j of sub-word m is the first part of op m j, and a
flag is raised exactly where some element raises it. -/
def State.Elems (s : State) (f : Firing) (r : Route) (i : Instr) (e : FElem) (op : Nat → Nat → Nat × FpFlags) : Prop :=
  ∃ d : Data, exec i s = .next (s.yields f r (felemFmt e) d) ∧
    (∀ m j, m < f.subs → j < (felemFmt e).count → elem (felemFmt e) (subWord d.data m) j = (op m j).1 % 2 ^ felemBits e) ∧
    (∀ b, b < 6 → (d.flags.getLsbD b = true ↔
      ∃ m j, m < f.subs ∧ j < (felemFmt e).count ∧ (op m j).2.getLsbD b = true))

/-- A firing that passes A on, after the effect that has led to u. -/
def State.passes (u : State) (f : Firing) (r : Route) : State :=
  u.emitOut f r (Out.data (f.resultTag r.ta f.tokA.fmt) ⟨f.tokA.data, 0⟩)

/-- A firing that sends a 64-bit INT value, after the effect that has led to u. -/
def State.sends (u : State) (f : Firing) (r : Route) (v : Word) : State :=
  u.emitOut f r (Out.data (f.resultTag r.ta .int) ⟨beatOf v, 0⟩)

/-- An instruction completes with one INT value without flags, each of whose lanes relates to the lanes of A. -/
def State.Lanes1 (s : State) (f : Firing) (r : Route) (i : Instr) (w : Lane) (p : Nat → Nat → Prop) : Prop :=
  ∃ d : Beat, exec i s = .next (s.yields f r .int ⟨d, 0⟩) ∧
    ∀ m j, m < f.subs → j < w.count → p (lane w.bits (f.tokA.sub m) j) (lane w.bits (subWord d m) j)

/-- The same of two operands, with the result's lanes as a function of theirs. -/
def State.Lanes2 (s : State) (f : Firing) (r : Route) (i : Instr) (w : Lane) (g : Nat → Nat → Nat) : Prop :=
  ∃ d : Beat, exec i s = .next (s.yields f r .int ⟨d, 0⟩) ∧
    ∀ m j, m < f.subs → j < w.count →
      lane w.bits (subWord d m) j = g (lane w.bits (f.tokA.sub m) j) (lane w.bits (f.tokB.sub m) j)

/-- The same of three operands. -/
def State.Lanes3 (s : State) (f : Firing) (r : Route) (i : Instr) (w : Lane) (g : Nat → Nat → Nat → Nat) : Prop :=
  ∃ d : Beat, exec i s = .next (s.yields f r .int ⟨d, 0⟩) ∧
    ∀ m j, m < f.subs → j < w.count →
      lane w.bits (subWord d m) j =
        g (lane w.bits (f.tokA.sub m) j) (lane w.bits (f.tokB.sub m) j) (lane w.bits (f.tokQ.sub m) j)

/-- An instruction completes with one value without flags whose sub-words are a function of those of A and B. -/
def State.Words2 (s : State) (f : Firing) (r : Route) (i : Instr) (g : Word → Word → Word) : Prop :=
  ∃ d : Beat, exec i s = .next (s.yields f r .int ⟨d, 0⟩) ∧
    ∀ m, m < f.subs → subWord d m = g (f.tokA.sub m) (f.tokB.sub m)

/-! ## What a firing leaves unchanged -/

/-- The instructions whose whole effect is what they send: the routing nodes but PURGE, the integer and floating-point
instructions, the reductions, conversions and keys, GTIME, and the opcodes that freeze the tile. -/
def isComputing : Instr → Bool
  | .nop _ _ _ | .mov _ | .lit _ _ _ | .sel _ | .gate _ _ | .steer _ _ | .pack _ _ _ _ | .fmts _ _
  | .add _ _ _ | .sub _ _ _ | .mul _ _ _ | .mulh _ _ _ | .mad _ _ _ | .min _ _ _ | .max _ _ _ | .abs _ _ _
  | .and _ _ _ | .or _ _ _ | .xor _ _ _ | .andn _ _ _ | .shl _ _ _ | .shr _ _ _ | .sar _ _ _ | .rotl _ _ _
  | .popc _ _ _ | .clz _ _ _ | .ctz _ _ _ | .brev _ _ _ | .bfx _ _ _ | .bfi _ _ _ | .cmp _ _ _ _ | .lea _ _
  | .adds _ _ _ | .subs _ _ _ | .fadd _ _ _ | .fsub _ _ _ | .fmul _ _ _ | .ffma _ _ _ | .fmin _ _ | .fmax _ _
  | .fabs _ _ | .fneg _ _ | .fcmp _ _ _ | .fclass _ _ | .frcp _ _ _ | .frsq _ _ _ | .fsqrt _ _ _ | .fexp2 _ _ _
  | .flog2 _ _ _ | .fsin _ _ _ | .fcos _ _ _ | .ftanh _ _ _ | .fscale _ _ _ | .fdot _ _ _ | .fsum _ _ _ | .cvt _ _
  | .cvti _ _ | .cvtf _ _ | .qpack _ _ _ _ | .qunpk _ _ _ _ | .red _ _ _ | .scan _ _ _ | .bkt _ _ _ _ | .kmerge _ _ _ _
  | .ksel _ _ _ _ | .gtime _ _ | .trap _ _ | .bkpt _ _ | .idiv _ _ _ | .irem _ _ _ | .idivn _ _ _ | .iremn _ _ _
  | .unassignedOpcode _ _ _ _ | .emulationOpcode _ _ _ _ => true
  | _ => false

/-- Where the trace record of a firing of a core goes, if one is written: the trace unit selects the core, and its ring is not
full (R272). -/
def State.traceSlot (s : State) (c : Nat) : Option Nat :=
  let ctl := s.regN .dbgTrctl
  let size := 1024 * 2 ^ bitsOf ctl 4 1
  if bitOf ctl 0 && (bitOf ctl 16 || bitsOf ctl 15 8 = c) && !ringFull s.dbg.trTail s.dbg.trHead size then
    some (s.regN .dbgTrbase + 32 * (s.dbg.trTail % size))
  else none

/-- A firing f that leads from s to t has only sent tokens or frozen its tile: every byte of memory outside its trace record
is as before, every control register but DBG_TRLOST, every thread but for the flags pending in its execution, every other
core, every matching store, plane and accumulator of the core, every other tile's freeze, and the state of the units. -/
def State.OnlySends (s t : State) (f : Firing) : Prop :=
  let c := f.site.core
  (∀ a, (∀ b, s.traceSlot c = some b → a < b ∨ b + 32 ≤ a) → t.byte a = s.byte a) ∧
  (∀ o, o ≠ RegName.dbgTrlost.offset 0 → KMap.look t.regs o = KMap.look s.regs o) ∧
  (∀ d k, ∃ p : FpFlags → FpFlags, t.thread d k = { s.thread d k with
    exec := (s.thread d k).exec.map (fun e => { e with pend := p e.pend }) }) ∧
  (∀ d, d ≠ c → t.core d = s.core d) ∧
  (∀ u h, (t.ctx c u h).store = (s.ctx c u h).store ∧ (t.ctx c u h).plane = (s.ctx c u h).plane ∧
    (t.ctx c u h).eos = (s.ctx c u h).eos) ∧
  (∀ u, (t.tile c u).mx = (s.tile c u).mx ∧ (t.tile c u).shadow = (s.tile c u).shadow) ∧
  (∀ u, u ≠ f.site.tile → (t.tile c u).frozen = (s.tile c u).frozen) ∧
  t.time = s.time ∧ t.coh = s.coh ∧ t.mmu = s.mmu ∧ t.images = s.images ∧ t.queues = s.queues ∧ t.grids = s.grids ∧
  t.teams = s.teams ∧ t.engines = s.engines ∧ t.chr = s.chr ∧ t.station = s.station ∧ t.stage = s.stage ∧ t.full = s.full ∧
  t.poison = s.poison ∧ t.links = s.links ∧ t.sec = s.sec ∧ t.rpl = s.rpl

/-! ## Memory instructions -/

/-- The loads of R339 to R343. -/
def isLoad : Instr → Bool
  | .ld _ _ _ _ _ _ | .ldb _ _ _ _ _ | .ldf _ _ _ _ _ _ _ | .lds _ _ _ _ | .ll _ _ _ _ _ _ => true
  | _ => false

/-- The instructions that check an address and then read, write or both (R136). -/
def isAccess (i : Instr) : Bool := isLoad i || isAtomic i || isBufferedStore i

/-- The number that the next access of the firing's execution takes. -/
def State.accessNo (s : State) (f : Firing) (r : Route) : Nat := (s.taken.accessId f.site.core (f.key r.ta)).1

/-- The state in which the own effect of a memory instruction begins: the operand set taken, the access numbered and
reported to the order unit (R138). -/
def State.numbered (s : State) (f : Firing) (r : Route) (i : Instr) : State :=
  (s.taken.accessId f.site.core (f.key r.ta)).2.report f.site.core (f.key r.ta) (s.accessNo f r) i

end Sys2Proof.Machine
end

