-- ==== Sys2Proof/WellFormed.lean ====
section
/-! DEFINITION. Well-formed instructions: those that a slot can hold after the loader has checked the slot by itself (R89
step 8.2). The decoder already refuses words and literals whose codes are reserved. -/

namespace Sys2Proof

/-- An instruction with an encoding whose operand fields are such that its own word decodes to it: the opcode of an
unassigned or emulation-space slot is one, a bounded field is in its bound, the empty slot is none (R74, R81, R82). -/
def Instr.encodable : Instr → Bool
  | .nop sa sb ta => !(sa = .n0 && sb = .n0 && ta = .plain)
  | .lit _ k v => k ≠ .bf16 || v.extractLsb' 16 16 = 0#16
  | .pack _ w _ _ => w ≠ .w8
  | .sreg _ c s => !c || s = .fpflags
  | .bfx _ w _ | .bfi _ w _ => w = .w64 || w = .w32
  | .fdot _ _ c | .fsum _ _ c => c.rnd ≠ .rs
  | .qunpk _ f n _ => f = .bf16 || n = 0#2
  | .ld _ n f s _ _ | .ll _ n f s _ _ => rfmtOk n f s
  | .ldf _ n _ f s _ _ => (n = .s8 || n = .s4) && rfmtOk n f s
  | .lds _ f _ _ => f ≠ .q4 && f ≠ .a36
  | .ldb _ nb _ _ _ => nb.toNat ≤ 13
  | .stb _ ds sp _ _ => sp || ds = 0#3
  | .stf _ n _ _ | .sete _ n _ _ => n = .s8 || n = .s4
  | .atom _ n op _ _ => op ≠ .fadd || n = .s4
  | .bar _ n | .bara _ n | .barw _ n => n.toNat < 24
  | .mmarm _ _ _ w b => b.toNat + w.toNat + 1 ≤ 256
  | .unassignedOpcode op _ _ _ => op.toNat < 0xF0 && unassigned op.toNat
  | .emulationOpcode op _ _ _ => 0xF4 ≤ op.toNat
  | i => i.route?.isSome
where
  /-- The opcodes below 0xF0 that Table 4.6 leaves unassigned. -/
  unassigned (n : Nat) : Bool :=
    (0x09 ≤ n && n ≤ 0x0F) || (0x16 ≤ n && n ≤ 0x1F) || (0x39 ≤ n && n ≤ 0x3F) || (0x5A ≤ n && n ≤ 0x5F) ||
    (0x72 ≤ n && n ≤ 0x7F) || (0x93 ≤ n && n ≤ 0x9F) || (0xAA ≤ n && n ≤ 0xAF) || (0xB4 ≤ n && n ≤ 0xEF)

/-- A well-formed slot instruction: encodable, and refused by none of the slot's own rules. -/
def Instr.wellFormed (i : Instr) : Bool := i.encodable && i.slotCause = none

end Sys2Proof
end

