-- ==== Sys2Proof/Certificates/Slice0/Obligations.lean ====
section
/-! DEFINITION. The statements for the provers. -/

open Sys2Proof Sys2Proof.Machine

/-! ## Decoding, the step, reset and the invariant -/

/-- R74, R77, R78, R81: words and literals that the spec writes out decode to the instructions that they stand for: those of
Tables 18.1, 19.2 and 20.2 and of the examples of the instruction reference, one or more of every family that they name. The
word zero holds no instruction, and tag action 15 is refused. -/
def Obligations.DecodeWords : Prop :=
  let team (w : Wave) : MemCtl := ⟨w, .team⟩
  decode 0x016E4A94 0 = .ok (.mov ⟨.w0, .none, .q0, .q1, .unary⟩) ∧
  decode 0x049A1838 1 = .ok (.gate ⟨.q1, .q2, .e0, .discard, .dropf⟩ true) ∧
  decode 0x23601801 0x80000000 = .ok (.mulh ⟨.w0, .n0, .e0, .discard, .plain⟩ .w32 ⟨true, 0⟩) ∧
  decode 0x36601801 0xC0000000 = .ok (.cmp ⟨.w0, .n0, .e0, .discard, .plain⟩ .w32 .lt ⟨true, 0⟩) ∧
  decode 0x43072801 2 = .ok (.ffma ⟨.n0, .w1, .s0, .discard, .plain⟩ .bf16 2) ∧
  decode 0x55601800 0x1A10 = .ok (.cvt ⟨.w0, .n0, .e0, .discard, .plain⟩ ⟨false, .w64, .e4m3, .bf16, 1, ⟨.rn, false⟩⟩) ∧
  decode 0xA58E2816 0x80000000 = .ok (.red ⟨.q0, .none, .s0, .discard, .unary⟩ 2 ⟨true, .iadd, ⟨.rn, false⟩⟩) ∧
  decode 0xA7764808 0xF = .ok (.bkt ⟨.w1, .w0, .q0, .discard⟩ .index false 15) ∧
  decode 0x126E4A94 0x00800000 = .ok (.lint ⟨.w0, .q0, .q1⟩ .int ⟨2, ⟨false, 0, 0, 0⟩⟩) ∧
  decode 0x606E1915 0x016C1FC0 = .ok (.ld ⟨.w0, .none, .e0, .e1, .unary⟩ .s4 .int true true ⟨⟨true, 1, 63, 0⟩, .device⟩) ∧
  decode 0x61B30800 0x00A3F001 = .ok (.st ⟨.q3, .e1, .n0, .discard, .plain⟩ .s8 true (team ⟨true, 63, 0, 1⟩)) ∧
  decode 0x68233A00 0x00AFF083 = .ok (.atom ⟨.e0, .e1, .w0, .w1, .plain⟩ .s8 .add .rel ⟨⟨true, 63, 2, 3⟩, .device⟩) ∧
  decode 0x649E5814 0x404C0000 = .ok (.ldf ⟨.q1, .none, .q2, .discard, .unary⟩ .s8 4 .int false true ⟨⟨false, 0, 0, 0⟩, .device⟩) ∧
  decode 0x6F0E4814 0x0A000000 = .ok (.waitt .n0 .q0 5) ∧
  decode 0x80DA682C 0x201 = .ok (.br .zero .q2 2 1) ∧
  decode 0x89604800 0x00C05000 = .ok (.recruit ⟨.w0, .n0, .q0, .discard⟩ 3 .iadd 5) ∧
  decode 0x91AE6014 0x200 = .ok (.trret ⟨.q2, .q3, .discard⟩ 2 0) ∧
  decode 0x159E5954 0xA = .ok (.sreg ⟨.q1, .q2, .s0⟩ false .hidx) ∧
  decode 0 0 = .error .empty ∧ decode 0x0100003C 0 = .error .tagCode

/-- R74 to R81: the decoder reads back every instruction that has an encoding, each operand at every value that its field
admits: no bit of an encoding is dropped and none is read as another's. -/
def Obligations.RoundTrip : Prop :=
  ∀ i : Instr, i.encodable = true → ∃ w l, encode i = some (w, l) ∧ decode w l = .ok i

/-- R60, R74: a step takes the first move of the agenda. Where that is the firing of a slot whose word and literal decode to i
and whose complete set is the one that the tile picks, the step is exec of i with that operand set consumed, and changes
nothing where the tile may not fire it; where it is an event, the step is exec of the event. A move that comes to a die held
in reset is lost (R22). With an empty agenda the step
plans the next one. What a move is taken from differs from the state in the agenda and the replay log alone. -/
def Obligations.StepRunsDecoded : Prop :=
  ∀ (s : State) (m : Move) (rest : List Move), s.rpl.replaying = none →
    (s.agenda = [] → step s = .next s.advance) ∧
    (s.agenda = m :: rest →
      let u : State := ({ s with agenda := rest } : State).logMove m
      (∃ l, u = { s with agenda := rest, rpl := { s.rpl with log := l } }) ∧
      (s.lostInReset m = true → step s = .next u) ∧
      (s.lostInReset m = false →
        (∀ c t h slot i, m = .fire c t h slot →
          decode (s.slotBits c t h slot).word (s.slotBits c t h slot).lit = .ok i →
          (∀ y, u.mayFire c t h = true → u.pick c t h = some y → y.slot = slot →
            step s = exec i (u.consume c t h y) ∧
            (u.consume c t h y).firing = some (y.firing c t h (s.cycle c))) ∧
          (u.mayFire c t h = false ∨ (∀ y, u.pick c t h = some y → y.slot ≠ slot) → step s = .next u)) ∧
        (∀ i, m = .event i → step s = exec i u)))

/-- R6, R22, R39, R74: after reset the memory lists nothing and reads zero (log entry 1), no thread, team, queue, image,
translation or access exists, no die's view of time is valid, the boot has not begun, nothing is due, and every control
register reads the reset value of its map. The invariant holds, and the first step passes time. -/
def Obligations.ResetState : Prop :=
  let s := State.reset
  s.Inv ∧ (∀ a, s.byte a = 0) ∧ (∀ c k, s.thread c k = {}) ∧ (∀ c t, s.tile c t = {}) ∧ s.teams = [] ∧ s.queues = [] ∧
  s.grids = [] ∧ s.images = [] ∧ s.mmu = {} ∧ (∀ d, (s.die d).valid = false) ∧ s.sec.stage = 0 ∧ s.agenda = [] ∧
  (∀ r i, s.reg r i = BitVec.ofNat 64 r.info.reset) ∧ s.readReg .dlrInjwin 0 = 64 ∧ s.readReg .dlrSpinPeriod 0 = 2000 ∧
  s.readReg .barWdt 0 = 1000000000 ∧ s.readReg .dlrParklim 0 = 20000 ∧ s.readReg .hbmScrub 0 = 86400 ∧
  s.readReg .cxpTmo 0 = 500000 ∧ s.readReg .secAlarmact 0 = 0xD5 ∧ s.readReg .tmbView 0 = 0 ∧ s.readReg .secStat 0 = 0 ∧
  step s = .next s.advance

/-- Every step keeps the canonical form of memory and of the memory of every checkpoint: addresses strictly rising, and no
byte listed that an unlisted address would read as (log entry 1). So equal memories are equal data after every run. -/
def Obligations.InvStep : Prop :=
  ∀ s t : State, s.Inv → step s = .next t → t.Inv

/-- R3: bytes written at an address read back as their little-endian number, every other byte reads as before, nothing else
of the state changes, and the canonical form is kept. -/
def Obligations.MemoryReadsBack : Prop :=
  ∀ (s : State) (a n v : Nat),
    let t := s.putNat a n v
    t.load a n = v % 2 ^ (8 * n) ∧ (∀ j, j < n → t.byte (a + j) = BitVec.ofNat 8 (v / 2 ^ (8 * j))) ∧
    (∀ b, b < a ∨ a + n ≤ b → t.byte b = s.byte b) ∧ (∃ m, t = { s with mem := m }) ∧ (Memory.wf s.mem → Memory.wf t.mem)

/-- R62: unless its tag action says otherwise, the token that a firing sends has the SLOT, ITER and BURST of A, PRED of A and
B, DEF of any operand, the format of the result and the executing die; a slot without B counts as PRED 1 and DEF 0. Where the
action says otherwise: PREDA takes PRED of A alone, STICKA and PURGE the SLOT, ITER and BURST of B, ITINC adds one to ITER and
ITCLR clears it, HEAD, TAIL and WHOLE set BURST to HEAD, TAIL and none. -/
def Obligations.ResultTag : Prop :=
  ∀ (f : Firing) (ta : TagAction) (fmt : Fmt) (d : Data) (a : Token) (t : Token), f.a = [a] →
    t ∈ (Out.data (f.resultTag ta fmt) d).toks0 ++ (Out.data (f.resultTag ta fmt) d).toks1 →
    let any (g : Token → Bool) (l : List Token) : Bool := l.any g
    t.fmt = fmt ∧ t.die = dieOf f.site.core ∧
    t.deferred = (a.deferred || any (·.deferred) f.b || any (·.deferred) f.q) ∧
    (ta ≠ .preda → (f.b = [] → t.pred = a.pred) ∧ ∀ b, f.b = [b] → t.pred = (a.pred && b.pred)) ∧
    (ta = .preda → t.pred = a.pred) ∧
    (ta ≠ .sticka → ta ≠ .purge → t.slot = a.slot) ∧
    (ta ≠ .sticka → ta ≠ .purge → ta ≠ .itinc → ta ≠ .itclr → t.iter = a.iter) ∧
    (ta ∈ ([.plain, .stickb, .unary, .itinc, .itclr, .preda, .xthr, .first, .dropf] : List TagAction) → t.burst = a.burst) ∧
    (∀ b, f.b = [b] → ta = .sticka ∨ ta = .purge → t.slot = b.slot ∧ t.iter = b.iter ∧ t.burst = b.burst) ∧
    (ta = .itinc → t.iter = a.iter + 1) ∧ (ta = .itclr → t.iter = 0) ∧ (ta = .head → t.burst = .head) ∧
    (ta = .tail → t.burst = .tail) ∧ (ta = .whole → t.burst = .none)

/-- R231: FoldOp: IADD adds modulo 2^64, FADD adds the low halves as F32 under .rn without saturation, FMIN and FMAX are the
minimum and maximum of the low halves as F32; an F32 result stands in [31:0] and bits [63:32] are zero. -/
def Obligations.FoldOps : Prop :=
  ∀ a b : Word,
    let x := bitsOf a.toNat 31 0
    let y := bitsOf b.toNat 31 0
    (foldOp .iadd a b).1.toNat = (a.toNat + b.toNat) % 2 ^ 64 ∧
    (foldOp .fadd a b).1.toNat = (fvAdd fmtF32 ⟨.rn, false, 0⟩ (fmtF32.value x) (fmtF32.value y)).1 ∧
    (foldOp .fmin a b).1.toNat = (fMinMax fmtF32 false x y).1 ∧ (foldOp .fmax a b).1.toNat = (fMinMax fmtF32 true x y).1 ∧
    ∀ op : FoldOp, op ≠ .iadd → (foldOp op a b).1.toNat < 2 ^ 32

/-- Every computing instruction, in every form, leaves unchanged everything but the tokens that it sends, the flags pending in
its execution, and the freeze of its own tile (R60, R74, R272): every byte of memory outside its trace record, every control
register but DBG_TRLOST, every thread's registers, every other core, every matching store, plane and accumulator. -/
def Obligations.ComputingFrame : Prop :=
  ∀ (s t : State) (f : Firing) (i : Instr), isComputing i = true → s.firing = some f → exec i s = .next t → s.OnlySends t f

/-! ## Integer instructions -/

/-- R349, R289, R97: ADD, SUB, MUL, MULH, MIN and MAX complete with the result of Table 17.2 in every lane of every
sub-word, each lane by itself and modulo 2^w, and raise no flag. R289, R349: AND, OR, XOR and ANDN complete bit by
bit, whatever the lane width, and raise no flag. -/
def Obligations.IntegerArithmetic : Prop :=
  (∀ (s : State) (f : Firing) (r : Route) (w : Lane) (l : IntLit), s.Fires f r.ta → f.Agree →
     s.Lanes2 f r (.add r w l) w (fun a b => (a + b) % 2 ^ w.bits) ∧
     s.Lanes2 f r (.sub r w l) w (fun a b => (2 ^ w.bits + a - b) % 2 ^ w.bits) ∧
     s.Lanes2 f r (.mul r w l) w (fun a b => a * b % 2 ^ w.bits) ∧
     s.Lanes2 f r (.mulh r w l) w (fun a b =>
       (laneInt w.bits l.signed a * laneInt w.bits l.signed b / 2 ^ w.bits % 2 ^ w.bits).toNat) ∧
     s.Lanes2 f r (.min r w l) w (fun a b => if laneInt w.bits l.signed a ≤ laneInt w.bits l.signed b then a else b) ∧
     s.Lanes2 f r (.max r w l) w (fun a b => if laneInt w.bits l.signed a ≤ laneInt w.bits l.signed b then b else a)) ∧
  (∀ (s : State) (f : Firing) (r : Route) (w : Lane) (l : IntLit), s.Fires f r.ta → f.Agree →
     s.Words2 f r (.and r w l) (fun a b => a &&& b) ∧
     s.Words2 f r (.or r w l) (fun a b => a ||| b) ∧
     s.Words2 f r (.xor r w l) (fun a b => a ^^^ b) ∧
     s.Words2 f r (.andn r w l) (fun a b => a &&& ~~~b))

/-- R349: SHL, SHR, SAR and ROTL complete with the result of Table 17.2 for every count, those of the lane's width and
beyond included, and raise no flag. R288, R350: ABS, POPC, CLZ, CTZ and BREV complete with the result of Table 15.3 in
every lane and raise no flag. -/
def Obligations.IntegerShifts : Prop :=
  (∀ (s : State) (f : Firing) (r : Route) (w : Lane) (l : IntLit), s.Fires f r.ta → f.Agree →
     s.Lanes2 f r (.shl r w l) w (fun a c => if w.bits ≤ c then 0 else a * 2 ^ c % 2 ^ w.bits) ∧
     s.Lanes2 f r (.shr r w l) w (fun a c => if w.bits ≤ c then 0 else a / 2 ^ c) ∧
     s.Lanes2 f r (.sar r w l) w (fun a c =>
       if w.bits ≤ c then (if 2 ^ (w.bits - 1) ≤ a then 2 ^ w.bits - 1 else 0)
       else (laneInt w.bits true a / 2 ^ c % 2 ^ w.bits).toNat) ∧
     s.Lanes2 f r (.rotl r w l) w (fun a c => a * 2 ^ (c % w.bits) % 2 ^ w.bits + a / 2 ^ (w.bits - c % w.bits))) ∧
  (∀ (s : State) (f : Firing) (r : Route1) (w : Lane) (sg : Bool), s.Fires f .unary →
     s.Lanes1 f r.full (.abs r w sg) w (fun x y => y = if sg ∧ 2 ^ (w.bits - 1) ≤ x then (2 ^ w.bits - x) % 2 ^ w.bits else x) ∧
     s.Lanes1 f r.full (.popc r w sg) w (fun x y => y = ((List.range w.bits).map (fun i => x / 2 ^ i % 2)).sum) ∧
     s.Lanes1 f r.full (.clz r w sg) w (fun x y =>
       if x = 0 then y = w.bits else y < w.bits ∧ 2 ^ (w.bits - 1 - y) ≤ x ∧ x < 2 ^ (w.bits - y)) ∧
     s.Lanes1 f r.full (.ctz r w sg) w (fun x y =>
       if x = 0 then y = w.bits else y < w.bits ∧ x.testBit y = true ∧ ∀ i, i < y → x.testBit i = false) ∧
     s.Lanes1 f r.full (.brev r w sg) w (fun x y => ∀ i, i < w.bits → y.testBit i = x.testBit (w.bits - 1 - i)))

/-- R291, R292, R293, R351: CMP, BFX, BFI and MAD complete lane by lane and raise no flag. BFX and BFI are shown for the
widths that their encoding admits. -/
def Obligations.IntegerFields : Prop :=
  ∀ (s : State) (f : Firing) (r : Route) (w : Lane) (l : IntLit) (q : BitVec 2) (c : Cond), s.Fires f r.ta →
    (f.Agree →
      s.Lanes2 f r (.cmp r w c l) w (fun a b =>
        if c.holds (laneInt w.bits l.signed a) (laneInt w.bits l.signed b) then 2 ^ w.bits - 1 else 0) ∧
      (w = .w64 ∨ w = .w32 → s.Lanes2 f r (.bfx r w l) w (fun a b =>
        let n := min (b / 256 % 256) w.bits
        let p := b % 256
        let x := if w.bits ≤ p then 0 else a / 2 ^ p % 2 ^ n
        if l.signed ∧ 0 < n ∧ 2 ^ (n - 1) ≤ x then x + 2 ^ w.bits - 2 ^ n else x))) ∧
    (f.Agree3 →
      s.Lanes3 f r (.mad r w q) w (fun a b q => (a * b + q) % 2 ^ w.bits) ∧
      (w = .w64 ∨ w = .w32 → s.Lanes3 f r (.bfi r w q) w (fun a b q =>
        let n := min (q / 256 % 256) w.bits
        let p := q % 256
        let m := if w.bits ≤ p then 0 else (2 ^ n - 1) * 2 ^ p % 2 ^ w.bits
        (a &&& (2 ^ w.bits - 1 - m)) ||| (b * 2 ^ p &&& m))))

/-- R98, R290: ADDS and SUBS complete with the exact sum or difference of each lane clamped to the range that S selects, and
SAT is raised exactly when a lane was clamped. The lane width of opcode 0x38 is that of literal [30:29], S is literal [31], and
MD = 0 is the sum, any other that loads the difference. -/
def Obligations.SaturatingAdd : Prop :=
  (∀ (wd lit : BitVec 32) (i : Instr), wd.extractLsb' 24 8 = 0x38#8 → decode wd lit = .ok i →
     ∃ (r : Route) (w : Lane) (l : IntLit), w.code = lit.extractLsb' 29 2 ∧ l.signed = lit.getLsbD 31 ∧
       i = (if wd.extractLsb' 0 2 = 0#2 then .adds r w l else .subs r w l)) ∧
  (∀ (s : State) (f : Firing) (r : Route) (w : Lane) (l : IntLit), s.Fires f r.ta → f.Agree →
     ∀ (i : Instr) (g : Int → Int → Int),
       (i = .adds r w l ∧ g = (fun a b => a + b)) ∨ (i = .subs r w l ∧ g = (fun a b => a - b)) →
       let x := fun m j => g (laneInt w.bits l.signed (lane w.bits (f.tokA.sub m) j))
         (laneInt w.bits l.signed (lane w.bits (f.tokB.sub m) j))
       let lo : Int := if l.signed then -(2 ^ (w.bits - 1)) else 0
       let hi : Int := if l.signed then 2 ^ (w.bits - 1) - 1 else 2 ^ w.bits - 1
       ∃ d : Data, exec i s = .next (s.yields f r .int d) ∧
         (∀ m j, m < f.subs → j < w.count →
           laneInt w.bits l.signed (lane w.bits (subWord d.data m) j) = max lo (min hi (x m j))) ∧
         ((∃ m j, m < f.subs ∧ j < w.count ∧ (x m j < lo ∨ hi < x m j)) → d.flags = fSAT) ∧
         ((∀ m j, m < f.subs → j < w.count → lo ≤ x m j ∧ x m j ≤ hi) → d.flags = 0))

/-- R335: LEA takes two 64-bit operands and completes with their sum modulo 2^64 under FMT ADDR and no flag; a beat on either
raises FMTMIS and freezes the tile. A constant is no beat, whatever tag it has taken. -/
def Obligations.FormAddress : Prop :=
  ∀ (s : State) (f : Firing) (r : Route) (l : IntLit), s.Fires f r.ta →
    (f.tokA.isWide = false ∧ f.tokB.isWide = false →
      exec (.lea r l) s = .next (s.yields f r .addr ⟨beatOf (f.tokA.w64 + f.tokB.w64), 0⟩)) ∧
    (f.tokA.isWide = true ∨ f.tokB.isWide = true →
      exec (.lea r l) s = .next (s.taken.freezeFiring f r.ta codeFMTMIS))

/-! ## Opcodes that freeze the tile, shapes that do not agree, bubbles and deferred firings -/

/-- R82, R330, R304, R377: the emulated divisions and every opcode of the emulation space raise EMUOP, an unassigned
opcode raises ILLOP, TRAP raises TRAPI and BKPT raises BKPT: the firing takes that fault with its operand set held.
R197, R199, R200: a freezing fault of a firing of an active plane stops the tile with the operand set held, and sends
one fault token whose record has the code, KIND 2, the core, the tile, the slot, the plane, and the slot's word and
literal; memory and every register of every thread are as before. -/
def Obligations.FreezingFaults : Prop :=
  (∀ (s : State) (f : Firing) (r : Route) (sa : Src) (op : BitVec 8) (md : BitVec 2) (l : BitVec 32) (code : BitVec 16),
     (s.Fires f r.ta →
       exec (.idiv r md l) s = .next (s.taken.freezeFiring f r.ta 0x02) ∧
       exec (.irem r md l) s = .next (s.taken.freezeFiring f r.ta 0x02) ∧
       exec (.idivn r md l) s = .next (s.taken.freezeFiring f r.ta 0x02) ∧
       exec (.iremn r md l) s = .next (s.taken.freezeFiring f r.ta 0x02) ∧
       exec (.emulationOpcode op r md l) s = .next (s.taken.freezeFiring f r.ta 0x02) ∧
       exec (.unassignedOpcode op r md l) s = .next (s.taken.freezeFiring f r.ta 0x01)) ∧
     (s.Fires f .unary →
       exec (.trap sa code) s = .next (s.taken.freezeFiring f .unary 0x50) ∧
       exec (.bkpt sa code) s = .next (s.taken.freezeFiring f .unary 0x51))) ∧
  (∀ (s : State) (f : Firing) (ta : TagAction) (code : Nat), f.site.handler = false →
     let u := s.freezeFiring f ta code
     (∃ z, (u.tile f.site.core f.site.tile).frozen = some z ∧ z.code = code ∧ z.held = some f ∧ z.site = f.site) ∧
     (∃ x : FaultTok, (u.core f.site.core).faultNet = (s.core f.site.core).faultNet ++ [x] ∧ x.code = code ∧
       x.kind = .freezing ∧ x.record.code = code ∧ x.record.kind = 2 ∧ x.record.core = some f.site.core ∧
       x.record.tile = some f.site.tile ∧ x.record.slot = some f.site.slot ∧ x.record.plane = some 0 ∧
       x.record.bits = some f.bits) ∧
     u.mem = s.mem ∧ u.regs = s.regs ∧ (∀ c k, u.thread c k = s.thread c k))

/-- R286: where a 64-bit A meets a beat on B (or Q), every elementwise instruction of two (or three) operands raises
FMTMIS and freezes the tile. R68, R69: the integer instructions of two and three operands compute nothing where an
operand is deferred or the result would carry PRED = 0: a deferred firing sends the tag of R62 with the first deferred
operand's data, a bubble sends it with data zero and PRED = 0; neither raises a flag. -/
def Obligations.ShapesAndBubbles : Prop :=
  (∀ (s : State) (f : Firing) (r : Route) (w : Lane) (l : IntLit) (q : BitVec 2) (c : Cond) (e : FElem) (k : FloatCtl)
     (sg sat : Bool) (i : Instr), s.Fires f r.ta →
     (¬f.Agree →
       i ∈ ([.add r w l, .sub r w l, .mul r w l, .mulh r w l, .min r w l, .max r w l, .and r w l, .or r w l, .xor r w l,
         .andn r w l, .shl r w l, .shr r w l, .sar r w l, .rotl r w l, .bfx r w l, .cmp r w c l, .adds r w l, .subs r w l,
         .pack r w sg sat, .fadd r e k, .fsub r e k, .fmul r e k, .fmin r e, .fmax r e, .fcmp r e c,
         .fscale r e k] : List Instr) →
       exec i s = .next (s.taken.freezeFiring f r.ta 0x03)) ∧
     (¬f.Agree3 → i ∈ ([.mad r w q, .bfi r w q, .ffma r e q] : List Instr) →
       exec i s = .next (s.taken.freezeFiring f r.ta 0x03))) ∧
  (∀ (s : State) (f : Firing) (r : Route) (w : Lane) (l : IntLit) (q : BitVec 2) (c : Cond) (i : Instr), s.firing = some f →
     i ∈ ([.add r w l, .sub r w l, .mul r w l, .mulh r w l, .mad r w q, .min r w l, .max r w l, .and r w l, .or r w l,
       .xor r w l, .andn r w l, .shl r w l, .shr r w l, .sar r w l, .rotl r w l, .bfx r w l, .bfi r w q, .cmp r w c l,
       .adds r w l, .subs r w l] : List Instr) →
     (f.deferred = true → ∃ t : Token, exec i s = .next (s.taken.emitOut f r ⟨[t], [t], 0⟩) ∧ t.deferred = true ∧
       t.w64 = f.deferredData.extractLsb' 0 64 ∧ t.slot = f.key r.ta ∧ t.pred = f.pred r.ta ∧ t.fmt = .int ∧
       t.die = dieOf f.site.core) ∧
     (f.deferred = false → f.pred r.ta = false →
       ∃ t : Token, exec i s = .next (s.taken.emitOut f r ⟨[t], [t], 0⟩) ∧ t.data = 0 ∧ t.deferred = false ∧ t.pred = false ∧
         t.slot = f.key r.ta ∧ t.fmt = .int ∧ t.die = dieOf f.site.core))

/-! ## Routing -/

/-- R353, R326, R336: MOV completes with A's data and FMT, FMTS with A's data under the new FMT, LIT with the constant
that its kind forms of the literal. R352, R356, R64: NOP consumes its operand set and emits nothing; PURGE removes from the
matching store exactly the sticky operands of the target slot on the sides it names, and passes A on; what is left keeps its
order, and changes at most by a waiting operand's becoming sticky. -/
def Obligations.CopySinkPurge : Prop :=
  (∀ (s : State) (f : Firing) (r : Route) (r1 : Route1) (m : Fmt) (v : BitVec 32),
     (s.Fires f r.ta → exec (.mov r) s = .next (s.yields f r f.tokA.fmt ⟨f.tokA.data, 0⟩)) ∧
     (s.Fires f .unary →
       exec (.fmts r1 m) s = .next (s.yields f r1.full m ⟨f.tokA.data, 0⟩) ∧
       exec (.lit r1 .i64 v) s = .next (s.yields f r1.full .int ⟨beatOf (v.signExtend 64), 0⟩) ∧
       exec (.lit r1 .n64 v) s = .next (s.yields f r1.full .int ⟨beatOf (v.zeroExtend 64), 0⟩) ∧
       exec (.lit r1 .f32 v) s = .next (s.yields f r1.full .f32 ⟨beatOf (v.zeroExtend 64), 0⟩) ∧
       ∃ x : Word, exec (.lit r1 .bf16 v) s = .next (s.yields f r1.full .bf16 ⟨beatOf x, 0⟩) ∧
         ∀ j, j < 4 → lane 16 x j = v.toNat % 65536)) ∧
  (∀ (s : State) (f : Firing) (sa sb : Src) (ta : TagAction) (r : Route1) (side : PurgeSide) (slot : BitVec 5),
     (s.firing = some f → exec (.nop sa sb ta) s = .next (s.taken.trace f .discard f.tokA)) ∧
     (s.Fires f .unary → ∃ u : State, exec (.purge r side slot) s = .next (u.passes f r.full) ∧
       (let kept := (s.ctx f.site.core f.site.tile f.site.handler).store.filter (fun e =>
          decide (¬(e.kind = .sticky ∧ e.slot = slot.toNat ∧
            (side = .both ∨ (side = .a ∧ e.side = .a) ∨ (side = .b ∧ e.side = .b)))))
        let left := (u.ctx f.site.core f.site.tile f.site.handler).store
        let plain (e : Entry) : Entry := { e with kind := .operand, uses := 0 }
        left.map plain = kept.map plain ∧ ∀ p ∈ kept.zip left, p.2 = p.1 ∨ p.2.kind = .sticky) ∧
       u.mem = s.mem ∧ u.regs = s.regs ∧ (∀ c k, u.thread c k = s.thread c k)))

/-- R354: SEL completes with the operand that PRED of A chooses, its FMT and (but under HEAD and TAIL) its BURST; PRED
of the result is the or of both, DEF too, and a deferred result carries the data of the first deferred operand. A
mixture of a beat and a 64-bit token without a deferred operand raises FMTMIS. R327, R355: GATE sends A with the
predicate of A, B and the test of B against SENSE; STEER sends A on D0 with that predicate and on D1 with the opposite
test. A deferred B leaves the test out; a bubble has data zero; a beat on B, where no operand is deferred, raises FMTMIS
(R315). -/
def Obligations.SelectAndSteer : Prop :=
  (∀ (s : State) (f : Firing) (r : Route) (a b : Token), s.firing = some f → f.a = [a] → f.b = [b] → f.q = [] →
     let x := if a.pred then a else b
     ((a.isBeat = b.isBeat ∨ a.deferred = true ∨ b.deferred = true) →
       ∃ t : Token, exec (.sel r) s = .next (s.taken.emitOut f r ⟨[t], [t], 0⟩) ∧
         t.pred = (a.pred || b.pred) ∧ t.deferred = (a.deferred || b.deferred) ∧ t.fmt = x.fmt ∧
         (r.ta ≠ .head → r.ta ≠ .tail → t.burst = x.burst) ∧
         (t.deferred = false → t.pred = true → t.w64 = x.w64 ∧ (x.isBeat = true → t.data = x.data)) ∧
         (t.deferred = false → t.pred = false → t.data = 0) ∧
         (t.deferred = true → t.w64 = (if a.deferred then a else b).w64)) ∧
     (a.isBeat ≠ b.isBeat → a.deferred = false → b.deferred = false →
       exec (.sel r) s = .next (s.taken.freezeFiring f r.ta 0x03))) ∧
  (∀ (s : State) (f : Firing) (r : Route) (sense : Bool) (a b : Token), s.firing = some f → f.a = [a] → f.b = [b] → f.q = [] →
     r.ta ≠ .preda →
     let t := (b.w64 ≠ 0) != sense
     let p := a.pred && b.pred
     let Carries := fun (x : Token) (q : Bool) => x.pred = q ∧ x.deferred = (a.deferred || b.deferred) ∧ x.fmt = a.fmt ∧
       (x.deferred = false → q = true → x.w64 = a.w64) ∧ (x.deferred = false → q = false → x.data = 0) ∧
       (x.deferred = true → x.w64 = (if a.deferred then a else b).w64)
     (b.isWide = false ∨ a.deferred = true ∨ b.deferred = true →
       (∃ x, exec (.gate r sense) s = .next (s.taken.emitOut f r ⟨[x], [x], 0⟩) ∧ Carries x (p && (b.deferred || t))) ∧
       (∃ x y, exec (.steer r sense) s = .next (s.taken.emitOut f r ⟨[x], [y], 0⟩) ∧ Carries x (p && (b.deferred || t)) ∧
         Carries y (p && (b.deferred || !t)))) ∧
     (b.isWide = true → a.deferred = false → b.deferred = false → ∀ i ∈ ([.gate r sense, .steer r sense] : List Instr),
       exec i s = .next (s.taken.freezeFiring f r.ta 0x03)))

/-- R357: PACK completes with the lanes of A and then those of B narrowed to half their width: cut without SAT, clamped under
SAT to the range that S selects. -/
def Obligations.Pack : Prop :=
  ∀ (s : State) (f : Firing) (r : Route) (w : Lane) (sg : Bool), s.Fires f r.ta → f.Agree → w ≠ .w8 →
    let h := w.bits / 2
    let lo : Int := if sg then -(2 ^ (h - 1)) else 0
    let hi : Int := if sg then 2 ^ (h - 1) - 1 else 2 ^ h - 1
    (∃ d : Beat, exec (.pack r w sg false) s = .next (s.yields f r .int ⟨d, 0⟩) ∧
      ∀ m j, m < f.subs → j < w.count →
        lane h (subWord d m) j = lane w.bits (f.tokA.sub m) j % 2 ^ h ∧
        lane h (subWord d m) (w.count + j) = lane w.bits (f.tokB.sub m) j % 2 ^ h) ∧
    (∃ d : Data, exec (.pack r w sg true) s = .next (s.yields f r .int d) ∧
      (∀ m j, m < f.subs → j < w.count →
        laneInt h sg (lane h (subWord d.data m) j) = max lo (min hi (laneInt w.bits sg (lane w.bits (f.tokA.sub m) j))) ∧
        laneInt h sg (lane h (subWord d.data m) (w.count + j)) =
          max lo (min hi (laneInt w.bits sg (lane w.bits (f.tokB.sub m) j)))) ∧
      ((∃ m j, m < f.subs ∧ j < w.count ∧
          (laneInt w.bits sg (lane w.bits (f.tokA.sub m) j) < lo ∨ hi < laneInt w.bits sg (lane w.bits (f.tokA.sub m) j) ∨
           laneInt w.bits sg (lane w.bits (f.tokB.sub m) j) < lo ∨ hi < laneInt w.bits sg (lane w.bits (f.tokB.sub m) j))) →
        d.flags = fSAT))

/-! ## Keys and system reads -/

/-- R333: KMERGE of two beats sends the eight keys as two beats: the keys of A and B and no others, and where each
list is in the order that DESC selects, all eight in that order. A 64-bit token on either side raises FMTMIS. R334:
KSEL of a beat and a 64-bit key sends the five keys, the first four as a beat and the last as a 64-bit token; where
the list is in the order that DESC selects, the five are too. Any other shape raises FMTMIS. R300, R301: BKT of a
64-bit key completes with the count of the first NS splitters below the key, as an index or one-hot in lanes of 16 or
8 bits; a beat on A raises FMTMIS. -/
def Obligations.Keys : Prop :=
  (∀ (s : State) (f : Firing) (r : Route) (key32 desc sg : Bool), s.Fires f r.ta →
     let ord := fun x y : Word =>
       if desc then keyInt key32 sg x ≥ keyInt key32 sg y else keyInt key32 sg x ≤ keyInt key32 sg y
     (f.tokA.isBeat = true → f.tokB.isBeat = true →
       ∃ (m : List Word) (x y : Token), exec (.kmerge r key32 desc sg) s = .next (s.taken.emitOut f r ⟨[x], [y], 0⟩) ∧
         m.Perm (f.tokA.words ++ f.tokB.words) ∧
         (∀ j, j < 4 → m[j]? = some (subWord x.data j) ∧ m[4 + j]? = some (subWord y.data j)) ∧
         (f.tokA.words.Pairwise ord → f.tokB.words.Pairwise ord → m.Pairwise ord) ∧
         x.fmt = .int ∧ y.fmt = .int ∧ x.slot = f.key r.ta ∧ y.slot = f.key r.ta) ∧
     ((f.tokA.isBeat = false ∨ f.tokB.isBeat = false) →
       exec (.kmerge r key32 desc sg) s = .next (s.taken.freezeFiring f r.ta 0x03))) ∧
  (∀ (s : State) (f : Firing) (r : Route) (key32 desc sg : Bool), s.Fires f r.ta →
     let ord := fun x y : Word =>
       if desc then keyInt key32 sg x ≥ keyInt key32 sg y else keyInt key32 sg x ≤ keyInt key32 sg y
     (f.tokA.isBeat = true → f.tokB.isWide = false →
       ∃ (m : List Word) (x y : Token), exec (.ksel r key32 desc sg) s = .next (s.taken.emitOut f r ⟨[x], [y], 0⟩) ∧
         m.Perm (f.tokA.words ++ [f.tokB.w64]) ∧ m.length = 5 ∧
         (∀ j, j < 4 → m[j]? = some (subWord x.data j)) ∧ m[4]? = some y.w64 ∧ y.isBeat = false ∧
         (f.tokA.words.Pairwise ord → m.Pairwise ord)) ∧
     ((f.tokA.isBeat = false ∨ f.tokB.isWide = true) →
       exec (.ksel r key32 desc sg) s = .next (s.taken.freezeFiring f r.ta 0x03))) ∧
  (∀ (s : State) (f : Firing) (r : Route2) (mode : BktMode) (sg : Bool) (ns : BitVec 5), s.Fires f .stickb →
     let n := ((f.b.flatMap Token.words).take (ns.toNat + 1)).countP
       (fun x => decide (laneInt 64 sg x.toNat < laneInt 64 sg f.tokA.w64.toNat))
     (f.tokA.isBeat = false → exec (.bkt r mode sg ns) s = .next (s.yields f (r.full .stickb) .int
       ⟨beatOf (BitVec.ofNat 64 (match mode with | .index => n | .onehot16 => 2 ^ (16 * n) | .onehot8 => 2 ^ (8 * n))), 0⟩)) ∧
     (f.tokA.isBeat = true → exec (.bkt r mode sg ns) s = .next (s.taken.freezeFiring f .stickb 0x03)))

/-- R28, R328, R370, R371: SREG completes with the value that Table 2.2 gives for its selector, each of the fifteen, and, with
MD = 1, marks the flags it returned for clearing; GTIME completes with the die's copy of the time base; PMARK writes its trace
record and passes A on. -/
def Obligations.SystemReads : Prop :=
  ∀ (s : State) (f : Firing) (r : Route1) (valid : Bool) (code : BitVec 16), s.Fires f .unary →
    let c := f.site.core
    let k := f.key .unary
    let th := s.thread c k
    let Reads (sel : SReg) (v : Word) : Prop := exec (.sreg r false sel) s = .next (s.taken.sends f r.full v) ∧
      exec (.sreg r true sel) s = .next ((s.taken.updExec c k
        (fun e => { e with cleared := e.cleared ||| v.extractLsb' 0 6 })).sends f r.full v)
    let num (n : Nat) : Word := BitVec.ofNat 64 n
    (Reads .tid (num th.tid) ∧ Reads .lane (num (th.tid % 32)) ∧ Reads .hand (num (th.tid / 32)) ∧ Reads .core (num c) ∧
      Reads .die (num (c / 32)) ∧ Reads .node (num (c / 64)) ∧ Reads .time (num (s.now c)) ∧
      Reads .fpflags (th.fpflags.zeroExtend 64) ∧
      Reads .fault (num (bitsOf (s.regN .fstRecbase) 56 27 * 2 ^ 27 + (32 * c + (k - 4096)) * 16384)) ∧
      (∀ e, th.exec = some e → Reads .block (num e.block)) ∧
      (∀ t g, s.team? th.team = some t → s.gridOfTeam th.team = some g → Reads .team (num t.index) ∧
        Reads .teamhi (num (g.teams - 1)) ∧ Reads .cluster (num (t.rank * 2 ^ 32 + t.index / (g.cw * g.ch)))) ∧
      (∀ h, th.helper = some h → Reads .hidx (num h.index) ∧ Reads .rcr (num h.recruiter)) ∧
      (th.helper = none → Reads .hidx (BitVec.allOnes 64) ∧ Reads .rcr (BitVec.allOnes 64))) ∧
    exec (.gtime r valid) s = .next (s.taken.sends f r.full (BitVec.ofNat 64 (s.now c))) ∧
    exec (.pmark r code) s = .next ((s.taken.trace f r.d0 { f.resultTag .unary f.tokA.fmt with
      data := beatOf (BitVec.ofNat 64 (code.toNat * 2 ^ 48 + f.tokA.w64.toNat % 2 ^ 48)) }).sendOut f r.full
        (Out.data (f.resultTag .unary f.tokA.fmt) ⟨f.tokA.data, 0⟩))

/-! ## Floating point -/

/-- R103, R316, R317, R318, R320: FADD, FSUB, FMUL, FMIN, FMAX and FFMA complete elementwise with the sum, difference,
product, minimumNumber, maximumNumber and fused product and sum of the decoded elements, each rounded once by itself in the
slot's mode; FABS clears and FNEG inverts the sign bit and raises no flag. -/
def Obligations.FloatArithmetic : Prop :=
  ∀ (s : State) (f : Firing) (r : Route) (r1 : Route1) (e : FElem) (c : FloatCtl) (q : BitVec 2),
    let t := FloatFmt.ofTag (felemFmt e)
    let a := fun m j => elem (felemFmt e) (f.tokA.sub m) j
    let b := fun m j => elem (felemFmt e) (f.tokB.sub m) j
    let z := fun m j => elem (felemFmt e) (f.tokQ.sub m) j
    let k := fun m j => roundCtl c (s.stochCtx f r) ((felemFmt e).count * m + j)
    (s.Fires f r.ta → f.Agree →
      s.Elems f r (.fadd r e c) e (fun m j => fvAdd t (k m j) (t.value (a m j)) (t.value (b m j))) ∧
      s.Elems f r (.fsub r e c) e (fun m j => fvAdd t (k m j) (t.value (a m j)) (t.value (b m j)).negate) ∧
      s.Elems f r (.fmul r e c) e (fun m j => fvMul t (k m j) (t.value (a m j)) (t.value (b m j))) ∧
      s.Elems f r (.fmin r e) e (fun m j => fMinMax t false (a m j) (b m j)) ∧
      s.Elems f r (.fmax r e) e (fun m j => fMinMax t true (a m j) (b m j))) ∧
    (s.Fires f r.ta → f.Agree3 →
      s.Elems f r (.ffma r e q) e (fun m j => fvFma t {} (t.value (a m j)) (t.value (b m j)) (t.value (z m j)))) ∧
    (s.Fires f .unary →
      s.Elems f r1.full (.fabs r1 e) e (fun m j => (a m j % 2 ^ (felemBits e - 1), 0)) ∧
      s.Elems f r1.full (.fneg r1 e) e (fun m j => ((a m j + 2 ^ (felemBits e - 1)) % 2 ^ felemBits e, 0)))

/-- R319: the eight functions of one operand complete elementwise, each element with the function's value rounded once
in the slot's mode. R321, R322, R323: FSCALE completes with each element times the power of two that B's lane gives,
FCMP with a lane of all ones or zero for each comparison, FCLASS with one bit in each lane. -/
def Obligations.FloatFunctions : Prop :=
  (∀ (s : State) (f : Firing) (r : Route1) (e : FElem) (c : FloatCtl), s.Fires f .unary →
     let op := fun (g : FFun) (m j : Nat) => fFunction g (FloatFmt.ofTag (felemFmt e))
       (roundCtl c (s.stochCtx f r.full) ((felemFmt e).count * m + j)) (elem (felemFmt e) (f.tokA.sub m) j)
     s.Elems f r.full (.frcp r e c) e (op .rcp) ∧ s.Elems f r.full (.frsq r e c) e (op .rsq) ∧
     s.Elems f r.full (.fsqrt r e c) e (op .sqrt) ∧ s.Elems f r.full (.fexp2 r e c) e (op .exp2) ∧
     s.Elems f r.full (.flog2 r e c) e (op .log2) ∧ s.Elems f r.full (.fsin r e c) e (op .sin) ∧
     s.Elems f r.full (.fcos r e c) e (op .cos) ∧ s.Elems f r.full (.ftanh r e c) e (op .tanh)) ∧
  (∀ (s : State) (f : Firing) (r : Route) (r1 : Route1) (e : FElem) (x : FClassElem) (c : FloatCtl) (k : Cond),
     let t := FloatFmt.ofTag (felemFmt e)
     let w := maskLane (felemFmt e)
     (s.Fires f r.ta → f.Agree →
       s.Elems f r (.fscale r e c) e (fun m j => fScaleBy t (roundCtl c (s.stochCtx f r) ((felemFmt e).count * m + j))
         (elem (felemFmt e) (f.tokA.sub m) j) (laneInt (felemBits e) true (lane (felemBits e) (f.tokB.sub m) j))) ∧
       ∃ d : Data, exec (.fcmp r e k) s = .next (s.yields f r .int d) ∧
         ∀ m j, m < f.subs → j < (felemFmt e).count → lane w (subWord d.data m) j =
           if (fCompare t k (elem (felemFmt e) (f.tokA.sub m) j) (elem (felemFmt e) (f.tokB.sub m) j)).1 then 2 ^ w - 1 else 0) ∧
     (s.Fires f .unary →
       ∃ d : Data, exec (.fclass r1 x) s = .next (s.yields f r1.full .int d) ∧
         ∀ m j, m < f.subs → j < (fclassFmt x).count → lane (maskLane (fclassFmt x)) (subWord d.data m) j =
           2 ^ fClass (.ofTag (fclassFmt x)) (elem (fclassFmt x) (f.tokA.sub m) j)))

/-- R115, R324, R325, R359, R360: FSUM completes with the Tree of its elements widened to F32, FDOT with the exact sum of products
rounded once, RED with the Tree of its elements under its operation, and SCAN with the tokens of A whose elements are the
inclusive prefix; a shape that the entry does not take raises FMTMIS. (FDOT of F32, which the loader refuses, runs by the same
formula: log entry 31.) -/
def Obligations.Reductions : Prop :=
  ∀ (s : State) (f : Firing) (r : Route) (e : FElem4) (c : FloatCtl) (md : BitVec 2) (l : RedLit), s.Fires f r.ta →
    let out (o : Out) : State := (s.taken.addFlags f.site.core (f.key r.ta) o.flags).emitOut f r o
    let one (fmt : Fmt) (x : Nat) (fl : FpFlags) : State := out (.both
      [{ f.resultTag r.ta fmt with data := beatOf (BitVec.ofNat 64 x), burst := .none }] fl)
    let w := (Lane.ofCode md).bits
    let shaped (toks : List Token) : Prop := toks.map (·.burst) = f.a.map (·.burst)
    ((r.ta = .unary → f.tokA.isBeat = false) →
      (let v := floatTree (addF32 (roundCtl c {} 0)) (widenF32 (felem4Fmt e) (tokenElems (felem4Fmt e) 64 f.a))
       exec (.fsum r e c) s = .next (one .f32 v.1 v.2)) ∧
      (l.op.isInt = true →
        let x := (treeFold (redInt l.op l.signed w) 256 (tokenElems .int w f.a)).getD 0
        exec (.red r md l) s = .next (one .int (if l.signed then intToLane 64 (laneInt w true x) else x) 0)) ∧
      (l.op.isInt = false →
        let v := floatTree (redFloat l) (widenF32 (redFmt md) (tokenElems (redFmt md) 64 f.a))
        exec (.red r md l) s = .next (one .f32 v.1 v.2))) ∧
    ((r.ta = .unary ∧ f.a = [f.tokA] ∧ f.tokA.isBeat = false) ∨ r.ta = .whole →
      (l.op.isInt = true → ∃ toks : List Token, exec (.scan r md l) s = .next (out (.both toks)) ∧ shaped toks ∧
        tokenElems .int w toks = scanList (redInt l.op l.signed w) (tokenElems .int w f.a)) ∧
      (l.op.isInt = false → f.a ≠ [] → ∃ (toks : List Token) (x : Nat) (xs : List Nat) (fl : FpFlags),
        tokenElems .f32 64 f.a = x :: xs ∧ exec (.scan r md l) s = .next (out (.both toks fl)) ∧ shaped toks ∧
        tokenElems .f32 64 toks = (scanList (fun y z : Nat × FpFlags => redFloat l y.1 z.1)
          (canonElem fmtF32 x :: xs.map (fun y => (y, 0)))).map (fun y => y.1 % 2 ^ 32))) ∧
    (f.tokA.isBeat = f.tokB.isBeat →
      let g := FloatFmt.ofTag (felem4Fmt e)
      let v := dotRound fmtF32 (roundCtl c {} 0)
        (List.zip ((tokenElems (felem4Fmt e) 64 [f.tokA]).map g.value) ((tokenElems (felem4Fmt e) 64 [f.tokB]).map g.value)) none
      exec (.fdot r e c) s = .next (one .f32 v.1 v.2)) ∧
    (r.ta = .unary → f.tokA.isBeat = true →
      ∀ i ∈ ([.fsum r e c, .red r md l, .scan r md l] : List Instr), exec i s = .next (s.taken.freezeFiring f r.ta 0x03)) ∧
    (f.tokA.isBeat ≠ f.tokB.isBeat → exec (.fdot r e c) s = .next (s.taken.freezeFiring f r.ta 0x03))

/-- R113, R313, R314, R361, R362: CVT, CVTI and CVTF complete with the converted elements in their places, elementwise; QPACK
completes with the Q4 burst of its elements in blocks of 32, QUNPK with the burst of the elements of the blocks that it
selects; a count of elements that is no multiple of 32, and a block beyond the burst, raise FMTMIS. (A literal that the loader
refuses runs by the same formulas: log entry 31.) -/
def Obligations.Conversions : Prop :=
  ∀ (s : State) (f : Firing) (r : Route) (r1 : Route1) (l : CvtLit) (e : FElem) (ty : BitVec 2) (rnd : Rnd) (n : BitVec 2)
    (j0 : BitVec 4),
    (s.Fires f r.ta → f.Agree →
      (∃ d : Data, exec (.cvt r l) s = .next (s.yields f r l.dst d) ∧
        ∀ m, m < f.subs → subWord d.data m = (cvtWords l (s.stochCtx f r) m (f.tokA.sub m) (f.tokB.sub m)).1) ∧
      (∃ d : Data, exec (.cvti r l) s = .next (s.yields f r .int d) ∧
        ∀ m, m < f.subs → subWord d.data m = (cvtiWords l (s.stochCtx f r) m (f.tokA.sub m) (f.tokB.sub m)).1) ∧
      (∃ d : Data, exec (.cvtf r l) s = .next (s.yields f r l.dst d) ∧
        ∀ m, m < f.subs → subWord d.data m = (cvtfWords l (s.stochCtx f r) m (f.tokA.sub m) (f.tokB.sub m)).1)) ∧
    (s.Fires f r.ta → ¬f.Agree → ∀ i ∈ ([.cvt r l, .cvti r l, .cvtf r l] : List Instr),
      exec i s = .next (s.taken.freezeFiring f r.ta 0x03)) ∧
    (s.Fires f .whole →
      let rt : Route := ⟨r1.sa, .zero, r1.d0, r1.d1, .whole⟩
      let xs := tokenElems (felemFmt e) 64 f.a
      (xs.length ≠ 0 → xs.length % 32 = 0 → ∃ fl,
        exec (.qpack r1 e ty rnd) s = .next ((s.taken.addFlags f.site.core (f.key .whole) fl).emitOut f rt (.both
          (q4Burst (f.resultTag .whole .q4) ((regroup 32 (xs.length / 32) xs).map (fun x =>
            let b := q4Block (.ofTag (felemFmt e)) ty.toNat rnd (s.stochCtx f rt) x
            (b.1, b.2.1)))) fl))) ∧
      (xs.length = 0 ∨ xs.length % 32 ≠ 0 → exec (.qpack r1 e ty rnd) s = .next (s.taken.freezeFiring f .whole 0x03)) ∧
      (j0.toNat + n.toNat + 1 ≤ (q4Blocks f.a).length → ∃ beats : List Beat,
        let toks := burstTokens (f.resultTag .whole (felemFmt e)) beats
        exec (.qunpk r1 e n j0) s = .next (s.taken.emitOut f rt (.both toks)) ∧
        beats.length = (n.toNat + 1) * 32 / (4 * (felemFmt e).count) ∧
        tokenElems (felemFmt e) 64 toks = (((q4Blocks f.a).drop j0.toNat).take (n.toNat + 1)).flatMap (fun b =>
          b.2.map (fun y => q4Decode (.ofTag (felemFmt e)) b.1 y % 2 ^ felemBits e))) ∧
      ((q4Blocks f.a).length < j0.toNat + n.toNat + 1 →
        exec (.qunpk r1 e n j0) s = .next (s.taken.freezeFiring f .whole 0x03)))

/-! ## Memory instructions -/

/-- R136, R153, R39, R295, R339 to R343, R368: a load (LD, LDB, LDF, LDS, LL) or an atomic (ATOM, CAS, SC) whose checks pass
becomes an outstanding access with its operands and its physical bytes and waits for its reply. No token leaves, no register of
a thread changes, and no byte of memory, where no line of the access has an outside home. An atomic that names control space
raises PROT, which its execution records, and sends deferred tokens with the code. -/
def Obligations.LoadsAndAtomicsBegin : Prop :=
  ∀ (s : State) (f : Firing) (r : Route) (n : Size) (rfmt : Fmt) (sext acq split : Bool) (nb tmo : BitVec 4) (aop : AtomOp)
    (q : BitVec 2) (ord : Ord3) (m : MemCtl) (l : List Range) (bytes : List (Nat × Nat)),
    let loads : List Instr := [.ld r n rfmt sext acq m, .ldb r nb split acq m, .ldf r n tmo rfmt sext acq m, .lds r rfmt acq m,
      .ll r n rfmt sext acq m]
    let atomics : List Instr := [.atom r n aop ord m, .cas r n q ord m, .sc r n acq m]
    let c := f.site.core
    let k := f.key r.ta
    s.Fires f r.ta → ∀ i ∈ loads ++ atomics, memRanges i f = some l → s.checkAll c k l = .ok bytes →
      (i ∈ loads ∨ s.inControl bytes = false → ∃ (t : State) (x : Access), exec i s = .next t ∧
        KMap.look (t.core c).accesses s.nextId = some x ∧ x.thread = k ∧ x.site = f.site ∧ x.bits = f.bits ∧ x.a = f.a ∧ x.b = f.b ∧
        x.q = f.q ∧ x.stage = .reply ∧ x.bytes = bytes ∧ t.regs = s.regs ∧ (∀ c u, t.tile c u = s.tile c u) ∧
        (∀ c k, (t.thread c k).regs = (s.thread c k).regs) ∧
        ((∀ b ∈ bytes, s.isOuter (lineOf b.1) = false) → ∀ a, t.byte a = s.byte a)) ∧
      (i ∈ atomics → s.inControl bytes = true → ∀ e, s.exec? c k = some e →
        ∃ (u : State) (e' : Exec) (x y : Token) (z : FaultSeen), exec i s = .next (u.emitOut f r ⟨[x], [y], 0⟩) ∧
          x.deferred = true ∧ x.w64 = 0x11 ∧ y.deferred = true ∧ y.w64 = 0x11 ∧ u.exec? c k = some e' ∧ e'.faults = e.faults ++ [z] ∧
          z.code = 0x11 ∧ e'.buffered = e.buffered ∧ ∀ a, u.byte a = s.byte a)

/-- R36, R167, R364, R365, R366, R367, R307: a store (ST, STB, STF, STS, SETE, CLRP) whose checks pass is one more entry of
the store buffer of its execution, with its release scope and the bytes that it will write, and sends its completion token,
INT zero. Nothing is written to memory before the release. -/
def Obligations.StoresBuffered : Prop :=
  ∀ (s : State) (f : Firing) (i : Instr) (r r1 : Route) (r2 : Route2) (n : Size) (ds : BitVec 3) (split copy rel : Bool)
    (m : MemCtl) (l : List Range) (bytes : List (Nat × Nat)) (e : Exec),
    i ∈ ([.st r1 n rel m, .stb r2 ds split rel m, .stf r1 n rel m, .sts r2 rel m, .sete r1 n rel m, .clrp r1 copy rel m] :
      List Instr) →
    i.route? = some r → s.Fires f r.ta → memRanges i f = some l →
    s.checkAll f.site.core (f.key r.ta) l = .ok bytes → s.exec? f.site.core (f.key r.ta) = some e →
    ∃ (u : State) (e' : Exec) (b : Buffered) (d : Token), exec i s = .next (u.emitOut f r (.both [d])) ∧
      u.exec? f.site.core (f.key r.ta) = some e' ∧ e'.buffered = e.buffered ++ [b] ∧ b.rel = releaseOf i ∧ b.deps = f.deps ∧
      (let pas := bytes.map (·.1)
       match i with
       | .st _ n _ _ => b.kind = .bytes [List.zip pas (leBytes (sizeBytes n) f.tokB.w64.toNat)] false []
       | .stf _ n _ _ => b.kind = .bytes [List.zip pas (leBytes (sizeBytes n) f.tokB.w64.toNat)] true []
       | .sete _ _ _ _ => b.kind = .empties (dedupNat (pas.map (· / 4)))
       | .clrp _ false _ _ => b.kind = .fill (lineOf (pas.getD 0 0)) f.tokB.w64
       | .clrp _ true _ _ => b.kind = .lineCopy (lineOf (pas.getD 0 0)) (lineOf (pas.getD 64 0))
       | i => b.kind = .bytes (storeUnits i f pas) false (wholeLines i pas)) ∧
      d.w64 = 0 ∧ d.fmt = .int ∧ d.pred = true ∧ d.deferred = false ∧ u.regs = s.regs ∧ (∀ c t, u.tile c t = s.tile c t) ∧
      (∀ c k, (u.thread c k).regs = (s.thread c k).regs) ∧ (∀ a, u.byte a = s.byte a)

/-- R315, R135, R149: a memory access whose operands have not the shape of its entry raises FMTMIS and freezes the tile; one
that fails a check performs nothing, is recorded in its execution, and sends deferred tokens with the fault's code; one
whose translation is not at hand waits for a walk. -/
def Obligations.AccessesThatWaitOrFault : Prop :=
  ∀ (s : State) (f : Firing) (i : Instr) (r : Route), isAccess i = true → i.route? = some r → s.Fires f r.ta →
    (memRanges i f = none → ∃ u : State, exec i s = .next (u.freezeFiring f r.ta 0x03) ∧
      (∀ c t, u.tile c t = s.tile c t) ∧ (∀ a, u.byte a = s.byte a)) ∧
    (∀ l code va e, memRanges i f = some l → s.checkAll f.site.core (f.key r.ta) l = .fault code va →
      s.exec? f.site.core (f.key r.ta) = some e →
      ∃ (u : State) (e' : Exec) (x y : Token) (z : FaultSeen), exec i s = .next (u.emitOut f r ⟨[x], [y], 0⟩) ∧
        x.deferred = true ∧ y.deferred = true ∧ x.w64 = BitVec.ofNat 64 code ∧ y.w64 = BitVec.ofNat 64 code ∧
        u.exec? f.site.core (f.key r.ta) = some e' ∧ e'.faults = e.faults ++ [z] ∧ z.code = code ∧
        z.addr = BitVec.ofNat 64 va ∧ e'.buffered = e.buffered ∧ (∀ a, u.byte a = s.byte a) ∧
        ∀ c k, (u.thread c k).regs = (s.thread c k).regs) ∧
    (∀ l va, memRanges i f = some l → s.checkAll f.site.core (f.key r.ta) l = .miss va →
      ∃ (t : State) (x : Access), exec i s = .next t ∧ KMap.look (t.core f.site.core).accesses s.nextId = some x ∧
        x.stage = .walk (bitsOf va 56 16) ∧ x.a = f.a ∧ x.b = f.b ∧ (∀ c u, t.tile c u = s.tile c u) ∧
        (∀ a, t.byte a = s.byte a) ∧ ∃ w ∈ t.mmu.walks, w.pd = nodeOf f.site.core ∧
          w.aspace = s.aspaceOf f.site.core (f.key r.ta) ∧ w.page = bitsOf va 56 16 ∧ (f.site.core, s.nextId) ∈ w.waiters)

/-- R136, R147: the checks on a range within one page go in the order of Table 7.3: alignment first, then the upper address
bits, the translation, the permissions with PV and MODE, and MODE 0b10 for a write; local HBM that passes gives the physical
bytes in order. -/
def Obligations.OrderOfChecks : Prop :=
  ∀ (s : State) (c k va n align : Nat) (write : Bool), va < 2 ^ 64 → 0 < n → va % 65536 + n ≤ 65536 →
    let check := s.checkAll c k [⟨va, n, align, write⟩]
    let canon := bitsOf va 63 57 = if bitOf va 56 then 127 else 0
    (va % align ≠ 0 → check = .fault 0x14 va) ∧
    (va % align = 0 → ¬canon → check = .fault 0x11 va) ∧
    (va % align = 0 → canon → s.tlbLook c (s.aspaceOf c k) va = none → check = .miss va) ∧
    (∀ size leaf, va % align = 0 → canon → s.tlbLook c (s.aspaceOf c k) va = some (size, leaf) →
      let pa := bitsOf leaf 51 8 * 256 + bitsOf va 56 0 % size
      let permitted := bitOf leaf (if write then 5 else 4) = true ∧ (bitOf leaf 6 = true → k ≥ 4096) ∧ bitsOf leaf 63 62 ≠ 3
      (¬permitted → check = .fault 0x11 va) ∧
      (permitted → s.target pa = .reserved → check = .fault 0x11 va) ∧
      (permitted → s.target pa = .hbm → write = true → bitsOf leaf 63 62 = 2 → check = .fault 0x13 va) ∧
      (permitted → s.target pa = .hbm → (∀ j, j < n → s.target (pa + j) = .hbm) → (write = true → bitsOf leaf 63 62 ≠ 2) →
        check = .ok ((List.range n).map (fun j => (pa + j, bitsOf leaf 63 62)))))

/-- R133, R134, R345, R346, R347: LIN, LINX within the thread's registers and LINT within the team become outstanding reads
of the live-value store; LOUT and LOUTX within the thread's registers are one more entry of the execution's buffer, the
register written nowhere yet. LINX and LOUTX beyond the thread's registers raise PROT. -/
def Obligations.LiveValues : Prop :=
  ∀ (s : State) (f : Firing) (r1 : Route1) (r : Route) (fm : LinFmt) (l : LvsLit),
    let c := f.site.core
    let Reads := fun (i : Instr) => ∃ (t : State) (x : Access), exec i s = .next t ∧
      KMap.look (t.core c).accesses s.nextId = some x ∧ x.thread = f.key .unary ∧ x.stage = .reply ∧ x.a = f.a ∧
      x.bits = f.bits ∧ (∀ d j, (t.thread d j).regs = (s.thread d j).regs) ∧ (∀ d u, t.tile d u = s.tile d u) ∧ t.mem = s.mem
    let Writes := fun (i : Instr) (r : Route) (n : Nat) => ∀ e, s.exec? c (f.key r.ta) = some e →
      ∃ (u : State) (e' : Exec) (b : Buffered) (d : Token), exec i s = .next (u.emitOut f r (.both [d])) ∧
        u.exec? c (f.key r.ta) = some e' ∧ e'.buffered = e.buffered ++ [b] ∧ b.kind = .reg n f.tokA.w64 ∧ d.w64 = 0 ∧
        d.fmt = .int ∧ (∀ d j, (u.thread d j).regs = (s.thread d j).regs) ∧ u.mem = s.mem
    let Protects := fun (i : Instr) (r : Route) => ∀ e, s.exec? c (f.key r.ta) = some e →
      ∃ (u : State) (e' : Exec) (x y : Token) (z : FaultSeen), exec i s = .next (u.emitOut f r ⟨[x], [y], 0⟩) ∧
        x.deferred = true ∧ x.w64 = 0x11 ∧ y.deferred = true ∧ y.w64 = 0x11 ∧
        u.exec? c (f.key r.ta) = some e' ∧ e'.faults = e.faults ++ [z] ∧ z.code = 0x11 ∧ e'.buffered = e.buffered
    (s.Fires f .unary →
      Reads (.lin r1 fm l) ∧
      (isWord f.a = true → l.reg.toNat + addrOf f.a < s.regCount c (f.key .unary) → Reads (.linx r1 fm l)) ∧
      (isWord f.a = true → s.regCount c (f.key .unary) ≤ l.reg.toNat + addrOf f.a → Protects (.linx r1 fm l) r1.full) ∧
      ((s.lintTarget c (f.key .unary) (addrOf f.a)).isSome = true → Reads (.lint r1 fm l)) ∧
      (s.lintTarget c (f.key .unary) (addrOf f.a) = none → Protects (.lint r1 fm l) r1.full) ∧
      (isWord f.a = true → Writes (.lout r1 l) r1.full l.reg.toNat)) ∧
    (s.Fires f r.ta → isWord f.a = true → isWord f.b = true →
      (l.reg.toNat + addrOf f.b < s.regCount c (f.key r.ta) → Writes (.loutx r l) r (l.reg.toNat + addrOf f.b)) ∧
      (s.regCount c (f.key r.ta) ≤ l.reg.toNat + addrOf f.b → Protects (.loutx r l) r))

/-- R135, R161, R369, R374: PREF of a 64-bit address never faults, and sends its completion token, behind a walk where its
translation is not at hand; a fence sends its
completion token, and as ACQ or FULL beyond TEAM leaves the core no word that is not registered, as REL or FULL orders the
writes after it; WAITT of a promise of a port die that exists passes the promise on and waits at commit. -/
def Obligations.PrefetchFenceWait : Prop :=
  ∀ (s : State) (f : Firing) (r : Route) (level : PrefLevel) (m : MemCtl) (kind : FenceKind) (sc : Scope) (sa : Src) (d0 : Dst)
    (reg : BitVec 7),
    let c := f.site.core
    (s.Fires f r.ta → isWord f.a = true → ∀ l, memRanges (.pref r level m) f = some l →
      let check := s.checkAll c (f.key r.ta) l
      let kept (u : State) : Prop := (∀ c t, u.tile c t = s.tile c t) ∧ (∀ c, (u.core c).faultNet = (s.core c).faultNet) ∧
        (∀ c k, (u.thread c k).regs = (s.thread c k).regs)
      ((∀ va, check ≠ .miss va) → ∃ (u : State) (d : Token), exec (.pref r level m) s = .next (u.emitOut f r (.both [d])) ∧
        d.w64 = 0 ∧ d.fmt = .int ∧ d.deferred = false ∧ d.pred = true ∧ kept u) ∧
      (∀ va, check = .miss va → ∃ (u : State) (x : Access), exec (.pref r level m) s = .next u ∧
        KMap.look (u.core c).accesses s.nextId = some x ∧ x.stage = .walk (bitsOf va 56 16) ∧ kept u)) ∧
    (s.Fires f r.ta → ∃ (u : State) (d : Token), exec (.fence r kind sc) s = .next (u.emitOut f r (.both [d])) ∧
      d.w64 = 0 ∧ d.fmt = .int ∧ d.deferred = false ∧ d.pred = true ∧ u.mem = s.mem ∧
      (kind ≠ .rel → sc ≠ .team → ∀ w ∈ KMap.lookD u.coh.l1 c [], w.2.registered = true ∧ w ∈ KMap.lookD s.coh.l1 c []) ∧
      (∀ e, kind ≠ .acq → s.exec? c (f.key r.ta) = some e → ∃ e', u.exec? c (f.key r.ta) = some e' ∧
        e'.fences = e.fences ++ [(s.accessNo f r, sc)])) ∧
    (s.Fires f .unary → isWord f.a = true → bitsOf f.tokA.w64.toNat 63 62 < s.portDies →
      ∀ e, s.exec? c (f.key .unary) = some e → ∃ (u : State) (e' : Exec) (t : Token),
        exec (.waitt sa d0 reg) s = .next (u.emitOut f (waittRoute sa d0) ⟨[t], [], 0⟩) ∧ t.w64 = f.tokA.w64 ∧ t.fmt = f.tokA.fmt ∧
        u.exec? c (f.key .unary) = some e' ∧ e'.acts = e.acts ++ [.waitt f.tokA.w64 reg.toNat] ∧ u.mem = s.mem)

/-- R309, R310, R311: COPY of a descriptor, as the thread reads it, that passes its checks takes the engine of its port die with the
least horizon,
queues the command there, raises the engine's horizon to the promise and its count by one, hands the command over at
commit, and returns the promise: engine, count and time. -/
def Obligations.CopyCommand : Prop :=
  ∀ (s : State) (f : Firing) (r1 : Route1) (m : MemCtl) (pa e : Nat) (x : Exec),
    let c := f.site.core
    let k := f.key .unary
    let pd := nodeOf c
    let asp := s.aspaceOf c k
    let d := copyDesc ((s.numbered f r1.full (.copy r1 m)).descBytes c k (s.accessNo f r1.full) f.deps pa).1
    let p := max (s.now c) (s.engine pd e).busy + (if s.copyLocal pd asp (isHandlerKey k) d then 400 else 2000) +
      ceilDiv (d.len * d.rows) 128
    s.Fires f .unary → isWord f.a = true → addrOf f.a % 64 = 0 →
    s.deviceXlat pd asp (addrOf f.a) 64 false (isHandlerKey k) = .ok pa → s.copyEngine pd = some e →
    s.outsidePoison (lineOf pa) = false →
    d.malformed = false → s.copyFault pd asp (isHandlerKey k) d = none → s.exec? c k = some x →
    ∃ (u : State) (t y : Token) (cmd : CopyCmd) (x' : Exec),
      exec (.copy r1 m) s = .next (u.emitOut f r1.full ⟨[t], [y], 0⟩) ∧
      (u.engine pd e).queue = (s.engine pd e).queue ++ [cmd] ∧ (u.engine pd e).count = (s.engine pd e).count + 1 ∧
      (u.engine pd e).busy = p ∧ cmd.due = p ∧ cmd.src.toNat = d.src % 2 ^ 64 ∧ cmd.dst.toNat = d.dst % 2 ^ 64 ∧ cmd.rows = d.rows ∧
      cmd.len = d.len ∧ cmd.handed = false ∧ u.exec? c k = some x' ∧ x'.acts = x.acts ++ [.copy pd e (s.engine pd e).count] ∧
      t.w64 = BitVec.ofNat 64 (pd * 2 ^ 62 + e * 2 ^ 58 + (s.engine pd e).count % 1024 * 2 ^ 48 + p % 2 ^ 48) ∧ y.w64 = 0 ∧
      u.mem = s.mem

/-- R153, R339 to R343, R345: the reply of a load (LD, LDB, LDF, LDS, LL) whose execution has written nothing binds the bytes that
it finds in memory, sends what they stand for with the completion token and ends the access; LL leaves the thread with a
reservation of the granule. LD extends their little-endian number by zeros or by its sign and sends it in the format that RFMT
names. The reply of LIN sends the register. -/
def Obligations.LoadReplies : Prop :=
  ∀ (s : State) (c key : Nat) (x : Access) (e : Exec), KMap.look (s.core c).accesses key = some x → x.site.core = c →
    x.stage = .reply → s.exec? c x.thread = some e → e.buffered = [] →
    (∀ (r : Route) (n : Size) (rfmt : Fmt) (sext acq : Bool) (m : MemCtl) (data : List Byte),
      decode x.bits.word x.bits.lit = .ok (.ld r n rfmt sext acq m) → s.replyReady x (.ld r n rfmt sext acq m) r = true →
      x.bytes.length = sizeBytes n → s.peekBytes c (.ld r n rfmt sext acq m) x.bytes = some data →
      (∀ j < x.bytes.length, s.byteBad c (.ld r n rfmt sext acq m) x.bytes j = false) → s.inControl x.bytes = false →
      s.bytesGone x.bytes = false →
      ∃ (u : State) (t d : Token),
        exec (.memoryReply c key) s = .next ((u.emit c x.site.tile x.site.handler r.d0 ([t].filter (emitted r.ta))).emit
          c x.site.tile x.site.handler r.d1 [d]) ∧
        t.fmt = rfmt ∧ t.w64 = BitVec.ofInt 64 (laneInt (8 * sizeBytes n) sext (leNat data)) ∧ d.w64 = 0 ∧ d.fmt = .int ∧
        KMap.look (u.core c).accesses key = none ∧ ∀ k, (u.thread c k).regs = (s.thread c k).regs) ∧
    (∀ (i : Instr) (r : Route) (data : List Byte), isLoad i = true → i.route? = some r →
      decode x.bits.word x.bits.lit = .ok i → s.replyReady x i r = true → s.inControl x.bytes = false → s.bytesGone x.bytes = false →
      let q := s.readState c i x.bytes
      let f := x.firing
      q.peekBytes c i x.bytes = some data → (∀ j < x.bytes.length, q.byteBad c i x.bytes j = false) →
      ∃ u : State, KMap.look (u.core c).accesses key = none ∧ (∀ k, (u.thread c k).regs = (s.thread c k).regs) ∧
        (∀ n rf sx ac m, i = .ll r n rf sx ac m →
          (u.thread c x.thread).resv.map (·.granule) = some (lineOf ((x.bytes.map (·.1)).getD 0 0))) ∧
        exec (.memoryReply c key) s = .next (match loadTokens i (valueTag i f r x.id) data with
          | [t] => (u.emit c f.site.tile f.site.handler r.d0 ([t].filter (emitted r.ta))).emit c f.site.tile f.site.handler r.d1
              [doneToken f r x.id]
          | l => u.emitWithTail c f.site.tile f.site.handler r.d0 r.d1 l (doneToken f r x.id))) ∧
    (∀ (r : Route1) (fm : LinFmt) (l : LvsLit), decode x.bits.word x.bits.lit = .ok (.lin r fm l) →
      s.replyReady x (.lin r fm l) r.full = true → l.reg.toNat ∉ (s.thread c x.thread).poison →
      ∃ (u : State) (t : Token), exec (.memoryReply c key) s = .next (u.emitOut x.firing r.full (.both [t])) ∧
        t.w64 = (s.thread c x.thread).reg l.reg.toNat ∧ t.fmt = (match fm with | .int => .int | .f32 => .f32 | .bf16 => .bf16) ∧
        KMap.look (u.core c).accesses key = none ∧ u.mem = s.mem)

/-- R39, R163, R296, R297, R368: an atomic on stage memory whose execution holds nothing else performs in one step: the
bytes at its address are replaced (ATOM by the operation on them and B, CAS by the third operand where they equal B, SC by B
where the thread holds the reservation of the granule, which ends), and it returns the number that they held, SC 1 or 0. -/
def Obligations.AtomicReplies : Prop :=
  ∀ (s : State) (c key a mode : Nat) (x : Access) (e : Exec) (i : Instr) (r : Route) (n : Size),
    KMap.look (s.core c).accesses key = some x → x.site.core = c → x.stage = .reply → s.exec? c x.thread = some e →
    e.buffered = [] → e.bad = [] → e.relDone = true → a % sizeBytes n = 0 →
    x.bytes = (List.range (sizeBytes n)).map (fun j => (a + j, mode)) →
    (∃ p off, s.target a = .stage p off) → (∃ p off, s.target (64 * (a / 64)) = .stage p off) → s.poisoned a = false →
    ((∃ op ord m, i = .atom r n op ord m) ∨ (∃ q ord m, i = .cas r n q ord m) ∨ ∃ rel m, i = .sc r n rel m) →
    decode x.bits.word x.bits.lit = .ok i → s.replyReady x i r = true → s.atomicRelease c x.thread i x.firing e = none →
    s.bytesGone x.bytes = false → s.behindHeld c x.thread [lineOf a] s.coh.held = false →
    let old := s.load a (sizeBytes n)
    let b := x.firing.tokB.w64.toNat % 2 ^ (8 * sizeBytes n)
    ∃ (u : State) (t d : Token) (new : Nat), exec (.memoryReply c key) s = .next (u.emitOut x.firing r ⟨[t], [d], 0⟩) ∧
      u.load a (sizeBytes n) = new % 2 ^ (8 * sizeBytes n) ∧
      (∀ p, p < a ∨ a + sizeBytes n ≤ p → u.byte p = s.byte p) ∧ d.w64 = 0 ∧
      (∀ op ord m, i = .atom r n op ord m → new = (atomNew op (8 * sizeBytes n) old b).1 ∧ t.w64 = BitVec.ofNat 64 old) ∧
      (∀ q ord m, i = .cas r n q ord m →
        new = (if old = b then x.firing.tokQ.w64.toNat else old) ∧ t.w64 = BitVec.ofNat 64 old) ∧
      (∀ rel m, i = .sc r n rel m → (u.thread c x.thread).resv = none ∧
        (((s.thread c x.thread).resv.map (·.granule) = some (a / 64)) → new = b ∧ t.w64 = 1) ∧
        (((s.thread c x.thread).resv.map (·.granule) ≠ some (a / 64)) → new = old ∧ t.w64 = 0))

/-! ## Control -/

/-- R32, R34, R302, R303, R331, R332: an exit reaches the Dealer as one more exit of its execution, true exactly where it is
no bubble and not deferred, with the next block that it names: BR by the predicate of B, JMP by its literal, JMPI by A, EXIT
none. No register of a thread and no tile changes. JMPI of a beat raises FMTMIS. -/
def Obligations.Exits : Prop :=
  ∀ (s : State) (f : Firing) (sa sb : Src) (tblk fblk blk : BitVec 8) (e : Exec), s.firing = some f →
    let c := f.site.core
    let Sees := fun (i : Instr) (ta : TagAction) (next : Option Word) => s.exec? c (f.key ta) = some e →
      ∃ (t : State) (e' : Exec) (x : ExitSeen), exec i s = .next t ∧ t.exec? c (f.key ta) = some e' ∧
        e'.exits = e.exits ++ [x] ∧ x.site = f.site ∧ x.bits = f.bits ∧ x.deferred = f.deferred ∧
        x.fired = (!f.deferred && f.pred ta) ∧ x.next = next ∧ e'.buffered = e.buffered ∧ e'.acts = e.acts ∧
        (∀ d u, t.tile d u = s.tile d u) ∧ ∀ d k, (t.thread d k).regs = (s.thread d k).regs
    Sees (.br sa sb tblk fblk) .preda
      (some (if predOf f.b then BitVec.ofNat 64 tblk.toNat else BitVec.ofNat 64 fblk.toNat)) ∧
    Sees (.jmp sa blk) .unary (some (BitVec.ofNat 64 blk.toNat)) ∧
    Sees (.exit sa) .unary none ∧
    (isWord f.a = true → Sees (.jmpi sa) .unary (some f.tokA.w64)) ∧
    (s.Fires f .unary → isWord f.a = false → exec (.jmpi sa) s = .next (s.taken.freezeFiring f .unary 0x03))

/-- R37, R228, R230, R232, R239, R298, R305, R306, R373, R376, R378, R379: what these instructions do, they do at commit: the
firing records the action in its execution. BAR and BARA send the phase that they read, the others pass A on; TRPREP sends
nothing. Those that take a 64-bit operand raise FMTMIS on a beat. -/
def Obligations.CommitActions : Prop :=
  ∀ (s : State) (f : Firing) (r : Route1) (n : BitVec 5) (abs float : Bool) (mreg : BitVec 7) (scope : InvScope)
    (action : BitVec 4) (blk : BitVec 8) (sa sb : Src) (ta : TagAction) (kind : RepairKind),
    let p := s.phaseFor f.site.core (f.key .unary) n.toNat
    let a := f.tokA.w64
    (s.Fires f .unary →
      exec (.bara r n) s = .next ((s.taken.atCommit f .unary (.arrive n.toNat p)).sends f r.full (p.zeroExtend 64)) ∧
      exec (.bar r n) s = .next (((s.taken.atCommit f .unary (.arrive n.toNat p)).atCommit f .unary (.barWait n.toNat p)).sends
        f r.full (p.zeroExtend 64)) ∧
      (∀ (i : Instr) (act : CommitAct), (i, act) ∈ ([
          (.barw r n, .barWait n.toNat (a.extractLsb' 0 32)), (.yield r, .yield), (.hjoin r mreg, .hjoin mreg.toNat),
          (.hend r, .hend), (.eosi r, .eosi (a.toNat % 4))] : List (Instr × CommitAct)) →
        exec i s = .next ((s.taken.atCommit f .unary act).passes f r.full)) ∧
      (∀ (i : Instr) (act : CommitAct), (i, act) ∈ ([
          (.sleep r abs, .sleep a abs), (.hred r float, .hred a), (.lyrel r, .lyrel a), (.cfginv r scope, .cfginv a scope),
          (.trret r action blk, .trret action.toNat blk.toNat a)] : List (Instr × CommitAct)) →
        (isWord f.a = true → exec i s = .next ((s.taken.atCommit f .unary act).passes f r.full)) ∧
        (isWord f.a = false → exec i s = .next (s.taken.freezeFiring f .unary 0x03)))) ∧
    (s.Fires f ta →
      (isWord f.b = true → exec (.trprep sa sb ta kind) s = .next ((s.taken.atCommit f ta
        (.trprep kind f.tokA.data f.tokB.w64)).trace f .discard f.tokA)) ∧
      (isWord f.b = false → exec (.trprep sa sb ta kind) s = .next (s.taken.freezeFiring f ta 0x03)))

/-- R225, R226, R227, R238: RECRUIT of a thread that may recruit grants the least of A, 64 and the free slots of its team: it
reserves the slots, nearest first, opens the recruitment with its register, fold and block, records its commit and sends the
number; where that is zero it sends zero alone. WAITLY of a layer of the grid's context records its wait and passes A on; one
that names no layer, or finds no room, raises LAYER. -/
def Obligations.RecruitAndLayer : Prop :=
  ∀ (s : State) (f : Firing) (r : Route2) (r1 : Route1) (reg : BitVec 7) (fop : FoldOp) (hblk : BitVec 8) (t : Team),
    let c := f.site.core
    (s.Fires f .plain → f.key .plain < 4096 →
      let th := s.thread c (f.key .plain)
      s.team? th.team = some t →
      let free := if s.recruitRefused c (f.key .plain) t then [] else s.freeSlots c t (th.tid / 32)
      let g := min (min f.tokA.w64.toNat 64) free.length
      (g = 0 → exec (.recruit r reg fop hblk) s = .next (s.taken.sends f (r.full .plain) 0)) ∧
      (g ≠ 0 → ∃ (u : State) (t' : Team) (x : Recruitment),
        exec (.recruit r reg fop hblk) s = .next ((u.atCommit f .plain .recruit).sends f (r.full .plain) (BitVec.ofNat 64 g)) ∧
        u.team? th.team = some t' ∧ KMap.look t'.recs th.tid = some x ∧ x.slots = free.take g ∧ x.reg = reg.toNat ∧
        x.fop = fop ∧ x.hblk = hblk.toNat ∧ x.arg = f.tokB.w64 ∧ x.opened = false ∧
        (∀ tid k, tid ∈ free.take g → t.slotOf tid = some k → (u.thread c k).reserved = true) ∧ u.mem = s.mem)) ∧
    (s.Fires f .unary → isWord f.a = true →
      (s.waitlyCause c (f.key .unary) f.tokA.w64 = none →
        exec (.waitly r1) s = .next ((s.taken.atCommit f .unary (.waitly f.tokA.w64)).passes f r1.full)) ∧
      (∀ cause e, s.waitlyCause c (f.key .unary) f.tokA.w64 = some cause → s.exec? c (f.key .unary) = some e →
        ∃ (u : State) (e' : Exec) (x : Token) (z : FaultSeen), exec (.waitly r1) s = .next (u.emitOut f r1.full (.both [x])) ∧
          x.deferred = true ∧ x.w64 = 0x22 ∧ u.exec? c (f.key .unary) = some e' ∧ e'.faults = e.faults ++ [z] ∧ z.code = 0x22 ∧
          e'.acts = e.acts))

/-! ## Matrix sections -/

/-- R119, R120, R121: MMARM of a count arms its tile with the literal's shape, the plane's mode, and count times window rows
still to step, and sends nothing yet; of zero it arms nothing and sends zero. MMA enters its row at the tail of the row queue
under the window row of its thread and the pass counted so far. -/
def Obligations.MatrixSections : Prop :=
  ∀ (s : State) (f : Firing) (r : Route1) (clr : Bool) (ncol : BitVec 4) (wrows rowbase : BitVec 8) (sa sb : Src) (mode sub : BitVec 2),
    let c := f.site.core
    let t := f.site.tile
    let m := (s.tile c t).mx
    let n := min f.tokA.w64.toNat (2 ^ 20)
    (s.Fires f .unary → n = 0 → exec (.mmarm r clr ncol wrows rowbase) s = .next (s.taken.sends f r.full 0)) ∧
    (s.Fires f .unary → n ≠ 0 → ∃ u : State, exec (.mmarm r clr ncol wrows rowbase) s = .next u ∧
      let x := (u.tile c t).mx
      x.armed = true ∧ x.clr = clr ∧ x.ncol = ncol.toNat + 1 ∧ x.wrows = wrows.toNat + 1 ∧ x.rowbase = rowbase.toNat ∧
      x.rem = n * (wrows.toNat + 1) ∧ x.total = n * (wrows.toNat + 1) ∧
      (x.mode, x.subs) = planeMma (s.ctx c t f.site.handler).plane ∧ x.acc = m.acc ∧ x.cols = m.cols ∧ x.rows = m.rows ∧
      (u.tile c t).pendingEmits = (s.tile c t).pendingEmits ∧ (u.tile c t).main = (s.tile c t).main) ∧
    (s.firing = some f → ∃ (u : State) (row : MatRow), exec (.mma sa sb mode sub) s = .next u ∧
      let x := (u.tile c t).mx
      let p := (s.thread c f.tokA.slot).tid % max m.wrows 1
      x.rows = m.rows ++ [row] ∧ row.beats = f.a ∧ row.window = p ∧ row.pass = KMap.lookD m.pass p 0 ∧
      KMap.lookD x.pass p 0 = KMap.lookD m.pass p 0 + 1 ∧ x.acc = m.acc ∧ x.rem = m.rem ∧
      (u.tile c t).main = (s.tile c t).main)

/-- R124, R125, R126: ACCRD sends the sixteen entries of its row as a burst of four beats, deferred where the row is, or under
bit 8 the flag word, which bit 9 clears; ACCCLR zeroes its rows and no others; ACCDR sends the rows that its request names
on the route that the steering token chooses. -/
def Obligations.AccumulatorRequests : Prop :=
  ∀ (s : State) (f : Firing) (r1 : Route1) (r : Route) (clrf : Bool) (nrow : BitVec 8) (r3 r2 : Dst),
    let c := f.site.core
    let t := f.site.tile
    let m := (s.tile c t).mx
    let req := f.tokA.w64.toNat
    (s.Fires f .unary → bitOf req 8 = false → ∃ toks : List Token,
      exec (.accrd r1) s = .next (s.taken.emitOut f r1.full (.both toks)) ∧ toks.length = 4 ∧
      (∀ j, j < 16 → ∃ x, toks[j / 4]? = some x ∧ subWord x.data (j % 4) = BitVec.ofNat 64 (m.entry (req % 256) j) ∧
        x.deferred = m.defs.contains (req % 256) ∧ x.fmt = .a36)) ∧
    (s.Fires f .unary → bitOf req 8 = true → ∃ u : State,
      exec (.accrd r1) s = .next (u.sends f r1.full (m.flags.zeroExtend 64)) ∧
      (u.tile c t).mx = { m with flags := if bitOf req 9 then 0 else m.flags }) ∧
    (s.Fires f .unary → ∃ u : State, exec (.accclr r1 clrf nrow) s = .next (u.passes f r1.full) ∧
      let x := (u.tile c t).mx
      (∀ row j, j < 16 → x.entry row j = if req % 256 ≤ row ∧ row ≤ req % 256 + nrow.toNat then 0 else m.entry row j) ∧
      (∀ row, row ∈ x.defs ↔ row ∈ m.defs ∧ ¬(req % 256 ≤ row ∧ row ≤ req % 256 + nrow.toNat)) ∧
      x.flags = (if clrf then 0 else m.flags)) ∧
    (s.Fires f r.ta → ∃ (u : State) (toks : List Token),
      let d := match f.tokB.w64.toNat % 4 with | 0 => r.d0 | 1 => r.d1 | 2 => r2 | _ => r3
      let first := req % 256
      let rows := (List.range (req / 256 % 256 + 1)).filter (fun j => first + j ≤ 255)
      exec (.accdr r .a36 r3 r2) s = .next (u.emit c t f.site.handler d toks) ∧ toks.length = 4 * rows.length ∧
      ∀ j, j < 16 * rows.length → ∃ x, toks[j / 4]? = some x ∧
        subWord x.data (j % 4) = BitVec.ofNat 64 (m.entry (first + j / 16) (j % 16)) ∧
        x.deferred = m.defs.contains (first + j / 16))

/-! ## Tiles and the Dealer -/

/-- R55, R57, R60, R72: a token that has reached the head of a port of a tile that is not frozen leaves the port. An
EOS is counted and takes no entry; an operand of a slot that pairs by tag takes one operand entry with its side and
tag; a token on a channel that no slot names raises STRAY with the token held. A tile whose active plane is frozen
takes nothing. R73, R121 to R123: a tile whose EOS is complete, that is drained and whose accesses are back makes its
shadow plane active with an empty store and empty queues, unless operands are left, which raises STRAY and keeps the
plane; a frozen tile keeps its plane. A row step takes the head row from the queue, writes the entries of its
accumulator row only, counts REM down, and clears ARMED with the last. -/
def Obligations.TilesStep : Prop :=
  (∀ (s : State) (c t p slot : Nat) (h : Bool) (a : Arrival) (side : Side) (i : Instr) (r : Route) (b : SlotBits),
     let x := s.ctx c t h
     (x.port p).head? = some a → x.headReady p (s.cycle c) = true →
     ((s.tile c t).frozen.isSome = true → h = false → exec (.tokenArrive c t p h) s = .next s) ∧
     ((s.tile c t).frozen = none ∨ h = true →
       (a.tok.eos = true → ∃ u, exec (.tokenArrive c t p h) s = .next u ∧ (u.ctx c t h).port p = (x.port p).drop 1 ∧
         KMap.lookD (u.ctx c t h).eos p 0 = KMap.lookD x.eos p 0 + 1 ∧ (u.ctx c t h).store = x.store) ∧
       (a.tok.eos = false → portSlot x.plane p = some (slot, side, i, r) →
         KMap.look x.plane.slots slot = some b → slotInstr b = some i → i.route? = some r → r.ta = .plain → collects i r side = false →
         s.fmtOk c i side a.tok = true → x.used < s.storeCap c t x → ∃ u e, exec (.tokenArrive c t p h) s = .next u ∧
         (u.ctx c t h).port p = (x.port p).drop 1 ∧ (u.ctx c t h).store = x.store ++ [e] ∧ e.slot = slot ∧ e.side = side ∧
         e.kind = .operand ∧ e.tok = a.tok) ∧
       (a.tok.eos = false → portSlot x.plane p = none → p < 8 → h = false → ∃ u, exec (.tokenArrive c t p h) s = .next u ∧
         (u.tile c t).frozen.map (fun z => (z.code, z.token, z.channel)) = some (0x30, some a.tok, p) ∧
         (u.ctx c t h).port p = (x.port p).drop 1 ∧ (u.ctx c t h).store = x.store))) ∧
  (∀ (s : State) (c t : Nat) (p : Plane) (row : MatRow) (rest : List MatRow),
     let tl := s.tile c t
     let m := tl.mx
     (tl.shadow = some p → tl.frozen = none → tl.main.eosComplete = true → s.drained c t = true →
       s.accessesBack c t = true → s.keepsForPreempt c t = false →
       (tl.main.leftovers = [] → (planeHasMma tl.main.plane = true → m.armed = false) →
         ∃ u, exec (.tileEosSwap c t false) s = .next u ∧ (u.tile c t).main.plane = p ∧ (u.tile c t).main.store = [] ∧
           (u.tile c t).main.queues = [] ∧ (u.tile c t).shadow = none) ∧
       (tl.main.leftovers ≠ [] → ∃ u, exec (.tileEosSwap c t false) s = .next u ∧
         (u.tile c t).frozen.map (fun z => (z.code, z.atEos)) = some (0x30, true) ∧ (u.tile c t).main = tl.main ∧ (u.tile c t).shadow = some p)) ∧
     (tl.frozen.isSome = true → exec (.tileEosSwap c t false) s = .next s) ∧
     (s.canRowStep c t = true → m.rows = row :: rest → 1 < m.rem → ∃ u, exec (.rowStep c t) s = .next u ∧
       let x := (u.tile c t).mx
       x.rows = rest ∧ x.rem = m.rem - 1 ∧ x.armed = m.armed ∧ (u.tile c t).main = tl.main ∧
       (m.ncol ≤ 16 → ∀ q j, j < 16 → q ≠ m.rowbase + row.window → x.entry q j = m.entry q j)) ∧
     (s.canRowStep c t = true → m.rows = row :: rest → m.rem = 1 → ∃ u, exec (.rowStep c t) s = .next u ∧
       (u.tile c t).mx.armed = false ∧ (u.tile c t).mx.rem = 0 ∧ (u.tile c t).mx.rows = rest))

/-- R172, R175, R177, R179, R182: what the Dealer does for a region. A choice takes, of the waiting blocks with class-0 threads,
one on which the most of them wait, or leaves the region idle where nothing waits; a plane load gives the first tile its
shadow plane; an injection begins an execution of the chosen block with an entry token on every entry channel; the end of a
batch sends EOS on the entry channels and drops the batch; and exactly the waiting class-2 threads whose period has passed
become due. -/
def Obligations.DealerRounds : Prop :=
  ∀ (s : State) (c r : Nat) (y : Candidate) (b : Batch) (blk : Block) (k : Nat) (l : PlaneLoad) (t : Nat) (rest : List Nat),
    let g := s.region c r
    (s.regionFrozen c r = false → s.mayChoose c r = true →
      (s.candidates c r = [] → ∃ u, exec (.chooseBlock c r) s = .next u ∧ (u.region c r).idle = true ∧
        (u.region c r).batch = none) ∧
      (y ∈ s.candidates c r → s.ofClass c 0 y ≠ [] → ∃ u x, exec (.chooseBlock c r) s = .next u ∧ x ∈ s.candidates c r ∧
        (∀ z ∈ s.candidates c r, (s.ofClass c 0 z).length ≤ (s.ofClass c 0 x).length) ∧
        (u.region c r).batch.map (fun p => (p.image, p.block, p.class0)) = some (x.image, x.block, true) ∧
        (∀ p ∈ (u.region c r).batch, ∀ j, (j ∈ p.batch → j ∈ x.threads) ∧ (j ∈ s.ofClass c 0 x → j ∈ p.batch)) ∧
        (u.region c r).window = s.regN .dlrInjwin)) ∧
    (g.loads = [l] → s.loadReady c g.loads 0 = true → l.first = true →
      l.tiles = t :: rest → (s.tile c t).shadow = none → g.hplane = none → g.displaced = [] →
      ∃ u, exec (.shadowPlaneLoad c r) s = .next u ∧
        (u.tile c t).shadow = some (KMap.lookD (l.planes.getD (s.blockPlanes c r l.image l.block)) t {}) ∧
        (∀ q, q ≠ t → u.tile c q = s.tile c q)) ∧
    (g.batch = some b → s.nextToInject c g = some k → s.blockOn (dieOf c) b.image b.block = some blk →
      (∀ n, g.lastInj = some n → n + blk.ii ≤ s.cycle c) →
      b.injected < 4096 → g.held = false → (s.distOf (dieOf c)).preempting = false → s.rpl.draining = false →
      s.injectOk c r b.image b.block blk = true → g.hplane = none → ∃ u, exec (.injectThread c r) s = .next u ∧
        (u.thread c k).st = .running ∧ (u.thread c k).next = b.block ∧
        (u.thread c k).exec = some { image := b.image, block := b.block, region := r } ∧
        (u.core c).bufUsed = (s.core c).bufUsed + blk.budget ∧
        (∀ e ∈ s.blockEntries c r b.image b.block, ∃ a ∈ (u.ctx c e.1 false).port e.2, a.tok = entryToken c k) ∧
        (u.region c r).batch = some { b with batch := b.batch.filter (· ≠ k), injected := b.injected + 1 } ∧
        (u.region c r).lastInj = some (s.cycle c)) ∧
    (g.batch = some b → s.batchEnds c r = true → g.held = false → ∃ u, exec (.batchEndEos c r) s = .next u ∧
        (u.region c r).batch = none ∧ (u.region c r).entry = [] ∧
        (∀ e ∈ s.blockEntries c r b.image b.block, ∃ a ∈ (u.ctx c e.1 false).port e.2, a.tok = eosToken (dieOf c))) ∧
    (∃ u, exec (.spinDue c) s = .next u ∧ ∀ j, let x := s.thread c j
      u.thread c j = if x.st = .waiting ∧ x.cls = 2 ∧ x.due = none ∧ x.lastInj + s.regN .dlrSpinPeriod / 2 ≤ s.now c then
          { x with due := some (x.lastInj + s.regN .dlrSpinPeriod / 2) } else x)

/-! ## Threads at the Dealer -/

/-- R33, R34, R37, R38, R39, R107, R197: while an access of the thread is outstanding, its exit waits. A block with one true
exit to a block that it may enter commits: its entries are released, its flags join those of the thread, and the thread stands
before the next block without an execution. A block with a deferrable fault is abandoned: memory and the thread's registers
and flags stay, and the thread is TRAPPED at the same block. R187: a barrier that has waited for BAR_WDT ticks raises one HANG
event, number 0x80. -/
def Obligations.ExitsAtDealer : Prop :=
  ∀ (s : State) (c k : Nat) (e : Exec) (x : ExitSeen) (w : Word) (t n : Nat) (tm : Team), s.exec? c k = some e →
    isHandlerKey k = false →
    (s.exitReady c k = false → exec (.exitAtDealer c k) s = .next s) ∧
    (let v := s.releaseEntries c k (fun _ => true);
      s.exitReady c k = true → e.atomic = false → e.exits.filter (·.fired) = [x] → e.exits.any (·.deferred) = false →
      e.sentFault = false → e.ldfEnded = false → x.next = some w → s.nextAllowed c k e x = true → e.acts = [] →
      (v.thread c k).helper = none → (v.thread c k).st = .running → ∃ u, exec (.exitAtDealer c k) s = .next u ∧
        u.mem = v.mem ∧ (u.thread c k).exec = none ∧ (u.thread c k).next = w.toNat ∧ (u.thread c k).wait = none ∧
        (u.thread c k).regs = (v.thread c k).regs ∧ (u.thread c k).fpflags = ((v.thread c k).fpflags &&& ~~~e.cleared) ||| e.pend ∧
        (u.thread c k).st ∈ ([.running, .waiting, .parked] : List TState)) ∧
    (s.exitReady c k = true → e.atomic = false → e.sentFault = true → e.faults ≠ [] → (∀ z ∈ e.faults, z.code ≠ 0x10) →
      (s.thread c k).helper = none → ∃ u, exec (.exitAtDealer c k) s = .next u ∧
        u.mem = s.mem ∧ u.coh = s.coh ∧ (u.thread c k).exec = none ∧ (u.thread c k).next = e.block ∧ (u.thread c k).st = .trapped ∧
        (u.thread c k).regs = (s.thread c k).regs ∧ (u.thread c k).fpflags = (s.thread c k).fpflags) ∧
    (s.teams.filter (fun p => p.2.core = some c) = [(t, tm)] → s.regN .barWdt ≠ 0 → (s.barrier t n).hung = false →
      (s.barrier t n).arrived ≠ [] → s.regN .barWdt ≤ (s.barrier t n).count → ∃ u r, exec (.barrierWatchdog c n) s = .next u ∧
        (u.barrier t n).hung = true ∧ (u.barrier t n).arrived = (s.barrier t n).arrived ∧
        u.station.pending = s.station.pending ++ [r] ∧ r.code = 0x80 ∧ r.kind = 4 ∧ r.seq = s.station.seq)

/-- R164, R165, R232, R373 to R375: a sleeping thread goes on to the block that its exit named once the die's valid view has
reached its tick, and not before; WAITT then writes the status of a copy that its engine no longer holds, and traps with
PROMISE where the engine still holds it; a join writes the fold and the mask of the helpers that are done; a reservation ends
10,000 ticks after its LL, and a hold 2,000. -/
def Obligations.ThreadsLeaveWaits : Prop :=
  ∀ (s : State) (c k t reg mreg : Nat) (id : Word) (sc : Scope) (v : Resv) (tm : Team) (r : Recruitment),
    let th := s.thread c k
    let goesOn (u : State) (d : Thread) : Prop := (u.thread c k).exec = none ∧ (u.thread c k).next = th.next ∧
      (u.thread c k).wait = none ∧ (u.thread c k).regs = d.regs ∧ (u.thread c k).fpflags = d.fpflags ∧ u.mem = s.mem ∧
      (u.thread c k).st ∈ ([.running, .waiting, .parked] : List TState)
    (th.st = .sleeping → th.wait = some (.tick t) ∨ th.wait = some (.retryAt t) →
      (s.viewReached c t = true → ∃ u, exec (.sleepWake c k) s = .next u ∧ goesOn u th) ∧
      (s.viewReached c t = false → exec (.sleepWake c k) s = .next s)) ∧
    (th.st = .sleeping → th.wait = some (.promise t id reg sc) →
      (s.viewReached c t = false → exec (.waittWake c k) s = .next s) ∧
      (let e := s.engine (bitsOf id.toNat 63 62) (bitsOf id.toNat 61 58);
        let cnt := bitsOf id.toNat 57 48;
        s.viewReached c t = true →
        (e.queue.any (fun q => q.count % 1024 = cnt) = false → ∃ u, exec (.waittWake c k) s = .next u ∧
          goesOn u (th.setReg reg (BitVec.ofNat 64 (KMap.lookD e.status cnt 2)))) ∧
        (e.queue.any (fun q => q.count % 1024 = cnt) = true → ∃ u x, exec (.waittWake c k) s = .next u ∧
          (u.thread c k).st = .trapped ∧ (u.core c).faultNet = (s.core c).faultNet ++ [x] ∧ x.code = 0x20 ∧ x.kind = .wait ∧
          x.waitOf = th.wait ∧ (u.thread c k).regs = th.regs))) ∧
    (th.st = .joining → th.wait = some (.joinOf mreg) → s.team? th.team = some tm → KMap.look tm.recs th.tid = some r →
      (s.joinable c tm r = false → exec (.join c k) s = .next s) ∧
      (s.joinable c tm r = true → ∃ u d, exec (.join c k) s = .next u ∧ goesOn u d ∧
        d.regs = ((th.setReg r.reg (r.fold (th.reg r.reg)).1).setReg mreg
          (BitVec.ofNat 64 (r.done.foldl (fun acc i => acc + 2 ^ i) 0))).regs ∧
        d.fpflags = th.fpflags ||| (r.fold (th.reg r.reg)).2)) ∧
    (th.resv = some v →
      (v.tick + 10000 ≤ s.now c → ∃ u, exec (.reservationAgeExpiry c k) s = .next u ∧ (u.thread c k).resv = none ∧
        (u.thread c k).hold = none ∧ (u.thread c k).regs = th.regs ∧ u.mem = s.mem) ∧
      (s.now c < v.tick + 10000 → exec (.reservationAgeExpiry c k) s = .next s)) ∧
    (th.hold = some v →
      (v.tick + 2000 ≤ s.now c → ∃ u : State, exec (.holdExpiry c k) s = .next u.flushHeld ∧ (u.thread c k).hold = none ∧
        (u.thread c k).resv = th.resv ∧ (u.thread c k).regs = th.regs ∧ u.mem = s.mem) ∧
      (s.now c < v.tick + 2000 → exec (.holdExpiry c k) s = .next s))

/-- R91, R146, R149, R168, R169, R312, R342, R375: a walk waits for the coherent copy of an entry that is not at hand; one that
ends leaves the walkers, and every access that waited for it is checked again, or is to raise XLATE where the walk found no
leaf. An LDF whose time has passed leaves the core and raises
LDFTO, 0x21. An engine carries out the first command handed to it, and a command without a flag then leaves the queue with its
status 0, or 1 where a unit failed. An invalidation of device scope takes every plane of its images from every core's
configuration cache, one of core scope from its own core's. -/
def Obligations.Completions : Prop :=
  ∀ (s : State) (c key t pd en : Nat) (w : Walk) (x : Access) (i : Instr) (r : Route) (q : CopyCmd) (v : CfgInv) (rest : List CfgInv),
    (s.mmu.walks.find? (fun y => y.id = w.id) = some w → s.walking w = true →
      let wait := s.walkWait w.pd w.aspace (w.page * 65536) w.root
      (∀ line, wait = some line → exec (.translationWalk w.id) s = .next (s.readRequest line)) ∧
      (wait = none → ∃ u, exec (.translationWalk w.id) s = .next u ∧
        u.mem = s.mem ∧ u.mmu.walks = s.mmu.walks.filter (fun y => y.id ≠ w.id) ∧
        ∀ p ∈ w.waiters, ∀ a, KMap.look (s.core p.1).accesses p.2 = some a → ∃ b, KMap.look (u.core p.1).accesses p.2 = some b ∧
          ((s.walk w.pd w.aspace (w.page * 65536) w.root).2.isSome = true → b.stage = .recheck) ∧
          ((s.walk w.pd w.aspace (w.page * 65536) w.root).2 = none → ∃ va, b.stage = .xlate va))) ∧
    (KMap.look (s.core c).accesses key = some x → decode x.bits.word x.bits.lit = .ok i → i.route? = some r → x.deadline = some t →
      (t ≤ s.now c → s.canSendBoth c x.site.tile x.site.handler r.d0 r.d1 = true → ∃ u : State, exec (.ldfTimeout c key) s =
        .next (u.accessFault i x.firing r x.id 0x21 (addrOf x.a)) ∧ KMap.look (u.core c).accesses key = none ∧ u.mem = s.mem ∧
        ∀ k, u.thread c k = s.thread c k) ∧
      (s.now c < t → (s.distOf (dieOf c)).preempting = false → exec (.ldfTimeout c key) s = .next s)) ∧
    ((s.engine pd en).queue.find? (fun y => y.copied && !s.copyStopped y) = none →
      (s.engine pd en).queue.find? (fun y => !y.copied) = some q →
      (q.handed = false → exec (.copyComplete pd en) s = .next s) ∧
      (q.handed = true → (s.copyPlaces pd q).all (fun y => s.readReady (lineOf y.1) && s.agentReady (lineOf y.2) none) = true →
        (s.copyData pd q).1.copyStopped q = false →
        exec (.copyComplete pd en) s = .next ((s.copyData pd q).1.copyFinish pd en q (s.copyData pd q).2))) ∧
    ((s.engine pd en).queue.find? (fun y => y.copied && !s.copyStopped y) = some q → q.flag = 0 →
      ∃ u, exec (.copyComplete pd en) s = .next u ∧ u.mem = s.mem ∧
        (u.engine pd en).queue = (s.engine pd en).queue.filter (fun y => y.count ≠ q.count) ∧
        KMap.lookD (u.engine pd en).status (q.count % 1024) 2 = (if q.failed then 1 else 0)) ∧
    (s.invals = v :: rest → ∃ u, exec .cfginvComplete s = .next u ∧ u.invals = rest ∧ u.mem = s.mem ∧
      ∀ d img, (∃ p ∈ s.images, p.1 = img ∧ p.2.aspace = v.aspace ∧ p.2.va = v.va) →
        (v.scope = .device ∨ v.scope = .die ∧ dieOf d = dieOf v.core ∨ v.scope = .core ∧ d = v.core) →
        ∀ y ∈ KMap.lookD u.cfgCache d [], y.1 ≠ img)

/-! ## Faults, handlers and resolutions -/

/-- R197, R199, R200, R203, R206: the first fault token of a core reaches the station: a freezing fault or a wait trap becomes a
trap with the next SEQ. The trap of least SEQ takes a free slot, and its record and operand list are written to the slot's
page. The trap of least SEQ that stands in a slot and can begin begins: its handler thread waits on the handler block with the
record's address in register 0; one without a handler block is raised, and its record waits for the system queue. A
record enters the ring where it is enabled and not full; a full ring sets bit 0 of FST_ERR. -/
def Obligations.TrapsReachHandlers : Prop :=
  ∀ (s : State) (c k j pa blk : Nat) (f : FaultTok) (rest : List FaultTok) (t : Trap) (r : Record) (more : List Record),
    ((s.core c).faultNet = f :: rest →
      (f.thread = none → ∃ u x, exec (.faultToken c) s = .next u ∧ (u.core c).faultNet = rest ∧
        (u.core c).traps = (s.core c).traps ++ [x] ∧ x.kind = .freezing ∧ x.tile = f.tile.getD 0 % 64 ∧
        x.record.seq = s.station.seq ∧ x.record.code = f.record.code ∧ x.record.nops = x.ops.length ∧
        u.station.seq = s.station.seq + 1 ∧ u.mem = s.mem) ∧
      (f.thread = some k → isHandlerKey k = false → f.kind = .wait → ∃ u x, exec (.faultToken c) s = .next u ∧
        (u.core c).faultNet = rest ∧ (u.core c).traps = (s.core c).traps ++ [x] ∧ x.kind = .wait ∧ x.thread = some k ∧
        x.waitOf = f.waitOf ∧ x.record.seq = s.station.seq ∧ x.record.kind = 1 ∧ x.record.code = f.record.code ∧
        u.station.seq = s.station.seq + 1 ∧ u.mem = s.mem)) ∧
    (let va := s.recordPage c j;
      let asp := s.regBits .fstHimg 0 63 56
      let x := t.withPage va
      let bytes := x.record.toBytes ++ x.ops.flatMap OpItem.toBytes
      x.record.oplist = BitVec.ofNat 64 (va + 0x40) ∧
      (s.nextTrap c = some t → s.freeHslot c = some j → s.deviceXlat (nodeOf c) asp va bytes.length true true = .ok pa →
        s.deviceReady pa bytes.length = true → ∃ u y, exec (.handlerSlotAllocate c) s = .next u ∧
          u.mem = (s.deviceWrite pa bytes).mem ∧ KMap.look (u.core c).hslots j = some y ∧ y.record = x.record ∧ y.ops = t.ops ∧
          (u.core c).traps = (s.core c).traps.erase t) ∧
      (s.nextTrap c = none ∨ s.freeHslot c = none → s.nextBegin c = some (j, t) → KMap.look (s.core c).hslots j = some t →
        (t.toSystem = false → s.handlerBlock t.record.code = some blk → ∃ u y, exec (.handlerSlotAllocate c) s = .next u ∧
          u.mem = s.mem ∧ KMap.look (u.core c).hslots j = some y ∧ y.record = t.record ∧ y.ops = t.ops ∧ y.running = true ∧
          (u.thread c (4096 + j)).st = .waiting ∧ (u.thread c (4096 + j)).next = blk ∧ (u.thread c (4096 + j)).cls = 0 ∧
          (u.thread c (4096 + j)).regs = [(0, BitVec.ofNat 64 va)]) ∧
        (t.toSystem = true ∨ s.handlerBlock t.record.code = none → ∃ u y, exec (.handlerSlotAllocate c) s = .next u ∧
          u.mem = s.mem ∧ KMap.look (u.core c).hslots j = some y ∧ y.raised = true ∧ y.record = t.record ∧
          u.station.pending = s.station.pending ++ [t.record]))) ∧
    (s.station.pending = r :: more →
      let a := s.regBits .fstQbase 0 51 12 * 4096 + 64 * (s.station.tail % s.sysQueueSize)
      let full := ringFull s.station.tail (s.regN .fstQhead) s.sysQueueSize
      (bitOf (s.regN .fstQctl) 0 = false → exec .systemQueueDeliver s = .next s) ∧
      (bitOf (s.regN .fstQctl) 0 = true → full = true → exec .systemQueueDeliver s = .next (s.setRegBit .fstErr 0 0)) ∧
      (bitOf (s.regN .fstQctl) 0 = true → full = false → s.deviceReady a 64 = true → ∃ u v, exec .systemQueueDeliver s = .next u ∧
        u.mem = (s.deviceWrite a r.toBytes).mem ∧ u.station = { s.station with pending := more, tail := s.station.tail + 1 } ∧
        u.hostOut = (s.deviceWrite a r.toBytes).hostOut ++ [.msix v]))

/-- R205, R211, R213, R214, R218: FST_PGDONE that names an outstanding page request ends that request, and any other sets bit 1
of FST_ERR. The answer of the last request that holds a hand parked ends the parking: a thread of the hand waits again on its
block, in class 1, with its registers. A hand that has been parked for the limit marks its team, with a save area, and a
write of the limit applies at once. A write of FST_HIMG installs the image that the address space maps and that passes the
checks; one that fails a check leaves no handler image and sets bit 3 of FST_ERR. -/
def Obligations.PageRequestsAndParking : Prop :=
  ∀ (s : State) (c k id t hand a : Nat) (x : Team) (since : Tick) (v : Word) (rest : List Nat) (img : Nat) (w : State),
    (s.pgOutstanding id = false → ∀ i ∈ ([.pgdoneMapped id, .pgdoneDenied id] : List Instr),
      exec i s = .next (s.setRegBit .fstErr 0 1)) ∧
    (s.pgOutstanding id = true →
      (∀ i ∈ ([.pgdoneMapped id, .pgdoneDenied id] : List Instr), ∃ u, exec i s = .next u ∧ u.mem = s.mem ∧
        u.station.requests = s.station.requests.filter (fun q => q.id ≠ id)) ∧
      (s.teams = [(t, x)] → x.core = some c → x.parks = [(hand, ⟨since, [id]⟩)] → k ∈ x.slots →
        let th := s.thread c k
        th.st = .parked → th.helper = none → th.tid / 32 = hand → th.denied = none →
        ∃ u, exec (.pgdoneMapped id) s = .next u ∧ (u.thread c k).st = .waiting ∧ (u.thread c k).next = th.next ∧
          (u.thread c k).cls = 1 ∧ (u.thread c k).regs = th.regs ∧ (u.thread c k).replay = th.replay ∧
          (u.team? t).map (·.parks) = some [])) ∧
    (s.markDue t = false → exec (.parkLimitExpiry t hand) s = .next s) ∧
    (s.team? t = some x → x.core = some c → x.mark = none → x.discard = false → x.unmarkable = false →
      s.clusterTeams t = [t] → s.freeAreas = a :: rest → (∀ j ∈ x.slots, (s.thread c j).helper = none) →
      let marked (u : State) : Prop := u.saves = s.saves ++ [a] ∧ u.mem = s.mem ∧
        u.team? t = some { x with mark := some ⟨s.now c, s.now c, s.drainBound (dieOf c), (s.distOf (dieOf c)).slow⟩, area := some a } ∧
        ∀ d j, u.thread d j = s.thread d j
      (s.markDue t = true → (KMap.look x.parks hand).isSome = true → ∃ u, exec (.parkLimitExpiry t hand) s = .next u ∧ marked u) ∧
      (s.teams = [(t, x)] → (s.setReg .dlrParklim 0 v).markDue t = true → ∃ u, exec (.dlrParklimWrite v) s = .next u ∧ marked u ∧
        u.reg .dlrParklim 0 = (s.setReg .dlrParklim 0 v).reg .dlrParklim 0)) ∧
    ((∀ p ∈ s.teams, (s.setReg .dlrParklim 0 v).markDue p.1 = false) →
      exec (.dlrParklimWrite v) s = .next (s.setReg .dlrParklim 0 v)) ∧
    (let q := s.setReg .fstHimg 0 v
      let low := bitsOf v.toNat 48 0 * 256
      let va := if bitOf low 56 then low + (2 ^ 64 - 2 ^ 57) else low
      (∀ raw, q.checkImage (bitsOf v.toNat 63 56) va .handler none = .good raw →
        q.storeImage (imageOf (bitsOf v.toNat 63 56) va raw true q.allDies q.time.ref) = some (img, w) →
        exec (.fstHimgWrite v) s = .next { w with station := { w.station with himage := some img } }) ∧
      (∀ e, q.checkImage (bitsOf v.toNat 63 56) va .handler none = .bad e → ∃ u, exec (.fstHimgWrite v) s = .next u ∧
        u.station.himage = none ∧ bitOf (u.regN .fstErr) 3 = true ∧ u.cores = s.cores))

/-- R208, R209: FST_RESOLVE of a slot that holds no raised trap sets bit 2 of FST_ERR; an action that the trap's kind does not
allow leaves it raised. An allowed one frees the slot, and does no more where the thread has left the trap meanwhile (released
or saved with its team, which is the model's reading, log entry 53): a retry puts the thread on its block again, and RETRYAT puts it to
sleep until FST_RARG, a branch puts it on the block named where it may enter it and traps with ILLOP otherwise, an exit ends
it, a resume unfreezes the tile without the set it held, and a retry puts the held token back. -/
def Obligations.Resolutions : Prop :=
  ∀ (s : State) (c k j blk : Nat) (t : Trap) (z : Freeze) (tok : Token),
    ((∀ y, KMap.look (s.core c).hslots j = some y → y.raised = false) →
      ∀ i ∈ ([.resolveRaise c j, .resolveRetry c j, .resolveRetryat c j, .resolveBranch c j blk, .resolveResume c j,
        .resolveExit c j] : List Instr), exec i s = .next (s.setRegBit .fstErr 0 2)) ∧
    (KMap.look (s.core c).hslots j = some t → t.raised = true → exec (.resolveRaise c j) s = .next s ∧
      (t.kind = .freezing → ∀ i ∈ ([.resolveRetryat c j, .resolveBranch c j blk, .resolveExit c j] : List Instr),
        exec i s = .next s) ∧
      (t.kind ≠ .freezing → exec (.resolveResume c j) s = .next s) ∧
      (t.kind ≠ .freezing → t.void = true → t.thread = some k → exec (.resolveExit c j) s =
        .next (s.updCore c (fun x => { x with hslots := KMap.del x.hslots j }))) ∧
      (t.kind ≠ .freezing → t.void = false → t.thread = some k → t.afterAtomic = false → t.repairs = [] →
        let th := s.thread c k
        let freed (u : State) : Prop := KMap.look (u.core c).hslots j = none ∧ u.mem = s.mem
        let kept (u : State) : Prop := (u.thread c k).regs = th.regs ∧ (u.thread c k).fpflags = th.fpflags
        (t.kind = .exit → ∃ u, exec (.resolveRetry c j) s = .next u ∧ freed u ∧ kept u ∧ (u.thread c k).next = th.next ∧
          (u.thread c k).st ∈ ([.waiting, .parked] : List TState)) ∧
        (t.kind = .exit → ∃ u, exec (.resolveRetryat c j) s = .next u ∧ freed u ∧ kept u ∧ (u.thread c k).next = th.next ∧
          (u.thread c k).st = .sleeping ∧ (u.thread c k).wait = some (.retryAt (s.reg .fstRarg).toNat)) ∧
        ((s.blockAllowed c k blk = true → isHandlerKey k = false → ∃ u, exec (.resolveBranch c j blk) s = .next u ∧ freed u ∧ kept u ∧
            (u.thread c k).next = blk ∧ (u.thread c k).st ∈ ([.waiting, .parked] : List TState)) ∧
          (s.blockAllowed c k blk = false → isHandlerKey k = false → ∃ u f, exec (.resolveBranch c j blk) s = .next u ∧ freed u ∧ kept u ∧
            (u.thread c k).st = .trapped ∧ (u.core c).faultNet = (s.core c).faultNet ++ [f] ∧ f.code = 0x01 ∧ f.kind = .exit)) ∧
        (th.helper = none → ∃ u, exec (.resolveExit c j) s = .next u ∧
          (u.thread c k).st ∈ ([.exited, .vacant] : List TState))) ∧
      (t.kind = .freezing → t.repairs = [] → (s.tile c t.tile).frozen = some z →
        (∃ u, exec (.resolveResume c j) s = .next u ∧ KMap.look (u.core c).hslots j = none ∧ u.mem = s.mem ∧
          (u.tile c t.tile).frozen = none ∧ (u.tile c t.tile).main = (s.tile c t.tile).main) ∧
        (z.held = none → z.token = some tok → z.channel < 12 → ∃ u, exec (.resolveRetry c j) s = .next u ∧
          KMap.look (u.core c).hslots j = none ∧ u.mem = s.mem ∧ (u.tile c t.tile).frozen = none ∧
          ((u.ctx c t.tile false).port z.channel).map (·.tok) = tok :: ((s.ctx c t.tile false).port z.channel).map (·.tok))))

/-! ## Swapping and pre-emption -/

/-- R214 to R217, R219: a marked team that has drained is saved: its threads are in its save area, its core is free of it; one
that has not drained stays. A swap that cannot drain within its bound is withdrawn and the area freed. A ready team returns
to the core chosen for it, its area free; where none has room it stays, and READMIT, 0x81, is raised, at most once per
1,000,000 ticks. -/
def Obligations.TeamsSwap : Prop :=
  ∀ (s : State) (c t : Nat) (x : Team) (g : Grid), s.team? t = some x → s.clusterTeams t = [t] →
    (x.discard = false → s.swapReady t = false → exec (.swapOut t) s = .next s) ∧
    (x.discard = false → s.swapReady t = true → x.core = some c →
      (s.saveWrites t).all (fun p => s.deviceReady p.1 p.2.length) = true → ∃ u, exec (.swapOut t) s = .next u ∧
      (u.team? t).map (fun y => (y.core, y.area, y.mark)) = some (none, x.area, none) ∧
      (u.team? t).map (·.saved) = some (x.slots.mapIdx (fun tid k => (tid, s.savedThread c k))) ∧
      (∀ k ∈ x.slots, u.thread c k = {})) ∧
    (s.withdrawDue t = false → exec (.swapWithdraw t) s = .next s) ∧
    (s.withdrawDue t = true → ∃ u, exec (.swapWithdraw t) s = .next u ∧
      u.team? t = some { x with mark := none, area := none, unmarkable := true } ∧
      (∀ a, x.area = some a → u.saves = s.saves.filter (· ≠ a)) ∧ u.mem = s.mem ∧ u.cores = s.cores) ∧
    (s.readmitReady t = false → exec (.teamReadmit t) s = .next s ∧ exec (.readmitEvent t) s = .next s) ∧
    (s.readmitReady t = true → s.grid? x.grid = some g →
      (s.readmitCores t = some [(t, c)] → ∃ u, exec (.teamReadmit t) s = .next u ∧
        (u.team? t).map (·.core) = some (some c) ∧ (∀ a, x.area = some a → u.saves = s.saves.filter (· ≠ a))) ∧
      (s.readmitCores t = none → exec (.teamReadmit t) s = .next s ∧
        ((∀ n ∈ x.readmitAt, n ≤ s.time.ref) → ∃ u r, exec (.readmitEvent t) s = .next u ∧
          u.team? t = some { x with readmitAt := some (s.time.ref + 1000000) } ∧ u.mem = s.mem ∧
          u.station.pending = s.station.pending ++ [r] ∧ r.code = 0x81 ∧ r.kind = 4) ∧
        ((∃ n ∈ x.readmitAt, s.time.ref < n) → exec (.readmitEvent t) s = .next s)))

/-- R220 to R223: a pre-emption that is not refused keeps the address of the context and the tick of the write; one that is
refused sets the refusal bit alone. When the quiescence tree reports, the die's state goes to its context and the die is
vacant. When the bound has passed, exactly the regions of the die that stand still are held. A restore takes the context that
DLR_PARG names, and is refused where there is none. -/
def Obligations.Preemption : Prop :=
  ∀ (s : State) (d : Nat) (ctx : DieContext),
    let x := s.distOf d
    (s.preemptRefused d = true → exec (.dlrPreempt d) s = .next (s.updDist d (fun x => { x with refused := true }))) ∧
    (s.preemptRefused d = false → ∃ u, exec (.dlrPreempt d) s = .next u ∧ (u.distOf d).preempting = true ∧
      (u.distOf d).refused = false ∧ (u.distOf d).parg = s.regN .dlrParg ∧ (u.distOf d).writtenAt = s.nowDie d ∧ u.mem = s.mem) ∧
    (s.preemptQuiet d = false → exec (.preemptQuiesce d) s = .next s) ∧
    (s.preemptQuiet d = true →
      (s.preemptWrites d).all (fun p => s.deviceReady p.1 p.2.length) = true →
      ∃ u, exec (.preemptQuiesce d) s = .next u ∧ (u.distOf d).preempting = false ∧
        (∃ y, KMap.look u.contexts x.parg = some y ∧ y.teams.map (·.1) = s.dieTeams d) ∧
        (∀ c ∈ coresOfDie d, (u.core c).threads = [] ∧ (u.core c).accesses = []) ∧
        (∀ t ∈ s.dieTeams d, (u.team? t).map (fun y => (y.core, y.context)) = some (none, some x.parg))) ∧
    ((x.preempting = false ∨ s.preemptQuiet d = true ∨ s.boundPast d x.writtenAt x.bound x.slowAt = false) →
      exec (.preemptBoundExpiry d) s = .next s) ∧
    (x.preempting = true → s.preemptQuiet d = false → s.boundPast d x.writtenAt x.bound x.slowAt = true →
      ∃ u, exec (.preemptBoundExpiry d) s = .next u ∧ u.mem = s.mem ∧ ∀ c r, u.region c r =
        if c ∈ coresOfDie d ∧ r ∈ s.regionsOf c ∧ s.regionStill c r = true then { s.region c r with held := true }
        else s.region c r) ∧
    (s.restoreRefused d = true → exec (.dlrRestore d) s = .next (s.updDist d (fun x => { x with refused := true }))) ∧
    (s.restoreRefused d = false → KMap.look s.contexts (s.regN .dlrParg) = some ctx → ∃ u, exec (.dlrRestore d) s = .next u ∧
      KMap.look u.contexts (s.regN .dlrParg) = none ∧ (u.distOf d).refused = false ∧ u.mem = s.mem)

/-! ## Launch -/

/-- R42, R188, R189, R191, R192, R196: a doorbell within the ring's room raises the count of accepted packets, and any other
sets the queue's bit of LQ_ERR. EN is set with the counts at zero, what was read before stays, and EN is cleared only while no
packet is left to read, none is being executed and no teardown is under way. A
teardown by drain or abort is noted, an abort marks the queue's grids aborted, and its end clears EN and advances the
generation, after an abort with the event ABORTED, 0x82. DST_MODE is refused while a grid is incomplete. A packet is read at
LQ_HEAD with the queue's generation and the seed of SRD_SEED. -/
def Obligations.LaunchQueues : Prop :=
  ∀ (s : State) (q pa g i : Nat) (v : Word) (y : Grid),
    let x := s.queue q
    let done := x.accepted ≤ x.head ∧ x.packets.all (fun p => p.2.st = .complete) = true ∧ s.queueGrids q = [] ∧ s.queueCopies q = false
    (s.lqEn q = true ∧ x.tear = 0 ∧ x.accepted < v.toNat ∧ v.toNat ≤ x.head + s.lqSize q → ∃ u, exec (.lqDoorbell q v) s = .next u ∧
      u.queue q = { x with accepted := v.toNat } ∧ u.regs = s.regs ∧ u.mem = s.mem) ∧
    (¬ (s.lqEn q = true ∧ x.tear = 0 ∧ x.accepted < v.toNat ∧ v.toNat ≤ x.head + s.lqSize q) →
      exec (.lqDoorbell q v) s = .next (s.setRegBit .lqErr 0 q)) ∧
    (s.z240 = false →
      (s.lqEn q = false → bitOf v.toNat 0 = true → ∃ u, exec (.lqEnable q v) s = .next u ∧
        u.queue q = { x with head := 0, accepted := 0, base := x.base + x.head, opened := true } ∧
        u.regs = (s.setReg .lqCtl q v).regs ∧ u.mem = s.mem) ∧
      (s.lqEn q = true → bitOf v.toNat 0 = false → x.packets.any (fun p => p.2.st = .begun) = false → x.tear = 0 → x.head = x.accepted →
        exec (.lqDisable q v) s = .next (s.setReg .lqCtl q (s.reg .lqCtl q &&& ~~~1#64))) ∧
      (s.lqEn q = true → bitOf v.toNat 0 = false → x.tear ≠ 0 ∨ x.head ≠ x.accepted →
        exec (.lqDisable q v) s = .next (s.setRegBit .lqErr 0 q))) ∧
    (∃ u, exec (.lqTearDrain q) s = .next u ∧ u.queue q = (if x.tear = 0 then { x with tear := 1 } else x) ∧ u.grids = s.grids) ∧
    (s.queueGrids q = [] → ∃ u, exec (.lqTearAbort q) s = .next u ∧ u.queue q = { x with tear := 2 } ∧ u.mem = s.mem) ∧
    (s.queueGrids q = [g] → s.grid? g = some y → y.complete = false → s.unitsLeft g = true → ∃ u, exec (.lqTearAbort q) s = .next u ∧
      u.queue q = { x with tear := 2 } ∧ (u.grid? g).map (·.aborted) = some true ∧ u.mem = s.mem) ∧
    (x.tear = 0 ∨ ¬ done → exec (.teardownComplete q) s = .next s) ∧
    (x.tear ≠ 0 → done → ∃ u, exec (.teardownComplete q) s = .next u ∧
      u.queue q = { x with tear := 0, gen := x.gen + 1, packets := [] } ∧ bitOf (u.regN .lqCtl q) 0 = false ∧ u.mem = s.mem ∧
      (x.tear = 2 → ∃ r, u.station.pending = s.station.pending ++ [r] ∧ r.code = 0x82 ∧ r.kind = 4) ∧
      (x.tear = 1 → u.station = s.station)) ∧
    (s.z240 = true → exec (.dstModeWrite v) s = .next s) ∧
    (s.z240 = false → exec (.dstModeWrite v) s = .next (if s.grids.any (fun g => !g.2.complete) then s.setRegBit .dstErr 0 0
      else s.setReg .dstMode 0 v)) ∧
    (∃ u, exec (.dstSemWrite i v) s = .next u ∧ u.reg .dstSem i = v ∧ u.queues = s.queues ∧ u.mem = s.mem) ∧
    (x.accepted ≤ x.head → exec (.packetRead q) s = .next s) ∧
    (let va := s.packetVa q x.head
      let words := (upTo 16).map (fun j => BitVec.ofNat 64 (s.outsideLoad (pa + 8 * j) 8))
      let p : Packet :=
        { index := x.head, key := x.base + x.head, va := va, words := words, gen := x.gen, seed := s.reg .srdSeed }
      let p : Packet := if p.type = 2 then { p with st := .imaged } else p
      x.head < x.accepted → s.deviceXlat 0 (s.lqAspace q) va 128 false false = .ok pa → (linesOf pa 128).all s.readReady = true →
      (linesOf pa 128).any (fun l => s.outsidePoison l || s.addrFailed (64 * l)) = false → s.packetInvalid p = false →
      ∃ u, exec (.packetRead q) s = .next u ∧ u.mem = s.mem ∧
        u.queue q = { x with head := x.head + 1, packets := KMap.put x.packets (x.base + x.head) p })

/-- R44, R46, R47, R89, R90, R92, R190, R193 to R195: a wait signal of the packet's generation that reads DONE is satisfied, one
that reads a failure satisfies a packet that runs on abort and fails any other, and one of another generation does neither. A packet
whose waits are satisfied and whose image is at hand begins its grid with its fields and every die's share; a SIGNAL packet
is complete with its signal. The next unit of a die is admitted to the core chosen, its threads WAITING on block 0 with the
parameter in register 0. A die without work asks a victim, which gives the upper half of its oldest grid's units. A grid
whose teams have retired is complete with its signal. A packet's image is taken from the store or loaded and stored, and a
dropped image that is needed is read and checked again. -/
def Obligations.GridsRun : Prop :=
  ∀ (s w : State) (q i pa d e un c gid img : Nat) (p : Packet) (g : Grid) (h : Share) (z : Image) (hd raw : List Byte),
    (s.packetToBegin q = some p → KMap.look (s.queue q).packets p.key = some p →
      (i < p.nwait → p.satisfied.contains i = false → p.failedWait = false →
        s.signalXlat (s.lqAspace q) (p.waitVa i) false = .ok pa → s.readReady (lineOf pa) = true →
        s.outsidePoison (lineOf pa) = false → s.addrFailed pa = false →
        let v := s.deviceRead pa 8
        let seen := if (s.semaphoreAt (s.lqAspace q) (p.waitVa i)).isSome = true ∧ p.seen.contains i = false then p.seen ++ [i] else p.seen
        let now (u : State) : Prop := KMap.look (u.queue q).packets p.key = some
          (if bitsOf v 63 48 ≠ p.waitGen i then { p with seen := seen }
           else if bitsOf v 47 40 = 1 ∨ (bitsOf v 47 40 ∈ [2, 3, 4] ∧ p.roa = true) then
             { p with satisfied := p.satisfied ++ [i], seen := seen }
           else if bitsOf v 47 40 ∈ [2, 3, 4] then { p with failedWait := true, seen := seen }
           else { p with seen := seen })
        ∃ u, exec (.waitSignalExamine q i) s = .next u ∧ now u ∧ u.mem = s.mem ∧ u.grids = s.grids) ∧
      ((s.queue q).tear = 0 → p.failedWait = false → p.nwait ≤ p.satisfied.length → p.ser = false →
        (p.type ≠ 2 → p.st = .imaged → p.image = some img → ∃ u y, exec (.packetBegin q) s = .next u ∧
          u.grid? s.nextId = some y ∧ y.queue = q ∧ y.packet = p.index ∧ y.gen = p.gen ∧ y.seed = p.seed ∧ y.image = img ∧
          y.aspace = s.lqAspace q ∧ y.teams = p.teams ∧ y.hands = p.hands ∧ y.param = BitVec.ofNat 64 (p.word 3) ∧ y.retired = 0 ∧
          KMap.look (u.queue q).packets p.key = some { p with st := .begun, grid := some s.nextId } ∧ u.mem = s.mem ∧
          (∀ b ∈ s.allDies, (u.distOf b).shares = (s.distOf b).shares ++ [⟨s.nextId, s.dieUnits q (p.teams / (p.cw * p.ch)) b⟩])) ∧
        (p.type = 2 → s.signalReady (s.lqAspace q) p.done = true → ∃ u, exec (.packetBegin q) s = .next u ∧
          KMap.look (u.queue q).packets p.key = some { p with st := .complete } ∧
          u.mem = (s.writeSignal (s.lqAspace q) p.done q p.gen .done).mem))) ∧
    (s.nextShare d = some (h, un) → s.grid? h.grid = some g → g.clusterSize = 1 → s.image? g.image = some z → z.dies.contains d = true →
      s.readmitFirst d = false → g.aborted = false → s.dieAdmits d = true → s.unitCores [d] g = some [c] →
      ∃ u y, exec (.teamAdmit d) s = .next u ∧ u.team? s.nextId = some y ∧ y.grid = h.grid ∧ y.index = un ∧ y.core = some c ∧
        y.hands = g.hands ∧ u.mem = s.mem ∧
        ∀ tid < 32 * g.hands, ∀ k, y.slotOf tid = some k → (u.thread c k).st = .waiting ∧ (u.thread c k).next = 0 ∧
          (u.thread c k).team = s.nextId ∧ (u.thread c k).regs = [(0, g.param)]) ∧
    (s.readReg .dstMode 0 ≠ 1 → s.dieRuns d = true → s.unitsOf d = 0 → (s.distOf d).steal = none →
      ∃ u, exec (.stealRequest d) s = .next u ∧ u.distOf d = { s.distOf d with steal := s.stealVictim d } ∧ u.mem = s.mem) ∧
    (e ≠ d → (s.distOf d).steal = some e → (s.distOf e).shares.find? (fun x => !x.units.isEmpty) = some h →
      let m := if h.units.length = 1 then 1 else h.units.length / 2
      let given := h.units.drop (h.units.length - m)
      ∃ u, exec (.stealTransfer d e) s = .next u ∧ (u.distOf d).steal = none ∧ u.mem = s.mem ∧
        (u.distOf d).shares = (s.distOf d).shares.map (fun y =>
          if y.grid = h.grid then { y with units := y.units.foldr insertUnit given } else y) ∧
        (u.distOf e).shares = (s.distOf e).shares.map (fun y =>
          if y.grid = h.grid then { y with units := y.units.take (h.units.length - m) } else y)) ∧
    (s.gridOver gid = false → exec (.gridComplete gid) s = .next s) ∧
    (s.grid? gid = some g → s.gridOver gid = true → g.aborted = false → s.signalReady g.aspace g.doneVa.toNat = true →
      ∃ u, exec (.gridComplete gid) s = .next u ∧ (u.grid? gid).map (·.complete) = some true ∧
        (∀ t ∈ u.teams, t.2.grid ≠ gid) ∧ u.mem = (s.writeSignal g.aspace g.doneVa.toNat g.queue g.gen .done).mem) ∧
    (s.packetToLoad q = none → exec (.imageLoad q) s = .next s) ∧
    (s.packetToLoad q = some p → KMap.look (s.queue q).packets p.key = some p →
      s.readImage (s.lqAspace q) (p.word 2) 256 false = .good hd →
      let found := s.findImage (s.lqAspace q) (bitsOf (p.word 2) 56 0) (BitVec.ofNat 64 (imgAt hd 8 8))
      let now (u : State) : Option Packet := KMap.look (u.queue q).packets p.key
      (found = some i → packetErr hd (.packet p.regs p.ctx) = none → ∃ u, exec (.imageLoad q) s = .next u ∧
        now u = some { p with st := .imaged, image := some i } ∧ u.mem = s.mem) ∧
      (found = none → s.checkImage (s.lqAspace q) (p.word 2) (.packet p.regs p.ctx) none = .good raw →
        s.storeImage (imageOf (s.lqAspace q) (bitsOf (p.word 2) 56 0) raw false s.allDies s.time.ref) = some (i, w) →
        exec (.imageLoad q) s = .next (w.imaged q p i))) ∧
    (s.reloadDue img = false → exec (.imageReload img) s = .next s) ∧
    (s.image? img = some z → s.reloadDue img = true → z.handler = false →
      s.checkImage z.aspace (if bitOf z.va 56 then z.va + (2 ^ 64 - 2 ^ 57) else z.va) (.packet 7 z.ctx) (some z.face) = .good raw →
      let new := imageOf z.aspace z.va raw false s.allDies s.time.ref
      (s.updImage img (fun y => { y with dies := [] })).makeRoom new.size (s.images.length + 1) = some w →
      exec (.imageReload img) s = .next (w.updImage img (fun _ => z.reloaded new w.allDies)))

/-! ## Homes and agents outside -/

/-- R248 to R252: at the head of its line's queue, a read is served once no owner and no host holds the line alone, to another
node with a leased copy whose expiry the horizon covers, and an uncached read once no owner is left; a request for ownership is
granted when nothing stands against it, and the node then holds the line in M with none of its writes waiting; a forwarded
read leaves the owner in O; a recall, a write-back and an eviction return ownership to the home with the owner's data; an expired
lease is dropped. -/
def Obligations.HomesServe : Prop :=
  ∀ (s : State) (line n m : Nat) (mode2 : Bool) (x : L2Line),
    let home := s.homeNode line
    let room : Prop := (s.l2Slice n (s.homeSlice (64 * line))).contains line = true ∨
      (s.l2Slice n (s.homeSlice (64 * line))).length < s.l2Cap n (s.homeSlice (64 * line))
    (s.headReq line = none → exec (.readShared line n) s = .next s ∧ exec (.readOwn line n) s = .next s ∧ exec (.recall line) s = .next s) ∧
    (s.headReq line = some ⟨line, n, .uncached, mode2⟩ → s.homeServes line = true →
      exec (.readShared line n) s = .next (s.answerReq ⟨line, n, .uncached, mode2⟩)) ∧
    (s.headReq line = some ⟨line, n, .readShared, mode2⟩ → s.homeReadable line = true →
      (n = home ∨ n = hostNode → exec (.readShared line n) s = .next (s.answerReq ⟨line, n, .readShared, mode2⟩)) ∧
      (n ≠ home → n ≠ hostNode → (KMap.look s.coh.dir line).isSome = true → s.nodeValid n = true →
        ∃ u t, exec (.readShared line n) s = .next u ∧ u.coh.reqs = s.coh.reqs.erase ⟨line, n, .readShared, mode2⟩ ∧ u.cores = s.cores ∧
          (room → u.mem = s.mem ∧ u.l2Line n line = some ⟨.l, s.outsideLine line, t, s.outsidePoison line⟩) ∧
          s.homeNow home < t ∧ t ≤ (u.dirOf line).h ∧ (u.dirOf line).owner = (s.dirOf line).owner)) ∧
    (s.headReq line = some ⟨line, n, .readOwn, mode2⟩ → s.canReadOwn line n = true → n ≠ home → (KMap.look s.coh.dir line).isSome = true →
      ∃ u, exec (.readOwn line n) s = .next u ∧ u.coh.reqs = s.coh.reqs.erase ⟨line, n, .readOwn, mode2⟩ ∧
        (u.dirOf line).owner = some n ∧ (u.l2Line n line).map (·.st) = some .m ∧
        u.coh.unperf = s.coh.unperf.filter (fun y => !(y.line = line && y.node = n))) ∧
    ((s.dirOf line).owner = some m → s.l2Line m line = some x →
      let d := s.nodeLine m line
      let back (u : State) : Prop := (u.dirOf line).owner = none ∧ u.l2Line m line = none ∧ u.cores = s.cores ∧
        (x.st = .m ∨ x.st = .o → u.baseLine line = d)
      (s.canForward line n = false → exec (.forwardedRead line n) s = .next s) ∧
      (s.canForward line n = true → x.st = .m → n ≠ m → ∃ u, exec (.forwardedRead line n) s = .next u ∧
        (u.l2Line m line).map (·.st) = some .o ∧ u.cores = s.cores) ∧
      (s.canRecall line = true → ∃ u, exec (.recall line) s = .next u ∧ back u) ∧
      (m ≠ home → x.st = .m ∨ x.st = .o → ∃ u, exec (.writeBack line m) s = .next u ∧ back u) ∧
      (m ≠ home → x.st = .e → ∃ u, exec (.evictNotice line m) s = .next u ∧ back u)) ∧
    (s.l2Line m line = some x → x.st = .l → m ≠ home →
      (∃ u, exec (.evictNotice line m) s = .next u ∧ u.l2Line m line = none ∧ u.mem = s.mem ∧ u.coh.dir = s.coh.dir) ∧
      (x.expiry ≤ s.homeNow m + 16 → ∃ u, exec (.leaseExpiry m line) s = .next u ∧ u.l2Line m line = none ∧ u.mem = s.mem) ∧
      (s.homeNow m + 16 < x.expiry → exec (.leaseExpiry m line) s = .next s))

/-- R254 to R259: a host read of HBM that takes the line answers the performed data and leaves the host alone with it, a host
write performs at the home, and the host's answer to a snoop ends its hold. Snoops of outside lines are answered with the
state that Table 12.5 gives and with the data of an M line; an answer with data makes the home hold the line in E or S, and
poisoned data poison it; a pool's snoop that meets a request for its line waits, with one BIConflict. An access of another
package performs at the home of a local line, a reader is recorded as a sharer, and an invalidation of a line of another package
ends every copy of it here. -/
def Obligations.OutsideAgents : Prop :=
  ∀ (s : State) (line pkg node w port off : Nat) (data : BitVec 512) (mask : BitVec 64) (bad own inv : Bool) (x : OuterLine) (r : OuterReq)
    (sz : Size) (op : AtomOp) (v : Word),
    let home := s.homeNode line
    let bytes : List Host.Cell := (upTo 64).map (fun i => (64 * line + i, data.extractLsb' (8 * i) 8))
    let snoopAnswered (u : State) (code : Nat) : Prop := u.hostOut = s.hostOut ++ [.snoopRsp line code
      (if x.st = .m then some (u.baseLine line) else none) (decide (x.st = .m) && u.poison.contains line)]
    let answered (code : Nat) (u : State) : State := { u with
      coh := { u.coh with conflicts := u.coh.conflicts.filter (· ≠ line) }, hostOut := u.hostOut ++ [.birsp line code] }
    (s.isLocal line = true → s.hostUp = true → s.hostOwnReady line = true → (KMap.look s.coh.dir line).isSome = true →
      let g := (s.answerReq (hostReq line true)).gatherForHost line
      (∃ u, exec (.hostMemrd line 2) s = .next u ∧ (u.dirOf line).host = .a ∧ (u.dirOf line).owner = none ∧
        u.hostOut = s.hostOut ++ [.memData line (g.outsideLine line) (g.outsidePoison line)] ∧ u.cores = s.cores) ∧
      (∃ u, exec (.hostMemwr line ⟨data, bad⟩ 0) s = .next u ∧ u.poison.contains line = bad ∧ (u.dirOf line).host = .none ∧
        u.mem = (g.writeAtSlice home none bytes).mem)) ∧
    (s.coh.snoops.any (fun p => p.1 = line) = false → exec (.birsp line inv) s = .next s) ∧
    (s.coh.snoops.find? (fun p => p.1 = line) = some (line, own) → (KMap.look s.coh.dir line).isSome = true →
      ∃ u, exec (.birsp line inv) s = .next u ∧ u.coh.snoops = s.coh.snoops.filter (fun p => p.1 ≠ line) ∧ u.mem = s.mem ∧
        (u.dirOf line).host = (if inv || !own then .none else .s)) ∧
    (s.target (64 * line) = .host →
      (KMap.look s.coh.outer line = none → ∀ i ∈ ([.hostSnpinv line, .hostSnpdata line] : List Instr),
        exec i s = .next { s with hostOut := s.hostOut ++ [.snoopRsp line 0 none false] }) ∧
      (KMap.look s.coh.outer line = some x →
        (s.horizonPast line = true → ∃ u, exec (.hostSnpinv line) s = .next u ∧ KMap.look u.coh.outer line = none ∧
          snoopAnswered u (if x.st = .m then 1 else 3)) ∧
        (∃ u, exec (.hostSnpdata line) s = .next u ∧ KMap.look u.coh.outer line = some ⟨.s⟩ ∧
          snoopAnswered u (if x.st = .m then 2 else 4)))) ∧
    (s.coh.outerReqs.find? (fun q => q.line = line) = none →
      (s.coh.writes.find? (fun q => q.line = line) = none → exec (.cxlDataResponse line data bad) s = .next s) ∧
      (s.coh.writes.find? (fun q => q.line = line) = some r →
        exec (.cxlDataResponse line data bad) s = .next { s with coh := { s.coh with writes := s.coh.writes.erase r } })) ∧
    (s.coh.outerReqs.find? (fun q => q.line = line) = some r → s.isDomain line = false → ∃ u, exec (.cxlDataResponse line data bad) s = .next u ∧
      u.coh.outerReqs = s.coh.outerReqs.filter (fun q => !(q.line = line && (r.own || !q.own))) ∧
      (KMap.look s.coh.outer line = some ⟨.m⟩ → KMap.look u.coh.outer line = some ⟨.m⟩) ∧
      (KMap.look s.coh.outer line ≠ some ⟨.m⟩ → KMap.look u.coh.outer line = some ⟨if r.own then .e else .s⟩ ∧
        ((s.dirOf line).owner = none → u.baseLine line = data ∧ u.poison.contains line = bad))) ∧
    (s.coh.presence.contains (line / 1024) = false → exec (.poolBisnp line inv) s = .next (answered 0 s)) ∧
    (s.coh.presence.contains (line / 1024) = true →
      (s.coh.outerReqs.any (fun q => q.line = line) = true → ∃ u, exec (.poolBisnp line inv) s = .next u ∧
        u.waiting = s.waiting ++ [.event (.poolBisnp line inv)] ∧ u.coh.outer = s.coh.outer ∧ u.mem = s.mem ∧
        u.hostOut = s.hostOut ++ (if s.coh.conflicts.contains line then [] else [.biConflict line])) ∧
      (s.coh.outerReqs.any (fun q => q.line = line) = false →
        (KMap.look s.coh.outer line = none → exec (.poolBisnp line inv) s = .next (answered 0 s)) ∧
        (KMap.look s.coh.outer line = some x → s.target (64 * line) = .pool port → s.horizonPast line = true →
          ∃ u l, exec (.poolBisnp line true) s = .next u ∧ KMap.look u.coh.outer line = none ∧
            u.hostOut = s.hostOut ++ l ++ [.birsp line 0] ∧ (x.st ≠ .m → l = [])) ∧
        (KMap.look s.coh.outer line = some x → ∃ u l, exec (.poolBisnp line false) s = .next u ∧
          KMap.look u.coh.outer line = some ⟨.s⟩ ∧ u.hostOut = s.hostOut ++ l ++ [.birsp line 1] ∧ (x.st ≠ .m → l = [])))) ∧
    (s.isLocal line = true →
      (s.agentReady line none = true →
        (∃ u, exec (.zelasRemoteAccess pkg line (.write mask) bad data) s = .next u ∧
          u.mem = (s.writeAtSlice home none (bytes.filter (fun b => mask.getLsbD (b.1 % 64)))).mem ∧
          (mask = BitVec.allOnes 64 ∨ bad = true → u.poison.contains line = bad)) ∧
        (let b := sizeBytes sz
          let old := ((s.outsideLine line).extractLsb' (8 * off) (8 * b)).toNat
          s.outsidePoison line = false → ∃ u l, exec (.zelasRemoteAccess pkg line (.atom off sz op v) bad data) s = .next u ∧
            u.hostOut = s.hostOut ++ l ++ [.atomicData pkg line (BitVec.ofNat 64 old) false] ∧
            u.mem = (s.writeAtSlice home none ((leBytes b (atomNew op (8 * b) old (v.toNat % 2 ^ (8 * b))).1).mapIdx
              (fun i y => (64 * line + off + i, y)))).mem)) ∧
      (s.homeReadable line = true → ∃ u, exec (.zelasRemoteAccess pkg line .read bad data) s = .next u ∧ u.mem = s.mem ∧
        u.hostOut = s.hostOut ++ [.memData line (s.outsideLine line) (s.outsidePoison line)] ∧
        (KMap.lookD u.coh.sharers line []).any (fun p => p = pkg || p = 1024) = true)) ∧
    (s.isLocal line = false → s.isDomain line = true → ∃ u, exec (.zelasRemoteAccess pkg line (.write mask) bad data) s = .next u ∧ u.mem = s.mem ∧
      u.coh.unperf = s.coh.unperf.filter (fun y => y.line ≠ line)) ∧
    (s.isDomain line = false → exec (.zelasInvalidate line) s = .next s) ∧
    (s.isDomain line = true → ∃ u, exec (.zelasInvalidate line) s = .next u ∧ KMap.look u.coh.outer line = none ∧ u.mem = s.mem ∧
      u.l2Line node line = none ∧ (∀ c, w / 16 = line → u.l1Word c w = none) ∧ u.hostOut = s.hostOut ++ [.zelasAck line])

/-! ## Links, failures and resets -/

/-- R254, R258, R263: a range that fails, by the report of its shelf or the timeout of one of its requests, has FAILED set,
its filter entries go, and nothing of its lines is held or waited for any more; a pool port that goes down fails its ranges; a
write of CXP_PMCTL clears FAILED and changes nothing else while V = 1. A Zelas port lost for good leaves every route, and a
package whose route becomes empty fails; a CXL port that cannot train is down, and a port that trains is up. -/
def Obligations.RangesAndPorts : Prop :=
  ∀ (s : State) (i port line c w m : Nat) (v : Word),
    let inside (pg : Nat) : Bool := s.regBits .cxpPmbase i 51 16 ≤ pg && pg ≤ s.regBits .cxpPmctl i 51 16
    let fails (u : State) : Prop := u.rangeFailed i = true ∧ u.coh.presence = s.coh.presence.filter (fun pg => !inside pg) ∧
      (inside (line / 1024) = true →
        u.coh.unperf.any (fun y => y.line = line) = false ∧ u.coh.reqs.any (fun y => y.line = line) = false ∧
        u.coh.outerReqs.any (fun y => y.line = line) = false ∧ KMap.look u.coh.outer line = none ∧ KMap.look u.coh.dir line = none ∧
        u.l2Line m line = none ∧ (w / 16 = line → u.l1Word c w = none))
    (i < 64 → bitOf (s.regN .cxpPmctl i) 0 = true → s.rangeFailed i = false →
      (∃ u, exec (.shelfLossReport i) s = .next u ∧ fails u) ∧
      (s.rangeTimedOut i = true → ∃ u, exec (.poolRequestTimeout i) s = .next u ∧ fails u)) ∧
    (bitOf (s.regN .cxpPmctl i) 0 = false ∨ s.rangeFailed i = true → exec (.shelfLossReport i) s = .next s) ∧
    (s.rangeTimedOut i = false → exec (.poolRequestTimeout i) s = .next s) ∧
    (port < 8 → ∃ u, exec (.poolPortDown port) s = .next u ∧ KMap.look u.links.cxl (port + 2) = some 0 ∧
      ∀ j < 64, s.regBits .cxpPmbase j 2 0 = port → bitOf (s.regN .cxpPmctl j) 0 = true → u.rangeFailed j = true) ∧
    (i < 64 → ∃ u, exec (.cxpPmctlWrite i v) s = .next u ∧ u.mem = s.mem ∧ u.coh = s.coh ∧ ∀ b, (u.reg .cxpPmctl i).getLsbD b =
      (RegName.cxpPmctl.info.mask.testBit b && (if b = 1 then (s.reg .cxpPmctl i).getLsbD 1 && v.getLsbD 1
        else if (s.reg .cxpPmctl i).getLsbD 0 then (s.reg .cxpPmctl i).getLsbD b else v.getLsbD b))) ∧
    (port < 24 → ∃ u, exec (.zelasPortLoss port) s = .next u ∧ KMap.look u.links.zelas port = some 2 ∧
      ∀ j < 1024, bitOf (u.regN .zlkRoute j) port = false ∧
        (s.regN .zlkRoute j = 2 ^ port → j ≠ s.regN .zlkId → u.failed.contains j = true)) ∧
    (port < 10 → ∃ u, exec (.linkTrainingFail port) s = .next u ∧ KMap.look u.links.cxl port = some 0) ∧
    (port < 10 → exec (.linkUp port) s = .next { s with links := { s.links with cxl := KMap.put s.links.cxl port 1 } }) ∧
    (10 ≤ port → port < 34 → KMap.lookD s.links.zelas (port - 10) 0 ≠ 2 →
      exec (.linkUp port) s = .next { s with links := { s.links with zelas := KMap.put s.links.zelas (port - 10) 1 } })

/-- R144, R145, R261, R262, R264: a check that fails is retried; a retry that succeeds ends it, and a lasting failure takes
its degraded action: poison for a line of HBM and for a line of an L2, whose ownership ends, an L1 word dropped, a poisoned
register, an emptied configuration cache. A row whose interval has passed is refreshed. A scrub read moves its stack's patrol on;
a corrected error moves its row to the next filter, or to the repair list from the fast one, and an uncorrectable one poisons its
line. A draining reset of a node waits for the writes that wait for ownership, writes its M and O lines back, and a fatal one
poisons every line whose only copy it held; after either the node holds nothing. A fatal reset of a die poisons the lines of its
registered words at their L2. -/
def Obligations.ChecksAndResets : Prop :=
  ∀ (s : State) (kind index pa stack row line node die c w : Nat) (ok hot : Bool) (x : Check) (dirty : List Nat) (y : L2Line) (v : L1Word),
    let k := KMap.lookD s.hbm stack {}
    let at_ := s.stackOf (64 * line)
    let owned : Prop := s.l2Line node line = some y ∧ (y.st = .m ∨ y.st = .o)
    let waits := s.coh.unperf.any (fun u => u.node = node)
    let m := nodeOf (32 * die)
    exec (.checkFail kind index pa) s = .next { s with checks := s.checks ++ [⟨kind, index, pa, false⟩] } ∧
    (s.checks.find? (fun x => x.kind = kind && x.index = index && !x.lasting) = none → exec (.checkRetryResult kind index ok) s = .next s) ∧
    (s.checks.find? (fun x => x.kind = kind && x.index = index && !x.lasting) = some x →
      (∃ u, exec (.checkRetryResult kind index true) s = .next u ∧ u.checks = s.checks.erase x ∧ u.coh = s.coh ∧ u.cores = s.cores ∧ u.poison = s.poison) ∧
      (∃ u, exec (.checkRetryResult kind index false) s = .next u ∧
        (1 ≤ kind → kind ≤ 5 → u.checks = s.checks.erase x ++ [{ x with lasting := true }]) ∧
        (kind = 1 → u.poison.contains (lineOf x.pa) = true) ∧
        (kind = 2 → let l := lineOf x.pa
          ((s.dirOf l).owner = some (index / 64) → u.poison.contains l = true ∧ (u.dirOf l).owner = none ∧ u.l2Line (index / 64) l = none) ∧
          ((s.dirOf l).owner ≠ some (index / 64) → index / 64 = s.homeNode l ∨ (s.l2Line (index / 64) l).isSome = true →
            u.copyPoison (index / 64) l = true)) ∧
        (kind = 3 → u.l1Word index (x.pa / 4) = none) ∧
        (kind = 4 → (u.thread index (x.pa / 128)).poison = (s.thread index (x.pa / 128)).poison ++ [x.pa % 128]) ∧
        (kind = 5 → KMap.lookD u.cfgCache index [] = (KMap.lookD s.cfgCache index []).eraseIdx x.pa))) ∧
    (stack < s.stacks → (KMap.lookD k.refreshed row 0 + k.interval stack row ≤ s.time.ref →
        exec (.hbmRefresh stack row) s = .next { s with hbm := KMap.put s.hbm stack { k with refreshed := KMap.put k.refreshed row s.time.ref } }) ∧
      (s.time.ref < KMap.lookD k.refreshed row 0 + k.interval stack row → exec (.hbmRefresh stack row) s = .next s) ∧
      (∃ u, exec (.stackTemperatureCrossing stack hot) s = .next u ∧ (KMap.lookD u.hbm stack {}).hot = hot)) ∧
    (s.isLocal line = true →
      let r := Config.rowOf line
      let q := KMap.lookD s.hbm at_ {}
      let p := if line = s.stackLine at_ q.scrubbed then q.patrolled s.time.ref else q
      exec (.scrubRead line 0) s = .next { s with hbm := KMap.put s.hbm at_ p } ∧
      (∃ u, exec (.scrubRead line 1) s = .next u ∧ u.poison = s.poison ∧ u.mem = s.mem ∧ KMap.lookD u.hbm at_ {} =
        (if p.found at_ 0 r then { p with repair := p.repair ++ [r] } else if p.found at_ 1 r then { p with fast := p.fast ++ [r] }
         else { p with middle := p.middle ++ [r] })) ∧
      (∃ u, exec (.scrubRead line 2) s = .next u ∧ u.poison.contains line = true ∧ u.mem = s.mem ∧ KMap.lookD u.hbm at_ {} = p)) ∧
    (waits = true → exec (.drainingNodeReset node) s = .next { s with waiting := s.waiting ++ [.event (.drainingNodeReset node)] }) ∧
    (waits = false → ∃ u, exec (.drainingNodeReset node) s = .next u ∧ u.l2Line node line = none ∧ (nodeOf c = node → u.l1Word c w = none) ∧
      (owned → s.homeNode line ≠ node → s.nodeRegistered node = [] → ((KMap.lookD s.coh.l2 node []).map (·.1)).Nodup →
        u.baseLine line = y.data)) ∧
    (∃ u, exec (.fatalNodeReset node dirty false) s = .next u ∧ u.l2Line node line = none ∧ (nodeOf c = node → u.l1Word c w = none) ∧
      (owned ∨ (s.isLocal line = true ∧ s.homeNode line = node ∧
        (line ∈ dirty ∨ (nodeOf c = node ∧ w / 16 = line ∧ s.l1Word c w = some v ∧ v.registered = true))) → u.poison.contains line = true)) ∧
    (∃ u, exec (.fatalNodeReset node dirty true) s = .next u ∧ u.l2Line node line = none ∧
      (64 * line < (if s.z240 then 0x6000000000 else 0xC000000000) → s.homeNode line = node → u.poison.contains line = true)) ∧
    (∃ u, exec (.fatalFabricDieReset die) s = .next u ∧ (dieOf c = die → u.l1Word c w = none ∧
      (s.l1Word c w = some v → v.registered = true →
        (s.pendingAt m (w / 16) = false → m = s.homeNode (w / 16) ∨ (s.l2Line m (w / 16)).isSome = true → u.copyPoison m (w / 16) = true) ∧
        ∀ p ∈ u.coh.unperf, p.line = w / 16 → p.node = m → p.poison = some true)))

/-! ## Time, power, boot and management -/

/-- R15, R22, R23, R276 to R280, R282: a comparison moves a die's copy by at most 4 ticks and the view stays valid while the
copy differs from the reference by at most 12; a lost view sets TMB_LOSS and drops the reservations of the die; a
resynchronisation puts the reference into the copy. A window above the power limit, or at it behind one that was above it, lowers
every die above 1.0 GHz by one step, and the tenth window in a row below 95 % raises every die below its set rate. A rail fault
holds every die in reset. A boot ends in recovery where the record or the image does not verify, and else in stage 5, with every
fabric die at a rate from 1.0 to 2.7 GHz. An alarm applies the greatest of the actions of its classes. -/
def Obligations.TimePowerBoot : Prop :=
  ∀ (s : State) (d rail watts c k : Nat) (mask : BitVec 4),
    let x := s.die d
    let lost (u : State) : Prop := (u.die d).valid = false ∧ (u.reg .tmbLoss).getLsbD d = true ∧
      (dieOf c = d → d < 8 → (u.thread c k).resv = none)
    let booted (nv : Store) (u : State) : Prop :=
      (nv.recordOk = false ∨ nv.recordSvn < nv.svn → u.sec.stage = 1 ∧ u.sec.recovery = true) ∧
      (nv.recordOk = true → nv.svn ≤ nv.recordSvn → nv.imageOk = false ∨ nv.imageSvn < nv.svn →
        u.sec.stage = 2 ∧ u.sec.recovery = true ∧ u.sec.recordValid = true) ∧
      (nv.recordOk = true → nv.svn ≤ nv.recordSvn → nv.imageOk = true → nv.svn ≤ nv.imageSvn →
        u.sec.stage = 5 ∧ u.sec.recovery = false ∧ u.sec.imageVerified = true ∧
        u.sec.keys = (nv.keysOk && !nv.erased) ∧ u.sec.nv.svn = nv.imageSvn ∧
        (nv.record = none → u.z240 = nv.z240 ∧ u.sec.nv.disabled = nv.disabled) ∧
        (d < u.fabricDies → 10 ≤ (u.die d).mhz ∧ (u.die d).mhz ≤ 27 ∧ (u.die d).base = (u.die d).mhz))
    let some_ (n : Nat) : Prop := ∃ j < 4, mask.getLsbD j = true ∧ s.alarmAction j = n
    (s.isDie d = true →
      (x.valid = true → ∃ (u : State) (n : Nat), n ≤ 8 ∧ exec (.timeCompare d) s = .next u ∧ u.mem = s.mem ∧
        (let net : Int := x.copy - x.skip + n - 4
         (net ≤ s.time.ref + 12 → (s.time.ref : Int) ≤ net + 12 → (u.die d).valid = true ∧ ((u.die d).copy : Int) - (u.die d).skip = net) ∧
         (net > s.time.ref + 12 ∨ (s.time.ref : Int) > net + 12 → lost u))) ∧
      (∃ u, exec (.clockRestart d) s = .next u ∧ lost u) ∧
      (x.valid = false → (x.copy ≤ s.time.ref → ∃ u, exec (.timeResync d) s = .next u ∧ u.mem = s.mem ∧
          (u.die d).valid = true ∧ (u.die d).copy = s.time.ref ∧ (u.die d).skip = 0) ∧
        (s.time.ref < x.copy → exec (.timeResync d) s = .next s))) ∧
    (s.powerLimit < watts ∨ (s.sec.capping = true ∧ watts = s.powerLimit) →
      ∃ u, exec (.powerWindow watts) s = .next u ∧ u.sec.below = 0 ∧ u.sec.capping = true ∧ u.mem = s.mem ∧
      (u.die d).mhz = (if d < s.fabricDies ∧ 10 < x.mhz then x.mhz - 1 else x.mhz)) ∧
    (watts < s.powerLimit ∨ (s.sec.capping = false ∧ watts = s.powerLimit) → 95 * s.powerLimit ≤ watts * 100 →
      exec (.powerWindow watts) s = .next { s with sec := { s.sec with below := 0, capping := false } }) ∧
    (watts * 100 < 95 * s.powerLimit →
      (s.sec.below + 1 < 10 →
        exec (.powerWindow watts) s = .next { s with sec := { s.sec with below := s.sec.below + 1, capping := false } }) ∧
      (10 ≤ s.sec.below + 1 → ∃ u, exec (.powerWindow watts) s = .next u ∧ u.sec.below = 0 ∧ u.mem = s.mem ∧
        (u.die d).mhz = (if d < s.fabricDies ∧ x.mhz < x.base then x.mhz + 1 else x.mhz))) ∧
    (∃ u, exec (.railFault rail) s = .next u ∧ u.agenda = [] ∧ u.waiting = [] ∧ (u.die d).valid = false ∧ u.mem = s.mem ∧
      u.sec = { s.sec with railFault := some rail, powerLog := s.sec.powerLog ++ [rail], held := true }) ∧
    (s.sec.railFault.isSome = true → ∃ u, exec .boot s = .next u ∧ booted s.sec.stored u ∧ u.sec.epoch = s.sec.epoch + 1 ∧ u.sec.e = 0 ∧
      u.sec.dseq = 0 ∧ u.sec.held = false ∧ u.mem = State.reset.mem) ∧
    (s.sec.railFault = none → (s.sec.stage = 0 → s.sec.held = false → ∃ u, exec .boot s = .next u ∧ booted s.sec.nv u ∧ u.mem = s.mem) ∧
      (s.sec.stage ≠ 0 ∨ s.sec.held = true → exec .boot s = .next s)) ∧
    exec (.alarm 0) s = .next s ∧
    (mask ≠ 0 →
      (some_ 3 → ∃ u, exec (.alarm mask) s = .next u ∧ u.sec.held = true ∧ u.sec.keys = false ∧ u.sec.nv.erased = true ∧ u.sec.nv.keysOk = false) ∧
      (¬ some_ 3 → some_ 2 → ∃ u, exec (.alarm mask) s = .next u ∧ booted s.sec.stored u ∧ u.mem = State.reset.mem) ∧
      (¬ some_ 3 → ¬ some_ 2 → ∃ u, exec (.alarm mask) s = .next u ∧ u.mem = s.mem ∧ (some_ 1 → u.sec.held = true) ∧
        (¬ some_ 1 → u.sec.held = s.sec.held) ∧
        ∀ j < 4, (u.reg .secAlarm).getLsbD j = ((s.reg .secAlarm).getLsbD j || mask.getLsbD j)))

/-- R279, R281, R283: a command with the next sequence number runs once and its response is kept; the same number again is
answered with the stored response and status 1, any other with status 2, and neither runs. Outside recovery each command has
its effect or answers status 4; a commit in progress answers status 3. SPDM answers the four measurements. -/
def Obligations.ManagementChannel : Prop :=
  ∀ (s : State) (seq p : List Byte) (j : Nat) (ck : Commit),
    let q := leNat seq % 2 ^ 32
    let all : List Instr := [.fwchunk seq p, .fwcommit seq p, .status seq, .pwrlimit seq p, .evread seq p, .evack seq p, .reprov seq p]
    let runs (i : Instr) (st : Nat) (Q : State → Prop) : Prop := ∃ u b ev, exec i s = .next u ∧ u.hostOut = s.hostOut ++ [.mailbox b ev] ∧
      leNat (b.take 8) = q * 2 ^ 32 + st * 2 ^ 16 ∧ u.sec.e = q ∧ u.sec.response = b ∧ u.sec.respEvents = ev ∧ u.mem = s.mem ∧ Q u
    let data := p.drop 8
    let img := s.sec.staged
    let good := Config.imageSigned img && decide (s.sec.nv.svn ≤ Config.imageSvn img)
    (s.sec.recovery = false →
      (q ≠ (s.sec.e + 1) % 2 ^ 32 → q ≠ s.sec.e → ∀ i ∈ all, ∃ b, exec i s = .next { s with hostOut := s.hostOut ++ [.mailbox b []] } ∧
        leNat (b.take 8) = q * 2 ^ 32 + 2 * 2 ^ 16) ∧
      (q ≠ (s.sec.e + 1) % 2 ^ 32 → q = s.sec.e → ∀ i ∈ all,
        ∃ b, exec i s = .next { s with hostOut := s.hostOut ++ [.mailbox b s.sec.respEvents] } ∧
        leNat (b.take 8) = q * 2 ^ 32 + 2 ^ 16 ∧ b.drop 8 = s.sec.response.drop 8) ∧
      (q = (s.sec.e + 1) % 2 ^ 32 →
        (word1 p + data.length ≤ stagingSize → j < data.length → runs (.fwchunk seq p) 0 (fun u => KMap.lookD u.sec.staging (word1 p + j) 0 = data.getD j 0)) ∧
        (stagingSize < word1 p + data.length → runs (.fwchunk seq p) 4 (fun u => u.sec.staging = s.sec.staging)) ∧
        (s.sec.commit = some ck → ∃ b, exec (.fwcommit seq p) s = .next { s with hostOut := s.hostOut ++ [.mailbox b []] } ∧ leNat (b.take 8) = q * 2 ^ 32 + 3 * 2 ^ 16) ∧
        (s.sec.commit = none → (good = true → runs (.fwcommit seq p) 0 (fun u => u.sec.commit = some ⟨img⟩)) ∧
          (good = false → runs (.fwcommit seq p) 4 (fun u => u.sec.commit = none))) ∧
        runs (.status seq) 0 (fun u => u.sec.response.drop 16 = leBytes 8 s.secStat ++ leBytes 8 s.sec.e) ∧
        (word1 p ≤ s.tdp → runs (.pwrlimit seq p) 0 (fun u => u.sec.limit = word1 p)) ∧
        (s.tdp < word1 p → runs (.pwrlimit seq p) 4 (fun u => u.sec.limit = s.sec.limit)) ∧
        runs (.evread seq p) 0 (fun u => u.sec.respEvents = s.sec.events.filter (fun e => word1 p ≤ e.1)) ∧
        runs (.evack seq p) 0 (fun u => u.sec.events = s.sec.events.filter (fun e => word1 p < e.1)) ∧
        (s.sec.keys = false → Config.recordSigned img = true → s.sec.nv.svn ≤ Config.recordSvn img → runs (.reprov seq p) 0 (fun u => u.sec.keys = true ∧
          u.sec.nv.record = some img ∧ u.sec.nv.recordOk = true ∧ u.sec.nv.erased = false)) ∧
        (s.sec.keys = true ∨ Config.recordSigned img = false ∨ Config.recordSvn img < s.sec.nv.svn → runs (.reprov seq p) 4 (fun u => u.sec.nv = s.sec.nv))) ∧
      (s.sec.commit = some ck → ∃ u, exec .fwcommitWriteDone s = .next u ∧ u.sec.commit = none ∧ u.sec.nv.image = ck.image ∧ u.mem = s.mem) ∧
      exec (.spdmRequest p) s = .next { s with hostOut := s.hostOut ++ [.spdm p [Config.sha384 Config.rom,
        Config.sha384 (s.sec.nv.record.getD Config.record), Config.sha384 s.sec.nv.image,
        (match s.handlerBytes with | some b => Config.sha384 b | none => 0)] s.sec.nv.imageSvn s.sec.keys] }) ∧
    (s.sec.recovery = true → exec (.pwrlimit seq p) s = .next s ∧ exec (.spdmRequest p) s = .next s ∧
      (s.sec.commit = some ck → ∃ u, exec .fwcommitWriteDone s = .next u ∧ u.sec.nv.image = ck.image ∧ u.mem = State.reset.mem)) ∧
    (s.sec.commit = none → exec .fwcommitWriteDone s = .next s)

/-! ## Debug, profiling and replay -/

/-- R266 to R275: a stop is added for what DBG_STOP names and every stop ends at DBG_RESUME; once everything stopped is at
rest, SETTLED is set and the list is written at DBG_LISTBASE. A firing step consumes the earliest complete set of its thread
and fires it, and says NONE where there is neither a set nor a block to enter; a block step lets the thread run. A row of an
accumulator is written behind the list. Enabling the trace or setting the spill ring starts its indices at 0; heads move only
between their value and the tail. Checkpointing counts its period from the enabling; a checkpoint is taken once the device has
drained and the lines of its area can be written: the contexts, the teams and the pages that have changed are written there, in
a packing that is the model's (log entry 97), and RPL_START restores it and replays what was logged since. -/
def Obligations.DebugAndReplay : Prop :=
  ∀ (s : State) (v : Word) (c k t row j t0 : Nat) (h : Bool) (y : Ready) (u0 : State) (x : Ckpt),
    let w := v.toNat
    let team := s.namedTeam (bitsOf w 61 56) (bitsOf w 31 0)
    let stops (z : Stop) : Prop := ∃ u, exec (.dbgStop v) s = .next u ∧ u.dbg.stops.contains z = true ∧ u.dbg.settled = false ∧ u.mem = s.mem
    let base := s.regN .dbgListbase
    let list := s.stopList.take 0xFF000
    let s1 : State := { s with dbg := { s.dbg with stepReq := none } }
    let s2 : State := { s with dbg := { s.dbg with stepReq := none, stepNone := false } }
    let may := s.dbg.settled && s.stopped c k
    (bitsOf w 63 62 = 3 → stops .device) ∧
    (bitsOf w 63 62 = 2 → bitsOf w 55 48 < 32 * s.fabricDies → stops (.core (bitsOf w 55 48))) ∧
    (team = some t → (bitsOf w 63 62 = 1 → stops (.team t)) ∧ (bitsOf w 63 62 = 0 → stops (.hand t (bitsOf w 47 41)))) ∧
    (team = none → bitsOf w 63 62 < 2 → exec (.dbgStop v) s = .next s) ∧
    exec .dbgResume s = .next { s with dbg := { s.dbg with stops := [], settled := false, stepping := none } } ∧
    (s.maySettle = true → ∃ u, exec .dbgSettled s = .next u ∧ u.dbg.settled = true ∧ u.cores = s.cores ∧
      (∀ i < list.length, u.byte (base + i) = list.getD i 0) ∧ (∀ a, a < base ∨ base + list.length ≤ a → u.byte a = s.byte a)) ∧
    (s.maySettle = false → exec .dbgSettled s = .next s) ∧
    (s.dbg.stepReq = none → exec .dbgStepFiring s = .next s ∧ exec .dbgStepBlock s = .next s) ∧
    (s.dbg.stepReq = some (c, k) →
      (may = false → exec .dbgStepFiring s = .next s1 ∧ exec .dbgStepBlock s = .next s1) ∧
      (may = true →
        exec .dbgStepBlock s = .next { s1 with dbg := { s1.dbg with stepNone := false, settled := false, stepping := some (c, k) } } ∧
        (s2.stepSet c k = some (t, h, y) → ∃ u, exec .dbgStepFiring s = .next u ∧ u.agenda = .event y.instr :: (s2.consume c t h y).agenda ∧
          u.cores = (s2.consume c t h y).cores ∧ u.dbg.settled = false) ∧
        (s2.stepSet c k = none → s2.stepInject c k = some u0 → exec .dbgStepFiring s = .next { u0 with dbg := { u0.dbg with settled := false } }) ∧
        (s2.stepSet c k = none → s2.stepInject c k = none → exec .dbgStepFiring s = .next { s2 with dbg := { s2.dbg with stepNone := true } }))) ∧
    (s.dbg.accrd = none → exec .dbgAccrd s = .next s) ∧
    (s.dbg.accrd = some (c, t, row) → ((s.tile c t).mx.rows ≠ [] → exec .dbgAccrd s = .next s) ∧
      ((s.tile c t).mx.rows = [] → ∃ u, exec .dbgAccrd s = .next u ∧ u.dbg.accrd = none ∧ u.cores = s.cores ∧
        (j < 16 → u.load (base + 0xFF000 + 8 * j) 8 = (s.tile c t).mx.entry row j % 2 ^ 64))) ∧
    (∃ u, exec (.traceEnable v) s = .next u ∧ u.reg .dbgTrctl = v &&& BitVec.ofNat 64 RegName.dbgTrctl.info.mask ∧
      u.dbg.trTail = 0 ∧ u.dbg.trHead = 0 ∧ u.mem = s.mem) ∧
    (∃ u, exec (.pmcSpillWrite v) s = .next u ∧ u.reg .pmcSpill = v &&& BitVec.ofNat 64 RegName.pmcSpill.info.mask ∧ u.dbg.spHead = 0) ∧
    (v.toNat < s.dbg.spHead ∨ s.dbg.spTail < v.toNat → exec (.pmcSpheadWrite v) s = .next s) ∧
    (s.dbg.spHead ≤ v.toNat → v.toNat ≤ s.dbg.spTail → ∃ u, exec (.pmcSpheadWrite v) s = .next u ∧ u.dbg.spHead = v.toNat ∧ u.reg .pmcSphead = v) ∧
    (∃ u, exec (.rplCtlWrite v) s = .next u ∧ u.reg .rplCtl = v &&& BitVec.ofNat 64 RegName.rplCtl.info.mask ∧ u.mem = s.mem ∧
      (v.getLsbD 0 = false → u.rpl.nextAt = none ∧ u.rpl.draining = false) ∧
      (v.getLsbD 0 = true → s.rplOn = false → u.rpl.nextAt = some (s.time.ref + max 1 (bitsOf w 10 1) * 1000000)) ∧
      (v.getLsbD 0 = true → s.rplOn = true → u.rpl = s.rpl)) ∧
    (s.rpl.nextAt = none → exec .checkpoint s = .next s) ∧
    (s.rpl.nextAt = some t0 → (s.rplOn = false ∨ s.time.ref < t0 → exec .checkpoint s = .next s) ∧
      (s.rplOn = true → ¬ s.time.ref < t0 →
        (s.rpl.draining = false → exec .checkpoint s = .next { s with rpl := { s.rpl with draining := true } }) ∧
        (s.rpl.draining = true → (s.cores.all (fun q => s.ckptQuiet q.1) && s.teams.all (fun q => s.teamVisible q.1 .system)) = true →
          s.ckptWrites.all (fun p => s.deviceReady p.1 p.2.length) = true →
          ∃ u, exec .checkpoint s = .next u ∧ u.mem = (s.writeAll s.ckptWrites).mem ∧ u.cores = (s.writeAll s.ckptWrites).cores ∧
            u.rpl.last = s.rpl.nextNumber ∧ u.rpl.draining = false ∧ u.rpl.log = [] ∧
            KMap.look u.rpl.ckpts s.rpl.nextNumber = some (s.writeAll s.ckptWrites).ckpt ∧ u.rpl.nextAt = some (t0 + s.rplPeriod)))) ∧
    (s.rplOn = true ∨ s.grids.any (fun g => !g.2.complete) = true → exec (.rplStart v) s = .next s) ∧
    (s.rplOn = false → s.grids.any (fun g => !g.2.complete) = false → KMap.look s.rpl.ckpts (w % 2 ^ 32) = some x →
      ∃ u, exec (.rplStart v) s = .next u ∧ u.mem = x.mem ∧ u.cores = x.cores ∧ u.time = x.time ∧ u.grids = x.grids ∧
        u.rpl.replaying = some (w % 2 ^ 32) ∧ u.agenda = []) ∧
    (s.rpl.replaying = none → exec .replayEnd s = .next s) ∧
    (s.rpl.replaying = some k → (s.rpl.moves ≠ [] → exec .replayEnd s = .next s) ∧
      (s.rpl.moves = [] → ∃ u, exec .replayEnd s = .next u ∧ u.rpl.replaying = none ∧ u.mem = s.mem ∧ s.time.ref ≤ u.time.ref))

/-! ## Writes of control registers -/

/-- R5, R6, R142, R143, R150, R253: a carve change waits for the copies into the stage memory, and then words beyond the new
size are gone; a value above 96 sets STG_ERR. An invalidation waits for the walks that run and the buffered stores of its
space, and drops every translation that meets its range; one more while it runs sets MMU_INVERR. A page-mode change also waits
for the lines that nodes own and for the leases. A write of a plain register stores its unreserved bits, a W1C register loses
the bits written 1, a read-only one stands, and a write that has a step of its own puts that step next. -/
def Obligations.RegisterWrites : Prop :=
  ∀ (s : State) (v : Word) (p n a asp off : Nat) (i : Nat) (r : RegName) (x : XInv) (t : Tlb) (l : List Tlb),
    let k := bitsOf v.toNat 6 0
    let rng := invRange v.toNat
    let st := KMap.lookD s.stage p {}
    let plain : List RegName := [.srdSeed, .hbmScrub, .barWdt, .fstQbase, .fstQctl, .fstQhead, .fstRecbase, .fstRarg, .dlrParg, .chrPrio,
      .zlkRoute, .cxpTmo, .elgBase, .elgCtl, .elgHead, .dbgListbase, .dbgStoppkt, .dbgBrk, .dbgTrbase, .pmcHsel, .rplBase]
    let steps : List (RegName × Instr) := [(.stgCarve, .stgCarveWrite i v), (.mmuRoot, .mmuRootWrite i v), (.mmuInv, .mmuInv v), (.mmuPgmode, .mmuPgmode v),
      (.lqDoorbell, .lqDoorbell i v), (.dstMode, .dstModeWrite v), (.dstSem, .dstSemWrite i v), (.fstHimg, .fstHimgWrite v), (.chrReset, .chrReset v),
      (.cxpPmctl, .cxpPmctlWrite i v), (.dbgStop, .dbgStop v), (.pmcSpill, .pmcSpillWrite v), (.pmcSphead, .pmcSpheadWrite v),
      (.rplCtl, .rplCtlWrite v), (.rplStart, .rplStart v)]
    (p < s.portDies → (k ≤ 96 → ∃ u, exec (.stgCarveWrite p v) s = .next u ∧ (KMap.lookD u.stage p {}).target = some k ∧
        (KMap.lookD u.stage p {}).carve = st.carve ∧ u.regN .stgCarve p = k ∧ u.mem = s.mem) ∧
      (96 < k → ∃ u, exec (.stgCarveWrite p v) s = .next u ∧ (u.reg .stgErr).getLsbD p = true ∧ u.stage = s.stage ∧ u.mem = s.mem)) ∧
    (st.target = none → exec (.stgCarveDone p) s = .next s) ∧
    (st.target = some n → (s.copiesToStage p = true → exec (.stgCarveDone p) s = .next s) ∧
      (s.copiesToStage p = false →
        let cap := (192 - n) * 256
        let sh := s.l2Shrink p cap
        (sh.l2Beyond p cap ≠ [] → exec (.stgCarveDone p) s = .next sh) ∧
        (sh.l2Beyond p cap = [] → ∃ u, exec (.stgCarveDone p) s = .next u ∧ KMap.lookD u.stage p {} = { carve := n, target := none } ∧
          u.coh = sh.coh ∧ u.byte a = (if s.stageBeyond p (n * 0x100000) a then 0 else sh.byte a)))) ∧
    (∃ u, exec (.mmuRootWrite asp v) s = .next u ∧ u.reg .mmuRoot asp = v &&& BitVec.ofNat 64 RegName.mmuRoot.info.mask ∧ u.mem = s.mem ∧ u.mmu = s.mmu) ∧
    (s.mmu.inv = none → exec (.mmuInv v) s = .next { s with mmu := { s.mmu with inv := some { v := v, walks := s.walksOf rng.1 } } }) ∧
    (s.mmu.inv.isSome = true → ∃ u, exec (.mmuInv v) s = .next u ∧ (u.reg .mmuInverr).getLsbD 0 = true ∧ u.mmu = s.mmu) ∧
    (s.mmu.inv = none → exec .mmuInvComplete s = .next s) ∧
    (s.mmu.inv = some x → x.v = v → (s.mmu.walks.any (fun w => x.walks.contains w.id) = true → exec .mmuInvComplete s = .next s) ∧
      (s.mmu.walks.any (fun w => x.walks.contains w.id) = false → x.stores = none →
        ∃ u, exec .mmuInvComplete s = .next u ∧ u.mmu.inv.isNone = (s.storersOf rng.1).isEmpty ∧ u.mem = s.mem ∧
          (KMap.look u.mmu.coreTlb p = some l → t ∈ l → t.meets rng.1 rng.2.1 rng.2.2 = false) ∧
          (KMap.look u.mmu.dieTlb p = some l → t ∈ l → t.meets rng.1 rng.2.1 rng.2.2 = false))) ∧
    (s.mmu.pgmode.isSome = true ∨ bitsOf v.toNat 14 13 = 3 → exec (.mmuPgmode v) s = .next { s with mmu := { s.mmu with pgErr := true } }) ∧
    (s.mmu.pgmode = none → bitsOf v.toNat 14 13 ≠ 3 →
      exec (.mmuPgmode v) s = .next { s with mmu := { s.mmu with pgErr := false, pgmode := some { v := v, walks := s.walksOf rng.1 } } }) ∧
    (s.mmu.pgmode = none → exec .pgmodeComplete s = .next s) ∧
    (s.mmu.pgmode = some x → x.v = v → (s.mmu.walks.any (fun w => x.walks.contains w.id) = true → exec .pgmodeComplete s = .next s) ∧
      (s.mmu.walks.any (fun w => x.walks.contains w.id) = false → x.stores = some [] → s.ownedIn (s.rangeLines v.toNat) = [] →
        (s.rangePast (s.rangeLines v.toNat) = true → exec .pgmodeComplete s = .next { s with mmu := { s.mmu with pgmode := none } }) ∧
        (s.rangePast (s.rangeLines v.toNat) = false → exec .pgmodeComplete s = .next s))) ∧
    (s.target a = .control off → regAt (off / 8 * 8) = none → exec (.registerWrite a 8 v) s = .next s) ∧
    (s.target a = .control off → off % 8 = 0 → regAt off = some (r, i) →
      (r ∈ plain → exec (.registerWrite a 8 v) s = .next (s.setReg r i v) ∧ (s.setReg r i v).reg r i = v &&& BitVec.ofNat 64 r.info.mask) ∧
      (r.info.access = .ro → exec (.registerWrite a 8 v) s = .next s) ∧
      (r.info.access = .w1c → exec (.registerWrite a 8 v) s = .next (s.setReg r i (s.reg r i &&& ~~~v))) ∧
      (∀ q ∈ steps, q.1 = r → exec (.registerWrite a 8 v) s = .next { s with agenda := .event q.2 :: s.agenda }))

/-! ## Chrysalis -/

/-- R235 to R243: the next layer in order starts its fetch once its flag can be written, and takes free frames where they
cover it; a fetch whose source is whole ends with its layer resident in those frames, one whose source is lost or malformed
with its layer failed and its frames free, and both answer the page requests that wait on the layer. A context is defined
with every layer absent, is not undefined while in use, and a reset makes a failed layer absent with its generation kept. -/
def Obligations.LayersFetched : Prop :=
  ∀ (s : State) (ctx n m : Nat) (d : Bool) (f : Fetch) (frames : List Nat) (v : Word),
    let flag := s.flagAddr ctx n
    let ready := s.deviceReady flag 8
    let ended (u : State) : Prop := u.fetchOf ctx n = none ∧ u.station.requests.all (fun q => decide (q.layer ≠ some (ctx, n))) = true
    let s' := s.setReg .chrCtl ctx v
    let begin_ := (upTo (s'.layersOf ctx)).map (fun n => (s'.flagAddr ctx n, 8))
    let gone := ((upTo (s.layersOf ctx)).filter (fun n => s.layerState ctx n = 2)).flatMap (fun n => s.layerPlaces ctx n) ++
      ((s.chr.fetches.filter (fun f => f.ctx = ctx)).map (·.layer)).map (fun n => (s.flagAddr ctx n, 8))
    let rv : Word := BitVec.ofNat 64 (ctx * 2 ^ 58 + n)
    let gen := bitsOf (s.outsideLoad flag 8) 63 2
    (s.fetchOf ctx n = none → s.nextFetch = some (ctx, n, d) →
      (ready = false → exec (.chrysalisFetchStart ctx n) s = .next (s.deviceRequest flag 8)) ∧
      (ready = true → ∃ u, exec (.chrysalisFetchStart ctx n) s = .next u ∧
        u.chr.fetches.any (fun g => g.ctx = ctx && g.layer = n && g.demand = d) = true)) ∧
    (s.fetchOf ctx n = some f → f.frames = none → s.fetchesRunning < 16 → (s.layerDesc ctx n).bad = false →
      (s.cover f = none → exec (.chrysalisFetchStart ctx n) s = .next s) ∧
      (s.cover f = some [] → ∃ u, exec (.chrysalisFetchStart ctx n) s = .next u ∧ u.mem = s.mem ∧
        u.chr.used = s.chr.used ++ s.freeFrames.take (s.layerDesc ctx n).frames ∧
        (u.fetchOf ctx n).map (·.frames) = some (some (s.freeFrames.take (s.layerDesc ctx n).frames)))) ∧
    (s.fetchOf ctx n = some f → f.frames = some frames →
      (s.fetchBad ctx n = true → exec (.fetchComplete ctx n) s = .next s ∧
        (ready = false → exec (.fetchFail ctx n) s = .next (s.deviceRequest flag 8)) ∧
        (ready = true → ∃ u, exec (.fetchFail ctx n) s = .next u ∧ ended u ∧ u.chr.used = s.chr.used.filter (fun g => !frames.contains g))) ∧
      (s.fetchBad ctx n = false → exec (.fetchFail ctx n) s = .next s ∧
        (((s.fetchLines (s.layerDesc ctx n) frames).all (fun p => s.readReady p.1 && s.agentReady p.2 none) && s.placesReady (s.layerPlaces ctx n)) = true →
          ∃ u, exec (.fetchComplete ctx n) s = .next u ∧ ended u ∧ (u.layer ctx n).frames = frames))) ∧
    (s.chrOn ctx = true → exec (.chrCtxEnable ctx v) s = .next s) ∧
    (s.chrOn ctx = false → ctx < 64 → m < 4096 →
      (s.placesReady begin_ = false → exec (.chrCtxEnable ctx v) s = .next { (s.placesRequest begin_) with waiting := s.waiting ++ [.event (.chrCtxEnable ctx v)] }) ∧
      (s.placesReady begin_ = true → ∃ u, exec (.chrCtxEnable ctx v) s = .next u ∧
        u.reg .chrCtl ctx = v &&& BitVec.ofNat 64 RegName.chrCtl.info.mask ∧ u.layer ctx m = {})) ∧
    (s.chrOn ctx = false → exec (.chrCtxDisable ctx v) s = .next s) ∧
    (s.chrOn ctx = true → ctx < 64 →
      (s.chrInUse ctx = true → ∃ u, exec (.chrCtxDisable ctx v) s = .next u ∧ (u.reg .chrErr).getLsbD 0 = true ∧ u.chrOn ctx = true ∧ u.mem = s.mem) ∧
      (s.chrInUse ctx = false → s.placesReady gone = true → m < 4096 → ∃ u, exec (.chrCtxDisable ctx v) s = .next u ∧
        u.chrOn ctx = false ∧ u.layer ctx m = {})) ∧
    (ctx < 64 → n < 4096 → s.chrOn ctx = true → n < s.layersOf ctx →
      (s.layerState ctx n ≠ 3 → exec (.chrReset rv) s = .next s) ∧
      (s.layerState ctx n = 3 → ready = true → exec (.chrReset rv) s = .next (s.deviceWrite flag (leBytes 8 (gen * 4)))))
end

