-- ==== Sys2Proof/Laws/Lanes.lean ====
section
/-! SUPPORT. Lanes and sub-words: what splitting a word and putting it together say of each lane, and what an elementwise
operation says of each sub-word. -/

namespace Sys2Proof.Machine

/-- The number of lanes and their width fill 64 bits. -/
theorem lane_fill (w : Lane) : 64 / w.bits = w.count := by cases w <;> rfl
theorem lane_bits_pos (w : Lane) : 0 < w.bits := by cases w <;> decide
theorem lane_mul_count (w : Lane) : w.bits * w.count = 64 := by cases w <;> rfl

theorem lane_lt (w : Nat) (x : Word) (j : Nat) : lane w x j < 2 ^ w := Nat.mod_lt _ (Nat.two_pow_pos w)

@[simp] theorem splitLanes_length (w : Nat) (x : Word) : (splitLanes w x).length = 64 / w := by
  simp [splitLanes, upTo]

theorem splitLanes_getElem (w : Nat) (x : Word) (j : Nat) (hw : 0 < w) (h : j < (splitLanes w x).length) :
    (splitLanes w x)[j] = lane w x j := by
  simp only [splitLanes, upTo, List.getElem_map, List.getElem_range, bitsOf, lane]
  congr 2
  omega

/-- The digits of a number put together from parts. -/
theorem foldr_digit (w : Nat) (l : List Nat) (j : Nat) (h : j < l.length) :
    l.foldr (fun x acc => x % 2 ^ w + 2 ^ w * acc) 0 / 2 ^ (w * j) % 2 ^ w = l[j] % 2 ^ w := by
  induction l generalizing j with
  | nil => simp at h
  | cons a r ih =>
    simp only [List.foldr_cons]
    have ha : a % 2 ^ w < 2 ^ w := Nat.mod_lt _ (Nat.two_pow_pos w)
    cases j with
    | zero => simp [Nat.add_mul_mod_self_left]
    | succ k =>
      have : w * (k + 1) = w + w * k := by ring
      rw [this, pow_add, ← Nat.div_div_eq_div_mul, Nat.add_mul_div_left _ _ (Nat.two_pow_pos w), Nat.div_eq_of_lt ha,
        Nat.zero_add, ih k (by simpa using h)]
      simp

theorem foldr_lt (w : Nat) (l : List Nat) :
    l.foldr (fun x acc => x % 2 ^ w + 2 ^ w * acc) 0 < 2 ^ (w * l.length) := by
  induction l with
  | nil => simp
  | cons a r ih =>
    simp only [List.foldr_cons, List.length_cons]
    have ha : a % 2 ^ w < 2 ^ w := Nat.mod_lt _ (Nat.two_pow_pos w)
    have e : w * (r.length + 1) = w + w * r.length := by ring
    rw [e, pow_add]
    generalize r.foldr (fun x acc => x % 2 ^ w + 2 ^ w * acc) 0 = n at ih ⊢
    calc a % 2 ^ w + 2 ^ w * n < 2 ^ w + 2 ^ w * n := by omega
      _ = 2 ^ w * (n + 1) := by ring
      _ ≤ 2 ^ w * 2 ^ (w * r.length) := Nat.mul_le_mul_left _ ih

/-- A lane of a word put together from lanes. -/
theorem lane_joinLanes (w : Nat) (l : List Nat) (j : Nat) (h : j < l.length) (hl : w * l.length ≤ 64) :
    lane w (joinLanes w l) j = l[j] % 2 ^ w := by
  simp only [lane, joinLanes, BitVec.toNat_ofNat]
  rw [Nat.mod_eq_of_lt (Nat.lt_of_lt_of_le (foldr_lt w l) (Nat.pow_le_pow_right (by decide) hl)), foldr_digit w l j h]

theorem lane_lanes1 (w : Lane) (f : Nat → Nat) (a : Word) (j : Nat) (h : j < w.count) :
    lane w.bits (lanes1 w.bits f a) j = f (lane w.bits a j) % 2 ^ w.bits := by
  have hj : j < (splitLanes w.bits a).length := by simpa [lane_fill] using h
  rw [lanes1, lane_joinLanes _ _ j (by simpa using hj) (by simp [lane_fill, lane_mul_count])]
  rw [List.getElem_map, splitLanes_getElem _ _ _ (lane_bits_pos w)]

theorem lane_lanes2 (w : Lane) (f : Nat → Nat → Nat) (a b : Word) (j : Nat) (h : j < w.count) :
    lane w.bits (lanes2 w.bits f a b) j = f (lane w.bits a j) (lane w.bits b j) % 2 ^ w.bits := by
  have hj : ∀ x, j < (splitLanes w.bits x).length := fun x => by simpa [lane_fill] using h
  rw [lanes2, lane_joinLanes _ _ j (by simpa [lane_fill] using h) (by simp [lane_fill, lane_mul_count])]
  rw [List.getElem_zipWith, splitLanes_getElem _ _ _ (lane_bits_pos w), splitLanes_getElem _ _ _ (lane_bits_pos w)]

theorem lane_lanes3 (w : Lane) (f : Nat → Nat → Nat → Nat) (a b q : Word) (j : Nat) (h : j < w.count) :
    lane w.bits (lanes3 w.bits f a b q) j =
      f (lane w.bits a j) (lane w.bits b j) (lane w.bits q j) % 2 ^ w.bits := by
  rw [lanes3, lane_joinLanes _ _ j (by simpa [lane_fill] using h) (by simp [lane_fill, lane_mul_count])]
  rw [List.getElem_zipWith, List.getElem_zip, splitLanes_getElem _ _ _ (lane_bits_pos w), splitLanes_getElem _ _ _ (lane_bits_pos w),
    splitLanes_getElem _ _ _ (lane_bits_pos w)]

/-- Two words with equal lanes are equal. -/
theorem word_ext (w : Lane) (x y : Word) (h : ∀ j, j < w.count → lane w.bits x j = lane w.bits y j) : x = y := by
  apply BitVec.eq_of_getLsbD_eq
  intro i hi
  have hw := (lane_bits_pos w)
  have hj : i / w.bits < w.count := by
    rw [Nat.div_lt_iff_lt_mul hw, Nat.mul_comm, lane_mul_count w]; exact hi
  have e := congrArg (fun n => n.testBit (i % w.bits)) (h _ hj)
  simp only [lane, Nat.testBit_mod_two_pow, Nat.testBit_div_two_pow, Nat.mod_lt _ hw, decide_true, Bool.true_and,
    Nat.mod_add_div] at e
  simpa [BitVec.getLsbD] using e

theorem lane_and (w : Lane) (a b : Word) (j : Nat) : lane w.bits (a &&& b) j = lane w.bits a j &&& lane w.bits b j := by
  apply Nat.eq_of_testBit_eq; intro i
  simp only [lane, Nat.testBit_mod_two_pow, Nat.testBit_div_two_pow, BitVec.toNat_and, Nat.testBit_and]
  cases decide (i < w.bits) <;> simp
theorem lane_or (w : Lane) (a b : Word) (j : Nat) : lane w.bits (a ||| b) j = lane w.bits a j ||| lane w.bits b j := by
  apply Nat.eq_of_testBit_eq; intro i
  simp only [lane, Nat.testBit_mod_two_pow, Nat.testBit_div_two_pow, BitVec.toNat_or, Nat.testBit_or]
  cases decide (i < w.bits) <;> simp
theorem lane_xor (w : Lane) (a b : Word) (j : Nat) : lane w.bits (a ^^^ b) j = lane w.bits a j ^^^ lane w.bits b j := by
  apply Nat.eq_of_testBit_eq; intro i
  simp only [lane, Nat.testBit_mod_two_pow, Nat.testBit_div_two_pow, BitVec.toNat_xor, Nat.testBit_xor]
  cases decide (i < w.bits) <;> simp
theorem lane_not (w : Lane) (b : Word) (j : Nat) (h : j < w.count) : lane w.bits (~~~b) j = laneNot w.bits (lane w.bits b j) := by
  apply Nat.eq_of_testBit_eq; intro i
  have h64 := lane_mul_count w
  simp only [laneNot, lane, Nat.mod_mod]
  rw [Nat.testBit_mod_two_pow, Nat.testBit_div_two_pow]
  rw [show 2 ^ w.bits - 1 - b.toNat / 2 ^ (w.bits * j) % 2 ^ w.bits = 2 ^ w.bits - (b.toNat / 2 ^ (w.bits * j) % 2 ^ w.bits + 1) by omega]
  rw [Nat.testBit_two_pow_sub_succ (Nat.mod_lt _ (Nat.two_pow_pos _)), Nat.testBit_mod_two_pow, Nat.testBit_div_two_pow]
  by_cases hi : i < w.bits
  · simp only [hi, decide_true, Bool.true_and]
    have : i + w.bits * j < 64 := by nlinarith
    have e := BitVec.getLsbD_not (x := b) (i := i + w.bits * j)
    simp only [BitVec.getLsbD, this, decide_true, Bool.true_and] at e
    exact e
  · simp [hi]

/-- The reading of a lane determines the lane. -/
theorem laneInt_inj (w : Lane) (sg : Bool) (a b : Nat) (ha : a < 2 ^ w.bits) (hb : b < 2 ^ w.bits)
    (h : laneInt w.bits sg a = laneInt w.bits sg b) : a = b := by
  unfold laneInt at h
  have : ((2 ^ w.bits : Nat) : Int) = (2 : Int) ^ w.bits := by push_cast; rfl
  split at h <;> split at h <;> omega

/-! ## Sub-words -/

theorem subWord_beatOfWords (l : List Word) (m : Nat) (h : m < l.length) (hl : l.length ≤ 4) :
    subWord (beatOfWords l) m = l[m] := by
  have e : l.foldr (fun w acc => w.toNat + 2 ^ 64 * acc) 0
      = (l.map BitVec.toNat).foldr (fun x acc => x % 2 ^ 64 + 2 ^ 64 * acc) 0 := by
    clear h hl
    induction l with
    | nil => rfl
    | cons a r ih => simp only [List.foldr_cons, List.map_cons, ih, Nat.mod_eq_of_lt a.isLt]
  apply BitVec.eq_of_toNat_eq
  rw [subWord, BitVec.extractLsb'_toNat, beatOfWords, e, BitVec.toNat_ofNat, Nat.shiftRight_eq_div_pow,
    Nat.mod_eq_of_lt (Nat.lt_of_lt_of_le (foldr_lt 64 _) (Nat.pow_le_pow_right (by decide) (by simp; omega))),
    foldr_digit 64 _ m (by simpa using h)]
  simp only [List.getElem_map]
  exact Nat.mod_eq_of_lt l[m].isLt

@[simp] theorem subWord_beatOf (w : Word) : subWord (beatOf w) 0 = w := by
  apply BitVec.eq_of_getLsbD_eq
  intro i hi
  simp [subWord, beatOf, hi]
  omega

/-- One word in a beat is that word alone. -/
theorem beatOfWords_one (w : Word) : beatOfWords [w] = beatOf w := by
  apply BitVec.eq_of_toNat_eq
  have := w.isLt
  simp [beatOfWords, beatOf]

/-- The sub-words and the flags of an elementwise result of one operand. -/
theorem elementwise1_sub (op : Nat → Word → Word × FpFlags) (f : Firing) (m : Nat) (h : m < f.subs) :
    subWord (elementwise1 op f.tokA).data m = (op m (f.tokA.sub m)).1 := by
  unfold Firing.subs at h
  unfold elementwise1
  by_cases b : f.tokA.isBeat = true
  · simp only [b, if_true] at h ⊢
    rw [Data.ofWords, subWord_beatOfWords _ _ (by simpa [upTo] using h) (by simp [upTo])]
    simp [upTo]
  · simp only [b, if_false, Bool.false_eq_true] at h ⊢
    obtain rfl : m = 0 := by omega
    simp [Data.ofWords, beatOfWords_one, Token.sub, b]

theorem elementwise2_some (op : Nat → Word → Word → Word × FpFlags) (f : Firing) (g : f.Agree) :
    ∃ d, elementwise2 op f.tokA f.tokB = some d ∧
      (∀ m, m < f.subs → subWord d.data m = (op m (f.tokA.sub m) (f.tokB.sub m)).1) ∧
      d.flags = orFlags ((upTo f.subs).map (fun m => (op m (f.tokA.sub m) (f.tokB.sub m)).2)) := by
  unfold Firing.subs elementwise2
  by_cases b : f.tokA.isBeat = true
  · simp only [b, if_true]
    refine ⟨_, rfl, fun m h => ?_, by simp [Data.ofWords, List.map_map, Function.comp_def]⟩
    rw [Data.ofWords, subWord_beatOfWords _ _ (by simpa [upTo] using h) (by simp [upTo])]
    simp [upTo]
  · have b' : f.tokB.isBeat = false := by rcases g with g | g; exact absurd g b; exact g
    simp only [b, b', if_false, Bool.false_eq_true]
    refine ⟨_, rfl, fun m h => ?_, by simp [Data.ofWords, upTo, Token.sub, b, b', List.range_succ]⟩
    obtain rfl : m = 0 := by omega
    simp [Data.ofWords, beatOfWords_one, Token.sub, b, b']

theorem elementwise3_some (op : Nat → Word → Word → Word → Word × FpFlags) (f : Firing) (g : f.Agree3) :
    ∃ d, elementwise3 op f.tokA f.tokB f.tokQ = some d ∧
      (∀ m, m < f.subs → subWord d.data m = (op m (f.tokA.sub m) (f.tokB.sub m) (f.tokQ.sub m)).1) ∧
      d.flags = orFlags ((upTo f.subs).map (fun m => (op m (f.tokA.sub m) (f.tokB.sub m) (f.tokQ.sub m)).2)) := by
  unfold Firing.subs elementwise3
  by_cases b : f.tokA.isBeat = true
  · simp only [b, if_true]
    refine ⟨_, rfl, fun m h => ?_, by simp [Data.ofWords, List.map_map, Function.comp_def]⟩
    rw [Data.ofWords, subWord_beatOfWords _ _ (by simpa [upTo] using h) (by simp [upTo])]
    simp [upTo]
  · obtain ⟨b', q'⟩ : f.tokB.isBeat = false ∧ f.tokQ.isBeat = false := by
      rcases g with g | g; exact absurd g b; exact g
    simp only [b, b', q', if_false, Bool.false_eq_true, Bool.or_self]
    refine ⟨_, rfl, fun m h => ?_, by simp [Data.ofWords, upTo, Token.sub, b, b', q', List.range_succ]⟩
    obtain rfl : m = 0 := by omega
    simp [Data.ofWords, beatOfWords_one, Token.sub, b, b', q']

/-- Flags that are all zero are zero together. -/
theorem orFlags_zero (n : Nat) : orFlags ((upTo n).map (fun _ => (0 : FpFlags))) = 0 := by
  simp only [orFlags]
  induction upTo n with
  | nil => rfl
  | cons a r ih => simpa using ih

/-! ## Firings -/

theorem withFiring_some (s : State) (f : Firing) (k : State → Firing → State) (h : s.firing = some f) :
    withFiring s k = .next (k s.taken f) := by
  simp [withFiring, h, State.taken]

theorem withFiring_none (s : State) (k : State → Firing → State) (h : s.firing = none) : withFiring s k = .next s := by
  simp [withFiring, h]

/-- The own effect of a firing. -/
theorem fireCases_own (r : Route) (fmt : Fmt) (own : State → Firing → State) (s : State) (f : Firing)
    (hd : f.deferred = false) (hp : f.pred r.ta = true) : fireCases r fmt own s f = own s f := by
  simp [fireCases, hd, hp]

/-- Every meaning of a slot that stands under withFiring answers a next state. -/
theorem withFiring_next (s : State) (k : State → Firing → State) : ∃ t, withFiring s k = .next t := by
  unfold withFiring
  split <;> exact ⟨_, rfl⟩

theorem dataFiring_some (r : Route) (fmt : Fmt) (compute : State → Firing → Option Data) (s : State) (f : Firing) (d : Data)
    (h : s.Fires f r.ta) (hc : compute s.taken f = some d) : dataFiring r fmt compute s = .next (s.yields f r fmt d) := by
  obtain ⟨hf, hd, hp⟩ := h
  rw [dataFiring, valueFiring, withFiring_some _ _ _ hf, fireCases_own _ _ _ _ _ hd hp]
  simp [valueEffect, hc, State.yields, Out.data, Out.both]

theorem dataFiring_none (r : Route) (fmt : Fmt) (compute : State → Firing → Option Data) (s : State) (f : Firing)
    (h : s.Fires f r.ta) (hc : compute s.taken f = none) :
    dataFiring r fmt compute s = .next (s.taken.freezeFiring f r.ta codeFMTMIS) := by
  obtain ⟨hf, hd, hp⟩ := h
  rw [dataFiring, valueFiring, withFiring_some _ _ _ hf, fireCases_own _ _ _ _ _ hd hp]
  simp [valueEffect, hc]

/-- An elementwise integer instruction of two operands completes lane by lane. -/
theorem intFiring2_lanes (r : Route) (w : Lane) (g : Nat → Nat → Nat → Nat) (s : State) (f : Firing)
    (h : s.Fires f r.ta) (a : f.Agree) :
    ∃ d : Beat, intFiring2 r w g s = .next (s.yields f r .int ⟨d, 0⟩) ∧
      ∀ m j, m < f.subs → j < w.count →
        lane w.bits (subWord d m) j = g w.bits (lane w.bits (f.tokA.sub m) j) (lane w.bits (f.tokB.sub m) j) % 2 ^ w.bits := by
  obtain ⟨⟨d, fl⟩, hd, hs, hf⟩ := elementwise2_some (fun _ a b => (lanes2 w.bits (g w.bits) a b, (0 : FpFlags))) f a
  rw [orFlags_zero] at hf
  simp only at hf hs
  subst hf
  exact ⟨d, dataFiring_some _ _ _ _ _ _ h hd, fun m j hm hj => by rw [hs m hm, lane_lanes2 _ _ _ _ _ hj]⟩

theorem intFiring1_lanes (r : Route1) (w : Lane) (g : Nat → Nat → Nat) (s : State) (f : Firing)
    (h : s.Fires f r.full.ta) :
    ∃ d : Beat, intFiring1 r w g s = .next (s.yields f r.full .int ⟨d, 0⟩) ∧
      ∀ m j, m < f.subs → j < w.count →
        lane w.bits (subWord d m) j = g w.bits (lane w.bits (f.tokA.sub m) j) % 2 ^ w.bits := by
  have hs := elementwise1_sub (fun _ a => (lanes1 w.bits (g w.bits) a, (0 : FpFlags))) f
  refine ⟨(elementwise1 (fun _ a => (lanes1 w.bits (g w.bits) a, (0 : FpFlags))) f.tokA).data, ?_, fun m j hm hj => by
    rw [hs m hm, lane_lanes1 _ _ _ _ hj]⟩
  rw [intFiring1, dataFiring_some _ _ _ _ _ _ h rfl]
  congr 3
  unfold elementwise1
  split <;> simp [Data.ofWords, orFlags, Function.comp_def, upTo]

theorem intFiring3_lanes (r : Route) (w : Lane) (g : Nat → Nat → Nat → Nat → Nat) (s : State) (f : Firing)
    (h : s.Fires f r.ta) (a : f.Agree3) :
    ∃ d : Beat, intFiring3 r w g s = .next (s.yields f r .int ⟨d, 0⟩) ∧
      ∀ m j, m < f.subs → j < w.count →
        lane w.bits (subWord d m) j =
          g w.bits (lane w.bits (f.tokA.sub m) j) (lane w.bits (f.tokB.sub m) j) (lane w.bits (f.tokQ.sub m) j) % 2 ^ w.bits := by
  obtain ⟨⟨d, fl⟩, hd, hs, hf⟩ := elementwise3_some (fun _ a b q => (lanes3 w.bits (g w.bits) a b q, (0 : FpFlags))) f a
  rw [orFlags_zero] at hf
  simp only at hf hs
  subst hf
  exact ⟨d, dataFiring_some _ _ _ _ _ _ h hd, fun m j hm hj => by rw [hs m hm, lane_lanes3 _ _ _ _ _ _ hj]⟩

/-! ## Elements (Table 4.4) -/

theorem splitLanes_eq (w : Nat) (hw : 0 < w) (x : Word) : splitLanes w x = (List.range (64 / w)).map (lane w x) := by
  apply List.ext_getElem
  · simp
  · intro i h1 h2
    rw [splitLanes_getElem _ _ _ hw]; simp

/-- The elements of a word of the floating-point class are its parts in order. -/
theorem wordElems_felem (e : FElem) (x : Word) :
    wordElems (felemFmt e) 64 x = (List.range (felemFmt e).count).map (elem (felemFmt e) x) := by
  cases e
  · simp [wordElems, felemFmt, Fmt.count, elem, bitsOf]
  · exact splitLanes_eq 16 (by decide) x

theorem elem_joinElems (e : FElem) (l : List Nat) (h : l.length = (felemFmt e).count) (j : Nat) (hj : j < (felemFmt e).count) :
    elem (felemFmt e) (joinElems (felemFmt e) l) j = l[j] % 2 ^ felemBits e := by
  cases e
  · match l, h with
    | [a], _ =>
      obtain rfl : j = 0 := by simp [felemFmt, Fmt.count] at hj; omega
      simp only [elem, felemFmt, joinElems, List.headD_cons, BitVec.toNat_ofNat, felemBits, List.getElem_cons_zero]
      omega
  · simp only [felemFmt, Fmt.count] at h hj
    exact lane_joinLanes 16 l j (by omega) (by omega)

/-- A bit of several flag words together. -/
theorem orFlags_bit (l : List FpFlags) (b : Nat) : (orFlags l).getLsbD b = true ↔ ∃ y ∈ l, y.getLsbD b = true := by
  have key : ∀ (l : List FpFlags) (a : FpFlags),
      (l.foldl (fun a f => a ||| f) a).getLsbD b = true ↔ a.getLsbD b = true ∨ ∃ y ∈ l, y.getLsbD b = true := by
    intro l
    induction l with
    | nil => simp
    | cons x r ih => intro a; simp only [List.foldl_cons, ih, BitVec.getLsbD_or]; simp [or_assoc]
  rw [orFlags, key]; simp

/-- The elements and flags of an elementwise result whose sub-words are put together from elements. -/
theorem elems_of_words (s : State) (f : Firing) (r : Route) (i : Instr) (e : FElem) (op : Nat → Nat → Nat × FpFlags)
    (d : Data) (he : exec i s = .next (s.yields f r (felemFmt e) d)) (w : Nat → Word × FpFlags)
    (hw : ∀ m, w m = elemResult (felemFmt e) ((List.range (felemFmt e).count).map (op m)))
    (hs : ∀ m, m < f.subs → subWord d.data m = (w m).1) (hf : d.flags = orFlags ((upTo f.subs).map (fun m => (w m).2))) :
    s.Elems f r i e op := by
  refine ⟨d, he, fun m j hm hj => ?_, fun b _ => ?_⟩
  · rw [hs m hm, hw, elemResult, elem_joinElems e _ (by simp) j hj]
    simp
  · rw [hf, orFlags_bit]
    simp only [List.mem_map, upTo, List.mem_range, exists_exists_and_eq_and, hw, elemResult, orFlags_bit]
    constructor
    · rintro ⟨m, hm, j, hj, h⟩; exact ⟨m, j, hm, hj, h⟩
    · rintro ⟨m, j, hm, hj, h⟩; exact ⟨m, hm, j, hj, h⟩

/-- The flags of an elementwise result of one operand. -/
theorem elementwise1_flags (op : Nat → Word → Word × FpFlags) (f : Firing) :
    (elementwise1 op f.tokA).flags = orFlags ((upTo f.subs).map (fun m => (op m (f.tokA.sub m)).2)) := by
  unfold Firing.subs elementwise1
  by_cases b : f.tokA.isBeat = true
  · simp only [b, if_true]
    simp [Data.ofWords, List.map_map, Function.comp_def]
  · simp only [b, if_false, Bool.false_eq_true]
    simp [Data.ofWords, upTo, Token.sub, b, List.range_succ]

theorem floatFiring2_elems (r : Route) (e : FElem) (c : FloatCtl) (op : RoundCtl → FloatFmt → Nat → Nat → Nat × FpFlags)
    (s : State) (f : Firing) (i : Instr) (hi : exec i s = floatFiring2 r e c op s) (h : s.Fires f r.ta) (a : f.Agree) :
    s.Elems f r i e (fun m j => op (roundCtl c (s.stochCtx f r) ((felemFmt e).count * m + j)) (.ofTag (felemFmt e))
      (elem (felemFmt e) (f.tokA.sub m) j) (elem (felemFmt e) (f.tokB.sub m) j)) := by
  obtain ⟨d, hd, hs, hf⟩ := elementwise2_some
    (fwords2 e (fun i t a b => op (roundCtl c (s.stochCtx f r) i) t a b)) f a
  refine elems_of_words s f r i e _ d (hi.trans (dataFiring_some _ _ _ _ _ _ h hd)) _ (fun m => ?_) hs hf
  simp only [fwords2, wordElems_felem]
  congr 1
  apply List.ext_getElem
  · simp
  · intro k h1 h2
    simp

theorem floatFiring1_elems (r : Route1) (e : FElem) (c : FloatCtl) (op : RoundCtl → FloatFmt → Nat → Nat × FpFlags)
    (s : State) (f : Firing) (i : Instr) (hi : exec i s = floatFiring1 r e c op s) (h : s.Fires f .unary) :
    s.Elems f r.full i e (fun m j => op (roundCtl c (s.stochCtx f r.full) ((felemFmt e).count * m + j)) (.ofTag (felemFmt e))
      (elem (felemFmt e) (f.tokA.sub m) j)) := by
  refine elems_of_words s f r.full i e _ _ (hi.trans (dataFiring_some r.full _ _ _ f _ h rfl))
    (fun m => fwords1 e (fun i t a => op (roundCtl c (s.stochCtx f r.full) i) t a) m (f.tokA.sub m)) (fun m => ?_)
    (fun m hm => elementwise1_sub _ f m hm) (elementwise1_flags _ f)
  simp only [fwords1, wordElems_felem]
  congr 1
  apply List.ext_getElem
  · simp
  · intro k h1 h2
    simp

end Sys2Proof.Machine
end

