-- ==== Sys2Proof/Laws/KMap.lean ====
section
/-! SUPPORT. The laws of keyed lists: an entry read after it is set, and every other entry left alone. -/

namespace Sys2Proof

@[simp] theorem KMap.look_put_same {α : Type} (m : KMap α) (k : Nat) (v : α) : KMap.look (KMap.put m k v) k = some v := by
  induction m with
  | nil => simp [KMap.put, KMap.look]
  | cons x r ih =>
    obtain ⟨j, w⟩ := x
    simp only [KMap.put]
    split
    · simp [KMap.look]
    · split
      · simp [KMap.look]
      · rename_i h _
        simp [KMap.look, h, ih]

theorem KMap.look_put_other {α : Type} (m : KMap α) (k j : Nat) (v : α) (h : j ≠ k) :
    KMap.look (KMap.put m k v) j = KMap.look m j := by
  induction m with
  | nil => simp [KMap.put, KMap.look, h]
  | cons x r ih =>
    obtain ⟨i, w⟩ := x
    simp only [KMap.put]
    split
    · rename_i e; subst e; simp [KMap.look, h]
    · split
      · simp [KMap.look, h]
      · simp [KMap.look, ih]

@[simp] theorem KMap.lookD_put_same {α : Type} (m : KMap α) (k : Nat) (v d : α) :
    KMap.lookD (KMap.put m k v) k d = v := by simp [KMap.lookD]

theorem KMap.lookD_put_other {α : Type} (m : KMap α) (k j : Nat) (v d : α) (h : j ≠ k) :
    KMap.lookD (KMap.put m k v) j d = KMap.lookD m j d := by simp [KMap.lookD, KMap.look_put_other m k j v h]

/-- An entry read after a change of entry k. -/
theorem KMap.lookD_put {α : Type} (m : KMap α) (k j : Nat) (v d : α) :
    KMap.lookD (KMap.put m k v) j d = if j = k then v else KMap.lookD m j d := by
  split
  · rename_i h; subst h; simp
  · rename_i h; exact KMap.lookD_put_other m k j v d h

@[simp] theorem KMap.lookD_alter_same {α : Type} (m : KMap α) (k : Nat) (d : α) (f : α → α) :
    KMap.lookD (KMap.alter m k d f) k d = f (KMap.lookD m k d) := by simp [KMap.alter]

theorem KMap.lookD_alter_other {α : Type} (m : KMap α) (k j : Nat) (d e : α) (f : α → α) (h : j ≠ k) :
    KMap.lookD (KMap.alter m k d f) j e = KMap.lookD m j e := by
  simp [KMap.alter, KMap.lookD_put_other _ _ _ _ _ h]

/-- An entry read after a change of entry k. -/
theorem KMap.lookD_alter {α : Type} (m : KMap α) (k j : Nat) (d : α) (f : α → α) :
    KMap.lookD (KMap.alter m k d f) j d = if j = k then f (KMap.lookD m k d) else KMap.lookD m j d := by
  simp [KMap.alter, KMap.lookD_put]

@[simp] theorem KMap.look_nil {α : Type} (k : Nat) : KMap.look ([] : KMap α) k = none := rfl
@[simp] theorem KMap.lookD_nil {α : Type} (k : Nat) (d : α) : KMap.lookD ([] : KMap α) k d = d := rfl

theorem KMap.look_del_same {α : Type} (m : KMap α) (k : Nat) : KMap.look (KMap.del m k) k = none := by
  induction m with
  | nil => rfl
  | cons x r ih =>
    obtain ⟨j, w⟩ := x
    by_cases h : j = k
    · subst h; simpa [KMap.del] using ih
    · have : k ≠ j := fun e => h e.symm
      simpa [KMap.del, h, KMap.look, this] using ih

theorem KMap.look_del_other {α : Type} (m : KMap α) (k j : Nat) (hjk : j ≠ k) :
    KMap.look (KMap.del m k) j = KMap.look m j := by
  induction m with
  | nil => rfl
  | cons x r ih =>
    obtain ⟨i, w⟩ := x
    by_cases h : i = k
    · subst h; simpa [KMap.del, KMap.look, hjk] using ih
    · simp only [KMap.del, ne_eq, decide_not] at ih ⊢
      simp [h, KMap.look, ih]

end Sys2Proof
end

