-- ==== Sys2Proof/Laws/State.lean ====
section
/-! SUPPORT. What each named update of State leaves as it was, field by field, and what the accessors of cores, tiles and
threads read after an update. -/

namespace Sys2Proof.Machine

/-! ### updCore -/

@[simp] theorem State.updCore_time (s : State) (c : Nat) (g : Core → Core) : (s.updCore c g).time = s.time := rfl
@[simp] theorem State.updCore_regs (s : State) (c : Nat) (g : Core → Core) : (s.updCore c g).regs = s.regs := rfl
@[simp] theorem State.updCore_mem (s : State) (c : Nat) (g : Core → Core) : (s.updCore c g).mem = s.mem := rfl
@[simp] theorem State.updCore_full (s : State) (c : Nat) (g : Core → Core) : (s.updCore c g).full = s.full := rfl
@[simp] theorem State.updCore_poison (s : State) (c : Nat) (g : Core → Core) : (s.updCore c g).poison = s.poison := rfl
@[simp] theorem State.updCore_failed (s : State) (c : Nat) (g : Core → Core) : (s.updCore c g).failed = s.failed := rfl
@[simp] theorem State.updCore_stage (s : State) (c : Nat) (g : Core → Core) : (s.updCore c g).stage = s.stage := rfl
@[simp] theorem State.updCore_hbm (s : State) (c : Nat) (g : Core → Core) : (s.updCore c g).hbm = s.hbm := rfl
@[simp] theorem State.updCore_coh (s : State) (c : Nat) (g : Core → Core) : (s.updCore c g).coh = s.coh := rfl
@[simp] theorem State.updCore_mmu (s : State) (c : Nat) (g : Core → Core) : (s.updCore c g).mmu = s.mmu := rfl
@[simp] theorem State.updCore_images (s : State) (c : Nat) (g : Core → Core) : (s.updCore c g).images = s.images := rfl
@[simp] theorem State.updCore_cfgCache (s : State) (c : Nat) (g : Core → Core) : (s.updCore c g).cfgCache = s.cfgCache := rfl
@[simp] theorem State.updCore_invals (s : State) (c : Nat) (g : Core → Core) : (s.updCore c g).invals = s.invals := rfl
@[simp] theorem State.updCore_queues (s : State) (c : Nat) (g : Core → Core) : (s.updCore c g).queues = s.queues := rfl
@[simp] theorem State.updCore_grids (s : State) (c : Nat) (g : Core → Core) : (s.updCore c g).grids = s.grids := rfl
@[simp] theorem State.updCore_dist (s : State) (c : Nat) (g : Core → Core) : (s.updCore c g).dist = s.dist := rfl
@[simp] theorem State.updCore_teams (s : State) (c : Nat) (g : Core → Core) : (s.updCore c g).teams = s.teams := rfl
@[simp] theorem State.updCore_saves (s : State) (c : Nat) (g : Core → Core) : (s.updCore c g).saves = s.saves := rfl
@[simp] theorem State.updCore_contexts (s : State) (c : Nat) (g : Core → Core) : (s.updCore c g).contexts = s.contexts := rfl
@[simp] theorem State.updCore_engines (s : State) (c : Nat) (g : Core → Core) : (s.updCore c g).engines = s.engines := rfl
@[simp] theorem State.updCore_chr (s : State) (c : Nat) (g : Core → Core) : (s.updCore c g).chr = s.chr := rfl
@[simp] theorem State.updCore_station (s : State) (c : Nat) (g : Core → Core) : (s.updCore c g).station = s.station := rfl
@[simp] theorem State.updCore_links (s : State) (c : Nat) (g : Core → Core) : (s.updCore c g).links = s.links := rfl
@[simp] theorem State.updCore_elog (s : State) (c : Nat) (g : Core → Core) : (s.updCore c g).elog = s.elog := rfl
@[simp] theorem State.updCore_checks (s : State) (c : Nat) (g : Core → Core) : (s.updCore c g).checks = s.checks := rfl
@[simp] theorem State.updCore_dbg (s : State) (c : Nat) (g : Core → Core) : (s.updCore c g).dbg = s.dbg := rfl
@[simp] theorem State.updCore_rpl (s : State) (c : Nat) (g : Core → Core) : (s.updCore c g).rpl = s.rpl := rfl
@[simp] theorem State.updCore_sec (s : State) (c : Nat) (g : Core → Core) : (s.updCore c g).sec = s.sec := rfl
@[simp] theorem State.updCore_hostOut (s : State) (c : Nat) (g : Core → Core) : (s.updCore c g).hostOut = s.hostOut := rfl
@[simp] theorem State.updCore_timing (s : State) (c : Nat) (g : Core → Core) : (s.updCore c g).timing = s.timing := rfl
@[simp] theorem State.updCore_agenda (s : State) (c : Nat) (g : Core → Core) : (s.updCore c g).agenda = s.agenda := rfl
@[simp] theorem State.updCore_fires (s : State) (c : Nat) (g : Core → Core) : (s.updCore c g).fires = s.fires := rfl
@[simp] theorem State.updCore_waiting (s : State) (c : Nat) (g : Core → Core) : (s.updCore c g).waiting = s.waiting := rfl
@[simp] theorem State.updCore_firing (s : State) (c : Nat) (g : Core → Core) : (s.updCore c g).firing = s.firing := rfl
@[simp] theorem State.updCore_free (s : State) (c : Nat) (g : Core → Core) : (s.updCore c g).free = s.free := rfl
@[simp] theorem State.updCore_nextId (s : State) (c : Nat) (g : Core → Core) : (s.updCore c g).nextId = s.nextId := rfl

/-! ### updTile -/

@[simp] theorem State.updTile_time (s : State) (c t : Nat) (g : Tile → Tile) : (s.updTile c t g).time = s.time := rfl
@[simp] theorem State.updTile_regs (s : State) (c t : Nat) (g : Tile → Tile) : (s.updTile c t g).regs = s.regs := rfl
@[simp] theorem State.updTile_mem (s : State) (c t : Nat) (g : Tile → Tile) : (s.updTile c t g).mem = s.mem := rfl
@[simp] theorem State.updTile_full (s : State) (c t : Nat) (g : Tile → Tile) : (s.updTile c t g).full = s.full := rfl
@[simp] theorem State.updTile_poison (s : State) (c t : Nat) (g : Tile → Tile) : (s.updTile c t g).poison = s.poison := rfl
@[simp] theorem State.updTile_failed (s : State) (c t : Nat) (g : Tile → Tile) : (s.updTile c t g).failed = s.failed := rfl
@[simp] theorem State.updTile_stage (s : State) (c t : Nat) (g : Tile → Tile) : (s.updTile c t g).stage = s.stage := rfl
@[simp] theorem State.updTile_hbm (s : State) (c t : Nat) (g : Tile → Tile) : (s.updTile c t g).hbm = s.hbm := rfl
@[simp] theorem State.updTile_coh (s : State) (c t : Nat) (g : Tile → Tile) : (s.updTile c t g).coh = s.coh := rfl
@[simp] theorem State.updTile_mmu (s : State) (c t : Nat) (g : Tile → Tile) : (s.updTile c t g).mmu = s.mmu := rfl
@[simp] theorem State.updTile_images (s : State) (c t : Nat) (g : Tile → Tile) : (s.updTile c t g).images = s.images := rfl
@[simp] theorem State.updTile_cfgCache (s : State) (c t : Nat) (g : Tile → Tile) : (s.updTile c t g).cfgCache = s.cfgCache := rfl
@[simp] theorem State.updTile_invals (s : State) (c t : Nat) (g : Tile → Tile) : (s.updTile c t g).invals = s.invals := rfl
@[simp] theorem State.updTile_queues (s : State) (c t : Nat) (g : Tile → Tile) : (s.updTile c t g).queues = s.queues := rfl
@[simp] theorem State.updTile_grids (s : State) (c t : Nat) (g : Tile → Tile) : (s.updTile c t g).grids = s.grids := rfl
@[simp] theorem State.updTile_dist (s : State) (c t : Nat) (g : Tile → Tile) : (s.updTile c t g).dist = s.dist := rfl
@[simp] theorem State.updTile_teams (s : State) (c t : Nat) (g : Tile → Tile) : (s.updTile c t g).teams = s.teams := rfl
@[simp] theorem State.updTile_saves (s : State) (c t : Nat) (g : Tile → Tile) : (s.updTile c t g).saves = s.saves := rfl
@[simp] theorem State.updTile_contexts (s : State) (c t : Nat) (g : Tile → Tile) : (s.updTile c t g).contexts = s.contexts := rfl
@[simp] theorem State.updTile_engines (s : State) (c t : Nat) (g : Tile → Tile) : (s.updTile c t g).engines = s.engines := rfl
@[simp] theorem State.updTile_chr (s : State) (c t : Nat) (g : Tile → Tile) : (s.updTile c t g).chr = s.chr := rfl
@[simp] theorem State.updTile_station (s : State) (c t : Nat) (g : Tile → Tile) : (s.updTile c t g).station = s.station := rfl
@[simp] theorem State.updTile_links (s : State) (c t : Nat) (g : Tile → Tile) : (s.updTile c t g).links = s.links := rfl
@[simp] theorem State.updTile_elog (s : State) (c t : Nat) (g : Tile → Tile) : (s.updTile c t g).elog = s.elog := rfl
@[simp] theorem State.updTile_checks (s : State) (c t : Nat) (g : Tile → Tile) : (s.updTile c t g).checks = s.checks := rfl
@[simp] theorem State.updTile_dbg (s : State) (c t : Nat) (g : Tile → Tile) : (s.updTile c t g).dbg = s.dbg := rfl
@[simp] theorem State.updTile_rpl (s : State) (c t : Nat) (g : Tile → Tile) : (s.updTile c t g).rpl = s.rpl := rfl
@[simp] theorem State.updTile_sec (s : State) (c t : Nat) (g : Tile → Tile) : (s.updTile c t g).sec = s.sec := rfl
@[simp] theorem State.updTile_hostOut (s : State) (c t : Nat) (g : Tile → Tile) : (s.updTile c t g).hostOut = s.hostOut := rfl
@[simp] theorem State.updTile_timing (s : State) (c t : Nat) (g : Tile → Tile) : (s.updTile c t g).timing = s.timing := rfl
@[simp] theorem State.updTile_agenda (s : State) (c t : Nat) (g : Tile → Tile) : (s.updTile c t g).agenda = s.agenda := rfl
@[simp] theorem State.updTile_fires (s : State) (c t : Nat) (g : Tile → Tile) : (s.updTile c t g).fires = s.fires := rfl
@[simp] theorem State.updTile_waiting (s : State) (c t : Nat) (g : Tile → Tile) : (s.updTile c t g).waiting = s.waiting := rfl
@[simp] theorem State.updTile_firing (s : State) (c t : Nat) (g : Tile → Tile) : (s.updTile c t g).firing = s.firing := rfl
@[simp] theorem State.updTile_free (s : State) (c t : Nat) (g : Tile → Tile) : (s.updTile c t g).free = s.free := rfl
@[simp] theorem State.updTile_nextId (s : State) (c t : Nat) (g : Tile → Tile) : (s.updTile c t g).nextId = s.nextId := rfl

/-! ### updCtx -/

@[simp] theorem State.updCtx_time (s : State) (c t : Nat) (h : Bool) (g : PlaneCtx → PlaneCtx) : (s.updCtx c t h g).time = s.time := rfl
@[simp] theorem State.updCtx_regs (s : State) (c t : Nat) (h : Bool) (g : PlaneCtx → PlaneCtx) : (s.updCtx c t h g).regs = s.regs := rfl
@[simp] theorem State.updCtx_mem (s : State) (c t : Nat) (h : Bool) (g : PlaneCtx → PlaneCtx) : (s.updCtx c t h g).mem = s.mem := rfl
@[simp] theorem State.updCtx_full (s : State) (c t : Nat) (h : Bool) (g : PlaneCtx → PlaneCtx) : (s.updCtx c t h g).full = s.full := rfl
@[simp] theorem State.updCtx_poison (s : State) (c t : Nat) (h : Bool) (g : PlaneCtx → PlaneCtx) : (s.updCtx c t h g).poison = s.poison := rfl
@[simp] theorem State.updCtx_failed (s : State) (c t : Nat) (h : Bool) (g : PlaneCtx → PlaneCtx) : (s.updCtx c t h g).failed = s.failed := rfl
@[simp] theorem State.updCtx_stage (s : State) (c t : Nat) (h : Bool) (g : PlaneCtx → PlaneCtx) : (s.updCtx c t h g).stage = s.stage := rfl
@[simp] theorem State.updCtx_hbm (s : State) (c t : Nat) (h : Bool) (g : PlaneCtx → PlaneCtx) : (s.updCtx c t h g).hbm = s.hbm := rfl
@[simp] theorem State.updCtx_coh (s : State) (c t : Nat) (h : Bool) (g : PlaneCtx → PlaneCtx) : (s.updCtx c t h g).coh = s.coh := rfl
@[simp] theorem State.updCtx_mmu (s : State) (c t : Nat) (h : Bool) (g : PlaneCtx → PlaneCtx) : (s.updCtx c t h g).mmu = s.mmu := rfl
@[simp] theorem State.updCtx_images (s : State) (c t : Nat) (h : Bool) (g : PlaneCtx → PlaneCtx) : (s.updCtx c t h g).images = s.images := rfl
@[simp] theorem State.updCtx_cfgCache (s : State) (c t : Nat) (h : Bool) (g : PlaneCtx → PlaneCtx) : (s.updCtx c t h g).cfgCache = s.cfgCache := rfl
@[simp] theorem State.updCtx_invals (s : State) (c t : Nat) (h : Bool) (g : PlaneCtx → PlaneCtx) : (s.updCtx c t h g).invals = s.invals := rfl
@[simp] theorem State.updCtx_queues (s : State) (c t : Nat) (h : Bool) (g : PlaneCtx → PlaneCtx) : (s.updCtx c t h g).queues = s.queues := rfl
@[simp] theorem State.updCtx_grids (s : State) (c t : Nat) (h : Bool) (g : PlaneCtx → PlaneCtx) : (s.updCtx c t h g).grids = s.grids := rfl
@[simp] theorem State.updCtx_dist (s : State) (c t : Nat) (h : Bool) (g : PlaneCtx → PlaneCtx) : (s.updCtx c t h g).dist = s.dist := rfl
@[simp] theorem State.updCtx_teams (s : State) (c t : Nat) (h : Bool) (g : PlaneCtx → PlaneCtx) : (s.updCtx c t h g).teams = s.teams := rfl
@[simp] theorem State.updCtx_saves (s : State) (c t : Nat) (h : Bool) (g : PlaneCtx → PlaneCtx) : (s.updCtx c t h g).saves = s.saves := rfl
@[simp] theorem State.updCtx_contexts (s : State) (c t : Nat) (h : Bool) (g : PlaneCtx → PlaneCtx) : (s.updCtx c t h g).contexts = s.contexts := rfl
@[simp] theorem State.updCtx_engines (s : State) (c t : Nat) (h : Bool) (g : PlaneCtx → PlaneCtx) : (s.updCtx c t h g).engines = s.engines := rfl
@[simp] theorem State.updCtx_chr (s : State) (c t : Nat) (h : Bool) (g : PlaneCtx → PlaneCtx) : (s.updCtx c t h g).chr = s.chr := rfl
@[simp] theorem State.updCtx_station (s : State) (c t : Nat) (h : Bool) (g : PlaneCtx → PlaneCtx) : (s.updCtx c t h g).station = s.station := rfl
@[simp] theorem State.updCtx_links (s : State) (c t : Nat) (h : Bool) (g : PlaneCtx → PlaneCtx) : (s.updCtx c t h g).links = s.links := rfl
@[simp] theorem State.updCtx_elog (s : State) (c t : Nat) (h : Bool) (g : PlaneCtx → PlaneCtx) : (s.updCtx c t h g).elog = s.elog := rfl
@[simp] theorem State.updCtx_checks (s : State) (c t : Nat) (h : Bool) (g : PlaneCtx → PlaneCtx) : (s.updCtx c t h g).checks = s.checks := rfl
@[simp] theorem State.updCtx_dbg (s : State) (c t : Nat) (h : Bool) (g : PlaneCtx → PlaneCtx) : (s.updCtx c t h g).dbg = s.dbg := rfl
@[simp] theorem State.updCtx_rpl (s : State) (c t : Nat) (h : Bool) (g : PlaneCtx → PlaneCtx) : (s.updCtx c t h g).rpl = s.rpl := rfl
@[simp] theorem State.updCtx_sec (s : State) (c t : Nat) (h : Bool) (g : PlaneCtx → PlaneCtx) : (s.updCtx c t h g).sec = s.sec := rfl
@[simp] theorem State.updCtx_hostOut (s : State) (c t : Nat) (h : Bool) (g : PlaneCtx → PlaneCtx) : (s.updCtx c t h g).hostOut = s.hostOut := rfl
@[simp] theorem State.updCtx_timing (s : State) (c t : Nat) (h : Bool) (g : PlaneCtx → PlaneCtx) : (s.updCtx c t h g).timing = s.timing := rfl
@[simp] theorem State.updCtx_agenda (s : State) (c t : Nat) (h : Bool) (g : PlaneCtx → PlaneCtx) : (s.updCtx c t h g).agenda = s.agenda := rfl
@[simp] theorem State.updCtx_fires (s : State) (c t : Nat) (h : Bool) (g : PlaneCtx → PlaneCtx) : (s.updCtx c t h g).fires = s.fires := rfl
@[simp] theorem State.updCtx_waiting (s : State) (c t : Nat) (h : Bool) (g : PlaneCtx → PlaneCtx) : (s.updCtx c t h g).waiting = s.waiting := rfl
@[simp] theorem State.updCtx_firing (s : State) (c t : Nat) (h : Bool) (g : PlaneCtx → PlaneCtx) : (s.updCtx c t h g).firing = s.firing := rfl
@[simp] theorem State.updCtx_free (s : State) (c t : Nat) (h : Bool) (g : PlaneCtx → PlaneCtx) : (s.updCtx c t h g).free = s.free := rfl
@[simp] theorem State.updCtx_nextId (s : State) (c t : Nat) (h : Bool) (g : PlaneCtx → PlaneCtx) : (s.updCtx c t h g).nextId = s.nextId := rfl

/-! ### updThread -/

@[simp] theorem State.updThread_time (s : State) (c k : Nat) (g : Thread → Thread) : (s.updThread c k g).time = s.time := rfl
@[simp] theorem State.updThread_regs (s : State) (c k : Nat) (g : Thread → Thread) : (s.updThread c k g).regs = s.regs := rfl
@[simp] theorem State.updThread_mem (s : State) (c k : Nat) (g : Thread → Thread) : (s.updThread c k g).mem = s.mem := rfl
@[simp] theorem State.updThread_full (s : State) (c k : Nat) (g : Thread → Thread) : (s.updThread c k g).full = s.full := rfl
@[simp] theorem State.updThread_poison (s : State) (c k : Nat) (g : Thread → Thread) : (s.updThread c k g).poison = s.poison := rfl
@[simp] theorem State.updThread_failed (s : State) (c k : Nat) (g : Thread → Thread) : (s.updThread c k g).failed = s.failed := rfl
@[simp] theorem State.updThread_stage (s : State) (c k : Nat) (g : Thread → Thread) : (s.updThread c k g).stage = s.stage := rfl
@[simp] theorem State.updThread_hbm (s : State) (c k : Nat) (g : Thread → Thread) : (s.updThread c k g).hbm = s.hbm := rfl
@[simp] theorem State.updThread_coh (s : State) (c k : Nat) (g : Thread → Thread) : (s.updThread c k g).coh = s.coh := rfl
@[simp] theorem State.updThread_mmu (s : State) (c k : Nat) (g : Thread → Thread) : (s.updThread c k g).mmu = s.mmu := rfl
@[simp] theorem State.updThread_images (s : State) (c k : Nat) (g : Thread → Thread) : (s.updThread c k g).images = s.images := rfl
@[simp] theorem State.updThread_cfgCache (s : State) (c k : Nat) (g : Thread → Thread) : (s.updThread c k g).cfgCache = s.cfgCache := rfl
@[simp] theorem State.updThread_invals (s : State) (c k : Nat) (g : Thread → Thread) : (s.updThread c k g).invals = s.invals := rfl
@[simp] theorem State.updThread_queues (s : State) (c k : Nat) (g : Thread → Thread) : (s.updThread c k g).queues = s.queues := rfl
@[simp] theorem State.updThread_grids (s : State) (c k : Nat) (g : Thread → Thread) : (s.updThread c k g).grids = s.grids := rfl
@[simp] theorem State.updThread_dist (s : State) (c k : Nat) (g : Thread → Thread) : (s.updThread c k g).dist = s.dist := rfl
@[simp] theorem State.updThread_teams (s : State) (c k : Nat) (g : Thread → Thread) : (s.updThread c k g).teams = s.teams := rfl
@[simp] theorem State.updThread_saves (s : State) (c k : Nat) (g : Thread → Thread) : (s.updThread c k g).saves = s.saves := rfl
@[simp] theorem State.updThread_contexts (s : State) (c k : Nat) (g : Thread → Thread) : (s.updThread c k g).contexts = s.contexts := rfl
@[simp] theorem State.updThread_engines (s : State) (c k : Nat) (g : Thread → Thread) : (s.updThread c k g).engines = s.engines := rfl
@[simp] theorem State.updThread_chr (s : State) (c k : Nat) (g : Thread → Thread) : (s.updThread c k g).chr = s.chr := rfl
@[simp] theorem State.updThread_station (s : State) (c k : Nat) (g : Thread → Thread) : (s.updThread c k g).station = s.station := rfl
@[simp] theorem State.updThread_links (s : State) (c k : Nat) (g : Thread → Thread) : (s.updThread c k g).links = s.links := rfl
@[simp] theorem State.updThread_elog (s : State) (c k : Nat) (g : Thread → Thread) : (s.updThread c k g).elog = s.elog := rfl
@[simp] theorem State.updThread_checks (s : State) (c k : Nat) (g : Thread → Thread) : (s.updThread c k g).checks = s.checks := rfl
@[simp] theorem State.updThread_dbg (s : State) (c k : Nat) (g : Thread → Thread) : (s.updThread c k g).dbg = s.dbg := rfl
@[simp] theorem State.updThread_rpl (s : State) (c k : Nat) (g : Thread → Thread) : (s.updThread c k g).rpl = s.rpl := rfl
@[simp] theorem State.updThread_sec (s : State) (c k : Nat) (g : Thread → Thread) : (s.updThread c k g).sec = s.sec := rfl
@[simp] theorem State.updThread_hostOut (s : State) (c k : Nat) (g : Thread → Thread) : (s.updThread c k g).hostOut = s.hostOut := rfl
@[simp] theorem State.updThread_timing (s : State) (c k : Nat) (g : Thread → Thread) : (s.updThread c k g).timing = s.timing := rfl
@[simp] theorem State.updThread_agenda (s : State) (c k : Nat) (g : Thread → Thread) : (s.updThread c k g).agenda = s.agenda := rfl
@[simp] theorem State.updThread_fires (s : State) (c k : Nat) (g : Thread → Thread) : (s.updThread c k g).fires = s.fires := rfl
@[simp] theorem State.updThread_waiting (s : State) (c k : Nat) (g : Thread → Thread) : (s.updThread c k g).waiting = s.waiting := rfl
@[simp] theorem State.updThread_firing (s : State) (c k : Nat) (g : Thread → Thread) : (s.updThread c k g).firing = s.firing := rfl
@[simp] theorem State.updThread_free (s : State) (c k : Nat) (g : Thread → Thread) : (s.updThread c k g).free = s.free := rfl
@[simp] theorem State.updThread_nextId (s : State) (c k : Nat) (g : Thread → Thread) : (s.updThread c k g).nextId = s.nextId := rfl

/-! ### updExec -/

@[simp] theorem State.updExec_time (s : State) (c k : Nat) (g : Exec → Exec) : (s.updExec c k g).time = s.time := rfl
@[simp] theorem State.updExec_regs (s : State) (c k : Nat) (g : Exec → Exec) : (s.updExec c k g).regs = s.regs := rfl
@[simp] theorem State.updExec_mem (s : State) (c k : Nat) (g : Exec → Exec) : (s.updExec c k g).mem = s.mem := rfl
@[simp] theorem State.updExec_full (s : State) (c k : Nat) (g : Exec → Exec) : (s.updExec c k g).full = s.full := rfl
@[simp] theorem State.updExec_poison (s : State) (c k : Nat) (g : Exec → Exec) : (s.updExec c k g).poison = s.poison := rfl
@[simp] theorem State.updExec_failed (s : State) (c k : Nat) (g : Exec → Exec) : (s.updExec c k g).failed = s.failed := rfl
@[simp] theorem State.updExec_stage (s : State) (c k : Nat) (g : Exec → Exec) : (s.updExec c k g).stage = s.stage := rfl
@[simp] theorem State.updExec_hbm (s : State) (c k : Nat) (g : Exec → Exec) : (s.updExec c k g).hbm = s.hbm := rfl
@[simp] theorem State.updExec_coh (s : State) (c k : Nat) (g : Exec → Exec) : (s.updExec c k g).coh = s.coh := rfl
@[simp] theorem State.updExec_mmu (s : State) (c k : Nat) (g : Exec → Exec) : (s.updExec c k g).mmu = s.mmu := rfl
@[simp] theorem State.updExec_images (s : State) (c k : Nat) (g : Exec → Exec) : (s.updExec c k g).images = s.images := rfl
@[simp] theorem State.updExec_cfgCache (s : State) (c k : Nat) (g : Exec → Exec) : (s.updExec c k g).cfgCache = s.cfgCache := rfl
@[simp] theorem State.updExec_invals (s : State) (c k : Nat) (g : Exec → Exec) : (s.updExec c k g).invals = s.invals := rfl
@[simp] theorem State.updExec_queues (s : State) (c k : Nat) (g : Exec → Exec) : (s.updExec c k g).queues = s.queues := rfl
@[simp] theorem State.updExec_grids (s : State) (c k : Nat) (g : Exec → Exec) : (s.updExec c k g).grids = s.grids := rfl
@[simp] theorem State.updExec_dist (s : State) (c k : Nat) (g : Exec → Exec) : (s.updExec c k g).dist = s.dist := rfl
@[simp] theorem State.updExec_teams (s : State) (c k : Nat) (g : Exec → Exec) : (s.updExec c k g).teams = s.teams := rfl
@[simp] theorem State.updExec_saves (s : State) (c k : Nat) (g : Exec → Exec) : (s.updExec c k g).saves = s.saves := rfl
@[simp] theorem State.updExec_contexts (s : State) (c k : Nat) (g : Exec → Exec) : (s.updExec c k g).contexts = s.contexts := rfl
@[simp] theorem State.updExec_engines (s : State) (c k : Nat) (g : Exec → Exec) : (s.updExec c k g).engines = s.engines := rfl
@[simp] theorem State.updExec_chr (s : State) (c k : Nat) (g : Exec → Exec) : (s.updExec c k g).chr = s.chr := rfl
@[simp] theorem State.updExec_station (s : State) (c k : Nat) (g : Exec → Exec) : (s.updExec c k g).station = s.station := rfl
@[simp] theorem State.updExec_links (s : State) (c k : Nat) (g : Exec → Exec) : (s.updExec c k g).links = s.links := rfl
@[simp] theorem State.updExec_elog (s : State) (c k : Nat) (g : Exec → Exec) : (s.updExec c k g).elog = s.elog := rfl
@[simp] theorem State.updExec_checks (s : State) (c k : Nat) (g : Exec → Exec) : (s.updExec c k g).checks = s.checks := rfl
@[simp] theorem State.updExec_dbg (s : State) (c k : Nat) (g : Exec → Exec) : (s.updExec c k g).dbg = s.dbg := rfl
@[simp] theorem State.updExec_rpl (s : State) (c k : Nat) (g : Exec → Exec) : (s.updExec c k g).rpl = s.rpl := rfl
@[simp] theorem State.updExec_sec (s : State) (c k : Nat) (g : Exec → Exec) : (s.updExec c k g).sec = s.sec := rfl
@[simp] theorem State.updExec_hostOut (s : State) (c k : Nat) (g : Exec → Exec) : (s.updExec c k g).hostOut = s.hostOut := rfl
@[simp] theorem State.updExec_timing (s : State) (c k : Nat) (g : Exec → Exec) : (s.updExec c k g).timing = s.timing := rfl
@[simp] theorem State.updExec_agenda (s : State) (c k : Nat) (g : Exec → Exec) : (s.updExec c k g).agenda = s.agenda := rfl
@[simp] theorem State.updExec_fires (s : State) (c k : Nat) (g : Exec → Exec) : (s.updExec c k g).fires = s.fires := rfl
@[simp] theorem State.updExec_waiting (s : State) (c k : Nat) (g : Exec → Exec) : (s.updExec c k g).waiting = s.waiting := rfl
@[simp] theorem State.updExec_firing (s : State) (c k : Nat) (g : Exec → Exec) : (s.updExec c k g).firing = s.firing := rfl
@[simp] theorem State.updExec_free (s : State) (c k : Nat) (g : Exec → Exec) : (s.updExec c k g).free = s.free := rfl
@[simp] theorem State.updExec_nextId (s : State) (c k : Nat) (g : Exec → Exec) : (s.updExec c k g).nextId = s.nextId := rfl

/-! ### updRegion -/

@[simp] theorem State.updRegion_time (s : State) (c r : Nat) (g : Region → Region) : (s.updRegion c r g).time = s.time := rfl
@[simp] theorem State.updRegion_regs (s : State) (c r : Nat) (g : Region → Region) : (s.updRegion c r g).regs = s.regs := rfl
@[simp] theorem State.updRegion_mem (s : State) (c r : Nat) (g : Region → Region) : (s.updRegion c r g).mem = s.mem := rfl
@[simp] theorem State.updRegion_full (s : State) (c r : Nat) (g : Region → Region) : (s.updRegion c r g).full = s.full := rfl
@[simp] theorem State.updRegion_poison (s : State) (c r : Nat) (g : Region → Region) : (s.updRegion c r g).poison = s.poison := rfl
@[simp] theorem State.updRegion_failed (s : State) (c r : Nat) (g : Region → Region) : (s.updRegion c r g).failed = s.failed := rfl
@[simp] theorem State.updRegion_stage (s : State) (c r : Nat) (g : Region → Region) : (s.updRegion c r g).stage = s.stage := rfl
@[simp] theorem State.updRegion_hbm (s : State) (c r : Nat) (g : Region → Region) : (s.updRegion c r g).hbm = s.hbm := rfl
@[simp] theorem State.updRegion_coh (s : State) (c r : Nat) (g : Region → Region) : (s.updRegion c r g).coh = s.coh := rfl
@[simp] theorem State.updRegion_mmu (s : State) (c r : Nat) (g : Region → Region) : (s.updRegion c r g).mmu = s.mmu := rfl
@[simp] theorem State.updRegion_images (s : State) (c r : Nat) (g : Region → Region) : (s.updRegion c r g).images = s.images := rfl
@[simp] theorem State.updRegion_cfgCache (s : State) (c r : Nat) (g : Region → Region) : (s.updRegion c r g).cfgCache = s.cfgCache := rfl
@[simp] theorem State.updRegion_invals (s : State) (c r : Nat) (g : Region → Region) : (s.updRegion c r g).invals = s.invals := rfl
@[simp] theorem State.updRegion_queues (s : State) (c r : Nat) (g : Region → Region) : (s.updRegion c r g).queues = s.queues := rfl
@[simp] theorem State.updRegion_grids (s : State) (c r : Nat) (g : Region → Region) : (s.updRegion c r g).grids = s.grids := rfl
@[simp] theorem State.updRegion_dist (s : State) (c r : Nat) (g : Region → Region) : (s.updRegion c r g).dist = s.dist := rfl
@[simp] theorem State.updRegion_teams (s : State) (c r : Nat) (g : Region → Region) : (s.updRegion c r g).teams = s.teams := rfl
@[simp] theorem State.updRegion_saves (s : State) (c r : Nat) (g : Region → Region) : (s.updRegion c r g).saves = s.saves := rfl
@[simp] theorem State.updRegion_contexts (s : State) (c r : Nat) (g : Region → Region) : (s.updRegion c r g).contexts = s.contexts := rfl
@[simp] theorem State.updRegion_engines (s : State) (c r : Nat) (g : Region → Region) : (s.updRegion c r g).engines = s.engines := rfl
@[simp] theorem State.updRegion_chr (s : State) (c r : Nat) (g : Region → Region) : (s.updRegion c r g).chr = s.chr := rfl
@[simp] theorem State.updRegion_station (s : State) (c r : Nat) (g : Region → Region) : (s.updRegion c r g).station = s.station := rfl
@[simp] theorem State.updRegion_links (s : State) (c r : Nat) (g : Region → Region) : (s.updRegion c r g).links = s.links := rfl
@[simp] theorem State.updRegion_elog (s : State) (c r : Nat) (g : Region → Region) : (s.updRegion c r g).elog = s.elog := rfl
@[simp] theorem State.updRegion_checks (s : State) (c r : Nat) (g : Region → Region) : (s.updRegion c r g).checks = s.checks := rfl
@[simp] theorem State.updRegion_dbg (s : State) (c r : Nat) (g : Region → Region) : (s.updRegion c r g).dbg = s.dbg := rfl
@[simp] theorem State.updRegion_rpl (s : State) (c r : Nat) (g : Region → Region) : (s.updRegion c r g).rpl = s.rpl := rfl
@[simp] theorem State.updRegion_sec (s : State) (c r : Nat) (g : Region → Region) : (s.updRegion c r g).sec = s.sec := rfl
@[simp] theorem State.updRegion_hostOut (s : State) (c r : Nat) (g : Region → Region) : (s.updRegion c r g).hostOut = s.hostOut := rfl
@[simp] theorem State.updRegion_timing (s : State) (c r : Nat) (g : Region → Region) : (s.updRegion c r g).timing = s.timing := rfl
@[simp] theorem State.updRegion_agenda (s : State) (c r : Nat) (g : Region → Region) : (s.updRegion c r g).agenda = s.agenda := rfl
@[simp] theorem State.updRegion_fires (s : State) (c r : Nat) (g : Region → Region) : (s.updRegion c r g).fires = s.fires := rfl
@[simp] theorem State.updRegion_waiting (s : State) (c r : Nat) (g : Region → Region) : (s.updRegion c r g).waiting = s.waiting := rfl
@[simp] theorem State.updRegion_firing (s : State) (c r : Nat) (g : Region → Region) : (s.updRegion c r g).firing = s.firing := rfl
@[simp] theorem State.updRegion_free (s : State) (c r : Nat) (g : Region → Region) : (s.updRegion c r g).free = s.free := rfl
@[simp] theorem State.updRegion_nextId (s : State) (c r : Nat) (g : Region → Region) : (s.updRegion c r g).nextId = s.nextId := rfl

/-! ### sendFault -/

@[simp] theorem State.sendFault_time (s : State) (c : Nat) (x : FaultTok) : (s.sendFault c x).time = s.time := rfl
@[simp] theorem State.sendFault_regs (s : State) (c : Nat) (x : FaultTok) : (s.sendFault c x).regs = s.regs := rfl
@[simp] theorem State.sendFault_mem (s : State) (c : Nat) (x : FaultTok) : (s.sendFault c x).mem = s.mem := rfl
@[simp] theorem State.sendFault_full (s : State) (c : Nat) (x : FaultTok) : (s.sendFault c x).full = s.full := rfl
@[simp] theorem State.sendFault_poison (s : State) (c : Nat) (x : FaultTok) : (s.sendFault c x).poison = s.poison := rfl
@[simp] theorem State.sendFault_failed (s : State) (c : Nat) (x : FaultTok) : (s.sendFault c x).failed = s.failed := rfl
@[simp] theorem State.sendFault_stage (s : State) (c : Nat) (x : FaultTok) : (s.sendFault c x).stage = s.stage := rfl
@[simp] theorem State.sendFault_hbm (s : State) (c : Nat) (x : FaultTok) : (s.sendFault c x).hbm = s.hbm := rfl
@[simp] theorem State.sendFault_coh (s : State) (c : Nat) (x : FaultTok) : (s.sendFault c x).coh = s.coh := rfl
@[simp] theorem State.sendFault_mmu (s : State) (c : Nat) (x : FaultTok) : (s.sendFault c x).mmu = s.mmu := rfl
@[simp] theorem State.sendFault_images (s : State) (c : Nat) (x : FaultTok) : (s.sendFault c x).images = s.images := rfl
@[simp] theorem State.sendFault_cfgCache (s : State) (c : Nat) (x : FaultTok) : (s.sendFault c x).cfgCache = s.cfgCache := rfl
@[simp] theorem State.sendFault_invals (s : State) (c : Nat) (x : FaultTok) : (s.sendFault c x).invals = s.invals := rfl
@[simp] theorem State.sendFault_queues (s : State) (c : Nat) (x : FaultTok) : (s.sendFault c x).queues = s.queues := rfl
@[simp] theorem State.sendFault_grids (s : State) (c : Nat) (x : FaultTok) : (s.sendFault c x).grids = s.grids := rfl
@[simp] theorem State.sendFault_dist (s : State) (c : Nat) (x : FaultTok) : (s.sendFault c x).dist = s.dist := rfl
@[simp] theorem State.sendFault_teams (s : State) (c : Nat) (x : FaultTok) : (s.sendFault c x).teams = s.teams := rfl
@[simp] theorem State.sendFault_saves (s : State) (c : Nat) (x : FaultTok) : (s.sendFault c x).saves = s.saves := rfl
@[simp] theorem State.sendFault_contexts (s : State) (c : Nat) (x : FaultTok) : (s.sendFault c x).contexts = s.contexts := rfl
@[simp] theorem State.sendFault_engines (s : State) (c : Nat) (x : FaultTok) : (s.sendFault c x).engines = s.engines := rfl
@[simp] theorem State.sendFault_chr (s : State) (c : Nat) (x : FaultTok) : (s.sendFault c x).chr = s.chr := rfl
@[simp] theorem State.sendFault_station (s : State) (c : Nat) (x : FaultTok) : (s.sendFault c x).station = s.station := rfl
@[simp] theorem State.sendFault_links (s : State) (c : Nat) (x : FaultTok) : (s.sendFault c x).links = s.links := rfl
@[simp] theorem State.sendFault_elog (s : State) (c : Nat) (x : FaultTok) : (s.sendFault c x).elog = s.elog := rfl
@[simp] theorem State.sendFault_checks (s : State) (c : Nat) (x : FaultTok) : (s.sendFault c x).checks = s.checks := rfl
@[simp] theorem State.sendFault_dbg (s : State) (c : Nat) (x : FaultTok) : (s.sendFault c x).dbg = s.dbg := rfl
@[simp] theorem State.sendFault_rpl (s : State) (c : Nat) (x : FaultTok) : (s.sendFault c x).rpl = s.rpl := rfl
@[simp] theorem State.sendFault_sec (s : State) (c : Nat) (x : FaultTok) : (s.sendFault c x).sec = s.sec := rfl
@[simp] theorem State.sendFault_hostOut (s : State) (c : Nat) (x : FaultTok) : (s.sendFault c x).hostOut = s.hostOut := rfl
@[simp] theorem State.sendFault_timing (s : State) (c : Nat) (x : FaultTok) : (s.sendFault c x).timing = s.timing := rfl
@[simp] theorem State.sendFault_agenda (s : State) (c : Nat) (x : FaultTok) : (s.sendFault c x).agenda = s.agenda := rfl
@[simp] theorem State.sendFault_fires (s : State) (c : Nat) (x : FaultTok) : (s.sendFault c x).fires = s.fires := rfl
@[simp] theorem State.sendFault_waiting (s : State) (c : Nat) (x : FaultTok) : (s.sendFault c x).waiting = s.waiting := rfl
@[simp] theorem State.sendFault_firing (s : State) (c : Nat) (x : FaultTok) : (s.sendFault c x).firing = s.firing := rfl
@[simp] theorem State.sendFault_free (s : State) (c : Nat) (x : FaultTok) : (s.sendFault c x).free = s.free := rfl
@[simp] theorem State.sendFault_nextId (s : State) (c : Nat) (x : FaultTok) : (s.sendFault c x).nextId = s.nextId := rfl

/-! ### updDie -/

@[simp] theorem State.updDie_regs (s : State) (d : Nat) (g : DieTime → DieTime) : (s.updDie d g).regs = s.regs := rfl
@[simp] theorem State.updDie_mem (s : State) (d : Nat) (g : DieTime → DieTime) : (s.updDie d g).mem = s.mem := rfl
@[simp] theorem State.updDie_full (s : State) (d : Nat) (g : DieTime → DieTime) : (s.updDie d g).full = s.full := rfl
@[simp] theorem State.updDie_poison (s : State) (d : Nat) (g : DieTime → DieTime) : (s.updDie d g).poison = s.poison := rfl
@[simp] theorem State.updDie_failed (s : State) (d : Nat) (g : DieTime → DieTime) : (s.updDie d g).failed = s.failed := rfl
@[simp] theorem State.updDie_stage (s : State) (d : Nat) (g : DieTime → DieTime) : (s.updDie d g).stage = s.stage := rfl
@[simp] theorem State.updDie_hbm (s : State) (d : Nat) (g : DieTime → DieTime) : (s.updDie d g).hbm = s.hbm := rfl
@[simp] theorem State.updDie_coh (s : State) (d : Nat) (g : DieTime → DieTime) : (s.updDie d g).coh = s.coh := rfl
@[simp] theorem State.updDie_mmu (s : State) (d : Nat) (g : DieTime → DieTime) : (s.updDie d g).mmu = s.mmu := rfl
@[simp] theorem State.updDie_images (s : State) (d : Nat) (g : DieTime → DieTime) : (s.updDie d g).images = s.images := rfl
@[simp] theorem State.updDie_cfgCache (s : State) (d : Nat) (g : DieTime → DieTime) : (s.updDie d g).cfgCache = s.cfgCache := rfl
@[simp] theorem State.updDie_invals (s : State) (d : Nat) (g : DieTime → DieTime) : (s.updDie d g).invals = s.invals := rfl
@[simp] theorem State.updDie_queues (s : State) (d : Nat) (g : DieTime → DieTime) : (s.updDie d g).queues = s.queues := rfl
@[simp] theorem State.updDie_grids (s : State) (d : Nat) (g : DieTime → DieTime) : (s.updDie d g).grids = s.grids := rfl
@[simp] theorem State.updDie_dist (s : State) (d : Nat) (g : DieTime → DieTime) : (s.updDie d g).dist = s.dist := rfl
@[simp] theorem State.updDie_teams (s : State) (d : Nat) (g : DieTime → DieTime) : (s.updDie d g).teams = s.teams := rfl
@[simp] theorem State.updDie_cores (s : State) (d : Nat) (g : DieTime → DieTime) : (s.updDie d g).cores = s.cores := rfl
@[simp] theorem State.updDie_saves (s : State) (d : Nat) (g : DieTime → DieTime) : (s.updDie d g).saves = s.saves := rfl
@[simp] theorem State.updDie_contexts (s : State) (d : Nat) (g : DieTime → DieTime) : (s.updDie d g).contexts = s.contexts := rfl
@[simp] theorem State.updDie_engines (s : State) (d : Nat) (g : DieTime → DieTime) : (s.updDie d g).engines = s.engines := rfl
@[simp] theorem State.updDie_chr (s : State) (d : Nat) (g : DieTime → DieTime) : (s.updDie d g).chr = s.chr := rfl
@[simp] theorem State.updDie_station (s : State) (d : Nat) (g : DieTime → DieTime) : (s.updDie d g).station = s.station := rfl
@[simp] theorem State.updDie_links (s : State) (d : Nat) (g : DieTime → DieTime) : (s.updDie d g).links = s.links := rfl
@[simp] theorem State.updDie_elog (s : State) (d : Nat) (g : DieTime → DieTime) : (s.updDie d g).elog = s.elog := rfl
@[simp] theorem State.updDie_checks (s : State) (d : Nat) (g : DieTime → DieTime) : (s.updDie d g).checks = s.checks := rfl
@[simp] theorem State.updDie_dbg (s : State) (d : Nat) (g : DieTime → DieTime) : (s.updDie d g).dbg = s.dbg := rfl
@[simp] theorem State.updDie_rpl (s : State) (d : Nat) (g : DieTime → DieTime) : (s.updDie d g).rpl = s.rpl := rfl
@[simp] theorem State.updDie_sec (s : State) (d : Nat) (g : DieTime → DieTime) : (s.updDie d g).sec = s.sec := rfl
@[simp] theorem State.updDie_hostOut (s : State) (d : Nat) (g : DieTime → DieTime) : (s.updDie d g).hostOut = s.hostOut := rfl
@[simp] theorem State.updDie_timing (s : State) (d : Nat) (g : DieTime → DieTime) : (s.updDie d g).timing = s.timing := rfl
@[simp] theorem State.updDie_agenda (s : State) (d : Nat) (g : DieTime → DieTime) : (s.updDie d g).agenda = s.agenda := rfl
@[simp] theorem State.updDie_fires (s : State) (d : Nat) (g : DieTime → DieTime) : (s.updDie d g).fires = s.fires := rfl
@[simp] theorem State.updDie_waiting (s : State) (d : Nat) (g : DieTime → DieTime) : (s.updDie d g).waiting = s.waiting := rfl
@[simp] theorem State.updDie_firing (s : State) (d : Nat) (g : DieTime → DieTime) : (s.updDie d g).firing = s.firing := rfl
@[simp] theorem State.updDie_free (s : State) (d : Nat) (g : DieTime → DieTime) : (s.updDie d g).free = s.free := rfl
@[simp] theorem State.updDie_nextId (s : State) (d : Nat) (g : DieTime → DieTime) : (s.updDie d g).nextId = s.nextId := rfl

/-! ### updQueue -/

@[simp] theorem State.updQueue_time (s : State) (q : Nat) (g : Queue → Queue) : (s.updQueue q g).time = s.time := rfl
@[simp] theorem State.updQueue_regs (s : State) (q : Nat) (g : Queue → Queue) : (s.updQueue q g).regs = s.regs := rfl
@[simp] theorem State.updQueue_mem (s : State) (q : Nat) (g : Queue → Queue) : (s.updQueue q g).mem = s.mem := rfl
@[simp] theorem State.updQueue_full (s : State) (q : Nat) (g : Queue → Queue) : (s.updQueue q g).full = s.full := rfl
@[simp] theorem State.updQueue_poison (s : State) (q : Nat) (g : Queue → Queue) : (s.updQueue q g).poison = s.poison := rfl
@[simp] theorem State.updQueue_failed (s : State) (q : Nat) (g : Queue → Queue) : (s.updQueue q g).failed = s.failed := rfl
@[simp] theorem State.updQueue_stage (s : State) (q : Nat) (g : Queue → Queue) : (s.updQueue q g).stage = s.stage := rfl
@[simp] theorem State.updQueue_hbm (s : State) (q : Nat) (g : Queue → Queue) : (s.updQueue q g).hbm = s.hbm := rfl
@[simp] theorem State.updQueue_coh (s : State) (q : Nat) (g : Queue → Queue) : (s.updQueue q g).coh = s.coh := rfl
@[simp] theorem State.updQueue_mmu (s : State) (q : Nat) (g : Queue → Queue) : (s.updQueue q g).mmu = s.mmu := rfl
@[simp] theorem State.updQueue_images (s : State) (q : Nat) (g : Queue → Queue) : (s.updQueue q g).images = s.images := rfl
@[simp] theorem State.updQueue_cfgCache (s : State) (q : Nat) (g : Queue → Queue) : (s.updQueue q g).cfgCache = s.cfgCache := rfl
@[simp] theorem State.updQueue_invals (s : State) (q : Nat) (g : Queue → Queue) : (s.updQueue q g).invals = s.invals := rfl
@[simp] theorem State.updQueue_grids (s : State) (q : Nat) (g : Queue → Queue) : (s.updQueue q g).grids = s.grids := rfl
@[simp] theorem State.updQueue_dist (s : State) (q : Nat) (g : Queue → Queue) : (s.updQueue q g).dist = s.dist := rfl
@[simp] theorem State.updQueue_teams (s : State) (q : Nat) (g : Queue → Queue) : (s.updQueue q g).teams = s.teams := rfl
@[simp] theorem State.updQueue_cores (s : State) (q : Nat) (g : Queue → Queue) : (s.updQueue q g).cores = s.cores := rfl
@[simp] theorem State.updQueue_saves (s : State) (q : Nat) (g : Queue → Queue) : (s.updQueue q g).saves = s.saves := rfl
@[simp] theorem State.updQueue_contexts (s : State) (q : Nat) (g : Queue → Queue) : (s.updQueue q g).contexts = s.contexts := rfl
@[simp] theorem State.updQueue_engines (s : State) (q : Nat) (g : Queue → Queue) : (s.updQueue q g).engines = s.engines := rfl
@[simp] theorem State.updQueue_chr (s : State) (q : Nat) (g : Queue → Queue) : (s.updQueue q g).chr = s.chr := rfl
@[simp] theorem State.updQueue_station (s : State) (q : Nat) (g : Queue → Queue) : (s.updQueue q g).station = s.station := rfl
@[simp] theorem State.updQueue_links (s : State) (q : Nat) (g : Queue → Queue) : (s.updQueue q g).links = s.links := rfl
@[simp] theorem State.updQueue_elog (s : State) (q : Nat) (g : Queue → Queue) : (s.updQueue q g).elog = s.elog := rfl
@[simp] theorem State.updQueue_checks (s : State) (q : Nat) (g : Queue → Queue) : (s.updQueue q g).checks = s.checks := rfl
@[simp] theorem State.updQueue_dbg (s : State) (q : Nat) (g : Queue → Queue) : (s.updQueue q g).dbg = s.dbg := rfl
@[simp] theorem State.updQueue_rpl (s : State) (q : Nat) (g : Queue → Queue) : (s.updQueue q g).rpl = s.rpl := rfl
@[simp] theorem State.updQueue_sec (s : State) (q : Nat) (g : Queue → Queue) : (s.updQueue q g).sec = s.sec := rfl
@[simp] theorem State.updQueue_hostOut (s : State) (q : Nat) (g : Queue → Queue) : (s.updQueue q g).hostOut = s.hostOut := rfl
@[simp] theorem State.updQueue_timing (s : State) (q : Nat) (g : Queue → Queue) : (s.updQueue q g).timing = s.timing := rfl
@[simp] theorem State.updQueue_agenda (s : State) (q : Nat) (g : Queue → Queue) : (s.updQueue q g).agenda = s.agenda := rfl
@[simp] theorem State.updQueue_fires (s : State) (q : Nat) (g : Queue → Queue) : (s.updQueue q g).fires = s.fires := rfl
@[simp] theorem State.updQueue_waiting (s : State) (q : Nat) (g : Queue → Queue) : (s.updQueue q g).waiting = s.waiting := rfl
@[simp] theorem State.updQueue_firing (s : State) (q : Nat) (g : Queue → Queue) : (s.updQueue q g).firing = s.firing := rfl
@[simp] theorem State.updQueue_free (s : State) (q : Nat) (g : Queue → Queue) : (s.updQueue q g).free = s.free := rfl
@[simp] theorem State.updQueue_nextId (s : State) (q : Nat) (g : Queue → Queue) : (s.updQueue q g).nextId = s.nextId := rfl

/-! ### updDist -/

@[simp] theorem State.updDist_time (s : State) (d : Nat) (g : Dist → Dist) : (s.updDist d g).time = s.time := rfl
@[simp] theorem State.updDist_regs (s : State) (d : Nat) (g : Dist → Dist) : (s.updDist d g).regs = s.regs := rfl
@[simp] theorem State.updDist_mem (s : State) (d : Nat) (g : Dist → Dist) : (s.updDist d g).mem = s.mem := rfl
@[simp] theorem State.updDist_full (s : State) (d : Nat) (g : Dist → Dist) : (s.updDist d g).full = s.full := rfl
@[simp] theorem State.updDist_poison (s : State) (d : Nat) (g : Dist → Dist) : (s.updDist d g).poison = s.poison := rfl
@[simp] theorem State.updDist_failed (s : State) (d : Nat) (g : Dist → Dist) : (s.updDist d g).failed = s.failed := rfl
@[simp] theorem State.updDist_stage (s : State) (d : Nat) (g : Dist → Dist) : (s.updDist d g).stage = s.stage := rfl
@[simp] theorem State.updDist_hbm (s : State) (d : Nat) (g : Dist → Dist) : (s.updDist d g).hbm = s.hbm := rfl
@[simp] theorem State.updDist_coh (s : State) (d : Nat) (g : Dist → Dist) : (s.updDist d g).coh = s.coh := rfl
@[simp] theorem State.updDist_mmu (s : State) (d : Nat) (g : Dist → Dist) : (s.updDist d g).mmu = s.mmu := rfl
@[simp] theorem State.updDist_images (s : State) (d : Nat) (g : Dist → Dist) : (s.updDist d g).images = s.images := rfl
@[simp] theorem State.updDist_cfgCache (s : State) (d : Nat) (g : Dist → Dist) : (s.updDist d g).cfgCache = s.cfgCache := rfl
@[simp] theorem State.updDist_invals (s : State) (d : Nat) (g : Dist → Dist) : (s.updDist d g).invals = s.invals := rfl
@[simp] theorem State.updDist_queues (s : State) (d : Nat) (g : Dist → Dist) : (s.updDist d g).queues = s.queues := rfl
@[simp] theorem State.updDist_grids (s : State) (d : Nat) (g : Dist → Dist) : (s.updDist d g).grids = s.grids := rfl
@[simp] theorem State.updDist_teams (s : State) (d : Nat) (g : Dist → Dist) : (s.updDist d g).teams = s.teams := rfl
@[simp] theorem State.updDist_cores (s : State) (d : Nat) (g : Dist → Dist) : (s.updDist d g).cores = s.cores := rfl
@[simp] theorem State.updDist_saves (s : State) (d : Nat) (g : Dist → Dist) : (s.updDist d g).saves = s.saves := rfl
@[simp] theorem State.updDist_contexts (s : State) (d : Nat) (g : Dist → Dist) : (s.updDist d g).contexts = s.contexts := rfl
@[simp] theorem State.updDist_engines (s : State) (d : Nat) (g : Dist → Dist) : (s.updDist d g).engines = s.engines := rfl
@[simp] theorem State.updDist_chr (s : State) (d : Nat) (g : Dist → Dist) : (s.updDist d g).chr = s.chr := rfl
@[simp] theorem State.updDist_station (s : State) (d : Nat) (g : Dist → Dist) : (s.updDist d g).station = s.station := rfl
@[simp] theorem State.updDist_links (s : State) (d : Nat) (g : Dist → Dist) : (s.updDist d g).links = s.links := rfl
@[simp] theorem State.updDist_elog (s : State) (d : Nat) (g : Dist → Dist) : (s.updDist d g).elog = s.elog := rfl
@[simp] theorem State.updDist_checks (s : State) (d : Nat) (g : Dist → Dist) : (s.updDist d g).checks = s.checks := rfl
@[simp] theorem State.updDist_dbg (s : State) (d : Nat) (g : Dist → Dist) : (s.updDist d g).dbg = s.dbg := rfl
@[simp] theorem State.updDist_rpl (s : State) (d : Nat) (g : Dist → Dist) : (s.updDist d g).rpl = s.rpl := rfl
@[simp] theorem State.updDist_sec (s : State) (d : Nat) (g : Dist → Dist) : (s.updDist d g).sec = s.sec := rfl
@[simp] theorem State.updDist_hostOut (s : State) (d : Nat) (g : Dist → Dist) : (s.updDist d g).hostOut = s.hostOut := rfl
@[simp] theorem State.updDist_timing (s : State) (d : Nat) (g : Dist → Dist) : (s.updDist d g).timing = s.timing := rfl
@[simp] theorem State.updDist_agenda (s : State) (d : Nat) (g : Dist → Dist) : (s.updDist d g).agenda = s.agenda := rfl
@[simp] theorem State.updDist_fires (s : State) (d : Nat) (g : Dist → Dist) : (s.updDist d g).fires = s.fires := rfl
@[simp] theorem State.updDist_waiting (s : State) (d : Nat) (g : Dist → Dist) : (s.updDist d g).waiting = s.waiting := rfl
@[simp] theorem State.updDist_firing (s : State) (d : Nat) (g : Dist → Dist) : (s.updDist d g).firing = s.firing := rfl
@[simp] theorem State.updDist_free (s : State) (d : Nat) (g : Dist → Dist) : (s.updDist d g).free = s.free := rfl
@[simp] theorem State.updDist_nextId (s : State) (d : Nat) (g : Dist → Dist) : (s.updDist d g).nextId = s.nextId := rfl

/-! ### setReg -/

@[simp] theorem State.setReg_time (s : State) (n : RegName) (i : Nat) (v : Word) : (s.setReg n i v).time = s.time := rfl
@[simp] theorem State.setReg_mem (s : State) (n : RegName) (i : Nat) (v : Word) : (s.setReg n i v).mem = s.mem := rfl
@[simp] theorem State.setReg_full (s : State) (n : RegName) (i : Nat) (v : Word) : (s.setReg n i v).full = s.full := rfl
@[simp] theorem State.setReg_poison (s : State) (n : RegName) (i : Nat) (v : Word) : (s.setReg n i v).poison = s.poison := rfl
@[simp] theorem State.setReg_failed (s : State) (n : RegName) (i : Nat) (v : Word) : (s.setReg n i v).failed = s.failed := rfl
@[simp] theorem State.setReg_stage (s : State) (n : RegName) (i : Nat) (v : Word) : (s.setReg n i v).stage = s.stage := rfl
@[simp] theorem State.setReg_hbm (s : State) (n : RegName) (i : Nat) (v : Word) : (s.setReg n i v).hbm = s.hbm := rfl
@[simp] theorem State.setReg_coh (s : State) (n : RegName) (i : Nat) (v : Word) : (s.setReg n i v).coh = s.coh := rfl
@[simp] theorem State.setReg_mmu (s : State) (n : RegName) (i : Nat) (v : Word) : (s.setReg n i v).mmu = s.mmu := rfl
@[simp] theorem State.setReg_images (s : State) (n : RegName) (i : Nat) (v : Word) : (s.setReg n i v).images = s.images := rfl
@[simp] theorem State.setReg_cfgCache (s : State) (n : RegName) (i : Nat) (v : Word) : (s.setReg n i v).cfgCache = s.cfgCache := rfl
@[simp] theorem State.setReg_invals (s : State) (n : RegName) (i : Nat) (v : Word) : (s.setReg n i v).invals = s.invals := rfl
@[simp] theorem State.setReg_queues (s : State) (n : RegName) (i : Nat) (v : Word) : (s.setReg n i v).queues = s.queues := rfl
@[simp] theorem State.setReg_grids (s : State) (n : RegName) (i : Nat) (v : Word) : (s.setReg n i v).grids = s.grids := rfl
@[simp] theorem State.setReg_dist (s : State) (n : RegName) (i : Nat) (v : Word) : (s.setReg n i v).dist = s.dist := rfl
@[simp] theorem State.setReg_teams (s : State) (n : RegName) (i : Nat) (v : Word) : (s.setReg n i v).teams = s.teams := rfl
@[simp] theorem State.setReg_cores (s : State) (n : RegName) (i : Nat) (v : Word) : (s.setReg n i v).cores = s.cores := rfl
@[simp] theorem State.setReg_saves (s : State) (n : RegName) (i : Nat) (v : Word) : (s.setReg n i v).saves = s.saves := rfl
@[simp] theorem State.setReg_contexts (s : State) (n : RegName) (i : Nat) (v : Word) : (s.setReg n i v).contexts = s.contexts := rfl
@[simp] theorem State.setReg_engines (s : State) (n : RegName) (i : Nat) (v : Word) : (s.setReg n i v).engines = s.engines := rfl
@[simp] theorem State.setReg_chr (s : State) (n : RegName) (i : Nat) (v : Word) : (s.setReg n i v).chr = s.chr := rfl
@[simp] theorem State.setReg_station (s : State) (n : RegName) (i : Nat) (v : Word) : (s.setReg n i v).station = s.station := rfl
@[simp] theorem State.setReg_links (s : State) (n : RegName) (i : Nat) (v : Word) : (s.setReg n i v).links = s.links := rfl
@[simp] theorem State.setReg_elog (s : State) (n : RegName) (i : Nat) (v : Word) : (s.setReg n i v).elog = s.elog := rfl
@[simp] theorem State.setReg_checks (s : State) (n : RegName) (i : Nat) (v : Word) : (s.setReg n i v).checks = s.checks := rfl
@[simp] theorem State.setReg_dbg (s : State) (n : RegName) (i : Nat) (v : Word) : (s.setReg n i v).dbg = s.dbg := rfl
@[simp] theorem State.setReg_rpl (s : State) (n : RegName) (i : Nat) (v : Word) : (s.setReg n i v).rpl = s.rpl := rfl
@[simp] theorem State.setReg_sec (s : State) (n : RegName) (i : Nat) (v : Word) : (s.setReg n i v).sec = s.sec := rfl
@[simp] theorem State.setReg_hostOut (s : State) (n : RegName) (i : Nat) (v : Word) : (s.setReg n i v).hostOut = s.hostOut := rfl
@[simp] theorem State.setReg_timing (s : State) (n : RegName) (i : Nat) (v : Word) : (s.setReg n i v).timing = s.timing := rfl
@[simp] theorem State.setReg_agenda (s : State) (n : RegName) (i : Nat) (v : Word) : (s.setReg n i v).agenda = s.agenda := rfl
@[simp] theorem State.setReg_fires (s : State) (n : RegName) (i : Nat) (v : Word) : (s.setReg n i v).fires = s.fires := rfl
@[simp] theorem State.setReg_waiting (s : State) (n : RegName) (i : Nat) (v : Word) : (s.setReg n i v).waiting = s.waiting := rfl
@[simp] theorem State.setReg_firing (s : State) (n : RegName) (i : Nat) (v : Word) : (s.setReg n i v).firing = s.firing := rfl
@[simp] theorem State.setReg_free (s : State) (n : RegName) (i : Nat) (v : Word) : (s.setReg n i v).free = s.free := rfl
@[simp] theorem State.setReg_nextId (s : State) (n : RegName) (i : Nat) (v : Word) : (s.setReg n i v).nextId = s.nextId := rfl

/-! ### setRegN -/

@[simp] theorem State.setRegN_time (s : State) (n : RegName) (i v : Nat) : (s.setRegN n i v).time = s.time := rfl
@[simp] theorem State.setRegN_mem (s : State) (n : RegName) (i v : Nat) : (s.setRegN n i v).mem = s.mem := rfl
@[simp] theorem State.setRegN_full (s : State) (n : RegName) (i v : Nat) : (s.setRegN n i v).full = s.full := rfl
@[simp] theorem State.setRegN_poison (s : State) (n : RegName) (i v : Nat) : (s.setRegN n i v).poison = s.poison := rfl
@[simp] theorem State.setRegN_failed (s : State) (n : RegName) (i v : Nat) : (s.setRegN n i v).failed = s.failed := rfl
@[simp] theorem State.setRegN_stage (s : State) (n : RegName) (i v : Nat) : (s.setRegN n i v).stage = s.stage := rfl
@[simp] theorem State.setRegN_hbm (s : State) (n : RegName) (i v : Nat) : (s.setRegN n i v).hbm = s.hbm := rfl
@[simp] theorem State.setRegN_coh (s : State) (n : RegName) (i v : Nat) : (s.setRegN n i v).coh = s.coh := rfl
@[simp] theorem State.setRegN_mmu (s : State) (n : RegName) (i v : Nat) : (s.setRegN n i v).mmu = s.mmu := rfl
@[simp] theorem State.setRegN_images (s : State) (n : RegName) (i v : Nat) : (s.setRegN n i v).images = s.images := rfl
@[simp] theorem State.setRegN_cfgCache (s : State) (n : RegName) (i v : Nat) : (s.setRegN n i v).cfgCache = s.cfgCache := rfl
@[simp] theorem State.setRegN_invals (s : State) (n : RegName) (i v : Nat) : (s.setRegN n i v).invals = s.invals := rfl
@[simp] theorem State.setRegN_queues (s : State) (n : RegName) (i v : Nat) : (s.setRegN n i v).queues = s.queues := rfl
@[simp] theorem State.setRegN_grids (s : State) (n : RegName) (i v : Nat) : (s.setRegN n i v).grids = s.grids := rfl
@[simp] theorem State.setRegN_dist (s : State) (n : RegName) (i v : Nat) : (s.setRegN n i v).dist = s.dist := rfl
@[simp] theorem State.setRegN_teams (s : State) (n : RegName) (i v : Nat) : (s.setRegN n i v).teams = s.teams := rfl
@[simp] theorem State.setRegN_cores (s : State) (n : RegName) (i v : Nat) : (s.setRegN n i v).cores = s.cores := rfl
@[simp] theorem State.setRegN_saves (s : State) (n : RegName) (i v : Nat) : (s.setRegN n i v).saves = s.saves := rfl
@[simp] theorem State.setRegN_contexts (s : State) (n : RegName) (i v : Nat) : (s.setRegN n i v).contexts = s.contexts := rfl
@[simp] theorem State.setRegN_engines (s : State) (n : RegName) (i v : Nat) : (s.setRegN n i v).engines = s.engines := rfl
@[simp] theorem State.setRegN_chr (s : State) (n : RegName) (i v : Nat) : (s.setRegN n i v).chr = s.chr := rfl
@[simp] theorem State.setRegN_station (s : State) (n : RegName) (i v : Nat) : (s.setRegN n i v).station = s.station := rfl
@[simp] theorem State.setRegN_links (s : State) (n : RegName) (i v : Nat) : (s.setRegN n i v).links = s.links := rfl
@[simp] theorem State.setRegN_elog (s : State) (n : RegName) (i v : Nat) : (s.setRegN n i v).elog = s.elog := rfl
@[simp] theorem State.setRegN_checks (s : State) (n : RegName) (i v : Nat) : (s.setRegN n i v).checks = s.checks := rfl
@[simp] theorem State.setRegN_dbg (s : State) (n : RegName) (i v : Nat) : (s.setRegN n i v).dbg = s.dbg := rfl
@[simp] theorem State.setRegN_rpl (s : State) (n : RegName) (i v : Nat) : (s.setRegN n i v).rpl = s.rpl := rfl
@[simp] theorem State.setRegN_sec (s : State) (n : RegName) (i v : Nat) : (s.setRegN n i v).sec = s.sec := rfl
@[simp] theorem State.setRegN_hostOut (s : State) (n : RegName) (i v : Nat) : (s.setRegN n i v).hostOut = s.hostOut := rfl
@[simp] theorem State.setRegN_timing (s : State) (n : RegName) (i v : Nat) : (s.setRegN n i v).timing = s.timing := rfl
@[simp] theorem State.setRegN_agenda (s : State) (n : RegName) (i v : Nat) : (s.setRegN n i v).agenda = s.agenda := rfl
@[simp] theorem State.setRegN_fires (s : State) (n : RegName) (i v : Nat) : (s.setRegN n i v).fires = s.fires := rfl
@[simp] theorem State.setRegN_waiting (s : State) (n : RegName) (i v : Nat) : (s.setRegN n i v).waiting = s.waiting := rfl
@[simp] theorem State.setRegN_firing (s : State) (n : RegName) (i v : Nat) : (s.setRegN n i v).firing = s.firing := rfl
@[simp] theorem State.setRegN_free (s : State) (n : RegName) (i v : Nat) : (s.setRegN n i v).free = s.free := rfl
@[simp] theorem State.setRegN_nextId (s : State) (n : RegName) (i v : Nat) : (s.setRegN n i v).nextId = s.nextId := rfl

/-! ### putByte -/

@[simp] theorem State.putByte_time (s : State) (a : Nat) (v : Byte) : (s.putByte a v).time = s.time := rfl
@[simp] theorem State.putByte_regs (s : State) (a : Nat) (v : Byte) : (s.putByte a v).regs = s.regs := rfl
@[simp] theorem State.putByte_full (s : State) (a : Nat) (v : Byte) : (s.putByte a v).full = s.full := rfl
@[simp] theorem State.putByte_poison (s : State) (a : Nat) (v : Byte) : (s.putByte a v).poison = s.poison := rfl
@[simp] theorem State.putByte_failed (s : State) (a : Nat) (v : Byte) : (s.putByte a v).failed = s.failed := rfl
@[simp] theorem State.putByte_stage (s : State) (a : Nat) (v : Byte) : (s.putByte a v).stage = s.stage := rfl
@[simp] theorem State.putByte_hbm (s : State) (a : Nat) (v : Byte) : (s.putByte a v).hbm = s.hbm := rfl
@[simp] theorem State.putByte_coh (s : State) (a : Nat) (v : Byte) : (s.putByte a v).coh = s.coh := rfl
@[simp] theorem State.putByte_mmu (s : State) (a : Nat) (v : Byte) : (s.putByte a v).mmu = s.mmu := rfl
@[simp] theorem State.putByte_images (s : State) (a : Nat) (v : Byte) : (s.putByte a v).images = s.images := rfl
@[simp] theorem State.putByte_cfgCache (s : State) (a : Nat) (v : Byte) : (s.putByte a v).cfgCache = s.cfgCache := rfl
@[simp] theorem State.putByte_invals (s : State) (a : Nat) (v : Byte) : (s.putByte a v).invals = s.invals := rfl
@[simp] theorem State.putByte_queues (s : State) (a : Nat) (v : Byte) : (s.putByte a v).queues = s.queues := rfl
@[simp] theorem State.putByte_grids (s : State) (a : Nat) (v : Byte) : (s.putByte a v).grids = s.grids := rfl
@[simp] theorem State.putByte_dist (s : State) (a : Nat) (v : Byte) : (s.putByte a v).dist = s.dist := rfl
@[simp] theorem State.putByte_teams (s : State) (a : Nat) (v : Byte) : (s.putByte a v).teams = s.teams := rfl
@[simp] theorem State.putByte_cores (s : State) (a : Nat) (v : Byte) : (s.putByte a v).cores = s.cores := rfl
@[simp] theorem State.putByte_saves (s : State) (a : Nat) (v : Byte) : (s.putByte a v).saves = s.saves := rfl
@[simp] theorem State.putByte_contexts (s : State) (a : Nat) (v : Byte) : (s.putByte a v).contexts = s.contexts := rfl
@[simp] theorem State.putByte_engines (s : State) (a : Nat) (v : Byte) : (s.putByte a v).engines = s.engines := rfl
@[simp] theorem State.putByte_chr (s : State) (a : Nat) (v : Byte) : (s.putByte a v).chr = s.chr := rfl
@[simp] theorem State.putByte_station (s : State) (a : Nat) (v : Byte) : (s.putByte a v).station = s.station := rfl
@[simp] theorem State.putByte_links (s : State) (a : Nat) (v : Byte) : (s.putByte a v).links = s.links := rfl
@[simp] theorem State.putByte_elog (s : State) (a : Nat) (v : Byte) : (s.putByte a v).elog = s.elog := rfl
@[simp] theorem State.putByte_checks (s : State) (a : Nat) (v : Byte) : (s.putByte a v).checks = s.checks := rfl
@[simp] theorem State.putByte_dbg (s : State) (a : Nat) (v : Byte) : (s.putByte a v).dbg = s.dbg := rfl
@[simp] theorem State.putByte_rpl (s : State) (a : Nat) (v : Byte) : (s.putByte a v).rpl = s.rpl := rfl
@[simp] theorem State.putByte_sec (s : State) (a : Nat) (v : Byte) : (s.putByte a v).sec = s.sec := rfl
@[simp] theorem State.putByte_hostOut (s : State) (a : Nat) (v : Byte) : (s.putByte a v).hostOut = s.hostOut := rfl
@[simp] theorem State.putByte_timing (s : State) (a : Nat) (v : Byte) : (s.putByte a v).timing = s.timing := rfl
@[simp] theorem State.putByte_agenda (s : State) (a : Nat) (v : Byte) : (s.putByte a v).agenda = s.agenda := rfl
@[simp] theorem State.putByte_fires (s : State) (a : Nat) (v : Byte) : (s.putByte a v).fires = s.fires := rfl
@[simp] theorem State.putByte_waiting (s : State) (a : Nat) (v : Byte) : (s.putByte a v).waiting = s.waiting := rfl
@[simp] theorem State.putByte_firing (s : State) (a : Nat) (v : Byte) : (s.putByte a v).firing = s.firing := rfl
@[simp] theorem State.putByte_free (s : State) (a : Nat) (v : Byte) : (s.putByte a v).free = s.free := rfl
@[simp] theorem State.putByte_nextId (s : State) (a : Nat) (v : Byte) : (s.putByte a v).nextId = s.nextId := rfl

/-! ### taken -/

@[simp] theorem State.taken_time (s : State) : (s.taken).time = s.time := rfl
@[simp] theorem State.taken_regs (s : State) : (s.taken).regs = s.regs := rfl
@[simp] theorem State.taken_mem (s : State) : (s.taken).mem = s.mem := rfl
@[simp] theorem State.taken_full (s : State) : (s.taken).full = s.full := rfl
@[simp] theorem State.taken_poison (s : State) : (s.taken).poison = s.poison := rfl
@[simp] theorem State.taken_failed (s : State) : (s.taken).failed = s.failed := rfl
@[simp] theorem State.taken_stage (s : State) : (s.taken).stage = s.stage := rfl
@[simp] theorem State.taken_hbm (s : State) : (s.taken).hbm = s.hbm := rfl
@[simp] theorem State.taken_coh (s : State) : (s.taken).coh = s.coh := rfl
@[simp] theorem State.taken_mmu (s : State) : (s.taken).mmu = s.mmu := rfl
@[simp] theorem State.taken_images (s : State) : (s.taken).images = s.images := rfl
@[simp] theorem State.taken_cfgCache (s : State) : (s.taken).cfgCache = s.cfgCache := rfl
@[simp] theorem State.taken_invals (s : State) : (s.taken).invals = s.invals := rfl
@[simp] theorem State.taken_queues (s : State) : (s.taken).queues = s.queues := rfl
@[simp] theorem State.taken_grids (s : State) : (s.taken).grids = s.grids := rfl
@[simp] theorem State.taken_dist (s : State) : (s.taken).dist = s.dist := rfl
@[simp] theorem State.taken_teams (s : State) : (s.taken).teams = s.teams := rfl
@[simp] theorem State.taken_cores (s : State) : (s.taken).cores = s.cores := rfl
@[simp] theorem State.taken_saves (s : State) : (s.taken).saves = s.saves := rfl
@[simp] theorem State.taken_contexts (s : State) : (s.taken).contexts = s.contexts := rfl
@[simp] theorem State.taken_engines (s : State) : (s.taken).engines = s.engines := rfl
@[simp] theorem State.taken_chr (s : State) : (s.taken).chr = s.chr := rfl
@[simp] theorem State.taken_station (s : State) : (s.taken).station = s.station := rfl
@[simp] theorem State.taken_links (s : State) : (s.taken).links = s.links := rfl
@[simp] theorem State.taken_elog (s : State) : (s.taken).elog = s.elog := rfl
@[simp] theorem State.taken_checks (s : State) : (s.taken).checks = s.checks := rfl
@[simp] theorem State.taken_dbg (s : State) : (s.taken).dbg = s.dbg := rfl
@[simp] theorem State.taken_rpl (s : State) : (s.taken).rpl = s.rpl := rfl
@[simp] theorem State.taken_sec (s : State) : (s.taken).sec = s.sec := rfl
@[simp] theorem State.taken_hostOut (s : State) : (s.taken).hostOut = s.hostOut := rfl
@[simp] theorem State.taken_timing (s : State) : (s.taken).timing = s.timing := rfl
@[simp] theorem State.taken_agenda (s : State) : (s.taken).agenda = s.agenda := rfl
@[simp] theorem State.taken_fires (s : State) : (s.taken).fires = s.fires := rfl
@[simp] theorem State.taken_waiting (s : State) : (s.taken).waiting = s.waiting := rfl
@[simp] theorem State.taken_free (s : State) : (s.taken).free = s.free := rfl
@[simp] theorem State.taken_nextId (s : State) : (s.taken).nextId = s.nextId := rfl

/-! ### updEngine -/

@[simp] theorem State.updEngine_time (s : State) (p e : Nat) (g : Engine → Engine) : (s.updEngine p e g).time = s.time := rfl
@[simp] theorem State.updEngine_regs (s : State) (p e : Nat) (g : Engine → Engine) : (s.updEngine p e g).regs = s.regs := rfl
@[simp] theorem State.updEngine_mem (s : State) (p e : Nat) (g : Engine → Engine) : (s.updEngine p e g).mem = s.mem := rfl
@[simp] theorem State.updEngine_full (s : State) (p e : Nat) (g : Engine → Engine) : (s.updEngine p e g).full = s.full := rfl
@[simp] theorem State.updEngine_poison (s : State) (p e : Nat) (g : Engine → Engine) : (s.updEngine p e g).poison = s.poison := rfl
@[simp] theorem State.updEngine_failed (s : State) (p e : Nat) (g : Engine → Engine) : (s.updEngine p e g).failed = s.failed := rfl
@[simp] theorem State.updEngine_stage (s : State) (p e : Nat) (g : Engine → Engine) : (s.updEngine p e g).stage = s.stage := rfl
@[simp] theorem State.updEngine_hbm (s : State) (p e : Nat) (g : Engine → Engine) : (s.updEngine p e g).hbm = s.hbm := rfl
@[simp] theorem State.updEngine_coh (s : State) (p e : Nat) (g : Engine → Engine) : (s.updEngine p e g).coh = s.coh := rfl
@[simp] theorem State.updEngine_mmu (s : State) (p e : Nat) (g : Engine → Engine) : (s.updEngine p e g).mmu = s.mmu := rfl
@[simp] theorem State.updEngine_images (s : State) (p e : Nat) (g : Engine → Engine) : (s.updEngine p e g).images = s.images := rfl
@[simp] theorem State.updEngine_cfgCache (s : State) (p e : Nat) (g : Engine → Engine) : (s.updEngine p e g).cfgCache = s.cfgCache := rfl
@[simp] theorem State.updEngine_invals (s : State) (p e : Nat) (g : Engine → Engine) : (s.updEngine p e g).invals = s.invals := rfl
@[simp] theorem State.updEngine_queues (s : State) (p e : Nat) (g : Engine → Engine) : (s.updEngine p e g).queues = s.queues := rfl
@[simp] theorem State.updEngine_grids (s : State) (p e : Nat) (g : Engine → Engine) : (s.updEngine p e g).grids = s.grids := rfl
@[simp] theorem State.updEngine_dist (s : State) (p e : Nat) (g : Engine → Engine) : (s.updEngine p e g).dist = s.dist := rfl
@[simp] theorem State.updEngine_teams (s : State) (p e : Nat) (g : Engine → Engine) : (s.updEngine p e g).teams = s.teams := rfl
@[simp] theorem State.updEngine_cores (s : State) (p e : Nat) (g : Engine → Engine) : (s.updEngine p e g).cores = s.cores := rfl
@[simp] theorem State.updEngine_saves (s : State) (p e : Nat) (g : Engine → Engine) : (s.updEngine p e g).saves = s.saves := rfl
@[simp] theorem State.updEngine_contexts (s : State) (p e : Nat) (g : Engine → Engine) : (s.updEngine p e g).contexts = s.contexts := rfl
@[simp] theorem State.updEngine_chr (s : State) (p e : Nat) (g : Engine → Engine) : (s.updEngine p e g).chr = s.chr := rfl
@[simp] theorem State.updEngine_station (s : State) (p e : Nat) (g : Engine → Engine) : (s.updEngine p e g).station = s.station := rfl
@[simp] theorem State.updEngine_links (s : State) (p e : Nat) (g : Engine → Engine) : (s.updEngine p e g).links = s.links := rfl
@[simp] theorem State.updEngine_elog (s : State) (p e : Nat) (g : Engine → Engine) : (s.updEngine p e g).elog = s.elog := rfl
@[simp] theorem State.updEngine_checks (s : State) (p e : Nat) (g : Engine → Engine) : (s.updEngine p e g).checks = s.checks := rfl
@[simp] theorem State.updEngine_dbg (s : State) (p e : Nat) (g : Engine → Engine) : (s.updEngine p e g).dbg = s.dbg := rfl
@[simp] theorem State.updEngine_rpl (s : State) (p e : Nat) (g : Engine → Engine) : (s.updEngine p e g).rpl = s.rpl := rfl
@[simp] theorem State.updEngine_sec (s : State) (p e : Nat) (g : Engine → Engine) : (s.updEngine p e g).sec = s.sec := rfl
@[simp] theorem State.updEngine_hostOut (s : State) (p e : Nat) (g : Engine → Engine) : (s.updEngine p e g).hostOut = s.hostOut := rfl
@[simp] theorem State.updEngine_timing (s : State) (p e : Nat) (g : Engine → Engine) : (s.updEngine p e g).timing = s.timing := rfl
@[simp] theorem State.updEngine_agenda (s : State) (p e : Nat) (g : Engine → Engine) : (s.updEngine p e g).agenda = s.agenda := rfl
@[simp] theorem State.updEngine_fires (s : State) (p e : Nat) (g : Engine → Engine) : (s.updEngine p e g).fires = s.fires := rfl
@[simp] theorem State.updEngine_waiting (s : State) (p e : Nat) (g : Engine → Engine) : (s.updEngine p e g).waiting = s.waiting := rfl
@[simp] theorem State.updEngine_firing (s : State) (p e : Nat) (g : Engine → Engine) : (s.updEngine p e g).firing = s.firing := rfl
@[simp] theorem State.updEngine_free (s : State) (p e : Nat) (g : Engine → Engine) : (s.updEngine p e g).free = s.free := rfl
@[simp] theorem State.updEngine_nextId (s : State) (p e : Nat) (g : Engine → Engine) : (s.updEngine p e g).nextId = s.nextId := rfl

/-! ### setRegBit -/

@[simp] theorem State.setRegBit_time (s : State) (n : RegName) (i b : Nat) : (s.setRegBit n i b).time = s.time := rfl
@[simp] theorem State.setRegBit_mem (s : State) (n : RegName) (i b : Nat) : (s.setRegBit n i b).mem = s.mem := rfl
@[simp] theorem State.setRegBit_full (s : State) (n : RegName) (i b : Nat) : (s.setRegBit n i b).full = s.full := rfl
@[simp] theorem State.setRegBit_poison (s : State) (n : RegName) (i b : Nat) : (s.setRegBit n i b).poison = s.poison := rfl
@[simp] theorem State.setRegBit_failed (s : State) (n : RegName) (i b : Nat) : (s.setRegBit n i b).failed = s.failed := rfl
@[simp] theorem State.setRegBit_stage (s : State) (n : RegName) (i b : Nat) : (s.setRegBit n i b).stage = s.stage := rfl
@[simp] theorem State.setRegBit_hbm (s : State) (n : RegName) (i b : Nat) : (s.setRegBit n i b).hbm = s.hbm := rfl
@[simp] theorem State.setRegBit_coh (s : State) (n : RegName) (i b : Nat) : (s.setRegBit n i b).coh = s.coh := rfl
@[simp] theorem State.setRegBit_mmu (s : State) (n : RegName) (i b : Nat) : (s.setRegBit n i b).mmu = s.mmu := rfl
@[simp] theorem State.setRegBit_images (s : State) (n : RegName) (i b : Nat) : (s.setRegBit n i b).images = s.images := rfl
@[simp] theorem State.setRegBit_cfgCache (s : State) (n : RegName) (i b : Nat) : (s.setRegBit n i b).cfgCache = s.cfgCache := rfl
@[simp] theorem State.setRegBit_invals (s : State) (n : RegName) (i b : Nat) : (s.setRegBit n i b).invals = s.invals := rfl
@[simp] theorem State.setRegBit_queues (s : State) (n : RegName) (i b : Nat) : (s.setRegBit n i b).queues = s.queues := rfl
@[simp] theorem State.setRegBit_grids (s : State) (n : RegName) (i b : Nat) : (s.setRegBit n i b).grids = s.grids := rfl
@[simp] theorem State.setRegBit_dist (s : State) (n : RegName) (i b : Nat) : (s.setRegBit n i b).dist = s.dist := rfl
@[simp] theorem State.setRegBit_teams (s : State) (n : RegName) (i b : Nat) : (s.setRegBit n i b).teams = s.teams := rfl
@[simp] theorem State.setRegBit_cores (s : State) (n : RegName) (i b : Nat) : (s.setRegBit n i b).cores = s.cores := rfl
@[simp] theorem State.setRegBit_saves (s : State) (n : RegName) (i b : Nat) : (s.setRegBit n i b).saves = s.saves := rfl
@[simp] theorem State.setRegBit_contexts (s : State) (n : RegName) (i b : Nat) : (s.setRegBit n i b).contexts = s.contexts := rfl
@[simp] theorem State.setRegBit_engines (s : State) (n : RegName) (i b : Nat) : (s.setRegBit n i b).engines = s.engines := rfl
@[simp] theorem State.setRegBit_chr (s : State) (n : RegName) (i b : Nat) : (s.setRegBit n i b).chr = s.chr := rfl
@[simp] theorem State.setRegBit_station (s : State) (n : RegName) (i b : Nat) : (s.setRegBit n i b).station = s.station := rfl
@[simp] theorem State.setRegBit_links (s : State) (n : RegName) (i b : Nat) : (s.setRegBit n i b).links = s.links := rfl
@[simp] theorem State.setRegBit_elog (s : State) (n : RegName) (i b : Nat) : (s.setRegBit n i b).elog = s.elog := rfl
@[simp] theorem State.setRegBit_checks (s : State) (n : RegName) (i b : Nat) : (s.setRegBit n i b).checks = s.checks := rfl
@[simp] theorem State.setRegBit_dbg (s : State) (n : RegName) (i b : Nat) : (s.setRegBit n i b).dbg = s.dbg := rfl
@[simp] theorem State.setRegBit_rpl (s : State) (n : RegName) (i b : Nat) : (s.setRegBit n i b).rpl = s.rpl := rfl
@[simp] theorem State.setRegBit_sec (s : State) (n : RegName) (i b : Nat) : (s.setRegBit n i b).sec = s.sec := rfl
@[simp] theorem State.setRegBit_hostOut (s : State) (n : RegName) (i b : Nat) : (s.setRegBit n i b).hostOut = s.hostOut := rfl
@[simp] theorem State.setRegBit_timing (s : State) (n : RegName) (i b : Nat) : (s.setRegBit n i b).timing = s.timing := rfl
@[simp] theorem State.setRegBit_agenda (s : State) (n : RegName) (i b : Nat) : (s.setRegBit n i b).agenda = s.agenda := rfl
@[simp] theorem State.setRegBit_fires (s : State) (n : RegName) (i b : Nat) : (s.setRegBit n i b).fires = s.fires := rfl
@[simp] theorem State.setRegBit_waiting (s : State) (n : RegName) (i b : Nat) : (s.setRegBit n i b).waiting = s.waiting := rfl
@[simp] theorem State.setRegBit_firing (s : State) (n : RegName) (i b : Nat) : (s.setRegBit n i b).firing = s.firing := rfl
@[simp] theorem State.setRegBit_free (s : State) (n : RegName) (i b : Nat) : (s.setRegBit n i b).free = s.free := rfl
@[simp] theorem State.setRegBit_nextId (s : State) (n : RegName) (i b : Nat) : (s.setRegBit n i b).nextId = s.nextId := rfl

/-! ### queueRecord -/

@[simp] theorem State.queueRecord_time (s : State) (r : Record) : (s.queueRecord r).time = s.time := rfl
@[simp] theorem State.queueRecord_regs (s : State) (r : Record) : (s.queueRecord r).regs = s.regs := rfl
@[simp] theorem State.queueRecord_mem (s : State) (r : Record) : (s.queueRecord r).mem = s.mem := rfl
@[simp] theorem State.queueRecord_full (s : State) (r : Record) : (s.queueRecord r).full = s.full := rfl
@[simp] theorem State.queueRecord_poison (s : State) (r : Record) : (s.queueRecord r).poison = s.poison := rfl
@[simp] theorem State.queueRecord_failed (s : State) (r : Record) : (s.queueRecord r).failed = s.failed := rfl
@[simp] theorem State.queueRecord_stage (s : State) (r : Record) : (s.queueRecord r).stage = s.stage := rfl
@[simp] theorem State.queueRecord_hbm (s : State) (r : Record) : (s.queueRecord r).hbm = s.hbm := rfl
@[simp] theorem State.queueRecord_coh (s : State) (r : Record) : (s.queueRecord r).coh = s.coh := rfl
@[simp] theorem State.queueRecord_mmu (s : State) (r : Record) : (s.queueRecord r).mmu = s.mmu := rfl
@[simp] theorem State.queueRecord_images (s : State) (r : Record) : (s.queueRecord r).images = s.images := rfl
@[simp] theorem State.queueRecord_cfgCache (s : State) (r : Record) : (s.queueRecord r).cfgCache = s.cfgCache := rfl
@[simp] theorem State.queueRecord_invals (s : State) (r : Record) : (s.queueRecord r).invals = s.invals := rfl
@[simp] theorem State.queueRecord_queues (s : State) (r : Record) : (s.queueRecord r).queues = s.queues := rfl
@[simp] theorem State.queueRecord_grids (s : State) (r : Record) : (s.queueRecord r).grids = s.grids := rfl
@[simp] theorem State.queueRecord_dist (s : State) (r : Record) : (s.queueRecord r).dist = s.dist := rfl
@[simp] theorem State.queueRecord_teams (s : State) (r : Record) : (s.queueRecord r).teams = s.teams := rfl
@[simp] theorem State.queueRecord_cores (s : State) (r : Record) : (s.queueRecord r).cores = s.cores := rfl
@[simp] theorem State.queueRecord_saves (s : State) (r : Record) : (s.queueRecord r).saves = s.saves := rfl
@[simp] theorem State.queueRecord_contexts (s : State) (r : Record) : (s.queueRecord r).contexts = s.contexts := rfl
@[simp] theorem State.queueRecord_engines (s : State) (r : Record) : (s.queueRecord r).engines = s.engines := rfl
@[simp] theorem State.queueRecord_chr (s : State) (r : Record) : (s.queueRecord r).chr = s.chr := rfl
@[simp] theorem State.queueRecord_links (s : State) (r : Record) : (s.queueRecord r).links = s.links := rfl
@[simp] theorem State.queueRecord_elog (s : State) (r : Record) : (s.queueRecord r).elog = s.elog := rfl
@[simp] theorem State.queueRecord_checks (s : State) (r : Record) : (s.queueRecord r).checks = s.checks := rfl
@[simp] theorem State.queueRecord_dbg (s : State) (r : Record) : (s.queueRecord r).dbg = s.dbg := rfl
@[simp] theorem State.queueRecord_rpl (s : State) (r : Record) : (s.queueRecord r).rpl = s.rpl := rfl
@[simp] theorem State.queueRecord_sec (s : State) (r : Record) : (s.queueRecord r).sec = s.sec := rfl
@[simp] theorem State.queueRecord_hostOut (s : State) (r : Record) : (s.queueRecord r).hostOut = s.hostOut := rfl
@[simp] theorem State.queueRecord_timing (s : State) (r : Record) : (s.queueRecord r).timing = s.timing := rfl
@[simp] theorem State.queueRecord_agenda (s : State) (r : Record) : (s.queueRecord r).agenda = s.agenda := rfl
@[simp] theorem State.queueRecord_fires (s : State) (r : Record) : (s.queueRecord r).fires = s.fires := rfl
@[simp] theorem State.queueRecord_waiting (s : State) (r : Record) : (s.queueRecord r).waiting = s.waiting := rfl
@[simp] theorem State.queueRecord_firing (s : State) (r : Record) : (s.queueRecord r).firing = s.firing := rfl
@[simp] theorem State.queueRecord_free (s : State) (r : Record) : (s.queueRecord r).free = s.free := rfl
@[simp] theorem State.queueRecord_nextId (s : State) (r : Record) : (s.queueRecord r).nextId = s.nextId := rfl

/-! ### event -/

@[simp] theorem State.event_time (s : State) (e : Nat) (l : List Nat) : (s.event e l).time = s.time := rfl
@[simp] theorem State.event_regs (s : State) (e : Nat) (l : List Nat) : (s.event e l).regs = s.regs := rfl
@[simp] theorem State.event_mem (s : State) (e : Nat) (l : List Nat) : (s.event e l).mem = s.mem := rfl
@[simp] theorem State.event_full (s : State) (e : Nat) (l : List Nat) : (s.event e l).full = s.full := rfl
@[simp] theorem State.event_poison (s : State) (e : Nat) (l : List Nat) : (s.event e l).poison = s.poison := rfl
@[simp] theorem State.event_failed (s : State) (e : Nat) (l : List Nat) : (s.event e l).failed = s.failed := rfl
@[simp] theorem State.event_stage (s : State) (e : Nat) (l : List Nat) : (s.event e l).stage = s.stage := rfl
@[simp] theorem State.event_hbm (s : State) (e : Nat) (l : List Nat) : (s.event e l).hbm = s.hbm := rfl
@[simp] theorem State.event_coh (s : State) (e : Nat) (l : List Nat) : (s.event e l).coh = s.coh := rfl
@[simp] theorem State.event_mmu (s : State) (e : Nat) (l : List Nat) : (s.event e l).mmu = s.mmu := rfl
@[simp] theorem State.event_images (s : State) (e : Nat) (l : List Nat) : (s.event e l).images = s.images := rfl
@[simp] theorem State.event_cfgCache (s : State) (e : Nat) (l : List Nat) : (s.event e l).cfgCache = s.cfgCache := rfl
@[simp] theorem State.event_invals (s : State) (e : Nat) (l : List Nat) : (s.event e l).invals = s.invals := rfl
@[simp] theorem State.event_queues (s : State) (e : Nat) (l : List Nat) : (s.event e l).queues = s.queues := rfl
@[simp] theorem State.event_grids (s : State) (e : Nat) (l : List Nat) : (s.event e l).grids = s.grids := rfl
@[simp] theorem State.event_dist (s : State) (e : Nat) (l : List Nat) : (s.event e l).dist = s.dist := rfl
@[simp] theorem State.event_teams (s : State) (e : Nat) (l : List Nat) : (s.event e l).teams = s.teams := rfl
@[simp] theorem State.event_cores (s : State) (e : Nat) (l : List Nat) : (s.event e l).cores = s.cores := rfl
@[simp] theorem State.event_saves (s : State) (e : Nat) (l : List Nat) : (s.event e l).saves = s.saves := rfl
@[simp] theorem State.event_contexts (s : State) (e : Nat) (l : List Nat) : (s.event e l).contexts = s.contexts := rfl
@[simp] theorem State.event_engines (s : State) (e : Nat) (l : List Nat) : (s.event e l).engines = s.engines := rfl
@[simp] theorem State.event_chr (s : State) (e : Nat) (l : List Nat) : (s.event e l).chr = s.chr := rfl
@[simp] theorem State.event_links (s : State) (e : Nat) (l : List Nat) : (s.event e l).links = s.links := rfl
@[simp] theorem State.event_elog (s : State) (e : Nat) (l : List Nat) : (s.event e l).elog = s.elog := rfl
@[simp] theorem State.event_checks (s : State) (e : Nat) (l : List Nat) : (s.event e l).checks = s.checks := rfl
@[simp] theorem State.event_dbg (s : State) (e : Nat) (l : List Nat) : (s.event e l).dbg = s.dbg := rfl
@[simp] theorem State.event_rpl (s : State) (e : Nat) (l : List Nat) : (s.event e l).rpl = s.rpl := rfl
@[simp] theorem State.event_sec (s : State) (e : Nat) (l : List Nat) : (s.event e l).sec = s.sec := rfl
@[simp] theorem State.event_hostOut (s : State) (e : Nat) (l : List Nat) : (s.event e l).hostOut = s.hostOut := rfl
@[simp] theorem State.event_timing (s : State) (e : Nat) (l : List Nat) : (s.event e l).timing = s.timing := rfl
@[simp] theorem State.event_agenda (s : State) (e : Nat) (l : List Nat) : (s.event e l).agenda = s.agenda := rfl
@[simp] theorem State.event_fires (s : State) (e : Nat) (l : List Nat) : (s.event e l).fires = s.fires := rfl
@[simp] theorem State.event_waiting (s : State) (e : Nat) (l : List Nat) : (s.event e l).waiting = s.waiting := rfl
@[simp] theorem State.event_firing (s : State) (e : Nat) (l : List Nat) : (s.event e l).firing = s.firing := rfl
@[simp] theorem State.event_free (s : State) (e : Nat) (l : List Nat) : (s.event e l).free = s.free := rfl
@[simp] theorem State.event_nextId (s : State) (e : Nat) (l : List Nat) : (s.event e l).nextId = s.nextId := rfl

/-! ### updTeam -/

@[simp] theorem State.updTeam_time (s : State) (t : Nat) (g : Team → Team) : (s.updTeam t g).time = s.time := by
  unfold State.updTeam; split <;> rfl
@[simp] theorem State.updTeam_regs (s : State) (t : Nat) (g : Team → Team) : (s.updTeam t g).regs = s.regs := by
  unfold State.updTeam; split <;> rfl
@[simp] theorem State.updTeam_mem (s : State) (t : Nat) (g : Team → Team) : (s.updTeam t g).mem = s.mem := by
  unfold State.updTeam; split <;> rfl
@[simp] theorem State.updTeam_full (s : State) (t : Nat) (g : Team → Team) : (s.updTeam t g).full = s.full := by
  unfold State.updTeam; split <;> rfl
@[simp] theorem State.updTeam_poison (s : State) (t : Nat) (g : Team → Team) : (s.updTeam t g).poison = s.poison := by
  unfold State.updTeam; split <;> rfl
@[simp] theorem State.updTeam_failed (s : State) (t : Nat) (g : Team → Team) : (s.updTeam t g).failed = s.failed := by
  unfold State.updTeam; split <;> rfl
@[simp] theorem State.updTeam_stage (s : State) (t : Nat) (g : Team → Team) : (s.updTeam t g).stage = s.stage := by
  unfold State.updTeam; split <;> rfl
@[simp] theorem State.updTeam_hbm (s : State) (t : Nat) (g : Team → Team) : (s.updTeam t g).hbm = s.hbm := by
  unfold State.updTeam; split <;> rfl
@[simp] theorem State.updTeam_coh (s : State) (t : Nat) (g : Team → Team) : (s.updTeam t g).coh = s.coh := by
  unfold State.updTeam; split <;> rfl
@[simp] theorem State.updTeam_mmu (s : State) (t : Nat) (g : Team → Team) : (s.updTeam t g).mmu = s.mmu := by
  unfold State.updTeam; split <;> rfl
@[simp] theorem State.updTeam_images (s : State) (t : Nat) (g : Team → Team) : (s.updTeam t g).images = s.images := by
  unfold State.updTeam; split <;> rfl
@[simp] theorem State.updTeam_cfgCache (s : State) (t : Nat) (g : Team → Team) : (s.updTeam t g).cfgCache = s.cfgCache := by
  unfold State.updTeam; split <;> rfl
@[simp] theorem State.updTeam_invals (s : State) (t : Nat) (g : Team → Team) : (s.updTeam t g).invals = s.invals := by
  unfold State.updTeam; split <;> rfl
@[simp] theorem State.updTeam_queues (s : State) (t : Nat) (g : Team → Team) : (s.updTeam t g).queues = s.queues := by
  unfold State.updTeam; split <;> rfl
@[simp] theorem State.updTeam_grids (s : State) (t : Nat) (g : Team → Team) : (s.updTeam t g).grids = s.grids := by
  unfold State.updTeam; split <;> rfl
@[simp] theorem State.updTeam_dist (s : State) (t : Nat) (g : Team → Team) : (s.updTeam t g).dist = s.dist := by
  unfold State.updTeam; split <;> rfl
@[simp] theorem State.updTeam_cores (s : State) (t : Nat) (g : Team → Team) : (s.updTeam t g).cores = s.cores := by
  unfold State.updTeam; split <;> rfl
@[simp] theorem State.updTeam_saves (s : State) (t : Nat) (g : Team → Team) : (s.updTeam t g).saves = s.saves := by
  unfold State.updTeam; split <;> rfl
@[simp] theorem State.updTeam_contexts (s : State) (t : Nat) (g : Team → Team) : (s.updTeam t g).contexts = s.contexts := by
  unfold State.updTeam; split <;> rfl
@[simp] theorem State.updTeam_engines (s : State) (t : Nat) (g : Team → Team) : (s.updTeam t g).engines = s.engines := by
  unfold State.updTeam; split <;> rfl
@[simp] theorem State.updTeam_chr (s : State) (t : Nat) (g : Team → Team) : (s.updTeam t g).chr = s.chr := by
  unfold State.updTeam; split <;> rfl
@[simp] theorem State.updTeam_station (s : State) (t : Nat) (g : Team → Team) : (s.updTeam t g).station = s.station := by
  unfold State.updTeam; split <;> rfl
@[simp] theorem State.updTeam_links (s : State) (t : Nat) (g : Team → Team) : (s.updTeam t g).links = s.links := by
  unfold State.updTeam; split <;> rfl
@[simp] theorem State.updTeam_elog (s : State) (t : Nat) (g : Team → Team) : (s.updTeam t g).elog = s.elog := by
  unfold State.updTeam; split <;> rfl
@[simp] theorem State.updTeam_checks (s : State) (t : Nat) (g : Team → Team) : (s.updTeam t g).checks = s.checks := by
  unfold State.updTeam; split <;> rfl
@[simp] theorem State.updTeam_dbg (s : State) (t : Nat) (g : Team → Team) : (s.updTeam t g).dbg = s.dbg := by
  unfold State.updTeam; split <;> rfl
@[simp] theorem State.updTeam_rpl (s : State) (t : Nat) (g : Team → Team) : (s.updTeam t g).rpl = s.rpl := by
  unfold State.updTeam; split <;> rfl
@[simp] theorem State.updTeam_sec (s : State) (t : Nat) (g : Team → Team) : (s.updTeam t g).sec = s.sec := by
  unfold State.updTeam; split <;> rfl
@[simp] theorem State.updTeam_hostOut (s : State) (t : Nat) (g : Team → Team) : (s.updTeam t g).hostOut = s.hostOut := by
  unfold State.updTeam; split <;> rfl
@[simp] theorem State.updTeam_timing (s : State) (t : Nat) (g : Team → Team) : (s.updTeam t g).timing = s.timing := by
  unfold State.updTeam; split <;> rfl
@[simp] theorem State.updTeam_agenda (s : State) (t : Nat) (g : Team → Team) : (s.updTeam t g).agenda = s.agenda := by
  unfold State.updTeam; split <;> rfl
@[simp] theorem State.updTeam_fires (s : State) (t : Nat) (g : Team → Team) : (s.updTeam t g).fires = s.fires := by
  unfold State.updTeam; split <;> rfl
@[simp] theorem State.updTeam_waiting (s : State) (t : Nat) (g : Team → Team) : (s.updTeam t g).waiting = s.waiting := by
  unfold State.updTeam; split <;> rfl
@[simp] theorem State.updTeam_firing (s : State) (t : Nat) (g : Team → Team) : (s.updTeam t g).firing = s.firing := by
  unfold State.updTeam; split <;> rfl
@[simp] theorem State.updTeam_free (s : State) (t : Nat) (g : Team → Team) : (s.updTeam t g).free = s.free := by
  unfold State.updTeam; split <;> rfl
@[simp] theorem State.updTeam_nextId (s : State) (t : Nat) (g : Team → Team) : (s.updTeam t g).nextId = s.nextId := by
  unfold State.updTeam; split <;> rfl
@[simp] theorem State.updTeam_thread (s : State) (t : Nat) (g : Team → Team) (c k : Nat) : (s.updTeam t g).thread c k = s.thread c k := by
  unfold State.updTeam; split <;> rfl
@[simp] theorem State.updTeam_core (s : State) (t : Nat) (g : Team → Team) (c : Nat) : (s.updTeam t g).core c = s.core c := by
  unfold State.updTeam; split <;> rfl
@[simp] theorem State.updTeam_tile (s : State) (t : Nat) (g : Team → Team) (c k : Nat) : (s.updTeam t g).tile c k = s.tile c k := by
  unfold State.updTeam; split <;> rfl

/-! ### updGrid -/

@[simp] theorem State.updGrid_time (s : State) (t : Nat) (g : Grid → Grid) : (s.updGrid t g).time = s.time := by
  unfold State.updGrid; split <;> rfl
@[simp] theorem State.updGrid_regs (s : State) (t : Nat) (g : Grid → Grid) : (s.updGrid t g).regs = s.regs := by
  unfold State.updGrid; split <;> rfl
@[simp] theorem State.updGrid_mem (s : State) (t : Nat) (g : Grid → Grid) : (s.updGrid t g).mem = s.mem := by
  unfold State.updGrid; split <;> rfl
@[simp] theorem State.updGrid_full (s : State) (t : Nat) (g : Grid → Grid) : (s.updGrid t g).full = s.full := by
  unfold State.updGrid; split <;> rfl
@[simp] theorem State.updGrid_poison (s : State) (t : Nat) (g : Grid → Grid) : (s.updGrid t g).poison = s.poison := by
  unfold State.updGrid; split <;> rfl
@[simp] theorem State.updGrid_failed (s : State) (t : Nat) (g : Grid → Grid) : (s.updGrid t g).failed = s.failed := by
  unfold State.updGrid; split <;> rfl
@[simp] theorem State.updGrid_stage (s : State) (t : Nat) (g : Grid → Grid) : (s.updGrid t g).stage = s.stage := by
  unfold State.updGrid; split <;> rfl
@[simp] theorem State.updGrid_hbm (s : State) (t : Nat) (g : Grid → Grid) : (s.updGrid t g).hbm = s.hbm := by
  unfold State.updGrid; split <;> rfl
@[simp] theorem State.updGrid_coh (s : State) (t : Nat) (g : Grid → Grid) : (s.updGrid t g).coh = s.coh := by
  unfold State.updGrid; split <;> rfl
@[simp] theorem State.updGrid_mmu (s : State) (t : Nat) (g : Grid → Grid) : (s.updGrid t g).mmu = s.mmu := by
  unfold State.updGrid; split <;> rfl
@[simp] theorem State.updGrid_images (s : State) (t : Nat) (g : Grid → Grid) : (s.updGrid t g).images = s.images := by
  unfold State.updGrid; split <;> rfl
@[simp] theorem State.updGrid_cfgCache (s : State) (t : Nat) (g : Grid → Grid) : (s.updGrid t g).cfgCache = s.cfgCache := by
  unfold State.updGrid; split <;> rfl
@[simp] theorem State.updGrid_invals (s : State) (t : Nat) (g : Grid → Grid) : (s.updGrid t g).invals = s.invals := by
  unfold State.updGrid; split <;> rfl
@[simp] theorem State.updGrid_queues (s : State) (t : Nat) (g : Grid → Grid) : (s.updGrid t g).queues = s.queues := by
  unfold State.updGrid; split <;> rfl
@[simp] theorem State.updGrid_dist (s : State) (t : Nat) (g : Grid → Grid) : (s.updGrid t g).dist = s.dist := by
  unfold State.updGrid; split <;> rfl
@[simp] theorem State.updGrid_teams (s : State) (t : Nat) (g : Grid → Grid) : (s.updGrid t g).teams = s.teams := by
  unfold State.updGrid; split <;> rfl
@[simp] theorem State.updGrid_cores (s : State) (t : Nat) (g : Grid → Grid) : (s.updGrid t g).cores = s.cores := by
  unfold State.updGrid; split <;> rfl
@[simp] theorem State.updGrid_saves (s : State) (t : Nat) (g : Grid → Grid) : (s.updGrid t g).saves = s.saves := by
  unfold State.updGrid; split <;> rfl
@[simp] theorem State.updGrid_contexts (s : State) (t : Nat) (g : Grid → Grid) : (s.updGrid t g).contexts = s.contexts := by
  unfold State.updGrid; split <;> rfl
@[simp] theorem State.updGrid_engines (s : State) (t : Nat) (g : Grid → Grid) : (s.updGrid t g).engines = s.engines := by
  unfold State.updGrid; split <;> rfl
@[simp] theorem State.updGrid_chr (s : State) (t : Nat) (g : Grid → Grid) : (s.updGrid t g).chr = s.chr := by
  unfold State.updGrid; split <;> rfl
@[simp] theorem State.updGrid_station (s : State) (t : Nat) (g : Grid → Grid) : (s.updGrid t g).station = s.station := by
  unfold State.updGrid; split <;> rfl
@[simp] theorem State.updGrid_links (s : State) (t : Nat) (g : Grid → Grid) : (s.updGrid t g).links = s.links := by
  unfold State.updGrid; split <;> rfl
@[simp] theorem State.updGrid_elog (s : State) (t : Nat) (g : Grid → Grid) : (s.updGrid t g).elog = s.elog := by
  unfold State.updGrid; split <;> rfl
@[simp] theorem State.updGrid_checks (s : State) (t : Nat) (g : Grid → Grid) : (s.updGrid t g).checks = s.checks := by
  unfold State.updGrid; split <;> rfl
@[simp] theorem State.updGrid_dbg (s : State) (t : Nat) (g : Grid → Grid) : (s.updGrid t g).dbg = s.dbg := by
  unfold State.updGrid; split <;> rfl
@[simp] theorem State.updGrid_rpl (s : State) (t : Nat) (g : Grid → Grid) : (s.updGrid t g).rpl = s.rpl := by
  unfold State.updGrid; split <;> rfl
@[simp] theorem State.updGrid_sec (s : State) (t : Nat) (g : Grid → Grid) : (s.updGrid t g).sec = s.sec := by
  unfold State.updGrid; split <;> rfl
@[simp] theorem State.updGrid_hostOut (s : State) (t : Nat) (g : Grid → Grid) : (s.updGrid t g).hostOut = s.hostOut := by
  unfold State.updGrid; split <;> rfl
@[simp] theorem State.updGrid_timing (s : State) (t : Nat) (g : Grid → Grid) : (s.updGrid t g).timing = s.timing := by
  unfold State.updGrid; split <;> rfl
@[simp] theorem State.updGrid_agenda (s : State) (t : Nat) (g : Grid → Grid) : (s.updGrid t g).agenda = s.agenda := by
  unfold State.updGrid; split <;> rfl
@[simp] theorem State.updGrid_fires (s : State) (t : Nat) (g : Grid → Grid) : (s.updGrid t g).fires = s.fires := by
  unfold State.updGrid; split <;> rfl
@[simp] theorem State.updGrid_waiting (s : State) (t : Nat) (g : Grid → Grid) : (s.updGrid t g).waiting = s.waiting := by
  unfold State.updGrid; split <;> rfl
@[simp] theorem State.updGrid_firing (s : State) (t : Nat) (g : Grid → Grid) : (s.updGrid t g).firing = s.firing := by
  unfold State.updGrid; split <;> rfl
@[simp] theorem State.updGrid_free (s : State) (t : Nat) (g : Grid → Grid) : (s.updGrid t g).free = s.free := by
  unfold State.updGrid; split <;> rfl
@[simp] theorem State.updGrid_nextId (s : State) (t : Nat) (g : Grid → Grid) : (s.updGrid t g).nextId = s.nextId := by
  unfold State.updGrid; split <;> rfl
@[simp] theorem State.updGrid_thread (s : State) (t : Nat) (g : Grid → Grid) (c k : Nat) : (s.updGrid t g).thread c k = s.thread c k := by
  unfold State.updGrid; split <;> rfl
@[simp] theorem State.updGrid_core (s : State) (t : Nat) (g : Grid → Grid) (c : Nat) : (s.updGrid t g).core c = s.core c := by
  unfold State.updGrid; split <;> rfl
@[simp] theorem State.updGrid_tile (s : State) (t : Nat) (g : Grid → Grid) (c k : Nat) : (s.updGrid t g).tile c k = s.tile c k := by
  unfold State.updGrid; split <;> rfl

/-! ### updImage -/

@[simp] theorem State.updImage_time (s : State) (t : Nat) (g : Image → Image) : (s.updImage t g).time = s.time := by
  unfold State.updImage; split <;> rfl
@[simp] theorem State.updImage_regs (s : State) (t : Nat) (g : Image → Image) : (s.updImage t g).regs = s.regs := by
  unfold State.updImage; split <;> rfl
@[simp] theorem State.updImage_mem (s : State) (t : Nat) (g : Image → Image) : (s.updImage t g).mem = s.mem := by
  unfold State.updImage; split <;> rfl
@[simp] theorem State.updImage_full (s : State) (t : Nat) (g : Image → Image) : (s.updImage t g).full = s.full := by
  unfold State.updImage; split <;> rfl
@[simp] theorem State.updImage_poison (s : State) (t : Nat) (g : Image → Image) : (s.updImage t g).poison = s.poison := by
  unfold State.updImage; split <;> rfl
@[simp] theorem State.updImage_failed (s : State) (t : Nat) (g : Image → Image) : (s.updImage t g).failed = s.failed := by
  unfold State.updImage; split <;> rfl
@[simp] theorem State.updImage_stage (s : State) (t : Nat) (g : Image → Image) : (s.updImage t g).stage = s.stage := by
  unfold State.updImage; split <;> rfl
@[simp] theorem State.updImage_hbm (s : State) (t : Nat) (g : Image → Image) : (s.updImage t g).hbm = s.hbm := by
  unfold State.updImage; split <;> rfl
@[simp] theorem State.updImage_coh (s : State) (t : Nat) (g : Image → Image) : (s.updImage t g).coh = s.coh := by
  unfold State.updImage; split <;> rfl
@[simp] theorem State.updImage_mmu (s : State) (t : Nat) (g : Image → Image) : (s.updImage t g).mmu = s.mmu := by
  unfold State.updImage; split <;> rfl
@[simp] theorem State.updImage_cfgCache (s : State) (t : Nat) (g : Image → Image) : (s.updImage t g).cfgCache = s.cfgCache := by
  unfold State.updImage; split <;> rfl
@[simp] theorem State.updImage_invals (s : State) (t : Nat) (g : Image → Image) : (s.updImage t g).invals = s.invals := by
  unfold State.updImage; split <;> rfl
@[simp] theorem State.updImage_queues (s : State) (t : Nat) (g : Image → Image) : (s.updImage t g).queues = s.queues := by
  unfold State.updImage; split <;> rfl
@[simp] theorem State.updImage_grids (s : State) (t : Nat) (g : Image → Image) : (s.updImage t g).grids = s.grids := by
  unfold State.updImage; split <;> rfl
@[simp] theorem State.updImage_dist (s : State) (t : Nat) (g : Image → Image) : (s.updImage t g).dist = s.dist := by
  unfold State.updImage; split <;> rfl
@[simp] theorem State.updImage_teams (s : State) (t : Nat) (g : Image → Image) : (s.updImage t g).teams = s.teams := by
  unfold State.updImage; split <;> rfl
@[simp] theorem State.updImage_cores (s : State) (t : Nat) (g : Image → Image) : (s.updImage t g).cores = s.cores := by
  unfold State.updImage; split <;> rfl
@[simp] theorem State.updImage_saves (s : State) (t : Nat) (g : Image → Image) : (s.updImage t g).saves = s.saves := by
  unfold State.updImage; split <;> rfl
@[simp] theorem State.updImage_contexts (s : State) (t : Nat) (g : Image → Image) : (s.updImage t g).contexts = s.contexts := by
  unfold State.updImage; split <;> rfl
@[simp] theorem State.updImage_engines (s : State) (t : Nat) (g : Image → Image) : (s.updImage t g).engines = s.engines := by
  unfold State.updImage; split <;> rfl
@[simp] theorem State.updImage_chr (s : State) (t : Nat) (g : Image → Image) : (s.updImage t g).chr = s.chr := by
  unfold State.updImage; split <;> rfl
@[simp] theorem State.updImage_station (s : State) (t : Nat) (g : Image → Image) : (s.updImage t g).station = s.station := by
  unfold State.updImage; split <;> rfl
@[simp] theorem State.updImage_links (s : State) (t : Nat) (g : Image → Image) : (s.updImage t g).links = s.links := by
  unfold State.updImage; split <;> rfl
@[simp] theorem State.updImage_elog (s : State) (t : Nat) (g : Image → Image) : (s.updImage t g).elog = s.elog := by
  unfold State.updImage; split <;> rfl
@[simp] theorem State.updImage_checks (s : State) (t : Nat) (g : Image → Image) : (s.updImage t g).checks = s.checks := by
  unfold State.updImage; split <;> rfl
@[simp] theorem State.updImage_dbg (s : State) (t : Nat) (g : Image → Image) : (s.updImage t g).dbg = s.dbg := by
  unfold State.updImage; split <;> rfl
@[simp] theorem State.updImage_rpl (s : State) (t : Nat) (g : Image → Image) : (s.updImage t g).rpl = s.rpl := by
  unfold State.updImage; split <;> rfl
@[simp] theorem State.updImage_sec (s : State) (t : Nat) (g : Image → Image) : (s.updImage t g).sec = s.sec := by
  unfold State.updImage; split <;> rfl
@[simp] theorem State.updImage_hostOut (s : State) (t : Nat) (g : Image → Image) : (s.updImage t g).hostOut = s.hostOut := by
  unfold State.updImage; split <;> rfl
@[simp] theorem State.updImage_timing (s : State) (t : Nat) (g : Image → Image) : (s.updImage t g).timing = s.timing := by
  unfold State.updImage; split <;> rfl
@[simp] theorem State.updImage_agenda (s : State) (t : Nat) (g : Image → Image) : (s.updImage t g).agenda = s.agenda := by
  unfold State.updImage; split <;> rfl
@[simp] theorem State.updImage_fires (s : State) (t : Nat) (g : Image → Image) : (s.updImage t g).fires = s.fires := by
  unfold State.updImage; split <;> rfl
@[simp] theorem State.updImage_waiting (s : State) (t : Nat) (g : Image → Image) : (s.updImage t g).waiting = s.waiting := by
  unfold State.updImage; split <;> rfl
@[simp] theorem State.updImage_firing (s : State) (t : Nat) (g : Image → Image) : (s.updImage t g).firing = s.firing := by
  unfold State.updImage; split <;> rfl
@[simp] theorem State.updImage_free (s : State) (t : Nat) (g : Image → Image) : (s.updImage t g).free = s.free := by
  unfold State.updImage; split <;> rfl
@[simp] theorem State.updImage_nextId (s : State) (t : Nat) (g : Image → Image) : (s.updImage t g).nextId = s.nextId := by
  unfold State.updImage; split <;> rfl
@[simp] theorem State.updImage_thread (s : State) (t : Nat) (g : Image → Image) (c k : Nat) : (s.updImage t g).thread c k = s.thread c k := by
  unfold State.updImage; split <;> rfl
@[simp] theorem State.updImage_core (s : State) (t : Nat) (g : Image → Image) (c : Nat) : (s.updImage t g).core c = s.core c := by
  unfold State.updImage; split <;> rfl
@[simp] theorem State.updImage_tile (s : State) (t : Nat) (g : Image → Image) (c k : Nat) : (s.updImage t g).tile c k = s.tile c k := by
  unfold State.updImage; split <;> rfl

/-! ### Accessors -/

@[simp] theorem State.taken_firing (s : State) : s.taken.firing = none := rfl
@[simp] theorem State.core_updCore (s : State) (c d : Nat) (g : Core → Core) :
    (s.updCore c g).core d = if d = c then g (s.core c) else s.core d := by
  simp only [State.updCore, State.core, KMap.lookD_alter]
@[simp] theorem State.tile_updTile (s : State) (c t d u : Nat) (g : Tile → Tile) :
    (s.updTile c t g).tile d u = if d = c ∧ u = t then g (s.tile c t) else s.tile d u := by
  simp only [State.updTile, State.tile, State.core_updCore]
  by_cases hc : d = c
  · subst hc; simp only [if_true, KMap.lookD_alter, true_and]
  · simp [hc]
@[simp] theorem State.thread_updThread (s : State) (c k d j : Nat) (g : Thread → Thread) :
    (s.updThread c k g).thread d j = if d = c ∧ j = k then g (s.thread c k) else s.thread d j := by
  simp only [State.updThread, State.thread, State.core_updCore]
  by_cases hc : d = c
  · subst hc; simp only [if_true, KMap.lookD_alter, true_and]
  · simp [hc]
@[simp] theorem State.tile_updThread (s : State) (c k d u : Nat) (g : Thread → Thread) :
    (s.updThread c k g).tile d u = s.tile d u := by
  simp only [State.updThread, State.tile, State.core_updCore]
  by_cases hc : d = c
  · subst hc; rw [if_pos rfl]
  · rw [if_neg hc]
@[simp] theorem State.thread_updTile (s : State) (c t d j : Nat) (g : Tile → Tile) :
    (s.updTile c t g).thread d j = s.thread d j := by
  simp only [State.updTile, State.thread, State.core_updCore]
  by_cases hc : d = c
  · subst hc; rw [if_pos rfl]
  · rw [if_neg hc]
@[simp] theorem State.thread_sendFault (s : State) (c d j : Nat) (x : FaultTok) :
    (s.sendFault c x).thread d j = s.thread d j := by
  simp only [State.sendFault, State.thread, State.core_updCore]
  by_cases hc : d = c
  · subst hc; rw [if_pos rfl]
  · rw [if_neg hc]
@[simp] theorem State.tile_sendFault (s : State) (c d u : Nat) (x : FaultTok) :
    (s.sendFault c x).tile d u = s.tile d u := by
  simp only [State.sendFault, State.tile, State.core_updCore]
  by_cases hc : d = c
  · subst hc; rw [if_pos rfl]
  · rw [if_neg hc]
@[simp] theorem State.thread_taken (s : State) (c k : Nat) : s.taken.thread c k = s.thread c k := rfl
@[simp] theorem State.tile_taken (s : State) (c t : Nat) : s.taken.tile c t = s.tile c t := rfl
@[simp] theorem State.core_taken (s : State) (c : Nat) : s.taken.core c = s.core c := rfl

/-- An execution changed where the thread has one. -/
theorem State.exec?_updExec (s : State) (c k d j : Nat) (g : Exec → Exec) :
    (s.updExec c k g).exec? d j = if d = c ∧ j = k then (s.exec? c k).map g else s.exec? d j := by
  simp only [State.updExec, State.exec?, State.thread_updThread]
  split <;> rfl

@[simp] theorem State.faultNet_sendFault (s : State) (c : Nat) (x : FaultTok) :
    ((s.sendFault c x).core c).faultNet = (s.core c).faultNet ++ [x] := by
  simp [State.sendFault]
@[simp] theorem State.faultNet_updTile (s : State) (c t d : Nat) (g : Tile → Tile) :
    ((s.updTile c t g).core d).faultNet = (s.core d).faultNet := by
  simp only [State.updTile, State.core_updCore]
  by_cases hc : d = c
  · subst hc; rw [if_pos rfl]
  · rw [if_neg hc]

/-- A change of an execution concerns the thread's execution alone. -/
theorem State.thread_updExec (s : State) (c k d j : Nat) (g : Exec → Exec) :
    (s.updExec c k g).thread d j =
      { s.thread d j with exec := if d = c ∧ j = k then (s.thread d j).exec.map g else (s.thread d j).exec } := by
  simp only [State.updExec, State.thread_updThread]
  split
  · rename_i h; obtain ⟨rfl, rfl⟩ := h; rfl
  · rfl

/-- A change of an execution keeps a thread's registers. -/
@[simp] theorem State.regs_updExec (s : State) (c k d j : Nat) (g : Exec → Exec) :
    ((s.updExec c k g).thread d j).regs = (s.thread d j).regs := by
  simp only [State.updExec, State.thread_updThread]
  split
  · rename_i h; obtain ⟨rfl, rfl⟩ := h; rfl
  · rfl

end Sys2Proof.Machine
end

