-- ==== Sys2Proof/Laws/Access.lean ====
section
/-! SUPPORT. The memory instructions: what each does once its access is numbered, and what the checks on an address depend
on. -/

namespace Sys2Proof.Machine

/-! ## Tokens cut to 64 bits -/

theorem fit_w64 (t : Token) : t.fit.w64 = t.w64 := by
  unfold Token.fit
  split
  · rfl
  · simp only [Token.w64, beatOf]
    apply BitVec.eq_of_getLsbD_eq
    intro i hi
    simp [hi]
    omega
@[simp] theorem fit_die (t : Token) : t.fit.die = t.die := by unfold Token.fit; split <;> rfl
@[simp] theorem fit_deferred (t : Token) : t.fit.deferred = t.deferred := by unfold Token.fit; split <;> rfl
@[simp] theorem fit_burst (t : Token) : t.fit.burst = t.burst := by unfold Token.fit; split <;> rfl
@[simp] theorem fit_fmt (t : Token) : t.fit.fmt = t.fmt := by unfold Token.fit; split <;> rfl
@[simp] theorem fit_pred (t : Token) : t.fit.pred = t.pred := by unfold Token.fit; split <;> rfl
@[simp] theorem fit_iter (t : Token) : t.fit.iter = t.iter := by unfold Token.fit; split <;> rfl
@[simp] theorem fit_slot (t : Token) : t.fit.slot = t.slot := by unfold Token.fit; split <;> rfl
@[simp] theorem fit_eos (t : Token) : t.fit.eos = t.eos := by unfold Token.fit; split <;> rfl
@[simp] theorem fit_deps (t : Token) : t.fit.deps = t.deps := by unfold Token.fit; split <;> rfl

/-- A token with a code as its data. -/
theorem w64_ofNat (t : Token) (v : Nat) : ({ t with data := BitVec.ofNat 256 v } : Token).w64 = BitVec.ofNat 64 v := by
  simp only [Token.w64]
  apply BitVec.eq_of_toNat_eq
  simp only [BitVec.extractLsb'_toNat, BitVec.toNat_ofNat, Nat.shiftRight_zero]
  omega

/-- The completion token of an access whose own effect is due. -/
theorem doneToken_spec (f : Firing) (r : Route) (id : Nat) (hd : f.deferred = false) (hp : f.pred r.ta = true) :
    (doneToken f r id).w64 = 0 ∧ (doneToken f r id).fmt = .int ∧ (doneToken f r id).pred = true ∧
      (doneToken f r id).deferred = false := by
  refine ⟨?_, ?_, ?_, ?_⟩
  · rw [doneToken, fit_w64]; rfl
  · rw [doneToken, fit_fmt]; rfl
  · rw [doneToken, fit_pred]; exact hp
  · rw [doneToken, fit_deferred]; exact hd

/-! ## The numbered state -/

/-- A memory firing whose own effect is due. -/
theorem memFiring_own (i : Instr) (r : Route) (own : State → Firing → Nat → State) (s : State) (f : Firing)
    (h : s.Fires f r.ta) : memFiring i r own s = .next (own (s.numbered f r i) f (s.accessNo f r)) := by
  obtain ⟨hf, hd, hp⟩ := h
  rw [memFiring, withFiring_some _ _ _ hf]
  simp [hd, hp, State.numbered, State.accessNo]

/-- An instruction of R136 whose own effect is due begins its access. -/
theorem exec_access (i : Instr) (r : Route) (s : State) (f : Firing) (hi : isAccess i = true) (hr : i.route? = some r)
    (h : s.Fires f r.ta) : exec i s = .next ((s.numbered f r i).startAccess i f r (s.accessNo f r)) := by
  have key : ∀ (i : Instr) (r : Route), s.Fires f r.ta → memFiring i r (fun s f id => s.startAccess i f r id) s =
      .next ((s.numbered f r i).startAccess i f r (s.accessNo f r)) := fun i r h => memFiring_own _ _ _ _ _ h
  cases i <;> first
    | (exfalso; revert hi; simp [isAccess, isLoad, isAtomic, isBufferedStore]; done)
    | (obtain rfl := Option.some.inj hr; exact key _ _ h)

/-- What the checks on an address read of the state. -/
theorem checkAll_congr (s t : State) (c k : Nat) (l : List Range) (h1 : t.mmu = s.mmu) (h2 : t.regs = s.regs)
    (h3 : t.sec = s.sec) (h4 : t.stage = s.stage) (h5 : t.failed = s.failed) (h6 : t.aspaceOf c k = s.aspaceOf c k) :
    t.checkAll c k l = s.checkAll c k l := by
  have e : ∀ va n w, t.checkPiece c k va n w = s.checkPiece c k va n w := by
    intro va n w
    have a : t.tlbLook = s.tlbLook := by cases s; cases t; cases h1; rfl
    have b : t.leafFault = s.leafFault := by cases s; cases t; cases h2; cases h3; cases h4; cases h5; rfl
    have d : t.canonAddr = s.canonAddr := by cases s; cases t; cases h2; cases h3; rfl
    simp only [State.checkPiece, a, b, d, h6]
  simp only [State.checkAll, State.checkRange, e]

@[simp] theorem numbered_time (s : State) (f : Firing) (r : Route) (i : Instr) : (s.numbered f r i).time = s.time := by
  simp only [State.numbered, State.report, State.accessId]
  repeat' split
  all_goals rfl

@[simp] theorem numbered_regs (s : State) (f : Firing) (r : Route) (i : Instr) : (s.numbered f r i).regs = s.regs := by
  simp only [State.numbered, State.report, State.accessId]
  repeat' split
  all_goals rfl

@[simp] theorem numbered_mem (s : State) (f : Firing) (r : Route) (i : Instr) : (s.numbered f r i).mem = s.mem := by
  simp only [State.numbered, State.report, State.accessId]
  repeat' split
  all_goals rfl

@[simp] theorem numbered_full (s : State) (f : Firing) (r : Route) (i : Instr) : (s.numbered f r i).full = s.full := by
  simp only [State.numbered, State.report, State.accessId]
  repeat' split
  all_goals rfl

@[simp] theorem numbered_poison (s : State) (f : Firing) (r : Route) (i : Instr) : (s.numbered f r i).poison = s.poison := by
  simp only [State.numbered, State.report, State.accessId]
  repeat' split
  all_goals rfl

@[simp] theorem numbered_failed (s : State) (f : Firing) (r : Route) (i : Instr) : (s.numbered f r i).failed = s.failed := by
  simp only [State.numbered, State.report, State.accessId]
  repeat' split
  all_goals rfl

@[simp] theorem numbered_stage (s : State) (f : Firing) (r : Route) (i : Instr) : (s.numbered f r i).stage = s.stage := by
  simp only [State.numbered, State.report, State.accessId]
  repeat' split
  all_goals rfl

@[simp] theorem numbered_hbm (s : State) (f : Firing) (r : Route) (i : Instr) : (s.numbered f r i).hbm = s.hbm := by
  simp only [State.numbered, State.report, State.accessId]
  repeat' split
  all_goals rfl

@[simp] theorem numbered_coh (s : State) (f : Firing) (r : Route) (i : Instr) : (s.numbered f r i).coh = s.coh := by
  simp only [State.numbered, State.report, State.accessId]
  repeat' split
  all_goals rfl

@[simp] theorem numbered_mmu (s : State) (f : Firing) (r : Route) (i : Instr) : (s.numbered f r i).mmu = s.mmu := by
  simp only [State.numbered, State.report, State.accessId]
  repeat' split
  all_goals rfl

@[simp] theorem numbered_images (s : State) (f : Firing) (r : Route) (i : Instr) : (s.numbered f r i).images = s.images := by
  simp only [State.numbered, State.report, State.accessId]
  repeat' split
  all_goals rfl

@[simp] theorem numbered_queues (s : State) (f : Firing) (r : Route) (i : Instr) : (s.numbered f r i).queues = s.queues := by
  simp only [State.numbered, State.report, State.accessId]
  repeat' split
  all_goals rfl

@[simp] theorem numbered_grids (s : State) (f : Firing) (r : Route) (i : Instr) : (s.numbered f r i).grids = s.grids := by
  simp only [State.numbered, State.report, State.accessId]
  repeat' split
  all_goals rfl

@[simp] theorem numbered_dist (s : State) (f : Firing) (r : Route) (i : Instr) : (s.numbered f r i).dist = s.dist := by
  simp only [State.numbered, State.report, State.accessId]
  repeat' split
  all_goals rfl

@[simp] theorem numbered_teams (s : State) (f : Firing) (r : Route) (i : Instr) : (s.numbered f r i).teams = s.teams := by
  simp only [State.numbered, State.report, State.accessId]
  repeat' split
  all_goals rfl

@[simp] theorem numbered_engines (s : State) (f : Firing) (r : Route) (i : Instr) : (s.numbered f r i).engines = s.engines := by
  simp only [State.numbered, State.report, State.accessId]
  repeat' split
  all_goals rfl

@[simp] theorem numbered_chr (s : State) (f : Firing) (r : Route) (i : Instr) : (s.numbered f r i).chr = s.chr := by
  simp only [State.numbered, State.report, State.accessId]
  repeat' split
  all_goals rfl

@[simp] theorem numbered_station (s : State) (f : Firing) (r : Route) (i : Instr) : (s.numbered f r i).station = s.station := by
  simp only [State.numbered, State.report, State.accessId]
  repeat' split
  all_goals rfl

@[simp] theorem numbered_sec (s : State) (f : Firing) (r : Route) (i : Instr) : (s.numbered f r i).sec = s.sec := by
  simp only [State.numbered, State.report, State.accessId]
  repeat' split
  all_goals rfl

@[simp] theorem numbered_dbg (s : State) (f : Firing) (r : Route) (i : Instr) : (s.numbered f r i).dbg = s.dbg := by
  simp only [State.numbered, State.report, State.accessId]
  repeat' split
  all_goals rfl

@[simp] theorem numbered_timing (s : State) (f : Firing) (r : Route) (i : Instr) : (s.numbered f r i).timing = s.timing := by
  simp only [State.numbered, State.report, State.accessId]
  repeat' split
  all_goals rfl

@[simp] theorem numbered_hostOut (s : State) (f : Firing) (r : Route) (i : Instr) : (s.numbered f r i).hostOut = s.hostOut := by
  simp only [State.numbered, State.report, State.accessId]
  repeat' split
  all_goals rfl

@[simp] theorem numbered_nextId (s : State) (f : Firing) (r : Route) (i : Instr) : (s.numbered f r i).nextId = s.nextId := by
  simp only [State.numbered, State.report, State.accessId]
  repeat' split
  all_goals rfl

@[simp] theorem numbered_free (s : State) (f : Firing) (r : Route) (i : Instr) : (s.numbered f r i).free = s.free := by
  simp only [State.numbered, State.report, State.accessId]
  repeat' split
  all_goals rfl

@[simp] theorem numbered_agenda (s : State) (f : Firing) (r : Route) (i : Instr) : (s.numbered f r i).agenda = s.agenda := by
  simp only [State.numbered, State.report, State.accessId]
  repeat' split
  all_goals rfl

@[simp] theorem numbered_tile (s : State) (f : Firing) (r : Route) (i : Instr) (c t : Nat) :
    (s.numbered f r i).tile c t = s.tile c t := by
  simp only [State.numbered, State.report, State.accessId]
  repeat' split
  all_goals simp [State.updExec]

/-- A number taken and reported changes a thread's execution alone. -/
theorem numbered_thread (s : State) (f : Firing) (r : Route) (i : Instr) (c k : Nat) :
    ∃ x, (s.numbered f r i).thread c k = { s.thread c k with exec := x } := by
  simp only [State.numbered, State.report, State.accessId]
  repeat' split
  all_goals (try simp only [State.thread_updExec, State.thread_taken])
  all_goals exact ⟨_, rfl⟩

/-- A number taken and reported leaves what the execution holds for its exit as it is. -/
theorem numbered_exec (s : State) (f : Firing) (r : Route) (i : Instr) (e : Exec)
    (h : s.exec? f.site.core (f.key r.ta) = some e) :
    ∃ e', (s.numbered f r i).exec? f.site.core (f.key r.ta) = some e' ∧ e'.buffered = e.buffered ∧ e'.exits = e.exits ∧
      e'.faults = e.faults ∧ e'.acts = e.acts ∧ e'.fences = e.fences ∧ e'.bad = e.bad := by
  have h' : s.taken.exec? f.site.core (f.key r.ta) = some e := h
  simp only [State.numbered, State.report, State.accessId, h']
  repeat' split
  all_goals (simp only [State.exec?_updExec, and_self, if_true, h', Option.map_some]; exact ⟨_, rfl, rfl, rfl, rfl, rfl, rfl, rfl⟩)

/-! ## What a request leaves as it is -/

/-- Only the coherence state, memory, its poison and what is sent outside differ. -/
def CohOnly (s t : State) : Prop := t = { s with coh := t.coh, mem := t.mem, poison := t.poison, hostOut := t.hostOut }

theorem CohOnly.rfl' (s : State) : CohOnly s s := rfl
theorem CohOnly.trans {s t u : State} (h : CohOnly s t) (g : CohOnly t u) : CohOnly s u := by
  unfold CohOnly at h g
  rw [h] at g
  exact g
theorem CohOnly.of_eq {s t u : State} (h : t = u) (g : CohOnly s u) : CohOnly s t := h ▸ g
theorem CohOnly.foldl {α : Type} (f : State → α → State) (h : ∀ s x, CohOnly s (f s x)) (l : List α) (s : State) :
    CohOnly s (l.foldl f s) := by
  induction l generalizing s with
  | nil => exact CohOnly.rfl' s
  | cons a r ih => exact (h s a).trans (ih _)

theorem cohOnly_putByte (s : State) (a : Nat) (v : Byte) : CohOnly s (s.putByte a v) := rfl
theorem cohOnly_putBytes (s : State) (a : Nat) (l : List Byte) : CohOnly s (s.putBytes a l) := by
  induction l generalizing s a with
  | nil => exact CohOnly.rfl' s
  | cons b r ih => exact (cohOnly_putByte s a b).trans (ih _ _)
theorem cohOnly_setBase (s : State) (l : Nat) (d : BitVec 512) : CohOnly s (s.setBase l d) := cohOnly_putBytes _ _ _
theorem cohOnly_setDir (s : State) (l : Nat) (e : DirEntry) : CohOnly s (s.setDir l e) := rfl
theorem cohOnly_setCopy (s : State) (n l : Nat) (d : BitVec 512) : CohOnly s (s.setCopy n l d) := by
  unfold State.setCopy
  split
  · exact cohOnly_setBase _ _ _
  · split <;> rfl
theorem cohOnly_collect (s : State) (n l : Nat) : CohOnly s (s.collect n l) := by
  unfold State.collect
  split
  · rfl
  · exact cohOnly_setCopy _ _ _ _
theorem cohOnly_setBaseBit (s : State) (l : Nat) (d : BitVec 512) (b : Bool) : CohOnly s (s.setBaseBit l d b) := by
  have h1 := cohOnly_setBase s l d
  unfold State.setBaseBit
  simp only
  generalize s.setBase l d = u at h1 ⊢
  split
  · refine h1.trans ?_
    unfold State.setPoison
    split <;> rfl
  · exact h1.trans rfl
theorem cohOnly_recallLine (s : State) (l : Nat) : CohOnly s (s.recallLine l) := by
  unfold State.recallLine
  split
  · rfl
  · rename_i m _
    simp only
    split
    · rfl
    · have h1 : CohOnly s (if s.pendingAt m l = true then s else (s.collect m l).unregister m l) := by
        split
        · rfl
        · exact (cohOnly_collect s m l).trans rfl
      generalize (if s.pendingAt m l = true then s else (s.collect m l).unregister m l) = u at h1 ⊢
      have h2 : CohOnly s (u.dropL2 m l) := h1.trans rfl
      generalize u.dropL2 m l = v at h2 ⊢
      split
      · exact (h2.trans (cohOnly_setBaseBit _ _ _ _)).trans (cohOnly_setDir _ _ _)
      · exact h2.trans (cohOnly_setDir _ _ _)
theorem cohOnly_writeSent (s : State) (b : Bool) (l : Nat) : CohOnly s (s.writeSent b l) := by
  unfold State.writeSent
  split <;> rfl
theorem cohOnly_giveUpOuter (s : State) (l : Nat) : CohOnly s (s.giveUpOuter l) := by
  unfold State.giveUpOuter
  have h1 := cohOnly_recallLine s l
  simp only
  generalize s.recallLine l = u at h1 ⊢
  have h2 : CohOnly s (if u.pendingAt (s.homeNode l) l = true then u else (u.collect (s.homeNode l) l).unregister (s.homeNode l) l) := by
    split
    · exact h1
    · exact (h1.trans (cohOnly_collect _ _ _)).trans rfl
  generalize (if u.pendingAt (s.homeNode l) l = true then u else (u.collect (s.homeNode l) l).unregister (s.homeNode l) l) = v at h2 ⊢
  refine CohOnly.trans ?_ (cohOnly_writeSent _ _ _)
  exact h2.trans rfl
theorem cohOnly_presenceAdd (s t : State) (p : Nat) (h : s.presenceAdd p = some t) : CohOnly s t := by
  unfold State.presenceAdd at h
  split at h
  · exact Option.some.inj h ▸ rfl
  · simp only at h
    split at h
    · exact Option.some.inj h ▸ rfl
    · obtain ⟨q, _, rfl⟩ := Option.map_eq_some_iff.mp h
      exact (CohOnly.foldl (fun s l => s.giveUpOuter l) cohOnly_giveUpOuter _ s).trans rfl
theorem cohOnly_request (s : State) (l n : Nat) (k : ReqKind) (b : Bool := false) : CohOnly s (s.request l n k b) := by
  unfold State.request
  simp only
  split <;> rfl
theorem cohOnly_requestOuter (s : State) (l : Nat) (own : Bool) : CohOnly s (s.requestOuter l own) := by
  unfold State.requestOuter
  split
  · rfl
  · simp only
    split
    · rfl
    · rename_i x h
      split at h
      · exact (cohOnly_presenceAdd _ _ _ h).trans rfl
      · exact Option.some.inj h ▸ rfl
theorem cohOnly_requestRead (s : State) (n l m : Nat) : CohOnly s (s.requestRead n l m) := by
  unfold State.requestRead
  split
  · rfl
  · simp only
    have h1 : CohOnly s (if s.isOuter l = true then s.requestOuter l false else s) := by
      split
      · exact cohOnly_requestOuter _ _ _
      · rfl
    generalize (if s.isOuter l = true then s.requestOuter l false else s) = u at h1 ⊢
    repeat' split
    all_goals first | exact h1 | exact h1.trans (cohOnly_request _ _ _ _ _)
theorem cohOnly_requestOwn (s : State) (n l : Nat) : CohOnly s (s.requestOwn n l) := by
  unfold State.requestOwn
  simp only
  have h1 : CohOnly s (if s.isOuter l = true then s.requestOuter l true else s) := by
    split
    · exact cohOnly_requestOuter _ _ _
    · rfl
  generalize (if s.isOuter l = true then s.requestOuter l true else s) = u at h1 ⊢
  split
  · exact h1
  · exact h1.trans (cohOnly_request _ _ _ _ _)
theorem cohOnly_requestBytes (s : State) (c : Nat) (i : Instr) (b : List (Nat × Nat)) : CohOnly s (s.requestBytes c i b) := by
  unfold State.requestBytes
  refine CohOnly.foldl _ (fun s l => ?_) _ s
  repeat' split
  · exact CohOnly.rfl' _
  · exact cohOnly_requestOwn _ _ _
  · exact cohOnly_requestRead _ _ _ _

/-- A request for lines that no outside home holds leaves memory as it is. -/
theorem mem_requestRead (s : State) (n l m : Nat) (h : s.isOuter l = false) : (s.requestRead n l m).mem = s.mem := by
  unfold State.requestRead State.request
  simp only [h, Bool.false_eq_true, if_false]
  repeat' split
  all_goals rfl
theorem mem_requestOwn (s : State) (n l : Nat) (h : s.isOuter l = false) : (s.requestOwn n l).mem = s.mem := by
  unfold State.requestOwn State.request
  simp only [h, Bool.false_eq_true, if_false]
  repeat' split
  all_goals rfl
theorem isOuter_cohOnly (s t : State) (l : Nat) (h : CohOnly s t) : t.isOuter l = s.isOuter l := by
  rw [h]; rfl
theorem mem_requestBytes (s : State) (c : Nat) (i : Instr) (b : List (Nat × Nat))
    (h : ∀ x ∈ b, s.isOuter (lineOf x.1) = false) : (s.requestBytes c i b).mem = s.mem := by
  unfold State.requestBytes
  have hl : ∀ x ∈ dedupNat (b.map (fun y => lineOf y.1)), s.isOuter x = false := by
    intro x hx
    have : ∀ (l acc : List Nat) (x : Nat), x ∈ l.foldl (fun acc y => if acc.contains y then acc else acc ++ [y]) acc →
        x ∈ acc ∨ x ∈ l := by
      intro l
      induction l with
      | nil => intro acc x h; exact .inl h
      | cons a r ih =>
        intro acc x h
        rcases ih _ _ h with h | h
        · simp only at h
          split at h
          · exact .inl h
          · rcases List.mem_append.mp h with h | h
            · exact .inl h
            · exact .inr (List.mem_cons.mpr (.inl (List.mem_singleton.mp h)))
        · exact .inr (List.mem_cons_of_mem _ h)
    rcases this _ _ _ hx with h' | h'
    · cases h'
    · obtain ⟨y, hy, rfl⟩ := List.mem_map.mp h'
      exact h y hy
  revert hl
  generalize dedupNat (b.map (fun y => lineOf y.1)) = l
  intro hl
  simp only
  suffices ∀ t, CohOnly s t → t.mem = s.mem → (l.foldl (fun s l =>
      if isAtomic i = true then (if s.isDomain l = true then s else s.requestOwn (s.atomicNode c b) l)
      else s.requestRead (nodeOf c) l (b.headD (0, 0)).2) t).mem = s.mem from this s rfl rfl
  induction l with
  | nil => intro t _ h; exact h
  | cons a r ih =>
    intro t ht hm
    have ha : t.isOuter a = false := (isOuter_cohOnly _ _ _ ht).trans (hl a List.mem_cons_self)
    rw [List.foldl_cons]
    refine ih (fun x hx => hl x (List.mem_cons_of_mem _ hx)) _ ?_ ?_
    · repeat' split
      · exact ht
      · exact ht.trans (cohOnly_requestOwn _ _ _)
      · exact ht.trans (cohOnly_requestRead _ _ _ _)
    · repeat' split
      · exact hm
      · exact (mem_requestOwn _ _ _ ha).trans hm
      · exact (mem_requestRead _ _ _ _ ha).trans hm

end Sys2Proof.Machine
end

