-- ==== Sys2Proof/Laws/Decode.lean ====
section
/-! SUPPORT. The fields of words and literals: what a field read from an encoding gives, for the word of Table 4.1 and each
literal of Tables 4.5, 7.2, 15.8, 16.5 and 17.3. A proof about the decoder cites these and unfolds no bit vector. -/

namespace Sys2Proof

/-! ## Codes of the enumerations -/

@[simp] theorem Src.ofCode_code (s : Src) : Src.ofCode s.code = some s := by cases s <;> rfl
@[simp] theorem Dst.ofCode_code (d : Dst) : Dst.ofCode d.code = some d := by cases d <;> rfl
@[simp] theorem TagAction.ofCode_code (t : TagAction) : TagAction.ofCode t.code = some t := by cases t <;> rfl
@[simp] theorem Fmt.ofCode_code (f : Fmt) : Fmt.ofCode f.code = f := by cases f <;> rfl
@[simp] theorem Lane.ofCode_code (w : Lane) : Lane.ofCode w.code = w := by cases w <;> rfl
@[simp] theorem Size.ofCode_code (n : Size) : Size.ofCode n.code = n := by cases n <;> rfl
@[simp] theorem Scope.ofCode_code (s : Scope) : Scope.ofCode s.code = some s := by cases s <;> rfl
@[simp] theorem Cond.ofCode_code (c : Cond) : Cond.ofCode c.code = c := by cases c <;> rfl
@[simp] theorem FElem.ofCode_code (f : FElem) : FElem.ofCode f.code = some f := by cases f <;> rfl
@[simp] theorem FElem4.ofCode_code (f : FElem4) : FElem4.ofCode f.code = f := by cases f <;> rfl
@[simp] theorem FClassElem.ofCode_code (f : FClassElem) : FClassElem.ofCode f.code = some f := by cases f <;> rfl
@[simp] theorem Rnd.ofCode_code (r : Rnd) : Rnd.ofCode r.code = some r := by cases r <;> rfl
@[simp] theorem Ord3.ofCode_code (o : Ord3) : Ord3.ofCode o.code = some o := by cases o <;> rfl
@[simp] theorem AtomOp.ofCode_code (o : AtomOp) : AtomOp.ofCode o.code = some o := by cases o <;> rfl
@[simp] theorem RedOp.ofCode_code (o : RedOp) : RedOp.ofCode o.code = some o := by cases o <;> rfl
@[simp] theorem LinFmt.ofCode_code (f : LinFmt) : LinFmt.ofCode f.code = some f := by cases f <;> rfl
@[simp] theorem LitKind.ofCode_code (k : LitKind) : LitKind.ofCode k.code = k := by cases k <;> rfl
@[simp] theorem PurgeSide.ofCode_code (s : PurgeSide) : PurgeSide.ofCode s.code = some s := by cases s <;> rfl
@[simp] theorem PrefLevel.ofCode_code (p : PrefLevel) : PrefLevel.ofCode p.code = some p := by cases p <;> rfl
@[simp] theorem FenceKind.ofCode_code (k : FenceKind) : FenceKind.ofCode k.code = some k := by cases k <;> rfl
@[simp] theorem FoldOp.ofCode_code (o : FoldOp) : FoldOp.ofCode o.code = o := by cases o <;> rfl
@[simp] theorem RepairKind.ofCode_code (k : RepairKind) : RepairKind.ofCode k.code = k := by cases k <;> rfl
@[simp] theorem AccOut.ofCode_code (o : AccOut) : AccOut.ofCode o.code = some o := by cases o <;> rfl
@[simp] theorem BktMode.ofCode_code (m : BktMode) : BktMode.ofCode m.code = some m := by cases m <;> rfl
@[simp] theorem InvScope.ofCode_code (s : InvScope) : InvScope.ofCode s.code = some s := by cases s <;> rfl
@[simp] theorem SReg.ofCode_code (s : SReg) : SReg.ofCode s.code = some s := by cases s <;> rfl

/-! ## The word -/

/-- The seven fields are where Table 4.1 puts them. -/
@[simp] theorem RawWord.ofWord_word (x : RawWord) : RawWord.ofWord x.word = x := by
  obtain ⟨op, sa, sb, d0, d1, ta, md⟩ := x
  simp only [RawWord.ofWord, RawWord.word, RawWord.mk.injEq]
  refine ⟨?_, ?_, ?_, ?_, ?_, ?_, ?_⟩ <;>
  · ext i hi
    simp only [BitVec.getElem_extractLsb', BitVec.getLsbD_append]
    interval_cases i <;> simp [BitVec.getLsbD_eq_getElem]

/-- The selects of an encoded word read back. -/
theorem head_encWord (op : BitVec 8) (h : Route) (md : BitVec 2) : (RawWord.ofWord (encWord op h md)).head = .ok h := by
  simp [encWord, RawWord.head, orErr, bind, Except.bind, pure, Except.pure]

/-- What the decoder makes of an encoded word that is not zero. -/
theorem decode_encWord (op : BitVec 8) (h : Route) (md : BitVec 2) (l : BitVec 32) (hz : encWord op h md ≠ 0) :
    decode (encWord op h md) l = decodeOp op h md l := by
  have hh := head_encWord op h md
  simp only [decode, if_neg hz, hh, bind, Except.bind]
  simp [encWord]

/-- An encoded word with an opcode other than 0 is not zero. -/
theorem encWord_ne_zero (op : BitVec 8) (h : Route) (md : BitVec 2) (ho : op ≠ 0) : encWord op h md ≠ 0 := by
  intro hz
  apply ho
  have h1 : (RawWord.ofWord (encWord op h md)).op = op := by simp [encWord]
  rw [hz] at h1
  rw [← h1]; decide

/-! ## Fields of literals -/

@[simp] theorem bit1_eq_one (b : Bool) : (bit1 b = 1#1) = (b = true) := by cases b <;> decide
@[simp] theorem bit1_eq_zero (b : Bool) : (bit1 b = 0#1) = (b = false) := by cases b <;> decide

/-- A flag field read back. -/
theorem litFlag_of_bits (l : BitVec 32) (i : Nat) (b : Bool) (h : litBits l i 1 = bit1 b) : litFlag l i = b := by
  simp [litFlag, h]

/-- A zero field passes. -/
theorem zeroBits_of_bits (l : BitVec 32) (lo n : Nat) (h : litBits l lo n = 0) : zeroBits l lo n = .ok () := by
  simp [zeroBits, need, h]

/-! ### The memory role (Tables 4.5 and 16.5) -/

@[simp] theorem memLit_scope (t : BitVec 8) (o : BitVec 2) (m : MemCtl) :
    litBits (memLit t o m) 18 3 = m.scope.code := by
  ext i hi
  simp only [litBits, memLit, MemCtl.bits, BitVec.getElem_extractLsb', BitVec.getLsbD_append]
  interval_cases i <;> simp [BitVec.getLsbD_eq_getElem]

@[simp] theorem memLit_succ (t : BitVec 8) (o : BitVec 2) (m : MemCtl) :
    litBits (memLit t o m) 12 6 = m.wave.succ := by
  ext i hi
  simp only [litBits, memLit, MemCtl.bits, BitVec.getElem_extractLsb', BitVec.getLsbD_append]
  interval_cases i <;> simp [BitVec.getLsbD_eq_getElem]

@[simp] theorem memLit_pred (t : BitVec 8) (o : BitVec 2) (m : MemCtl) :
    litBits (memLit t o m) 6 6 = m.wave.pred := by
  ext i hi
  simp only [litBits, memLit, MemCtl.bits, BitVec.getElem_extractLsb', BitVec.getLsbD_append]
  interval_cases i <;> simp [BitVec.getLsbD_eq_getElem]

@[simp] theorem memLit_own (t : BitVec 8) (o : BitVec 2) (m : MemCtl) :
    litBits (memLit t o m) 0 6 = m.wave.own := by
  ext i hi
  simp only [litBits, memLit, MemCtl.bits, BitVec.getElem_extractLsb', BitVec.getLsbD_append]
  interval_cases i <;> simp [BitVec.getLsbD_eq_getElem]

@[simp] theorem memLit_waved (t : BitVec 8) (o : BitVec 2) (m : MemCtl) :
    litBits (memLit t o m) 21 1 = bit1 m.wave.waved := by
  ext i hi
  simp only [litBits, memLit, MemCtl.bits, BitVec.getElem_extractLsb', BitVec.getLsbD_append]
  interval_cases i; simp [BitVec.getLsbD_eq_getElem]

@[simp] theorem memLit_ord (t : BitVec 8) (o : BitVec 2) (m : MemCtl) :
    litBits (memLit t o m) 22 2 = o := by
  ext i hi
  simp only [litBits, memLit, MemCtl.bits, BitVec.getElem_extractLsb', BitVec.getLsbD_append]
  interval_cases i <;> simp [BitVec.getLsbD_eq_getElem]

@[simp] theorem memLit_top (t : BitVec 8) (o : BitVec 2) (m : MemCtl) :
    litBits (memLit t o m) 24 8 = t := by
  ext i hi
  simp only [litBits, memLit, MemCtl.bits, BitVec.getElem_extractLsb', BitVec.getLsbD_append]
  interval_cases i <;> simp [BitVec.getLsbD_eq_getElem]

/-- The low 22 bits of the memory role read back. -/
@[simp] theorem memCtl_memLit (t : BitVec 8) (o : BitVec 2) (m : MemCtl) : memCtl (memLit t o m) = .ok m := by
  simp [memCtl, orErr, bind, Except.bind, pure, Except.pure, Wave.ofBits, litFlag]

@[simp] theorem memLit_ordLow (t : BitVec 8) (o : BitVec 2) (m : MemCtl) :
    litBits (memLit t o m) 22 1 = o.extractLsb' 0 1 := by
  ext i hi
  simp only [litBits, memLit, MemCtl.bits, BitVec.getElem_extractLsb', BitVec.getLsbD_append]
  interval_cases i; simp [BitVec.getLsbD_eq_getElem]

@[simp] theorem memLit_ordHigh (t : BitVec 8) (o : BitVec 2) (m : MemCtl) :
    litBits (memLit t o m) 23 1 = o.extractLsb' 1 1 := by
  ext i hi
  simp only [litBits, memLit, MemCtl.bits, BitVec.getElem_extractLsb', BitVec.getLsbD_append]
  interval_cases i; simp [BitVec.getLsbD_eq_getElem]

/-- ORD of a load read back. -/
@[simp] theorem loadOrd_memLit (t : BitVec 8) (a : Bool) (m : MemCtl) :
    loadOrd (memLit t (loadOrdBits a) m) = .ok a := by
  cases a <;> simp [loadOrd, need, litFlag, loadOrdBits, bit1, bind, Except.bind, pure, Except.pure]

/-- ORD of a store read back. -/
@[simp] theorem storeOrd_memLit (t : BitVec 8) (a : Bool) (m : MemCtl) :
    storeOrd (memLit t (storeOrdBits a) m) = .ok a := by
  cases a <;> simp [storeOrd, need, litFlag, storeOrdBits, bit1, bind, Except.bind, pure, Except.pure]

@[simp] theorem memLit_28_4 (t : BitVec 8) (o : BitVec 2) (m : MemCtl) :
    litBits (memLit t o m) 28 4 = t.extractLsb' 4 4 := by
  ext i hi
  simp only [litBits, memLit, MemCtl.bits, BitVec.getElem_extractLsb', BitVec.getLsbD_append]
  interval_cases i <;> simp [BitVec.getLsbD_eq_getElem]

@[simp] theorem memLit_25_3 (t : BitVec 8) (o : BitVec 2) (m : MemCtl) :
    litBits (memLit t o m) 25 3 = t.extractLsb' 1 3 := by
  ext i hi
  simp only [litBits, memLit, MemCtl.bits, BitVec.getElem_extractLsb', BitVec.getLsbD_append]
  interval_cases i <;> simp [BitVec.getLsbD_eq_getElem]

@[simp] theorem memLit_24_1 (t : BitVec 8) (o : BitVec 2) (m : MemCtl) :
    litBits (memLit t o m) 24 1 = t.extractLsb' 0 1 := by
  ext i hi
  simp only [litBits, memLit, MemCtl.bits, BitVec.getElem_extractLsb', BitVec.getLsbD_append]
  interval_cases i; simp [BitVec.getLsbD_eq_getElem]

@[simp] theorem memLit_26_2 (t : BitVec 8) (o : BitVec 2) (m : MemCtl) :
    litBits (memLit t o m) 26 2 = t.extractLsb' 2 2 := by
  ext i hi
  simp only [litBits, memLit, MemCtl.bits, BitVec.getElem_extractLsb', BitVec.getLsbD_append]
  interval_cases i <;> simp [BitVec.getLsbD_eq_getElem]

@[simp] theorem memLit_26_4 (t : BitVec 8) (o : BitVec 2) (m : MemCtl) :
    litBits (memLit t o m) 26 4 = t.extractLsb' 2 4 := by
  ext i hi
  simp only [litBits, memLit, MemCtl.bits, BitVec.getElem_extractLsb', BitVec.getLsbD_append]
  interval_cases i <;> simp [BitVec.getLsbD_eq_getElem]

@[simp] theorem memLit_24_2 (t : BitVec 8) (o : BitVec 2) (m : MemCtl) :
    litBits (memLit t o m) 24 2 = t.extractLsb' 0 2 := by
  ext i hi
  simp only [litBits, memLit, MemCtl.bits, BitVec.getElem_extractLsb', BitVec.getLsbD_append]
  interval_cases i <;> simp [BitVec.getLsbD_eq_getElem]

@[simp] theorem memLit_30_2 (t : BitVec 8) (o : BitVec 2) (m : MemCtl) :
    litBits (memLit t o m) 30 2 = t.extractLsb' 6 2 := by
  ext i hi
  simp only [litBits, memLit, MemCtl.bits, BitVec.getElem_extractLsb', BitVec.getLsbD_append]
  interval_cases i <;> simp [BitVec.getLsbD_eq_getElem]

@[simp] theorem memLit_26_6 (t : BitVec 8) (o : BitVec 2) (m : MemCtl) :
    litBits (memLit t o m) 26 6 = t.extractLsb' 2 6 := by
  ext i hi
  simp only [litBits, memLit, MemCtl.bits, BitVec.getElem_extractLsb', BitVec.getLsbD_append]
  interval_cases i <;> simp [BitVec.getLsbD_eq_getElem]

@[simp] theorem memLit_25_7 (t : BitVec 8) (o : BitVec 2) (m : MemCtl) :
    litBits (memLit t o m) 25 7 = t.extractLsb' 1 7 := by
  ext i hi
  simp only [litBits, memLit, MemCtl.bits, BitVec.getElem_extractLsb', BitVec.getLsbD_append]
  interval_cases i <;> simp [BitVec.getLsbD_eq_getElem]

@[simp] theorem memLit_22_4 (t : BitVec 8) (o : BitVec 2) (m : MemCtl) :
    litBits (memLit t o m) 22 4 = t.extractLsb' 0 2 ++ o := by
  apply BitVec.eq_of_getLsbD_eq
  intro i hi
  rw [show (t.extractLsb' 0 2 ++ o).getLsbD i = (if i < 2 then o.getLsbD i else (t.extractLsb' 0 2).getLsbD (i - 2))
    from BitVec.getLsbD_append]
  simp only [litBits, memLit, MemCtl.bits, BitVec.getLsbD_extractLsb', BitVec.getLsbD_append]
  interval_cases i <;> simp

@[simp] theorem memLit_22_10 (t : BitVec 8) (o : BitVec 2) (m : MemCtl) :
    litBits (memLit t o m) 22 10 = t ++ o := by
  apply BitVec.eq_of_getLsbD_eq
  intro i hi
  rw [show (t ++ o).getLsbD i = (if i < 2 then o.getLsbD i else t.getLsbD (i - 2))
    from BitVec.getLsbD_append]
  simp only [litBits, memLit, MemCtl.bits, BitVec.getLsbD_extractLsb', BitVec.getLsbD_append]
  interval_cases i <;> simp

/-! ### The top byte of a load's and a store's literal -/

@[simp] theorem loadTop_x (x : BitVec 4) (f : Fmt) (b : Bool) :
    (loadTop x f b).extractLsb' 4 4 = x := by
  ext i hi
  simp only [loadTop, BitVec.getElem_extractLsb', BitVec.getLsbD_append]
  interval_cases i <;> simp [BitVec.getLsbD_eq_getElem]

@[simp] theorem loadTop_fmt (x : BitVec 4) (f : Fmt) (b : Bool) :
    (loadTop x f b).extractLsb' 1 3 = f.code := by
  ext i hi
  simp only [loadTop, BitVec.getElem_extractLsb', BitVec.getLsbD_append]
  interval_cases i <;> simp [BitVec.getLsbD_eq_getElem]

@[simp] theorem loadTop_sext (x : BitVec 4) (f : Fmt) (b : Bool) :
    (loadTop x f b).extractLsb' 0 1 = bit1 b := by
  ext i hi
  simp only [loadTop, BitVec.getElem_extractLsb', BitVec.getLsbD_append]
  interval_cases i; simp [BitVec.getLsbD_eq_getElem]

/-! ### The other roles (Tables 4.5, 7.2, 15.8, 17.3) -/

@[simp] theorem intBits_signed (x : IntLit) (mid : BitVec 2) :
    litBits (x.bits mid) 31 1 = bit1 x.signed := by
  ext i hi
  simp only [litBits, IntLit.bits, BitVec.getElem_extractLsb', BitVec.getLsbD_append]
  interval_cases i; simp [BitVec.getLsbD_eq_getElem]

@[simp] theorem intBits_mid (x : IntLit) (mid : BitVec 2) :
    litBits (x.bits mid) 29 2 = mid := by
  ext i hi
  simp only [litBits, IntLit.bits, BitVec.getElem_extractLsb', BitVec.getLsbD_append]
  interval_cases i <;> simp [BitVec.getLsbD_eq_getElem]

@[simp] theorem intBits_val (x : IntLit) (mid : BitVec 2) :
    litBits (x.bits mid) 0 29 = x.val := by
  ext i hi
  simp only [litBits, IntLit.bits, BitVec.getElem_extractLsb', BitVec.getLsbD_append]
  interval_cases i <;> simp [BitVec.getLsbD_eq_getElem]

/-- An integer literal read back whatever its two middle bits. -/
@[simp] theorem IntLit.mk'_bits (x : IntLit) (mid : BitVec 2) : IntLit.mk' (x.bits mid) = x := by
  simp [IntLit.mk', litFlag]

/-- The integer role read back. -/
@[simp] theorem intLit_bits (x : IntLit) : intLit (x.bits 0) = .ok x := by
  have h : litBits (x.bits 0) 29 2 = 0 := intBits_mid x 0
  have z := zeroBits_of_bits _ _ _ h
  simp only [BitVec.ofNat_eq_ofNat] at z ⊢
  simp [intLit, z, bind, Except.bind, pure, Except.pure]

@[simp] theorem signBits_signed (b : Bool) :
    litBits (bit1 b ++ 0#31) 31 1 = bit1 b := by
  ext i hi
  simp only [litBits, BitVec.getElem_extractLsb', BitVec.getLsbD_append]
  interval_cases i; simp [BitVec.getLsbD_eq_getElem]

@[simp] theorem signBits_zero (b : Bool) :
    litBits (bit1 b ++ 0#31) 0 31 = 0 := by
  ext i hi
  simp only [litBits, BitVec.getElem_extractLsb', BitVec.getLsbD_append]
  interval_cases i <;> simp [BitVec.getLsbD_eq_getElem]

/-- The literal of a one-operand integer slot read back. -/
@[simp] theorem signLit_bits (b : Bool) : signLit (bit1 b ++ 0#31) = .ok b := by
  simp [signLit, zeroBits_of_bits, litFlag, bind, Except.bind, pure, Except.pure]

@[simp] theorem queueBits_q (q : BitVec 2) :
    litBits (0#30 ++ q) 0 2 = q := by
  ext i hi
  simp only [litBits, BitVec.getElem_extractLsb', BitVec.getLsbD_append]
  interval_cases i <;> simp [BitVec.getLsbD_eq_getElem]

@[simp] theorem queueBits_zero (q : BitVec 2) :
    litBits (0#30 ++ q) 2 30 = 0 := by
  ext i hi
  simp only [litBits, BitVec.getElem_extractLsb', BitVec.getLsbD_append]
  interval_cases i <;> simp [BitVec.getLsbD_eq_getElem]

/-- The queue role read back. -/
@[simp] theorem queueLit_bits (q : BitVec 2) : queueLit (0#30 ++ q) = .ok q := by
  simp [queueLit, zeroBits_of_bits, bind, Except.bind, pure, Except.pure]

@[simp] theorem floatBits_rnd (c : FloatCtl) :
    litBits (0#28 ++ c.bits) 0 3 = c.rnd.code := by
  ext i hi
  simp only [litBits, FloatCtl.bits, BitVec.getElem_extractLsb', BitVec.getLsbD_append]
  interval_cases i <;> simp [BitVec.getLsbD_eq_getElem]

@[simp] theorem floatBits_sat (c : FloatCtl) :
    litBits (0#28 ++ c.bits) 3 1 = bit1 c.sat := by
  ext i hi
  simp only [litBits, FloatCtl.bits, BitVec.getElem_extractLsb', BitVec.getLsbD_append]
  interval_cases i; simp [BitVec.getLsbD_eq_getElem]

@[simp] theorem floatBits_zero (c : FloatCtl) :
    litBits (0#28 ++ c.bits) 4 28 = 0 := by
  ext i hi
  simp only [litBits, FloatCtl.bits, BitVec.getElem_extractLsb', BitVec.getLsbD_append]
  interval_cases i <;> simp [BitVec.getLsbD_eq_getElem]

/-- The float role read back. -/
@[simp] theorem floatLit_bits (c : FloatCtl) : floatLit (0#28 ++ c.bits) = .ok c := by
  simp [floatLit, floatCtl, zeroBits_of_bits, litFlag, orErr, bind, Except.bind, pure, Except.pure]

@[simp] theorem lvsBits_top (x : LvsLit) :
    litBits (x.bits) 29 3 = 0 := by
  ext i hi
  simp only [litBits, LvsLit.bits, BitVec.getElem_extractLsb', BitVec.getLsbD_append]
  interval_cases i <;> simp [BitVec.getLsbD_eq_getElem]

@[simp] theorem lvsBits_scope (x : LvsLit) :
    litBits (x.bits) 18 3 = 0 := by
  ext i hi
  simp only [litBits, LvsLit.bits, BitVec.getElem_extractLsb', BitVec.getLsbD_append]
  interval_cases i <;> simp [BitVec.getLsbD_eq_getElem]

@[simp] theorem lvsBits_reg (x : LvsLit) :
    litBits (x.bits) 22 7 = x.reg := by
  ext i hi
  simp only [litBits, LvsLit.bits, BitVec.getElem_extractLsb', BitVec.getLsbD_append]
  interval_cases i <;> simp [BitVec.getLsbD_eq_getElem]

@[simp] theorem lvsBits_waved (x : LvsLit) :
    litBits (x.bits) 21 1 = bit1 x.wave.waved := by
  ext i hi
  simp only [litBits, LvsLit.bits, BitVec.getElem_extractLsb', BitVec.getLsbD_append]
  interval_cases i; simp [BitVec.getLsbD_eq_getElem]

@[simp] theorem lvsBits_succ (x : LvsLit) :
    litBits (x.bits) 12 6 = x.wave.succ := by
  ext i hi
  simp only [litBits, LvsLit.bits, BitVec.getElem_extractLsb', BitVec.getLsbD_append]
  interval_cases i <;> simp [BitVec.getLsbD_eq_getElem]

@[simp] theorem lvsBits_pred (x : LvsLit) :
    litBits (x.bits) 6 6 = x.wave.pred := by
  ext i hi
  simp only [litBits, LvsLit.bits, BitVec.getElem_extractLsb', BitVec.getLsbD_append]
  interval_cases i <;> simp [BitVec.getLsbD_eq_getElem]

@[simp] theorem lvsBits_own (x : LvsLit) :
    litBits (x.bits) 0 6 = x.wave.own := by
  ext i hi
  simp only [litBits, LvsLit.bits, BitVec.getElem_extractLsb', BitVec.getLsbD_append]
  interval_cases i <;> simp [BitVec.getLsbD_eq_getElem]

/-- The LVS literal read back. -/
@[simp] theorem lvsLit_bits (x : LvsLit) : lvsLit x.bits = .ok x := by
  simp [lvsLit, zeroBits_of_bits, Wave.ofBits, litFlag, bind, Except.bind, pure, Except.pure]

@[simp] theorem cvtBits_signed (x : CvtLit) :
    litBits (x.bits) 31 1 = bit1 x.signed := by
  ext i hi
  simp only [litBits, CvtLit.bits, FloatCtl.bits, BitVec.getElem_extractLsb', BitVec.getLsbD_append]
  interval_cases i; simp [BitVec.getLsbD_eq_getElem]

@[simp] theorem cvtBits_z1 (x : CvtLit) :
    litBits (x.bits) 16 15 = 0 := by
  ext i hi
  simp only [litBits, CvtLit.bits, FloatCtl.bits, BitVec.getElem_extractLsb', BitVec.getLsbD_append]
  interval_cases i <;> simp [BitVec.getLsbD_eq_getElem]

@[simp] theorem cvtBits_lw (x : CvtLit) :
    litBits (x.bits) 14 2 = x.lw.code := by
  ext i hi
  simp only [litBits, CvtLit.bits, FloatCtl.bits, BitVec.getElem_extractLsb', BitVec.getLsbD_append]
  interval_cases i <;> simp [BitVec.getLsbD_eq_getElem]

@[simp] theorem cvtBits_dst (x : CvtLit) :
    litBits (x.bits) 11 3 = x.dst.code := by
  ext i hi
  simp only [litBits, CvtLit.bits, FloatCtl.bits, BitVec.getElem_extractLsb', BitVec.getLsbD_append]
  interval_cases i <;> simp [BitVec.getLsbD_eq_getElem]

@[simp] theorem cvtBits_src (x : CvtLit) :
    litBits (x.bits) 8 3 = x.src.code := by
  ext i hi
  simp only [litBits, CvtLit.bits, FloatCtl.bits, BitVec.getElem_extractLsb', BitVec.getLsbD_append]
  interval_cases i <;> simp [BitVec.getLsbD_eq_getElem]

@[simp] theorem cvtBits_z2 (x : CvtLit) :
    litBits (x.bits) 7 1 = 0 := by
  ext i hi
  simp only [litBits, CvtLit.bits, FloatCtl.bits, BitVec.getElem_extractLsb', BitVec.getLsbD_append]
  interval_cases i; simp [BitVec.getLsbD_eq_getElem]

@[simp] theorem cvtBits_part (x : CvtLit) :
    litBits (x.bits) 4 3 = x.part := by
  ext i hi
  simp only [litBits, CvtLit.bits, FloatCtl.bits, BitVec.getElem_extractLsb', BitVec.getLsbD_append]
  interval_cases i <;> simp [BitVec.getLsbD_eq_getElem]

@[simp] theorem cvtBits_sat (x : CvtLit) :
    litBits (x.bits) 3 1 = bit1 x.ctl.sat := by
  ext i hi
  simp only [litBits, CvtLit.bits, FloatCtl.bits, BitVec.getElem_extractLsb', BitVec.getLsbD_append]
  interval_cases i; simp [BitVec.getLsbD_eq_getElem]

@[simp] theorem cvtBits_rnd (x : CvtLit) :
    litBits (x.bits) 0 3 = x.ctl.rnd.code := by
  ext i hi
  simp only [litBits, CvtLit.bits, FloatCtl.bits, BitVec.getElem_extractLsb', BitVec.getLsbD_append]
  interval_cases i <;> simp [BitVec.getLsbD_eq_getElem]

/-- The conversion literal read back. -/
@[simp] theorem cvtLit_bits (x : CvtLit) : cvtLit x.bits = .ok x := by
  simp [cvtLit, floatCtl, zeroBits_of_bits, litFlag, orErr, bind, Except.bind, pure, Except.pure]

@[simp] theorem redBits_signed (x : RedLit) :
    litBits (x.bits) 31 1 = bit1 x.signed := by
  ext i hi
  simp only [litBits, RedLit.bits, FloatCtl.bits, BitVec.getElem_extractLsb', BitVec.getLsbD_append]
  interval_cases i; simp [BitVec.getLsbD_eq_getElem]

@[simp] theorem redBits_zero (x : RedLit) :
    litBits (x.bits) 8 23 = 0 := by
  ext i hi
  simp only [litBits, RedLit.bits, FloatCtl.bits, BitVec.getElem_extractLsb', BitVec.getLsbD_append]
  interval_cases i <;> simp [BitVec.getLsbD_eq_getElem]

@[simp] theorem redBits_op (x : RedLit) :
    litBits (x.bits) 4 4 = x.op.code := by
  ext i hi
  simp only [litBits, RedLit.bits, FloatCtl.bits, BitVec.getElem_extractLsb', BitVec.getLsbD_append]
  interval_cases i <;> simp [BitVec.getLsbD_eq_getElem]

@[simp] theorem redBits_sat (x : RedLit) :
    litBits (x.bits) 3 1 = bit1 x.ctl.sat := by
  ext i hi
  simp only [litBits, RedLit.bits, FloatCtl.bits, BitVec.getElem_extractLsb', BitVec.getLsbD_append]
  interval_cases i; simp [BitVec.getLsbD_eq_getElem]

@[simp] theorem redBits_rnd (x : RedLit) :
    litBits (x.bits) 0 3 = x.ctl.rnd.code := by
  ext i hi
  simp only [litBits, RedLit.bits, FloatCtl.bits, BitVec.getElem_extractLsb', BitVec.getLsbD_append]
  interval_cases i <;> simp [BitVec.getLsbD_eq_getElem]

/-- The literal of RED and SCAN read back. -/
@[simp] theorem redLit_bits (x : RedLit) : redLit x.bits = .ok x := by
  simp [redLit, floatCtl, zeroBits_of_bits, litFlag, orErr, bind, Except.bind, pure, Except.pure]

end Sys2Proof
end

