-- ==== Sys2Proof/Laws/Memory.lean ====
section
/-! SUPPORT. The laws of memory: a byte read after it is written, every other byte left alone, and the canonical form kept by
every operation that writes memory. -/

namespace Sys2Proof.Machine

theorem Memory.read_eq_look (m : List Host.Cell) (a : Nat) : Memory.read m a = KMap.lookD (α := BitVec 8) m a 0 := by
  induction m with
  | nil => rfl
  | cons x r ih =>
    obtain ⟨k, v⟩ := x
    by_cases h : a = k
    · simp [Memory.read, KMap.lookD, KMap.look, h]
    · simpa [Memory.read, KMap.lookD, KMap.look, h] using ih

theorem Memory.read_filter_same (m : List Host.Cell) (a : Nat) : Memory.read (m.filter (fun c => c.1 ≠ a)) a = 0 := by
  induction m with
  | nil => rfl
  | cons x r ih =>
    obtain ⟨k, v⟩ := x
    by_cases h : k = a
    · subst h; simpa using ih
    · have : a ≠ k := fun e => h e.symm
      simpa [h, Memory.read, this] using ih

theorem Memory.read_filter_other (m : List Host.Cell) (a b : Nat) (hb : b ≠ a) :
    Memory.read (m.filter (fun c => c.1 ≠ a)) b = Memory.read m b := by
  induction m with
  | nil => rfl
  | cons x r ih =>
    obtain ⟨k, v⟩ := x
    by_cases h : k = a
    · subst h; simpa [Memory.read, hb] using ih
    · simp only [ne_eq, decide_not] at ih ⊢
      simp [h, Memory.read, ih]

/-- The byte written is read. -/
@[simp] theorem Memory.read_write_same (m : List Host.Cell) (a : Nat) (v : Byte) :
    Memory.read (Memory.write m a v) a = v := by
  unfold Memory.write
  split
  · assumption
  · split
    · rename_i h; subst h; exact Memory.read_filter_same m a
    · rw [Memory.read_eq_look]; simp

/-- Every other byte is as before. -/
theorem Memory.read_write_other (m : List Host.Cell) (a b : Nat) (v : Byte) (h : b ≠ a) :
    Memory.read (Memory.write m a v) b = Memory.read m b := by
  unfold Memory.write
  split
  · rfl
  · split
    · exact Memory.read_filter_other m a b h
    · rw [Memory.read_eq_look, Memory.read_eq_look, KMap.lookD_put_other _ _ _ _ _ h]

/-- The byte at an address after a write. -/
theorem Memory.read_write (m : List Host.Cell) (a b : Nat) (v : Byte) :
    Memory.read (Memory.write m a v) b = if b = a then v else Memory.read m b := by
  split
  · rename_i h; subst h; simp
  · rename_i h; exact Memory.read_write_other m a b v h

theorem Memory.mem_put {m : List Host.Cell} {a : Nat} {v : Byte} {c : Host.Cell}
    (h : c ∈ (KMap.put (α := BitVec 8) m a v : List Host.Cell)) : c = (a, v) ∨ c ∈ m := by
  induction m with
  | nil => simp [KMap.put] at h; exact .inl h
  | cons x r ih =>
    obtain ⟨k, w⟩ := x
    simp only [KMap.put] at h
    split at h
    · rcases List.mem_cons.mp h with h | h
      · exact .inl h
      · exact .inr (List.mem_cons_of_mem _ h)
    · split at h
      · rcases List.mem_cons.mp h with h | h
        · exact .inl h
        · exact .inr h
      · rcases List.mem_cons.mp h with h | h
        · exact .inr (h ▸ List.mem_cons_self)
        · rcases ih h with h | h
          · exact .inl h
          · exact .inr (List.mem_cons_of_mem _ h)

theorem Memory.put_pairwise {m : List Host.Cell} {a : Nat} {v : Byte} (h : m.Pairwise (fun x y => x.1 < y.1)) :
    (KMap.put (α := BitVec 8) m a v : List Host.Cell).Pairwise (fun x y => x.1 < y.1) := by
  induction m with
  | nil => simp [KMap.put]
  | cons x r ih =>
    obtain ⟨k, w⟩ := x
    obtain ⟨h1, h2⟩ := List.pairwise_cons.mp h
    simp only [KMap.put]
    split
    · rename_i e; subst e
      exact List.pairwise_cons.mpr ⟨h1, h2⟩
    · split
      · rename_i _ hlt
        refine List.pairwise_cons.mpr ⟨?_, h⟩
        intro y hy
        rcases List.mem_cons.mp hy with e | e
        · subst e; exact hlt
        · exact Nat.lt_trans hlt (h1 y e)
      · rename_i hne hge
        refine List.pairwise_cons.mpr ⟨?_, ih h2⟩
        intro y hy
        rcases Memory.mem_put hy with e | e
        · subst e; show k < a; omega
        · exact h1 y e

/-- A write keeps the canonical form. -/
theorem Memory.wf_write {m : List Host.Cell} (a : Nat) (v : Byte) (h : Memory.wf m) : Memory.wf (Memory.write m a v) := by
  unfold Memory.write
  split
  · exact h
  · split
    · exact ⟨h.1.filter _, fun c hc => h.2 c (List.mem_of_mem_filter hc)⟩
    · rename_i hv
      refine ⟨Memory.put_pairwise h.1, fun c hc => ?_⟩
      rcases Memory.mem_put hc with e | e
      · subst e; exact hv
      · exact h.2 c e

theorem Memory.wf_nil : Memory.wf [] := ⟨List.Pairwise.nil, by simp⟩

/-- Canonical memories that read alike are equal. -/
theorem Memory.ext_of_read {m n : List Host.Cell} (hm : Memory.wf m) (hn : Memory.wf n)
    (h : ∀ a, Memory.read m a = Memory.read n a) : m = n := by
  induction m generalizing n with
  | nil =>
    cases n with
    | nil => rfl
    | cons y s =>
      exfalso
      have := h y.1
      simp [Memory.read] at this
      exact hn.2 y List.mem_cons_self this.symm
  | cons x r ih =>
    obtain ⟨k, v⟩ := x
    cases n with
    | nil =>
      exfalso
      have := h k
      simp [Memory.read] at this
      exact hm.2 (k, v) List.mem_cons_self this
    | cons y s =>
      obtain ⟨j, w⟩ := y
      have above : ∀ (l : List Host.Cell) (a : Nat), (∀ c ∈ l, a < c.1) → Memory.read l a = 0 := by
        intro l a hl
        induction l with
        | nil => rfl
        | cons z t iht =>
          have hz := hl z List.mem_cons_self
          have : a ≠ z.1 := by omega
          simp only [Memory.read, if_neg this]
          exact iht (fun c hc => hl c (List.mem_cons_of_mem _ hc))
      obtain ⟨hm1, hm2⟩ := List.pairwise_cons.mp hm.1
      obtain ⟨hn1, hn2⟩ := List.pairwise_cons.mp hn.1
      have vne : v ≠ 0 := hm.2 (k, v) List.mem_cons_self
      have wne : w ≠ 0 := hn.2 (j, w) List.mem_cons_self
      have kj : k = j := by
        rcases Nat.lt_trichotomy k j with hlt | e | hgt
        · have h0 := h k
          have : k ≠ j := by omega
          simp only [Memory.read, if_true, if_neg this] at h0
          rw [above s k (fun c hc => by have := hn1 c hc; simp at this; omega)] at h0
          exact absurd h0 vne
        · exact e
        · have h0 := h j
          have : j ≠ k := by omega
          simp only [Memory.read, if_true, if_neg this] at h0
          rw [above r j (fun c hc => by have := hm1 c hc; simp at this; omega)] at h0
          exact absurd h0.symm wne
      subst kj
      have vw : v = w := by simpa [Memory.read] using h k
      subst vw
      congr 1
      apply ih ⟨hm2, fun c hc => hm.2 c (List.mem_cons_of_mem _ hc)⟩ ⟨hn2, fun c hc => hn.2 c (List.mem_cons_of_mem _ hc)⟩
      intro a
      by_cases ha : a = k
      · subst ha
        rw [above r a (fun c hc => hm1 c hc), above s a (fun c hc => hn1 c hc)]
      · simpa [Memory.read, ha] using h a

/-! ## The operations of State that write memory -/

@[simp] theorem State.byte_putByte_same (s : State) (a : Nat) (v : Byte) : (s.putByte a v).byte a = v := by
  simp [State.byte, State.putByte]

theorem State.byte_putByte (s : State) (a b : Nat) (v : Byte) :
    (s.putByte a v).byte b = if b = a then v else s.byte b := by
  simp [State.byte, State.putByte, Memory.read_write]

theorem State.wf_putByte (s : State) (a : Nat) (v : Byte) (h : Memory.wf s.mem) : Memory.wf (s.putByte a v).mem :=
  Memory.wf_write a v h

theorem State.wf_putBytes (s : State) (a : Nat) (l : List Byte) (h : Memory.wf s.mem) : Memory.wf (s.putBytes a l).mem := by
  induction l generalizing s a with
  | nil => exact h
  | cons b r ih => exact ih _ _ (s.wf_putByte a b h)

theorem State.wf_putNat (s : State) (a n v : Nat) (h : Memory.wf s.mem) : Memory.wf (s.putNat a n v).mem := by
  unfold State.putNat
  exact s.wf_putBytes a _ h

theorem State.wf_putWords (s : State) (a : Nat) (l : List Nat) (h : Memory.wf s.mem) : Memory.wf (s.putWords a l).mem := by
  unfold State.putWords
  exact s.wf_putBytes a _ h

theorem State.wf_putCells (s : State) (l : List Host.Cell) (h : Memory.wf s.mem) : Memory.wf (s.putCells l).mem := by
  unfold State.putCells
  induction l generalizing s with
  | nil => exact h
  | cons c r ih => exact ih _ (s.wf_putByte c.1 c.2 h)

/-- Bytes outside a run of written bytes are as before. -/
theorem State.byte_putBytes_outside (s : State) (a b : Nat) (l : List Byte) (h : b < a ∨ a + l.length ≤ b) :
    (s.putBytes a l).byte b = s.byte b := by
  induction l generalizing s a with
  | nil => rfl
  | cons x r ih =>
    simp only [State.putBytes]
    rw [ih]
    · rw [State.byte_putByte, if_neg]
      simp only [List.length_cons] at h; omega
    · simp only [List.length_cons] at h; omega

end Sys2Proof.Machine
end

