-- ==== Sys2Proof/Laws/Emit.lean ====
section
/-! SUPPORT. The trace and the tokens that leave a tile: what each leaves as it is. A trace record changes memory, the ring's
position and DBG_TRLOST alone; tokens that leave change tiles alone. -/

namespace Sys2Proof.Machine

/-- Writing bytes changes memory alone. -/
theorem putBytes_eq (s : State) (a : Nat) (l : List Byte) : ∃ m, s.putBytes a l = { s with mem := m } := by
  induction l generalizing s a with
  | nil => exact ⟨s.mem, rfl⟩
  | cons b r ih =>
    obtain ⟨m, h⟩ := ih (s.putByte a b) (a + 1)
    exact ⟨m, h⟩

theorem putWords_eq (s : State) (a : Nat) (l : List Nat) : ∃ m, s.putWords a l = { s with mem := m } := putBytes_eq _ _ _

theorem putWords_dbg (s : State) (a : Nat) (l : List Nat) (d : Dbg) :
    ∃ m r x, ({ s.putWords a l with dbg := d } : State) = { s with mem := m, regs := r, dbg := x } := by
  obtain ⟨m, h⟩ := putWords_eq s a l
  exact ⟨m, s.regs, d, by rw [h]⟩

/-- A record written changes memory, DBG_TRLOST and the debug unit alone. -/
theorem putTrace_eq (s : State) (l : List Nat) : ∃ m r x, s.putTrace l = { s with mem := m, regs := r, dbg := x } := by
  unfold State.putTrace
  simp only
  split
  · exact ⟨_, _, _, rfl⟩
  · exact putWords_dbg _ _ _ _

/-- A trace record changes memory, DBG_TRLOST and the debug unit alone. -/
theorem trace_eq (s : State) (f : Firing) (d : Dst) (t : Token) :
    ∃ m r x, s.trace f d t = { s with mem := m, regs := r, dbg := x } := by
  unfold State.trace
  simp only
  split
  · exact ⟨s.mem, s.regs, _, rfl⟩
  · split
    · split
      · exact ⟨s.mem, s.regs, _, rfl⟩
      · exact putTrace_eq _ _
    · exact ⟨s.mem, s.regs, s.dbg, rfl⟩

@[simp] theorem trace_time (s : State) (f : Firing) (d : Dst) (t : Token) : (s.trace f d t).time = s.time := by
  obtain ⟨m, r, x, h⟩ := trace_eq s f d t
  rw [h]
@[simp] theorem trace_full (s : State) (f : Firing) (d : Dst) (t : Token) : (s.trace f d t).full = s.full := by
  obtain ⟨m, r, x, h⟩ := trace_eq s f d t
  rw [h]
@[simp] theorem trace_poison (s : State) (f : Firing) (d : Dst) (t : Token) : (s.trace f d t).poison = s.poison := by
  obtain ⟨m, r, x, h⟩ := trace_eq s f d t
  rw [h]
@[simp] theorem trace_failed (s : State) (f : Firing) (d : Dst) (t : Token) : (s.trace f d t).failed = s.failed := by
  obtain ⟨m, r, x, h⟩ := trace_eq s f d t
  rw [h]
@[simp] theorem trace_stage (s : State) (f : Firing) (d : Dst) (t : Token) : (s.trace f d t).stage = s.stage := by
  obtain ⟨m, r, x, h⟩ := trace_eq s f d t
  rw [h]
@[simp] theorem trace_hbm (s : State) (f : Firing) (d : Dst) (t : Token) : (s.trace f d t).hbm = s.hbm := by
  obtain ⟨m, r, x, h⟩ := trace_eq s f d t
  rw [h]
@[simp] theorem trace_coh (s : State) (f : Firing) (d : Dst) (t : Token) : (s.trace f d t).coh = s.coh := by
  obtain ⟨m, r, x, h⟩ := trace_eq s f d t
  rw [h]
@[simp] theorem trace_mmu (s : State) (f : Firing) (d : Dst) (t : Token) : (s.trace f d t).mmu = s.mmu := by
  obtain ⟨m, r, x, h⟩ := trace_eq s f d t
  rw [h]
@[simp] theorem trace_images (s : State) (f : Firing) (d : Dst) (t : Token) : (s.trace f d t).images = s.images := by
  obtain ⟨m, r, x, h⟩ := trace_eq s f d t
  rw [h]
@[simp] theorem trace_cfgCache (s : State) (f : Firing) (d : Dst) (t : Token) : (s.trace f d t).cfgCache = s.cfgCache := by
  obtain ⟨m, r, x, h⟩ := trace_eq s f d t
  rw [h]
@[simp] theorem trace_invals (s : State) (f : Firing) (d : Dst) (t : Token) : (s.trace f d t).invals = s.invals := by
  obtain ⟨m, r, x, h⟩ := trace_eq s f d t
  rw [h]
@[simp] theorem trace_queues (s : State) (f : Firing) (d : Dst) (t : Token) : (s.trace f d t).queues = s.queues := by
  obtain ⟨m, r, x, h⟩ := trace_eq s f d t
  rw [h]
@[simp] theorem trace_grids (s : State) (f : Firing) (d : Dst) (t : Token) : (s.trace f d t).grids = s.grids := by
  obtain ⟨m, r, x, h⟩ := trace_eq s f d t
  rw [h]
@[simp] theorem trace_dist (s : State) (f : Firing) (d : Dst) (t : Token) : (s.trace f d t).dist = s.dist := by
  obtain ⟨m, r, x, h⟩ := trace_eq s f d t
  rw [h]
@[simp] theorem trace_teams (s : State) (f : Firing) (d : Dst) (t : Token) : (s.trace f d t).teams = s.teams := by
  obtain ⟨m, r, x, h⟩ := trace_eq s f d t
  rw [h]
@[simp] theorem trace_cores (s : State) (f : Firing) (d : Dst) (t : Token) : (s.trace f d t).cores = s.cores := by
  obtain ⟨m, r, x, h⟩ := trace_eq s f d t
  rw [h]
@[simp] theorem trace_saves (s : State) (f : Firing) (d : Dst) (t : Token) : (s.trace f d t).saves = s.saves := by
  obtain ⟨m, r, x, h⟩ := trace_eq s f d t
  rw [h]
@[simp] theorem trace_contexts (s : State) (f : Firing) (d : Dst) (t : Token) : (s.trace f d t).contexts = s.contexts := by
  obtain ⟨m, r, x, h⟩ := trace_eq s f d t
  rw [h]
@[simp] theorem trace_engines (s : State) (f : Firing) (d : Dst) (t : Token) : (s.trace f d t).engines = s.engines := by
  obtain ⟨m, r, x, h⟩ := trace_eq s f d t
  rw [h]
@[simp] theorem trace_chr (s : State) (f : Firing) (d : Dst) (t : Token) : (s.trace f d t).chr = s.chr := by
  obtain ⟨m, r, x, h⟩ := trace_eq s f d t
  rw [h]
@[simp] theorem trace_station (s : State) (f : Firing) (d : Dst) (t : Token) : (s.trace f d t).station = s.station := by
  obtain ⟨m, r, x, h⟩ := trace_eq s f d t
  rw [h]
@[simp] theorem trace_links (s : State) (f : Firing) (d : Dst) (t : Token) : (s.trace f d t).links = s.links := by
  obtain ⟨m, r, x, h⟩ := trace_eq s f d t
  rw [h]
@[simp] theorem trace_elog (s : State) (f : Firing) (d : Dst) (t : Token) : (s.trace f d t).elog = s.elog := by
  obtain ⟨m, r, x, h⟩ := trace_eq s f d t
  rw [h]
@[simp] theorem trace_checks (s : State) (f : Firing) (d : Dst) (t : Token) : (s.trace f d t).checks = s.checks := by
  obtain ⟨m, r, x, h⟩ := trace_eq s f d t
  rw [h]
@[simp] theorem trace_rpl (s : State) (f : Firing) (d : Dst) (t : Token) : (s.trace f d t).rpl = s.rpl := by
  obtain ⟨m, r, x, h⟩ := trace_eq s f d t
  rw [h]
@[simp] theorem trace_sec (s : State) (f : Firing) (d : Dst) (t : Token) : (s.trace f d t).sec = s.sec := by
  obtain ⟨m, r, x, h⟩ := trace_eq s f d t
  rw [h]
@[simp] theorem trace_hostOut (s : State) (f : Firing) (d : Dst) (t : Token) : (s.trace f d t).hostOut = s.hostOut := by
  obtain ⟨m, r, x, h⟩ := trace_eq s f d t
  rw [h]
@[simp] theorem trace_timing (s : State) (f : Firing) (d : Dst) (t : Token) : (s.trace f d t).timing = s.timing := by
  obtain ⟨m, r, x, h⟩ := trace_eq s f d t
  rw [h]
@[simp] theorem trace_agenda (s : State) (f : Firing) (d : Dst) (t : Token) : (s.trace f d t).agenda = s.agenda := by
  obtain ⟨m, r, x, h⟩ := trace_eq s f d t
  rw [h]
@[simp] theorem trace_fires (s : State) (f : Firing) (d : Dst) (t : Token) : (s.trace f d t).fires = s.fires := by
  obtain ⟨m, r, x, h⟩ := trace_eq s f d t
  rw [h]
@[simp] theorem trace_waiting (s : State) (f : Firing) (d : Dst) (t : Token) : (s.trace f d t).waiting = s.waiting := by
  obtain ⟨m, r, x, h⟩ := trace_eq s f d t
  rw [h]
@[simp] theorem trace_firing (s : State) (f : Firing) (d : Dst) (t : Token) : (s.trace f d t).firing = s.firing := by
  obtain ⟨m, r, x, h⟩ := trace_eq s f d t
  rw [h]
@[simp] theorem trace_free (s : State) (f : Firing) (d : Dst) (t : Token) : (s.trace f d t).free = s.free := by
  obtain ⟨m, r, x, h⟩ := trace_eq s f d t
  rw [h]
@[simp] theorem trace_nextId (s : State) (f : Firing) (d : Dst) (t : Token) : (s.trace f d t).nextId = s.nextId := by
  obtain ⟨m, r, x, h⟩ := trace_eq s f d t
  rw [h]
@[simp] theorem trace_core (s : State) (f : Firing) (d : Dst) (t : Token) (c : Nat) : (s.trace f d t).core c = s.core c := by
  simp only [State.core, trace_cores]
@[simp] theorem trace_thread (s : State) (f : Firing) (d : Dst) (t : Token) (c k : Nat) :
    (s.trace f d t).thread c k = s.thread c k := by simp only [State.thread, trace_core]
@[simp] theorem trace_tile (s : State) (f : Firing) (d : Dst) (t : Token) (c k : Nat) :
    (s.trace f d t).tile c k = s.tile c k := by simp only [State.tile, trace_core]

end Sys2Proof.Machine
end

