-- ==== Sys2Proof/Laws/Tile.lean ====
section
/-! SUPPORT. Plane contexts, ports and regions: what a change of one reads as; the elements that leastBy and greatestBy choose. -/

namespace Sys2Proof.Machine

theorem port_updPort (x : PlaneCtx) (p : Nat) (g : List Arrival → List Arrival) : (x.updPort p g).port p = g (x.port p) := by
  simp only [PlaneCtx.updPort, PlaneCtx.port]
  by_cases h : p < 8
  · simp only [if_pos h]; exact KMap.lookD_alter_same _ _ _ _
  · simp only [if_neg h]; exact KMap.lookD_alter_same _ _ _ _
@[simp] theorem updPort_store (x : PlaneCtx) (p : Nat) (g : List Arrival → List Arrival) : (x.updPort p g).store = x.store := by
  unfold PlaneCtx.updPort; split <;> rfl
@[simp] theorem updPort_eos (x : PlaneCtx) (p : Nat) (g : List Arrival → List Arrival) : (x.updPort p g).eos = x.eos := by
  unfold PlaneCtx.updPort; split <;> rfl
@[simp] theorem updPort_plane (x : PlaneCtx) (p : Nat) (g : List Arrival → List Arrival) : (x.updPort p g).plane = x.plane := by
  unfold PlaneCtx.updPort; split <;> rfl

theorem ctx_updCtx (s : State) (c t : Nat) (h : Bool) (g : PlaneCtx → PlaneCtx)
    (hx : h = true → (s.tile c t).hctx.isSome = true) : (s.updCtx c t h g).ctx c t h = g (s.ctx c t h) := by
  cases h with
  | false => simp [State.ctx, State.updCtx, Tile.updCtx, Tile.ctx]
  | true =>
    obtain ⟨x, hx⟩ := Option.isSome_iff_exists.mp (hx rfl)
    simp [State.ctx, State.updCtx, Tile.updCtx, Tile.ctx, hx]

theorem hctx_updCtx (s : State) (c t : Nat) (h : Bool) (g : PlaneCtx → PlaneCtx) :
    ((s.updCtx c t h g).tile c t).hctx.isSome = (s.tile c t).hctx.isSome := by
  cases h <;> simp [State.updCtx, Tile.updCtx]

/-- A handler context with a token on a port exists. -/
theorem hctx_of_port (s : State) (c t p : Nat) (h : Bool) (a : Arrival) (ha : ((s.ctx c t h).port p).head? = some a) :
    h = true → (s.tile c t).hctx.isSome = true := by
  intro hh; subst hh
  cases hx : (s.tile c t).hctx with
  | some x => rfl
  | none =>
    simp only [State.ctx, Tile.ctx, hx, if_true, Option.getD_none, PlaneCtx.port] at ha
    split at ha <;> cases ha

/-- A freezing fault of an active plane leaves its tile as it was but for the freeze. -/
theorem takeFreeze_tile (s : State) (f : Firing) (k code : Nat) (z : Freeze) (info : Word) (h : f.site.handler = false) :
    (s.takeFreeze f k code z info).tile f.site.core f.site.tile =
      { s.tile f.site.core f.site.tile with frozen := some { z with code := code, site := f.site, cycle := s.cycle f.site.core } } := by
  simp [State.takeFreeze, h]

/-- A token held by a freeze: the tile is frozen with it, and it has left its port. -/
theorem freezeToken_tile (s : State) (c t p slot code : Nat) (bits : SlotBits) (tok : Token) (info : Word) :
    (s.freezeToken c t false slot bits code p tok info).tile c t =
      { (s.popPort c t false p).tile c t with
        frozen := some { code := code, site := { core := c, tile := t, slot := slot }, token := some tok, channel := p,
                         cycle := (s.popPort c t false p).cycle c } } :=
  takeFreeze_tile (s.popPort c t false p) { site := { core := c, tile := t, slot := slot }, bits := bits, a := [tok] } tok.slot
    code { code := code, site := { core := c, tile := t, slot := slot }, token := some tok, channel := p } info rfl

/-! ## Regions -/

@[simp] theorem region_updRegion (s : State) (c r d q : Nat) (g : Region → Region) :
    (s.updRegion c r g).region d q = if d = c ∧ q = r then g (s.region c r) else s.region d q := by
  simp only [State.updRegion, State.region, State.core_updCore]
  by_cases hd : d = c
  · subst hd; simp only [if_true, true_and, KMap.lookD_alter]
  · simp [hd]
@[simp] theorem region_updThread (s : State) (c k d q : Nat) (g : Thread → Thread) : (s.updThread c k g).region d q = s.region d q := by
  simp only [State.updThread, State.region, State.core_updCore]; split
  · next h => subst h; rfl
  · rfl
@[simp] theorem region_updTile (s : State) (c k d q : Nat) (g : Tile → Tile) : (s.updTile c k g).region d q = s.region d q := by
  simp only [State.updTile, State.region, State.core_updCore]; split
  · next h => subst h; rfl
  · rfl
@[simp] theorem thread_updRegion (s : State) (c k d q : Nat) (g : Region → Region) : (s.updRegion c k g).thread d q = s.thread d q := by
  simp only [State.updRegion, State.thread, State.core_updCore]; split
  · next h => subst h; rfl
  · rfl
@[simp] theorem tile_updRegion (s : State) (c k d q : Nat) (g : Region → Region) : (s.updRegion c k g).tile d q = s.tile d q := by
  simp only [State.updRegion, State.tile, State.core_updCore]; split
  · next h => subst h; rfl
  · rfl
@[simp] theorem region_updCtx (s : State) (c t d q : Nat) (h : Bool) (g : PlaneCtx → PlaneCtx) :
    (s.updCtx c t h g).region d q = s.region d q := region_updTile _ _ _ _ _ _
@[simp] theorem thread_updCtx (s : State) (c t d q : Nat) (h : Bool) (g : PlaneCtx → PlaneCtx) :
    (s.updCtx c t h g).thread d q = s.thread d q := State.thread_updTile _ _ _ _ _ _

/-- A fold of steps each of which keeps a value keeps it. -/
theorem foldl_keep {α β γ : Type} (v : β → γ) (g : β → α → β) (l : List α) (s : β) (h : ∀ s x, v (g s x) = v s) :
    v (l.foldl g s) = v s := by
  induction l generalizing s with
  | nil => rfl
  | cons a r ih => rw [List.foldl_cons, ih, h]

/-! ## Choices -/

/-- greatestBy answers an element of its list with the greatest key, and answers none of the empty list only. -/
theorem greatestBy_spec {α : Type} (key : α → Nat) (l : List α) :
    match greatestBy key l with
    | none => l = []
    | some x => x ∈ l ∧ ∀ y ∈ l, key y ≤ key x := by
  have gen : ∀ (l : List α) (a : α), ∃ x,
      l.foldl (fun acc x => match acc with | none => some x | some y => if key x > key y then some x else some y) (some a) = some x ∧
      (x = a ∨ x ∈ l) ∧ key a ≤ key x ∧ ∀ y ∈ l, key y ≤ key x := by
    intro l
    induction l with
    | nil => exact fun a => ⟨a, rfl, .inl rfl, le_refl _, by simp⟩
    | cons b r ih =>
      intro a
      rw [List.foldl_cons]
      by_cases h : key b > key a
      · obtain ⟨x, h1, h2, h3, h4⟩ := ih b
        refine ⟨x, by simp only [h, if_true]; exact h1, ?_, by omega, ?_⟩
        · rcases h2 with h2 | h2 <;> simp [h2]
        · intro y hy; rcases List.mem_cons.mp hy with h5 | h5
          · subst h5; exact h3
          · exact h4 y h5
      · obtain ⟨x, h1, h2, h3, h4⟩ := ih a
        refine ⟨x, by simp only [h, if_false]; exact h1, ?_, h3, ?_⟩
        · rcases h2 with h2 | h2 <;> simp [h2]
        · intro y hy; rcases List.mem_cons.mp hy with h5 | h5
          · subst h5; omega
          · exact h4 y h5
  cases l with
  | nil => rfl
  | cons a r =>
    obtain ⟨x, h1, h2, h3, h4⟩ := gen r a
    have : greatestBy key (a :: r) = some x := h1
    rw [this]
    refine ⟨by rcases h2 with h2 | h2 <;> simp [h2], ?_⟩
    intro y hy; rcases List.mem_cons.mp hy with h5 | h5
    · subst h5; exact h3
    · exact h4 y h5

/-- A sorted list has the elements of the list. -/
theorem mem_sortBy {α : Type} (key : α → Nat) (l : List α) (x : α) : x ∈ sortBy key l ↔ x ∈ l := by
  have ins : ∀ (l : List α) (a : α), x ∈ insertBy key a l ↔ x = a ∨ x ∈ l := by
    intro l
    induction l with
    | nil => intro a; simp [insertBy]
    | cons b r ih =>
      intro a
      simp only [insertBy]
      split
      · simp
      · simp only [List.mem_cons, ih]; tauto
  have gen : ∀ (l m : List α), x ∈ l.foldl (fun acc y => insertBy key y acc) m ↔ x ∈ l ∨ x ∈ m := by
    intro l
    induction l with
    | nil => simp
    | cons b r ih => intro m; simp only [List.foldl_cons, ih, ins, List.mem_cons]; tauto
  simpa [sortBy] using gen l []

theorem look_mapVals {α : Type} (m : KMap α) (g : α → α) (k : Nat) (d : α) (hd : g d = d) :
    KMap.lookD (KMap.mapVals m g) k d = g (KMap.lookD m k d) := by
  induction m with
  | nil => simp [KMap.mapVals, hd]
  | cons a r ih =>
    obtain ⟨j, v⟩ := a
    simp only [KMap.mapVals, KMap.lookD, KMap.look, List.map_cons] at ih ⊢
    by_cases h : k = j
    · simp [h]
    · simpa [h] using ih

end Sys2Proof.Machine
end

