-- ==== Sys2Proof/Laws/Device.lean ====
section
/-! SUPPORT. What a write by the device leaves as it is: everything but memory, the coherence state, reservations, the error
log, the register ELG_LOST, what is sent outside and the agenda. -/

namespace Sys2Proof.Machine

/-- The cores differ at most in reservations. -/
def CoresResv (s t : State) : Prop :=
  (∀ c, t.core c = { s.core c with threads := (t.core c).threads }) ∧
  ∀ c k, ∃ r, t.thread c k = { s.thread c k with resv := r }

theorem CoresResv.of_eq {s t : State} (h : t.cores = s.cores) : CoresResv s t := by
  have hc : ∀ c, t.core c = s.core c := fun c => by simp only [State.core, h]
  exact ⟨fun c => by rw [hc], fun c k => ⟨(s.thread c k).resv, by simp only [State.thread, hc]⟩⟩
theorem CoresResv.trans {s t u : State} (h : CoresResv s t) (g : CoresResv t u) : CoresResv s u := by
  refine ⟨fun c => ?_, fun c k => ?_⟩
  · have := g.1 c; rw [h.1 c] at this; exact this
  · obtain ⟨r, hr⟩ := h.2 c k
    obtain ⟨q, hq⟩ := g.2 c k
    exact ⟨q, by rw [hq, hr]⟩

theorem core_mapKV (s : State) (g : Nat → Core → Core) (hg : ∀ c, g c {} = {}) (c : Nat) :
    State.core { s with cores := KMap.mapKV s.cores g } c = g c (s.core c) := by
  simp only [State.core]
  generalize s.cores = m
  induction m with
  | nil => simp [KMap.mapKV, hg]
  | cons a r ih =>
    obtain ⟨j, v⟩ := a
    simp only [KMap.mapKV, KMap.lookD, KMap.look, List.map_cons] at ih ⊢
    by_cases h : c = j
    · subst h; simp
    · simp only [h, if_false]; exact ih

theorem coresResv_breakResv (s : State) (l : Nat) (who : Option (Nat × Nat)) (p : Nat → Bool) : CoresResv s (s.breakResv l who p) := by
  have hc : ∀ c, (s.breakResv l who p).core c = if p c then
        { s.core c with threads := KMap.mapKV (s.core c).threads (fun j t =>
            match t.resv with
            | some r => if r.granule = l && who ≠ some (c, j) && t.hold.isNone then { t with resv := none } else t
            | none => t) }
      else s.core c := fun c => by
    refine (core_mapKV s _ (fun c => ?_) c).trans rfl
    split <;> rfl
  refine ⟨fun c => ?_, fun c k => ?_⟩
  · rw [hc]; split <;> rfl
  · simp only [State.thread, hc]
    split
    · generalize (s.core c).threads = m
      induction m with
      | nil => exact ⟨none, rfl⟩
      | cons a r ih =>
        obtain ⟨j, v⟩ := a
        simp only [KMap.mapKV, KMap.lookD, KMap.look, List.map_cons] at ih ⊢
        by_cases h : k = j
        · subst h
          simp only [if_true, Option.getD_some]
          split
          · split
            · exact ⟨none, rfl⟩
            · exact ⟨v.resv, rfl⟩
          · exact ⟨v.resv, rfl⟩
        · simp only [h, if_false]; exact ih
    · exact ⟨_, rfl⟩

/-- What a write by the device may change. -/
def DevOnly (s t : State) : Prop :=
  t = { s with mem := t.mem, poison := t.poison, coh := t.coh, hostOut := t.hostOut, regs := t.regs, elog := t.elog, agenda := t.agenda,
               cores := t.cores } ∧ CoresResv s t

theorem DevOnly.trans {s t u : State} (h : DevOnly s t) (g : DevOnly t u) : DevOnly s u := by
  refine ⟨?_, h.2.trans g.2⟩
  have h1 := h.1
  have g1 := g.1
  rw [h1] at g1
  exact g1
theorem DevOnly.rfl' (s : State) : DevOnly s s := ⟨rfl, .of_eq rfl⟩
theorem DevOnly.foldl {α : Type} (f : State → α → State) (h : ∀ s x, DevOnly s (f s x)) (l : List α) (s : State) :
    DevOnly s (l.foldl f s) := by
  induction l generalizing s with
  | nil => exact DevOnly.rfl' s
  | cons a r ih => exact (h s a).trans (ih _)
theorem DevOnly.foldl' {α : Type} {s u : State} (hu : DevOnly s u) (f : State → α → State) (h : ∀ s x, DevOnly s (f s x)) (l : List α) :
    DevOnly s (l.foldl f u) := hu.trans (DevOnly.foldl f h l u)
theorem CohOnly.dev {s t : State} (h : CohOnly s t) : DevOnly s t := by
  unfold CohOnly at h
  have hc : t.cores = s.cores := by rw [h]
  refine ⟨?_, .of_eq hc⟩
  rw [h]

theorem devOnly_breakResv (s : State) (l : Nat) (who : Option (Nat × Nat)) (p : Nat → Bool) : DevOnly s (s.breakResv l who p) :=
  ⟨rfl, coresResv_breakResv s l who p⟩
theorem cohOnly_invalidateSharers (s : State) (l : Nat) : CohOnly s (s.invalidateSharers l) := by
  unfold State.invalidateSharers; split <;> rfl
theorem cohOnly_homeWrote (s : State) (l : Nat) : CohOnly s (s.homeWrote l) := by
  have h1 := cohOnly_invalidateSharers s l
  unfold State.homeWrote
  generalize s.invalidateSharers l = u at h1 ⊢
  simp only
  split
  · exact h1.trans rfl
  · exact h1
theorem cohOnly_outerWrote (s : State) (l : Nat) : CohOnly s (s.outerWrote l) := by
  unfold State.outerWrote; split <;> rfl
theorem cohOnly_setL2 (s : State) (n l : Nat) (x : L2Line) : CohOnly s (s.setL2 n l x) := rfl
theorem cohOnly_updL1 (s : State) (c : Nat) (g : KMap L1Word → KMap L1Word) : CohOnly s (s.updL1 c g) := rfl
theorem cohOnly_putCells (s : State) (l : List Host.Cell) : CohOnly s (s.putCells l) :=
  CohOnly.foldl (fun (s : State) (c : Host.Cell) => s.putByte c.1 c.2) (fun s x => cohOnly_putByte s x.1 x.2) l s
theorem cohOnly_setCopyCells (s : State) (n l : Nat) (c : List Host.Cell) : CohOnly s (s.setCopyCells n l c) := by
  unfold State.setCopyCells; split
  · exact cohOnly_putCells _ _
  · exact cohOnly_setCopy _ _ _ _
theorem cohOnly_endWords (s : State) (n l : Nat) (w : List Nat) : CohOnly s (s.endWords n l w) := by
  unfold State.endWords; simp only; split
  · exact CohOnly.rfl' s
  · exact (cohOnly_setCopy _ _ _ _).trans (CohOnly.foldl _ (fun s x => cohOnly_updL1 s _ _) _ _)
theorem devOnly_writeAtSlice (s : State) (n : Nat) (who : Option (Nat × Nat)) (c : List Host.Cell) : DevOnly s (s.writeAtSlice n who c) := by
  unfold State.writeAtSlice
  simp only
  refine DevOnly.foldl' (DevOnly.foldl' (DevOnly.foldl' (DevOnly.rfl' s) _ (fun s l => CohOnly.dev ?_) _) _ (fun s l => ?_) _) _ (fun s l => ?_) _
  · split
    · exact CohOnly.rfl' s
    · have tail : ∀ u : State, CohOnly s u → CohOnly s (match u.l2Line n l with
          | some x => if n ≠ u.homeNode l then u.setL2 n l { x with st := .m } else u
          | none => u) := by
        intro u hu
        split
        · split
          · exact hu.trans (cohOnly_setL2 _ _ _ _)
          · exact hu
        · exact hu
      apply tail
      split
      · exact CohOnly.rfl' s
      · exact cohOnly_endWords _ _ _ _
  · exact (cohOnly_setCopyCells _ _ _ _).dev
  · exact ((cohOnly_homeWrote s l).trans (cohOnly_outerWrote _ l)).dev.trans (devOnly_breakResv _ _ _ _)
theorem devOnly_domainWrite (s : State) (c k t l : Nat) (x : List Host.Cell) (b : Bool) : DevOnly s (s.domainWrite c k t l x b) := by
  unfold State.domainWrite
  exact DevOnly.trans ⟨rfl, .of_eq rfl⟩ (devOnly_breakResv _ _ _ _)
theorem devOnly_logError (s : State) (a b c d e : Nat) : DevOnly s (s.logError a b c d e) := by
  have key : ∀ (x y : Elog) (w : Nat) (l : List Nat) (h : List HostMsg),
      DevOnly s { ({ s with elog := x } : State).putWords w l with elog := y, hostOut := h } := by
    intro x y w l h
    obtain ⟨m, hm⟩ := putWords_eq { s with elog := x } w l
    rw [hm]
    exact ⟨rfl, .of_eq rfl⟩
  unfold State.logError
  simp only
  split
  · exact ⟨rfl, .of_eq rfl⟩
  · exact key _ _ _ _ _
theorem devOnly_logDiscard (s : State) (l : Nat) : DevOnly s (s.logDiscard l) := by
  unfold State.logDiscard
  split
  · exact devOnly_logError _ _ _ _ _ _
  · exact devOnly_logError _ _ _ _ _ _
  · exact DevOnly.rfl' s
theorem devOnly_deviceWrite (s : State) (pa : Nat) (l : List Byte) (b : Bool := false) : DevOnly s (s.deviceWrite pa l b) := by
  unfold State.deviceWrite
  split
  · unfold State.deviceControl
    simp only
    repeat' split
    all_goals exact ⟨rfl, .of_eq rfl⟩
  · refine DevOnly.foldl _ (fun s x => ?_) _ _
    simp only
    split
    · exact devOnly_logDiscard _ _
    · repeat' split
      · exact DevOnly.rfl' s
      · exact DevOnly.rfl' s
      · exact devOnly_domainWrite _ _ _ _ _ _ _
      · exact devOnly_writeAtSlice _ _ _ _

end Sys2Proof.Machine
end

