-- ==== Sys2Proof/Laws/Frame.lean ====
section
/-! SUPPORT. What the sending of tokens leaves unchanged: the operations that a computing instruction is made of, each with the
lemma that it changes no more than Safety's OnlySends lets it. -/

namespace Sys2Proof.Machine

/-- As OnlySends, of a change that writes no memory and no register. -/
def SendQ (f : Firing) (s t : State) : Prop :=
  let c := f.site.core
  t.mem = s.mem ∧ t.regs = s.regs ∧ t.dbg = s.dbg ∧
  (∀ d k, ∃ p : FpFlags → FpFlags, t.thread d k = { s.thread d k with exec := (s.thread d k).exec.map (fun e => { e with pend := p e.pend }) }) ∧
  (∀ d, d ≠ c → t.core d = s.core d) ∧
  (∀ u h, (t.ctx c u h).store = (s.ctx c u h).store ∧ (t.ctx c u h).plane = (s.ctx c u h).plane ∧
    (t.ctx c u h).eos = (s.ctx c u h).eos) ∧
  (∀ u, (t.tile c u).mx = (s.tile c u).mx ∧ (t.tile c u).shadow = (s.tile c u).shadow) ∧
  (∀ u, u ≠ f.site.tile → (t.tile c u).frozen = (s.tile c u).frozen) ∧
  t.time = s.time ∧ t.coh = s.coh ∧ t.mmu = s.mmu ∧ t.images = s.images ∧ t.queues = s.queues ∧ t.grids = s.grids ∧
  t.teams = s.teams ∧ t.engines = s.engines ∧ t.chr = s.chr ∧ t.station = s.station ∧ t.stage = s.stage ∧ t.full = s.full ∧
  t.poison = s.poison ∧ t.links = s.links ∧ t.sec = s.sec ∧ t.rpl = s.rpl

theorem SendQ.refl (f : Firing) (s : State) : SendQ f s s := by
  refine ⟨rfl, rfl, rfl, fun d k => ⟨id, ?_⟩, fun _ _ => rfl, fun _ _ => ⟨rfl, rfl, rfl⟩, fun _ => ⟨rfl, rfl⟩, fun _ _ => rfl, rfl, rfl, rfl, rfl, rfl, rfl, rfl, rfl, rfl, rfl, rfl, rfl, rfl, rfl, rfl, rfl⟩
  rcases h : (s.thread d k).exec with _ | e <;> simp [← h]

theorem SendQ.trans {f : Firing} {s t u : State} (a : SendQ f s t) (b : SendQ f t u) : SendQ f s u := by
  obtain ⟨a1, a2, a3, a4, a5, a6, a7, a8, a9, a10, a11, a12, a13, a14, a15, a16, a17, a18, a19, a20, a21, a22, a23, a24⟩ := a
  obtain ⟨b1, b2, b3, b4, b5, b6, b7, b8, b9, b10, b11, b12, b13, b14, b15, b16, b17, b18, b19, b20, b21, b22, b23, b24⟩ := b
  refine ⟨b1.trans a1, b2.trans a2, b3.trans a3, fun d k => ?_, fun d h => (b5 d h).trans (a5 d h),
    fun u h => ⟨(b6 u h).1.trans (a6 u h).1, (b6 u h).2.1.trans (a6 u h).2.1, (b6 u h).2.2.trans (a6 u h).2.2⟩,
    fun u => ⟨(b7 u).1.trans (a7 u).1, (b7 u).2.trans (a7 u).2⟩, fun u h => (b8 u h).trans (a8 u h),
    b9.trans a9, b10.trans a10, b11.trans a11, b12.trans a12, b13.trans a13, b14.trans a14, b15.trans a15, b16.trans a16, b17.trans a17, b18.trans a18, b19.trans a19, b20.trans a20, b21.trans a21, b22.trans a22, b23.trans a23, b24.trans a24⟩
  obtain ⟨p, hp⟩ := a4 d k
  obtain ⟨q, hq⟩ := b4 d k
  refine ⟨fun x => q (p x), ?_⟩
  rw [hq, hp]
  simp [Option.map_map, Function.comp_def]

theorem sendQ_of {f : Firing} {s t : State} (h : ∃ cs, t = { s with cores := cs })
    (h4 : ∀ d k, ∃ p : FpFlags → FpFlags, t.thread d k = { s.thread d k with exec := (s.thread d k).exec.map (fun e => { e with pend := p e.pend }) })
    (h5 : ∀ d, d ≠ f.site.core → t.core d = s.core d)
    (h6 : ∀ u h, (t.ctx f.site.core u h).store = (s.ctx f.site.core u h).store ∧ (t.ctx f.site.core u h).plane = (s.ctx f.site.core u h).plane ∧
      (t.ctx f.site.core u h).eos = (s.ctx f.site.core u h).eos)
    (h7 : ∀ u, (t.tile f.site.core u).mx = (s.tile f.site.core u).mx ∧ (t.tile f.site.core u).shadow = (s.tile f.site.core u).shadow)
    (h8 : ∀ u, u ≠ f.site.tile → (t.tile f.site.core u).frozen = (s.tile f.site.core u).frozen) : SendQ f s t := by
  obtain ⟨cs, rfl⟩ := h
  exact ⟨rfl, rfl, rfl, h4, h5, h6, h7, h8, rfl, rfl, rfl, rfl, rfl, rfl, rfl, rfl, rfl, rfl, rfl, rfl, rfl, rfl, rfl, rfl⟩

theorem thread_same (s : State) (d k : Nat) : ∃ p : BitVec 6 → BitVec 6, s.thread d k = { s.thread d k with exec := (s.thread d k).exec.map (fun e => { e with pend := p e.pend }) } :=
  (SendQ.refl ⟨⟨0, 0, 0, false⟩, ⟨0, 0⟩, [], [], [], 0, 0, none, none⟩ s).2.2.2.1 d k

/-- A tile changed in what a SendQ leaves open. -/
theorem sendQ_updTile (f : Firing) (s : State) (t : Nat) (g : Tile → Tile)
    (hg : ∀ x, (∀ h, ((g x).ctx h).store = (x.ctx h).store ∧ ((g x).ctx h).plane = (x.ctx h).plane ∧ ((g x).ctx h).eos = (x.ctx h).eos) ∧
      (g x).mx = x.mx ∧ (g x).shadow = x.shadow ∧ (t ≠ f.site.tile → (g x).frozen = x.frozen)) : SendQ f s (s.updTile f.site.core t g) := by
  have ht : ∀ u, (s.updTile f.site.core t g).tile f.site.core u = if u = t then g (s.tile f.site.core u) else s.tile f.site.core u := by
    intro u; by_cases hu : u = t <;> simp [hu]
  refine sendQ_of ⟨_, rfl⟩ (fun d k => ?_) (fun d hd => ?_) (fun u h => ?_) (fun u => ?_) (fun u hu => ?_)
  · simpa using thread_same s d k
  · simp [State.core, State.updTile, State.updCore, KMap.lookD_alter_other _ _ _ _ _ _ hd]
  · simp only [State.ctx, ht]; split
    · exact (hg _).1 h
    · exact ⟨rfl, rfl, rfl⟩
  · rw [ht]; split
    · exact ⟨(hg _).2.1, (hg _).2.2.1⟩
    · exact ⟨rfl, rfl⟩
  · rw [ht]; split
    · exact (hg _).2.2.2 (by omega)
    · rfl

theorem sendQ_updCtx (f : Firing) (s : State) (t : Nat) (h : Bool) (g : PlaneCtx → PlaneCtx)
    (hg : ∀ x, (g x).store = x.store ∧ (g x).plane = x.plane ∧ (g x).eos = x.eos) : SendQ f s (s.updCtx f.site.core t h g) := by
  refine sendQ_updTile f s t _ (fun x => ?_)
  cases h with
  | false =>
    refine ⟨fun h => ?_, rfl, rfl, fun _ => rfl⟩
    cases h
    · exact hg _
    · exact ⟨rfl, rfl, rfl⟩
  | true =>
    refine ⟨fun h => ?_, rfl, rfl, fun _ => rfl⟩
    cases h
    · exact ⟨rfl, rfl, rfl⟩
    · simp only [Tile.updCtx, Tile.ctx, if_true]
      cases x.hctx
      · exact ⟨rfl, rfl, rfl⟩
      · exact hg _

theorem sendQ_send (f : Firing) (s : State) (t : Nat) (h : Bool) (d : Dst) (tok : Token) : SendQ f s (s.send f.site.core t h d tok) := by
  have key : ∀ (l : List (Nat × Nat × Nat)) (g : State → Nat × Nat × Nat → List Arrival → List Arrival) (s : State),
      SendQ f s (l.foldl (fun s r => s.updCtx f.site.core r.1 h (fun x => x.updPort r.2.1 (g s r))) s) := by
    intro l g
    induction l with
    | nil => intro s; exact SendQ.refl f s
    | cons a l ih => intro s; exact (sendQ_updCtx f s _ _ _ (fun x => ⟨by simp, by simp, by simp⟩)).trans (ih _)
  have h1 : SendQ f s (s.deliver f.site.core t h d tok) :=
    key (s.reaches f.site.core t h d) (fun s r => arriveAt { tok := tok, cycle := s.cycle f.site.core + r.2.2 }) s
  unfold State.send
  simp only
  split
  · exact h1
  · exact h1.trans (sendQ_updCtx f _ _ _ _ (fun x => ⟨rfl, rfl, rfl⟩))

theorem sendQ_emit (f : Firing) (s : State) (t : Nat) (h : Bool) (d : Dst) (l : List Token) : SendQ f s (s.emit f.site.core t h d l) := by
  unfold State.emit
  split
  · exact SendQ.refl f s
  · split
    · exact SendQ.refl f s
    · simp only
      split
      · exact sendQ_send f s _ _ _ _
      · refine (sendQ_send f s _ _ _ _).trans (sendQ_updTile f _ _ _ (fun x => ⟨fun h => ?_, rfl, rfl, fun _ => rfl⟩))
        cases h <;> exact ⟨rfl, rfl, rfl⟩

theorem sendQ_updExec (f : Firing) (s : State) (k : Nat) (p : BitVec 6 → BitVec 6) :
    SendQ f s (s.updExec f.site.core k (fun e => { e with pend := p e.pend })) := by
  refine sendQ_of ⟨_, rfl⟩ (fun d j => ?_) (fun d hd => ?_) (fun u h => ?_) (fun u => ?_) (fun u hu => ?_)
  · by_cases h : d = f.site.core ∧ j = k
    · obtain ⟨rfl, rfl⟩ := h
      exact ⟨p, by simp [State.updExec]⟩
    · have : (s.updExec f.site.core k (fun e => { e with pend := p e.pend })).thread d j = s.thread d j := by
        simp only [State.updExec]
        by_cases hd : d = f.site.core
        · subst hd
          have hj : j ≠ k := fun hj => h ⟨rfl, hj⟩
          simp [hj]
        · simp [hd]
      rw [this]; exact thread_same s d j
  · simp [State.core, State.updExec, State.updThread, State.updCore, KMap.lookD_alter_other _ _ _ _ _ _ hd]
  · simp [State.updExec, State.ctx]
  · simp [State.updExec]
  · simp [State.updExec]

theorem sendQ_addFlags (f : Firing) (s : State) (k : Nat) (fl : FpFlags) : SendQ f s (s.addFlags f.site.core k fl) := by
  unfold State.addFlags
  split
  · exact SendQ.refl f s
  · exact sendQ_updExec f s k (fun x => x ||| fl)

theorem sendQ_sendFault (f : Firing) (s : State) (x : FaultTok) : SendQ f s (s.sendFault f.site.core x) := by
  have hc : ∀ d, (s.sendFault f.site.core x).core d = if d = f.site.core then { s.core d with faultNet := (s.core d).faultNet ++ [x] } else s.core d := by
    intro d
    simp only [State.core, State.sendFault, State.updCore, KMap.lookD_alter]
    split
    · rename_i h; subst h; rfl
    · rfl
  have ht : ∀ d j, (s.sendFault f.site.core x).thread d j = s.thread d j := by
    intro d j; simp only [State.thread, hc]; split <;> rfl
  have hl : ∀ d j, (s.sendFault f.site.core x).tile d j = s.tile d j := by
    intro d j; simp only [State.tile, hc]; split <;> rfl
  refine sendQ_of ⟨_, rfl⟩ (fun d j => ?_) (fun d hd => ?_) (fun u h => ?_) (fun u => ?_) (fun u hu => ?_)
  · rw [ht]; exact thread_same s d j
  · rw [hc, if_neg hd]
  · simp only [State.ctx, hl]; exact ⟨trivial, trivial, trivial⟩
  · rw [hl]; exact ⟨rfl, rfl⟩
  · rw [hl]

theorem sendQ_freeze (f : Firing) (s : State) (ta : TagAction) (code : Nat) : SendQ f s (s.freezeFiring f ta code) := by
  unfold State.freezeFiring State.takeFreeze
  simp only
  split
  · exact sendQ_sendFault f s _
  · refine SendQ.trans ?_ (sendQ_sendFault f _ _)
    refine sendQ_updTile f s f.site.tile _ (fun x => ⟨fun h => ?_, rfl, rfl, fun h => absurd rfl h⟩)
    cases h <;> exact ⟨rfl, rfl, rfl⟩

theorem sendQ_only {f : Firing} {s t : State} (h : SendQ f s t) : s.OnlySends t f :=
  ⟨fun a _ => by simp only [State.byte, h.1], fun o _ => by rw [h.2.1], h.2.2.2⟩

theorem putWords_len (l : List Nat) (hl : l.length = 4) : (l.flatMap (leBytes 8)).length = 32 := by
  match l, hl with
  | [a, b, c, d], _ => simp [leBytes]

theorem byte_withDbg (u : State) (d : Dbg) (a : Nat) : ({ u with dbg := d } : State).byte a = u.byte a := rfl

theorem traceWords_len (s : State) (f : Firing) (d : Dst) (tok : Token) (n : Tick) : (s.traceWords f d tok n).length = 4 := rfl

/-- A record written changes the ring's next place alone. -/
theorem putTrace_bytes (s : State) (l : List Nat) (hl : l.length = 4) (a : Nat)
    (ha : let size := 1024 * 2 ^ bitsOf (s.regN .dbgTrctl) 4 1
      ringFull s.dbg.trTail s.dbg.trHead size = false →
        a < s.regN .dbgTrbase + 32 * (s.dbg.trTail % size) ∨ s.regN .dbgTrbase + 32 * (s.dbg.trTail % size) + 32 ≤ a) :
    (s.putTrace l).byte a = s.byte a := by
  unfold State.putTrace
  simp only at ha ⊢
  split
  · rfl
  · rename_i hf
    rw [byte_withDbg]
    exact State.byte_putBytes_outside _ _ _ _ (by rw [putWords_len l hl]; exact ha (by simpa using hf))

theorem putTrace_regs (s : State) (l : List Nat) (o : Nat) (ho : o ≠ RegName.dbgTrlost.offset 0) :
    KMap.look (s.putTrace l).regs o = KMap.look s.regs o := by
  unfold State.putTrace
  simp only
  split
  · exact KMap.look_put_other _ _ _ _ ho
  · obtain ⟨m, h⟩ := putWords_eq s (s.regN .dbgTrbase + 32 * (s.dbg.trTail % (1024 * 2 ^ bitsOf (s.regN .dbgTrctl) 4 1))) l
    show KMap.look (s.putWords _ l).regs o = _
    rw [h]

theorem trace_bytes (f : Firing) (s : State) (d : Dst) (tok : Token) (a : Nat)
    (ha : ∀ b, s.traceSlot f.site.core = some b → a < b ∨ b + 32 ≤ a) : (s.trace f d tok).byte a = s.byte a := by
  unfold State.traceSlot at ha
  unfold State.trace State.traced
  simp only at ha ⊢
  split
  · rfl
  · split
    · rename_i hc
      split
      · rfl
      · refine putTrace_bytes s _ (traceWords_len _ _ _ _ _) a (fun hf => ?_)
        rw [if_pos (by rw [hc, hf]; rfl)] at ha
        exact ha _ rfl
    · rfl

theorem trace_regs (f : Firing) (s : State) (d : Dst) (tok : Token) (o : Nat)
    (ho : o ≠ RegName.dbgTrlost.offset 0) : KMap.look (s.trace f d tok).regs o = KMap.look s.regs o := by
  unfold State.trace
  simp only
  split
  · rfl
  · split
    · split
      · rfl
      · exact putTrace_regs s _ o ho
    · rfl

theorem only_of (f : Firing) (s u t : State) (d : Dst) (tok : Token) (h1 : SendQ f s u) (h2 : SendQ f (u.trace f d tok) t) :
    s.OnlySends t f := by
  have hs : u.traceSlot f.site.core = s.traceSlot f.site.core := by
    unfold State.traceSlot State.regN State.reg
    rw [h1.2.1, h1.2.2.1]
  obtain ⟨m, r, x, h⟩ := trace_eq u f d tok
  have hu : ∃ v : State, v = { u.trace f d tok with mem := u.mem, regs := u.regs, dbg := u.dbg } ∧ v = u := ⟨_, rfl, by rw [h]⟩
  have ht : SendQ f u { t with mem := u.mem, regs := u.regs, dbg := u.dbg } := by
    obtain ⟨v, hv, hvu⟩ := hu
    have hh : SendQ f { u.trace f d tok with mem := u.mem, regs := u.regs, dbg := u.dbg } { t with mem := u.mem, regs := u.regs, dbg := u.dbg } :=
      ⟨rfl, rfl, rfl, h2.2.2.2⟩
    rw [← hv, hvu] at hh
    exact hh
  have hst := (h1.trans ht).2.2.2
  refine ⟨fun a ha => ?_, fun o ho => ?_, hst⟩
  · have : t.byte a = (u.trace f d tok).byte a := by simp only [State.byte, h2.1]
    rw [this, trace_bytes f u d tok a (by rw [hs]; exact ha)]
    simp only [State.byte, h1.1]
  · rw [h2.2.1, trace_regs f u d tok o ho, h1.2.1]

theorem sendQ_taken (f : Firing) (s : State) : SendQ f s { s with firing := none } :=
  ⟨rfl, rfl, rfl, fun d k => thread_same s d k, fun _ _ => rfl, fun _ _ => ⟨rfl, rfl, rfl⟩, fun _ => ⟨rfl, rfl⟩, fun _ _ => rfl, rfl, rfl, rfl, rfl, rfl, rfl, rfl, rfl, rfl, rfl, rfl, rfl, rfl, rfl, rfl, rfl⟩

theorem only_emitOut (f : Firing) (s u : State) (r : Route) (o : Out) (h : SendQ f s u) : s.OnlySends (u.emitOut f r o) f := by
  unfold State.emitOut State.sendOut
  simp only
  refine only_of f s u _ r.d0 (opTok o.toks0) h ?_
  refine SendQ.trans ?_ ((sendQ_emit f _ _ _ _ _).trans (sendQ_emit f _ _ _ _ _))
  unfold State.returnToPort
  split
  · exact sendQ_updCtx f _ _ _ _ (fun x => ⟨by simp, by simp, by simp⟩)
  · exact SendQ.refl f _

theorem only_fireCases (r : Route) (fmt : Fmt) (own : State → Firing → State) (s u : State) (f : Firing) (h : SendQ f s u)
    (ho : s.OnlySends (own u f) f) : s.OnlySends (fireCases r fmt own u f) f := by
  unfold fireCases State.emitDeferred State.emitBubble
  split
  · exact only_emitOut f s u _ _ h
  · split
    · exact only_emitOut f s u _ _ h
    · exact ho

theorem only_valueEffect (r : Route) (g : State → Firing → Option Out) (s u : State) (f : Firing) (h : SendQ f s u) :
    s.OnlySends (valueEffect r g u f) f := by
  unfold valueEffect
  split
  · exact sendQ_only (h.trans (sendQ_freeze f u _ _))
  · exact only_emitOut f s _ _ _ (h.trans (sendQ_addFlags f u _ _))

theorem only_withFiring (s t : State) (f : Firing) (k : State → Firing → State) (hf : s.firing = some f)
    (h : withFiring s k = .next t) (hk : s.OnlySends (k { s with firing := none } f) f) : s.OnlySends t f := by
  unfold withFiring at h
  rw [hf] at h
  cases h
  exact hk

theorem only_valueFiring (r : Route) (fmt : Fmt) (g : State → Firing → Option Out) (s t : State) (f : Firing) (hf : s.firing = some f)
    (h : valueFiring r fmt g s = .next t) : s.OnlySends t f :=
  only_withFiring s t f _ hf h (only_fireCases r fmt _ s _ f (sendQ_taken f s) (only_valueEffect r g s _ f (sendQ_taken f s)))

theorem only_faultFiring (r : Route) (fmt : Fmt) (code : Nat) (s t : State) (f : Firing) (hf : s.firing = some f)
    (h : faultFiring r fmt code s = .next t) : s.OnlySends t f :=
  only_withFiring s t f _ hf h (only_fireCases r fmt _ s _ f (sendQ_taken f s) (sendQ_only ((sendQ_taken f s).trans (sendQ_freeze f _ _ _))))

end Sys2Proof.Machine
end

