-- ==== Sys2Proof/Laws/Literals.lean ====
section
/-! SUPPORT. The fields of the literals of the memory and conversion instructions (Tables 7.2, 15.8 and 16.5): what a field
read from the literal that an instruction encodes gives. -/

namespace Sys2Proof

@[simp] theorem top_z2_v4_z2_0 (x1 : BitVec 4) : (0#2 ++ x1 ++ 0#2).extractLsb' 0 2 = 0#2 := by
  ext i hi
  simp only [BitVec.getElem_extractLsb', BitVec.getLsbD_append]
  interval_cases i <;> simp [BitVec.getLsbD_eq_getElem]

@[simp] theorem top_z2_v4_z2_2 (x1 : BitVec 4) : (0#2 ++ x1 ++ 0#2).extractLsb' 2 4 = x1 := by
  ext i hi
  simp only [BitVec.getElem_extractLsb', BitVec.getLsbD_append]
  interval_cases i <;> simp [BitVec.getLsbD_eq_getElem]

@[simp] theorem top_z2_v4_z2_6 (x1 : BitVec 4) : (0#2 ++ x1 ++ 0#2).extractLsb' 6 2 = 0#2 := by
  ext i hi
  simp only [BitVec.getElem_extractLsb', BitVec.getLsbD_append]
  interval_cases i <;> simp [BitVec.getLsbD_eq_getElem]

@[simp] theorem top_z4_v3_b1_0 (x1 : BitVec 3) (x2 : Bool) : (0#4 ++ x1 ++ bit1 x2).extractLsb' 0 1 = bit1 x2 := by
  ext i hi
  simp only [BitVec.getElem_extractLsb', BitVec.getLsbD_append]
  interval_cases i <;> simp [BitVec.getLsbD_eq_getElem]

@[simp] theorem top_z4_v3_b1_1 (x1 : BitVec 3) (x2 : Bool) : (0#4 ++ x1 ++ bit1 x2).extractLsb' 1 3 = x1 := by
  ext i hi
  simp only [BitVec.getElem_extractLsb', BitVec.getLsbD_append]
  interval_cases i <;> simp [BitVec.getLsbD_eq_getElem]

@[simp] theorem top_z4_v3_b1_4 (x1 : BitVec 3) (x2 : Bool) : (0#4 ++ x1 ++ bit1 x2).extractLsb' 4 4 = 0#4 := by
  ext i hi
  simp only [BitVec.getElem_extractLsb', BitVec.getLsbD_append]
  interval_cases i <;> simp [BitVec.getLsbD_eq_getElem]

@[simp] theorem top_z4_v2_z2_0 (x1 : BitVec 2) : (0#4 ++ x1 ++ 0#2).extractLsb' 0 2 = 0#2 := by
  ext i hi
  simp only [BitVec.getElem_extractLsb', BitVec.getLsbD_append]
  interval_cases i <;> simp [BitVec.getLsbD_eq_getElem]

@[simp] theorem top_z4_v2_z2_2 (x1 : BitVec 2) : (0#4 ++ x1 ++ 0#2).extractLsb' 2 2 = x1 := by
  ext i hi
  simp only [BitVec.getElem_extractLsb', BitVec.getLsbD_append]
  interval_cases i <;> simp [BitVec.getLsbD_eq_getElem]

@[simp] theorem top_z4_v2_z2_4 (x1 : BitVec 2) : (0#4 ++ x1 ++ 0#2).extractLsb' 4 4 = 0#4 := by
  ext i hi
  simp only [BitVec.getElem_extractLsb', BitVec.getLsbD_append]
  interval_cases i <;> simp [BitVec.getLsbD_eq_getElem]

@[simp] theorem top_z6_v2_0 (x1 : BitVec 2) : (0#6 ++ x1).extractLsb' 0 2 = x1 := by
  ext i hi
  simp only [BitVec.getElem_extractLsb', BitVec.getLsbD_append]
  interval_cases i <;> simp [BitVec.getLsbD_eq_getElem]

@[simp] theorem top_z6_v2_2 (x1 : BitVec 2) : (0#6 ++ x1).extractLsb' 2 6 = 0#6 := by
  ext i hi
  simp only [BitVec.getElem_extractLsb', BitVec.getLsbD_append]
  interval_cases i <;> simp [BitVec.getLsbD_eq_getElem]

@[simp] theorem top_z7_b1_0 (x1 : Bool) : (0#7 ++ bit1 x1).extractLsb' 0 1 = bit1 x1 := by
  ext i hi
  simp only [BitVec.getElem_extractLsb', BitVec.getLsbD_append]
  interval_cases i <;> simp [BitVec.getLsbD_eq_getElem]

@[simp] theorem top_z7_b1_1 (x1 : Bool) : (0#7 ++ bit1 x1).extractLsb' 1 7 = 0#7 := by
  ext i hi
  simp only [BitVec.getElem_extractLsb', BitVec.getLsbD_append]
  interval_cases i <;> simp [BitVec.getLsbD_eq_getElem]

@[simp] theorem top_v4_z3_b1_0 (x0 : BitVec 4) (x2 : Bool) : (x0 ++ 0#3 ++ bit1 x2).extractLsb' 0 1 = bit1 x2 := by
  ext i hi
  simp only [BitVec.getElem_extractLsb', BitVec.getLsbD_append]
  interval_cases i <;> simp [BitVec.getLsbD_eq_getElem]

@[simp] theorem top_v4_z3_b1_1 (x0 : BitVec 4) (x2 : Bool) : (x0 ++ 0#3 ++ bit1 x2).extractLsb' 1 3 = 0#3 := by
  ext i hi
  simp only [BitVec.getElem_extractLsb', BitVec.getLsbD_append]
  interval_cases i <;> simp [BitVec.getLsbD_eq_getElem]

@[simp] theorem top_v4_z3_b1_4 (x0 : BitVec 4) (x2 : Bool) : (x0 ++ 0#3 ++ bit1 x2).extractLsb' 4 4 = x0 := by
  ext i hi
  simp only [BitVec.getElem_extractLsb', BitVec.getLsbD_append]
  interval_cases i <;> simp [BitVec.getLsbD_eq_getElem]

@[simp] theorem lit_z1_b1_v4_v8_v8_z10_0 (x1 : Bool) (x2 : BitVec 4) (x3 : BitVec 8) (x4 : BitVec 8) : litBits (0#1 ++ bit1 x1 ++ x2 ++ x3 ++ x4 ++ 0#10) 0 10 = 0#10 := by
  ext i hi
  simp only [litBits, BitVec.getElem_extractLsb', BitVec.getLsbD_append]
  interval_cases i <;> simp [BitVec.getLsbD_eq_getElem]

@[simp] theorem lit_z1_b1_v4_v8_v8_z10_10 (x1 : Bool) (x2 : BitVec 4) (x3 : BitVec 8) (x4 : BitVec 8) : litBits (0#1 ++ bit1 x1 ++ x2 ++ x3 ++ x4 ++ 0#10) 10 8 = x4 := by
  ext i hi
  simp only [litBits, BitVec.getElem_extractLsb', BitVec.getLsbD_append]
  interval_cases i <;> simp [BitVec.getLsbD_eq_getElem]

@[simp] theorem lit_z1_b1_v4_v8_v8_z10_18 (x1 : Bool) (x2 : BitVec 4) (x3 : BitVec 8) (x4 : BitVec 8) : litBits (0#1 ++ bit1 x1 ++ x2 ++ x3 ++ x4 ++ 0#10) 18 8 = x3 := by
  ext i hi
  simp only [litBits, BitVec.getElem_extractLsb', BitVec.getLsbD_append]
  interval_cases i <;> simp [BitVec.getLsbD_eq_getElem]

@[simp] theorem lit_z1_b1_v4_v8_v8_z10_26 (x1 : Bool) (x2 : BitVec 4) (x3 : BitVec 8) (x4 : BitVec 8) : litBits (0#1 ++ bit1 x1 ++ x2 ++ x3 ++ x4 ++ 0#10) 26 4 = x2 := by
  ext i hi
  simp only [litBits, BitVec.getElem_extractLsb', BitVec.getLsbD_append]
  interval_cases i <;> simp [BitVec.getLsbD_eq_getElem]

@[simp] theorem lit_z1_b1_v4_v8_v8_z10_30 (x1 : Bool) (x2 : BitVec 4) (x3 : BitVec 8) (x4 : BitVec 8) : litBits (0#1 ++ bit1 x1 ++ x2 ++ x3 ++ x4 ++ 0#10) 30 1 = bit1 x1 := by
  ext i hi
  simp only [litBits, BitVec.getElem_extractLsb', BitVec.getLsbD_append]
  interval_cases i <;> simp [BitVec.getLsbD_eq_getElem]

@[simp] theorem lit_z1_b1_v4_v8_v8_z10_31 (x1 : Bool) (x2 : BitVec 4) (x3 : BitVec 8) (x4 : BitVec 8) : litBits (0#1 ++ bit1 x1 ++ x2 ++ x3 ++ x4 ++ 0#10) 31 1 = 0#1 := by
  ext i hi
  simp only [litBits, BitVec.getElem_extractLsb', BitVec.getLsbD_append]
  interval_cases i <;> simp [BitVec.getLsbD_eq_getElem]

@[simp] theorem lit_z11_v3_z18_0 (x1 : BitVec 3) : litBits (0#11 ++ x1 ++ 0#18) 0 18 = 0#18 := by
  ext i hi
  simp only [litBits, BitVec.getElem_extractLsb', BitVec.getLsbD_append]
  interval_cases i <;> simp [BitVec.getLsbD_eq_getElem]

@[simp] theorem lit_z11_v3_z18_18 (x1 : BitVec 3) : litBits (0#11 ++ x1 ++ 0#18) 18 3 = x1 := by
  ext i hi
  simp only [litBits, BitVec.getElem_extractLsb', BitVec.getLsbD_append]
  interval_cases i <;> simp [BitVec.getLsbD_eq_getElem]

@[simp] theorem lit_z11_v3_z18_21 (x1 : BitVec 3) : litBits (0#11 ++ x1 ++ 0#18) 21 1 = 0#1 := by
  ext i hi
  simp only [litBits, BitVec.getElem_extractLsb', BitVec.getLsbD_append]
  interval_cases i <;> simp [BitVec.getLsbD_eq_getElem]

@[simp] theorem lit_z11_v3_z18_22 (x1 : BitVec 3) : litBits (0#11 ++ x1 ++ 0#18) 22 10 = 0#10 := by
  ext i hi
  simp only [litBits, BitVec.getElem_extractLsb', BitVec.getLsbD_append]
  interval_cases i <;> simp [BitVec.getLsbD_eq_getElem]

@[simp] theorem lit_z16_v16_0 (x1 : BitVec 16) : litBits (0#16 ++ x1) 0 16 = x1 := by
  ext i hi
  simp only [litBits, BitVec.getElem_extractLsb', BitVec.getLsbD_append]
  interval_cases i <;> simp [BitVec.getLsbD_eq_getElem]

@[simp] theorem lit_z16_v16_16 (x1 : BitVec 16) : litBits (0#16 ++ x1) 16 16 = 0#16 := by
  ext i hi
  simp only [litBits, BitVec.getElem_extractLsb', BitVec.getLsbD_append]
  interval_cases i <;> simp [BitVec.getLsbD_eq_getElem]

@[simp] theorem lit_z16_v8_v8_0 (x1 : BitVec 8) (x2 : BitVec 8) : litBits (0#16 ++ x1 ++ x2) 0 8 = x2 := by
  ext i hi
  simp only [litBits, BitVec.getElem_extractLsb', BitVec.getLsbD_append]
  interval_cases i <;> simp [BitVec.getLsbD_eq_getElem]

@[simp] theorem lit_z16_v8_v8_8 (x1 : BitVec 8) (x2 : BitVec 8) : litBits (0#16 ++ x1 ++ x2) 8 8 = x1 := by
  ext i hi
  simp only [litBits, BitVec.getElem_extractLsb', BitVec.getLsbD_append]
  interval_cases i <;> simp [BitVec.getLsbD_eq_getElem]

@[simp] theorem lit_z16_v8_v8_16 (x1 : BitVec 8) (x2 : BitVec 8) : litBits (0#16 ++ x1 ++ x2) 16 16 = 0#16 := by
  ext i hi
  simp only [litBits, BitVec.getElem_extractLsb', BitVec.getLsbD_append]
  interval_cases i <;> simp [BitVec.getLsbD_eq_getElem]

@[simp] theorem lit_z20_v4_v8_0 (x1 : BitVec 4) (x2 : BitVec 8) : litBits (0#20 ++ x1 ++ x2) 0 8 = x2 := by
  ext i hi
  simp only [litBits, BitVec.getElem_extractLsb', BitVec.getLsbD_append]
  interval_cases i <;> simp [BitVec.getLsbD_eq_getElem]

@[simp] theorem lit_z20_v4_v8_8 (x1 : BitVec 4) (x2 : BitVec 8) : litBits (0#20 ++ x1 ++ x2) 8 4 = x1 := by
  ext i hi
  simp only [litBits, BitVec.getElem_extractLsb', BitVec.getLsbD_append]
  interval_cases i <;> simp [BitVec.getLsbD_eq_getElem]

@[simp] theorem lit_z20_v4_v8_12 (x1 : BitVec 4) (x2 : BitVec 8) : litBits (0#20 ++ x1 ++ x2) 12 20 = 0#20 := by
  ext i hi
  simp only [litBits, BitVec.getElem_extractLsb', BitVec.getLsbD_append]
  interval_cases i <;> simp [BitVec.getLsbD_eq_getElem]

@[simp] theorem lit_z20_v2_v5_v5_0 (x1 : BitVec 2) (x2 : BitVec 5) (x3 : BitVec 5) : litBits (0#20 ++ x1 ++ x2 ++ x3) 0 5 = x3 := by
  ext i hi
  simp only [litBits, BitVec.getElem_extractLsb', BitVec.getLsbD_append]
  interval_cases i <;> simp [BitVec.getLsbD_eq_getElem]

@[simp] theorem lit_z20_v2_v5_v5_5 (x1 : BitVec 2) (x2 : BitVec 5) (x3 : BitVec 5) : litBits (0#20 ++ x1 ++ x2 ++ x3) 5 5 = x2 := by
  ext i hi
  simp only [litBits, BitVec.getElem_extractLsb', BitVec.getLsbD_append]
  interval_cases i <;> simp [BitVec.getLsbD_eq_getElem]

@[simp] theorem lit_z20_v2_v5_v5_10 (x1 : BitVec 2) (x2 : BitVec 5) (x3 : BitVec 5) : litBits (0#20 ++ x1 ++ x2 ++ x3) 10 2 = x1 := by
  ext i hi
  simp only [litBits, BitVec.getElem_extractLsb', BitVec.getLsbD_append]
  interval_cases i <;> simp [BitVec.getLsbD_eq_getElem]

@[simp] theorem lit_z20_v2_v5_v5_12 (x1 : BitVec 2) (x2 : BitVec 5) (x3 : BitVec 5) : litBits (0#20 ++ x1 ++ x2 ++ x3) 12 20 = 0#20 := by
  ext i hi
  simp only [litBits, BitVec.getElem_extractLsb', BitVec.getLsbD_append]
  interval_cases i <;> simp [BitVec.getLsbD_eq_getElem]

@[simp] theorem lit_z22_v2_v4_z4_0 (x1 : BitVec 2) (x2 : BitVec 4) : litBits (0#22 ++ x1 ++ x2 ++ 0#4) 0 4 = 0#4 := by
  ext i hi
  simp only [litBits, BitVec.getElem_extractLsb', BitVec.getLsbD_append]
  interval_cases i <;> simp [BitVec.getLsbD_eq_getElem]

@[simp] theorem lit_z22_v2_v4_z4_4 (x1 : BitVec 2) (x2 : BitVec 4) : litBits (0#22 ++ x1 ++ x2 ++ 0#4) 4 4 = x2 := by
  ext i hi
  simp only [litBits, BitVec.getElem_extractLsb', BitVec.getLsbD_append]
  interval_cases i <;> simp [BitVec.getLsbD_eq_getElem]

@[simp] theorem lit_z22_v2_v4_z4_8 (x1 : BitVec 2) (x2 : BitVec 4) : litBits (0#22 ++ x1 ++ x2 ++ 0#4) 8 2 = x1 := by
  ext i hi
  simp only [litBits, BitVec.getElem_extractLsb', BitVec.getLsbD_append]
  interval_cases i <;> simp [BitVec.getLsbD_eq_getElem]

@[simp] theorem lit_z22_v2_v4_z4_10 (x1 : BitVec 2) (x2 : BitVec 4) : litBits (0#22 ++ x1 ++ x2 ++ 0#4) 10 22 = 0#22 := by
  ext i hi
  simp only [litBits, BitVec.getElem_extractLsb', BitVec.getLsbD_append]
  interval_cases i <;> simp [BitVec.getLsbD_eq_getElem]

@[simp] theorem lit_z23_b1_v8_0 (x1 : Bool) (x2 : BitVec 8) : litBits (0#23 ++ bit1 x1 ++ x2) 0 8 = x2 := by
  ext i hi
  simp only [litBits, BitVec.getElem_extractLsb', BitVec.getLsbD_append]
  interval_cases i <;> simp [BitVec.getLsbD_eq_getElem]

@[simp] theorem lit_z23_b1_v8_8 (x1 : Bool) (x2 : BitVec 8) : litBits (0#23 ++ bit1 x1 ++ x2) 8 1 = bit1 x1 := by
  ext i hi
  simp only [litBits, BitVec.getElem_extractLsb', BitVec.getLsbD_append]
  interval_cases i <;> simp [BitVec.getLsbD_eq_getElem]

@[simp] theorem lit_z23_b1_v8_9 (x1 : Bool) (x2 : BitVec 8) : litBits (0#23 ++ bit1 x1 ++ x2) 9 23 = 0#23 := by
  ext i hi
  simp only [litBits, BitVec.getElem_extractLsb', BitVec.getLsbD_append]
  interval_cases i <;> simp [BitVec.getLsbD_eq_getElem]

@[simp] theorem lit_z24_v8_0 (x1 : BitVec 8) : litBits (0#24 ++ x1) 0 8 = x1 := by
  ext i hi
  simp only [litBits, BitVec.getElem_extractLsb', BitVec.getLsbD_append]
  interval_cases i <;> simp [BitVec.getLsbD_eq_getElem]

@[simp] theorem lit_z24_v8_8 (x1 : BitVec 8) : litBits (0#24 ++ x1) 8 24 = 0#24 := by
  ext i hi
  simp only [litBits, BitVec.getElem_extractLsb', BitVec.getLsbD_append]
  interval_cases i <;> simp [BitVec.getLsbD_eq_getElem]

@[simp] theorem lit_z24_v2_b1_v5_0 (x1 : BitVec 2) (x2 : Bool) (x3 : BitVec 5) : litBits (0#24 ++ x1 ++ bit1 x2 ++ x3) 0 5 = x3 := by
  ext i hi
  simp only [litBits, BitVec.getElem_extractLsb', BitVec.getLsbD_append]
  interval_cases i <;> simp [BitVec.getLsbD_eq_getElem]

@[simp] theorem lit_z24_v2_b1_v5_5 (x1 : BitVec 2) (x2 : Bool) (x3 : BitVec 5) : litBits (0#24 ++ x1 ++ bit1 x2 ++ x3) 5 1 = bit1 x2 := by
  ext i hi
  simp only [litBits, BitVec.getElem_extractLsb', BitVec.getLsbD_append]
  interval_cases i <;> simp [BitVec.getLsbD_eq_getElem]

@[simp] theorem lit_z24_v2_b1_v5_6 (x1 : BitVec 2) (x2 : Bool) (x3 : BitVec 5) : litBits (0#24 ++ x1 ++ bit1 x2 ++ x3) 6 2 = x1 := by
  ext i hi
  simp only [litBits, BitVec.getElem_extractLsb', BitVec.getLsbD_append]
  interval_cases i <;> simp [BitVec.getLsbD_eq_getElem]

@[simp] theorem lit_z24_v2_b1_v5_8 (x1 : BitVec 2) (x2 : Bool) (x3 : BitVec 5) : litBits (0#24 ++ x1 ++ bit1 x2 ++ x3) 8 24 = 0#24 := by
  ext i hi
  simp only [litBits, BitVec.getElem_extractLsb', BitVec.getLsbD_append]
  interval_cases i <;> simp [BitVec.getLsbD_eq_getElem]

@[simp] theorem lit_z24_v2_z3_v3_0 (x1 : BitVec 2) (x3 : BitVec 3) : litBits (0#24 ++ x1 ++ 0#3 ++ x3) 0 3 = x3 := by
  ext i hi
  simp only [litBits, BitVec.getElem_extractLsb', BitVec.getLsbD_append]
  interval_cases i <;> simp [BitVec.getLsbD_eq_getElem]

@[simp] theorem lit_z24_v2_z3_v3_3 (x1 : BitVec 2) (x3 : BitVec 3) : litBits (0#24 ++ x1 ++ 0#3 ++ x3) 3 3 = 0#3 := by
  ext i hi
  simp only [litBits, BitVec.getElem_extractLsb', BitVec.getLsbD_append]
  interval_cases i <;> simp [BitVec.getLsbD_eq_getElem]

@[simp] theorem lit_z24_v2_z3_v3_6 (x1 : BitVec 2) (x3 : BitVec 3) : litBits (0#24 ++ x1 ++ 0#3 ++ x3) 6 2 = x1 := by
  ext i hi
  simp only [litBits, BitVec.getElem_extractLsb', BitVec.getLsbD_append]
  interval_cases i <;> simp [BitVec.getLsbD_eq_getElem]

@[simp] theorem lit_z24_v2_z3_v3_8 (x1 : BitVec 2) (x3 : BitVec 3) : litBits (0#24 ++ x1 ++ 0#3 ++ x3) 8 24 = 0#24 := by
  ext i hi
  simp only [litBits, BitVec.getElem_extractLsb', BitVec.getLsbD_append]
  interval_cases i <;> simp [BitVec.getLsbD_eq_getElem]

@[simp] theorem lit_z25_v2_v5_0 (x1 : BitVec 2) (x2 : BitVec 5) : litBits (0#25 ++ x1 ++ x2) 0 5 = x2 := by
  ext i hi
  simp only [litBits, BitVec.getElem_extractLsb', BitVec.getLsbD_append]
  interval_cases i <;> simp [BitVec.getLsbD_eq_getElem]

@[simp] theorem lit_z25_v2_v5_5 (x1 : BitVec 2) (x2 : BitVec 5) : litBits (0#25 ++ x1 ++ x2) 5 2 = x1 := by
  ext i hi
  simp only [litBits, BitVec.getElem_extractLsb', BitVec.getLsbD_append]
  interval_cases i <;> simp [BitVec.getLsbD_eq_getElem]

@[simp] theorem lit_z25_v2_v5_7 (x1 : BitVec 2) (x2 : BitVec 5) : litBits (0#25 ++ x1 ++ x2) 7 25 = 0#25 := by
  ext i hi
  simp only [litBits, BitVec.getElem_extractLsb', BitVec.getLsbD_append]
  interval_cases i <;> simp [BitVec.getLsbD_eq_getElem]

@[simp] theorem lit_z27_v5_0 (x1 : BitVec 5) : litBits (0#27 ++ x1) 0 5 = x1 := by
  ext i hi
  simp only [litBits, BitVec.getElem_extractLsb', BitVec.getLsbD_append]
  interval_cases i <;> simp [BitVec.getLsbD_eq_getElem]

@[simp] theorem lit_z27_v5_5 (x1 : BitVec 5) : litBits (0#27 ++ x1) 5 27 = 0#27 := by
  ext i hi
  simp only [litBits, BitVec.getElem_extractLsb', BitVec.getLsbD_append]
  interval_cases i <;> simp [BitVec.getLsbD_eq_getElem]

@[simp] theorem lit_z29_v3_0 (x1 : BitVec 3) : litBits (0#29 ++ x1) 0 3 = x1 := by
  ext i hi
  simp only [litBits, BitVec.getElem_extractLsb', BitVec.getLsbD_append]
  interval_cases i <;> simp [BitVec.getLsbD_eq_getElem]

@[simp] theorem lit_z29_v3_3 (x1 : BitVec 3) : litBits (0#29 ++ x1) 3 29 = 0#29 := by
  ext i hi
  simp only [litBits, BitVec.getElem_extractLsb', BitVec.getLsbD_append]
  interval_cases i <;> simp [BitVec.getLsbD_eq_getElem]

@[simp] theorem lit_z3_v7_z22_0 (x1 : BitVec 7) : litBits (0#3 ++ x1 ++ 0#22) 0 22 = 0#22 := by
  ext i hi
  simp only [litBits, BitVec.getElem_extractLsb', BitVec.getLsbD_append]
  interval_cases i <;> simp [BitVec.getLsbD_eq_getElem]

@[simp] theorem lit_z3_v7_z22_22 (x1 : BitVec 7) : litBits (0#3 ++ x1 ++ 0#22) 22 7 = x1 := by
  ext i hi
  simp only [litBits, BitVec.getElem_extractLsb', BitVec.getLsbD_append]
  interval_cases i <;> simp [BitVec.getLsbD_eq_getElem]

@[simp] theorem lit_z3_v7_z22_29 (x1 : BitVec 7) : litBits (0#3 ++ x1 ++ 0#22) 29 3 = 0#3 := by
  ext i hi
  simp only [litBits, BitVec.getElem_extractLsb', BitVec.getLsbD_append]
  interval_cases i <;> simp [BitVec.getLsbD_eq_getElem]

@[simp] theorem lit_z3_v7_v2_v8_z12_0 (x1 : BitVec 7) (x2 : BitVec 2) (x3 : BitVec 8) : litBits (0#3 ++ x1 ++ x2 ++ x3 ++ 0#12) 0 12 = 0#12 := by
  ext i hi
  simp only [litBits, BitVec.getElem_extractLsb', BitVec.getLsbD_append]
  interval_cases i <;> simp [BitVec.getLsbD_eq_getElem]

@[simp] theorem lit_z3_v7_v2_v8_z12_12 (x1 : BitVec 7) (x2 : BitVec 2) (x3 : BitVec 8) : litBits (0#3 ++ x1 ++ x2 ++ x3 ++ 0#12) 12 8 = x3 := by
  ext i hi
  simp only [litBits, BitVec.getElem_extractLsb', BitVec.getLsbD_append]
  interval_cases i <;> simp [BitVec.getLsbD_eq_getElem]

@[simp] theorem lit_z3_v7_v2_v8_z12_20 (x1 : BitVec 7) (x2 : BitVec 2) (x3 : BitVec 8) : litBits (0#3 ++ x1 ++ x2 ++ x3 ++ 0#12) 20 2 = x2 := by
  ext i hi
  simp only [litBits, BitVec.getElem_extractLsb', BitVec.getLsbD_append]
  interval_cases i <;> simp [BitVec.getLsbD_eq_getElem]

@[simp] theorem lit_z3_v7_v2_v8_z12_22 (x1 : BitVec 7) (x2 : BitVec 2) (x3 : BitVec 8) : litBits (0#3 ++ x1 ++ x2 ++ x3 ++ 0#12) 22 7 = x1 := by
  ext i hi
  simp only [litBits, BitVec.getElem_extractLsb', BitVec.getLsbD_append]
  interval_cases i <;> simp [BitVec.getLsbD_eq_getElem]

@[simp] theorem lit_z3_v7_v2_v8_z12_29 (x1 : BitVec 7) (x2 : BitVec 2) (x3 : BitVec 8) : litBits (0#3 ++ x1 ++ x2 ++ x3 ++ 0#12) 29 3 = 0#3 := by
  ext i hi
  simp only [litBits, BitVec.getElem_extractLsb', BitVec.getLsbD_append]
  interval_cases i <;> simp [BitVec.getLsbD_eq_getElem]

@[simp] theorem lit_z30_b1_b1_0 (x1 : Bool) (x2 : Bool) : litBits (0#30 ++ bit1 x1 ++ bit1 x2) 0 1 = bit1 x2 := by
  ext i hi
  simp only [litBits, BitVec.getElem_extractLsb', BitVec.getLsbD_append]
  interval_cases i <;> simp [BitVec.getLsbD_eq_getElem]

@[simp] theorem lit_z30_b1_b1_1 (x1 : Bool) (x2 : Bool) : litBits (0#30 ++ bit1 x1 ++ bit1 x2) 1 1 = bit1 x1 := by
  ext i hi
  simp only [litBits, BitVec.getElem_extractLsb', BitVec.getLsbD_append]
  interval_cases i <;> simp [BitVec.getLsbD_eq_getElem]

@[simp] theorem lit_z30_b1_b1_2 (x1 : Bool) (x2 : Bool) : litBits (0#30 ++ bit1 x1 ++ bit1 x2) 2 30 = 0#30 := by
  ext i hi
  simp only [litBits, BitVec.getElem_extractLsb', BitVec.getLsbD_append]
  interval_cases i <;> simp [BitVec.getLsbD_eq_getElem]

@[simp] theorem lit_z31_b1_0 (x1 : Bool) : litBits (0#31 ++ bit1 x1) 0 1 = bit1 x1 := by
  ext i hi
  simp only [litBits, BitVec.getElem_extractLsb', BitVec.getLsbD_append]
  interval_cases i <;> simp [BitVec.getLsbD_eq_getElem]

@[simp] theorem lit_z31_b1_1 (x1 : Bool) : litBits (0#31 ++ bit1 x1) 1 31 = 0#31 := by
  ext i hi
  simp only [litBits, BitVec.getElem_extractLsb', BitVec.getLsbD_append]
  interval_cases i <;> simp [BitVec.getLsbD_eq_getElem]

@[simp] theorem lit_b1_z27_b1_z3_0 (x0 : Bool) (x2 : Bool) : litBits (bit1 x0 ++ 0#27 ++ bit1 x2 ++ 0#3) 0 3 = 0#3 := by
  ext i hi
  simp only [litBits, BitVec.getElem_extractLsb', BitVec.getLsbD_append]
  interval_cases i <;> simp [BitVec.getLsbD_eq_getElem]

@[simp] theorem lit_b1_z27_b1_z3_3 (x0 : Bool) (x2 : Bool) : litBits (bit1 x0 ++ 0#27 ++ bit1 x2 ++ 0#3) 3 1 = bit1 x2 := by
  ext i hi
  simp only [litBits, BitVec.getElem_extractLsb', BitVec.getLsbD_append]
  interval_cases i <;> simp [BitVec.getLsbD_eq_getElem]

@[simp] theorem lit_b1_z27_b1_z3_4 (x0 : Bool) (x2 : Bool) : litBits (bit1 x0 ++ 0#27 ++ bit1 x2 ++ 0#3) 4 27 = 0#27 := by
  ext i hi
  simp only [litBits, BitVec.getElem_extractLsb', BitVec.getLsbD_append]
  interval_cases i <;> simp [BitVec.getLsbD_eq_getElem]

@[simp] theorem lit_b1_z27_b1_z3_31 (x0 : Bool) (x2 : Bool) : litBits (bit1 x0 ++ 0#27 ++ bit1 x2 ++ 0#3) 31 1 = bit1 x0 := by
  ext i hi
  simp only [litBits, BitVec.getElem_extractLsb', BitVec.getLsbD_append]
  interval_cases i <;> simp [BitVec.getLsbD_eq_getElem]

@[simp] theorem lit_v7_z25_0 (x0 : BitVec 7) : litBits (x0 ++ 0#25) 0 25 = 0#25 := by
  ext i hi
  simp only [litBits, BitVec.getElem_extractLsb', BitVec.getLsbD_append]
  interval_cases i <;> simp [BitVec.getLsbD_eq_getElem]

@[simp] theorem lit_v7_z25_25 (x0 : BitVec 7) : litBits (x0 ++ 0#25) 25 7 = x0 := by
  ext i hi
  simp only [litBits, BitVec.getElem_extractLsb', BitVec.getLsbD_append]
  interval_cases i <;> simp [BitVec.getLsbD_eq_getElem]

end Sys2Proof
end

