-- ==== Sys2Proof/Laws/PerInstr.lean ====
section
/-! SUPPORT. One law for every instruction: the word that it encodes to has the selects and the tag action of its route (Table
4.1), so that the decoder reads back where its operands come from and where its result goes. The steps of the other agents have
no word. -/

namespace Sys2Proof

/-- The word of i, where it has one, reads back as a head that is the route of i. -/
def Laws.HeadLaw.Statement (i : Instr) : Prop :=
  ∀ w l, encode i = some (w, l) → ∃ r, i.route? = some r ∧ (RawWord.ofWord w).head = .ok r

/-- An instruction whose word is the encoding of its own route obeys the law. -/
theorem Laws.HeadLaw.headOfEnc {i : Instr} {op : BitVec 8} {h : Route} {md : BitVec 2} {v : BitVec 32}
    (he : encode i = enc op h md v) (hr : i.route? = some h) : Statement i := by
  intro w l hw
  rw [he, enc, Option.some.injEq, Prod.mk.injEq] at hw
  obtain ⟨rfl, -⟩ := hw
  exact ⟨h, hr, head_encWord op h md⟩

/-- A step of another agent has no word. -/
theorem Laws.HeadLaw.headOfNone {i : Instr} (he : encode i = none) : Statement i := by
  intro w l hw
  rw [he] at hw
  cases hw

theorem Laws.HeadLaw.nop (sa sb : Src) (ta : TagAction) : Statement (.nop sa sb ta) :=
  headOfEnc rfl rfl

theorem Laws.HeadLaw.mov (r : Route) : Statement (.mov r) :=
  headOfEnc rfl rfl

theorem Laws.HeadLaw.lit (r : Route1) (kind : LitKind) (v : BitVec 32) : Statement (.lit r kind v) :=
  headOfEnc rfl rfl

theorem Laws.HeadLaw.sel (r : Route) : Statement (.sel r) :=
  headOfEnc rfl rfl

theorem Laws.HeadLaw.gate (r : Route) (sense : Bool) : Statement (.gate r sense) :=
  headOfEnc rfl rfl

theorem Laws.HeadLaw.steer (r : Route) (sense : Bool) : Statement (.steer r sense) :=
  headOfEnc rfl rfl

theorem Laws.HeadLaw.purge (r : Route1) (side : PurgeSide) (slot : BitVec 5) : Statement (.purge r side slot) :=
  headOfEnc rfl rfl

theorem Laws.HeadLaw.pack (r : Route) (w : Lane) (signed sat : Bool) : Statement (.pack r w signed sat) :=
  headOfEnc rfl rfl

theorem Laws.HeadLaw.fmts (r : Route1) (f : Fmt) : Statement (.fmts r f) :=
  headOfEnc rfl rfl

theorem Laws.HeadLaw.lin (r : Route1) (f : LinFmt) (l : LvsLit) : Statement (.lin r f l) :=
  headOfEnc rfl rfl

theorem Laws.HeadLaw.linx (r : Route1) (f : LinFmt) (l : LvsLit) : Statement (.linx r f l) :=
  headOfEnc rfl rfl

theorem Laws.HeadLaw.lint (r : Route1) (f : LinFmt) (l : LvsLit) : Statement (.lint r f l) :=
  headOfEnc rfl rfl

theorem Laws.HeadLaw.lout (r : Route1) (l : LvsLit) : Statement (.lout r l) :=
  headOfEnc rfl rfl

theorem Laws.HeadLaw.loutx (r : Route) (l : LvsLit) : Statement (.loutx r l) :=
  headOfEnc rfl rfl

theorem Laws.HeadLaw.sreg (r : Route1) (clear : Bool) (sel : SReg) : Statement (.sreg r clear sel) :=
  headOfEnc rfl rfl

theorem Laws.HeadLaw.add (r : Route) (w : Lane) (l : IntLit) : Statement (.add r w l) :=
  headOfEnc rfl rfl

theorem Laws.HeadLaw.sub (r : Route) (w : Lane) (l : IntLit) : Statement (.sub r w l) :=
  headOfEnc rfl rfl

theorem Laws.HeadLaw.mul (r : Route) (w : Lane) (l : IntLit) : Statement (.mul r w l) :=
  headOfEnc rfl rfl

theorem Laws.HeadLaw.mulh (r : Route) (w : Lane) (l : IntLit) : Statement (.mulh r w l) :=
  headOfEnc rfl rfl

theorem Laws.HeadLaw.mad (r : Route) (w : Lane) (q : BitVec 2) : Statement (.mad r w q) :=
  headOfEnc rfl rfl

theorem Laws.HeadLaw.min (r : Route) (w : Lane) (l : IntLit) : Statement (.min r w l) :=
  headOfEnc rfl rfl

theorem Laws.HeadLaw.max (r : Route) (w : Lane) (l : IntLit) : Statement (.max r w l) :=
  headOfEnc rfl rfl

theorem Laws.HeadLaw.abs (r : Route1) (w : Lane) (signed : Bool) : Statement (.abs r w signed) :=
  headOfEnc rfl rfl

theorem Laws.HeadLaw.and (r : Route) (w : Lane) (l : IntLit) : Statement (.and r w l) :=
  headOfEnc rfl rfl

theorem Laws.HeadLaw.or (r : Route) (w : Lane) (l : IntLit) : Statement (.or r w l) :=
  headOfEnc rfl rfl

theorem Laws.HeadLaw.xor (r : Route) (w : Lane) (l : IntLit) : Statement (.xor r w l) :=
  headOfEnc rfl rfl

theorem Laws.HeadLaw.andn (r : Route) (w : Lane) (l : IntLit) : Statement (.andn r w l) :=
  headOfEnc rfl rfl

theorem Laws.HeadLaw.shl (r : Route) (w : Lane) (l : IntLit) : Statement (.shl r w l) :=
  headOfEnc rfl rfl

theorem Laws.HeadLaw.shr (r : Route) (w : Lane) (l : IntLit) : Statement (.shr r w l) :=
  headOfEnc rfl rfl

theorem Laws.HeadLaw.sar (r : Route) (w : Lane) (l : IntLit) : Statement (.sar r w l) :=
  headOfEnc rfl rfl

theorem Laws.HeadLaw.rotl (r : Route) (w : Lane) (l : IntLit) : Statement (.rotl r w l) :=
  headOfEnc rfl rfl

theorem Laws.HeadLaw.popc (r : Route1) (w : Lane) (signed : Bool) : Statement (.popc r w signed) :=
  headOfEnc rfl rfl

theorem Laws.HeadLaw.clz (r : Route1) (w : Lane) (signed : Bool) : Statement (.clz r w signed) :=
  headOfEnc rfl rfl

theorem Laws.HeadLaw.ctz (r : Route1) (w : Lane) (signed : Bool) : Statement (.ctz r w signed) :=
  headOfEnc rfl rfl

theorem Laws.HeadLaw.brev (r : Route1) (w : Lane) (signed : Bool) : Statement (.brev r w signed) :=
  headOfEnc rfl rfl

theorem Laws.HeadLaw.bfx (r : Route) (w : Lane) (l : IntLit) : Statement (.bfx r w l) :=
  headOfEnc rfl rfl

theorem Laws.HeadLaw.bfi (r : Route) (w : Lane) (q : BitVec 2) : Statement (.bfi r w q) :=
  headOfEnc rfl rfl

theorem Laws.HeadLaw.cmp (r : Route) (w : Lane) (c : Cond) (l : IntLit) : Statement (.cmp r w c l) :=
  headOfEnc rfl rfl

theorem Laws.HeadLaw.lea (r : Route) (l : IntLit) : Statement (.lea r l) :=
  headOfEnc rfl rfl

theorem Laws.HeadLaw.adds (r : Route) (w : Lane) (l : IntLit) : Statement (.adds r w l) :=
  headOfEnc rfl rfl

theorem Laws.HeadLaw.subs (r : Route) (w : Lane) (l : IntLit) : Statement (.subs r w l) :=
  headOfEnc rfl rfl

theorem Laws.HeadLaw.fadd (r : Route) (f : FElem) (c : FloatCtl) : Statement (.fadd r f c) :=
  headOfEnc rfl rfl

theorem Laws.HeadLaw.fsub (r : Route) (f : FElem) (c : FloatCtl) : Statement (.fsub r f c) :=
  headOfEnc rfl rfl

theorem Laws.HeadLaw.fmul (r : Route) (f : FElem) (c : FloatCtl) : Statement (.fmul r f c) :=
  headOfEnc rfl rfl

theorem Laws.HeadLaw.ffma (r : Route) (f : FElem) (q : BitVec 2) : Statement (.ffma r f q) :=
  headOfEnc rfl rfl

theorem Laws.HeadLaw.fmin (r : Route) (f : FElem) : Statement (.fmin r f) :=
  headOfEnc rfl rfl

theorem Laws.HeadLaw.fmax (r : Route) (f : FElem) : Statement (.fmax r f) :=
  headOfEnc rfl rfl

theorem Laws.HeadLaw.fabs (r : Route1) (f : FElem) : Statement (.fabs r f) :=
  headOfEnc rfl rfl

theorem Laws.HeadLaw.fneg (r : Route1) (f : FElem) : Statement (.fneg r f) :=
  headOfEnc rfl rfl

theorem Laws.HeadLaw.fcmp (r : Route) (f : FElem) (c : Cond) : Statement (.fcmp r f c) :=
  headOfEnc rfl rfl

theorem Laws.HeadLaw.fclass (r : Route1) (f : FClassElem) : Statement (.fclass r f) :=
  headOfEnc rfl rfl

theorem Laws.HeadLaw.frcp (r : Route1) (f : FElem) (c : FloatCtl) : Statement (.frcp r f c) :=
  headOfEnc rfl rfl

theorem Laws.HeadLaw.frsq (r : Route1) (f : FElem) (c : FloatCtl) : Statement (.frsq r f c) :=
  headOfEnc rfl rfl

theorem Laws.HeadLaw.fsqrt (r : Route1) (f : FElem) (c : FloatCtl) : Statement (.fsqrt r f c) :=
  headOfEnc rfl rfl

theorem Laws.HeadLaw.fexp2 (r : Route1) (f : FElem) (c : FloatCtl) : Statement (.fexp2 r f c) :=
  headOfEnc rfl rfl

theorem Laws.HeadLaw.flog2 (r : Route1) (f : FElem) (c : FloatCtl) : Statement (.flog2 r f c) :=
  headOfEnc rfl rfl

theorem Laws.HeadLaw.fsin (r : Route1) (f : FElem) (c : FloatCtl) : Statement (.fsin r f c) :=
  headOfEnc rfl rfl

theorem Laws.HeadLaw.fcos (r : Route1) (f : FElem) (c : FloatCtl) : Statement (.fcos r f c) :=
  headOfEnc rfl rfl

theorem Laws.HeadLaw.ftanh (r : Route1) (f : FElem) (c : FloatCtl) : Statement (.ftanh r f c) :=
  headOfEnc rfl rfl

theorem Laws.HeadLaw.fscale (r : Route) (f : FElem) (c : FloatCtl) : Statement (.fscale r f c) :=
  headOfEnc rfl rfl

theorem Laws.HeadLaw.fdot (r : Route) (f : FElem4) (c : FloatCtl) : Statement (.fdot r f c) :=
  headOfEnc rfl rfl

theorem Laws.HeadLaw.fsum (r : Route) (f : FElem4) (c : FloatCtl) : Statement (.fsum r f c) :=
  headOfEnc rfl rfl

theorem Laws.HeadLaw.cvt (r : Route) (l : CvtLit) : Statement (.cvt r l) :=
  headOfEnc rfl rfl

theorem Laws.HeadLaw.cvti (r : Route) (l : CvtLit) : Statement (.cvti r l) :=
  headOfEnc rfl rfl

theorem Laws.HeadLaw.cvtf (r : Route) (l : CvtLit) : Statement (.cvtf r l) :=
  headOfEnc rfl rfl

theorem Laws.HeadLaw.qpack (r : Route1) (f : FElem) (type : BitVec 2) (rnd : Rnd) : Statement (.qpack r f type rnd) :=
  headOfEnc rfl rfl

theorem Laws.HeadLaw.qunpk (r : Route1) (f : FElem) (n : BitVec 2) (j0 : BitVec 4) : Statement (.qunpk r f n j0) :=
  headOfEnc rfl rfl

theorem Laws.HeadLaw.ld (r : Route) (n : Size) (rfmt : Fmt) (sext acq : Bool) (m : MemCtl) : Statement (.ld r n rfmt sext acq m) :=
  headOfEnc rfl rfl

theorem Laws.HeadLaw.st (r : Route) (n : Size) (rel : Bool) (m : MemCtl) : Statement (.st r n rel m) :=
  headOfEnc rfl rfl

theorem Laws.HeadLaw.ldb (r : Route) (nb : BitVec 4) (split acq : Bool) (m : MemCtl) : Statement (.ldb r nb split acq m) :=
  headOfEnc rfl rfl

theorem Laws.HeadLaw.stb (r : Route2) (ds : BitVec 3) (split rel : Bool) (m : MemCtl) : Statement (.stb r ds split rel m) :=
  headOfEnc rfl rfl

theorem Laws.HeadLaw.ldf (r : Route) (n : Size) (tmo : BitVec 4) (rfmt : Fmt) (sext acq : Bool) (m : MemCtl) : Statement (.ldf r n tmo rfmt sext acq m) :=
  headOfEnc rfl rfl

theorem Laws.HeadLaw.stf (r : Route) (n : Size) (rel : Bool) (m : MemCtl) : Statement (.stf r n rel m) :=
  headOfEnc rfl rfl

theorem Laws.HeadLaw.sete (r : Route) (n : Size) (rel : Bool) (m : MemCtl) : Statement (.sete r n rel m) :=
  headOfEnc rfl rfl

theorem Laws.HeadLaw.pref (r : Route) (level : PrefLevel) (m : MemCtl) : Statement (.pref r level m) :=
  headOfEnc rfl rfl

theorem Laws.HeadLaw.atom (r : Route) (n : Size) (aop : AtomOp) (ord : Ord3) (m : MemCtl) : Statement (.atom r n aop ord m) :=
  headOfEnc rfl rfl

theorem Laws.HeadLaw.cas (r : Route) (n : Size) (q : BitVec 2) (ord : Ord3) (m : MemCtl) : Statement (.cas r n q ord m) :=
  headOfEnc rfl rfl

theorem Laws.HeadLaw.ll (r : Route) (n : Size) (rfmt : Fmt) (sext acq : Bool) (m : MemCtl) : Statement (.ll r n rfmt sext acq m) :=
  headOfEnc rfl rfl

theorem Laws.HeadLaw.sc (r : Route) (n : Size) (rel : Bool) (m : MemCtl) : Statement (.sc r n rel m) :=
  headOfEnc rfl rfl

theorem Laws.HeadLaw.fence (r : Route) (kind : FenceKind) (scope : Scope) : Statement (.fence r kind scope) :=
  headOfEnc rfl rfl

theorem Laws.HeadLaw.clrp (r : Route) (copy rel : Bool) (m : MemCtl) : Statement (.clrp r copy rel m) :=
  headOfEnc rfl rfl

theorem Laws.HeadLaw.copy (r : Route1) (m : MemCtl) : Statement (.copy r m) :=
  headOfEnc rfl rfl

theorem Laws.HeadLaw.waitt (sa : Src) (d0 : Dst) (reg : BitVec 7) : Statement (.waitt sa d0 reg) :=
  headOfEnc rfl rfl

theorem Laws.HeadLaw.lds (r : Route) (rfmt : Fmt) (acq : Bool) (m : MemCtl) : Statement (.lds r rfmt acq m) :=
  headOfEnc rfl rfl

theorem Laws.HeadLaw.sts (r : Route2) (rel : Bool) (m : MemCtl) : Statement (.sts r rel m) :=
  headOfEnc rfl rfl

theorem Laws.HeadLaw.br (sa sb : Src) (tblk fblk : BitVec 8) : Statement (.br sa sb tblk fblk) :=
  headOfEnc rfl rfl

theorem Laws.HeadLaw.jmp (sa : Src) (blk : BitVec 8) : Statement (.jmp sa blk) :=
  headOfEnc rfl rfl

theorem Laws.HeadLaw.jmpi (sa : Src) : Statement (.jmpi sa) :=
  headOfEnc rfl rfl

theorem Laws.HeadLaw.exit (sa : Src) : Statement (.exit sa) :=
  headOfEnc rfl rfl

theorem Laws.HeadLaw.bar (r : Route1) (n : BitVec 5) : Statement (.bar r n) :=
  headOfEnc rfl rfl

theorem Laws.HeadLaw.bara (r : Route1) (n : BitVec 5) : Statement (.bara r n) :=
  headOfEnc rfl rfl

theorem Laws.HeadLaw.barw (r : Route1) (n : BitVec 5) : Statement (.barw r n) :=
  headOfEnc rfl rfl

theorem Laws.HeadLaw.yield (r : Route1) : Statement (.yield r) :=
  headOfEnc rfl rfl

theorem Laws.HeadLaw.sleep (r : Route1) (abs : Bool) : Statement (.sleep r abs) :=
  headOfEnc rfl rfl

theorem Laws.HeadLaw.recruit (r : Route2) (reg : BitVec 7) (fop : FoldOp) (hblk : BitVec 8) : Statement (.recruit r reg fop hblk) :=
  headOfEnc rfl rfl

theorem Laws.HeadLaw.hjoin (r : Route1) (mreg : BitVec 7) : Statement (.hjoin r mreg) :=
  headOfEnc rfl rfl

theorem Laws.HeadLaw.hred (r : Route1) (float : Bool) : Statement (.hred r float) :=
  headOfEnc rfl rfl

theorem Laws.HeadLaw.hend (r : Route1) : Statement (.hend r) :=
  headOfEnc rfl rfl

theorem Laws.HeadLaw.waitly (r : Route1) : Statement (.waitly r) :=
  headOfEnc rfl rfl

theorem Laws.HeadLaw.lyrel (r : Route1) : Statement (.lyrel r) :=
  headOfEnc rfl rfl

theorem Laws.HeadLaw.trap (sa : Src) (code : BitVec 16) : Statement (.trap sa code) :=
  headOfEnc rfl rfl

theorem Laws.HeadLaw.trprep (sa sb : Src) (ta : TagAction) (kind : RepairKind) : Statement (.trprep sa sb ta kind) :=
  headOfEnc rfl rfl

theorem Laws.HeadLaw.trret (r : Route1) (action : BitVec 4) (blk : BitVec 8) : Statement (.trret r action blk) :=
  headOfEnc rfl rfl

theorem Laws.HeadLaw.bkpt (sa : Src) (code : BitVec 16) : Statement (.bkpt sa code) :=
  headOfEnc rfl rfl

theorem Laws.HeadLaw.mma (sa sb : Src) (mode : BitVec 2) (sub : BitVec 2) : Statement (.mma sa sb mode sub) :=
  headOfEnc rfl rfl

theorem Laws.HeadLaw.mmarm (r : Route1) (clr : Bool) (ncol : BitVec 4) (wrows rowbase : BitVec 8) : Statement (.mmarm r clr ncol wrows rowbase) :=
  headOfEnc rfl rfl

theorem Laws.HeadLaw.accrd (r : Route1) : Statement (.accrd r) :=
  headOfEnc rfl rfl

theorem Laws.HeadLaw.accclr (r : Route1) (clrf : Bool) (nrow : BitVec 8) : Statement (.accclr r clrf nrow) :=
  headOfEnc rfl rfl

theorem Laws.HeadLaw.accdr (r : Route) (out : AccOut) (r3 r2 : Dst) : Statement (.accdr r out r3 r2) :=
  headOfEnc rfl rfl

theorem Laws.HeadLaw.red (r : Route) (md : BitVec 2) (l : RedLit) : Statement (.red r md l) :=
  headOfEnc rfl rfl

theorem Laws.HeadLaw.scan (r : Route) (md : BitVec 2) (l : RedLit) : Statement (.scan r md l) :=
  headOfEnc rfl rfl

theorem Laws.HeadLaw.bkt (r : Route2) (mode : BktMode) (signed : Bool) (ns : BitVec 5) : Statement (.bkt r mode signed ns) :=
  headOfEnc rfl rfl

theorem Laws.HeadLaw.kmerge (r : Route) (key32 desc signed : Bool) : Statement (.kmerge r key32 desc signed) :=
  headOfEnc rfl rfl

theorem Laws.HeadLaw.ksel (r : Route) (key32 desc signed : Bool) : Statement (.ksel r key32 desc signed) :=
  headOfEnc rfl rfl

theorem Laws.HeadLaw.cfginv (r : Route1) (scope : InvScope) : Statement (.cfginv r scope) :=
  headOfEnc rfl rfl

theorem Laws.HeadLaw.gtime (r : Route1) (valid : Bool) : Statement (.gtime r valid) :=
  headOfEnc rfl rfl

theorem Laws.HeadLaw.pmark (r : Route1) (code : BitVec 16) : Statement (.pmark r code) :=
  headOfEnc rfl rfl

theorem Laws.HeadLaw.eosi (r : Route1) : Statement (.eosi r) :=
  headOfEnc rfl rfl

theorem Laws.HeadLaw.idiv (r : Route) (md : BitVec 2) (l : BitVec 32) : Statement (.idiv r md l) :=
  headOfEnc rfl rfl

theorem Laws.HeadLaw.irem (r : Route) (md : BitVec 2) (l : BitVec 32) : Statement (.irem r md l) :=
  headOfEnc rfl rfl

theorem Laws.HeadLaw.idivn (r : Route) (md : BitVec 2) (l : BitVec 32) : Statement (.idivn r md l) :=
  headOfEnc rfl rfl

theorem Laws.HeadLaw.iremn (r : Route) (md : BitVec 2) (l : BitVec 32) : Statement (.iremn r md l) :=
  headOfEnc rfl rfl

theorem Laws.HeadLaw.unassignedOpcode (op : BitVec 8) (r : Route) (md : BitVec 2) (l : BitVec 32) : Statement (.unassignedOpcode op r md l) :=
  headOfEnc rfl rfl

theorem Laws.HeadLaw.emulationOpcode (op : BitVec 8) (r : Route) (md : BitVec 2) (l : BitVec 32) : Statement (.emulationOpcode op r md l) :=
  headOfEnc rfl rfl

theorem Laws.HeadLaw.tokenArrive (core tile port : Nat) (handler : Bool) : Statement (.tokenArrive core tile port handler) :=
  headOfNone rfl

theorem Laws.HeadLaw.tileEosSwap (core tile : Nat) (handler : Bool) : Statement (.tileEosSwap core tile handler) :=
  headOfNone rfl

theorem Laws.HeadLaw.chooseBlock (core region : Nat) : Statement (.chooseBlock core region) :=
  headOfNone rfl

theorem Laws.HeadLaw.injectThread (core region : Nat) : Statement (.injectThread core region) :=
  headOfNone rfl

theorem Laws.HeadLaw.batchEndEos (core region : Nat) : Statement (.batchEndEos core region) :=
  headOfNone rfl

theorem Laws.HeadLaw.shadowPlaneLoad (core region : Nat) : Statement (.shadowPlaneLoad core region) :=
  headOfNone rfl

theorem Laws.HeadLaw.spinDue (core : Nat) : Statement (.spinDue core) :=
  headOfNone rfl

theorem Laws.HeadLaw.exitAtDealer (core thread : Nat) : Statement (.exitAtDealer core thread) :=
  headOfNone rfl

theorem Laws.HeadLaw.barrierWatchdog (core barrier : Nat) : Statement (.barrierWatchdog core barrier) :=
  headOfNone rfl

theorem Laws.HeadLaw.memoryReply (core access : Nat) : Statement (.memoryReply core access) :=
  headOfNone rfl

theorem Laws.HeadLaw.translationWalk (walk : Nat) : Statement (.translationWalk walk) :=
  headOfNone rfl

theorem Laws.HeadLaw.faultToken (core : Nat) : Statement (.faultToken core) :=
  headOfNone rfl

theorem Laws.HeadLaw.handlerSlotAllocate (core : Nat) : Statement (.handlerSlotAllocate core) :=
  headOfNone rfl

theorem Laws.HeadLaw.pgdoneMapped (request : Nat) : Statement (.pgdoneMapped request) :=
  headOfNone rfl

theorem Laws.HeadLaw.pgdoneDenied (request : Nat) : Statement (.pgdoneDenied request) :=
  headOfNone rfl

theorem Laws.HeadLaw.resolveRaise (core hslot : Nat) : Statement (.resolveRaise core hslot) :=
  headOfNone rfl

theorem Laws.HeadLaw.resolveRetry (core hslot : Nat) : Statement (.resolveRetry core hslot) :=
  headOfNone rfl

theorem Laws.HeadLaw.resolveRetryat (core hslot : Nat) : Statement (.resolveRetryat core hslot) :=
  headOfNone rfl

theorem Laws.HeadLaw.resolveBranch (core hslot blk : Nat) : Statement (.resolveBranch core hslot blk) :=
  headOfNone rfl

theorem Laws.HeadLaw.resolveResume (core hslot : Nat) : Statement (.resolveResume core hslot) :=
  headOfNone rfl

theorem Laws.HeadLaw.resolveExit (core hslot : Nat) : Statement (.resolveExit core hslot) :=
  headOfNone rfl

theorem Laws.HeadLaw.fstHimgWrite (v : Word) : Statement (.fstHimgWrite v) :=
  headOfNone rfl

theorem Laws.HeadLaw.parkLimitExpiry (team hand : Nat) : Statement (.parkLimitExpiry team hand) :=
  headOfNone rfl

theorem Laws.HeadLaw.dlrParklimWrite (v : Word) : Statement (.dlrParklimWrite v) :=
  headOfNone rfl

theorem Laws.HeadLaw.swapOut (team : Nat) : Statement (.swapOut team) :=
  headOfNone rfl

theorem Laws.HeadLaw.swapWithdraw (team : Nat) : Statement (.swapWithdraw team) :=
  headOfNone rfl

theorem Laws.HeadLaw.teamReadmit (team : Nat) : Statement (.teamReadmit team) :=
  headOfNone rfl

theorem Laws.HeadLaw.readmitEvent (team : Nat) : Statement (.readmitEvent team) :=
  headOfNone rfl

theorem Laws.HeadLaw.dlrPreempt (die : Nat) : Statement (.dlrPreempt die) :=
  headOfNone rfl

theorem Laws.HeadLaw.preemptQuiesce (die : Nat) : Statement (.preemptQuiesce die) :=
  headOfNone rfl

theorem Laws.HeadLaw.preemptBoundExpiry (die : Nat) : Statement (.preemptBoundExpiry die) :=
  headOfNone rfl

theorem Laws.HeadLaw.dlrRestore (die : Nat) : Statement (.dlrRestore die) :=
  headOfNone rfl

theorem Laws.HeadLaw.lqDoorbell (q : Nat) (v : Word) : Statement (.lqDoorbell q v) :=
  headOfNone rfl

theorem Laws.HeadLaw.packetRead (q : Nat) : Statement (.packetRead q) :=
  headOfNone rfl

theorem Laws.HeadLaw.imageLoad (q : Nat) : Statement (.imageLoad q) :=
  headOfNone rfl

theorem Laws.HeadLaw.imageReload (image : Nat) : Statement (.imageReload image) :=
  headOfNone rfl

theorem Laws.HeadLaw.waitSignalExamine (q i : Nat) : Statement (.waitSignalExamine q i) :=
  headOfNone rfl

theorem Laws.HeadLaw.packetBegin (q : Nat) : Statement (.packetBegin q) :=
  headOfNone rfl

theorem Laws.HeadLaw.teamAdmit (die : Nat) : Statement (.teamAdmit die) :=
  headOfNone rfl

theorem Laws.HeadLaw.stealRequest (die : Nat) : Statement (.stealRequest die) :=
  headOfNone rfl

theorem Laws.HeadLaw.stealTransfer (die victim : Nat) : Statement (.stealTransfer die victim) :=
  headOfNone rfl

theorem Laws.HeadLaw.gridComplete (grid : Nat) : Statement (.gridComplete grid) :=
  headOfNone rfl

theorem Laws.HeadLaw.lqTearDrain (q : Nat) : Statement (.lqTearDrain q) :=
  headOfNone rfl

theorem Laws.HeadLaw.lqTearAbort (q : Nat) : Statement (.lqTearAbort q) :=
  headOfNone rfl

theorem Laws.HeadLaw.teardownComplete (q : Nat) : Statement (.teardownComplete q) :=
  headOfNone rfl

theorem Laws.HeadLaw.lqEnable (q : Nat) (v : Word) : Statement (.lqEnable q v) :=
  headOfNone rfl

theorem Laws.HeadLaw.lqDisable (q : Nat) (v : Word) : Statement (.lqDisable q v) :=
  headOfNone rfl

theorem Laws.HeadLaw.dstModeWrite (v : Word) : Statement (.dstModeWrite v) :=
  headOfNone rfl

theorem Laws.HeadLaw.dstSemWrite (i : Nat) (v : Word) : Statement (.dstSemWrite i v) :=
  headOfNone rfl

theorem Laws.HeadLaw.rowStep (core tile : Nat) : Statement (.rowStep core tile) :=
  headOfNone rfl

theorem Laws.HeadLaw.copyComplete (pd engine : Nat) : Statement (.copyComplete pd engine) :=
  headOfNone rfl

theorem Laws.HeadLaw.ldfTimeout (core access : Nat) : Statement (.ldfTimeout core access) :=
  headOfNone rfl

theorem Laws.HeadLaw.sleepWake (core thread : Nat) : Statement (.sleepWake core thread) :=
  headOfNone rfl

theorem Laws.HeadLaw.waittWake (core thread : Nat) : Statement (.waittWake core thread) :=
  headOfNone rfl

theorem Laws.HeadLaw.reservationAgeExpiry (core thread : Nat) : Statement (.reservationAgeExpiry core thread) :=
  headOfNone rfl

theorem Laws.HeadLaw.holdExpiry (core thread : Nat) : Statement (.holdExpiry core thread) :=
  headOfNone rfl

theorem Laws.HeadLaw.join (core thread : Nat) : Statement (.join core thread) :=
  headOfNone rfl

theorem Laws.HeadLaw.chrysalisFetchStart (ctx layer : Nat) : Statement (.chrysalisFetchStart ctx layer) :=
  headOfNone rfl

theorem Laws.HeadLaw.fetchComplete (ctx layer : Nat) : Statement (.fetchComplete ctx layer) :=
  headOfNone rfl

theorem Laws.HeadLaw.fetchFail (ctx layer : Nat) : Statement (.fetchFail ctx layer) :=
  headOfNone rfl

theorem Laws.HeadLaw.chrCtxEnable (ctx : Nat) (v : Word) : Statement (.chrCtxEnable ctx v) :=
  headOfNone rfl

theorem Laws.HeadLaw.chrCtxDisable (ctx : Nat) (v : Word) : Statement (.chrCtxDisable ctx v) :=
  headOfNone rfl

theorem Laws.HeadLaw.chrReset (v : Word) : Statement (.chrReset v) :=
  headOfNone rfl

theorem Laws.HeadLaw.readShared (line node : Nat) : Statement (.readShared line node) :=
  headOfNone rfl

theorem Laws.HeadLaw.readOwn (line node : Nat) : Statement (.readOwn line node) :=
  headOfNone rfl

theorem Laws.HeadLaw.forwardedRead (line node : Nat) : Statement (.forwardedRead line node) :=
  headOfNone rfl

theorem Laws.HeadLaw.recall (line : Nat) : Statement (.recall line) :=
  headOfNone rfl

theorem Laws.HeadLaw.writeBack (line node : Nat) : Statement (.writeBack line node) :=
  headOfNone rfl

theorem Laws.HeadLaw.evictNotice (line node : Nat) : Statement (.evictNotice line node) :=
  headOfNone rfl

theorem Laws.HeadLaw.leaseExpiry (node line : Nat) : Statement (.leaseExpiry node line) :=
  headOfNone rfl

theorem Laws.HeadLaw.hostMemrd (line state : Nat) : Statement (.hostMemrd line state) :=
  headOfNone rfl

theorem Laws.HeadLaw.hostMemwr (line : Nat) (data : LineData) (state : Nat) : Statement (.hostMemwr line data state) :=
  headOfNone rfl

theorem Laws.HeadLaw.birsp (line : Nat) (invalid : Bool) : Statement (.birsp line invalid) :=
  headOfNone rfl

theorem Laws.HeadLaw.hostSnpinv (line : Nat) : Statement (.hostSnpinv line) :=
  headOfNone rfl

theorem Laws.HeadLaw.hostSnpdata (line : Nat) : Statement (.hostSnpdata line) :=
  headOfNone rfl

theorem Laws.HeadLaw.cxlDataResponse (line : Nat) (data : BitVec 512) (poisoned : Bool) : Statement (.cxlDataResponse line data poisoned) :=
  headOfNone rfl

theorem Laws.HeadLaw.poolBisnp (line : Nat) (invalid : Bool) : Statement (.poolBisnp line invalid) :=
  headOfNone rfl

theorem Laws.HeadLaw.zelasRemoteAccess (pkg line : Nat) (kind : RemoteKind) (poisoned : Bool) (data : BitVec 512) : Statement (.zelasRemoteAccess pkg line kind poisoned data) :=
  headOfNone rfl

theorem Laws.HeadLaw.zelasInvalidate (line : Nat) : Statement (.zelasInvalidate line) :=
  headOfNone rfl

theorem Laws.HeadLaw.poolPortDown (port : Nat) : Statement (.poolPortDown port) :=
  headOfNone rfl

theorem Laws.HeadLaw.shelfLossReport (range : Nat) : Statement (.shelfLossReport range) :=
  headOfNone rfl

theorem Laws.HeadLaw.poolRequestTimeout (range : Nat) : Statement (.poolRequestTimeout range) :=
  headOfNone rfl

theorem Laws.HeadLaw.cxpPmctlWrite (i : Nat) (v : Word) : Statement (.cxpPmctlWrite i v) :=
  headOfNone rfl

theorem Laws.HeadLaw.zelasPortLoss (port : Nat) : Statement (.zelasPortLoss port) :=
  headOfNone rfl

theorem Laws.HeadLaw.linkTrainingFail (port : Nat) : Statement (.linkTrainingFail port) :=
  headOfNone rfl

theorem Laws.HeadLaw.checkFail (kind index : Nat) (pa : Nat) : Statement (.checkFail kind index pa) :=
  headOfNone rfl

theorem Laws.HeadLaw.checkRetryResult (kind index : Nat) (ok : Bool) : Statement (.checkRetryResult kind index ok) :=
  headOfNone rfl

theorem Laws.HeadLaw.hbmRefresh (stack row : Nat) : Statement (.hbmRefresh stack row) :=
  headOfNone rfl

theorem Laws.HeadLaw.scrubRead (line : Nat) (detected : Nat) : Statement (.scrubRead line detected) :=
  headOfNone rfl

theorem Laws.HeadLaw.drainingNodeReset (node : Nat) : Statement (.drainingNodeReset node) :=
  headOfNone rfl

theorem Laws.HeadLaw.fatalNodeReset (node : Nat) (dirty : List Nat) (passFails : Bool) : Statement (.fatalNodeReset node dirty passFails) :=
  headOfNone rfl

theorem Laws.HeadLaw.fatalFabricDieReset (die : Nat) : Statement (.fatalFabricDieReset die) :=
  headOfNone rfl

theorem Laws.HeadLaw.timeCompare (die : Nat) : Statement (.timeCompare die) :=
  headOfNone rfl

theorem Laws.HeadLaw.clockRestart (die : Nat) : Statement (.clockRestart die) :=
  headOfNone rfl

theorem Laws.HeadLaw.timeResync (die : Nat) : Statement (.timeResync die) :=
  headOfNone rfl

theorem Laws.HeadLaw.powerWindow (watts : Nat) : Statement (.powerWindow watts) :=
  headOfNone rfl

theorem Laws.HeadLaw.railFault (rail : Nat) : Statement (.railFault rail) :=
  headOfNone rfl

theorem Laws.HeadLaw.alarm (mask : BitVec 4) : Statement (.alarm mask) :=
  headOfNone rfl

theorem Laws.HeadLaw.fwchunk (seq payload : List Byte) : Statement (.fwchunk seq payload) :=
  headOfNone rfl

theorem Laws.HeadLaw.fwcommit (seq payload : List Byte) : Statement (.fwcommit seq payload) :=
  headOfNone rfl

theorem Laws.HeadLaw.status (seq : List Byte) : Statement (.status seq) :=
  headOfNone rfl

theorem Laws.HeadLaw.pwrlimit (seq payload : List Byte) : Statement (.pwrlimit seq payload) :=
  headOfNone rfl

theorem Laws.HeadLaw.evread (seq payload : List Byte) : Statement (.evread seq payload) :=
  headOfNone rfl

theorem Laws.HeadLaw.evack (seq payload : List Byte) : Statement (.evack seq payload) :=
  headOfNone rfl

theorem Laws.HeadLaw.reprov (seq payload : List Byte) : Statement (.reprov seq payload) :=
  headOfNone rfl

theorem Laws.HeadLaw.spdmRequest (payload : List Byte) : Statement (.spdmRequest payload) :=
  headOfNone rfl

theorem Laws.HeadLaw.stgCarveWrite (p : Nat) (v : Word) : Statement (.stgCarveWrite p v) :=
  headOfNone rfl

theorem Laws.HeadLaw.stgCarveDone (p : Nat) : Statement (.stgCarveDone p) :=
  headOfNone rfl

theorem Laws.HeadLaw.mmuRootWrite (a : Nat) (v : Word) : Statement (.mmuRootWrite a v) :=
  headOfNone rfl

theorem Laws.HeadLaw.mmuInv (v : Word) : Statement (.mmuInv v) :=
  headOfNone rfl

theorem Laws.HeadLaw.mmuPgmode (v : Word) : Statement (.mmuPgmode v) :=
  headOfNone rfl

theorem Laws.HeadLaw.dbgStop (v : Word) : Statement (.dbgStop v) :=
  headOfNone rfl

theorem Laws.HeadLaw.traceEnable (v : Word) : Statement (.traceEnable v) :=
  headOfNone rfl

theorem Laws.HeadLaw.pmcSpheadWrite (v : Word) : Statement (.pmcSpheadWrite v) :=
  headOfNone rfl

theorem Laws.HeadLaw.pmcSpillWrite (v : Word) : Statement (.pmcSpillWrite v) :=
  headOfNone rfl

theorem Laws.HeadLaw.rplCtlWrite (v : Word) : Statement (.rplCtlWrite v) :=
  headOfNone rfl

theorem Laws.HeadLaw.rplStart (v : Word) : Statement (.rplStart v) :=
  headOfNone rfl

theorem Laws.HeadLaw.registerWrite (pa size : Nat) (v : Word) : Statement (.registerWrite pa size v) :=
  headOfNone rfl

theorem Laws.HeadLaw.linkUp (port : Nat) : Statement (.linkUp port) :=
  headOfNone rfl

theorem Laws.HeadLaw.stackTemperatureCrossing (stack : Nat) (hot : Bool) : Statement (.stackTemperatureCrossing stack hot) :=
  headOfNone rfl

theorem Laws.HeadLaw.systemQueueDeliver : Statement (.systemQueueDeliver) :=
  headOfNone rfl

theorem Laws.HeadLaw.boot : Statement (.boot) :=
  headOfNone rfl

theorem Laws.HeadLaw.fwcommitWriteDone : Statement (.fwcommitWriteDone) :=
  headOfNone rfl

theorem Laws.HeadLaw.mmuInvComplete : Statement (.mmuInvComplete) :=
  headOfNone rfl

theorem Laws.HeadLaw.pgmodeComplete : Statement (.pgmodeComplete) :=
  headOfNone rfl

theorem Laws.HeadLaw.dbgSettled : Statement (.dbgSettled) :=
  headOfNone rfl

theorem Laws.HeadLaw.checkpoint : Statement (.checkpoint) :=
  headOfNone rfl

theorem Laws.HeadLaw.replayEnd : Statement (.replayEnd) :=
  headOfNone rfl

theorem Laws.HeadLaw.dbgResume : Statement (.dbgResume) :=
  headOfNone rfl

theorem Laws.HeadLaw.dbgStepFiring : Statement (.dbgStepFiring) :=
  headOfNone rfl

theorem Laws.HeadLaw.dbgStepBlock : Statement (.dbgStepBlock) :=
  headOfNone rfl

theorem Laws.HeadLaw.cfginvComplete : Statement (.cfginvComplete) :=
  headOfNone rfl

theorem Laws.HeadLaw.dbgAccrd : Statement (.dbgAccrd) :=
  headOfNone rfl

end Sys2Proof
end

