-- ==== Sys2Proof/Tests/Slice0.lean ====
section
/-! SUPPORT. The model's own tests: a word written out from the spec's encoding for every instruction that has one, terms that the
well-formedness check refuses, and for every statement that has hypotheses a concrete state and operands that meet them. -/

section

set_option Elab.async false

open Sys2Proof Sys2Proof.Machine


/-- Words and literals of the routing family, laid out by hand from Table 4.1 and the entries' encodings. -/
theorem test_decode_routing :
    decode 0x006E0014 0x0 = .ok (.nop .w0 .none .unary) ∧
    decode 0x01601800 0x0 = .ok (.mov ⟨.w0, .n0, .e0, .discard, .plain⟩) ∧
    decode 0x026E1815 0xFFFF0001 = .ok (.lit ⟨.w0, .e0, .discard⟩ .n64 0xFFFF0001) ∧
    decode 0x03601800 0x0 = .ok (.sel ⟨.w0, .n0, .e0, .discard, .plain⟩) ∧
    decode 0x04601800 0x1 = .ok (.gate ⟨.w0, .n0, .e0, .discard, .plain⟩ true) ∧
    decode 0x05601800 0x0 = .ok (.steer ⟨.w0, .n0, .e0, .discard, .plain⟩ false) ∧
    decode 0x066E1814 0x51 = .ok (.purge ⟨.w0, .e0, .discard⟩ .both 17) ∧
    decode 0x07601801 0x80000008 = .ok (.pack ⟨.w0, .n0, .e0, .discard, .plain⟩ .w32 true true) ∧
    decode 0x086E1814 0x6 = .ok (.fmts ⟨.w0, .e0, .discard⟩ .a36) := by
  repeat' apply And.intro
  all_goals rfl

/-- Words and literals of the live_values family, laid out by hand from Table 4.1 and the entries' encodings. -/
theorem test_decode_live_values :
    decode 0x106E1816 0x176050C4 = .ok (.lin ⟨.w0, .e0, .discard⟩ .bf16 ⟨93, ⟨true, 5, 3, 4⟩⟩) ∧
    decode 0x116E1815 0x176050C4 = .ok (.linx ⟨.w0, .e0, .discard⟩ .f32 ⟨93, ⟨true, 5, 3, 4⟩⟩) ∧
    decode 0x126E1814 0x176050C4 = .ok (.lint ⟨.w0, .e0, .discard⟩ .int ⟨93, ⟨true, 5, 3, 4⟩⟩) ∧
    decode 0x136E1814 0x176050C4 = .ok (.lout ⟨.w0, .e0, .discard⟩ ⟨93, ⟨true, 5, 3, 4⟩⟩) ∧
    decode 0x14601800 0x176050C4 = .ok (.loutx ⟨.w0, .n0, .e0, .discard, .plain⟩ ⟨93, ⟨true, 5, 3, 4⟩⟩) ∧
    decode 0x156E1815 0xD = .ok (.sreg ⟨.w0, .e0, .discard⟩ true .fpflags) := by
  repeat' apply And.intro
  all_goals rfl

/-- Words and literals of the integer family, laid out by hand from Table 4.1 and the entries' encodings. -/
theorem test_decode_integer :
    decode 0x20601802 0x80000000 = .ok (.add ⟨.w0, .n0, .e0, .discard, .plain⟩ .w16 ⟨true, 0⟩) ∧
    decode 0x21601802 0x80000000 = .ok (.sub ⟨.w0, .n0, .e0, .discard, .plain⟩ .w16 ⟨true, 0⟩) ∧
    decode 0x22601802 0x80000000 = .ok (.mul ⟨.w0, .n0, .e0, .discard, .plain⟩ .w16 ⟨true, 0⟩) ∧
    decode 0x23601802 0x80000000 = .ok (.mulh ⟨.w0, .n0, .e0, .discard, .plain⟩ .w16 ⟨true, 0⟩) ∧
    decode 0x24601803 0x3 = .ok (.mad ⟨.w0, .n0, .e0, .discard, .plain⟩ .w8 3) ∧
    decode 0x25601801 0x0 = .ok (.min ⟨.w0, .n0, .e0, .discard, .plain⟩ .w32 ⟨false, 0⟩) ∧
    decode 0x26601801 0x0 = .ok (.max ⟨.w0, .n0, .e0, .discard, .plain⟩ .w32 ⟨false, 0⟩) ∧
    decode 0x276E1815 0x80000000 = .ok (.abs ⟨.w0, .e0, .discard⟩ .w32 true) := by
  repeat' apply And.intro
  all_goals rfl

/-- Words and literals of the integer family, laid out by hand from Table 4.1 and the entries' encodings. -/
theorem test_decode_integer2 :
    decode 0x286C1808 0x1FFFFFFF = .ok (.and ⟨.w0, .lit, .e0, .discard, .stickb⟩ .w64 ⟨false, 0x1FFFFFFF⟩) ∧
    decode 0x296C1808 0x1FFFFFFF = .ok (.or ⟨.w0, .lit, .e0, .discard, .stickb⟩ .w64 ⟨false, 0x1FFFFFFF⟩) ∧
    decode 0x2A6C1808 0x1FFFFFFF = .ok (.xor ⟨.w0, .lit, .e0, .discard, .stickb⟩ .w64 ⟨false, 0x1FFFFFFF⟩) ∧
    decode 0x2B6C1808 0x1FFFFFFF = .ok (.andn ⟨.w0, .lit, .e0, .discard, .stickb⟩ .w64 ⟨false, 0x1FFFFFFF⟩) ∧
    decode 0x2C6C1808 0x1FFFFFFF = .ok (.shl ⟨.w0, .lit, .e0, .discard, .stickb⟩ .w64 ⟨false, 0x1FFFFFFF⟩) ∧
    decode 0x2D6C1808 0x1FFFFFFF = .ok (.shr ⟨.w0, .lit, .e0, .discard, .stickb⟩ .w64 ⟨false, 0x1FFFFFFF⟩) ∧
    decode 0x2E6C1808 0x1FFFFFFF = .ok (.sar ⟨.w0, .lit, .e0, .discard, .stickb⟩ .w64 ⟨false, 0x1FFFFFFF⟩) ∧
    decode 0x2F6C1808 0x1FFFFFFF = .ok (.rotl ⟨.w0, .lit, .e0, .discard, .stickb⟩ .w64 ⟨false, 0x1FFFFFFF⟩) ∧
    decode 0x306E1817 0x0 = .ok (.popc ⟨.w0, .e0, .discard⟩ .w8 false) ∧
    decode 0x316E1817 0x0 = .ok (.clz ⟨.w0, .e0, .discard⟩ .w8 false) ∧
    decode 0x326E1817 0x0 = .ok (.ctz ⟨.w0, .e0, .discard⟩ .w8 false) ∧
    decode 0x336E1817 0x0 = .ok (.brev ⟨.w0, .e0, .discard⟩ .w8 false) ∧
    decode 0x34601801 0x80000000 = .ok (.bfx ⟨.w0, .n0, .e0, .discard, .plain⟩ .w32 ⟨true, 0⟩) ∧
    decode 0x35601800 0x2 = .ok (.bfi ⟨.w0, .n0, .e0, .discard, .plain⟩ .w64 2) ∧
    decode 0x36601803 0xE0000000 = .ok (.cmp ⟨.w0, .n0, .e0, .discard, .plain⟩ .w8 .le ⟨true, 0⟩) ∧
    decode 0x37601800 0x80000000 = .ok (.lea ⟨.w0, .n0, .e0, .discard, .plain⟩ ⟨true, 0⟩) ∧
    decode 0x38601800 0xC0000000 = .ok (.adds ⟨.w0, .n0, .e0, .discard, .plain⟩ .w16 ⟨true, 0⟩) ∧
    decode 0x38601803 0x60000000 = .ok (.subs ⟨.w0, .n0, .e0, .discard, .plain⟩ .w8 ⟨false, 0⟩) := by
  repeat' apply And.intro
  all_goals rfl

/-- Words and literals of the float family, laid out by hand from Table 4.1 and the entries' encodings. -/
theorem test_decode_float :
    decode 0x40601801 0xB = .ok (.fadd ⟨.w0, .n0, .e0, .discard, .plain⟩ .bf16 ⟨.rm, true⟩) ∧
    decode 0x41601801 0xB = .ok (.fsub ⟨.w0, .n0, .e0, .discard, .plain⟩ .bf16 ⟨.rm, true⟩) ∧
    decode 0x42601801 0xB = .ok (.fmul ⟨.w0, .n0, .e0, .discard, .plain⟩ .bf16 ⟨.rm, true⟩) ∧
    decode 0x43601800 0x1 = .ok (.ffma ⟨.w0, .n0, .e0, .discard, .plain⟩ .f32 1) ∧
    decode 0x44601801 0x0 = .ok (.fmin ⟨.w0, .n0, .e0, .discard, .plain⟩ .bf16) ∧
    decode 0x45601801 0x0 = .ok (.fmax ⟨.w0, .n0, .e0, .discard, .plain⟩ .bf16) ∧
    decode 0x466E1814 0x0 = .ok (.fabs ⟨.w0, .e0, .discard⟩ .f32) ∧
    decode 0x476E1814 0x0 = .ok (.fneg ⟨.w0, .e0, .discard⟩ .f32) ∧
    decode 0x48601801 0x2 = .ok (.fcmp ⟨.w0, .n0, .e0, .discard, .plain⟩ .bf16 .lt) ∧
    decode 0x496E1816 0x0 = .ok (.fclass ⟨.w0, .e0, .discard⟩ .a36) := by
  repeat' apply And.intro
  all_goals rfl

/-- Words and literals of the float family, laid out by hand from Table 4.1 and the entries' encodings. -/
theorem test_decode_float2 :
    decode 0x4A6E1815 0x2 = .ok (.frcp ⟨.w0, .e0, .discard⟩ .bf16 ⟨.rp, false⟩) ∧
    decode 0x4B6E1815 0x2 = .ok (.frsq ⟨.w0, .e0, .discard⟩ .bf16 ⟨.rp, false⟩) ∧
    decode 0x4C6E1815 0x2 = .ok (.fsqrt ⟨.w0, .e0, .discard⟩ .bf16 ⟨.rp, false⟩) ∧
    decode 0x4D6E1815 0x2 = .ok (.fexp2 ⟨.w0, .e0, .discard⟩ .bf16 ⟨.rp, false⟩) ∧
    decode 0x4E6E1815 0x2 = .ok (.flog2 ⟨.w0, .e0, .discard⟩ .bf16 ⟨.rp, false⟩) ∧
    decode 0x4F6E1815 0x2 = .ok (.fsin ⟨.w0, .e0, .discard⟩ .bf16 ⟨.rp, false⟩) ∧
    decode 0x506E1815 0x2 = .ok (.fcos ⟨.w0, .e0, .discard⟩ .bf16 ⟨.rp, false⟩) ∧
    decode 0x516E1815 0x2 = .ok (.ftanh ⟨.w0, .e0, .discard⟩ .bf16 ⟨.rp, false⟩) ∧
    decode 0x52601800 0xC = .ok (.fscale ⟨.w0, .n0, .e0, .discard, .plain⟩ .f32 ⟨.rs, true⟩) ∧
    decode 0x53601803 0x9 = .ok (.fdot ⟨.w0, .n0, .e0, .discard, .plain⟩ .e5m2 ⟨.rz, true⟩) ∧
    decode 0x546D182A 0x8 = .ok (.fsum ⟨.w0, .zero, .e0, .discard, .whole⟩ .e4m3 ⟨.rn, true⟩) ∧
    decode 0x556E1814 0x3478 = .ok (.cvt ⟨.w0, .none, .e0, .discard, .unary⟩ ⟨false, .w64, .a36, .e5m2, 7, ⟨.rn, true⟩⟩) ∧
    decode 0x566E1814 0x80008213 = .ok (.cvti ⟨.w0, .none, .e0, .discard, .unary⟩ ⟨true, .w16, .int, .bf16, 1, ⟨.rm, false⟩⟩) ∧
    decode 0x576E1814 0x80005829 = .ok (.cvtf ⟨.w0, .none, .e0, .discard, .unary⟩ ⟨true, .w32, .e4m3, .int, 2, ⟨.rz, true⟩⟩) ∧
    decode 0x586D1829 0x42 = .ok (.qpack ⟨.w0, .e0, .discard⟩ .bf16 1 .rp) ∧
    decode 0x596D1829 0x3C0 = .ok (.qunpk ⟨.w0, .e0, .discard⟩ .bf16 3 12) := by
  repeat' apply And.intro
  all_goals rfl

/-- Words and literals of the memory family, laid out by hand from Table 4.1 and the entries' encodings. -/
theorem test_decode_memory :
    decode 0x606E1816 0x1709187 = .ok (.ld ⟨.w0, .none, .e0, .discard, .unary⟩ .s2 .int true true ⟨⟨true, 9, 6, 7⟩, .system⟩) ∧
    decode 0x61601803 0xB09187 = .ok (.st ⟨.w0, .n0, .e0, .discard, .plain⟩ .s1 true ⟨⟨true, 9, 6, 7⟩, .system⟩) ∧
    decode 0x626E1814 0xD0309187 = .ok (.ldb ⟨.w0, .none, .e0, .discard, .unary⟩ 13 false false ⟨⟨true, 9, 6, 7⟩, .system⟩) ∧
    decode 0x63601828 0xBB09187 = .ok (.stb ⟨.w0, .n0, .e0, .discard⟩ 5 true true ⟨⟨true, 9, 6, 7⟩, .system⟩) ∧
    decode 0x646E1815 0xB2309187 = .ok (.ldf ⟨.w0, .none, .e0, .discard, .unary⟩ .s4 11 .f32 false false ⟨⟨true, 9, 6, 7⟩, .system⟩) ∧
    decode 0x65601801 0x309187 = .ok (.stf ⟨.w0, .n0, .e0, .discard, .plain⟩ .s4 false ⟨⟨true, 9, 6, 7⟩, .system⟩) ∧
    decode 0x666E1814 0xB09187 = .ok (.sete ⟨.w0, .none, .e0, .discard, .unary⟩ .s8 true ⟨⟨true, 9, 6, 7⟩, .system⟩) ∧
    decode 0x676E1814 0x8309187 = .ok (.pref ⟨.w0, .none, .e0, .discard, .unary⟩ .own ⟨⟨true, 9, 6, 7⟩, .system⟩) := by
  repeat' apply And.intro
  all_goals rfl

/-- Words and literals of the memory family, laid out by hand from Table 4.1 and the entries' encodings. -/
theorem test_decode_memory2 :
    decode 0x68601801 0x24709187 = .ok (.atom ⟨.w0, .n0, .e0, .discard, .plain⟩ .s4 .fadd .acq ⟨⟨true, 9, 6, 7⟩, .system⟩) ∧
    decode 0x69601800 0x3B09187 = .ok (.cas ⟨.w0, .n0, .e0, .discard, .plain⟩ .s8 3 .rel ⟨⟨true, 9, 6, 7⟩, .system⟩) ∧
    decode 0x6A6E1814 0xE709187 = .ok (.ll ⟨.w0, .none, .e0, .discard, .unary⟩ .s8 .addr false true ⟨⟨true, 9, 6, 7⟩, .system⟩) ∧
    decode 0x6B601802 0xB09187 = .ok (.sc ⟨.w0, .n0, .e0, .discard, .plain⟩ .s2 true ⟨⟨true, 9, 6, 7⟩, .system⟩) ∧
    decode 0x6C601801 0xC0000 = .ok (.fence ⟨.w0, .n0, .e0, .discard, .plain⟩ .acq .device) ∧
    decode 0x6D601800 0x1B09187 = .ok (.clrp ⟨.w0, .n0, .e0, .discard, .plain⟩ true true ⟨⟨true, 9, 6, 7⟩, .system⟩) ∧
    decode 0x6E6E1814 0x309187 = .ok (.copy ⟨.w0, .e0, .discard⟩ ⟨⟨true, 9, 6, 7⟩, .system⟩) ∧
    decode 0x6F6E1814 0xFA000000 = .ok (.waitt .w0 .e0 125) ∧
    decode 0x706E1814 0x8709187 = .ok (.lds ⟨.w0, .none, .e0, .discard, .unary⟩ .e5m2 true ⟨⟨true, 9, 6, 7⟩, .system⟩) ∧
    decode 0x71601828 0xB09187 = .ok (.sts ⟨.w0, .n0, .e0, .discard⟩ true ⟨⟨true, 9, 6, 7⟩, .system⟩) := by
  repeat' apply And.intro
  all_goals rfl

/-- Words and literals of the control family, laid out by hand from Table 4.1 and the entries' encodings. -/
theorem test_decode_control :
    decode 0x80D0682C 0x705 = .ok (.br .zero .n0 7 5) ∧
    decode 0x816E6814 0xC8 = .ok (.jmp .w0 200) ∧
    decode 0x826E6814 0x0 = .ok (.jmpi .w0) ∧
    decode 0x836E6814 0x0 = .ok (.exit .w0) ∧
    decode 0x846E1814 0x17 = .ok (.bar ⟨.w0, .e0, .discard⟩ 23) ∧
    decode 0x856E1814 0xF = .ok (.bara ⟨.w0, .e0, .discard⟩ 15) ∧
    decode 0x866E1814 0x10 = .ok (.barw ⟨.w0, .e0, .discard⟩ 16) ∧
    decode 0x876E1814 0x0 = .ok (.yield ⟨.w0, .e0, .discard⟩) ∧
    decode 0x886E1814 0x1 = .ok (.sleep ⟨.w0, .e0, .discard⟩ true) ∧
    decode 0x89601800 0x137C9000 = .ok (.recruit ⟨.w0, .n0, .e0, .discard⟩ 77 .fmax 201) ∧
    decode 0x8A6E1814 0x13400000 = .ok (.hjoin ⟨.w0, .e0, .discard⟩ 77) := by
  repeat' apply And.intro
  all_goals rfl

/-- Words and literals of the control family, laid out by hand from Table 4.1 and the entries' encodings. -/
theorem test_decode_control2 :
    decode 0x8B6E1815 0x0 = .ok (.hred ⟨.w0, .e0, .discard⟩ true) ∧
    decode 0x8C6E1814 0x0 = .ok (.hend ⟨.w0, .e0, .discard⟩) ∧
    decode 0x8D6E1814 0x0 = .ok (.waitly ⟨.w0, .e0, .discard⟩) ∧
    decode 0x8E6E1814 0x0 = .ok (.lyrel ⟨.w0, .e0, .discard⟩) ∧
    decode 0x8F6E0014 0xBEEF = .ok (.trap .w0 0xBEEF) ∧
    decode 0x90600000 0x2 = .ok (.trprep .w0 .n0 .plain .insert) ∧
    decode 0x916E1814 0x942 = .ok (.trret ⟨.w0, .e0, .discard⟩ 9 66) ∧
    decode 0x926E0014 0x1 = .ok (.bkpt .w0 1) ∧
    decode 0xA060000A 0x3 = .ok (.mma .w0 .n0 2 3) ∧
    decode 0xA16E1814 0x7320C800 = .ok (.mmarm ⟨.w0, .e0, .discard⟩ true 12 200 50) ∧
    decode 0xA26E1814 0x0 = .ok (.accrd ⟨.w0, .e0, .discard⟩) ∧
    decode 0xA36E1814 0x163 = .ok (.accclr ⟨.w0, .e0, .discard⟩ true 99) ∧
    decode 0xA4601800 0x98E = .ok (.accdr ⟨.w0, .n0, .e0, .discard, .plain⟩ .int .q3 .row) := by
  repeat' apply And.intro
  all_goals rfl

/-- Words and literals of the reductions family, laid out by hand from Table 4.1 and the entries' encodings. -/
theorem test_decode_reductions :
    decode 0xA56E1817 0x80000000 = .ok (.red ⟨.w0, .none, .e0, .discard, .unary⟩ 3 ⟨true, .iadd, ⟨.rn, false⟩⟩) ∧
    decode 0xA66E1814 0x6A = .ok (.scan ⟨.w0, .none, .e0, .discard, .unary⟩ 0 ⟨false, .fadd, ⟨.rp, true⟩⟩) ∧
    decode 0xA7601808 0xBF = .ok (.bkt ⟨.w0, .n0, .e0, .discard⟩ .onehot8 true 31) ∧
    decode 0xA8601801 0x2 = .ok (.kmerge ⟨.w0, .n0, .e0, .discard, .plain⟩ true true false) ∧
    decode 0xA9601800 0x1 = .ok (.ksel ⟨.w0, .n0, .e0, .discard, .plain⟩ false false true) ∧
    decode 0xB06E1814 0x2 = .ok (.cfginv ⟨.w0, .e0, .discard⟩ .device) ∧
    decode 0xB16E1814 0x1 = .ok (.gtime ⟨.w0, .e0, .discard⟩ true) ∧
    decode 0xB26E1814 0xCAFE = .ok (.pmark ⟨.w0, .e0, .discard⟩ 0xCAFE) ∧
    decode 0xB36E1814 0x0 = .ok (.eosi ⟨.w0, .e0, .discard⟩) := by
  repeat' apply And.intro
  all_goals rfl

/-- Words and literals of the emulated family, laid out by hand from Table 4.1 and the entries' encodings. -/
theorem test_decode_emulated :
    decode 0xF0601802 0x0 = .ok (.idiv ⟨.w0, .n0, .e0, .discard, .plain⟩ 2 0) ∧
    decode 0xF1601802 0x0 = .ok (.irem ⟨.w0, .n0, .e0, .discard, .plain⟩ 2 0) ∧
    decode 0xF2601802 0x0 = .ok (.idivn ⟨.w0, .n0, .e0, .discard, .plain⟩ 2 0) ∧
    decode 0xF3601802 0x0 = .ok (.iremn ⟨.w0, .n0, .e0, .discard, .plain⟩ 2 0) ∧
    decode 0x0F601803 0x12345678 = .ok (.unassignedOpcode 0x0F ⟨.w0, .n0, .e0, .discard, .plain⟩ 3 0x12345678) ∧
    decode 0xFF601801 0xFFFFFFFF = .ok (.emulationOpcode 0xFF ⟨.w0, .n0, .e0, .discard, .plain⟩ 1 0xFFFFFFFF) := by
  repeat' apply And.intro
  all_goals rfl

/-- Each bound of the encodable fields refuses a term that breaks it (R74, R81, R82, R94, R110, R113, R120, R337). -/
theorem test_illformed_fields :
    let r : Route := ⟨.w0, .n0, .e0, .discard, .plain⟩
    let u : Route := ⟨.w0, .none, .e0, .discard, .unary⟩
    let r1 : Route1 := ⟨.w0, .e0, .discard⟩
    let m : MemCtl := ⟨⟨false, 0, 0, 0⟩, .team⟩
    (Instr.nop .n0 .n0 .plain).wellFormed = false ∧ (Instr.lit r1 .bf16 0x10000).wellFormed = false ∧
    (Instr.pack r .w8 true true).wellFormed = false ∧ (Instr.sreg r1 true .tid).wellFormed = false ∧
    (Instr.bfx r .w16 ⟨true, 0⟩).wellFormed = false ∧ (Instr.bfi r .w8 0).wellFormed = false ∧
    (Instr.fdot r .bf16 ⟨.rs, false⟩).wellFormed = false ∧ (Instr.fsum u .f32 ⟨.rs, false⟩).wellFormed = false ∧
    (Instr.qunpk r1 .f32 1 0).wellFormed = false ∧ (Instr.ld u .s8 .f32 false false m).wellFormed = false ∧
    (Instr.ll u .s8 .int true false m).wellFormed = false ∧ (Instr.ldf u .s2 0 .int false false m).wellFormed = false ∧
    (Instr.lds u .q4 false m).wellFormed = false ∧ (Instr.ldb u 14 false false m).wellFormed = false ∧
    (Instr.stb ⟨.w0, .n0, .e0, .discard⟩ 1 false false m).wellFormed = false ∧ (Instr.stf r .s1 false m).wellFormed = false ∧
    (Instr.sete u .s2 false m).wellFormed = false ∧ (Instr.atom r .s8 .fadd .plain m).wellFormed = false ∧
    (Instr.bar r1 24).wellFormed = false ∧ (Instr.bara r1 31).wellFormed = false ∧ (Instr.barw r1 24).wellFormed = false ∧
    (Instr.mmarm r1 false 0 255 1).wellFormed = false ∧ (Instr.unassignedOpcode 0x20 r 0 0).wellFormed = false ∧
    (Instr.emulationOpcode 0xF3 r 0 0).wellFormed = false ∧ (Instr.boot).wellFormed = false := by
  decide

/-- Each rule of the slot alone refuses, with its CAUSE, a term that breaks it (R56, R58, R76, R78, R80, R285, R314, R358). -/
theorem test_illformed_slots :
    let r1 : Route1 := ⟨.w0, .e0, .discard⟩
    let plain : Route := ⟨.w0, .n0, .e0, .discard, .plain⟩
    let m (w : Wave) : MemCtl := ⟨w, .team⟩
    (Instr.add ⟨.w0, .n0, .e0, .discard, .plain⟩ .w64 ⟨true, 1⟩).slotCause = some 0x0A ∧
    (Instr.sel ⟨.lit, .n0, .e0, .discard, .plain⟩).slotCause = some 0x0A ∧
    (Instr.add ⟨.w0, .none, .e0, .discard, .plain⟩ .w64 ⟨true, 0⟩).slotCause = some 0x07 ∧
    (Instr.add ⟨.zero, .zero, .e0, .discard, .plain⟩ .w64 ⟨true, 0⟩).slotCause = some 0x07 ∧
    (Instr.gate ⟨.w0, .n0, .e0, .discard, .preda⟩ true).slotCause = some 0x07 ∧
    (Instr.mad ⟨.w0, .n0, .e0, .discard, .sticka⟩ .w64 0).slotCause = some 0x07 ∧
    (Instr.sel ⟨.w0, .n0, .e0, .e0, .plain⟩).slotCause = some 0x08 ∧
    (Instr.sel ⟨.w0, .n0, .dlr, .discard, .plain⟩).slotCause = some 0x08 ∧
    (Instr.sel ⟨.w0, .n0, .e0, .dlr, .plain⟩).slotCause = some 0x08 ∧
    (Instr.accdr plain .a36 .dlr .discard).slotCause = some 0x08 ∧
    (Instr.cvt plain ⟨false, .w64, .bf16, .bf16, 0, ⟨.rn, false⟩⟩).slotCause = some 0x0A ∧
    (Instr.cvti plain ⟨true, .w32, .int, .f32, 2, ⟨.rn, false⟩⟩).slotCause = some 0x0A ∧
    (Instr.cvtf plain ⟨true, .w32, .q4, .int, 0, ⟨.rn, false⟩⟩).slotCause = some 0x0A ∧
    (Instr.fdot plain .f32 ⟨.rn, false⟩).slotCause = some 0x0A ∧
    (Instr.red ⟨.w0, .none, .e0, .discard, .unary⟩ 0 ⟨true, .xor, ⟨.rn, false⟩⟩).slotCause = some 0x0A ∧
    (Instr.scan ⟨.w0, .none, .e0, .discard, .unary⟩ 1 ⟨false, .fmin, ⟨.rn, false⟩⟩).slotCause = some 0x0A ∧
    (Instr.bkt ⟨.w0, .n0, .e0, .discard⟩ .onehot8 false 7).slotCause = some 0x0A ∧
    (Instr.mma .w0 .n0 0 3).slotCause = some 0x0A ∧
    (Instr.copy r1 (m ⟨true, 63, 3, 2⟩)).slotCause = some 0x0E ∧ (Instr.copy r1 (m ⟨true, 63, 0, 0⟩)).slotCause = some 0x0E ∧
    (Instr.copy r1 (m ⟨false, 0, 0, 1⟩)).slotCause = some 0x0E ∧ (Instr.copy r1 (m ⟨true, 5, 3, 4⟩)).slotCause = none := by
  decide

/-- The decoder refuses, by name, the encodings that the spec calls errors, and none of them falls to a neighbour (R28, R63,
R74 to R79, R161). The last is the boundary that still decodes. -/
theorem test_decode_refuses :
    let cause (w l : BitVec 32) : Option DecodeError := match decode w l with | .ok _ => none | .error e => some e
    cause 0 0 = some .empty ∧ cause 0 1 = some .zeroWord ∧
    cause 0x20F01800 0 = some .selectCode ∧ cause 0x20608000 0 = some .selectCode ∧ cause 0x2060183C 0 = some .tagCode ∧
    cause 0x156E1814 15 = some .sregSelector ∧ cause 0x28601800 0x20000000 = some .modifier ∧
    cause 0x40601802 0 = some .modifier ∧ cause 0x40601800 5 = some .modifier ∧ cause 0x38601801 0 = some .modifier ∧
    cause 0x6C601803 0 = some .modifier ∧ cause 0x6C601800 0x00200000 = some .fenceWaved ∧
    cause 0x606E1814 0x00140000 = some .modifier ∧ cause 0x156E1814 14 = none := by
  decide

/-- The opcode table's numbering: the word stands in bits 31 to 0 and the literal above it (R74). -/
theorem test_decode_table_word :
    decodeTableWord 32 0x20601800 = some (.add ⟨.w0, .n0, .e0, .discard, .plain⟩ .w64 ⟨false, 0⟩) ∧
    decodeTableWord 64 (0x80000000 * 2 ^ 32 + 0x23601801) =
      some (.mulh ⟨.w0, .n0, .e0, .discard, .plain⟩ .w32 ⟨true, 0⟩) ∧ decodeTableWord 32 0 = none := by
  decide

/-! ## Witnesses: the hypotheses of each statement can be met -/

/-- A 64-bit token of the thread in slot 1. -/
def witWord (v : Nat) : Token := { data := beatOf (BitVec.ofNat 64 v), slot := 1 }
/-- A beat of the same thread. -/
def witBeat (v : Nat) : Token := { data := BitVec.ofNat 256 v, slot := 1, burst := .body }
/-- A firing of slot 2 of tile 0 of core 0. -/
def witFiring (a b q : List Token) : Firing := { site := ⟨0, 0, 2, false⟩, bits := ⟨0x20601800, 0⟩, a := a, b := b, q := q }
/-- A core whose thread in slot 1 runs block 0, with 16 registers, as thread 0 of team 7. -/
def witCore : Core :=
  { threads := [(1, { st := .running, team := 7, tid := 0, nregs := 16, exec := some { image := 5, block := 0, region := 0 } })] }
/-- A tile that has consumed the operand set f. -/
def witFire (f : Firing) : State := { State.reset with cores := [(0, witCore)], firing := some f }

def witPair : Firing := witFiring [witWord 5] [witWord 3] []
def witBeats : Firing := witFiring [witBeat 7] [witBeat 9] [witBeat 2]

/-- IntegerArithmetic, IntegerShifts, SaturatingAdd, FormAddress, FreezingFaults, Pack (under PLAIN, over words and beats). -/
theorem test_hyp_two_operands :
    ((witFire witPair).Fires witPair .plain ∧ witPair.Agree ∧ witPair.tokA.isBeat = false ∧ witPair.tokB.isBeat = false) ∧
    ((witFire witBeats).Fires witBeats .plain ∧ witBeats.Agree ∧ witBeats.tokA.isBeat = true ∧ witBeats.subs = 4) ∧
    witPair.site.handler = false :=
  ⟨⟨⟨rfl, rfl, rfl⟩, Or.inr rfl, rfl, rfl⟩, ⟨⟨rfl, rfl, rfl⟩, Or.inl rfl, rfl, rfl⟩, rfl⟩

/-- SaturatingAdd: MD = 0 and MD = 3 both decode; a sum in the range, one at its bound and one beyond it. -/
theorem test_hyp_saturating :
    (∃ i, decode 0x38601800 0xC0000000 = .ok i) ∧ (∃ i, decode 0x38601803 0 = .ok i) ∧
    laneInt 8 true 0x7F + laneInt 8 true 0 = 2 ^ 7 - 1 ∧ (2 : Int) ^ 7 - 1 < laneInt 8 true 0x7F + laneInt 8 true 1 ∧
    laneInt 8 true 0x80 + laneInt 8 true 0xFF < -(2 : Int) ^ 7 ∧ laneInt 8 false 0 - laneInt 8 false 1 < 0 :=
  ⟨⟨_, rfl⟩, ⟨_, rfl⟩, by decide, by decide, by decide, by decide⟩

/-- IntegerFields, FloatArithmetic: three operands; widths 64 and 32; a field that ends at the lane's end. -/
theorem test_hyp_three_operands :
    let f := witFiring [witWord 5] [witWord 0x0840] [witWord 0xFF3F]
    (witFire f).Fires f .plain ∧ f.Agree ∧ f.Agree3 ∧ ((witFire witBeats).Fires witBeats .plain ∧ witBeats.Agree3) :=
  ⟨⟨rfl, rfl, rfl⟩, Or.inr rfl, Or.inr ⟨rfl, rfl⟩, ⟨rfl, rfl, rfl⟩, Or.inl rfl⟩

/-- IntegerShifts, FloatFunctions, CopySinkPurge, SystemReads, MatrixSections, AccumulatorRequests, CommitActions: UNARY. -/
theorem test_hyp_unary :
    let f := witFiring [witWord 0] [] []
    let g := witFiring [witBeat 1] [] []
    (witFire f).Fires f .unary ∧ (witFire g).Fires g .unary ∧ isWord f.a = true ∧ isWord g.a = false ∧
    min f.tokA.w64.toNat (2 ^ 20) = 0 ∧ bitOf f.tokA.w64.toNat 8 = false ∧
    (let h := witFiring [witWord 0x3FF] [] []
     (witFire h).Fires h .unary ∧ min h.tokA.w64.toNat (2 ^ 20) ≠ 0 ∧ bitOf h.tokA.w64.toNat 8 = true ∧ bitOf h.tokA.w64.toNat 9 = true) :=
  ⟨⟨rfl, rfl, rfl⟩, ⟨rfl, rfl, rfl⟩, rfl, rfl, by decide, by decide, ⟨rfl, rfl, rfl⟩, by decide, by decide, by decide⟩

/-- ShapesAndBubbles, FormAddress: a word meets a beat; a deferred operand; an operand with PRED = 0. -/
theorem test_hyp_shapes :
    let f := witFiring [witWord 5] [witBeat 3] []
    let g := witFiring [witWord 5] [witWord 3] [witBeat 3]
    let d := witFiring [witWord 5] [{ witWord 0x10 with deferred := true }] []
    let p := witFiring [{ witWord 5 with pred := false }] [witWord 3] []
    (witFire f).Fires f .plain ∧ ¬f.Agree ∧ f.tokB.isBeat = true ∧ (witFire g).Fires g .plain ∧ ¬g.Agree3 ∧
    ((witFire d).firing = some d ∧ d.deferred = true) ∧ ((witFire p).firing = some p ∧ p.deferred = false ∧ p.pred .plain = false) := by
  refine ⟨⟨rfl, rfl, rfl⟩, ?_, rfl, ⟨rfl, rfl, rfl⟩, ?_, ⟨rfl, rfl⟩, rfl, rfl, rfl⟩
  · rintro (h | h) <;> exact absurd h (by decide)
  · rintro (h | ⟨_, h⟩) <;> exact absurd h (by decide)

/-- SelectAndSteer: one token on each side; a beat against a word, with and without a deferred operand; both deferred. -/
theorem test_hyp_select :
    let a := witWord 5
    let b := witBeat 3
    let f := witFiring [a] [witWord 3] []
    ((witFire f).firing = some f ∧ a.isBeat = (witWord 3).isBeat ∧ a.pred = true) ∧
    (a.isBeat ≠ b.isBeat ∧ a.deferred = false ∧ b.deferred = false) ∧
    ({ a with deferred := true } : Token).deferred = true ∧ ({ a with pred := false } : Token).pred = false := by
  decide

/-- Keys: two ordered beats; a beat and a key; a key and the splitters under STICKB; the shapes that raise FMTMIS. -/
theorem test_hyp_keys :
    let f := witFiring [witBeat 7] [witWord 9] []
    let g := witFiring [witWord 90] [witWord 40] []
    ((witFire witBeats).Fires witBeats .plain ∧ witBeats.tokA.isBeat = true ∧ witBeats.tokB.isBeat = true) ∧
    ((witFire f).Fires f .plain ∧ f.tokA.isBeat = true ∧ f.tokB.isBeat = false) ∧
    ((witFire g).Fires g .stickb ∧ g.tokA.isBeat = false) ∧ (witFire f).Fires f .stickb :=
  ⟨⟨⟨rfl, rfl, rfl⟩, rfl, rfl⟩, ⟨⟨rfl, rfl, rfl⟩, rfl, rfl⟩, ⟨⟨rfl, rfl, rfl⟩, rfl⟩, ⟨rfl, rfl, rfl⟩⟩

/-- Reductions: a word under UNARY, a burst under WHOLE, a beat under UNARY, two words and a mixture for FDOT. -/
theorem test_hyp_reductions :
    let u := witFiring [witWord 5] [] []
    let w := witFiring [{ witBeat 5 with burst := .head }, { witBeat 6 with burst := .tail }] [] []
    let x := witFiring [witBeat 5] [] []
    let m := witFiring [witBeat 5] [witWord 5] []
    ((witFire u).Fires u .unary ∧ u.tokA.isBeat = false) ∧ (witFire w).Fires w .whole ∧
    ((witFire x).Fires x .unary ∧ x.tokA.isBeat = true) ∧ witPair.tokA.isBeat = witPair.tokB.isBeat ∧
    ((witFire m).Fires m .plain ∧ m.tokA.isBeat ≠ m.tokB.isBeat) :=
  ⟨⟨⟨rfl, rfl, rfl⟩, rfl⟩, ⟨rfl, rfl, rfl⟩, ⟨⟨rfl, rfl, rfl⟩, rfl⟩, rfl, ⟨rfl, rfl, rfl⟩, by decide⟩

/-- Conversions: literals that the loader accepts, the greatest PART among them; bursts that QPACK and QUNPK take. -/
theorem test_hyp_conversions :
    let r : Route := ⟨.w0, .none, .e0, .discard, .unary⟩
    let w := witFiring [{ witBeat 5 with burst := .head, fmt := .bf16 }, { witBeat 6 with burst := .tail, fmt := .bf16 }] [] []
    let q := witFiring [{ witBeat 1 with burst := .head, fmt := .q4 }, { witBeat 6 with burst := .tail, fmt := .q4 }] [] []
    (Instr.cvt r ⟨false, .w64, .e4m3, .f32, 7, ⟨.rn, true⟩⟩).entryOk = true ∧
    (Instr.cvti r ⟨true, .w8, .int, .bf16, 1, ⟨.rz, false⟩⟩).entryOk = true ∧
    (Instr.cvtf r ⟨true, .w16, .f32, .int, 3, ⟨.rn, false⟩⟩).entryOk = true ∧
    (let xs := tokenElems (felemFmt .bf16) 64 w.a
     xs.length ≠ 0 ∧ xs.length % 32 = 0) ∧ w.deferred = false ∧ w.pred .whole = true ∧
    (0 : BitVec 4).toNat + (0 : BitVec 2).toNat + 1 ≤ (q4Blocks q.a).length := by
  decide

/-- ResultTag, with an operand B and without. -/
theorem test_hyp_result_tag :
    let f := witFiring [witWord 5] [] []
    (∃ t, t ∈ (Out.data (f.resultTag .unary .int) ⟨0, 0⟩).toks0 ++ (Out.data (f.resultTag .unary .int) ⟨0, 0⟩).toks1) ∧
    (∃ t, t ∈ (Out.data (witPair.resultTag .sticka .f32) ⟨0, 0⟩).toks0 ++ (Out.data (witPair.resultTag .sticka .f32) ⟨0, 0⟩).toks1) ∧
    f.a = [witWord 5] ∧ witPair.b = [witWord 3] :=
  ⟨⟨_, List.mem_cons_self⟩, ⟨_, List.mem_cons_self⟩, rfl, rfl⟩

/-- ComputingFrame: an ADD that answers a next state. -/
theorem test_hyp_frame :
    let i := Instr.add ⟨.w0, .n0, .e0, .discard, .plain⟩ .w64 ⟨false, 0⟩
    isComputing i = true ∧ (witFire witPair).firing = some witPair ∧ ∃ t, exec i (witFire witPair) = .next t :=
  ⟨rfl, rfl, _, rfl⟩

/-- The grid of the witness thread: image 5 in address space 2, packet 0 of queue 1. -/
def witGrid : Grid :=
  { queue := 1, packet := 0, gen := 0, seed := 0, image := 5, aspace := 2, teams := 1, cw := 1, ch := 1, hands := 1, nregs := 16,
    param := 77, doneVa := 0x1000, va := 0x4000, ctx := none, norcr := false }
/-- Its only team, on core 0 with slots 0 to 31. -/
def witTeam : Team := { grid := 9, index := 0, rank := 0, core := some 0, hands := 1, bases := [0] }
/-- Space 2 maps its first GiB to physical address 0, readable and writable, by three tables (Table 7.8). -/
def witTables : List Host.Cell := [(0x3000, 0x01), (0x3001, 0x40), (0x4000, 0x01), (0x4001, 0x50), (0x5000, 0x33)]
/-- The same translation in the core's buffer, the reserved physical addresses and a page of MODE 2 beside it. -/
def witTlbs : List Tlb :=
  [⟨2, 0, 0x40000000, 0x33⟩, ⟨2, 0x40000000, 0x40000000, 0xC040000033⟩, ⟨2, 0x80000000, 0x40000000, 0x8000000000000033⟩,
   ⟨2, 0x200000000, 0x40000000, 0x10000000033⟩]
/-- A device on which the witness thread runs, with a firing about to take effect. -/
def witRun (f : Firing) : State :=
  { State.reset with cores := [(0, { witCore with threads := KMap.mapVals witCore.threads (fun t => { t with tid := 1 }) })], teams := [(7, witTeam)], grids := [(9, witGrid)], mem := witTables, firing := some f,
                     regs := [(RegName.mmuRoot.offset 2, 0x3001)], mmu := { coreTlb := [(0, witTlbs)] } }

def witUnary : Route := ⟨.w0, .none, .e0, .discard, .unary⟩
def witTwo : Route := ⟨.w0, .n0, .e0, .discard, .plain⟩
def witCtl : MemCtl := ⟨⟨false, 0, 0, 0⟩, .device⟩

/-- LoadsAndAtomicsBegin: an LD and an ATOM whose checks pass; an ATOM that names control space. -/
theorem test_hyp_loads :
    let f := witFiring [witWord 0x100] [] []
    let i := Instr.ld witUnary .s8 .int false false witCtl
    let g := witFiring [witWord 0x108] [witWord 1] []
    let j := Instr.atom witTwo .s4 .add .plain witCtl
    (isLoad i = true ∧ (witRun f).Fires f .unary ∧ memRanges i f = some [⟨0x100, 8, 8, false⟩] ∧
      (witRun f).checkAll 0 1 [⟨0x100, 8, 8, false⟩] = .ok ((upTo 8).map (fun n => (0x100 + n, 0)))) ∧
    (isAtomic j = true ∧ (witRun g).Fires g .plain ∧ memRanges j g = some [⟨0x108, 4, 4, true⟩] ∧
      (witRun g).checkAll 0 1 [⟨0x108, 4, 4, true⟩] = .ok ((upTo 4).map (fun n => (0x108 + n, 0))) ∧
      (witRun g).inControl ((upTo 4).map (fun n => (0x108 + n, 0))) = false) ∧
    (let h := witFiring [witWord 0x200110000] [witWord 1] []
     let bytes := (upTo 4).map (fun n => (controlBase + 0x110000 + n, 0))
     (witRun h).Fires h .plain ∧ memRanges j h = some [⟨0x200110000, 4, 4, true⟩] ∧
       (witRun h).checkAll 0 1 [⟨0x200110000, 4, 4, true⟩] = .ok bytes ∧ (witRun h).inControl bytes = true ∧ ((witRun h).exec? 0 1).isSome = true) :=
  ⟨⟨rfl, ⟨rfl, rfl, rfl⟩, by decide +kernel, by decide +kernel⟩, ⟨rfl, ⟨rfl, rfl, rfl⟩, by decide +kernel, by decide +kernel,
    by decide +kernel⟩, ⟨rfl, rfl, rfl⟩, by decide +kernel, by decide +kernel, by decide +kernel, rfl⟩

/-- StoresBuffered: an ST whose checks pass, in an execution. -/
theorem test_hyp_stores :
    let f := witFiring [witWord 0x108] [witWord 9] []
    let i := Instr.st witTwo .s4 false witCtl
    i.route? = some witTwo ∧ (witRun f).Fires f .plain ∧ memRanges i f = some [⟨0x108, 4, 4, true⟩] ∧
    (witRun f).checkAll 0 1 [⟨0x108, 4, 4, true⟩] = .ok ((upTo 4).map (fun n => (0x108 + n, 0))) ∧
    ((witRun f).exec? 0 1).isSome = true :=
  ⟨rfl, ⟨rfl, rfl, rfl⟩, by decide +kernel, by decide +kernel, rfl⟩

/-- AccessesThatWaitOrFault: a beat for an address; a misaligned address; an address without a translation. -/
theorem test_hyp_access_faults :
    let i := Instr.ld witUnary .s8 .int false false witCtl
    let f := witFiring [witBeat 0x100] [] []
    let g := witFiring [witWord 0x104] [] []
    let h := witFiring [witWord 0x100000000] [] []
    isAccess i = true ∧ ((witRun f).Fires f .unary ∧ memRanges i f = none) ∧
    ((witRun g).Fires g .unary ∧ memRanges i g = some [⟨0x104, 8, 8, false⟩] ∧
      (witRun g).checkAll 0 1 [⟨0x104, 8, 8, false⟩] = .fault 0x14 0x104) ∧
    ((witRun h).Fires h .unary ∧ (witRun h).checkAll 0 1 [⟨0x100000000, 8, 8, false⟩] = .miss 0x100000000) :=
  ⟨rfl, ⟨⟨rfl, rfl, rfl⟩, rfl⟩, ⟨⟨rfl, rfl, rfl⟩, by decide +kernel, by decide +kernel⟩, ⟨rfl, rfl, rfl⟩, by decide +kernel⟩

/-- OrderOfChecks: every clause, at the last byte of a page and of the canonical range. -/
theorem test_hyp_checks :
    let s := witRun witPair
    (0xFFFE < 2 ^ 64 ∧ 0 < 2 ∧ 0xFFFE % 65536 + 2 ≤ 65536) ∧ 0xFFFF % 2 ≠ 0 ∧
    ¬(bitsOf 0x0100000000000000 63 57 = if bitOf 0x0100000000000000 56 then 127 else 0) ∧
    (bitsOf 0xFF00000000000000 63 57 = (if bitOf 0xFF00000000000000 56 then 127 else 0) ∧
      s.tlbLook 0 (s.aspaceOf 0 1) 0xFF00000000000000 = none) ∧
    (s.tlbLook 0 (s.aspaceOf 0 1) 0xFFFE = some (0x40000000, 0x33) ∧ s.target 0xFFFE = .hbm) ∧
    (s.tlbLook 0 (s.aspaceOf 0 1) 0x40000000 = some (0x40000000, 0xC040000033) ∧ s.target 0xC040000000 = .reserved) ∧
    (s.tlbLook 0 (s.aspaceOf 0 1) 0x80000000 = some (0x40000000, 0x8000000000000033) ∧ bitsOf 0x8000000000000033 63 62 = 2) := by
  decide

/-- LiveValues: the last register of the thread and the first beyond; a target in the team and one beyond it. -/
theorem test_hyp_live_values :
    let s := witRun witPair
    s.regCount 0 1 = 16 ∧ (0 : BitVec 7).toNat + 15 < 16 ∧ 16 ≤ (1 : BitVec 7).toNat + 15 ∧
    (s.lintTarget 0 1 31).isSome = true ∧ s.lintTarget 0 1 32 = none ∧ (s.exec? 0 1).isSome = true ∧
    isWord (witFiring [witWord 15] [] []).a = true := by
  decide

/-- PrefetchFenceWait: a PREF with a translation and one without; the last port die that WAITT can name. -/
theorem test_hyp_waitt :
    let f := witFiring [witWord 0x4000000000000000] [] []
    let g (va : Nat) := witFiring [witWord va] [] []
    ((witRun (g 0x100)).Fires (g 0x100) .unary ∧ (witRun (g 0x100000000)).Fires (g 0x100000000) .unary) ∧
    (∀ va ∈ [0x100, 0x100000000], isWord (g va).a = true ∧ memRanges (.pref witUnary .l2 witCtl) (g va) = some [⟨va, 1, 1, false⟩]) ∧
    (match (witRun (g 0x100)).checkAll 0 1 [⟨0x100, 1, 1, false⟩] with | .miss _ => false | _ => true) = true ∧
    (witRun (g 0x100000000)).checkAll 0 1 [⟨0x100000000, 1, 1, false⟩] = .miss 0x100000000 ∧
    (witRun f).Fires f .unary ∧ isWord f.a = true ∧ bitsOf f.tokA.w64.toNat 63 62 < (witRun f).portDies ∧
    ((witRun f).exec? 0 1).isSome = true :=
  ⟨⟨⟨rfl, rfl, rfl⟩, rfl, rfl, rfl⟩, by decide +kernel, by decide +kernel, by decide +kernel, ⟨rfl, rfl, rfl⟩, rfl, by decide, rfl⟩

/-- A descriptor that copies one row of 8 bytes from 0x200 to 0x300. -/
def witCopy : State :=
  let f := witFiring [witWord 0x6000] [] []
  let s := witRun f
  { s with mem := witTables ++ [(0x6001, 0x02), (0x6009, 0x03), (0x6010, 0x08)] }

/-- CopyCommand. -/
theorem test_hyp_copy :
    let s := witCopy
    let f := witFiring [witWord 0x6000] [] []
    let r1 : Route1 := ⟨.w0, .e0, .discard⟩
    let d := copyDesc ((s.numbered f r1.full (.copy r1 witCtl)).descBytes 0 1 (s.accessNo f r1.full) f.deps 0x6000).1
    s.Fires f .unary ∧ (match s.deviceXlat 0 2 0x6000 64 false false with | .ok a => a == 0x6000 | .error _ => false) = true ∧
    s.copyEngine 0 = some 0 ∧ s.outsidePoison (lineOf 0x6000) = false ∧ d.malformed = false ∧ d.len = 8 ∧ s.copyFault 0 2 false d = none ∧
    (s.exec? 0 1).isSome = true :=
  ⟨⟨rfl, rfl, rfl⟩, by decide +kernel, by decide +kernel, by decide +kernel, by decide +kernel, by decide +kernel, by decide +kernel, rfl⟩

/-- A core with an LD of 8 bytes, a LIN and an ATOM on stage memory outstanding. -/
def witReply (word lit : BitVec 32) (a b : List Token) (bytes : List (Nat × Nat)) : State :=
  let x : Access := { id := 0, thread := 1, site := ⟨0, 0, 2, false⟩, bits := ⟨word, lit⟩, a := a, b := b, q := [], stage := .reply,
                      due := 0, fired := 0, bytes := bytes }
  let s := witRun witPair
  { s with cores := KMap.mapVals s.cores (fun c => { c with accesses := [(3, x)], threads := KMap.mapVals c.threads (fun t => { t with
               exec := t.exec.map (fun e => { e with reports := [⟨0, 63, 0, 0, some []⟩], relDone := true }) }) }), firing := none,
           regs := s.regs, stage := [(0, { carve := 1 })] }

/-- LoadReplies: an LD and an LL of HBM at its home, and a LIN, in an execution that has written nothing. -/
theorem test_hyp_replies :
    let bytes := (upTo 8).map (fun n => (0x100 + n, 0))
    let ld := Instr.ld witUnary .s8 .int false false ⟨⟨false, 0, 0, 0⟩, .team⟩
    let lin := Instr.lin ⟨.w0, .e0, .discard⟩ .int ⟨0, ⟨false, 0, 0, 0⟩⟩
    let s := witReply 0x606E1814 0 [witWord 0x100] [] bytes
    let t := witReply 0x106E1814 0 [witWord 0] [] []
    let now (i : Instr) (u : State) : Prop := ∀ x ∈ KMap.look (u.core 0).accesses 3, x.site.core = 0 ∧ x.stage = .reply ∧
      u.replyReady x i witUnary = true ∧ (∃ e, u.exec? 0 x.thread = some e ∧ e.buffered = [])
    decode 0x606E1814 0 = .ok ld ∧ decode 0x106E1814 0 = .ok lin ∧ now ld s ∧ now lin t ∧
    (∀ x ∈ KMap.look (s.core 0).accesses 3, x.bytes = bytes ∧ s.bytesGone x.bytes = false) ∧ bytes.length = sizeBytes .s8 ∧
    (∃ data, s.peekBytes 0 ld bytes = some data) ∧ (∀ j < bytes.length, s.byteBad 0 ld bytes j = false) ∧ s.inControl bytes = false ∧
    s.readState 0 ld bytes = s ∧ isLoad ld = true ∧ ld.route? = some witUnary ∧ (0 : BitVec 7).toNat ∉ (t.thread 0 1).poison := by
  refine ⟨rfl, rfl, fun x h => ?_, fun x h => ?_, fun x h => ?_, rfl, ?_, by decide +kernel, by decide +kernel, rfl, rfl, rfl, by decide⟩
  · cases h; exact ⟨rfl, rfl, by decide +kernel, _, rfl, rfl⟩
  · cases h; exact ⟨rfl, rfl, by decide +kernel, _, rfl, rfl⟩
  · cases h; exact ⟨rfl, by decide +kernel⟩
  · exact Option.isSome_iff_exists.mp (by decide +kernel)

/-- AtomicReplies: an ATOM of 4 bytes on the first word of stage memory. -/
theorem test_hyp_atomic :
    let bytes := (List.range 4).map (fun n => (0xC000000000 + n, 0))
    let s := witReply 0x68601801 0x00200FC0 [witWord 0xC000000000] [witWord 1] bytes
    let i := Instr.atom witTwo .s4 .add .plain ⟨⟨true, 0, 63, 0⟩, .team⟩
    (∀ x, KMap.look (s.core 0).accesses 3 = some x → decode x.bits.word x.bits.lit = .ok i ∧ s.replyReady x i witTwo = true ∧
      x.stage = .reply ∧ x.bytes = bytes ∧ x.site.core = 0 ∧ s.bytesGone x.bytes = false ∧
      ∀ e, s.exec? 0 1 = some e → s.atomicRelease 0 x.thread i x.firing e = none) ∧
    (∀ e, s.exec? 0 1 = some e → e.buffered = [] ∧ e.bad = [] ∧ e.relDone = true) ∧ s.target 0xC000000000 = .stage 0 0 ∧
    s.poisoned 0xC000000000 = false ∧ s.behindHeld 0 1 [lineOf 0xC000000000] s.coh.held = false := by
  refine ⟨fun x h => ?_, fun e h => ?_, by decide, by decide, rfl⟩
  · cases h; exact ⟨rfl, by decide +kernel, rfl, rfl, rfl, by decide +kernel, fun e h => by cases h; rfl⟩
  · cases h; exact ⟨rfl, rfl, rfl⟩

/-- A block of the witness image: one entry channel, W0 of tile 0. -/
def witBlock : Block :=
  { region := 0, depth := 1, ii := 1, handler := false, helper := false, waves := 0, budget := 1, livein := 0, linRegs := [],
    entries := [(0, 6)], planes := [], header := [] }
/-- The plane of tile 0: slot 2 adds W0 and N0 to E0. -/
def witPlane : Plane := { slots := [(2, ⟨0x20601800, 0⟩)], image := 5, block := some 0, rect := ⟨0, 0, 1, 1⟩, producers := [(6, 1), (0, 1)] }
/-- An image of two blocks for a region of one tile. -/
def witImage : Image :=
  { aspace := 2, va := 0x4000, tag := 0, layout := [⟨0, 0, 1, 1⟩], blocks := [(0, witBlock), (1, witBlock)], dies := [0] }
/-- A booted device whose core 0 has the layout, with a thread in slot 1 and tile 0 as given. -/
def witDev (t : Thread) (g : Region) (x : Tile) : State :=
  { State.reset with cores := [(0, { layout := some [⟨0, 0, 1, 1⟩], regions := [(0, g)], threads := [(1, t)], tiles := [(0, x)] })],
                     teams := [(7, witTeam)], grids := [(9, witGrid)], images := [(5, witImage)], mem := witTables,
                     regs := [(RegName.mmuRoot.offset 2, 0x3001)], mmu := { coreTlb := [(0, witTlbs)] },
                     time := { ref := 20000, dies := [(0, { valid := true, copy := 20000, cycle := 100 })] },
                     sec := { State.reset.sec with stage := 5 } }
def witWaiting : Thread := { st := .waiting, team := 7, tid := 1, nregs := 16, cls := 0 }
def witRunning : Thread := { witWaiting with st := .running, exec := some { image := 5, block := 0, region := 0 } }

/-- Exits, CommitActions, MatrixSections: an execution that an exit can reach. -/
theorem test_hyp_exits :
    let f := witFiring [witWord 5] [] []
    (witRun f).firing = some f ∧ ((witRun f).exec? 0 (f.key .preda)).isSome = true ∧ isWord f.a = true ∧ (witRun f).Fires f .unary :=
  ⟨rfl, rfl, rfl, rfl, rfl, rfl⟩

/-- RecruitAndLayer: a grant of nothing, a grant of one slot; a layer of a context and the first beyond it. -/
theorem test_hyp_recruit :
    let f := witFiring [witWord 3] [witWord 0] []
    let s := witRun f
    let u : State := { s with cores := KMap.mapVals s.cores (fun c => { c with threads := KMap.put c.threads 4 { st := .exited, team := 7, tid := 4 } }) }
    let v : State := { s with grids := [(9, { witGrid with ctx := some 0 })] }
    (s.Fires f .plain ∧ f.key .plain < 4096 ∧ s.team? 7 = some witTeam ∧ s.recruitRefused 0 1 witTeam = false ∧
      min (min f.tokA.w64.toNat 64) (s.freeSlots 0 witTeam 0).length = 0) ∧
    (u.Fires f .plain ∧ u.freeSlots 0 witTeam 0 = [4] ∧ u.recruitRefused 0 1 witTeam = false) ∧
    v.waitlyCause 0 1 0 = none ∧ v.waitlyCause 0 1 1 = some 2 ∧ (v.exec? 0 1).isSome = true :=
  ⟨⟨⟨rfl, rfl, rfl⟩, by decide +kernel, rfl, by decide +kernel, by decide +kernel⟩,
   ⟨⟨rfl, rfl, rfl⟩, by decide +kernel, by decide +kernel⟩, by decide +kernel, by decide +kernel, rfl⟩

/-- TilesStep: a token of a slot that pairs by tag, an EOS, a stray; a plane that may be swapped, with and without operands
left; a row to step that is not the last, and the last. -/
theorem test_hyp_tiles :
    let tok := witWord 5
    let tile (t : Token) (p : Nat) : Tile := { main := { plane := witPlane, chans := [(p, [⟨t, 0, false⟩])] } }
    let s := witDev witWaiting {} (tile tok 6)
    let e := witDev witWaiting {} (tile { tok with eos := true } 6)
    let q := witDev witWaiting {} (tile tok 4)
    let left : List Entry := [{ slot := 2, side := .a, kind := .operand, tok := tok, cycle := 0, seq := 0 }]
    let ovr (l : List Entry) := witDev witWaiting {} { main := { plane := witPlane, eos := [(6, 1), (0, 1)], store := l }, shadow := some witPlane }
    let rows (n : Nat) := witDev witWaiting {} { mx := { armed := true, rows := [⟨[], 0, 0, 0, 0⟩], rem := n, ncol := 1 } }
    let i := Instr.add ⟨.w0, .n0, .e0, .discard, .plain⟩ .w64 ⟨false, 0⟩
    (((s.ctx 0 0 false).port 6).head? = some ⟨tok, 0, false⟩ ∧ (s.ctx 0 0 false).headReady 6 (s.cycle 0) = true ∧
      (s.tile 0 0).frozen = none ∧ portSlot witPlane 6 = some (2, .a, i, ⟨.w0, .n0, .e0, .discard, .plain⟩) ∧
      slotInstr ⟨0x20601800, 0⟩ = some i ∧ collects i ⟨.w0, .n0, .e0, .discard, .plain⟩ .a = false ∧ s.fmtOk 0 i .a tok = true ∧
      (s.ctx 0 0 false).used < s.storeCap 0 0 (s.ctx 0 0 false)) ∧
    (((e.ctx 0 0 false).port 6).head?.map (·.tok.eos) = some true ∧ (e.ctx 0 0 false).headReady 6 (e.cycle 0) = true) ∧
    (((q.ctx 0 0 false).port 4).head? = some ⟨tok, 0, false⟩ ∧ (q.ctx 0 0 false).headReady 4 (q.cycle 0) = true ∧ portSlot witPlane 4 = none) ∧
    (((ovr []).tile 0 0).main.eosComplete = true ∧ (ovr []).drained 0 0 = true ∧ (ovr []).accessesBack 0 0 = true ∧
      (ovr []).keepsForPreempt 0 0 = false ∧ ((ovr []).tile 0 0).main.leftovers = [] ∧ planeHasMma witPlane = false) ∧
    ((ovr left).drained 0 0 = true ∧ ((ovr left).tile 0 0).main.eosComplete = true ∧ ((ovr left).tile 0 0).main.leftovers ≠ []) ∧
    (((rows 2).canRowStep 0 0 = true ∧ 1 < ((rows 2).tile 0 0).mx.rem) ∧ (rows 1).canRowStep 0 0 = true ∧ ((rows 1).tile 0 0).mx.rem = 1) := by
  decide +kernel

/-- DealerRounds: a region with nothing to choose, with a class-0 thread, a load under way, a thread to inject, a batch that
ends. -/
theorem test_hyp_dealer :
    let b : Batch := { image := 5, block := 0, batch := [1], class0 := true }
    let none_ := witDev {} {} {}
    let some_ := witDev witWaiting {} {}
    let load := witDev witWaiting { loads := [{ image := 5, block := 0, tiles := [0], first := true, cycle := 0 }] } {}
    let inj := witDev witWaiting { batch := some b } { main := { plane := witPlane } }
    let ovr := witDev {} { batch := some { b with batch := [] } } {}
    (none_.regionFrozen 0 0 = false ∧ none_.mayChoose 0 0 = true ∧ none_.candidates 0 0 = []) ∧
    (some_.mayChoose 0 0 = true ∧ some_.candidates 0 0 = [⟨5, 0, [1]⟩] ∧ some_.ofClass 0 0 ⟨5, 0, [1]⟩ = [1]) ∧
    ((load.region 0 0).loads.length = 1 ∧ load.loadReady 0 (load.region 0 0).loads 0 = true ∧ (load.tile 0 0).shadow = none) ∧
    (inj.nextToInject 0 (inj.region 0 0) = some 1 ∧ inj.blockOn (dieOf 0) 5 0 = some witBlock ∧ (inj.region 0 0).lastInj = none ∧ inj.injectOk 0 0 5 0 witBlock = true ∧
      (inj.distOf (dieOf 0)).preempting = false ∧ inj.rpl.draining = false) ∧
    (ovr.batchEnds 0 0 = true ∧ (ovr.region 0 0).held = false) := by
  decide +kernel

/-- ExitsAtDealer: an exit that must wait for an access; a true exit to a block of the image; a deferrable fault; a barrier
whose count has reached BAR_WDT. -/
theorem test_hyp_dealer_exits :
    let site : Site := ⟨0, 0, 2, false⟩
    let x : ExitSeen := { site := site, bits := ⟨0x818E6814, 1⟩, fired := true, deferred := false, next := some 1 }
    let run (e : Exec) := witDev { witWaiting with st := .running, exec := some e } {} {}
    let e0 : Exec := { image := 5, block := 0, region := 0, exits := [x] }
    let e1 : Exec := { e0 with exits := [{ x with deferred := true }], sentFault := true, faults := [⟨0x14, site, ⟨0, 0⟩, 0, 0, 0⟩] }
    let s := run e0
    let busy : State := { s with cores := KMap.mapVals s.cores (fun c => { c with accesses := [(3,
      { id := 0, thread := 1, site := site, bits := ⟨0, 0⟩, a := [], b := [], q := [], stage := .reply, due := 0, fired := 0 })] }) }
    let bar : State := { s with teams := [(7, { witTeam with bars := [(0, { arrived := [1], count := 1000000000 })] })] }
    isHandlerKey 1 = false ∧ busy.exitReady 0 1 = false ∧ (busy.exec? 0 1).isSome = true ∧
    (s.exitReady 0 1 = true ∧ e0.exits.filter (·.fired) = [x] ∧ e0.exits.any (·.deferred) = false ∧ s.nextAllowed 0 1 e0 x = true ∧
      ((s.releaseEntries 0 1 (fun _ => true)).thread 0 1).helper = none ∧
      ((s.releaseEntries 0 1 (fun _ => true)).thread 0 1).st = .running) ∧
    ((run e1).exitReady 0 1 = true ∧ e1.faults ≠ [] ∧ ∀ z ∈ e1.faults, z.code ≠ 0x10) ∧
    ((bar.teams.filter (fun p => p.2.core = some 0)).length = 1 ∧ bar.regN .barWdt ≠ 0 ∧ (bar.barrier 7 0).hung = false ∧
      (bar.barrier 7 0).arrived ≠ [] ∧ bar.regN .barWdt ≤ (bar.barrier 7 0).count) := by
  decide +kernel

/-- A command in the queue of an engine. -/
def witCmd : CopyCmd :=
  { count := 0, core := 0, thread := 1, team := 7, tid := 1, aspace := 2, handler := false, scope := .device, src := 0x200, dst := 0x300,
    rows := 1, len := 8, sstride := 0, dstride := 0, flag := 0, flagok := 0, flagerr := 0, record := { code := 0, kind := 4 } }

/-- ThreadsLeaveWaits: a tick that is reached and the next one, which is not; a promise whose copy the engine has dropped and
one that it holds; a join that is over and one that is not; a reservation and a hold at their ages and one tick before. -/
theorem test_hyp_waits :
    let sleep (t : Nat) := witDev { witWaiting with st := .sleeping, wait := some (.tick t) } {} {}
    let promise := witDev { witWaiting with st := .sleeping, wait := some (.promise 20000 0 3 .device) } {} {}
    let held : State := { promise with engines := [(0, { queue := [witCmd] })] }
    let r (d : List Nat) : Recruitment := { reg := 2, fop := .iadd, hblk := 1, slots := [4], arg := 0, opened := true, done := d }
    let joins (d : List Nat) : State := { witDev { witWaiting with st := .joining, wait := some (.joinOf 3) } {} {} with
      teams := [(7, { witTeam with recs := [(1, r d)] })] }
    let resv (t : Nat) := witDev { witWaiting with resv := some ⟨4, t⟩, hold := some ⟨4, t⟩ } {} {}
    ((sleep 20000).viewReached 0 20000 = true ∧ (sleep 20001).viewReached 0 20001 = false) ∧
    (promise.viewReached 0 20000 = true ∧ (promise.engine 0 0).queue.any (fun q => q.count % 1024 = 0) = false) ∧
    (held.engine 0 0).queue.any (fun q => q.count % 1024 = 0) = true ∧
    (((joins [0]).thread 0 1).wait = some (.joinOf 3) ∧ (r [0]).over = true ∧ (r []).over = false ∧
      (joins [0]).team? 7 = some { witTeam with recs := [(1, r [0])] }) ∧
    (∀ t ∈ [10000, 10001, 18000, 18001], (resv t).now 0 = 20000 ∧ ((resv t).thread 0 1).resv = some ⟨4, t⟩ ∧ ((resv t).thread 0 1).hold = some ⟨4, t⟩) := by
  decide +kernel

/-- Completions: a walk that finds a leaf and one that finds none; an LDF at its deadline; an engine's first command before and
after its handing over, and copied; an invalidation. -/
theorem test_hyp_completions :
    let s := witDev witRunning {} {}
    let w (page : Nat) : Walk := { id := 4, pd := 0, aspace := 2, page := page, root := 0x3001, waiters := [(0, 3)] }
    let walk (page : Nat) : State := { s with mmu := { s.mmu with walks := [w page] } }
    let x (t : Nat) : Access :=
      ⟨0, 1, ⟨0, 0, 2, false⟩, ⟨0x649E5814, 0x404C0000⟩, [witWord 0x100], [], [], .reply, 0, 0, some t, [], none, none⟩
    let ldf (t : Nat) : State := { s with cores := KMap.mapVals s.cores (fun c => { c with accesses := [(3, x t)] }) }
    let eng (q : CopyCmd) : State := { s with engines := [(0, { queue := [q] })] }
    let q := { witCmd with handed := true }
    (∀ p ∈ [0, 0x4000], ((walk p).mmu.walks.find? (fun y => y.id = 4)) = some (w p) ∧ (walk p).walking (w p) = true) ∧
    ((walk 0).walkWait 0 2 0 0x3001 = none ∧ (walk 0x4000).walkWait 0 2 (0x4000 * 65536) 0x3001 = none ∧
      s.walkWait 0 2 0 0xC000000003001 = some (lineOf 0xC000000003000)) ∧
    ((s.walk 0 2 0 0x3001).2.isSome = true ∧ (s.walk 0 2 (0x4000 * 65536) 0x3001).2 = none) ∧
    (∀ t ∈ [20000, 20001], ∃ y, KMap.look ((ldf t).core 0).accesses 3 = some y ∧ y.deadline = some t) ∧
    ((ldf 0).canSend 0 0 false .q2 = true ∧ (s.distOf (dieOf 0)).preempting = false) ∧
    ((eng q).copyPlaces 0 q = [(0x200, 0x300)] ∧ (((eng q).copyPlaces 0 q).all (fun y => (eng q).readReady (lineOf y.1) &&
      (eng q).agentReady (lineOf y.2) none)) = true ∧ (eng q).copyStopped q = false ∧ ((eng q).copyData 0 q).1.copyStopped q = false) ∧
    ((eng witCmd).engine 0 0).queue.find? (fun y => !y.copied) = some witCmd ∧
    ((eng { q with copied := true }).engine 0 0).queue.find? (fun y => y.copied && !(eng q).copyStopped y) = some { q with copied := true } ∧
    q.flag = 0 ∧ ({ s with invals := [⟨1, 0, 1, 2, 0x4000, .device⟩] } : State).invals ≠ [] ∧
    (∃ p ∈ s.images, p.1 = 5 ∧ p.2.aspace = 2 ∧ p.2.va = 0x4000) := by
  refine ⟨by decide +kernel, by decide +kernel, by decide +kernel, ?_, by decide +kernel, by decide +kernel, by decide +kernel, by decide +kernel, rfl,
    by decide, (5, witImage), by decide +kernel, by decide +kernel⟩
  intro t ht
  simp only [List.mem_cons, List.not_mem_nil, or_false] at ht
  rcases ht with rfl | rfl <;> exact ⟨_, rfl, rfl⟩

/-- A record, a trap of the witness thread and one of tile 0. -/
def witRecord : Record := { code := 0x14, kind := 1, core := some 0, tid := some 1 }
def witTrap : Trap := { record := witRecord, kind := .exit, thread := some 1, team := some 7 }
def witFreezeTrap : Trap := { record := { witRecord with code := 0x30, kind := 2 }, kind := .freezing, tile := 0 }

/-- TrapsReachHandlers: fault tokens of both kinds; a trap with a handler block and one without; the ring off, full and free. -/
theorem test_hyp_traps :
    let s := witDev { witWaiting with st := .trapped } {} {}
    let net (f : FaultTok) : State := { s with cores := KMap.mapVals s.cores (fun c => { c with faultNet := [f] }) }
    let f : FaultTok := { code := 0x30, thread := none, tile := some 0, kind := .freezing, record := witRecord }
    let g : FaultTok := { f with thread := some 1, kind := .wait }
    let up : State := (({ s with cores := KMap.mapVals s.cores (fun c => { c with traps := [witTrap] }) } : State).setReg .mmuRoot 0 0x3001)
    let slotted (u : State) : State := { u with cores := KMap.mapVals u.cores (fun c => { c with traps := [], hslots := [(0, witTrap)] }) }
    let hand : State := slotted { up with station := { up.station with himage := some 5 }, images := [(5, { witImage with actions := List.replicate 0x15 0 })] }
    let n := ((witTrap.withPage 0).record.toBytes ++ (witTrap.withPage 0).ops.flatMap OpItem.toBytes).length
    let ring (v tail : Nat) : State := { s.setReg .fstQctl 0 (BitVec.ofNat 64 v) with station := { s.station with pending := [witRecord], tail := tail } }
    (((net f).core 0).faultNet = [f] ∧ f.thread = none ∧ ((net g).core 0).faultNet = [g] ∧ g.thread = some 1 ∧ isHandlerKey 1 = false ∧ g.kind = .wait) ∧
    (up.nextTrap 0 = some witTrap ∧ up.freeHslot 0 = some 0 ∧ up.recordPage 0 0 = 0 ∧ up.regBits .fstHimg 0 63 56 = 0 ∧
      (match up.deviceXlat 0 0 0 n true true with | .ok a => a == 0 | .error _ => false) = true ∧ up.deviceReady 0 n = true ∧
      up.handlerBlock 0x14 = none) ∧
    (∀ u ∈ [hand, slotted up], u.nextTrap 0 = none ∧ u.nextBegin 0 = some (0, witTrap) ∧ KMap.look (u.core 0).hslots 0 = some witTrap) ∧
    witTrap.toSystem = false ∧ hand.handlerBlock 0x14 = some 0 ∧
    bitOf ((ring 0 0).regN .fstQctl) 0 = false ∧
    (bitOf ((ring 1 0).regN .fstQctl) 0 = true ∧ ringFull 0 ((ring 1 0).regN .fstQhead) (ring 1 0).sysQueueSize = false ∧
      (ring 1 0).deviceReady ((ring 1 0).regBits .fstQbase 0 51 12 * 4096 + 64 * (0 % (ring 1 0).sysQueueSize)) 64 = true) ∧
    ringFull (ring 1 0).sysQueueSize ((ring 1 0).regN .fstQhead) (ring 1 0).sysQueueSize = true := by
  decide +kernel

/-- PageRequestsAndParking: an identifier that is outstanding and one that is not; a hand parked for one answer; a team due to be
marked, by the limit in force and by a write of it; an image address that does not translate. -/
theorem test_hyp_parking :
    let th : Thread := { witWaiting with st := .parked, cls := 1 }
    let s0 := witDev th {} {}
    let team : Team := { witTeam with parks := [(0, ⟨0, [6]⟩)] }
    let s : State := { (s0.setReg .dlrSaven 0 4) with teams := [(7, team)], station := { s0.station with requests := [⟨6, 2, 0, none⟩] } }
    let late : State := s.setReg .dlrParklim 0 19999
    let no : State := s.setReg .dlrParklim 0 20001
    let q := s.setReg .fstHimg 0 0
    s.pgOutstanding 7 = false ∧ s.pgOutstanding 6 = true ∧
    (s.teams = [(7, team)] ∧ team.core = some 0 ∧ team.parks = [(0, ⟨0, [6]⟩)] ∧ 1 ∈ team.slots ∧ (s.thread 0 1).st = .parked ∧
      (s.thread 0 1).helper = none ∧ (s.thread 0 1).tid / 32 = 0 ∧ (s.thread 0 1).denied = none) ∧
    no.markDue 7 = false ∧ (late.markDue 7 = true ∧ (KMap.look team.parks 0).isSome = true ∧ late.clusterTeams 7 = [7] ∧
      late.freeAreas = [0, 1, 2, 3] ∧ ∀ j ∈ team.slots, (late.thread 0 j).helper = none) ∧
    (no.setReg .dlrParklim 0 1).markDue 7 = true ∧ (∀ p ∈ no.teams, (no.setReg .dlrParklim 0 30000).markDue p.1 = false) ∧
    (match q.checkImage 0 0 .handler none with | .bad _ => true | _ => false) = true := by
  decide +kernel

/-- Resolutions: an empty slot; a raised trap of each kind, with a block the thread may enter and one that the image lacks; a
frozen tile that holds a token of a channel. -/
theorem test_hyp_resolutions :
    let hold (t : Trap) (z : Option Freeze) : State :=
      let s := witDev { witWaiting with st := .trapped } {} { frozen := z }
      { s with cores := KMap.mapVals s.cores (fun c => { c with hslots := [(2, { t with raised := true })] }) }
    let e := hold witTrap none
    let z : Freeze := { code := 0x30, site := ⟨0, 0, 2, false⟩, token := some (witWord 5), channel := 11 }
    let f := hold witFreezeTrap (some z)
    KMap.look (e.core 0).hslots 0 = none ∧ KMap.look (e.core 0).hslots 2 = some { witTrap with raised := true } ∧
    (witTrap.kind = .exit ∧ witTrap.thread = some 1 ∧ witTrap.void = false ∧ ({ witTrap with void := true } : Trap).void = true ∧ witTrap.afterAtomic = false ∧ witTrap.repairs = [] ∧ (e.thread 0 1).helper = none) ∧
    (e.blockAllowed 0 1 1 = true ∧ e.blockAllowed 0 1 2 = false ∧ isHandlerKey 1 = false) ∧
    (witFreezeTrap.kind = .freezing ∧ (f.tile 0 witFreezeTrap.tile).frozen = some z ∧ z.held = none ∧ z.token = some (witWord 5) ∧ z.channel < 12) := by
  decide +kernel

/-- The witness device with its team, thread and tile as given. -/
def witTeams (t : Thread) (x : Tile) (m : Team) : State := { witDev t {} x with teams := [(7, m)] }

theorem wit_mem_dedup (a : Nat) (l acc : List Nat) :
    a ∈ l.foldl (fun acc x => if acc.contains x then acc else acc ++ [x]) acc → a ∈ acc ∨ a ∈ l := by
  induction l generalizing acc with
  | nil => exact Or.inl
  | cons x l ih =>
    intro h
    rw [List.foldl_cons] at h
    rcases ih _ h with h | h
    · split at h
      · exact Or.inl h
      · rcases List.mem_append.mp h with h | h
        · exact Or.inl h
        · exact Or.inr (List.mem_cons.mpr (Or.inl (List.mem_singleton.mp h)))
    · exact Or.inr (List.mem_cons_of_mem _ h)

/-- In a device whose coherence state is empty and where no thread holds a granule, the device may write all local memory. -/
theorem wit_ready (s : State) (hz : s.z240 = false) (hc : s.coh = {}) (hh : ∀ g, s.holder g = none) (pa n : Nat)
    (h : pa + n ≤ 0xC000000000) : s.deviceReady pa n = true := by
  refine List.all_eq_true.mpr (fun l hl => ?_)
  have ht (a : Nat) (ha : a < 0xC000000000) : s.target a = .hbm := by simp [State.target, hz, ha]
  rcases wit_mem_dedup l _ _ hl with hl | hl
  · cases hl
  · obtain ⟨i, hi, rfl⟩ := List.mem_map.mp hl
    have hi : i < n := List.mem_range.mp hi
    have e : s.canonAddr (pa + i) = pa + i := by simp only [State.canonAddr, ht (pa + i) (by omega)]
    have hb : 64 * lineOf (pa + i) < 0xC000000000 := by unfold lineOf; omega
    have hm : s.homeMustWait (lineOf (pa + i)) = false := by
      simp [State.homeMustWait, State.hasHorizon, State.dirOf, State.outerOk, State.isOuter, ht _ hb, hc, KMap.look, KMap.lookD]
    rw [e, State.agentReady, hm, State.heldBack, hh]
    simp

/-- A tile frozen with a token of the thread in slot 1 held. -/
def witFrozen : Tile := { frozen := some { code := 0x30, site := ⟨0, 0, 2, false⟩, token := some (witWord 5) } }

/-- TeamsSwap: a marked team that has drained and one that has not; one that cannot drain; a saved team that a core can take and
one that none can, with READMIT due and not. -/
theorem test_hyp_swap :
    let m : Team := { witTeam with mark := some ⟨0, 0, 4000, 0⟩, area := some 0 }
    let out : Team := { witTeam with core := none, bases := [], area := some 0 }
    let s := witTeams witWaiting {} m
    let busy := witTeams witRunning {} m
    let stuck := witTeams witRunning witFrozen m
    let saved := witTeams {} {} out
    let big (n : Option Nat) : State := { witTeams {} {} { out with readmitAt := n } with grids := [(9, { witGrid with hands := 200 })] }
    (∀ u ∈ [s, busy, stuck, saved, big none], u.clusterTeams 7 = [7] ∧ (u.team? 7).isSome = true ∧ (u.team? 7).map (·.discard) = some false) ∧
    (s.swapReady 7 = true ∧ (s.saveWrites 7).all (fun p => s.deviceReady p.1 p.2.length) = true ∧ s.withdrawDue 7 = false) ∧
    (busy.swapReady 7 = false ∧ stuck.withdrawDue 7 = true ∧ s.readmitReady 7 = false) ∧
    (saved.readmitReady 7 = true ∧ saved.grid? 9 = some witGrid ∧ saved.readmitCores 7 = some [(7, 0)]) ∧
    (∀ n ∈ [none, some 20000, some 20001], (big n).readmitReady 7 = true ∧ (big n).readmitCores 7 = none) := by
  refine ⟨by decide +kernel, ⟨by decide +kernel, ?_, by decide +kernel⟩, by decide +kernel, by decide +kernel, by decide +kernel⟩
  exact List.all_eq_true.mpr (fun p hp => wit_ready _ rfl rfl (fun _ => rfl) _ _
    ((by decide +kernel : ∀ p ∈ State.saveWrites _ 7, p.1 + p.2.length ≤ 0xC000000000) p hp))

theorem wit_flat (f : Nat → List Byte) (k n : Nat) (hf : ∀ i, (f i).length ≤ k) : ((upTo n).flatMap f).length ≤ k * n := by
  unfold upTo
  induction n with
  | zero => simp
  | succ n ih =>
    rw [List.range_succ, List.flatMap_append, List.length_append, Nat.mul_succ]
    exact Nat.add_le_add ih (by simpa using hf n)

/-- The image of an empty matrix unit fits its place in the context area. -/
theorem wit_mx : ({} : Matrix).toBytes.length ≤ 0xA000 := by
  have h1 := wit_flat (fun i => leBytes 8 (KMap.lookD ({} : Matrix).acc i 0).toNat) 8 4096 (fun i => by simp [leBytes])
  rw [Matrix.toBytes]
  simp only [List.length_append]
  exact Nat.le_trans (Nat.add_le_add (Nat.add_le_add (Nat.add_le_add (Nat.add_le_add (Nat.add_le_add (Nat.add_le_add h1
    (by decide +kernel : _ ≤ 32)) (by decide +kernel : _ ≤ 8)) (by decide +kernel : _ ≤ 64)) (by decide +kernel : _ ≤ 1024))
    (by decide +kernel : _ ≤ 2176)) (by decide +kernel : _ ≤ 608)) (by decide)

/-- A device whose die 0 is being pre-empted into the area at 0x8000000, with a bound. -/
def witPreempt (m : Team) (t : Thread) (x : Tile) (bound : Nat) : State :=
  { ((witTeams t x m).setReg .dlrSaven 0 4).setReg .dlrParg 0 0x8000000 with
      dist := [(0, { preempting := true, bound := bound, parg := 0x8000000 })] }
def witQuiet : State := witPreempt { witTeam with area := some 0 } witWaiting {} 0

theorem wit_quiet : (witQuiet.preemptWrites 0).all (fun p => witQuiet.deviceReady p.1 p.2.length) = true := by
  refine List.all_eq_true.mpr (fun p hp => wit_ready _ rfl rfl (fun _ => rfl) _ _ ?_)
  rcases List.mem_append.mp hp with hp | hp
  · exact (by decide +kernel : ∀ p ∈ (witQuiet.dieTeams 0).flatMap (fun t => witQuiet.saveWrites t), p.1 + p.2.length ≤ 0xC000000000) p hp
  obtain ⟨q, hq, rfl⟩ := List.mem_map.mp hp
  rcases List.mem_append.mp hq with hq | hq
  · exact (by decide +kernel : ∀ q ∈ witQuiet.contextHeader 0, 0x8000000 + q.1 + q.2.length ≤ 0xC000000000) q hq
  obtain ⟨c, hc, hq⟩ := List.mem_flatMap.mp hq
  rcases List.mem_append.mp hq with hq | hq
  · obtain ⟨i, hi, rfl⟩ := List.mem_mapIdx.mp hq
    have hm := wit_mx
    have hi : i < 48 := hi
    have hx := (by decide +kernel : ∀ c ∈ coresOfDie 0, ∀ t ∈ cTiles, (KMap.lookD (witQuiet.core c).tiles t {}).mx = {}) c hc _
      (List.getElem_mem (l := cTiles) hi)
    show 0x8000000 + (0x100000 + c % 32 * 0x200000 + 0xA000 * i) + (KMap.lookD (witQuiet.core c).tiles cTiles[i] {}).mx.toBytes.length ≤ 0xC000000000
    rw [hx]
    omega
  · have hx := (by decide +kernel : ∀ c ∈ coresOfDie 0,
      ((witQuiet.core c).heldPart (((witQuiet.regionsOf c).filter (fun r => (witQuiet.region c r).held)).flatMap (witQuiet.regionTiles c))
        ((witQuiet.core c).threads.filterMap (fun p => if witQuiet.execHeld c p.1 then p.2.exec.map (fun e => (p.1, e)) else none))
        (witQuiet.savedCore c).traps).length ≤ 0x1F0000) c hc
    rw [List.mem_singleton.mp hq]
    show 0x8000000 + (0x4100000 + c % 32 * 0x1F0000) + _ ≤ _
    exact Nat.le_trans (Nat.add_le_add_left hx _) (by omega)

/-- Preemption: a die that may be pre-empted, and one that may not; one whose quiescence tree reports and one that has to wait,
with its bound passed and not; a restore that is refused and one that is not. -/
theorem test_hyp_preempt :
    let idle : State := { witPreempt witTeam witWaiting {} 0 with dist := [] }
    let stuck (n : Nat) := witPreempt { witTeam with area := some 0 } witRunning witFrozen n
    let back : State := { idle with cores := [], teams := [], contexts := [(0x8000000, {})] }
    (idle.preemptRefused 0 = false ∧ witQuiet.preemptRefused 0 = true ∧ idle.preemptQuiet 0 = false ∧ (idle.distOf 0).preempting = false) ∧
    (witQuiet.preemptQuiet 0 = true ∧ (witQuiet.preemptWrites 0).all (fun p => witQuiet.deviceReady p.1 p.2.length) = true) ∧
    (∀ n ∈ [20000, 20001], (stuck n).preemptQuiet 0 = false ∧ ((stuck n).distOf 0).preempting = true ∧
      (stuck n).boundPast 0 ((stuck n).distOf 0).writtenAt ((stuck n).distOf 0).bound ((stuck n).distOf 0).slowAt = decide (n ≤ 20000)) ∧
    (stuck 20000).regionStill 0 0 = true ∧
    (idle.restoreRefused 0 = true ∧ back.restoreRefused 0 = false ∧ KMap.look back.contexts (back.regN .dlrParg) = some {}) := by
  refine ⟨by decide +kernel, ⟨by decide +kernel, wit_quiet⟩, by decide +kernel, by decide +kernel, by decide +kernel⟩

/-- A packet of queue 1 with its words given. -/
def witPacket (words : List Word) (st : PktState) : Packet :=
  { index := 0, key := 0, va := 0x8000, words := words, gen := 0, seed := 0, st := st }
/-- A device whose queue 1 is enabled for address space 2, its ring of 16 packets at 0x8000. -/
def witQueue (q : Queue) (cells : List Host.Cell) : State :=
  let s := witDev {} {} {}
  { (s.setReg .lqCtl 1 0x0200000000000001).setReg .lqBase 1 0x8000 with
      queues := [(1, q)], teams := [], grids := [], mem := witTables ++ cells }

/-- LaunchQueues: a doorbell at the ring's room and one beyond; EN off and on; a queue that is done and one that has a grid; a
packet to read. -/
theorem test_hyp_queues :
    let s := witQueue { accepted := 3, head := 3 } []
    let off := s.setReg .lqCtl 1 0x0200000000000000
    let torn (n : Nat) := witQueue { tear := n } []
    let some_ : State := { s with grids := [(9, witGrid)], dist := [(0, { shares := [⟨9, [0]⟩] })] }
    let ring := witQueue { accepted := 1 } [(0x8000, 1)]
    let words := (upTo 16).map (fun j => BitVec.ofNat 64 (ring.outsideLoad (0x8000 + 8 * j) 8))
    (s.lqEn 1 = true ∧ (s.queue 1).tear = 0 ∧ (s.queue 1).head + s.lqSize 1 = 19 ∧ (s.queue 1).packets.any (fun p => p.2.st = .begun) = false) ∧
    (s.z240 = false ∧ off.lqEn 1 = false ∧ bitOf (0x0200000000000001 : Word).toNat 0 = true ∧ bitOf (0x0200000000000000 : Word).toNat 0 = false) ∧
    (s.queueGrids 1 = [] ∧ some_.queueGrids 1 = [9] ∧ some_.grid? 9 = some witGrid ∧ witGrid.complete = false ∧ some_.unitsLeft 9 = true) ∧
    (∀ n ∈ [0, 1, 2], ((torn n).queue 1).tear = n ∧ (torn n).queueGrids 1 = [] ∧ (torn n).queueCopies 1 = false ∧
      ((torn n).queue 1).packets = []) ∧
    (s.grids.any (fun g => !g.2.complete) = false ∧ some_.grids.any (fun g => !g.2.complete) = true) ∧
    ((ring.queue 1).head < (ring.queue 1).accepted ∧ ring.lqAspace 1 = 2 ∧ ring.packetVa 1 0 = 0x8000 ∧
      (match ring.deviceXlat 0 2 0x8000 128 false false with | .ok a => a == 0x8000 | .error _ => false) = true ∧
      (linesOf 0x8000 128).all ring.readReady = true ∧ (linesOf 0x8000 128).any (fun l => ring.outsidePoison l || ring.addrFailed (64 * l)) = false ∧
      ring.packetInvalid (witPacket words .read) = false) := by
  decide +kernel
/-- GridsRun: a packet with a wait signal, one whose waits are satisfied, a SIGNAL packet; a share with a unit and a core for it; a
die without work and one with a victim; a grid that is over and one that is not; a packet whose image is stored; an image that no
die needs again. -/
theorem test_hyp_grids :
    let waits := witPacket [0x20000000001, 0, 0x4000, 77, 0x9000, 0x9008] .imaged
    let begun := { witPacket [1, 0, 0x4000, 77, 0x9000] .imaged with image := some 5 }
    let signal := witPacket [2, 0, 0, 0, 0x9000] .imaged
    let load := witPacket [1, 0, 0x4000, 77, 0x9000] .read
    let q (p : Packet) := witQueue { accepted := 1, head := 1, packets := [(0, p)] } [(0x900D, 1)]
    let s := q waits
    let some_ : State := { q load with images := [(5, { witImage with dies := upTo 8 })] }
    let gone : State := { witDev witWaiting { loads := [{ image := 5, block := 0, tiles := [0], first := true, cycle := 0 }] } {} with
      images := [(5, { witImage with dies := [], dropped := true })] }
    let share (l m : List Nat) : State := { witDev {} {} {} with teams := [], dist := [(0, { shares := [⟨9, l⟩] }), (1, { shares := [⟨9, m⟩], steal := some 0 })] }
    let done_ (n : Nat) : State := { witDev {} {} {} with teams := [(7, { witTeam with retired := true })], grids := [(9, { witGrid with retired := n, doneVa := 0x9000 })] }
    ((s.packetToBegin 1 = some waits ∧ KMap.look (s.queue 1).packets 0 = some waits ∧ 0 < waits.nwait ∧ waits.satisfied.contains 0 = false) ∧
      (match s.signalXlat 2 (waits.waitVa 0) false with | .ok a => a == 0x9008 | .error _ => false) = true ∧
      s.readReady (lineOf 0x9008) = true ∧ s.outsidePoison (lineOf 0x9008) = false ∧ s.addrFailed 0x9008 = false ∧ s.deviceRead 0x9008 8 = 2 ^ 40) ∧
    ((q begun).packetToBegin 1 = some begun ∧ ((q begun).queue 1).tear = 0 ∧ begun.nwait ≤ begun.satisfied.length ∧ begun.ser = false ∧
      begun.type ≠ 2 ∧ begun.st = .imaged ∧ begun.image = some 5) ∧
    ((q signal).packetToBegin 1 = some signal ∧ signal.type = 2 ∧ (q signal).signalReady 2 signal.done = true) ∧
    ((share [0] []).nextShare 0 = some (⟨9, [0]⟩, 0) ∧ witGrid.clusterSize = 1 ∧ (share [0] []).image? 5 = some witImage ∧
      witImage.dies.contains 0 = true ∧ (share [0] []).readmitFirst 0 = false ∧ (share [0] []).dieAdmits 0 = true ∧
      (share [0] []).unitCores [0] witGrid = some [0]) ∧
    ((share [] []).readReg .dstMode 0 ≠ 1 ∧ (share [] []).dieRuns 0 = true ∧ (share [] []).unitsOf 0 = 0 ∧ ((share [] []).distOf 0).steal = none) ∧
    (((share [4, 5, 6] []).distOf 1).steal = some 0 ∧ ((share [4, 5, 6] []).distOf 0).shares.find? (fun x => !x.units.isEmpty) = some ⟨9, [4, 5, 6]⟩) ∧
    ((done_ 0).gridOver 9 = false ∧ (done_ 1).gridOver 9 = true ∧ (done_ 1).signalReady 2 0x9000 = true) ∧
    (s.packetToLoad 1 = none ∧ (q load).packetToLoad 1 = some load ∧
      (match (q load).readImage 2 0x4000 256 false with
        | .good hd => some_.findImage 2 0x4000 (BitVec.ofNat 64 (imgAt hd 8 8)) == some 5 && (packetErr hd (.packet load.regs load.ctx)).isNone
        | _ => false) = true) ∧
    (s.reloadDue 5 = false ∧ gone.reloadDue 5 = true) := by
  decide +kernel

/-- The witness device with its coherence state given, every die's view valid at tick 20000, and its host port up. -/
def witCoh (c : Coh) : State :=
  { witDev {} {} {} with
      teams := [], grids := [], cores := [], coh := c, links := { cxl := [(0, 1)] },
      time := { ref := 20000, dies := (upTo 13).map (fun d => (d, { valid := true, copy := 20000, cycle := 100 })) } }

/-- HomesServe: every kind of request at the head of line 0, whose home is node 0; an owner's line in each state; a lease at its
expiry and one tick before. -/
theorem test_hyp_homes :
    let req (n : Nat) (k : ReqKind) (e : DirEntry) := witCoh { reqs := [⟨0, n, k, false⟩], dir := [(0, e)] }
    let own (st : LineState) (l : List LineReq) := witCoh { reqs := l, dir := [(0, { owner := some 1 })], l2 := [(1, [(0, ⟨st, 7, 0, false⟩)])] }
    let lease (t : Tick) := witCoh { l2 := [(1, [(0, ⟨.l, 7, t, false⟩)])] }
    (witCoh {}).headReq 0 = none ∧ (witCoh {}).homeNode 0 = 0 ∧
    ((req 1 .uncached {}).headReq 0 = some ⟨0, 1, .uncached, false⟩ ∧ (req 1 .uncached {}).homeServes 0 = true) ∧
    (∀ n ∈ [0, 1, hostNode], (req n .readShared {}).headReq 0 = some ⟨0, n, .readShared, false⟩ ∧ (req n .readShared {}).homeReadable 0 = true) ∧
    ((req 1 .readShared {}).nodeValid 1 = true ∧ (KMap.look (req 1 .readShared {}).coh.dir 0).isSome = true ∧
      ((req 1 .readShared {}).l2Slice 1 ((req 1 .readShared {}).homeSlice 0)).length < (req 1 .readShared {}).l2Cap 1 ((req 1 .readShared {}).homeSlice 0)) ∧
    ((req 1 .readOwn {}).headReq 0 = some ⟨0, 1, .readOwn, false⟩ ∧ (req 1 .readOwn {}).canReadOwn 0 1 = true) ∧
    (∀ st ∈ [LineState.m, .o, .e], ((own st []).dirOf 0).owner = some 1 ∧ (own st []).l2Line 1 0 = some ⟨st, 7, 0, false⟩ ∧
      (own st []).canForward 0 2 = false ∧ (own st [⟨0, 2, .readOwn, false⟩]).canRecall 0 = true) ∧
    (own .m [⟨0, 2, .readShared, false⟩]).canForward 0 2 = true ∧
    (∀ t ∈ [20016, 20017], (lease t).l2Line 1 0 = some ⟨.l, 7, t, false⟩ ∧ (lease t).homeNow 1 = 20000) := by
  decide +kernel

/-- OutsideAgents: a local line that the host may take; a snoop that waits for its answer; lines of the host, a pool and another
package that are held, asked for, written or neither. -/
theorem test_hyp_outside :
    let t := witCoh { dir := [(0, {})] }
    let s := witCoh { dir := [(0, {})], snoops := [(0, true)] }
    let host := 0x300000000000
    let pool := 0x100000000000
    let out (l : Nat) (o : List LineState) (rq w : List OuterReq) (p : List Nat) :=
      witCoh { outer := o.map (fun x => (l, ⟨x⟩)), outerReqs := rq, writes := w, presence := p }
    (t.isLocal 0 = true ∧ t.hostUp = true ∧ t.hostOwnReady 0 = true ∧ (KMap.look t.coh.dir 0).isSome = true) ∧
    ((witCoh {}).coh.snoops.any (fun p => p.1 = 0) = false ∧ s.coh.snoops.find? (fun p => p.1 = 0) = some (0, true)) ∧
    (s.target (64 * host) = .host ∧ (out host [] [] [] []).isDomain host = false ∧
      ∀ st ∈ [LineState.m, .e, .s], KMap.look (out host [st] [] [] []).coh.outer host = some ⟨st⟩ ∧ (out host [st] [] [] []).horizonPast host = true) ∧
    ((out host [] [] [⟨host, true, 0⟩] []).coh.writes.find? (fun q => q.line = host) = some ⟨host, true, 0⟩ ∧
      (out host [] [⟨host, true, 0⟩] [] []).coh.outerReqs.find? (fun q => q.line = host) = some ⟨host, true, 0⟩) ∧
    (s.target (64 * pool) = .pool 0 ∧ s.coh.presence.contains (pool / 1024) = false ∧
      (out pool [.m] [] [] [pool / 1024]).coh.presence.contains (pool / 1024) = true ∧
      KMap.look (out pool [.m] [] [] [pool / 1024]).coh.outer pool = some ⟨.m⟩ ∧ (out pool [.m] [] [] [pool / 1024]).horizonPast pool = true ∧
      (out pool [] [⟨pool, true, 0⟩] [] [pool / 1024]).coh.outerReqs.any (fun q => q.line = pool) = true) ∧
    ((witCoh {}).agentReady 0 none = true ∧ (witCoh {}).homeReadable 0 = true ∧ (witCoh {}).outsidePoison 0 = false) ∧
    (s.isLocal 0x40000000000 = false ∧ s.isDomain 0x40000000000 = true ∧ s.isDomain 0 = false) := by
  decide +kernel

/-- RangesAndPorts: a range that is valid and has not failed, one with a request past its time, one that has failed, one that is
not valid. -/
theorem test_hyp_ranges :
    let s (v : Word) : State := (((witCoh { outerReqs := [⟨0x100000000000, false, 0⟩] }).setReg .cxpPmbase 0 0x4000000000000).setReg .cxpPmctl 0 v)
    let up := s 0x4000000000001
    (bitOf (up.regN .cxpPmctl 0) 0 = true ∧ up.rangeFailed 0 = false ∧ up.rangeTimedOut 0 = false ∧ (up.setReg .cxpTmo 0 20000).rangeTimedOut 0 = true) ∧
    (s 0x4000000000003).rangeFailed 0 = true ∧ bitOf ((s 0).regN .cxpPmctl 0) 0 = false ∧
    KMap.lookD up.links.zelas 0 0 ≠ 2 ∧ KMap.lookD up.links.zelas 23 0 ≠ 2 := by
  decide +kernel

/-- ChecksAndResets: a check of each kind; a row at its interval and one tick before; a node with writes that wait for ownership
and one that owns a line; a registered word. -/
theorem test_hyp_checks_resets :
    let c (k : Nat) : Check := ⟨k, 64, 0, false⟩
    let s (l : List Check) : State := { witCoh { dir := [(0, { owner := some 1 })], l2 := [(1, [(0, ⟨.m, 7, 0, false⟩)])] } with checks := l }
    let k : Stack := { fast := [3] }
    let waits := witCoh { unperf := [⟨0, 1, 64, 1, 7, none⟩] }
    let word := witCoh { l1 := [(0, [(0, ⟨5, true, 0⟩)])] }
    (∀ n ∈ [1, 2, 3, 4, 5], (s [c n]).checks.find? (fun x => x.kind = n && x.index = 64 && !x.lasting) = some (c n) ∧
      (s []).checks.find? (fun x => x.kind = n && x.index = 64 && !x.lasting) = none) ∧
    (((s []).dirOf 0).owner = some (64 / 64) ∧ (s []).l2Line 1 0 = some ⟨.m, 7, 0, false⟩ ∧ (s []).homeNode 0 ≠ 1 ∧ (s []).nodeRegistered 1 = [] ∧
      ((KMap.lookD (s []).coh.l2 1 []).map (·.1)).Nodup) ∧
    (0 < (s []).stacks ∧ KMap.lookD k.refreshed 3 0 + k.interval 0 3 = 32000000) ∧
    (s []).isLocal 0 = true ∧ (waits.coh.unperf.any (fun u => u.node = 1) = true ∧ (s []).coh.unperf.any (fun u => u.node = 1) = false) ∧
    (word.l1Word 0 0 = some ⟨5, true, 0⟩ ∧ word.pendingAt 0 0 = false ∧ word.homeNode 0 = 0 ∧ dieOf 0 = 0 ∧ nodeOf 0 = 0) := by
  decide +kernel

/-- TimePowerBoot: a die with a valid view, at its bound and beyond it, and one without; windows at the limit and about it; a
device in a rail fault, one before its boot, one in reset; alarms of each action. -/
theorem test_hyp_time :
    let s := witCoh {}
    let view (v : Bool) (n : Tick) : State := { s with time := { ref := 20000, dies := [(0, { valid := v, copy := n })] } }
    let act (n : Nat) : State := s.setReg .secAlarmact 0 (BitVec.ofNat 64 n)
    let some_ (u : State) (n : Nat) : Bool := (upTo 4).any (fun j => (1#4).getLsbD j && decide (u.alarmAction j = n))
    (s.isDie 0 = true ∧ s.isDie 12 = true ∧ (∀ n ∈ [19988, 20012, 19979, 20021], ((view true n).die 0).valid = true ∧ ((view true n).die 0).copy = n) ∧
      ((view false 20000).die 0).valid = false ∧ ((view false 20000).die 0).copy ≤ (view false 20000).time.ref ∧
      (view false 20001).time.ref < ((view false 20001).die 0).copy) ∧
    (s.powerLimit = 3000 ∧ s.sec.capping = false ∧ 95 * s.powerLimit ≤ 2850 * 100 ∧ 2849 * 100 < 95 * s.powerLimit ∧ s.sec.below + 1 < 10) ∧
    (s.sec.railFault = none ∧ s.sec.stage ≠ 0 ∧ s.sec.held = false ∧ State.reset.sec.railFault = none ∧ State.reset.sec.stage = 0 ∧ State.reset.sec.held = false) ∧
    (some_ (act 3) 3 = true ∧ some_ (act 2) 3 = false ∧ some_ (act 2) 2 = true ∧ some_ (act 1) 1 = true ∧ some_ (act 0) 1 = false) := by
  decide +kernel

/-- ManagementChannel: the next sequence number, the same number again and another; an accepted and a refused chunk; a commit in
progress and none; keys and none. -/
theorem test_hyp_channel :
    let s (r : Bool) (c : Option Commit) : State := { State.reset with sec := { State.reset.sec with recovery := r, commit := c, e := 6 } }
    let q (n : Nat) : Nat := leNat (leBytes 4 n) % 2 ^ 32
    ((s false none).sec.recovery = false ∧ q 7 = ((s false none).sec.e + 1) % 2 ^ 32 ∧ q 6 = (s false none).sec.e ∧
      q 6 ≠ ((s false none).sec.e + 1) % 2 ^ 32 ∧ q 8 ≠ ((s false none).sec.e + 1) % 2 ^ 32 ∧ q 8 ≠ (s false none).sec.e) ∧
    (word1 (leBytes 8 (stagingSize - 1)) + [(9 : Byte)].length ≤ stagingSize ∧ stagingSize < word1 (leBytes 8 stagingSize) + [(9 : Byte)].length) ∧
    ((s false none).sec.commit = none ∧ (s false (some ⟨[1]⟩)).sec.commit = some ⟨[1]⟩ ∧ (s true (some ⟨[1]⟩)).sec.recovery = true) ∧
    (word1 (leBytes 8 3000) ≤ (s false none).tdp ∧ (s false none).tdp < word1 (leBytes 8 3001) ∧ (s false none).sec.keys = false) := by
  decide +kernel

/-- A drained device that holds nothing, with a checkpoint due. -/
def witCkpt : State :=
  { State.reset.setReg .rplCtl 0 1 with time := { ref := 20000 }, rpl := { nextAt := some 20000, draining := true } }

theorem wit_ckpt : witCkpt.ckptWrites.all (fun p => witCkpt.deviceReady p.1 p.2.length) = true := by
  refine List.all_eq_true.mpr (fun p hp => wit_ready _ rfl rfl (fun _ => rfl) _ _ ?_)
  have hv : witCkpt.ckptView = witCkpt := by decide +kernel
  have hr : witCkpt.residentTeams = [] := by decide +kernel
  have hc : witCkpt.changedPages = [] := by decide +kernel
  have hb : witCkpt.ckptBase = 0 := by decide +kernel
  rw [State.ckptWrites, hv, hr, hc, hb] at hp
  simp only [List.mapIdx_nil, List.flatten_nil, List.append_nil] at hp
  obtain ⟨d, hd, hp⟩ := List.mem_flatMap.mp hp
  have hd : d < 8 := List.mem_range.mp hd
  obtain ⟨q, hq, rfl⟩ := List.mem_map.mp hp
  show 0 + 0x8000000 * d + q.1 + q.2.length ≤ 0xC000000000
  rcases List.mem_append.mp hq with hq | hq
  · have := (by decide +kernel : ∀ d < 8, ∀ q ∈ witCkpt.contextHeader d, q.1 + q.2.length ≤ 0x8000000) d hd q hq
    omega
  obtain ⟨c, hc, hq⟩ := List.mem_flatMap.mp hq
  have hc : c < 32 * d + 32 := by
    obtain ⟨i, hi, rfl⟩ := List.mem_map.mp hc
    have := List.mem_range.mp hi
    omega
  rcases List.mem_append.mp hq with hq | hq
  · obtain ⟨i, hi, rfl⟩ := List.mem_mapIdx.mp hq
    have hm := wit_mx
    have hi : i < 48 := hi
    show 0 + 0x8000000 * d + (0x100000 + c % 32 * 0x200000 + 0xA000 * i) + ({} : Matrix).toBytes.length ≤ 0xC000000000
    omega
  · have hx : (witCkpt.core c).heldPart [] [] [] = ({} : Core).heldPart [] [] [] := rfl
    have hl := (by decide +kernel : (({} : Core).heldPart [] [] []).length ≤ 0x1F0000)
    rw [List.mem_singleton.mp hq]
    show 0 + 0x8000000 * d + (0x4100000 + c % 32 * 0x1F0000) + (({} : Core).heldPart [] [] []).length ≤ 0xC000000000
    omega

/-- DebugAndReplay: stops of every kind; a device that may settle; a step of a thread with a set, and of one with nothing; rows
of a matrix unit; checkpoints that are not due, due, and due with the device drained; a replay. -/
theorem test_hyp_debug :
    let s := witDev witWaiting {} {}
    let dbg (d : Dbg) : State := { s with dbg := d }
    let rest : State := { s with cores := [], dbg := { stops := [.device] } }
    let set : PlaneCtx := { plane := witPlane, store := [{ slot := 2, side := .a, kind := .operand, tok := witWord 5, cycle := 0, seq := 0 }, { slot := 2, side := .b, kind := .operand, tok := witWord 3, cycle := 0, seq := 1 }] }
    let st (d : Dbg) : State := { witDev witRunning {} { main := set } with dbg := d }
    let rpl (n : Nat) (d : Bool) : State := { (s.setReg .rplCtl 0 1) with cores := [], rpl := { nextAt := some n, draining := d } }
    let done_ : State := { s with grids := [], rpl := { ckpts := [(3, s.ckpt)] } }
    s.namedTeam 1 0 = some 7 ∧ s.namedTeam 1 1 = none ∧ rest.maySettle = true ∧ s.maySettle = false ∧ s.dbg.stepReq = none ∧
    ((st { stops := [.device], settled := true, stepReq := some (0, 1) }).stopped 0 1 = true ∧
      (((st { stops := [.device], settled := true }).stepSet 0 1).map (·.2.2.slot)) = some 2) ∧
    ((dbg { stops := [.device], settled := true, stepReq := some (0, 1) }).stepSet 0 1 = none ∧
      (dbg { stops := [.device], settled := true, stepReq := some (0, 1) }).stepInject 0 1 = none) ∧
    (s.dbg.accrd = none ∧ (dbg { accrd := some (0, 0, 5) }).dbg.accrd = some (0, 0, 5) ∧ (s.tile 0 0).mx.rows = []) ∧
    (s.dbg.spHead ≤ 0 ∧ s.dbg.spTail < 1 ∧ s.rplOn = false ∧ s.rpl.nextAt = none) ∧
    (∀ d ∈ [false, true], (rpl 20000 d).rplOn = true ∧ ¬(rpl 20000 d).time.ref < 20000 ∧ (rpl 20001 d).time.ref < 20001 ∧ (rpl 20000 d).rpl.draining = d ∧
      ((rpl 20000 d).cores.all (fun q => (rpl 20000 d).ckptQuiet q.1) && (rpl 20000 d).teams.all (fun q => (rpl 20000 d).teamVisible q.1 .system)) = true) ∧
    (s.grids.any (fun g => !g.2.complete) = true ∧ done_.rplOn = false ∧ done_.grids.any (fun g => !g.2.complete) = false ∧
      KMap.look done_.rpl.ckpts (3 % 2 ^ 32) = some s.ckpt ∧ done_.rpl.replaying = none) := by
  decide +kernel

/-- DebugAndReplay: a device that has drained with a checkpoint due, the lines of whose area can be written. -/
theorem test_hyp_checkpoint :
    witCkpt.rpl.nextAt = some 20000 ∧ witCkpt.rplOn = true ∧ ¬ witCkpt.time.ref < 20000 ∧ witCkpt.rpl.draining = true ∧
    (witCkpt.cores.all (fun q => witCkpt.ckptQuiet q.1) && witCkpt.teams.all (fun q => witCkpt.teamVisible q.1 .system)) = true ∧
    witCkpt.ckptWrites.all (fun p => witCkpt.deviceReady p.1 p.2.length) = true :=
  ⟨by decide +kernel, by decide +kernel, by decide +kernel, rfl, rfl, wit_ckpt⟩

/-- RegisterWrites: carve values at their bound and beyond it; a carve that waits for a copy and one that does not; invalidations
and page modes under way; registers of each kind at their addresses. -/
theorem test_hyp_registers :
    let s := witCoh {}
    let carve : State := { s with stage := [(0, { carve := 1, target := some 0 })] }
    let maps : Mmu := { dieTlb := [(0, [⟨2, 0, 0x40000000, 0x33⟩, ⟨2, 0x40000000, 0x40000000, 0xC000000033⟩])] }
    let copy : State := { carve with engines := [(0, { queue := [{ witCmd with dst := 0x40000000 }] })], mmu := maps }
    let inv (x : XInv) : State := { s with mmu := { s.mmu with inv := some x, coreTlb := [(0, witTlbs)] } }
    let pg (x : XInv) : State := { s with mmu := { s.mmu with pgmode := some x } }
    let v : Word := 0x200000000000000
    (0 < s.portDies ∧ bitsOf (96 : Word).toNat 6 0 ≤ 96 ∧ 96 < bitsOf (97 : Word).toNat 6 0 ∧ (KMap.lookD s.stage 0 {}).target = none) ∧
    ((KMap.lookD carve.stage 0 {}).target = some 0 ∧ carve.copiesToStage 0 = false ∧ copy.copiesToStage 0 = true ∧
      (carve.l2Shrink 0 (192 * 256)).l2Beyond 0 (192 * 256) = []) ∧
    (s.mmu.inv = none ∧ s.mmu.pgmode = none ∧ (inv { v := v, walks := [] }).mmu.inv = some { v := v, walks := [] } ∧
      (inv { v := v, walks := [] }).mmu.walks.any (fun w => [].contains w.id) = false) ∧
    (bitsOf (0x6000 : Word).toNat 14 13 = 3 ∧ bitsOf (0x4000 : Word).toNat 14 13 ≠ 3) ∧
    ((pg { v := v, walks := [], stores := some [] }).mmu.walks.any (fun w => [].contains w.id) = false) ∧
    (∀ r ∈ [RegName.srdSeed, .fstErr, .tmbView, .mmuInv, .rplStart], s.target (controlBase + r.offset 0) = .control (r.offset 0) ∧
      r.offset 0 % 8 = 0 ∧ regAt (r.offset 0) = some (r, 0)) ∧ regAt 0x1FFF8 = none ∧
    (RegName.tmbView.info.access = .ro ∧ RegName.fstErr.info.access = .w1c) := by
  decide +kernel

/-- A device with model context 0 on: two layers of one frame each, descriptors at 0x10000, flags at 0x20000, frames at 0x400000. -/
def witChr (c : Chr) (cells : List Host.Cell) : State :=
  let s := witCoh {}
  let s : State := ((((s.setReg .chrCtl 0 0x100000001).setReg .chrCtxd 0 0x10000).setReg .chrFlags 0 0x20000).setReg .chrFramebase 0 0x400000).setReg .chrFramen 0 4
  { s with chr := c, mem := cells }

/-- A device that fetches layer 0 of context 0 from address 0 into frame 0. -/
def witFetch : State := witChr { fetches := [{ ctx := 0, layer := 0, demand := false, frames := some [0] }], used := [0] } []

/-- LayersFetched: a fetch whose source is whole and whose lines are all ready. -/
theorem wit_fetch : witFetch.fetchBad 0 0 = false ∧
    ((witFetch.fetchLines (witFetch.layerDesc 0 0) [0]).all (fun p => witFetch.readReady p.1 && witFetch.agentReady p.2 none) &&
      witFetch.placesReady (witFetch.layerPlaces 0 0)) = true := by
  have ht (a : Nat) (ha : a < 0xC000000000) : witFetch.target a = .hbm := by
    rw [State.target, show witFetch.z240 = false from rfl]; simp [ha]
  have hl (l : Nat) (hb : 64 * l < 0xC000000000) : witFetch.addrFailed (64 * l) = false ∧ witFetch.outsidePoison l = false ∧
      witFetch.readReady l = true ∧ witFetch.agentReady l none = true := by
    have hc : witFetch.coh = {} := rfl
    have hp : witFetch.poison = [] := rfl
    have hh : witFetch.holder l = none := rfl
    refine ⟨by simp only [State.addrFailed, ht _ hb], ?_, ?_, ?_⟩
    · simp [State.outsidePoison, State.copyPoison, State.dirOf, hc, hp, KMap.look]
    · simp [State.readReady, State.outerOk, State.isOuter, State.dirOf, ht _ hb, hc, KMap.look]
    · simp [State.agentReady, State.heldBack, hh, State.homeMustWait, State.hasHorizon, State.dirOf, State.outerOk, State.isOuter,
        ht _ hb, hc, KMap.look, KMap.lookD]
  have hd : (witFetch.layerDesc 0 0).bad = false ∧ (witFetch.layerDesc 0 0).src = 0 ∧ (witFetch.layerDesc 0 0).frames = 1 ∧
      witFetch.frameAddr 0 = 0x400000 := by decide +kernel
  refine ⟨?_, Bool.and_eq_true_iff.mpr ⟨?_, by decide +kernel⟩⟩
  · rw [State.fetchBad, hd.1, Bool.false_or, LayerDesc.srcLines, hd.2.1, hd.2.2.1]
    refine List.any_eq_false.mpr (fun l h => ?_)
    obtain ⟨i, hi, rfl⟩ := List.mem_map.mp h
    have hi : i < 32768 := List.mem_range.mp hi
    have := hl (i + lineOf 0) (by unfold lineOf; omega)
    simp [this.1, this.2.1]
  · refine List.all_eq_true.mpr (fun p h => ?_)
    obtain ⟨q, hq, h⟩ := List.mem_flatMap.mp h
    obtain ⟨i, hi, rfl⟩ := List.mem_map.mp h
    have hi : i < 32768 := List.mem_range.mp hi
    obtain rfl : q = (0, 0) := List.mem_singleton.mp hq
    have h1 := hl (lineOf ((witFetch.layerDesc 0 0).src + 0 * 0x200000) + i) (by rw [hd.2.1]; unfold lineOf; omega)
    have h2 := hl (lineOf (witFetch.frameAddr 0) + i) (by rw [hd.2.2.2]; unfold lineOf; omega)
    simp only [h1.2.2.1, h2.2.2.2, Bool.and_self]

/-- LayersFetched: the next layer of a context; a fetch that may take a free frame; a fetch with its frame whose descriptor is
whole and one whose descriptor is not; contexts that are off, on and in use; a layer that has failed. -/
theorem test_hyp_layers :
    let s := witChr {} []
    let next := witChr { layers := [(0, { demand := some 0 })] } []
    let f : Fetch := { ctx := 0, layer := 0, demand := false }
    let wait := witChr { fetches := [f] } []
    let got (cells : List Host.Cell) := witChr { fetches := [{ f with frames := some [0] }], used := [0] } cells
    let bad := got [(0x10018, 1)]
    let off := s.setReg .chrCtl 0 0
    let used : State := { s with chr := { layers := [(1, { uses := 1 })] } }
    let failed := witChr {} [(0x20000, 3)]
    (next.fetchOf 0 0 = none ∧ next.nextFetch = some (0, 0, true) ∧ next.deviceReady (next.flagAddr 0 0) 8 = true) ∧
    (wait.fetchOf 0 0 = some f ∧ wait.fetchesRunning < 16 ∧ (wait.layerDesc 0 0).bad = false ∧ wait.cover f = some []) ∧
    ((got []).fetchOf 0 0 = some { f with frames := some [0] } ∧ bad.fetchBad 0 0 = true ∧ bad.deviceReady (bad.flagAddr 0 0) 8 = true) ∧
    (s.chrOn 0 = true ∧ off.chrOn 0 = false ∧ s.chrInUse 0 = false ∧ used.chrInUse 0 = true) ∧
    (0 < s.layersOf 0 ∧ s.layerState 0 0 ≠ 3 ∧ failed.layerState 0 0 = 3 ∧ failed.deviceReady (failed.flagAddr 0 0) 8 = true) := by
  decide +kernel

/-- RoundTrip: an instruction that has an encoding. -/
theorem test_hyp_round_trip : (Instr.add witTwo .w16 ⟨true, 0⟩).encodable = true := rfl

/-- StepRunsDecoded: an agenda that is empty, one whose first move is an event, and one whose first move is a firing with a set. -/
theorem test_hyp_step :
    let set : PlaneCtx := { plane := witPlane, store := [{ slot := 2, side := .a, kind := .operand, tok := witWord 5, cycle := 0, seq := 0 },
      { slot := 2, side := .b, kind := .operand, tok := witWord 3, cycle := 0, seq := 1 }] }
    let s : State := { witDev witRunning {} { main := set } with agenda := [.fire 0 0 false 2, .event (.sleepWake 0 1)] }
    let m := Move.fire 0 0 false 2
    let u : State := ({ s with agenda := [.event (.sleepWake 0 1)] } : State).logMove m
    s.rpl.replaying = none ∧ State.reset.agenda = [] ∧ State.reset.rpl.replaying = none ∧ s.lostInReset m = false ∧
    s.slotBits 0 0 false 2 = ⟨0x20601800, 0⟩ ∧ u.mayFire 0 0 false = true ∧
    (u.pick 0 0 false).map (·.slot) = some 2 := by
  decide +kernel

theorem test_hyp_step_word : decode 0x20601800 0 = .ok (.add witTwo .w64 ⟨false, 0⟩) := rfl

/-- InvStep: the state after reset meets the invariant, and its step answers a next state. -/
theorem test_hyp_inv : State.reset.Inv ∧ ∃ t, step State.reset = .next t := ⟨⟨by decide, fun _ h => absurd h (List.not_mem_nil)⟩, _, rfl⟩

end
end

/-! PROOFS. Memory (R3): bytes and numbers written read back. -/

namespace Sys2Proof

theorem two_pow_bits_succ (n : Nat) : 2 ^ (8 * (n + 1)) = 256 * 2 ^ (8 * n) := by rw [Nat.mul_add, Nat.pow_add, Nat.mul_comm]

@[simp] theorem length_leBytes (n v : Nat) : (leBytes n v).length = n := by
  induction n generalizing v with
  | zero => rfl
  | succ n ih => simp [leBytes, ih]

/-- The bytes of a number give back its value modulo their width (R3). -/
theorem leNat_leBytes (n v : Nat) : leNat (leBytes n v) = v % 2 ^ (8 * n) := by
  induction n generalizing v with
  | zero => simp [leBytes, leNat, Nat.mod_one]
  | succ n ih =>
    rw [leBytes, leNat, ih, two_pow_bits_succ, Nat.mod_mul, BitVec.toNat_ofNat]

theorem getElem_leBytes (n v j : Nat) (h : j < (leBytes n v).length) :
    (leBytes n v)[j] = BitVec.ofNat 8 (v / 2 ^ (8 * j)) := by
  induction n generalizing v j with
  | zero => simp at h
  | succ n ih =>
    cases j with
    | zero => simp [leBytes]
    | succ j => simp only [leBytes, List.getElem_cons_succ, ih, two_pow_bits_succ, Nat.div_div_eq_div_mul]

end Sys2Proof

namespace Sys2Proof.Machine

/-- A byte within a run of written bytes is the one of its place. -/
theorem State.byte_putBytes_inside (s : State) (a : Nat) (l : List Byte) (j : Nat) (h : j < l.length) :
    (s.putBytes a l).byte (a + j) = l[j] := by
  induction l generalizing s a j with
  | nil => simp at h
  | cons x r ih =>
    cases j with
    | zero => rw [State.putBytes, State.byte_putBytes_outside _ _ _ _ (.inl (by omega))]; simp
    | succ j =>
      have := ih (s.putByte a x) (a + 1) j (by simpa using h)
      rwa [Nat.add_right_comm] at this

/-- The bytes written stand where they were written. -/
theorem State.bytes_putBytes (s : State) (a : Nat) (l : List Byte) : (s.putBytes a l).bytes a l.length = l := by
  refine List.ext_getElem (by simp [State.bytes, upTo]) fun j _ h => ?_
  simp [State.bytes, upTo, State.byte_putBytes_inside s a l j h]

/-- A number written is loaded modulo its width. -/
theorem State.load_putNat (s : State) (a n v : Nat) : (s.putNat a n v).load a n = v % 2 ^ (8 * n) := by
  have h := s.bytes_putBytes a (leBytes n v)
  rw [length_leBytes] at h
  rw [State.load, State.putNat, h, leNat_leBytes]

theorem State.byte_putNat_inside (s : State) (a n v j : Nat) (h : j < n) :
    (s.putNat a n v).byte (a + j) = BitVec.ofNat 8 (v / 2 ^ (8 * j)) := by
  rw [State.putNat, State.byte_putBytes_inside _ _ _ j (by simpa using h), getElem_leBytes]

theorem State.byte_putNat_outside (s : State) (a n v b : Nat) (h : b < a ∨ a + n ≤ b) :
    (s.putNat a n v).byte b = s.byte b :=
  s.byte_putBytes_outside a b _ (by simpa using h)

/-- Settles O6: a run of written bytes read back in its places, and the laws of memory outside it. -/
theorem memoryReadsBack : Obligations.MemoryReadsBack := by
  intro s a n v
  exact ⟨s.load_putNat a n v, s.byte_putNat_inside a n v, s.byte_putNat_outside a n v, putBytes_eq s a _,
    s.wf_putNat a n v⟩

end Sys2Proof.Machine

/-! PROOFS. Writes of control registers (R5, R6, R142, R143, R150, R253): one rule for each way in which a write, or an
operation that it has started, goes on. -/

namespace Sys2Proof

theorem KMap.look_mapVals_eq_map {α β : Type} (m : KMap α) (g : α → β) (k : Nat) :
    KMap.look (KMap.mapVals m g) k = (KMap.look m k).map g := by
  induction m with
  | nil => rfl
  | cons x r ih =>
    obtain ⟨j, v⟩ := x
    simp only [KMap.mapVals, List.map_cons, KMap.look] at ih ⊢
    split
    · rfl
    · exact ih

end Sys2Proof

namespace Sys2Proof.Machine

/-! ## Registers -/

@[simp] theorem State.reg_setReg_same (s : State) (n : RegName) (i : Nat) (v : Word) :
    (s.setReg n i v).reg n i = v &&& BitVec.ofNat 64 n.info.mask := KMap.lookD_put_same ..

/-- A sticky bit of a register that is not reserved reads 1 once it is set. -/
theorem State.getLsbD_reg_setRegBit (s : State) (n : RegName) (i b : Nat) (hb : b < 64) (hm : n.info.mask.testBit b = true) :
    ((s.setRegBit n i b).reg n i).getLsbD b = true := by
  rw [State.setRegBit, State.reg_setReg_same, BitVec.getLsbD_and, BitVec.getLsbD_or, BitVec.getLsbD_ofNat, BitVec.getLsbD_ofNat]
  simp [hb, hm, Nat.testBit_two_pow_self]

theorem State.regN_setRegN_stgCarve (s : State) (p k : Nat) (hk : k < 128) : (s.setRegN .stgCarve p k).regN .stgCarve p = k := by
  have hm : k &&& (2 ^ 7 - 1) = k := by rw [Nat.and_two_pow_sub_one_eq_mod]; exact Nat.mod_eq_of_lt hk
  have hw : k % 2 ^ 64 = k := Nat.mod_eq_of_lt (by omega)
  rw [State.regN, State.setRegN, State.reg_setReg_same, BitVec.toNat_and, BitVec.toNat_ofNat, hw]
  exact hm

/-! ## Stage carve (R142, R143) -/

/-- Bytes removed by address read as zero, and every other byte as before. -/
theorem Memory.read_filter (m : List Host.Cell) (g : Nat → Bool) (a : Nat) :
    Memory.read (m.filter (fun c => !g c.1)) a = if g a then 0 else Memory.read m a := by
  induction m with
  | nil => simp [Memory.read]
  | cons x r ih =>
    obtain ⟨k, v⟩ := x
    by_cases hk : a = k
    · subst hk
      cases hg : g a <;> simp [hg, Memory.read, ih]
    · cases hg : g k <;> simp [hg, Memory.read, hk, ih]

theorem State.portDies_le (s : State) : s.portDies ≤ 4 := by
  unfold State.portDies; split <;> decide

/-- A carve of up to 96 MiB is the target of a change that leaves the carve in force. -/
theorem exec_stgCarveWrite_begins (s : State) (p : Nat) (v : Word) (hp : p < s.portDies) (hk : bitsOf v.toNat 6 0 ≤ 96) :
    ∃ u, exec (.stgCarveWrite p v) s = .next u ∧
      KMap.lookD u.stage p {} = { KMap.lookD s.stage p {} with target := some (bitsOf v.toNat 6 0) } ∧
      u.regN .stgCarve p = bitsOf v.toNat 6 0 ∧ u.mem = s.mem := by
  show ∃ u, execStgCarveWrite p v s = .next u ∧ _
  rw [execStgCarveWrite, if_neg (by omega), if_neg (by omega)]
  exact ⟨_, rfl, KMap.lookD_alter_same s.stage p {} (fun x => { x with target := some (bitsOf v.toNat 6 0) }),
    s.regN_setRegN_stgCarve p _ (by omega), rfl⟩

/-- A carve above 96 MiB is discarded and reported in STG_ERR. -/
theorem exec_stgCarveWrite_refused (s : State) (p : Nat) (v : Word) (hp : p < s.portDies) (hk : 96 < bitsOf v.toNat 6 0) :
    exec (.stgCarveWrite p v) s = .next (s.setRegBit .stgErr 0 p) := by
  show execStgCarveWrite p v s = _
  rw [execStgCarveWrite, if_neg (by omega), if_pos hk]

theorem exec_stgCarveDone_of_none (s : State) (p : Nat) (h : (KMap.lookD s.stage p {}).target = none) :
    exec (.stgCarveDone p) s = .next s := by
  show execStgCarveDone p s = _
  rw [execStgCarveDone, h]

section Change
variable {s : State} {p n : Nat} (ht : (KMap.lookD s.stage p {}).target = some n)
include ht

/-- The change waits for the copies into the stage memory (R142). -/
theorem exec_stgCarveDone_waits (hc : s.copiesToStage p = true) : exec (.stgCarveDone p) s = .next s := by
  show execStgCarveDone p s = _
  simp only [execStgCarveDone, ht, hc, if_true]

/-- The change waits for the lines beyond the capacity that is left. -/
theorem exec_stgCarveDone_shrinks (hc : s.copiesToStage p = false)
    (hb : (s.l2Shrink p ((192 - n) * 256)).l2Beyond p ((192 - n) * 256) ≠ []) :
    exec (.stgCarveDone p) s = .next (s.l2Shrink p ((192 - n) * 256)) := by
  have he := List.isEmpty_eq_false_iff.mpr hb
  show execStgCarveDone p s = _
  simp [execStgCarveDone, ht, hc, he]

/-- With the lines gone the carve is in force and the words beyond it are gone. -/
theorem exec_stgCarveDone_ends (hc : s.copiesToStage p = false)
    (hb : (s.l2Shrink p ((192 - n) * 256)).l2Beyond p ((192 - n) * 256) = []) :
    ∃ u, exec (.stgCarveDone p) s = .next u ∧
      u.stage = KMap.put (s.l2Shrink p ((192 - n) * 256)).stage p { carve := n, target := none } ∧
      u.coh = (s.l2Shrink p ((192 - n) * 256)).coh ∧
      u.mem = (s.l2Shrink p ((192 - n) * 256)).mem.filter (fun c => !s.stageBeyond p (n * 0x100000) c.1) := by
  show ∃ u, execStgCarveDone p s = .next u ∧ _
  simp only [execStgCarveDone, ht, hc, hb, List.isEmpty_nil, Bool.not_true, Bool.false_eq_true, if_false]
  exact ⟨_, rfl, rfl, rfl, rfl⟩

end Change

/-! ## Invalidations (R150) -/

theorem exec_mmuInv_begins (s : State) (v : Word) (h : s.mmu.inv = none) :
    exec (.mmuInv v) s =
      .next { s with mmu := { s.mmu with inv := some { v := v, walks := s.walksOf (invRange v.toNat).1 } } } := by
  show execMmuInv v s = _
  simp only [execMmuInv, h, Option.isSome_none, Bool.false_eq_true, if_false]

theorem exec_mmuInv_refused (s : State) (v : Word) (h : s.mmu.inv.isSome = true) :
    exec (.mmuInv v) s = .next (s.setRegBit .mmuInverr 0 0) := by
  show execMmuInv v s = _
  rw [execMmuInv, if_pos h]

theorem exec_mmuInvComplete_of_none (s : State) (h : s.mmu.inv = none) : exec .mmuInvComplete s = .next s := by
  show execMmuInvComplete s = _
  rw [execMmuInvComplete, h]

/-- What an invalidation in progress does next. -/
theorem exec_mmuInvComplete_of_some (s : State) (x : XInv) (h : s.mmu.inv = some x) :
    exec .mmuInvComplete s =
      .next { (s.invAdvance x).2 with mmu := { (s.invAdvance x).2.mmu with inv := (s.invAdvance x).1 } } := by
  show execMmuInvComplete s = _
  rw [execMmuInvComplete, h]

/-- An invalidation waits for the walks that had begun. -/
theorem State.invAdvance_of_walks (s : State) (x : XInv) (h : s.mmu.walks.any (fun w => x.walks.contains w.id) = true) :
    s.invAdvance x = (some x, s) := if_pos h

/-- With the walks ended the translations of the range are dropped, and the buffered stores of the space are waited for. -/
theorem State.invAdvance_drops (s : State) (x : XInv) (h : s.mmu.walks.any (fun w => x.walks.contains w.id) = false)
    (hx : x.stores = none) :
    let rng := invRange x.v.toNat
    let t := s.dropXlat rng.1 rng.2.1 rng.2.2
    s.invAdvance x = (if (s.storersOf rng.1).isEmpty then none else some { x with stores := some (s.storersOf rng.1) }, t) := by
  simp only [State.invAdvance, h, hx, Bool.false_eq_true, if_false]

/-- With no store left to wait for, an invalidation whose translations are dropped is complete. -/
theorem State.invAdvance_complete (s : State) (x : XInv) (h : s.mmu.walks.any (fun w => x.walks.contains w.id) = false)
    (hx : x.stores = some []) : s.invAdvance x = (none, s) := by
  simp only [State.invAdvance, h, hx, Bool.false_eq_true, if_false, List.filter_nil, List.isEmpty_nil, if_true]

/-- The translations of a range dropped from every entry of a cache (R150). -/
def dropMeeting (rng : Nat × Nat × Nat) (m : KMap (List Tlb)) : KMap (List Tlb) :=
  KMap.mapVals m (fun l => l.filter (fun t => !t.meets rng.1 rng.2.1 rng.2.2))

theorem not_meets_of_mem_dropMeeting {rng : Nat × Nat × Nat} {m : KMap (List Tlb)} {p : Nat} {t : Tlb} {l : List Tlb}
    (h : KMap.look (dropMeeting rng m) p = some l) (ht : t ∈ l) : t.meets rng.1 rng.2.1 rng.2.2 = false := by
  rw [dropMeeting, KMap.look_mapVals_eq_map] at h
  obtain ⟨l', -, rfl⟩ := Option.map_eq_some_iff.mp h
  simpa using (List.mem_filter.mp ht).2

/-- The step in which an invalidation drops its translations: it is complete when no thread of the space holds a store. -/
theorem exec_mmuInvComplete_drops (s : State) (x : XInv) (h : s.mmu.inv = some x)
    (hw : s.mmu.walks.any (fun w => x.walks.contains w.id) = false) (hs : x.stores = none) :
    let rng := invRange x.v.toNat
    ∃ u, exec .mmuInvComplete s = .next u ∧ u.mmu.inv.isNone = (s.storersOf rng.1).isEmpty ∧ u.mem = s.mem ∧
      u.mmu.coreTlb = dropMeeting rng s.mmu.coreTlb ∧ u.mmu.dieTlb = dropMeeting rng s.mmu.dieTlb := by
  intro rng
  rw [exec_mmuInvComplete_of_some s x h, s.invAdvance_drops x hw hs]
  refine ⟨_, rfl, ?_, rfl, rfl, rfl⟩
  cases (s.storersOf rng.1).isEmpty <;> rfl

/-! ## Page modes (R253) -/

theorem exec_mmuPgmode_refused (s : State) (v : Word) (h : s.mmu.pgmode.isSome = true ∨ bitsOf v.toNat 14 13 = 3) :
    exec (.mmuPgmode v) s = .next { s with mmu := { s.mmu with pgErr := true } } := by
  show execMmuPgmode v s = _
  rw [execMmuPgmode, if_pos (by simpa using h)]

theorem exec_mmuPgmode_begins (s : State) (v : Word) (h : s.mmu.pgmode = none) (hv : bitsOf v.toNat 14 13 ≠ 3) :
    exec (.mmuPgmode v) s = .next { s with mmu := { s.mmu with
      pgErr := false, pgmode := some { v := v, walks := s.walksOf (invRange v.toNat).1 } } } := by
  show execMmuPgmode v s = _
  rw [execMmuPgmode, if_neg (by simp [h, hv])]

theorem exec_pgmodeComplete_of_none (s : State) (h : s.mmu.pgmode = none) : exec .pgmodeComplete s = .next s := by
  show execPgmodeComplete s = _
  rw [execPgmodeComplete, h]

/-- Putting back the page-mode change that is in progress changes nothing. -/
theorem State.pgmode_eta (s : State) (x : XInv) (h : s.mmu.pgmode = some x) :
    ({ s with mmu := { s.mmu with pgmode := some x } } : State) = s := by rw [← h]

/-- A page-mode change waits for the walks that had begun. -/
theorem exec_pgmodeComplete_of_walks (s : State) (x : XInv) (hp : s.mmu.pgmode = some x)
    (h : s.mmu.walks.any (fun w => x.walks.contains w.id) = true) : exec .pgmodeComplete s = .next s := by
  show execPgmodeComplete s = _
  simp only [execPgmodeComplete, hp, s.invAdvance_of_walks x h, s.pgmode_eta x hp]

section Owned
variable {s : State} {x : XInv} (hp : s.mmu.pgmode = some x)
  (hw : s.mmu.walks.any (fun w => x.walks.contains w.id) = false) (hs : x.stores = some [])
  (ho : s.ownedIn (s.rangeLines x.v.toNat) = [])
include hp hw hs ho

/-- With no line of the range owned, a page-mode change ends when the leases are past. -/
theorem exec_pgmodeComplete_ends (h : s.rangePast (s.rangeLines x.v.toNat) = true) :
    exec .pgmodeComplete s = .next { s with mmu := { s.mmu with pgmode := none } } := by
  show execPgmodeComplete s = _
  simp only [execPgmodeComplete, hp, s.invAdvance_complete x hw hs, ho, List.foldl_nil, h, if_true]

/-- Until then it stands. -/
theorem exec_pgmodeComplete_waits (h : s.rangePast (s.rangeLines x.v.toNat) = false) :
    exec .pgmodeComplete s = .next s := by
  have hx : ({ x with stores := some [] } : XInv) = x := by rw [← hs]
  show execPgmodeComplete s = _
  simp only [execPgmodeComplete, hp, s.invAdvance_complete x hw hs, ho, List.foldl_nil, h, Bool.false_eq_true, if_false, hx,
    s.pgmode_eta x hp]

end Owned

/-! ## The dispatch of a register write (R5, R6) -/

theorem exec_registerWrite_of_none (s : State) (a off size : Nat) (v : Word) (ha : s.target a = .control off)
    (hr : regAt (off / 8 * 8) = none) : exec (.registerWrite a size v) s = .next s := by
  show execRegisterWrite a size v s = _
  simp only [execRegisterWrite, ha, hr]

/-- A write of 8 aligned bytes is a write of the register that stands there. -/
theorem exec_registerWrite_of_some (s : State) (a off : Nat) (v : Word) (r : RegName) (i : Nat)
    (ha : s.target a = .control off) (h8 : off % 8 = 0) (hr : regAt off = some (r, i)) :
    exec (.registerWrite a 8 v) s = .next (s.writeReg r i v) := by
  have ho : off / 8 * 8 = off := Nat.div_mul_cancel (Nat.dvd_of_mod_eq_zero h8)
  show execRegisterWrite a 8 v s = _
  simp [execRegisterWrite, ha, ho, hr, State.writeBits, h8]

/-- The RW registers whose write does nothing but store the unreserved bits (R6). -/
def plainRegs : List RegName := [.srdSeed, .hbmScrub, .barWdt, .fstQbase, .fstQctl, .fstQhead, .fstRecbase, .fstRarg, .dlrParg,
  .chrPrio, .zlkRoute, .cxpTmo, .elgBase, .elgCtl, .elgHead, .dbgListbase, .dbgStoppkt, .dbgBrk, .dbgTrbase, .pmcHsel, .rplBase]

/-- Registers whose every write puts next a step that takes the value as written, with that step. -/
def stepRegs (i : Nat) (v : Word) : List (RegName × Instr) := [(.stgCarve, .stgCarveWrite i v), (.mmuRoot, .mmuRootWrite i v),
  (.mmuInv, .mmuInv v), (.mmuPgmode, .mmuPgmode v), (.lqDoorbell, .lqDoorbell i v), (.dstMode, .dstModeWrite v),
  (.dstSem, .dstSemWrite i v), (.fstHimg, .fstHimgWrite v), (.chrReset, .chrReset v), (.cxpPmctl, .cxpPmctlWrite i v),
  (.dbgStop, .dbgStop v), (.pmcSpill, .pmcSpillWrite v), (.pmcSphead, .pmcSpheadWrite v), (.rplCtl, .rplCtlWrite v),
  (.rplStart, .rplStart v)]

theorem State.writeReg_plain (s : State) (i : Nat) (v : Word) : ∀ r ∈ plainRegs, s.writeReg r i v = s.setReg r i v := by
  simp only [plainRegs, List.forall_mem_cons, List.not_mem_nil, false_imp_iff, implies_true, and_true]
  and_intros <;> rfl

/-- No RO register has an effect of its own: the map gives the access of each. -/
theorem State.writeReg_ro (s : State) (r : RegName) (i : Nat) (v : Word) (h : r.info.access = .ro) : s.writeReg r i v = s := by
  cases r <;> cases h <;> rfl

theorem State.writeReg_w1c (s : State) (r : RegName) (i : Nat) (v : Word) (h : r.info.access = .w1c) :
    s.writeReg r i v = s.setReg r i (s.reg r i &&& ~~~v) := by
  cases r <;> cases h <;> rfl

theorem State.writeReg_step (s : State) (i : Nat) (v : Word) : ∀ q ∈ stepRegs i v, s.writeReg q.1 i v = s.nextEvent q.2 := by
  simp only [stepRegs, List.forall_mem_cons, List.not_mem_nil, false_imp_iff, implies_true, and_true]
  and_intros <;> rfl

/-- Settles O59: each write by the rule of its register, and the operations under way by the rules of what they wait for. -/
theorem registerWrites : Obligations.RegisterWrites := by
  intro s v p n a asp off i r x t l
  refine ⟨fun hp => ⟨fun hk => ?carveBegins, fun hk => ?carveRefused⟩, exec_stgCarveDone_of_none s p,
    fun ht => ⟨exec_stgCarveDone_waits ht, fun hc => ⟨exec_stgCarveDone_shrinks ht hc, fun hb => ?carveEnds⟩⟩,
    ⟨_, rfl, State.reg_setReg_same .., rfl, rfl⟩,
    exec_mmuInv_begins s v, fun h => ?invRefused, exec_mmuInvComplete_of_none s,
    fun hi hv => ⟨fun hw => ?invWaits, fun hw hs => ?invDrops⟩,
    exec_mmuPgmode_refused s v, exec_mmuPgmode_begins s v, exec_pgmodeComplete_of_none s,
    fun hp hv => ⟨exec_pgmodeComplete_of_walks s x hp, fun hw hs ho => ?pgmodeOwned⟩,
    exec_registerWrite_of_none s a off 8 v, fun ha h8 hr => ?write⟩
  case carveBegins =>
    obtain ⟨u, hu, hstage, hreg, hmem⟩ := exec_stgCarveWrite_begins s p v hp hk
    exact ⟨u, hu, by rw [hstage], by rw [hstage], hreg, hmem⟩
  case carveRefused =>
    have hp4 : p < 4 := Nat.lt_of_lt_of_le hp s.portDies_le
    refine ⟨_, exec_stgCarveWrite_refused s p v hp hk, s.getLsbD_reg_setRegBit .stgErr 0 p (by omega) ?_, rfl, rfl⟩
    exact (Nat.testBit_two_pow_sub_one 4 p).trans (decide_eq_true hp4)
  case carveEnds =>
    obtain ⟨u, hu, hstage, hcoh, hmem⟩ := exec_stgCarveDone_ends ht hc hb
    refine ⟨u, hu, by rw [hstage, KMap.lookD_put_same], hcoh, ?_⟩
    rw [State.byte, hmem, Memory.read_filter, State.byte]
  case invRefused => exact ⟨_, exec_mmuInv_refused s v h, s.getLsbD_reg_setRegBit .mmuInverr 0 0 (by decide) rfl, rfl⟩
  case invWaits => rw [exec_mmuInvComplete_of_some s x hi, s.invAdvance_of_walks x hw, ← hi]
  case invDrops =>
    subst hv
    obtain ⟨u, hu, hinv, hmem, hcore, hdie⟩ := exec_mmuInvComplete_drops s x hi hw hs
    refine ⟨u, hu, hinv, hmem, ?_, ?_⟩
    · rw [hcore]; exact not_meets_of_mem_dropMeeting
    · rw [hdie]; exact not_meets_of_mem_dropMeeting
  case pgmodeOwned =>
    subst hv
    exact ⟨exec_pgmodeComplete_ends hp hw hs ho, exec_pgmodeComplete_waits hp hw hs ho⟩
  case write =>
    rw [exec_registerWrite_of_some s a off v r i ha h8 hr]
    refine ⟨fun h => ⟨congrArg _ (s.writeReg_plain i v r h), State.reg_setReg_same ..⟩,
      fun h => congrArg _ (s.writeReg_ro r i v h), fun h => congrArg _ (s.writeReg_w1c r i v h), fun q h hq => ?_⟩
    subst hq
    exact congrArg _ (s.writeReg_step i v q h)

end Sys2Proof.Machine

/-! PROOFS. The state after reset. -/

namespace Sys2Proof.Machine

theorem State.inv_reset : State.reset.Inv := ⟨Memory.wf_nil, fun _ h => absurd h List.not_mem_nil⟩

/-- Where no list of registers is kept, a register holds the reset value of its map. -/
theorem State.reg_reset (r : RegName) (i : Nat) : State.reset.reg r i = BitVec.ofNat 64 r.info.reset := rfl

/-- The registers with a reset value other than zero follow no unit: they read what they hold. -/
theorem State.readReg_reset_of_held : ∀ r ∈ [RegName.dlrInjwin, .dlrSpinPeriod, .barWdt, .dlrParklim, .hbmScrub, .cxpTmo,
    .secAlarmact], State.reset.readReg r 0 = r.info.reset := by
  decide

theorem State.readReg_reset_tmbView : State.reset.readReg .tmbView 0 = 0 := by decide

theorem State.readReg_reset_secStat : State.reset.readReg .secStat 0 = 0 := by decide

/-- Nothing is due after reset, so that the first step passes time. -/
theorem step_reset : step State.reset = .next State.reset.advance := rfl

/-- Settles O4: nothing is listed after reset, so that every accessor reads its reset value. -/
theorem resetState : Obligations.ResetState := by
  refine ⟨State.inv_reset, fun _ => rfl, fun _ _ => rfl, fun _ _ => rfl, rfl, rfl, rfl, rfl, rfl, fun _ => rfl, rfl, rfl,
    State.reg_reset, ?_, ?_, ?_, ?_, ?_, ?_, ?_, State.readReg_reset_tmbView, State.readReg_reset_secStat, step_reset⟩
  all_goals exact State.readReg_reset_of_held _ (by decide)

end Sys2Proof.Machine

/-! PROOFS. Time, power, boot and alarms (R15, R22, R23, R276 to R280, R282): what each of the management controller's
operations leaves, and one rule for each way in which its steps can go. -/

namespace Sys2Proof.Machine

/-! ## Dies and management events -/

theorem State.die_updDie (s : State) (d e : Nat) (f : DieTime → DieTime) :
    (s.updDie d f).die e = if e = d then f (s.die d) else s.die e := KMap.lookD_alter ..

theorem State.lt_of_isDie {s : State} {d : Nat} (h : s.isDie d = true) : d < 13 := by
  have hf : s.fabricDies ≤ 8 := by unfold State.fabricDies; split <;> decide
  have hp : s.portDies ≤ 4 := s.portDies_le
  simp only [State.isDie, Bool.or_eq_true, Bool.and_eq_true, decide_eq_true_eq] at h
  omega

theorem State.die_updDie_same (s : State) (d : Nat) (f : DieTime → DieTime) : (s.updDie d f).die d = f (s.die d) :=
  KMap.lookD_alter_same ..

/-- What a management event changes: the list of the events and their number. -/
theorem State.mgmtEvent_eq (s : State) (e : MgmtEvent) :
    ∃ n l, s.mgmtEvent e = { s with sec := { s.sec with dseq := n, events := l } } := by
  unfold State.mgmtEvent
  simp only
  split
  · exact ⟨_, _, rfl⟩
  · split <;> exact ⟨_, _, rfl⟩

theorem State.setClock_eq (s : State) (d mhz : Nat) :
    ∃ n l, s.setClock d mhz = { s.updDie d (fun x => { x with mhz := mhz }) with sec := { s.sec with dseq := n, events := l } } :=
  State.mgmtEvent_eq ..

/-- Steps that each change one die, taken for the dies below n, change each of these dies once. -/
theorem State.die_foldl_upTo {f : State → Nat → State} {g : Nat → DieTime → DieTime}
    (hf : ∀ s d e, (f s d).die e = if e = d then g d (s.die d) else s.die e) (s : State) (n e : Nat) :
    ((upTo n).foldl f s).die e = if e < n then g e (s.die e) else s.die e := by
  induction n with
  | zero => rfl
  | succ n ih =>
    rw [upTo, List.range_succ, List.foldl_append]
    show (f ((upTo n).foldl f s) n).die e = _
    rw [hf]
    by_cases he : e = n
    · subst he
      rw [if_pos rfl, ih, if_neg (Nat.lt_irrefl e), if_pos (Nat.lt_succ_self e)]
    · simp only [he, if_false, ih, Nat.lt_succ_iff_lt_or_eq, or_false]

/-! ## Time views (R15) -/

/-- Cores whose threads on die d hold no reservation any more (R164). -/
def dropResv (d : Nat) (m : KMap Core) : KMap Core :=
  KMap.mapKV m (fun c k =>
    if dieOf c = d then { k with threads := KMap.mapVals k.threads (fun t => { t with resv := none }) } else k)

/-- What a lost view changes: the die's clock, TMB_LOSS, the reservations of a fabric die, and leased copies. -/
theorem State.loseView_eq (s : State) (d : Nat) :
    ∃ m q, s.loseView d = { s with
      time := (s.updDie d (fun x => { x with valid := false })).time
      regs := (s.setRegBit .tmbLoss 0 d).regs, cores := m, coh := q } ∧ (d < 8 → m = dropResv d s.cores) := by
  refine ⟨(s.loseView d).cores, (s.loseView d).coh, ?_, fun h => ?_⟩
  · by_cases h8 : d < 8
    · rw [State.loseView, if_pos h8, if_pos h8]
      rfl
    · by_cases h12 : d < 12
      · rw [State.loseView, if_neg h8, if_neg h8, if_pos h12]
        rfl
      · rw [State.loseView, if_neg h8, if_neg h8, if_neg h12]
        rfl
  · rw [State.loseView, if_pos h, if_pos h]
    rfl

theorem State.thread_dropResv (s : State) (c k : Nat) :
    (State.thread { s with cores := dropResv (dieOf c) s.cores } c k).resv = none := by
  rw [State.thread, dropResv, core_mapKV s _ (fun c => by split <;> rfl), if_pos rfl]
  exact congrArg Thread.resv (look_mapVals (s.core c).threads (fun t => { t with resv := none }) k {} rfl)

/-- Die d has lost its view: TMB_LOSS says so, and a thread k of a core c of the die holds no reservation. -/
def State.ViewLost (u : State) (d c k : Nat) : Prop :=
  (u.die d).valid = false ∧ (u.reg .tmbLoss).getLsbD d = true ∧ (dieOf c = d → d < 8 → (u.thread c k).resv = none)

theorem State.viewLost_loseView (s : State) {d : Nat} (c k : Nat) (hd : d < 13) : (s.loseView d).ViewLost d c k := by
  obtain ⟨m, q, h, hm⟩ := s.loseView_eq d
  rw [h]
  refine ⟨?_, ?_, ?_⟩
  · exact congrArg DieTime.valid (s.die_updDie_same d _)
  · exact s.getLsbD_reg_setRegBit .tmbLoss 0 d (by omega) ((Nat.testBit_two_pow_sub_one 13 d).trans (decide_eq_true hd))
  · rintro rfl h8
    rw [hm h8]
    exact s.thread_dropResv c k

theorem State.mem_loseView (s : State) (d : Nat) : (s.loseView d).mem = s.mem := by
  obtain ⟨m, q, h, -⟩ := s.loseView_eq d
  rw [h]

/-- A die's copy moved by n − 4 ticks, n being drawn; of the ticks that it loses it keeps count, since a copy never moves
back. -/
def State.drift (s : State) (d n : Nat) : State :=
  { s.updDie d (fun x => if n < 4 then { x with skip := x.skip + (4 - n) } else { x with copy := x.copy + (n - 4) }) with
    free := s.free + 1 }

/-- The time that a die's copy stands for. -/
def DieTime.net (x : DieTime) : Int := x.copy - x.skip

theorem State.die_drift (s : State) (d n : Nat) :
    ((s.drift d n).die d).valid = (s.die d).valid ∧ ((s.drift d n).die d).net = (s.die d).net + n - 4 := by
  have h : (s.drift d n).die d = _ :=
    s.die_updDie_same d (fun x => if n < 4 then { x with skip := x.skip + (4 - n) } else { x with copy := x.copy + (n - 4) })
  rw [h]
  split
  · exact ⟨rfl, by simp only [DieTime.net]; omega⟩
  · exact ⟨rfl, by simp only [DieTime.net]; omega⟩

/-- Do a die's copy and the reference differ by more than 12 ticks? The comparison is made without negative numbers. -/
def State.viewApart (u : State) (d : Nat) : Bool :=
  u.time.ref + 12 + (u.die d).skip < (u.die d).copy || (u.die d).copy + 12 < u.time.ref + (u.die d).skip

theorem apart_iff (ref copy skip : Nat) : (ref + 12 + skip < copy ∨ copy + 12 < ref + skip) ↔
    ((copy : Int) - skip > ref + 12 ∨ (ref : Int) > copy - skip + 12) := by omega

theorem State.viewApart_iff (u : State) (d : Nat) : u.viewApart d = true ↔
    ((u.die d).net > u.time.ref + 12 ∨ u.time.ref > (u.die d).net + 12) := by
  rw [State.viewApart, Bool.or_eq_true, decide_eq_true_eq, decide_eq_true_eq, apart_iff]
  rfl

section Compare
variable {s : State} {d : Nat} (hd : s.isDie d = true) (hv : (s.die d).valid = true)
include hd hv

theorem exec_timeCompare_of_valid : ∃ n ≤ 8,
    exec (.timeCompare d) s = .next (if (s.drift d n).viewApart d then (s.drift d n).loseView d else s.drift d n) := by
  refine ⟨Config.freeChoice s.free % 9, by omega, ?_⟩
  show execTimeCompare d s = _
  rw [execTimeCompare, if_neg (by simp [hd, hv])]
  rfl

/-- A comparison moves the copy by at most 4 ticks either way, and the view is kept where the copy is then within 12 of the
reference. -/
theorem exec_timeCompare_moves (c k : Nat) : ∃ (u : State) (n : Nat),
    n ≤ 8 ∧ exec (.timeCompare d) s = .next u ∧ u.mem = s.mem ∧
    let net : Int := (s.die d).net + n - 4
    (net ≤ s.time.ref + 12 → s.time.ref ≤ net + 12 → (u.die d).valid = true ∧ (u.die d).net = net) ∧
    (net > s.time.ref + 12 ∨ s.time.ref > net + 12 → u.ViewLost d c k) := by
  obtain ⟨n, hn, h⟩ := exec_timeCompare_of_valid hd hv
  obtain ⟨hvalid, hnet⟩ := s.die_drift d n
  have ha := (s.drift d n).viewApart_iff d
  rw [hnet] at ha
  by_cases hc : (s.drift d n).viewApart d = true
  · rw [if_pos hc] at h
    refine ⟨_, n, hn, h, State.mem_loseView .., fun h1 h2 => ?_, fun _ => ?_⟩
    · exact absurd (ha.mp hc) (not_or.mpr ⟨not_lt_of_ge h1, not_lt_of_ge h2⟩)
    · exact State.viewLost_loseView _ c k (State.lt_of_isDie hd)
  · rw [if_neg hc] at h
    exact ⟨_, n, hn, h, rfl, fun _ _ => ⟨hvalid.trans hv, hnet⟩, fun hout => absurd (ha.mpr hout) hc⟩

end Compare

theorem exec_clockRestart_of_isDie {s : State} {d : Nat} (hd : s.isDie d = true) :
    exec (.clockRestart d) s = .next (s.loseView d) := by
  show execClockRestart d s = _
  rw [execClockRestart, if_pos hd]

section Resync
variable {s : State} {d : Nat} (hd : s.isDie d = true) (hv : (s.die d).valid = false)
include hd hv

/-- A copy ahead of the reference waits for it. -/
theorem exec_timeResync_waits (h : s.time.ref < (s.die d).copy) : exec (.timeResync d) s = .next s := by
  show execTimeResync d s = _
  rw [execTimeResync, if_neg (by simp [hd, hv]), if_pos h]

theorem exec_timeResync_steps (h : (s.die d).copy ≤ s.time.ref) : exec (.timeResync d) s =
    .next (s.updDie d (fun x => { x with copy := s.time.ref, skip := 0, valid := true, synced := true })) := by
  show execTimeResync d s = _
  rw [execTimeResync, if_neg (by simp [hd, hv]), if_neg (Nat.not_lt.mpr h)]

end Resync

/-! ## Power windows and rails (R22, R23) -/

/-- The clock of a die set to r of it where p holds, which is a management event. -/
def State.reclock (p : DieTime → Prop) [DecidablePred p] (r : DieTime → Nat) (s : State) (d : Nat) : State :=
  if p (s.die d) then s.setClock d (r (s.die d)) else s

/-- A clock set to r of it where p holds. -/
def DieTime.reclocked (p : DieTime → Prop) [DecidablePred p] (r : DieTime → Nat) (x : DieTime) : DieTime :=
  if p x then { x with mhz := r x } else x

section Reclock
variable (p : DieTime → Prop) [DecidablePred p] (r : DieTime → Nat)

theorem State.die_setClock (s : State) (d mhz e : Nat) :
    (s.setClock d mhz).die e = if e = d then { s.die d with mhz := mhz } else s.die e := by
  obtain ⟨n, l, h⟩ := s.setClock_eq d mhz
  rw [h]
  exact s.die_updDie ..

theorem State.die_reclock (s : State) (d e : Nat) :
    (s.reclock p r d).die e = if e = d then (s.die d).reclocked p r else s.die e := by
  unfold State.reclock DieTime.reclocked
  split
  · exact s.die_setClock ..
  · split
    · next h => rw [h]
    · rfl

/-- What a change of clocks keeps of the state. -/
theorem State.reclock_keeps (s : State) (d : Nat) : (s.reclock p r d).mem = s.mem ∧
    (s.reclock p r d).sec.below = s.sec.below ∧ (s.reclock p r d).sec.capping = s.sec.capping := by
  unfold State.reclock
  split
  · obtain ⟨n, l, h⟩ := s.setClock_eq d (r (s.die d))
    rw [h]
    exact ⟨rfl, rfl, rfl⟩
  · exact ⟨rfl, rfl, rfl⟩

/-- Every die below n with its clock set anew where p holds. -/
theorem State.foldl_reclock (s : State) (n e : Nat) :
    let u := (upTo n).foldl (State.reclock p r) s
    (u.die e).mhz = (if e < n ∧ p (s.die e) then r (s.die e) else (s.die e).mhz) ∧
      u.mem = s.mem ∧ u.sec.below = s.sec.below ∧ u.sec.capping = s.sec.capping := by
  refine ⟨?_, foldl_keep State.mem _ _ s fun s d => ?_, foldl_keep (·.sec.below) _ _ s fun s d => ?_,
    foldl_keep (·.sec.capping) _ _ s fun s d => ?_⟩
  · rw [State.die_foldl_upTo (g := fun _ x => x.reclocked p r) (fun s d e => s.die_reclock p r d e)]
    unfold DieTime.reclocked
    by_cases he : e < n
    · simp only [he, true_and, if_true]
      split <;> rfl
    · simp only [he, false_and, if_false]
  · obtain ⟨hmem, -, -⟩ := s.reclock_keeps p r d
    exact hmem
  · obtain ⟨-, hbelow, -⟩ := s.reclock_keeps p r d
    exact hbelow
  · obtain ⟨-, -, hcapping⟩ := s.reclock_keeps p r d
    exact hcapping

end Reclock

/-- A window above the limit, or at it behind one that was above it, lowers every die above 1.0 GHz by one step. -/
theorem exec_powerWindow_above {s : State} {watts : Nat}
    (h : s.powerLimit < watts ∨ (s.sec.capping = true ∧ watts = s.powerLimit)) :
    exec (.powerWindow watts) s = .next ((upTo s.fabricDies).foldl (State.reclock (fun x => x.mhz > 10) (fun x => x.mhz - 1))
      { s with sec := { s.sec with below := 0, capping := true } }) := by
  show execPowerWindow watts s = _
  rw [execPowerWindow, if_pos (by simpa using h)]
  rfl

section NotAbove
variable {s : State} {watts : Nat} (ha : watts < s.powerLimit ∨ (s.sec.capping = false ∧ watts = s.powerLimit))
include ha

theorem not_above_of_within : ¬ (watts > s.powerLimit || (s.sec.capping && watts = s.powerLimit)) = true := by
  rcases ha with h | ⟨hc, rfl⟩
  · simp [Nat.le_of_lt h, Nat.ne_of_lt h]
  · simp [hc]

/-- A window within the limit and no more than 5 % below it changes no clock. -/
theorem exec_powerWindow_within (hw : 95 * s.powerLimit ≤ watts * 100) : exec (.powerWindow watts) s =
    .next { s with sec := { s.sec with below := 0, capping := false } } := by
  show execPowerWindow watts s = _
  rw [execPowerWindow, if_neg (not_above_of_within ha), if_neg (Nat.not_lt.mpr hw)]

end NotAbove

section Below
variable {s : State} {watts : Nat} (hw : watts * 100 < 95 * s.powerLimit)
include hw

theorem lt_powerLimit_of_below : watts < s.powerLimit := by omega

theorem exec_powerWindow_counts (h : s.sec.below + 1 < 10) : exec (.powerWindow watts) s =
    .next { s with sec := { s.sec with below := s.sec.below + 1, capping := false } } := by
  show execPowerWindow watts s = _
  rw [execPowerWindow, if_neg (not_above_of_within (.inl (lt_powerLimit_of_below hw))), if_pos hw, if_neg (Nat.not_le.mpr h)]

/-- The tenth window in a row below 95 % of the limit raises every die below its set rate by one step. -/
theorem exec_powerWindow_raises (h : 10 ≤ s.sec.below + 1) : exec (.powerWindow watts) s =
    .next ((upTo s.fabricDies).foldl (State.reclock (fun x => x.mhz < x.base) (fun x => x.mhz + 1))
      { s with sec := { s.sec with below := 0, capping := false } }) := by
  show execPowerWindow watts s = _
  rw [execPowerWindow, if_neg (not_above_of_within (.inl (lt_powerLimit_of_below hw))), if_pos hw, if_pos h]
  rfl

end Below

/-- Held in reset, no die has a valid view of time. -/
theorem State.valid_die_holdAll (s : State) (d : Nat) : (s.holdAll.die d).valid = false :=
  congrArg DieTime.valid (look_mapVals s.time.dies (fun x => { x with valid := false }) d {} rfl)

/-! ## Boot (R276 to R280) -/

/-- The record decides the identity and the dies of the part, and nothing else of the store. -/
theorem Store.part_eq (x : Store) :
    ∃ z l, x.part = { x with z240 := z, disabled := l } ∧ (x.record = none → z = x.z240 ∧ l = x.disabled) := by
  unfold Store.part
  split
  · exact ⟨_, _, rfl, fun _ => ⟨rfl, rfl⟩⟩
  · next r h => exact ⟨_, _, rfl, fun h' => by rw [h] at h'; cases h'⟩

theorem Store.imagePasses_part (x : Store) : x.part.imagePasses = x.imagePasses := by
  obtain ⟨z, l, h, -⟩ := x.part_eq
  rw [h]
  rfl

/-- The rate that the firmware sets for a fabric die, in steps of 100 MHz. -/
def bootRate (d : Nat) : Nat := 10 + Config.fabricRate d % 18

/-- Every fabric die at the rate that the firmware sets (R14). -/
def State.setRates (s : State) : State :=
  (upTo s.fabricDies).foldl (fun s d => s.updDie d (fun x => { x with mhz := bootRate d, base := bootRate d })) s

theorem State.setRates_mem (s : State) : s.setRates.mem = s.mem := foldl_keep State.mem _ _ s fun _ _ => rfl

theorem State.setRates_sec (s : State) : s.setRates.sec = s.sec := foldl_keep State.sec _ _ s fun _ _ => rfl

theorem State.setRates_die (s : State) {d : Nat} (h : d < s.fabricDies) :
    s.setRates.die d = { s.die d with mhz := bootRate d, base := bootRate d } := by
  rw [State.setRates, State.die_foldl_upTo (g := fun d x => { x with mhz := bootRate d, base := bootRate d })
    (fun s d e => s.die_updDie d e _), if_pos h]

/-- The state with the store as the record gives the part. -/
def State.recordRead (s : State) : State := { s with sec := { s.sec with nv := s.sec.nv.part, recordValid := true } }

theorem State.bootUp_of_record {s : State} (h : s.sec.nv.recordPasses = false) :
    s.bootUp = { s with sec := { s.sec with stage := 1, recovery := true } } := by
  rw [State.bootUp, if_pos (by simp [h])]

section Record
variable {s : State} (hr : s.sec.nv.recordPasses = true)
include hr

theorem State.bootUp_of_image (hi : s.sec.nv.imagePasses = false) :
    s.bootUp = { s.recordRead with sec := { s.recordRead.sec with stage := 2, recovery := true } } := by
  have hp : s.sec.nv.part.imagePasses = false := s.sec.nv.imagePasses_part.trans hi
  rw [State.bootUp, if_neg (by simp [hr]), if_pos (by simp [hp])]
  rfl

theorem State.bootUp_passes (hi : s.sec.nv.imagePasses = true) :
    ∃ m, s.bootUp = { s.recordRead.setRates with
      hbm := m
      sec := { s.recordRead.sec with
        nv := { s.sec.nv.part with svn := max s.sec.nv.part.svn s.sec.nv.part.imageSvn }, stage := 5, recovery := false
        imageVerified := true, keys := s.sec.nv.part.keysOk && !s.sec.nv.part.erased } } := by
  have hp : s.sec.nv.part.imagePasses = true := s.sec.nv.imagePasses_part.trans hi
  have hs : s.recordRead.setRates.sec = s.recordRead.sec := s.recordRead.setRates_sec
  refine ⟨s.bootUp.hbm, ?_⟩
  rw [← hs, State.bootUp, if_neg (by simp [hr]), if_neg (by simp [hp])]
  rfl

end Record

/-- What a boot changes: dies, filters and, of the security subsystem, the store and how far the boot has come. -/
theorem State.bootUp_keeps (s : State) : s.bootUp.mem = s.mem ∧ s.bootUp.sec = { s.sec with
    nv := s.bootUp.sec.nv, stage := s.bootUp.sec.stage, recovery := s.bootUp.sec.recovery
    recordValid := s.bootUp.sec.recordValid, imageVerified := s.bootUp.sec.imageVerified, keys := s.bootUp.sec.keys } := by
  cases hr : s.sec.nv.recordPasses with
  | false =>
    rw [State.bootUp_of_record hr]
    exact ⟨rfl, rfl⟩
  | true => cases hi : s.sec.nv.imagePasses with
    | false =>
      rw [State.bootUp_of_image hr hi]
      exact ⟨rfl, rfl⟩
    | true =>
      obtain ⟨m, h⟩ := State.bootUp_passes hr hi
      rw [h]
      exact ⟨s.recordRead.setRates_mem, rfl⟩

/-- The outcome u of a boot from a store, as far as die d tells: recovery at stage 1 or 2, or stage 5 with the die at a rate
from 1.0 to 2.7 GHz (R276 to R280). -/
def State.Booted (d : Nat) (nv : Store) (u : State) : Prop :=
  (nv.recordOk = false ∨ nv.recordSvn < nv.svn → u.sec.stage = 1 ∧ u.sec.recovery = true) ∧
  (nv.recordOk = true → nv.svn ≤ nv.recordSvn → nv.imageOk = false ∨ nv.imageSvn < nv.svn →
    u.sec.stage = 2 ∧ u.sec.recovery = true ∧ u.sec.recordValid = true) ∧
  (nv.recordOk = true → nv.svn ≤ nv.recordSvn → nv.imageOk = true → nv.svn ≤ nv.imageSvn →
    u.sec.stage = 5 ∧ u.sec.recovery = false ∧ u.sec.imageVerified = true ∧
    u.sec.keys = (nv.keysOk && !nv.erased) ∧ u.sec.nv.svn = nv.imageSvn ∧
    (nv.record = none → u.z240 = nv.z240 ∧ u.sec.nv.disabled = nv.disabled) ∧
    (d < u.fabricDies → 10 ≤ (u.die d).mhz ∧ (u.die d).mhz ≤ 27 ∧ (u.die d).base = (u.die d).mhz))

theorem Store.recordPasses_iff (x : Store) : x.recordPasses = true ↔ x.recordOk = true ∧ x.svn ≤ x.recordSvn := by
  simp [Store.recordPasses]

theorem Store.imagePasses_iff (x : Store) : x.imagePasses = true ↔ x.imageOk = true ∧ x.svn ≤ x.imageSvn := by
  simp [Store.imagePasses]

theorem State.booted_bootUp (s : State) (d : Nat) : s.bootUp.Booted d s.sec.nv := by
  refine ⟨fun h => ?record, fun ho hs h => ?image, fun ho hs hio his => ?passes⟩
  case record =>
    have hr : s.sec.nv.recordPasses = false := by
      rw [Bool.eq_false_iff, ne_eq, Store.recordPasses_iff]
      rintro ⟨ho, hs⟩
      exact h.elim (by simp [ho]) (Nat.not_lt.mpr hs)
    rw [State.bootUp_of_record hr]
    exact ⟨rfl, rfl⟩
  case image =>
    have hi : s.sec.nv.imagePasses = false := by
      rw [Bool.eq_false_iff, ne_eq, Store.imagePasses_iff]
      rintro ⟨hio, his⟩
      exact h.elim (by simp [hio]) (Nat.not_lt.mpr his)
    rw [State.bootUp_of_image ((Store.recordPasses_iff _).mpr ⟨ho, hs⟩) hi]
    exact ⟨rfl, rfl, rfl⟩
  case passes =>
    have hr : s.sec.nv.recordPasses = true := (Store.recordPasses_iff _).mpr ⟨ho, hs⟩
    obtain ⟨m, h⟩ := State.bootUp_passes hr ((Store.imagePasses_iff _).mpr ⟨hio, his⟩)
    obtain ⟨z, l, hp, hn⟩ := s.sec.nv.part_eq
    rw [h]
    refine ⟨rfl, rfl, rfl, ?_, ?_, fun hrec => ?_, fun hd => ?_⟩
    · show (s.sec.nv.part.keysOk && !s.sec.nv.part.erased) = _
      rw [hp]
    · show max s.sec.nv.part.svn s.sec.nv.part.imageSvn = _
      rw [hp]
      exact max_eq_right his
    · show s.sec.nv.part.z240 = _ ∧ s.sec.nv.part.disabled = _
      rw [hp]
      exact hn hrec
    · show _ ≤ (s.recordRead.setRates.die d).mhz ∧ (s.recordRead.setRates.die d).mhz ≤ _ ∧
        (s.recordRead.setRates.die d).base = (s.recordRead.setRates.die d).mhz
      rw [s.recordRead.setRates_die hd]
      exact ⟨Nat.le_add_right .., by show bootRate d ≤ 27; unfold bootRate; omega, rfl⟩

/-- After a rail fault the boot is a power-on. -/
theorem exec_boot_of_railFault {s : State} (h : s.sec.railFault.isSome = true) : exec .boot s = .next s.powerOn.bootUp := by
  show execBoot s = _
  rw [execBoot, if_pos h]

section NoRailFault
variable {s : State} (h : s.sec.railFault = none)
include h

theorem exec_boot_of_released (hs : s.sec.stage = 0) (hh : s.sec.held = false) : exec .boot s = .next s.bootUp := by
  show execBoot s = _
  rw [execBoot, if_neg (by simp [h]), if_pos (by simp [hs, hh])]

theorem exec_boot_of_not_released (hs : s.sec.stage ≠ 0 ∨ s.sec.held = true) : exec .boot s = .next s := by
  show execBoot s = _
  rw [execBoot, if_neg (by simp [h]), if_neg ?_]
  rw [Bool.and_eq_true, decide_eq_true_eq, Bool.not_eq_true']
  rintro ⟨hstage, hheld⟩
  exact hs.elim (fun h => h hstage) (by simp [hheld])

end NoRailFault

/-! ## Alarms (R282) -/

theorem le_foldl_max (n a : Nat) (l : List Nat) : n ≤ l.foldl max a ↔ n ≤ a ∨ ∃ x ∈ l, n ≤ x := by
  induction l generalizing a with
  | nil => simp
  | cons x r ih => simp [ih, or_assoc]

theorem bitOf_toNat {w : Nat} (x : BitVec w) (i : Nat) : bitOf x.toNat i = x.getLsbD i :=
  (Nat.testBit_eq_decide_div_mod_eq ..).symm

/-- The action that a mask of classes applies. -/
def State.alarmMax (s : State) (mask : BitVec 4) : Nat :=
  (((upTo 4).filter (fun n => bitOf mask.toNat n)).map s.alarmAction).foldl max 0

/-- Does a class of the mask have the action? -/
def State.AlarmHas (s : State) (mask : BitVec 4) (n : Nat) : Prop := ∃ j < 4, mask.getLsbD j = true ∧ s.alarmAction j = n

theorem State.alarmAction_lt (s : State) (j : Nat) : s.alarmAction j < 4 := by
  unfold State.alarmAction State.regBits bitsOf
  rw [show 2 * j + 1 + 1 - 2 * j = 2 by omega]
  exact Nat.mod_lt _ (by decide)

/-- The greatest action reaches n where a class of the mask has an action from n on. -/
theorem State.le_alarmMax (s : State) (mask : BitVec 4) {n : Nat} (hn : 0 < n) :
    n ≤ s.alarmMax mask ↔ ∃ m, n ≤ m ∧ s.AlarmHas mask m := by
  have h0 : ¬ n ≤ 0 := Nat.not_le.mpr hn
  simp only [State.alarmMax, le_foldl_max, h0, false_or, List.mem_map, List.mem_filter, upTo, List.mem_range, bitOf_toNat,
    State.AlarmHas]
  constructor
  · rintro ⟨_, ⟨j, ⟨hj, hm⟩, rfl⟩, h⟩
    exact ⟨_, h, j, hj, hm, rfl⟩
  · rintro ⟨_, h, j, hj, hm, rfl⟩
    exact ⟨_, ⟨j, ⟨hj, hm⟩, rfl⟩, h⟩

/-- No class has an action above 3. -/
theorem State.AlarmHas.lt {s : State} {mask : BitVec 4} {n : Nat} (h : s.AlarmHas mask n) : n < 4 := by
  obtain ⟨j, -, -, rfl⟩ := h
  exact s.alarmAction_lt j

/-- The greatest action is n where a class has it and none has a greater one. -/
theorem State.alarmMax_eq {s : State} {mask : BitVec 4} {n : Nat} (hn : 0 < n) (h : s.AlarmHas mask n)
    (hg : ∀ m, n < m → ¬ s.AlarmHas mask m) : s.alarmMax mask = n := by
  refine Nat.le_antisymm (Nat.not_lt.mp fun hlt => ?_) ((s.le_alarmMax mask hn).mpr ⟨n, Nat.le_refl n, h⟩)
  obtain ⟨m, hm, hs⟩ := (s.le_alarmMax mask (Nat.succ_pos n)).mp hlt
  exact hg m hm hs

/-- It is 0 where no class has another. -/
theorem State.alarmMax_eq_zero {s : State} {mask : BitVec 4} (hg : ∀ m, 0 < m → ¬ s.AlarmHas mask m) :
    s.alarmMax mask = 0 := by
  refine Nat.eq_zero_of_not_pos fun h => ?_
  obtain ⟨m, hm, hs⟩ := (s.le_alarmMax mask Nat.one_pos).mp h
  exact hg m hm hs

/-- The state with the alarm in SEC_ALARM and among the management events. -/
def State.alarmed (s : State) (mask : BitVec 4) : State :=
  (s.setReg .secAlarm 0 (s.reg .secAlarm ||| mask.zeroExtend 64)).mgmtEvent (.alarm mask)

/-- The state with the keys erased. -/
def State.keysErased (s : State) : State :=
  { s with sec := { s.sec with nv := { s.sec.nv with keysOk := false, erased := true }, keys := false } }

theorem State.alarmed_eq (s : State) (mask : BitVec 4) : ∃ n l, s.alarmed mask =
    { s.setReg .secAlarm 0 (s.reg .secAlarm ||| mask.zeroExtend 64) with sec := { s.sec with dseq := n, events := l } } :=
  State.mgmtEvent_eq ..

theorem State.getLsbD_secAlarm_alarmed (s : State) (mask : BitVec 4) {j : Nat} (hj : j < 4) :
    ((s.alarmed mask).reg .secAlarm).getLsbD j = ((s.reg .secAlarm).getLsbD j || mask.getLsbD j) := by
  obtain ⟨n, l, h⟩ := s.alarmed_eq mask
  have hm : (BitVec.ofNat 64 RegName.secAlarm.info.mask).getLsbD j = true := by
    rw [BitVec.getLsbD_ofNat, decide_eq_true (by omega), Bool.true_and]
    exact (Nat.testBit_two_pow_sub_one 4 j).trans (decide_eq_true hj)
  have hr : (s.alarmed mask).reg .secAlarm =
      (s.reg .secAlarm ||| mask.zeroExtend 64) &&& BitVec.ofNat 64 RegName.secAlarm.info.mask := by
    rw [h]
    exact s.reg_setReg_same ..
  rw [hr, BitVec.getLsbD_and, hm, Bool.and_true, BitVec.getLsbD_or, BitVec.getLsbD_setWidth, decide_eq_true (by omega),
    Bool.true_and]

/-- What an alarm does by the action that applies (R282): a report, a hold in reset, a package reset, or the keys erased and a
hold. -/
def State.alarmOutcome (s : State) (mask : BitVec 4) : Nat → State
  | 0 => s.alarmed mask
  | 2 => (s.alarmed mask).packageReset.bootUp
  | 3 => (s.keysErased.alarmed mask).holdAll
  | _ => (s.alarmed mask).holdAll

theorem exec_alarm_of_ne (s : State) {mask : BitVec 4} (hm : mask ≠ 0) :
    exec (.alarm mask) s = .next (s.alarmOutcome mask (s.alarmMax mask)) := by
  show execAlarm mask s = _
  simp only [execAlarm, if_neg hm, State.alarmMax]
  generalize (((upTo 4).filter (fun n => bitOf mask.toNat n)).map s.alarmAction).foldl max 0 = n
  match n with
  | 0 | 1 | 2 | 3 | n + 4 => rfl

/-- Settles O56: each step by the case of its operation that the statement names. That a gain or loss is applied at the
comparison, what a package reset loses, and EPOCH are the model's choices (log entries 44, 89 and 90). -/
theorem timePowerBoot : Obligations.TimePowerBoot := by
  intro s d rail watts c k mask x lost booted some_
  refine ⟨fun hd => ⟨fun hv => exec_timeCompare_moves hd hv c k,
      ⟨_, exec_clockRestart_of_isDie hd, s.viewLost_loseView c k (State.lt_of_isDie hd)⟩,
      fun hv => ⟨fun hc => ?resync, exec_timeResync_waits hd hv⟩⟩,
    fun h => ?above, fun ha => exec_powerWindow_within ha, fun hw => ⟨exec_powerWindow_counts hw, fun hb => ?raises⟩,
    ⟨_, rfl, rfl, rfl, s.valid_die_holdAll d, rfl, rfl⟩,
    fun hr => ?powerOn, fun hr => ⟨fun hs hh => ?boots, exec_boot_of_not_released hr⟩, rfl,
    fun hm => ⟨fun h3 => ?erases, fun h3 h2 => ?resets, fun h3 h2 => ?reports⟩⟩
  case resync =>
    have h := s.die_updDie_same d (fun x => { x with copy := s.time.ref, skip := 0, valid := true, synced := true })
    exact ⟨_, exec_timeResync_steps hd hv hc, rfl, congrArg DieTime.valid h, congrArg DieTime.copy h, congrArg DieTime.skip h⟩
  case above =>
    obtain ⟨hmhz, hmem, hbelow, hcapping⟩ := State.foldl_reclock (fun x => x.mhz > 10) (fun x => x.mhz - 1)
      { s with sec := { s.sec with below := 0, capping := true } } s.fabricDies d
    exact ⟨_, exec_powerWindow_above h, hbelow, hcapping, hmem, hmhz⟩
  case raises =>
    obtain ⟨hmhz, hmem, hbelow, -⟩ := State.foldl_reclock (fun x => x.mhz < x.base) (fun x => x.mhz + 1)
      { s with sec := { s.sec with below := 0, capping := false } } s.fabricDies d
    exact ⟨_, exec_powerWindow_raises hw hb, hbelow, hmem, hmhz⟩
  case powerOn =>
    obtain ⟨hmem, hsec⟩ := s.powerOn.bootUp_keeps
    exact ⟨_, exec_boot_of_railFault hr, s.powerOn.booted_bootUp d, congrArg Sec.epoch hsec, congrArg Sec.e hsec,
      congrArg Sec.dseq hsec, congrArg Sec.held hsec, hmem⟩
  case boots => exact ⟨_, exec_boot_of_released hr hs hh, s.booted_bootUp d, s.bootUp_keeps.1⟩
  case erases =>
    have h : s.alarmMax mask = 3 := State.alarmMax_eq (by decide) h3 fun m hlt hs => absurd hs.lt (Nat.not_lt.mpr hlt)
    obtain ⟨n, l, ha⟩ := s.keysErased.alarmed_eq mask
    refine ⟨(s.keysErased.alarmed mask).holdAll, by rw [exec_alarm_of_ne s hm, h]; rfl, ?_⟩
    rw [ha]
    exact ⟨rfl, rfl, rfl, rfl⟩
  case resets =>
    have h : s.alarmMax mask = 2 := State.alarmMax_eq (by decide) h2 fun m hlt hs => by
      obtain rfl : m = 3 := Nat.le_antisymm (Nat.le_of_lt_succ hs.lt) hlt
      exact h3 hs
    have hst : (s.alarmed mask).packageReset.sec.nv = s.sec.stored := by
      obtain ⟨n, l, ha⟩ := s.alarmed_eq mask
      rw [ha]
      rfl
    have hb := (s.alarmed mask).packageReset.booted_bootUp d
    rw [hst] at hb
    exact ⟨(s.alarmed mask).packageReset.bootUp, by rw [exec_alarm_of_ne s hm, h]; rfl, hb, (State.bootUp_keeps _).1⟩
  case reports =>
    obtain ⟨n, l, ha⟩ := s.alarmed_eq mask
    have hmem : (s.alarmed mask).mem = s.mem := by rw [ha]; rfl
    have hheld : (s.alarmed mask).sec.held = s.sec.held := by rw [ha]
    have hg : ∀ m, 1 < m → ¬ s.AlarmHas mask m := fun m hlt hs => by
      have hlt' := hs.lt
      interval_cases m
      · exact h2 hs
      · exact h3 hs
    by_cases h1 : s.AlarmHas mask 1
    · have h : s.alarmMax mask = 1 := State.alarmMax_eq (by decide) h1 hg
      exact ⟨(s.alarmed mask).holdAll, by rw [exec_alarm_of_ne s hm, h]; rfl, hmem, fun _ => rfl, fun h => absurd h1 h,
        fun j hj => s.getLsbD_secAlarm_alarmed mask hj⟩
    · have h : s.alarmMax mask = 0 := State.alarmMax_eq_zero fun m hlt hs => by
        rcases Nat.eq_or_lt_of_le hlt with rfl | hlt
        · exact h1 hs
        · exact hg m hlt hs
      exact ⟨s.alarmed mask, by rw [exec_alarm_of_ne s hm, h]; rfl, hmem, fun h => absurd h h1, fun _ => hheld,
        fun j hj => s.getLsbD_secAlarm_alarmed mask hj⟩

end Sys2Proof.Machine

/-! PROOFS. Firings of the control and system instructions (R28, R32, R34, R37, R328, R370, R371): what leaves, what is recorded
in the execution, and what reaches the Dealer. -/

namespace Sys2Proof.Machine

/-! ## The forms of a firing's result -/

section Forms
variable {s : State} {f : Firing} {r : Route}

/-- A firing with an own effect and one value. -/
theorem wordFiring_own (own : State → Firing → State × Word) (h : s.Fires f r.ta) :
    wordFiring r own s = .next ((own s.taken f).1.sends f r (own s.taken f).2) := by
  obtain ⟨hf, hd, hp⟩ := h
  rw [wordFiring, withFiring_some _ _ _ hf, fireCases_own _ _ _ _ _ hd hp]
  rfl

/-- A firing with an own effect that passes A on. -/
theorem passFiring_own (own : State → Firing → State) (h : s.Fires f r.ta) :
    passFiring r own s = .next ((own s.taken f).passes f r) := by
  obtain ⟨hf, hd, hp⟩ := h
  rw [passFiring, withFiring_some _ _ _ hf, fireCases_own _ _ _ _ _ hd hp]
  rfl

/-- An action that takes a 64-bit operand is recorded for the commit, and A is passed on. -/
theorem commitFiring_word (act : Firing → CommitAct) (h : s.Fires f r.ta) (ha : isWord f.a = true) :
    commitFiring r act s = .next ((s.taken.atCommit f r.ta (act f)).passes f r) := by
  obtain ⟨hf, hd, hp⟩ := h
  rw [commitFiring, withFiring_some _ _ _ hf, fireCases_own _ _ _ _ _ hd hp, ha]
  rfl

/-- An action that takes a 64-bit operand refuses a beat (R315). -/
theorem commitFiring_beat (act : Firing → CommitAct) (h : s.Fires f r.ta) (ha : isWord f.a = false) :
    commitFiring r act s = .next (s.taken.freezeFiring f r.ta codeFMTMIS) := by
  obtain ⟨hf, hd, hp⟩ := h
  rw [commitFiring, withFiring_some _ _ _ hf, fireCases_own _ _ _ _ _ hd hp, ha]
  rfl

end Forms

/-! ## System reads and markers (R28, R328, R370, R371) -/

theorem sregValue_taken (s : State) (f : Firing) (k : Nat) (sel : SReg) : sregValue s.taken f k sel = sregValue s f k sel := by
  cases sel <;> rfl

/-- A read of a special register. -/
theorem exec_sreg_read (r : Route1) (sel : SReg) {s : State} {f : Firing} (h : s.Fires f .unary) :
    exec (.sreg r false sel) s = .next (s.taken.sends f r.full (sregValue s f (f.key .unary) sel)) := by
  show execSreg r false sel s = _
  rw [execSreg, wordFiring_own (r := r.full) _ h, ← sregValue_taken]
  rfl

/-- A read that marks the flags it returns for clearing at the commit. -/
theorem exec_sreg_clear (r : Route1) (sel : SReg) {s : State} {f : Firing} (h : s.Fires f .unary) :
    exec (.sreg r true sel) s = .next ((s.taken.updExec f.site.core (f.key .unary) (fun e =>
      { e with cleared := e.cleared ||| (sregValue s f (f.key .unary) sel).extractLsb' 0 6 })).sends f r.full
        (sregValue s f (f.key .unary) sel)) := by
  show execSreg r true sel s = _
  rw [execSreg, wordFiring_own (r := r.full) _ h, ← sregValue_taken]
  rfl

theorem exec_gtime (r : Route1) (valid : Bool) {s : State} {f : Firing} (h : s.Fires f .unary) :
    exec (.gtime r valid) s = .next (s.taken.sends f r.full (BitVec.ofNat 64 (s.now f.site.core))) := by
  show execGtime r valid s = _
  rw [execGtime, wordFiring_own (r := r.full) _ h]
  rfl

theorem exec_pmark (r : Route1) (code : BitVec 16) {s : State} {f : Firing} (h : s.Fires f .unary) :
    exec (.pmark r code) s = .next ((s.taken.trace f r.d0 { f.resultTag .unary f.tokA.fmt with
      data := beatOf (BitVec.ofNat 64 (code.toNat * 2 ^ 48 + bitsOf f.tokA.w64.toNat 47 0)) }).sendOut f r.full
        (Out.data (f.resultTag .unary f.tokA.fmt) ⟨f.tokA.data, 0⟩)) := by
  obtain ⟨hf, hd, hp⟩ := h
  show execPmark r code s = _
  rw [execPmark, withFiring_some _ _ _ hf, fireCases_own _ _ _ _ _ hd hp]

/-- Settles O21: both forms of SREG send the value of Table 2.2, which is evaluated selector by selector. -/
theorem systemReads : Obligations.SystemReads := by
  intro s f r valid code h c k th Reads num
  have reads : ∀ sel, Reads sel (sregValue s f k sel) := fun sel => ⟨exec_sreg_read r sel h, exec_sreg_clear r sel h⟩
  have readsOf : ∀ sel v, sregValue s f k sel = v → Reads sel v := fun sel v hv => hv ▸ reads sel
  refine ⟨⟨reads .tid, reads .lane, reads .hand, reads .core, reads .die, reads .node, reads .time, reads .fpflags,
    reads .fault, fun e he => readsOf .block _ ?_, fun t g ht hg => ⟨readsOf .team _ ?_, readsOf .teamhi _ ?_, readsOf .cluster _ ?_⟩,
    fun x hx => ⟨readsOf .hidx _ ?_, readsOf .rcr _ ?_⟩, fun hn => ⟨readsOf .hidx _ ?_, readsOf .rcr _ ?_⟩⟩, exec_gtime r valid h, ?_⟩
  case refine_9 =>
    have hb : bitsOf f.tokA.w64.toNat 47 0 = f.tokA.w64.toNat % 2 ^ 48 := by simp [bitsOf]
    rw [← hb]
    exact exec_pmark r code h
  all_goals (dsimp only [sregValue]; simp [*, c, k, th, num])

/-! ## Exits (R32, R34) -/

/-- What the Dealer sees of an exit. -/
def Firing.exitSeen (f : Firing) (r : Route) (next : Firing → Option Word) : ExitSeen :=
  { site := f.site, bits := f.bits, fired := !f.deferred && f.pred r.ta, deferred := f.deferred, next := next f
    code := bitsOf f.deferredData.toNat 7 0 }

/-- An exit is one more of its execution, with the block that it names; beside it only a trace record is written. -/
theorem exitFiring_sees (r : Route) (next : Firing → Option Word) {s : State} {f : Firing} {e : Exec} (hf : s.firing = some f)
    (he : s.exec? f.site.core (f.key r.ta) = some e) :
    ∃ (t : State) (e' : Exec) (x : ExitSeen), exitFiring r next s = .next t ∧ t.exec? f.site.core (f.key r.ta) = some e' ∧
      e'.exits = e.exits ++ [x] ∧ x.site = f.site ∧ x.bits = f.bits ∧ x.deferred = f.deferred ∧
      x.fired = (!f.deferred && f.pred r.ta) ∧ x.next = next f ∧ e'.buffered = e.buffered ∧ e'.acts = e.acts ∧
      (∀ d u, t.tile d u = s.tile d u) ∧ ∀ d k, (t.thread d k).regs = (s.thread d k).regs := by
  have hc : ∀ d tok, (s.taken.trace f d tok).cores = s.cores := fun d tok => trace_cores _ _ _ _
  have he' : ∀ d tok, (s.taken.trace f d tok).exec? f.site.core (f.key r.ta) = some e := fun d tok => by
    rw [← he]
    simp only [State.exec?, State.thread, State.core, hc]
  rw [exitFiring, withFiring_some _ _ _ hf]
  refine ⟨_, { e with exits := e.exits ++ [f.exitSeen r next] }, f.exitSeen r next, rfl, ?_, rfl, rfl, rfl, rfl, rfl, rfl, rfl, rfl,
    fun d u => ?_, fun d k => ?_⟩
  · rw [State.seeExit, State.exec?_updExec, if_pos ⟨rfl, rfl⟩, he']
    rfl
  · rw [State.seeExit, State.updExec, State.tile_updThread]
    simp only [State.tile, State.core, hc]
  · rw [State.seeExit, State.regs_updExec]
    simp only [State.thread, State.core, hc]

/-- JMPI of a 64-bit operand is an exit to the block that A names. -/
theorem exec_jmpi_word (sa : Src) {s : State} {f : Firing} (hf : s.firing = some f) (ha : isWord f.a = true) :
    exec (.jmpi sa) s = exitFiring (exitRoute sa .none .unary) (fun f => some f.tokA.w64) s := by
  show execJmpi sa s = _
  simp [execJmpi, hf, ha]

theorem exec_jmpi_beat (sa : Src) {s : State} {f : Firing} (h : s.Fires f .unary) (ha : isWord f.a = false) :
    exec (.jmpi sa) s = .next (s.taken.freezeFiring f .unary codeFMTMIS) := by
  obtain ⟨hf, hd, hp⟩ := h
  show execJmpi sa s = _
  simp [execJmpi, hf, hd, hp, ha, withFiring_some _ _ _ hf]

/-- Settles O35: each of the four is an exit firing with its own next block. -/
theorem exits : Obligations.Exits := by
  intro s f sa sb tblk fblk blk e hf c Sees
  refine ⟨fun he => ?_, fun he => exitFiring_sees (exitRoute sa .none .unary) _ hf he,
    fun he => exitFiring_sees (exitRoute sa .none .unary) _ hf he, fun ha he => ?_, fun h ha => exec_jmpi_beat sa h ha⟩
  · rw [← apply_ite (BitVec.ofNat 64)]
    exact exitFiring_sees (exitRoute sa sb .preda) _ hf he
  · rw [exec_jmpi_word sa hf ha]
    exact exitFiring_sees (exitRoute sa .none .unary) _ hf he

/-! ## Actions of the commit (R37) -/

theorem exec_bara (r : Route1) (n : BitVec 5) {s : State} {f : Firing} (h : s.Fires f .unary) :
    let p := s.phaseFor f.site.core (f.key .unary) n.toNat
    exec (.bara r n) s = .next ((s.taken.atCommit f .unary (.arrive n.toNat p)).sends f r.full (p.zeroExtend 64)) := by
  show execBara r n s = _
  rw [execBara, wordFiring_own (r := r.full) _ h]
  rfl

theorem exec_bar (r : Route1) (n : BitVec 5) {s : State} {f : Firing} (h : s.Fires f .unary) :
    let p := s.phaseFor f.site.core (f.key .unary) n.toNat
    exec (.bar r n) s = .next (((s.taken.atCommit f .unary (.arrive n.toNat p)).atCommit f .unary (.barWait n.toNat p)).sends
      f r.full (p.zeroExtend 64)) := by
  show execBar r n s = _
  rw [execBar, wordFiring_own (r := r.full) _ h]
  rfl

theorem exec_trprep_word (sa sb : Src) (ta : TagAction) (kind : RepairKind) {s : State} {f : Firing} (h : s.Fires f ta)
    (hb : isWord f.b = true) : exec (.trprep sa sb ta kind) s =
      .next ((s.taken.atCommit f ta (.trprep kind f.tokA.data f.tokB.w64)).trace f .discard f.tokA) := by
  obtain ⟨hf, hd, hp⟩ := h
  show execTrprep sa sb ta kind s = _
  rw [execTrprep, withFiring_some _ _ _ hf, fireCases_own _ _ _ _ _ hd hp, hb]
  rfl

theorem exec_trprep_beat (sa sb : Src) (ta : TagAction) (kind : RepairKind) {s : State} {f : Firing} (h : s.Fires f ta)
    (hb : isWord f.b = false) : exec (.trprep sa sb ta kind) s = .next (s.taken.freezeFiring f ta codeFMTMIS) := by
  obtain ⟨hf, hd, hp⟩ := h
  show execTrprep sa sb ta kind s = _
  rw [execTrprep, withFiring_some _ _ _ hf, fireCases_own _ _ _ _ _ hd hp, hb]
  rfl

/-- Settles O36: the barriers send the phase they read, five instructions pass A on whatever its shape, five take a word. -/
theorem commitActions : Obligations.CommitActions := by
  intro s f r n abs float mreg scope action blk sa sb ta kind p a
  refine ⟨fun h => ⟨exec_bara r n h, exec_bar r n h, ?passing, ?words⟩,
    fun h => ⟨exec_trprep_word sa sb ta kind h, exec_trprep_beat sa sb ta kind h⟩⟩
  case passing =>
    have ha : bitsOf f.tokA.w64.toNat 1 0 = a.toNat % 4 := by simp [bitsOf, a]
    have pass : ∀ act, passFiring r.full act s = .next ((act s.taken f).passes f r.full) :=
      fun act => passFiring_own (r := r.full) act h
    simp only [Prod.mk.injEq, List.mem_cons, List.not_mem_nil, or_false]
    rintro i act (⟨rfl, rfl⟩ | ⟨rfl, rfl⟩ | ⟨rfl, rfl⟩ | ⟨rfl, rfl⟩ | ⟨rfl, rfl⟩)
    · exact pass _
    · exact pass _
    · exact pass _
    · exact pass _
    · rw [← ha]; exact pass _
  case words =>
    have word : ∀ act, (isWord f.a = true → commitFiring r.full act s = .next ((s.taken.atCommit f .unary (act f)).passes f r.full)) ∧
        (isWord f.a = false → commitFiring r.full act s = .next (s.taken.freezeFiring f .unary codeFMTMIS)) :=
      fun act => ⟨commitFiring_word (r := r.full) act h, commitFiring_beat (r := r.full) act h⟩
    simp only [Prod.mk.injEq, List.mem_cons, List.not_mem_nil, or_false]
    rintro i act (⟨rfl, rfl⟩ | ⟨rfl, rfl⟩ | ⟨rfl, rfl⟩ | ⟨rfl, rfl⟩ | ⟨rfl, rfl⟩)
    · exact word fun f => .sleep f.tokA.w64 abs
    · exact word fun f => .hred f.tokA.w64
    · exact word fun f => .lyrel f.tokA.w64
    · exact word fun f => .cfginv f.tokA.w64 scope
    · exact word fun f => .trret action.toNat blk.toNat f.tokA.w64

end Sys2Proof.Machine

/-! PROOFS. Stores (R36, R307, R364 to R367): a checked store is one more entry of its execution's buffer. -/

namespace Sys2Proof.Machine

/-! ## The space of an access whose number is taken -/

/-- A change of an execution keeps everything of a core but its threads. -/
theorem State.core_updExec (s : State) (c k d : Nat) (g : Exec → Exec) :
    ∃ x, (s.updExec c k g).core d = { s.core d with threads := x } := by
  rw [State.updExec, State.updThread, State.core_updCore]
  split
  · rename_i h; subst h; exact ⟨_, rfl⟩
  · exact ⟨_, rfl⟩

theorem State.hslots_updExec (s : State) (c k d : Nat) (g : Exec → Exec) :
    ((s.updExec c k g).core d).hslots = (s.core d).hslots := by
  obtain ⟨x, hx⟩ := s.core_updExec c k d g
  rw [hx]

theorem numbered_hslots (s : State) (f : Firing) (r : Route) (i : Instr) (c : Nat) :
    ((s.numbered f r i).core c).hslots = (s.core c).hslots := by
  simp only [State.numbered, State.report, State.accessId]
  repeat' split
  all_goals simp only [State.hslots_updExec, State.core_taken]

/-- The number of an access changes nothing that a thread's address space depends on. -/
theorem numbered_aspaceOf (s : State) (f : Firing) (r : Route) (i : Instr) (c k : Nat) :
    (s.numbered f r i).aspaceOf c k = s.aspaceOf c k := by
  have hteam : ((s.numbered f r i).thread c k).team = (s.thread c k).team := by
    obtain ⟨x, hx⟩ := numbered_thread s f r i c k
    rw [hx]
  simp only [State.aspaceOf, State.servedTrap, State.gridOfTeam, State.team?, State.grid?, State.regBits, State.regN, State.reg,
    numbered_hslots, numbered_teams, numbered_grids, numbered_regs, hteam]

/-- An access is checked as it was before it took its number. -/
theorem numbered_checkAll (s : State) (f : Firing) (r : Route) (i : Instr) (c k : Nat) (l : List Range) :
    (s.numbered f r i).checkAll c k l = s.checkAll c k l :=
  checkAll_congr _ _ _ _ _ (numbered_mmu ..) (numbered_regs ..) (numbered_sec ..) (numbered_stage ..) (numbered_failed ..)
    (numbered_aspaceOf ..)

/-! ## Placing a store -/

/-- The entry that a checked store leaves in the store buffer. -/
def storeEntry (i : Instr) (f : Firing) (id : Nat) (bytes : List (Nat × Nat)) : Buffered :=
  { id := id, own := (match i.wave? with | some w => if w.waved then some w.own.toNat else none | none => none)
    deps := f.deps, kind := storeKind i f (bytes.map (·.1)), rel := releaseOf i, mode := (bytes.headD (0, 0)).2 }

theorem State.accessChecked_store (s : State) {i : Instr} (f : Firing) (r : Route) (id : Nat) (bytes : List (Nat × Nat))
    (hi : isBufferedStore i = true) : s.accessChecked i f r id bytes = s.placeStore i f r id bytes := by
  rw [State.accessChecked, if_pos hi]
  rintro r level m rfl
  cases hi

/-- A store whose checks pass is placed. -/
theorem exec_store_placed {s : State} {f : Firing} {i : Instr} {r : Route} {l : List Range} {bytes : List (Nat × Nat)}
    (hi : isBufferedStore i = true) (hr : i.route? = some r) (h : s.Fires f r.ta) (hm : memRanges i f = some l)
    (hc : s.checkAll f.site.core (f.key r.ta) l = .ok bytes) :
    exec i s = .next (((s.numbered f r i).buffer f.site.core (f.key r.ta) (storeEntry i f (s.accessNo f r) bytes)).emitOut f r
      (.both [doneToken f r (s.accessNo f r)])) := by
  have hacc : isAccess i = true := by simp [isAccess, hi]
  rw [exec_access i r s f hacc hr h, State.startAccess, hm]
  simp only [numbered_checkAll, hc, State.accessChecked_store _ _ _ _ _ hi]
  rfl

section Buffer
variable (s : State) (c k : Nat) (b : Buffered)

theorem State.exec?_buffer {e : Exec} (h : s.exec? c k = some e) :
    (s.buffer c k b).exec? c k = some { e with buffered := e.buffered ++ [b] } := by
  rw [State.buffer, State.exec?_updExec, if_pos ⟨rfl, rfl⟩, h]
  rfl

theorem State.tile_buffer (d t : Nat) : (s.buffer c k b).tile d t = s.tile d t := State.tile_updThread ..
theorem State.regs_buffer (d j : Nat) : ((s.buffer c k b).thread d j).regs = (s.thread d j).regs := State.regs_updExec ..
theorem State.byte_buffer (a : Nat) : (s.buffer c k b).byte a = s.byte a := rfl

end Buffer

/-- Settles O27: the six stores are placed alike, each with the kind of entry that its instruction names. -/
theorem storesBuffered : Obligations.StoresBuffered := by
  intro s f i r r1 r2 n ds split copy rel m l bytes e hi hr h hm hc he
  have hst : isBufferedStore i = true := by
    simp only [List.mem_cons, List.not_mem_nil, or_false] at hi
    rcases hi with rfl | rfl | rfl | rfl | rfl | rfl <;> rfl
  obtain ⟨e', he', hbuf, -⟩ := numbered_exec s f r i e he
  obtain ⟨hw, hfmt, hpred, hdef⟩ := doneToken_spec f r (s.accessNo f r) h.2.1 h.2.2
  refine ⟨_, _, storeEntry i f (s.accessNo f r) bytes, _, exec_store_placed hst hr h hm hc, State.exec?_buffer _ _ _ _ he',
    by rw [← hbuf], rfl, rfl, ?_, hw, hfmt, hpred, hdef, numbered_regs s f r i, fun c t => ?_, fun c k => ?_, fun a => ?_⟩
  · simp only [List.mem_cons, List.not_mem_nil, or_false] at hi
    rcases hi with rfl | rfl | rfl | rfl | rfl | rfl
    case inr.inr.inr.inr.inr => cases copy <;> rfl
    all_goals rfl
  · rw [State.tile_buffer, numbered_tile]
  · obtain ⟨x, hx⟩ := numbered_thread s f r i c k
    rw [State.regs_buffer, hx]
  · rw [State.byte_buffer, State.byte, numbered_mem, State.byte]

end Sys2Proof.Machine

/-! PROOFS. Atomics on stage memory (R39, R163, R297, R368). -/

namespace Sys2Proof

theorem leNat_lt (l : List Byte) : leNat l < 2 ^ (8 * l.length) := by
  induction l with
  | nil => simp [leNat]
  | cons b r ih =>
    have hb := b.isLt
    rw [leNat, List.length_cons, two_pow_bits_succ]
    omega

theorem foldl_dedup_of_mem (m : List Nat) (l : Nat) (h : ∀ x ∈ m, x = l) :
    m.foldl (fun acc x => if acc.contains x then acc else acc ++ [x]) [l] = [l] := by
  induction m with
  | nil => rfl
  | cons x r ih =>
    obtain rfl := h x List.mem_cons_self
    simpa using ih fun y hy => h y (List.mem_cons_of_mem _ hy)

/-- A list of one value again and again names that value alone. -/
theorem dedupNat_eq_singleton {m : List Nat} {l : Nat} (hm : m ≠ []) (h : ∀ x ∈ m, x = l) : dedupNat m = [l] := by
  cases m with
  | nil => exact absurd rfl hm
  | cons x r =>
    obtain rfl := h x List.mem_cons_self
    simpa [dedupNat] using foldl_dedup_of_mem r x fun y hy => h y (List.mem_cons_of_mem _ hy)

end Sys2Proof

namespace Sys2Proof.Machine

/-! ## A number in memory replaced -/

theorem State.load_congr {s u : State} (h : u.mem = s.mem) (a n : Nat) : u.load a n = s.load a n := by
  simp only [State.load, State.bytes, State.byte, h]

theorem State.byte_congr {s u : State} (h : u.mem = s.mem) (a : Nat) : u.byte a = s.byte a := by
  simp only [State.byte, h]

theorem State.load_lt (s : State) (a n : Nat) : s.load a n < 2 ^ (8 * n) := by
  have h := leNat_lt (s.bytes a n)
  simpa [State.load, State.bytes, upTo] using h

/-- u holds the number v in the n bytes at a, and every other byte as s holds it. -/
def State.Replaces (s u : State) (a n v : Nat) : Prop :=
  u.load a n = v % 2 ^ (8 * n) ∧ ∀ p, p < a ∨ a + n ≤ p → u.byte p = s.byte p

theorem State.replaces_of_putNat {s u : State} {a n v : Nat} (h : u.mem = (s.putNat a n v).mem) : s.Replaces u a n v :=
  ⟨by rw [State.load_congr h, State.load_putNat], fun p hp => by rw [State.byte_congr h, State.byte_putNat_outside _ _ _ _ _ hp]⟩

theorem State.Replaces.of_mod {s u : State} {a n v : Nat} (h : s.Replaces u a n (v % 2 ^ (8 * n))) : s.Replaces u a n v :=
  ⟨h.1.trans (Nat.mod_mod _ _), h.2⟩

theorem State.replaces_of_same {s u : State} {a n : Nat} (h : u.mem = s.mem) : s.Replaces u a n (s.load a n) :=
  ⟨by rw [State.load_congr h, Nat.mod_eq_of_lt (s.load_lt a n)], fun p _ => State.byte_congr h p⟩

theorem State.mem_putBytes_congr {s u : State} (h : u.mem = s.mem) (a : Nat) (l : List Byte) :
    (u.putBytes a l).mem = (s.putBytes a l).mem := by
  induction l generalizing s u a with
  | nil => exact h
  | cons b r ih => exact ih (congrArg (fun m => Memory.write m a b) h) (a + 1)

/-- Cells of rising addresses written are the bytes written from the first. -/
theorem State.putCells_zip_range (s : State) (a : Nat) (l : List Byte) :
    s.putCells (List.zip ((List.range l.length).map (a + ·)) l) = s.putBytes a l := by
  induction l generalizing s a with
  | nil => rfl
  | cons b r ih =>
    have hr : (List.range (r.length + 1)).map (a + ·) = a :: (List.range r.length).map (a + 1 + ·) := by
      simp [List.range_succ_eq_map, Function.comp_def, Nat.add_assoc, Nat.add_comm 1]
    rw [List.length_cons, hr]
    exact ih (s.putByte a b) (a + 1)

/-! ## Lines that stand at their slice alone -/

theorem State.mem_invalidateSharers (s : State) (l : Nat) : (s.invalidateSharers l).mem = s.mem := by
  unfold State.invalidateSharers; split <;> rfl

theorem State.mem_homeWrote (s : State) (l : Nat) : (s.homeWrote l).mem = s.mem := by
  rw [State.homeWrote]
  split
  · exact s.mem_invalidateSharers l
  · exact s.mem_invalidateSharers l

theorem State.mem_outerWrote (s : State) (l : Nat) : (s.outerWrote l).mem = s.mem := by
  unfold State.outerWrote; split <;> rfl

theorem State.isSliceOnly_of_stage {s : State} {l p off : Nat} (h : s.target (64 * l) = .stage p off) : s.isSliceOnly l = true := by
  rw [State.isSliceOnly, h]

theorem State.isDomain_of_stage {s : State} {l p off : Nat} (h : s.target (64 * l) = .stage p off) : s.isDomain l = false := by
  rw [State.isDomain, h]

/-- Is a stage address one that its port die's carve holds; any other address counts as one (R141)? -/
def State.carved (s : State) (a : Nat) : Bool := match s.target a with | .stage p off => s.stageOk p off | _ => true

/-- Cells of one such line, all of them carved, are written to memory. -/
theorem State.mem_writeAtSlice_stage (s : State) (n : Nat) (who : Option (Nat × Nat)) (cells : List Host.Cell) {l : Nat}
    (hs : s.isSliceOnly l = true) (hne : cells ≠ []) (hl : ∀ x ∈ cells, x.1 / 64 = l) (hk : ∀ x ∈ cells, s.carved x.1 = true) :
    (s.writeAtSlice n who cells).mem = (s.putCells cells).mem := by
  have hlines : dedupNat (cells.map (fun c => c.1 / 64)) = [l] :=
    dedupNat_eq_singleton (by simpa using hne) (List.forall_mem_map.mpr hl)
  have hmine : cells.filter (fun c => c.1 / 64 = l) = cells := List.filter_eq_self.mpr (by simpa using hl)
  have hcopy : s.setCopyCells n l cells = s.putCells cells := by
    rw [State.setCopyCells, if_pos hs]
    exact congrArg s.putCells (List.filter_eq_self.mpr hk)
  rw [State.writeAtSlice]
  simp only [hlines, List.foldl_cons, List.foldl_nil, hs, if_true, hmine, hcopy]
  show ((((s.putCells cells).homeWrote l).outerWrote l)).mem = _
  rw [State.mem_outerWrote, State.mem_homeWrote]

/-! ## The unit of an atomic -/

theorem sizeBytes_pos (n : Size) : 0 < sizeBytes n := by cases n <;> decide

/-- Every byte of an aligned unit stands in the line of its first. -/
theorem lineOf_unit {n : Size} {a j : Nat} (ha : a % sizeBytes n = 0) (hj : j < sizeBytes n) : (a + j) / 64 = a / 64 := by
  cases n <;> simp only [sizeBytes] at ha hj <;> omega

/-- The bytes of a unit with the mode of their page. -/
def unitOf (a mode w : Nat) : List (Nat × Nat) := (List.range w).map (fun j => (a + j, mode))

@[simp] theorem map_fst_unitOf (a mode w : Nat) : (unitOf a mode w).map (·.1) = (List.range w).map (a + ·) := by
  simp [unitOf]

theorem headD_unitOf (a mode : Nat) {w : Nat} (hw : 0 < w) : (unitOf a mode w).headD (0, 0) = (a, mode) := by
  obtain ⟨m, rfl⟩ := Nat.exists_eq_add_one.mpr hw
  simp [unitOf, List.range_succ_eq_map]

/-- An aligned unit of carved stage memory. -/
structure State.StageUnit (s : State) (a mode : Nat) (n : Size) : Prop where
  aligned : a % sizeBytes n = 0
  slice : s.isSliceOnly (a / 64) = true
  notDomain : s.isDomain (a / 64) = false
  carved : ∀ j < sizeBytes n, s.carved (a + j) = true

section Unit
variable {s : State} {a mode : Nat} {n : Size} (h : s.StageUnit a mode n)
include h

theorem State.StageUnit.takeWords (c : Nat) : s.takeWords c (unitOf a mode (sizeBytes n)) = s := by
  rw [State.takeWords, headD_unitOf _ _ (sizeBytes_pos n)]
  simp only [lineOf, h.slice, Bool.true_or, if_true]

/-- The bytes at the slice are those of memory. -/
theorem State.StageUnit.sliceBytes (m : Nat) :
    leNat (s.sliceBytes m ((unitOf a mode (sizeBytes n)).map (·.1))) = s.load a (sizeBytes n) := by
  rw [map_fst_unitOf, State.load, State.bytes, State.sliceBytes, List.map_map, upTo]
  congr 1
  refine List.map_congr_left fun j hj => ?_
  simp [lineOf, lineOf_unit h.aligned (List.mem_range.mp hj), h.slice]

/-- The write of an atomic replaces the unit in memory. -/
theorem State.StageUnit.atomicWrite (c k v : Nat) :
    ((s.takeWords c (unitOf a mode (sizeBytes n))).atomicWrite c k (unitOf a mode (sizeBytes n)) v).mem =
      (s.putNat a (sizeBytes n) v).mem := by
  have hpos := sizeBytes_pos n
  have hpa : ((List.range (sizeBytes n)).map (a + ·)).getD 0 0 = a := by
    obtain ⟨m, hm⟩ := Nat.exists_eq_add_one.mpr hpos
    simp [hm, List.range_succ_eq_map]
  have hcell : ∀ x ∈ List.zip ((List.range (sizeBytes n)).map (a + ·)) (leBytes (sizeBytes n) v),
      ∃ j < sizeBytes n, x.1 = a + j := by
    rintro ⟨p, b⟩ hx
    obtain ⟨j, hj, rfl⟩ := List.mem_map.mp (List.of_mem_zip hx).1
    exact ⟨j, List.mem_range.mp hj, rfl⟩
  have hne : List.zip ((List.range (sizeBytes n)).map (a + ·)) (leBytes (sizeBytes n) v) ≠ [] := by
    apply List.ne_nil_of_length_pos
    simpa using hpos
  rw [h.takeWords, State.atomicWrite]
  simp only [map_fst_unitOf, hpa, lineOf, h.notDomain, Bool.false_eq_true, if_false, List.length_map, List.length_range]
  rw [State.mem_writeAtSlice_stage _ _ _ _ h.slice hne, State.putNat, ← State.putCells_zip_range, length_leBytes]
  · intro x hx
    obtain ⟨j, hj, e⟩ := hcell x hx
    rw [e, lineOf_unit h.aligned hj]
  · intro x hx
    obtain ⟨j, hj, e⟩ := hcell x hx
    rw [e, h.carved j hj]

end Unit

/-! ## Performing -/

/-- A token's 64 bits are the word that it is given. -/
theorem fit_beatOf_w64 (t : Token) (w : Word) : ({ t with data := beatOf w } : Token).fit.w64 = w := by
  rw [fit_w64]
  simp only [Token.w64, beatOf]
  apply BitVec.eq_of_toNat_eq
  simp only [BitVec.truncate_eq_setWidth, BitVec.extractLsb'_toNat, BitVec.toNat_setWidth, Nat.shiftRight_zero]
  omega

theorem doneToken_w64 (f : Firing) (r : Route) (id : Nat) : (doneToken f r id).w64 = 0 := by
  rw [doneToken, fit_w64]; rfl

theorem State.mem_acquire (s : State) (c : Nat) (i : Instr) : (s.acquire c i).mem = s.mem := by
  unfold State.acquire; split <;> rfl

theorem State.mem_addFlags (s : State) (c k : Nat) (fl : FpFlags) : (s.addFlags c k fl).mem = s.mem := by
  unfold State.addFlags; split <;> rfl

/-- The access gone from its core. -/
def State.accessGone (s : State) (c key : Nat) : State := s.updCore c (fun q => { q with accesses := KMap.del q.accesses key })

/-- What an atomic on a unit of memory leads to: the number new replaces the unit's old one, w is what it returns. -/
def AtomicDone (s : State) (f : Firing) (r : Route) (a n new : Nat) (w : Word) (u t : State) : Prop :=
  ∃ x d : Token, t = u.emitOut f r ⟨[x], [d], 0⟩ ∧ x.w64 = w ∧ d.w64 = 0 ∧ s.Replaces u a n new

/-- The state in which an atomic performs: its execution has performed one. -/
def State.atomicBegun (s : State) (f : Firing) (k : Nat) : State :=
  s.updExec f.site.core k (fun e => { e with atomic := true })

section Perform
variable {s : State} {x : Access} {a mode : Nat} {n : Size} (h : s.StageUnit a mode n) (hx : x.bytes = unitOf a mode (sizeBytes n))
  (r : Route)
include h hx

omit h in
theorem length_map_fst_bytes : (x.bytes.map (·.1)).length = sizeBytes n := by simp [hx]

omit hx in
theorem State.StageUnit.begun (f : Firing) (k : Nat) : (s.atomicBegun f k).StageUnit a mode n :=
  ⟨h.aligned, h.slice, h.notDomain, h.carved⟩

/-- What an atomic has written once it has begun. -/
theorem State.StageUnit.written (f : Firing) (k v : Nat) :
    ((((s.atomicBegun f k).takeWords f.site.core x.bytes).atomicWrite f.site.core k x.bytes v).mem =
      (s.putNat a (sizeBytes n) v).mem) := by
  rw [hx]
  exact ((h.begun f k).atomicWrite f.site.core k v).trans (State.mem_putBytes_congr (s.updExec_mem _ _ _) a _)

theorem State.performAtomic_atom (m : Size) (op : AtomOp) (ord : Ord3) (ctl : MemCtl) (f : Firing) (old : Nat) :
    ∃ u, AtomicDone s f r a (sizeBytes n) (atomNew op (8 * sizeBytes n) old (f.tokB.w64.toNat % 2 ^ (8 * sizeBytes n))).1
      (BitVec.ofNat 64 old) u (s.performAtomic (.atom r m op ord ctl) f r x old false) := by
  rw [← length_map_fst_bytes hx]
  refine ⟨_, _, _, rfl, fit_beatOf_w64 _ _, doneToken_w64 _ _ _, ?_⟩
  rw [length_map_fst_bytes hx]
  refine State.replaces_of_putNat ((State.mem_acquire _ _ _).trans ((State.mem_addFlags _ _ _ _).trans ?_))
  exact h.written hx f x.thread _

theorem State.performAtomic_cas (m : Size) (q : BitVec 2) (ord : Ord3) (ctl : MemCtl) (f : Firing) :
    ∃ u, AtomicDone s f r a (sizeBytes n)
      (if s.load a (sizeBytes n) = f.tokB.w64.toNat % 2 ^ (8 * sizeBytes n) then f.tokQ.w64.toNat else s.load a (sizeBytes n))
      (BitVec.ofNat 64 (s.load a (sizeBytes n))) u
      (s.performAtomic (.cas r m q ord ctl) f r x (s.load a (sizeBytes n)) false) := by
  refine ⟨_, _, _, rfl, fit_beatOf_w64 _ _, doneToken_w64 _ _ _, ?_⟩
  rw [length_map_fst_bytes hx]
  split
  case isTrue hv => exact (State.replaces_of_putNat ((State.mem_acquire _ _ _).trans (h.written hx f x.thread _))).of_mod
  case isFalse hv =>
    have hw : (s.atomicBegun f x.thread).takeWords f.site.core x.bytes = s.atomicBegun f x.thread := by
      rw [hx, (h.begun f x.thread).takeWords]
    have hmem : ((s.atomicBegun f x.thread).takeWords f.site.core x.bytes).mem = s.mem := by
      rw [hw]; rfl
    exact State.replaces_of_same ((State.mem_acquire _ _ _).trans hmem)

omit h in
theorem getD_map_fst_bytes : (x.bytes.map (·.1)).getD 0 0 = a := by
  obtain ⟨m, hm⟩ := Nat.exists_eq_add_one.mpr (sizeBytes_pos n)
  simp [hx, hm, List.range_succ_eq_map]

/-- What SC leaves of its thread's reservation, its hold and its count of failures. -/
def scEnds (ok : Bool) (t : Thread) : Thread := { t with resv := none, hold := none, failed := if ok then 0 else t.failed + 1 }

variable {ok : Bool} {f : Firing} (hok : decide ((s.thread f.site.core x.thread).resv.map (·.granule) = some (a / 64)) = ok)
include hok

omit h in
/-- SC writes where its thread holds the reservation of the granule. -/
theorem State.performAtomic_sc_eq (m : Size) (rel : Bool) (ctl : MemCtl) (old : Nat) :
    s.performAtomic (.sc r m rel ctl) f r x old false =
      ((if ok then ((s.atomicBegun f x.thread).takeWords f.site.core x.bytes).atomicWrite f.site.core x.thread x.bytes
          (f.tokB.w64.toNat % 2 ^ (8 * sizeBytes n)) else s.atomicBegun f x.thread).updThread f.site.core x.thread (scEnds ok)).emitOut
        f r ⟨[{ valueTag (.sc r m rel ctl) f r x.id with data := beatOf (if ok then 1 else 0) }.fit], [doneToken f r x.id], 0⟩ := by
  have hresv : ((s.atomicBegun f x.thread).thread f.site.core x.thread).resv = (s.thread f.site.core x.thread).resv := by
    rw [State.atomicBegun, State.thread_updExec]
  have hmatch : (match ((s.atomicBegun f x.thread).thread f.site.core x.thread).resv with
      | some q => decide (q.granule = lineOf ((x.bytes.map (·.1)).getD 0 0)) | none => false) = ok := by
    rw [getD_map_fst_bytes hx, hresv, ← hok]
    cases (s.thread f.site.core x.thread).resv with
    | none => rfl
    | some q => exact decide_eq_decide.mpr (by simp [lineOf])
  rw [← hmatch, ← length_map_fst_bytes hx]
  rfl

theorem State.performAtomic_sc (m : Size) (rel : Bool) (ctl : MemCtl) :
    ∃ u, AtomicDone s f r a (sizeBytes n)
      (if ok then f.tokB.w64.toNat % 2 ^ (8 * sizeBytes n) else s.load a (sizeBytes n)) (if ok then 1 else 0) u
      (s.performAtomic (.sc r m rel ctl) f r x (s.load a (sizeBytes n)) false) ∧
      (u.thread f.site.core x.thread).resv = none := by
  refine ⟨_, ⟨_, _, State.performAtomic_sc_eq hx r hok m rel ctl _, fit_beatOf_w64 _ _, doneToken_w64 _ _ _, ?_⟩, ?_⟩
  · cases ok
    case true => exact State.replaces_of_putNat (h.written hx f x.thread _)
    case false => exact State.replaces_of_same rfl
  · rw [State.thread_updThread, if_pos ⟨rfl, rfl⟩]
    rfl

end Perform

/-! ## The reply -/

/-- A reply counts the time of a slow access, at the Distributor of its die alone. -/
theorem State.noteSlow_eq (s : State) (x : Access) : ∃ d, s.noteSlow x = { s with dist := d } := by
  unfold State.noteSlow
  split
  · exact ⟨s.dist, rfl⟩
  · exact ⟨_, rfl⟩

/-- The reply of an atomic that nothing stands against performs it on the number at its address (R39). -/
theorem State.replyAtomic_performs {s : State} {i : Instr} {r : Route} {x : Access} {key a mode : Nat} {n : Size} {e : Exec}
    (he : s.exec? x.site.core x.thread = some e) (hbad : e.bad = []) (hrel : e.relDone = true) (hst : x.stage = .reply)
    (h : s.StageUnit a mode n) (hx : x.bytes = unitOf a mode (sizeBytes n)) (hp : s.poisoned a = false)
    (hf : s.addrFailed a = false) (hr : s.atomicRelease x.site.core x.thread i x.firing e = none)
    (hb : s.behindHeld x.site.core x.thread [lineOf a] s.coh.held = false) (hready : s.atomicReady x = true) :
    s.replyAtomic i x.firing r x key =
      (s.accessGone x.site.core key).performAtomic i x.firing r x (s.load a (sizeBytes n)) false := by
  have hpa : x.bytes.headD (0, 0) = (a, mode) := by rw [hx, headD_unitOf _ _ (sizeBytes_pos n)]
  have hpois : s.atomicPoison i x = false := by
    unfold State.atomicPoison
    split
    · rfl
    · rw [hpa, State.copyPoison, lineOf, h.slice, Bool.or_true, if_pos rfl]
      exact hp
  have hdom : s.isDomain (lineOf a) = false := h.notDomain
  have hload : leNat (s.sliceBytes (s.atomicNode x.site.core x.bytes) (x.bytes.map (·.1))) = s.load a (sizeBytes n) := by
    rw [hx]; exact h.sliceBytes _
  have he' : s.exec? x.firing.site.core x.thread = some e := he
  have hr' : s.atomicRelease x.firing.site.core x.thread i x.firing e = none := hr
  have hb' : s.behindHeld x.firing.site.core x.thread [lineOf a] s.coh.held = false := hb
  have hload' : leNat (s.sliceBytes (s.atomicNode x.firing.site.core x.bytes) (x.bytes.map (·.1))) = s.load a (sizeBytes n) := hload
  simp only [State.replyAtomic, he', hbad, List.any_nil, Bool.false_eq_true, if_false, hst, hpois, hpa, hf, Bool.or_self, hrel, if_true,
    hr', Bool.not_true, hb', hdom, hready, hload']
  rfl

theorem State.atomicReady_of_replyReady {s : State} {x : Access} {i : Instr} {r : Route} (hi : isAtomic i = true)
    (hst : x.stage = .reply) (hg : s.bytesGone x.bytes = false) (h : s.replyReady x i r = true) : s.atomicReady x = true := by
  simp only [State.replyReady, hst, hg, hi, if_true, Bool.false_or, Bool.and_eq_true] at h
  exact h.2.2.2

/-- A reply that is ready, of an atomic whose bytes are still there. -/
theorem exec_memoryReply_atomic {s : State} {c key : Nat} {x : Access} {i : Instr} {r : Route}
    (hl : KMap.look (s.core c).accesses key = some x) (hd : decode x.bits.word x.bits.lit = .ok i) (hr : i.route? = some r)
    (hready : s.replyReady x i r = true) (hst : x.stage = .reply) (hg : s.bytesGone x.bytes = false) (hi : isAtomic i = true) :
    exec (.memoryReply c key) s = .next ((s.noteSlow x).replyAtomic i x.firing r x key) := by
  have hg' : (s.noteSlow x).bytesGone x.bytes = false := by
    obtain ⟨d, hd⟩ := s.noteSlow_eq x
    rw [hd]; exact hg
  have hd' : (decode x.bits.word x.bits.lit).toOption = some i := by rw [hd]; rfl
  show execMemoryReply c key s = _
  simp only [execMemoryReply, State.reply, hl, hd', hr, hready, Bool.not_true, Bool.false_eq_true, if_false, hst, hg', hi, if_true]

theorem State.carved_of_bytesGone {s : State} {l : List (Nat × Nat)} (h : s.bytesGone l = false) {b : Nat × Nat} (hb : b ∈ l) :
    s.carved b.1 = true := by
  have hk := List.any_eq_false.mp h b hb
  unfold State.carved
  cases hp : s.target b.1 with
  | stage p off => simpa [hp] using hk
  | _ => rfl

theorem State.thread_accessGone (s : State) (c key d k : Nat) : (s.accessGone c key).thread d k = s.thread d k := by
  rw [State.accessGone, State.thread, State.core_updCore]
  split
  · rename_i h; subst h; rfl
  · rfl

/-- Settles O34: a reply that nothing stands against performs the atomic; each of the three replaces the unit in memory. -/
theorem atomicReplies : Obligations.AtomicReplies := by
  intro s c key a mode x e i r n hl hc hst he hbuf hbad hrel ha hx ⟨p, off, htgt⟩ ⟨p', off', hline⟩ hpois hform hd hready hrls hgone
    hheld old b
  subst hc
  have hi : isAtomic i = true := by rcases hform with ⟨_, _, _, rfl⟩ | ⟨_, _, _, rfl⟩ | ⟨_, _, rfl⟩ <;> rfl
  have hr : i.route? = some r := by rcases hform with ⟨_, _, _, rfl⟩ | ⟨_, _, _, rfl⟩ | ⟨_, _, rfl⟩ <;> rfl
  have hfail : s.addrFailed a = false := by rw [State.addrFailed, htgt]
  have hunit : s.StageUnit a mode n := ⟨ha, s.isSliceOnly_of_stage hline, s.isDomain_of_stage hline, fun j hj =>
    State.carved_of_bytesGone hgone (b := (a + j, mode)) (by rw [hx]; exact List.mem_map.mpr ⟨j, List.mem_range.mpr hj, rfl⟩)⟩
  have hat : s.atomicReady x = true := State.atomicReady_of_replyReady hi hst hgone hready
  obtain ⟨dist, hslow⟩ := s.noteSlow_eq x
  let t : State := ({ s with dist := dist } : State).accessGone x.site.core key
  have ht : t.StageUnit a mode n := ⟨ha, hunit.slice, hunit.notDomain, hunit.carved⟩
  have hperf : exec (.memoryReply x.site.core key) s = .next (t.performAtomic i x.firing r x (t.load a (sizeBytes n)) false) := by
    rw [exec_memoryReply_atomic hl hd hr hready hst hgone hi, hslow]
    exact congrArg _ (State.replyAtomic_performs (s := { s with dist := dist }) he hbad hrel hst
      ⟨ha, hunit.slice, hunit.notDomain, hunit.carved⟩ hx hpois hfail hrls hheld hat)
  rw [hperf]
  rcases hform with ⟨op, ord, m, rfl⟩ | ⟨q, ord, m, rfl⟩ | ⟨rel, m, rfl⟩
  · obtain ⟨u, w, d, hu, hw, hd0, hload, hrest⟩ := State.performAtomic_atom ht hx r n op ord m x.firing (t.load a (sizeBytes n))
    refine ⟨u, w, d, _, by rw [hu], hload, hrest, hd0, fun _ _ _ h => ?_, fun _ _ _ h => (by cases h), fun _ _ h => (by cases h)⟩
    cases h
    exact ⟨rfl, hw⟩
  · obtain ⟨u, w, d, hu, hw, hd0, hload, hrest⟩ := State.performAtomic_cas ht hx r n q ord m x.firing
    refine ⟨u, w, d, _, by rw [hu], hload, hrest, hd0, fun _ _ _ h => (by cases h), fun _ _ _ h => ?_, fun _ _ h => (by cases h)⟩
    cases h
    exact ⟨rfl, hw⟩
  · obtain ⟨u, ⟨w, d, hu, hw, hd0, hload, hrest⟩, hresv⟩ := State.performAtomic_sc ht hx r (f := x.firing) rfl n rel m
    refine ⟨u, w, d, _, by rw [hu], hload, hrest, hd0, fun _ _ _ h => (by cases h), fun _ _ _ h => (by cases h), fun _ _ _ =>
      ⟨hresv, fun hg => ?_, fun hg => ?_⟩⟩
    · have hok : decide ((t.thread x.firing.site.core x.thread).resv.map (·.granule) = some (a / 64)) = true := by
        rw [State.thread_accessGone]; exact decide_eq_true hg
      rw [hw, hok]
      exact ⟨rfl, rfl⟩
    · have hok : decide ((t.thread x.firing.site.core x.thread).resv.map (·.granule) = some (a / 64)) = false := by
        rw [State.thread_accessGone]; exact decide_eq_false hg
      rw [hw, hok]
      exact ⟨rfl, rfl⟩

end Sys2Proof.Machine

/-! PROOFS. Launch queues (R42, R188, R189, R191, R192, R196): doorbells, enables, teardowns and reads of packets. -/

namespace Sys2Proof.Machine

/-! ## Queues and registers -/

@[simp] theorem State.queue_updQueue_same (s : State) (q : Nat) (g : Queue → Queue) : (s.updQueue q g).queue q = g (s.queue q) :=
  KMap.lookD_alter_same ..

theorem State.queue_congr {s u : State} (h : u.queues = s.queues) (q : Nat) : u.queue q = s.queue q := by
  simp only [State.queue, h]

/-! ## What a discarded team leaves as it is -/

/-- Memory and the launch queues are as before, and of every grid whether it is aborted. -/
structure LaunchKept (s u : State) : Prop where
  mem : u.mem = s.mem
  queues : u.queues = s.queues
  aborted : ∀ g, (u.grid? g).map (·.aborted) = (s.grid? g).map (·.aborted)

namespace LaunchKept

theorem refl (s : State) : LaunchKept s s := ⟨rfl, rfl, fun _ => rfl⟩

theorem trans {s t u : State} (h : LaunchKept s t) (k : LaunchKept t u) : LaunchKept s u :=
  ⟨k.mem.trans h.mem, k.queues.trans h.queues, fun g => (k.aborted g).trans (h.aborted g)⟩

theorem of_grids {s u : State} (hm : u.mem = s.mem) (hq : u.queues = s.queues) (hg : u.grids = s.grids) : LaunchKept s u :=
  ⟨hm, hq, fun g => by simp only [State.grid?, hg]⟩

theorem foldl {α : Type} (f : State → α → State) (h : ∀ s x, LaunchKept s (f s x)) (l : List α) (s : State) :
    LaunchKept s (l.foldl f s) := by
  induction l generalizing s with
  | nil => exact refl s
  | cons x r ih => exact (h s x).trans (ih _)

end LaunchKept

section Kept
variable (s : State)

theorem launchKept_updCore (c : Nat) (g : Core → Core) : LaunchKept s (s.updCore c g) := .of_grids rfl rfl rfl

theorem launchKept_updTeam (t : Nat) (g : Team → Team) : LaunchKept s (s.updTeam t g) :=
  .of_grids (s.updTeam_mem t g) (s.updTeam_queues t g) (s.updTeam_grids t g)

theorem launchKept_updLayer (x n : Nat) (g : Layer → Layer) : LaunchKept s (s.updLayer x n g) := .of_grids rfl rfl rfl

/-- A change of a grid that keeps whether it is aborted. -/
theorem launchKept_updGrid (g : Nat) (f : Grid → Grid) (hf : ∀ x, (f x).aborted = x.aborted) : LaunchKept s (s.updGrid g f) := by
  refine ⟨s.updGrid_mem g f, s.updGrid_queues g f, fun j => ?_⟩
  rw [State.updGrid]
  cases hg : KMap.look s.grids g with
  | none => rfl
  | some x =>
    simp only [State.grid?]
    by_cases hj : j = g
    · subst hj
      simp [hg, hf]
    · rw [KMap.look_put_other _ _ _ _ hj]

theorem launchKept_releaseUses (t : Nat) : LaunchKept s (s.releaseUses t) := by
  unfold State.releaseUses
  split
  · exact .refl s
  · exact (LaunchKept.foldl _ (fun s u => launchKept_updLayer s _ _ _) _ s).trans (launchKept_updTeam _ _ _)

theorem launchKept_freeTeam (t : Nat) : LaunchKept s (s.freeTeam t) := by
  unfold State.freeTeam
  repeat' split
  · exact .refl s
  · exact .refl s
  · exact ((launchKept_updCore s _ _).trans (launchKept_updTeam _ _ _)).trans (launchKept_updCore _ _ _)

theorem launchKept_retireTeam (t : Nat) : LaunchKept s (s.retireTeam t) := by
  unfold State.retireTeam
  split
  · exact .refl s
  · exact (((launchKept_releaseUses s t).trans (launchKept_freeTeam _ t)).trans (launchKept_updTeam _ t _)).trans
      (launchKept_updGrid _ _ _ fun _ => rfl)

theorem launchKept_retireCheck (t : Nat) : LaunchKept s (s.retireCheck t) := by
  unfold State.retireCheck
  dsimp only
  split
  · exact .refl s
  · exact launchKept_retireTeam s t

theorem launchKept_helperLeaves (c k : Nat) (g : Recruitment → Recruitment) : LaunchKept s (s.helperLeaves c k g) := by
  unfold State.helperLeaves
  dsimp only
  split
  · exact .refl s
  · exact (((launchKept_updCore s _ _).trans (launchKept_updCore _ _ _)).trans (launchKept_updTeam _ _ _)).trans
      (launchKept_retireCheck _ _)

theorem launchKept_releaseHelper (c k : Nat) : LaunchKept s (s.releaseHelper c k) := by
  unfold State.releaseHelper
  split
  · exact .refl s
  · exact launchKept_helperLeaves s c k _

theorem launchKept_forceRelease (c k : Nat) : LaunchKept s (s.forceRelease c k) := by
  unfold State.forceRelease
  repeat' split
  · exact .refl s
  · exact launchKept_updCore s _ _
  · exact (launchKept_updCore s _ _).trans (launchKept_releaseHelper _ c k)

theorem launchKept_forceReleaseAll (t : Nat) : LaunchKept s (s.forceReleaseAll t) :=
  LaunchKept.foldl _ (fun s (p : Nat × Nat) => launchKept_forceRelease s p.1 p.2) _ s

theorem launchKept_markDiscard (t : Nat) : LaunchKept s (s.markDiscard t) := by
  unfold State.markDiscard
  repeat' split
  · exact .refl s
  · exact .refl s
  · exact ((launchKept_updTeam s t _).trans (launchKept_forceReleaseAll _ t)).trans (.of_grids rfl rfl rfl)

end Kept

/-- A change of a grid, read back. -/
theorem State.grid?_updGrid_same {s : State} {g : Nat} {y : Grid} (f : Grid → Grid) (h : s.grid? g = some y) :
    (s.updGrid g f).grid? g = some (f y) := by
  have h' : KMap.look s.grids g = some y := h
  simp [State.updGrid, State.grid?, h']

/-- An incomplete grid with units left is aborted; memory and the queues stay. -/
theorem State.abortGrid_aborts {s : State} {g : Nat} {y : Grid} (b : Bool) (h : s.grid? g = some y) (hc : y.complete = false)
    (hu : s.unitsLeft g = true) :
    ((s.abortGrid g b).grid? g).map (·.aborted) = some true ∧ (s.abortGrid g b).mem = s.mem ∧
      (s.abortGrid g b).queues = s.queues := by
  rw [State.abortGrid, h]
  simp only [hc, hu, Bool.false_or, Bool.not_true, Bool.and_false, Bool.or_false]
  split
  case isTrue ha => exact ⟨by rw [h]; exact congrArg some ha, rfl, rfl⟩
  case isFalse =>
    have hk := LaunchKept.foldl (fun s (t : Nat × Team) => s.markDiscard t.1) (fun s t => launchKept_markDiscard s t.1)
    refine ⟨((hk _ _).aborted g).trans ?_, ((hk _ _).mem).trans (s.updGrid_mem g _), ((hk _ _).queues).trans (s.updGrid_queues g _)⟩
    show ((s.updGrid g _).grid? g).map _ = _
    rw [State.grid?_updGrid_same _ h]
    rfl

/-! ## Doorbells and enables (R188, R189) -/

/-- A doorbell within the room of the ring of a queue that is enabled and not being torn down. -/
def State.ringsInRoom (s : State) (q : Nat) (v : Word) : Prop :=
  s.lqEn q = true ∧ (s.queue q).tear = 0 ∧ (s.queue q).accepted < v.toNat ∧ v.toNat ≤ (s.queue q).head + s.lqSize q

theorem exec_lqDoorbell_accepted {s : State} {q : Nat} {v : Word} (h : s.ringsInRoom q v) :
    exec (.lqDoorbell q v) s = .next (s.updQueue q (fun x => { x with accepted := v.toNat })) := by
  show execLqDoorbell q v s = _
  obtain ⟨he, ht, ha, hr⟩ := h
  simp [execLqDoorbell, he, ht, ha, hr]

theorem exec_lqDoorbell_refused {s : State} {q : Nat} {v : Word} (h : ¬ s.ringsInRoom q v) :
    exec (.lqDoorbell q v) s = .next (s.setRegBit .lqErr 0 q) := by
  show execLqDoorbell q v s = _
  rw [execLqDoorbell, if_neg]
  simpa [State.ringsInRoom, and_assoc] using h

section Enable
variable {s : State} {q : Nat} {v : Word} (hz : s.z240 = false)
include hz

theorem exec_lqEnable (he : s.lqEn q = false) (hv : bitOf v.toNat 0 = true) :
    exec (.lqEnable q v) s = .next ((s.setReg .lqCtl q v).updQueue q (fun x =>
      { x with base := x.base + x.head, head := 0, accepted := 0, opened := true })) := by
  show execLqEnable q v s = _
  simp [execLqEnable, hz, he, hv]

variable (he : s.lqEn q = true) (hv : bitOf v.toNat 0 = false)
include he hv

theorem exec_lqDisable_idle (hp : (s.queue q).packets.any (fun p => p.2.st = .begun) = false) (ht : (s.queue q).tear = 0)
    (ha : (s.queue q).head = (s.queue q).accepted) :
    exec (.lqDisable q v) s = .next (s.setReg .lqCtl q (s.reg .lqCtl q &&& ~~~1#64)) := by
  show execLqDisable q v s = _
  simp only [execLqDisable, hz, he, hv, hp, ht, ha, Bool.false_and, Bool.false_eq_true, if_false, Bool.not_true, Bool.or_self,
    Bool.not_false, Bool.true_and, decide_true, if_true]

theorem exec_lqDisable_busy (hb : (s.queue q).tear ≠ 0 ∨ (s.queue q).head ≠ (s.queue q).accepted) :
    exec (.lqDisable q v) s = .next (s.setRegBit .lqErr 0 q) := by
  show execLqDisable q v s = _
  have hn : ¬ ((s.queue q).tear = 0 ∧ (s.queue q).head = (s.queue q).accepted) := by tauto
  simp only [execLqDisable, hz, he, hv, Bool.false_and, Bool.false_eq_true, if_false, Bool.not_true, Bool.or_self]
  rw [if_neg]
  simp only [Bool.and_eq_true, decide_eq_true_eq]
  tauto

end Enable

/-! ## Teardown (R191) -/

/-- Nothing of the queue is left to do: its packets are read and complete, no grid of it runs, no copy of it is under way. -/
def State.queueDone (s : State) (q : Nat) : Prop :=
  (s.queue q).accepted ≤ (s.queue q).head ∧ (s.queue q).packets.all (fun p => p.2.st = .complete) = true ∧ s.queueGrids q = [] ∧
    s.queueCopies q = false

theorem exec_teardownComplete_waits {s : State} {q : Nat} (h : (s.queue q).tear = 0 ∨ ¬ s.queueDone q) :
    exec (.teardownComplete q) s = .next s := by
  show execTeardownComplete q s = _
  rw [execTeardownComplete, if_pos]
  simp only [State.queueDone] at h
  by_contra hn
  simp only [Bool.or_eq_true, decide_eq_true_eq, Bool.not_eq_true', not_or, List.isEmpty_eq_false_iff, Nat.not_lt,
    Bool.not_eq_true, ne_eq, not_not, Bool.not_eq_false] at hn
  tauto

/-- The end of a teardown, before the event of an abort. -/
def State.tornDown (s : State) (q : Nat) : State :=
  (s.setReg .lqCtl q (s.reg .lqCtl q &&& ~~~1#64)).updQueue q (fun y => { y with tear := 0, gen := y.gen + 1, packets := [] })

theorem exec_teardownComplete_ends {s : State} {q : Nat} (ht : (s.queue q).tear ≠ 0) (h : s.queueDone q) :
    exec (.teardownComplete q) s = .next (if (s.queue q).tear = 2 then
      (s.tornDown q).event 0x82 [q * 2 ^ 10, (s.queue q).gen.toNat] else s.tornDown q) := by
  obtain ⟨ha, hp, hg, hc⟩ := h
  show execTeardownComplete q s = _
  rw [execTeardownComplete, if_neg]
  · rfl
  · simp [ht, hp, hg, hc, ha]

/-- EN reads 0 once it is cleared. -/
theorem State.lqEn_tornDown (s : State) (q : Nat) : bitOf ((s.tornDown q).regN .lqCtl q) 0 = false := by
  have h : (s.tornDown q).reg .lqCtl q = (s.reg .lqCtl q &&& ~~~1#64) &&& BitVec.ofNat 64 RegName.lqCtl.info.mask :=
    State.reg_setReg_same ..
  have hb : ((s.tornDown q).regN .lqCtl q).testBit 0 = false := by
    rw [State.regN, h, BitVec.testBit_toNat]
    simp
  rw [Nat.testBit_zero] at hb
  simpa [bitOf] using hb

/-! ## Reads of packets (R42, R45) -/

/-- A packet as its words have been read at the head of its queue; a SIGNAL packet needs no image. -/
def State.packetRead (s : State) (q pa : Nat) : Packet :=
  let x := s.queue q
  let p : Packet :=
    { index := x.head, key := x.base + x.head, va := s.packetVa q x.head,
      words := (upTo 16).map (fun j => BitVec.ofNat 64 (s.outsideLoad (pa + 8 * j) 8)), gen := x.gen, seed := s.reg .srdSeed }
  if p.type = 2 then { p with st := .imaged } else p

theorem State.key_packetRead (s : State) (q pa : Nat) : (s.packetRead q pa).key = (s.queue q).base + (s.queue q).head := by
  rw [State.packetRead]; split <;> rfl

theorem exec_packetRead_valid {s : State} {q pa : Nat} (hh : (s.queue q).head < (s.queue q).accepted)
    (hx : s.deviceXlat 0 (s.lqAspace q) (s.packetVa q (s.queue q).head) 128 false false = .ok pa)
    (hr : (linesOf pa 128).all s.readReady = true)
    (hb : (linesOf pa 128).any (fun l => s.outsidePoison l || s.addrFailed (64 * l)) = false)
    (hv : s.packetInvalid (s.packetRead q pa) = false) :
    exec (.packetRead q) s = .next (s.updQueue q (fun x =>
      { x with head := x.head + 1, packets := KMap.put x.packets (s.packetRead q pa).key (s.packetRead q pa) })) := by
  have ht : s.takePacket q (s.packetRead q pa) = s.updQueue q (fun x =>
      { x with head := x.head + 1, packets := KMap.put x.packets (s.packetRead q pa).key (s.packetRead q pa) }) := by
    rw [State.takePacket]
    exact if_neg (by rw [Bool.not_eq_true]; exact hv)
  show execPacketRead q s = _
  rw [execPacketRead, if_neg (Nat.not_le.mpr hh)]
  simp only [hx, hr, hb, Bool.not_true, Bool.false_eq_true, if_false]
  rw [if_neg, ← ht]
  · rfl
  · exact fun h => absurd (Bool.and_eq_true_iff.mp h).1 (by rw [Bool.not_eq_true]; exact hv)

/-- Settles O50, register by register: each write of a control register leaves the queue's other counts and every grid that it does
not abort. -/
theorem launchQueues : Obligations.LaunchQueues := by
  intro s q pa g i v y x done
  refine ⟨fun h => ⟨_, exec_lqDoorbell_accepted h, State.queue_updQueue_same .., rfl, rfl⟩, fun h => exec_lqDoorbell_refused h,
    fun hz => ⟨fun he hv => ⟨_, exec_lqEnable hz he hv, State.queue_updQueue_same .., rfl, rfl⟩,
      fun he hv => exec_lqDisable_idle hz he hv, fun he hv => exec_lqDisable_busy hz he hv⟩,
    ?drain, ?abortIdle, ?abortGrid, exec_teardownComplete_waits, fun ht hd => ?ends, fun hz => ?mode240, fun hz => ?mode480,
    ⟨_, rfl, ?sem, rfl, rfl⟩, fun h => ?none, ?read⟩
  case drain =>
    refine ⟨_, rfl, ?_, ?_⟩ <;> split
    · exact State.queue_updQueue_same ..
    · rfl
    · rfl
    · rfl
  case abortIdle =>
    intro hg
    refine ⟨s.updQueue q (fun x => { x with tear := 2 }), ?_, State.queue_updQueue_same .., rfl⟩
    show execLqTearAbort q s = _
    rw [execLqTearAbort, hg]
    rfl
  case abortGrid =>
    intro hq hg hc hu
    obtain ⟨hab, hmem, hqs⟩ :=
      State.abortGrid_aborts (s := s.updQueue q (fun x => { x with tear := 2 })) (y := y) false hg hc hu
    refine ⟨(s.updQueue q (fun x => { x with tear := 2 })).abortGrid g false, ?_, ?_, hab, hmem⟩
    · show execLqTearAbort q s = _
      rw [execLqTearAbort, hq]
      rfl
    · rw [State.queue_congr hqs, State.queue_updQueue_same]
  case ends =>
    have hq : (s.tornDown q).queue q = { x with tear := 0, gen := x.gen + 1, packets := [] } := State.queue_updQueue_same ..
    by_cases h2 : x.tear = 2
    · refine ⟨_, exec_teardownComplete_ends ht hd, ?_⟩
      rw [if_pos h2]
      exact ⟨hq, s.lqEn_tornDown q, rfl, fun _ => ⟨_, rfl, rfl, rfl⟩, fun h1 => by omega⟩
    · refine ⟨_, exec_teardownComplete_ends ht hd, ?_⟩
      rw [if_neg h2]
      exact ⟨hq, s.lqEn_tornDown q, rfl, fun h => absurd h h2, fun _ => rfl⟩
  case mode240 =>
    show execDstModeWrite v s = _
    rw [execDstModeWrite, if_pos hz]
  case mode480 =>
    show execDstModeWrite v s = _
    rw [execDstModeWrite, if_neg (by rw [hz]; exact Bool.false_ne_true)]
  case sem =>
    exact (State.reg_setReg_same ..).trans BitVec.and_allOnes
  case none =>
    show execPacketRead q s = _
    rw [execPacketRead, if_pos h]
  case read =>
    intro va words p p' hh hx hr hb hv
    refine ⟨_, exec_packetRead_valid hh hx hr hb hv, rfl, ?_⟩
    rw [State.queue_updQueue_same, State.key_packetRead]
    rfl

end Sys2Proof.Machine

/-! PROOFS. A thread's exit at the Dealer (R33, R34, R37, R38, R107, R197) and the barrier watchdog (R187). -/

namespace Sys2Proof.Machine

/-! ## What the parts of a commit and of an abandonment leave as it is -/

section Parts
variable (s : State) (c k d j : Nat)

/-- A change of a core that keeps its threads. -/
theorem State.thread_updCore_of_threads (g : Core → Core) (hg : ∀ x, (g x).threads = x.threads) :
    (s.updCore c g).thread d j = s.thread d j := by
  rw [State.thread, State.core_updCore]
  split
  · rename_i h; subst h; rw [hg]; rfl
  · rfl

theorem State.thread_updExec_eq (g : Exec → Exec) : ∃ y, (s.updExec c k g).thread d j = { s.thread d j with exec := y } :=
  ⟨_, State.thread_updExec ..⟩

theorem State.freeBuffer_thread : ∃ y, (s.freeBuffer c k).thread d j = { s.thread d j with exec := y } := by
  unfold State.freeBuffer
  split
  · exact ⟨_, rfl⟩
  · split
    · exact ⟨_, rfl⟩
    · obtain ⟨y, hy⟩ := State.thread_updExec_eq (s.updCore c _) c k d j (fun e => { e with freed := true })
      refine ⟨y, hy.trans ?_⟩
      rw [State.thread_updCore_of_threads]
      exact fun _ => rfl

theorem State.freeBuffer_mem_coh : (s.freeBuffer c k).mem = s.mem ∧ (s.freeBuffer c k).coh = s.coh := by
  unfold State.freeBuffer
  repeat' split
  all_goals exact ⟨rfl, rfl⟩

theorem State.keepFences_thread (e : Exec) : ∃ y, (s.keepFences c k e).thread c k = { s.thread c k with fence := y } := by
  unfold State.keepFences
  repeat' split
  · exact ⟨_, rfl⟩
  · exact ⟨_, rfl⟩
  · exact ⟨_, by rw [State.thread_updThread, if_pos ⟨rfl, rfl⟩]⟩

theorem State.keepFences_mem (e : Exec) : (s.keepFences c k e).mem = s.mem := by
  unfold State.keepFences
  repeat' split
  all_goals rfl

theorem State.leaveHandlerPlane_thread : (s.leaveHandlerPlane c k).thread d j = s.thread d j := by
  refine foldl_keep (fun s : State => s.thread d j) _ _ _ fun s g => ?_
  split
  · rw [thread_updRegion, State.thread_updTile]
  · rfl

theorem State.leaveHandlerPlane_mem_coh : (s.leaveHandlerPlane c k).mem = s.mem ∧ (s.leaveHandlerPlane c k).coh = s.coh := by
  have h := foldl_keep (fun s : State => (s.mem, s.coh)) (fun (s : State) (g : Nat × Region) =>
    if g.2.hplane = some k then
      (s.updTile c (handlerTile (s.regionRect c g.1)) (fun tl => { tl with hctx := none })).updRegion c g.1
        (fun g => { g with hplane := none })
    else s) (s.core c).regions s fun s g => by split <;> rfl
  exact Prod.mk.inj h

theorem State.dropCopies_keeps (l : List CommitAct) :
    (s.dropCopies l).thread d j = s.thread d j ∧ (s.dropCopies l).mem = s.mem ∧ (s.dropCopies l).coh = s.coh := by
  have h := foldl_keep (fun s : State => (s.thread d j, s.mem, s.coh)) (fun (s : State) (a : CommitAct) => match a with
    | .copy pd e n => s.updEngine pd e (fun x =>
        { x with queue := x.queue.filter (fun q => q.count ≠ n), count := if x.count = n + 1 then n else x.count })
    | _ => s) l s fun s a => by cases a <;> rfl
  obtain ⟨ht, hm, hc⟩ := Prod.mk.inj h |>.imp id Prod.mk.inj
  exact ⟨ht, hm, hc⟩

/-- A reservation given up leaves of every thread all but its mark. -/
theorem State.releaseReservation_thread : ∃ y, (s.releaseReservation c k).thread d j = { s.thread d j with reserved := y } := by
  have fold : ∀ (t : Team) (l : List Nat) (s : State), ∃ y, (l.foldl (fun (s : State) tid => match t.slotOf tid with
      | some j => s.updThread c j (fun u => { u with reserved := false })
      | none => s) s).thread d j = { s.thread d j with reserved := y } := by
    intro t l
    induction l with
    | nil => exact fun s => ⟨_, rfl⟩
    | cons x r ih =>
      intro s
      obtain ⟨y, hy⟩ := ih (match t.slotOf x with
        | some j => s.updThread c j (fun u => { u with reserved := false })
        | none => s)
      refine ⟨y, hy.trans ?_⟩
      cases t.slotOf x with
      | none => rfl
      | some i =>
        rw [State.thread_updThread]
        split
        · rename_i h; obtain ⟨rfl, rfl⟩ := h; rfl
        · rfl
  unfold State.releaseReservation
  dsimp only
  repeat' split
  · exact ⟨_, rfl⟩
  · exact ⟨_, rfl⟩
  · exact ⟨_, rfl⟩
  · obtain ⟨y, hy⟩ := fold _ _ _
    refine ⟨y, hy.trans ?_⟩
    rw [State.updTeam_thread]

theorem State.releaseReservation_mem_coh :
    (s.releaseReservation c k).mem = s.mem ∧ (s.releaseReservation c k).coh = s.coh := by
  have fold : ∀ (t : Team) (l : List Nat) (s : State), _ := fun t l s =>
    foldl_keep (fun s : State => (s.mem, s.coh)) (fun (s : State) tid => match t.slotOf tid with
      | some j => s.updThread c j (fun u => { u with reserved := false })
      | none => s) l s fun s tid => by cases t.slotOf tid <;> rfl
  unfold State.releaseReservation
  dsimp only
  repeat' split
  · exact ⟨rfl, rfl⟩
  · exact ⟨rfl, rfl⟩
  · exact ⟨rfl, rfl⟩
  · obtain ⟨hm, hc⟩ := Prod.mk.inj (fold _ _ _)
    exact ⟨hm.trans (s.updTeam_mem _ _), hc.trans (s.updTeam_coh _ _)⟩

end Parts

/-! ## A commit without actions -/

/-- A thread passed on stands before the block, in an entry queue, a waiting vector or a parked vector, and keeps its registers. -/
theorem State.passOn_thread (s : State) (c k blk : Nat) : ∃ st q, st ∈ ([.running, .waiting, .parked] : List TState) ∧
    (s.passOn c k blk).thread c k =
      { s.thread c k with st := st, next := blk, wait := none, exec := none, queued := q, yielded := false } := by
  unfold State.passOn
  split
  · refine ⟨.running, true, by decide, ?_⟩
    rw [thread_updRegion, State.thread_updThread, if_pos ⟨rfl, rfl⟩]
  · refine ⟨if (s.thread c k).helper.isNone && !isHandlerKey k && s.handParked c k then .parked else .waiting,
      (s.thread c k).queued, by split <;> decide, ?_⟩
    rw [State.thread_updThread, if_pos ⟨rfl, rfl⟩, State.enterWaiting]
    dsimp only
    rw [State.thread_updThread, if_pos ⟨rfl, rfl⟩]

theorem State.passOn_mem (s : State) (c k blk : Nat) : (s.passOn c k blk).mem = s.mem := by
  unfold State.passOn
  split <;> rfl

/-- The state of a commit without actions just before its thread goes on. -/
def State.settled (s : State) (c k : Nat) (e : Exec) : State :=
  (((s.releaseBlock c k).commitFlags c k e).keepFences c k e).leaveHandlerPlane c k

theorem State.settled_mem (s : State) (c k : Nat) (e : Exec) :
    (s.settled c k e).mem = (s.releaseEntries c k (fun _ => true)).mem :=
  ((State.leaveHandlerPlane_mem_coh ..).1.trans (State.keepFences_mem ..)).trans (State.freeBuffer_mem_coh ..).1

/-- It differs from the thread of the released block in its execution, its flags and its fence. -/
theorem State.settled_thread (s : State) (c k : Nat) (e : Exec) : ∃ y f, (s.settled c k e).thread c k =
    { (s.releaseEntries c k (fun _ => true)).thread c k with
      exec := y, fence := f,
      fpflags := (((s.releaseEntries c k (fun _ => true)).thread c k).fpflags &&& ~~~e.cleared) ||| e.pend } := by
  obtain ⟨y, hy⟩ := (s.releaseEntries c k (fun _ => true)).freeBuffer_thread c k c k
  obtain ⟨f, hf⟩ := ((s.releaseBlock c k).commitFlags c k e).keepFences_thread c k e
  refine ⟨y, f, ?_⟩
  rw [State.settled, State.leaveHandlerPlane_thread, hf, State.commitFlags, State.thread_updThread, if_pos ⟨rfl, rfl⟩,
    State.releaseBlock, hy]

theorem State.commit_of_no_acts (s : State) (c k b : Nat) (e : Exec) (hacts : e.acts = [])
    (hst : ((s.settled c k e).thread c k).st = .running) (hh : ((s.settled c k e).thread c k).helper = none) :
    s.commit c k e (some b) = (s.settled c k e).passOn c k b := by
  have hwait : (s.releaseBlock c k).actsWait c k e = false := by rw [State.actsWait, hacts]; rfl
  have hfold : (((s.releaseBlock c k).commitFlags c k e).keepFences c k e).leaveHandlerPlane c k = s.settled c k e := rfl
  unfold State.commit
  simp [hwait, hacts, hfold, hst, hh, State.continueTo]

theorem State.dealExit_commits (s : State) (c k : Nat) (e : Exec) (x : ExitSeen) (w : Word) (he : s.exec? c k = some e)
    (hr : s.exitReady c k = true) (ha : e.atomic = false) (hx : e.exits.filter (·.fired) = [x])
    (hd : e.exits.any (·.deferred) = false) (hf : e.sentFault = false) (hl : e.ldfEnded = false) (hn : x.next = some w)
    (hok : s.nextAllowed c k e x = true) : s.dealExit c k = s.commit c k e (some w.toNat) := by
  unfold State.dealExit
  rw [he]
  simp [hr, ha, hx, hd, hf, hl, hn, hok]

/-- The end of a block step touches the debugger alone. -/
theorem State.stepOver_eq (s : State) (c k : Nat) (b : Bool) : ∃ d, s.stepOver c k b = { s with dbg := d } := by
  unfold State.stepOver
  split
  · exact ⟨_, rfl⟩
  · exact ⟨s.dbg, rfl⟩

theorem exec_exitAtDealer (s : State) (c k : Nat) : ∃ d, exec (.exitAtDealer c k) s = .next { s.dealExit c k with dbg := d } := by
  obtain ⟨d, hd⟩ := (s.dealExit c k).stepOver_eq c k (s.exec? c k).isSome
  exact ⟨d, congrArg Host.Outcome.next hd⟩

theorem exec_exitAtDealer_waits (s : State) (c k : Nat) (e : Exec) (he : s.exec? c k = some e) (hr : s.exitReady c k = false) :
    exec (.exitAtDealer c k) s = .next s := by
  have hd : s.dealExit c k = s := by
    unfold State.dealExit
    rw [he]
    simp [hr]
  show Host.Outcome.next ((s.dealExit c k).stepOver c k (s.exec? c k).isSome) = _
  rw [hd, State.stepOver, he]
  simp

/-! ## An abandoned block -/

theorem State.abandon_thread (s : State) (c k : Nat) (e : Exec) : ∃ r h v, (s.abandon c k e).thread c k =
    { s.thread c k with next := e.block, exec := none, reserved := r, resv := v, hold := h } := by
  obtain ⟨y, hy⟩ := (s.dropCopies e.acts).freeBuffer_thread c k c k
  rw [(s.dropCopies_keeps c k e.acts).1] at hy
  unfold State.abandon
  dsimp only
  rw [State.thread_updThread, if_pos ⟨rfl, rfl⟩, State.leaveHandlerPlane_thread]
  split
  · obtain ⟨r, hr⟩ := ((s.dropCopies e.acts).freeBuffer c k).releaseReservation_thread c k c k
    rw [hr, hy]
    exact ⟨_, _, _, rfl⟩
  · rw [hy]
    exact ⟨_, _, _, rfl⟩

theorem State.abandon_mem_coh (s : State) (c k : Nat) (e : Exec) :
    (s.abandon c k e).mem = s.mem ∧ (s.abandon c k e).coh = s.coh := by
  obtain ⟨_, hm, hc⟩ := s.dropCopies_keeps c k e.acts
  obtain ⟨fm, fc⟩ := (s.dropCopies e.acts).freeBuffer_mem_coh c k
  obtain ⟨rm, rc⟩ := ((s.dropCopies e.acts).freeBuffer c k).releaseReservation_mem_coh c k
  unfold State.abandon
  dsimp only
  rw [State.updThread_mem, State.updThread_coh, (State.leaveHandlerPlane_mem_coh ..).1, (State.leaveHandlerPlane_mem_coh ..).2]
  split
  · exact ⟨rm.trans (fm.trans hm), rc.trans (fc.trans hc)⟩
  · exact ⟨fm.trans hm, fc.trans hc⟩

/-- A thread that no handler plane runs and that reported a fault other than XLATE is trapped after its abandonment. -/
theorem State.afterAbandon_traps (s : State) (c k : Nat) (e : Exec) (hk : isHandlerKey k = false) (hf : e.faults ≠ [])
    (hx : ∀ z ∈ e.faults, z.code ≠ 0x10) (hh : (s.thread c k).helper = none) :
    s.afterAbandon c k e = s.updThread c k (fun t => { t with st := .trapped, wait := none }) := by
  have hx' : e.faults.any (fun f => f.code = codeXLATE) = false := by
    rw [List.any_eq_false]
    exact fun z hz h => hx z hz (of_decide_eq_true h)
  have hf' : e.faults.isEmpty = false := by simpa using hf
  unfold State.afterAbandon
  rw [hh]
  change State.afterAbandon.body c k e s = _
  unfold State.afterAbandon.body
  simp [hk, hx', hf']

theorem State.dealExit_abandons (s : State) (c k : Nat) (e : Exec) (he : s.exec? c k = some e)
    (hr : s.exitReady c k = true) (ha : e.atomic = false) (hf : e.sentFault = true) :
    s.dealExit c k = (s.abandon c k e).afterAbandon c k e := by
  unfold State.dealExit
  rw [he]
  simp [hr, ha, hf]

/-! ## The barrier watchdog -/

theorem State.team?_updTeam_same {s : State} {t : Nat} {x : Team} (f : Team → Team) (h : s.team? t = some x) :
    (s.updTeam t f).team? t = some (f x) := by
  rw [State.team?] at h
  unfold State.updTeam
  rw [h]
  exact KMap.look_put_same ..

theorem State.barrier_own {s : State} {t n : Nat} {x : Team} (hx : s.team? t = some x) (hn : n < 16) :
    s.barrier t n = KMap.lookD x.bars n {} := by
  rw [State.barrier, hx]
  exact if_pos hn

theorem State.barrier_of_cluster {s : State} {t n : Nat} {x : Team} {g : Grid} (hx : s.team? t = some x) (hn : ¬ n < 16)
    (hg : s.grid? x.grid = some g) :
    s.barrier t n = KMap.lookD (KMap.lookD g.clusterBars (x.index / max 1 g.clusterSize) []) n {} := by
  rw [State.barrier, hx]
  dsimp only
  rw [if_neg hn, hg]

/-- A barrier with arrivals is there, and a change of it is what is read after it. -/
theorem State.barrier_updBarrier (s : State) (t n : Nat) (f : Barrier → Barrier) (h : (s.barrier t n).arrived ≠ []) :
    (s.updBarrier t n f).barrier t n = f (s.barrier t n) := by
  cases hx : s.team? t with
  | none => exact absurd (by rw [State.barrier, hx]) h
  | some x =>
    by_cases hn : n < 16
    · rw [State.updBarrier, hx]
      dsimp only
      rw [if_pos hn, State.barrier_own (State.team?_updTeam_same _ hx) hn, State.barrier_own hx hn]
      exact KMap.lookD_alter_same ..
    · cases hg : s.grid? x.grid with
      | none => exact absurd (by rw [State.barrier, hx]; dsimp only; rw [if_neg hn, hg]) h
      | some g =>
        rw [State.updBarrier, hx]
        dsimp only
        have hx' (f) : (s.updGrid x.grid f).team? t = some x := (congrArg (KMap.look · t) (s.updGrid_teams x.grid f)).trans hx
        rw [if_neg hn, State.barrier_of_cluster (hx' _) hn (State.grid?_updGrid_same _ hg), State.barrier_of_cluster hx hn hg]
        have hm := KMap.lookD_alter_same g.clusterBars (x.index / max 1 g.clusterSize) [] (fun m => KMap.alter m n {} f)
        exact (congrArg (KMap.lookD · n {}) hm).trans (KMap.lookD_alter_same _ n {} f)

theorem State.updBarrier_station (s : State) (t n : Nat) (f : Barrier → Barrier) :
    (s.updBarrier t n f).station = s.station := by
  unfold State.updBarrier
  repeat' split
  · rfl
  · exact s.updTeam_station ..
  · exact s.updGrid_station ..

/-- An event is one more record of the station, with its code, the kind of events and the station's next number. -/
theorem State.event_station (s : State) (code : Nat) (l : List Nat) : ∃ r,
    (s.event code l).station.pending = s.station.pending ++ [r] ∧ r.code = code ∧ r.kind = 4 ∧ r.seq = s.station.seq :=
  ⟨_, rfl, rfl, rfl, rfl⟩

theorem State.watchdog_hangs (s : State) (t n : Nat) (h0 : s.regN .barWdt ≠ 0) (hh : (s.barrier t n).hung = false)
    (ha : (s.barrier t n).arrived ≠ []) (hc : s.regN .barWdt ≤ (s.barrier t n).count) :
    s.watchdog t n = (s.event 0x80 (s.hangWords t n)).updBarrier t n (fun b => { b with hung := true }) := by
  unfold State.watchdog
  simp [h0, hh, ha, Nat.not_lt.mpr hc]

theorem exec_barrierWatchdog_single (s : State) (c t n : Nat) (tm : Team)
    (h : s.teams.filter (fun p => p.2.core = some c) = [(t, tm)]) : exec (.barrierWatchdog c n) s = .next (s.watchdog t n) := by
  show Host.Outcome.next (List.foldl _ _ _) = _
  rw [h]
  rfl

/-- Settles O42: a commit without actions and an abandonment are each a chain of changes of the thread's other fields, and the
watchdog changes the one barrier it looks at. -/
theorem exitsAtDealer : Obligations.ExitsAtDealer := by
  unfold Obligations.ExitsAtDealer
  intro s c k e x w t n tm he hk
  refine ⟨exec_exitAtDealer_waits s c k e he, ?_, ?_, ?_⟩
  · intro v hr ha hx hd hf hl hn hok hacts hh hst
    obtain ⟨y, f, hth⟩ := s.settled_thread c k e
    obtain ⟨st, q, hmem, hpass⟩ := (s.settled c k e).passOn_thread c k w.toNat
    have hdeal : s.dealExit c k = (s.settled c k e).passOn c k w.toNat :=
      (s.dealExit_commits c k e x w he hr ha hx hd hf hl hn hok).trans
        (s.commit_of_no_acts c k w.toNat e hacts (by rw [hth]; exact hst) (by rw [hth]; exact hh))
    rw [hth] at hpass
    obtain ⟨d, hexec⟩ := exec_exitAtDealer s c k
    refine ⟨_, hexec, ?_⟩
    change (s.dealExit c k).mem = _ ∧ ((s.dealExit c k).thread c k).exec = _ ∧ ((s.dealExit c k).thread c k).next = _ ∧
      ((s.dealExit c k).thread c k).wait = _ ∧ ((s.dealExit c k).thread c k).regs = _ ∧
      ((s.dealExit c k).thread c k).fpflags = _ ∧ ((s.dealExit c k).thread c k).st ∈ _
    rw [hdeal, hpass]
    exact ⟨(State.passOn_mem ..).trans (s.settled_mem c k e), rfl, rfl, rfl, rfl, rfl, hmem⟩
  · intro hr ha hf hne hx hh
    obtain ⟨r, h, v, hth⟩ := s.abandon_thread c k e
    obtain ⟨hm, hc⟩ := s.abandon_mem_coh c k e
    have hdeal := (s.dealExit_abandons c k e he hr ha hf).trans
      ((s.abandon c k e).afterAbandon_traps c k e hk hne hx (by rw [hth]; exact hh))
    obtain ⟨d, hexec⟩ := exec_exitAtDealer s c k
    have hend : ((s.dealExit c k).thread c k) = { (s.abandon c k e).thread c k with st := .trapped, wait := none } := by
      rw [hdeal, State.thread_updThread, if_pos ⟨rfl, rfl⟩]
    rw [hth] at hend
    refine ⟨_, hexec, ?_, ?_, ?_⟩
    · exact (congrArg State.mem hdeal).trans hm
    · exact (congrArg State.coh hdeal).trans hc
    · change ((s.dealExit c k).thread c k).exec = none ∧ ((s.dealExit c k).thread c k).next = _ ∧
        ((s.dealExit c k).thread c k).st = _ ∧ ((s.dealExit c k).thread c k).regs = _ ∧ ((s.dealExit c k).thread c k).fpflags = _
      rw [hend]
      exact ⟨rfl, rfl, rfl, rfl, rfl⟩
  · intro hteams h0 hh ha hc
    obtain ⟨r, hp, hcode, hkind, hseq⟩ := s.event_station 0x80 (s.hangWords t n)
    refine ⟨_, r, exec_barrierWatchdog_single s c t n tm hteams, ?_⟩
    rw [s.watchdog_hangs t n h0 hh ha hc, State.barrier_updBarrier (s.event 0x80 (s.hangWords t n)) t n _ ha, State.updBarrier_station]
    exact ⟨rfl, rfl, hp, hcode, hkind, hseq⟩

end Sys2Proof.Machine

/-! PROOFS. Grids (R44, R46, R47, R89, R90, R92, R190, R193 to R195): waits, begins, admissions, steals, completions, images. -/

namespace Sys2Proof.Machine

/-! ## Packets, Distributors, grids and teams read back -/

/-- A change of a packet, read back under its key. -/
theorem State.packet_updPacket (s : State) (q i : Nat) (f : Packet → Packet) {p : Packet}
    (h : KMap.look (s.queue q).packets i = some p) :
    KMap.look ((s.updPacket q i f).queue q).packets i = some (f p) := by
  rw [State.updPacket, State.queue_updQueue_same, h]
  exact KMap.look_put_same ..

theorem State.distOf_updDist_same (s : State) (d : Nat) (f : Dist → Dist) : (s.updDist d f).distOf d = f (s.distOf d) :=
  KMap.lookD_alter_same ..

theorem State.distOf_updDist_other (s : State) {d e : Nat} (f : Dist → Dist) (h : e ≠ d) :
    (s.updDist d f).distOf e = s.distOf e :=
  KMap.lookD_alter_other _ _ _ _ _ _ h

/-- A completion signal leaves the packets, the grids, the teams and the Distributors. -/
theorem State.writeSignal_launch (s : State) (asp va q : Nat) (gen : BitVec 16) (st : SigStatus) :
    (s.writeSignal asp va q gen st).queues = s.queues ∧ (s.writeSignal asp va q gen st).grids = s.grids := by
  unfold State.writeSignal
  repeat' split
  · exact ⟨rfl, rfl⟩
  · exact ⟨rfl, rfl⟩
  · obtain ⟨hd, -⟩ := devOnly_deviceWrite s _ (leBytes 8 (gen.toNat * 2 ^ 48 + st.code * 2 ^ 40))
    exact ⟨(congrArg State.queues hd :), (congrArg State.grids hd :)⟩

/-! ## Wait signals (R44) -/

/-- What an examination makes of a packet, its semaphores seen written with it. -/
theorem Packet.examined_seen (p : Packet) (i w : Nat) (seen : List Nat) : { p.examined i w with seen := seen } =
    (if bitsOf w 63 48 ≠ p.waitGen i then { p with seen := seen }
      else if bitsOf w 47 40 = 1 ∨ (bitsOf w 47 40 ∈ [2, 3, 4] ∧ p.roa = true) then
        { p with satisfied := p.satisfied ++ [i], seen := seen }
      else if bitsOf w 47 40 ∈ [2, 3, 4] then { p with failedWait := true, seen := seen }
      else { p with seen := seen }) := by
  unfold Packet.examined
  by_cases hg : bitsOf w 63 48 ≠ p.waitGen i
  · rw [if_pos hg, if_pos hg]
  · rw [if_neg hg, if_neg hg]
    generalize bitsOf w 47 40 = n
    split
    · rfl
    · cases p.roa <;> rfl
    · cases p.roa <;> rfl
    · cases p.roa <;> rfl
    · rename_i h1 h2 h3 h4
      have hn : n ∉ [2, 3, 4] := by simpa using ⟨h2, h3, h4⟩
      rw [if_neg (fun h => h.elim h1 fun h => hn h.1), if_neg hn]

theorem exec_waitSignalExamine_reads {s : State} {q i pa : Nat} {p : Packet} (hp : s.packetToBegin q = some p) (hi : i < p.nwait)
    (hs : p.satisfied.contains i = false) (hf : p.failedWait = false)
    (hx : s.signalXlat (s.lqAspace q) (p.waitVa i) false = .ok pa) (hr : s.readReady (lineOf pa) = true)
    (hb : s.outsidePoison (lineOf pa) = false) (ha : s.addrFailed pa = false) :
    exec (.waitSignalExamine q i) s = .next (s.updPacket q p.key (fun x => { x.examined i (s.deviceRead pa 8) with
      seen := if (s.semaphoreAt (s.lqAspace q) (p.waitVa i)).isSome && !p.seen.contains i then x.seen ++ [i] else x.seen })) := by
  show execWaitSignalExamine q i s = _
  rw [execWaitSignalExamine, hp]
  simp only [hs, hf, hx, hr, hb, ha, Nat.not_le.mpr hi, decide_false, Bool.or_false, Bool.false_eq_true, Bool.not_true,
    if_false]

/-! ## Begins (R42, R190, R193) -/

theorem State.allDies_nodup (s : State) : s.allDies.Nodup := List.nodup_range

/-- Each die of the list has one more share, the others none. -/
theorem State.shareOut_fold (id : Nat) (of : Nat → List Nat) (b : Nat) (l : List Nat) (hl : l.Nodup) (s : State) :
    ((l.foldl (fun s d => s.updDist d (fun x => { x with shares := x.shares ++ [⟨id, of d⟩] })) s).distOf b).shares =
      (s.distOf b).shares ++ (if b ∈ l then [⟨id, of b⟩] else []) := by
  induction l generalizing s with
  | nil => simp
  | cons d r ih =>
    obtain ⟨hd, hr⟩ := List.nodup_cons.mp hl
    rw [List.foldl_cons, ih hr]
    by_cases hb : b = d
    · subst hb
      simp [State.distOf_updDist_same, hd]
    · simp [State.distOf_updDist_other _ _ hb, hb]

theorem State.shareOut_keeps (s : State) (id : Nat) (of : Nat → List Nat) : (s.shareOut id of).grids = s.grids ∧
    (s.shareOut id of).mem = s.mem ∧ (s.shareOut id of).queues = s.queues := by
  have h := foldl_keep (fun s : State => (s.grids, s.mem, s.queues)) (fun (s : State) d =>
    s.updDist d (fun x => { x with shares := x.shares ++ [⟨id, of d⟩] })) s.allDies s fun _ _ => rfl
  obtain ⟨hg, h⟩ := Prod.mk.inj h
  exact ⟨hg, Prod.mk.inj h⟩

theorem State.distOf_shareOut (s : State) (id : Nat) (of : Nat → List Nat) {b : Nat} (hb : b ∈ s.allDies) :
    ((s.shareOut id of).distOf b).shares = (s.distOf b).shares ++ [⟨id, of b⟩] := by
  have h := State.shareOut_fold id of b s.allDies s.allDies_nodup s
  rw [if_pos hb] at h
  exact h

section Begin
variable {s : State} {q : Nat} {p : Packet}

theorem exec_packetBegin_grid {img : Nat} (hp : s.packetToBegin q = some p) (ht : (s.queue q).tear = 0) (hf : p.failedWait = false)
    (hw : p.nwait ≤ p.satisfied.length) (hser : p.ser = false) (h2 : p.type ≠ 2) (hst : p.st = .imaged) (hi : p.image = some img) :
    exec (.packetBegin q) s = .next (s.beginGrid q p img) := by
  show execPacketBegin q s = _
  rw [execPacketBegin, hp]
  simp [ht, hf, hser, Nat.not_lt.mpr hw, h2, hst, hi]

theorem exec_packetBegin_signal (hp : s.packetToBegin q = some p) (ht : (s.queue q).tear = 0) (hf : p.failedWait = false)
    (hw : p.nwait ≤ p.satisfied.length) (hser : p.ser = false) (h2 : p.type = 2)
    (hr : s.signalReady (s.lqAspace q) p.done = true) : exec (.packetBegin q) s = .next (s.closePacket q p .done) := by
  show execPacketBegin q s = _
  rw [execPacketBegin, hp]
  simp [ht, hf, hser, Nat.not_lt.mpr hw, h2, hr]

/-- The state with a packet's grid entered, its units not yet given to the dies. -/
def State.enterGrid (s : State) (q : Nat) (p : Packet) (img : Nat) : State :=
  { s with nextId := s.nextId + 1, grids := KMap.put s.grids s.nextId (s.gridFor q p img) }

theorem State.beginGrid_packet (img : Nat) (hk : KMap.look (s.queue q).packets p.key = some p) :
    KMap.look ((s.beginGrid q p img).queue q).packets p.key = some { p with st := .begun, grid := some s.nextId } := by
  refine State.packet_updPacket _ q p.key _ ?_
  have hq := State.queue_congr ((s.enterGrid q p img).shareOut_keeps s.nextId (s.dieUnits q (p.teams / (p.cw * p.ch)))).2.2 q
  exact (congrArg (fun x => KMap.look x.packets p.key) hq).trans hk

theorem State.beginGrid_mem (img : Nat) : (s.beginGrid q p img).mem = s.mem := ((s.enterGrid q p img).shareOut_keeps ..).2.1

theorem State.beginGrid_grid (img : Nat) : (s.beginGrid q p img).grid? s.nextId = some (s.gridFor q p img) :=
  (congrArg (KMap.look · s.nextId) ((s.enterGrid q p img).shareOut_keeps ..).1).trans (KMap.look_put_same ..)

theorem State.beginGrid_shares (img : Nat) {b : Nat} (hb : b ∈ s.allDies) : ((s.beginGrid q p img).distOf b).shares =
    (s.distOf b).shares ++ [⟨s.nextId, s.dieUnits q (p.teams / (p.cw * p.ch)) b⟩] :=
  (s.enterGrid q p img).distOf_shareOut s.nextId (s.dieUnits q (p.teams / (p.cw * p.ch))) hb

theorem State.closePacket_packet (st : SigStatus) (hk : KMap.look (s.queue q).packets p.key = some p) :
    KMap.look ((s.closePacket q p st).queue q).packets p.key = some { p with st := .complete } := by
  refine State.packet_updPacket _ q p.key _ ?_
  rw [State.queue_congr (s.writeSignal_launch ..).1]
  exact hk

end Begin


/-! ## Admission (R46, R195) -/

/-- The team of unit un of a grid without clusters, before it has a core. -/
def unitTeam (gid un : Nat) (g : Grid) : Team := { grid := gid, index := un, rank := 0, core := none, hands := g.hands }

theorem State.admitUnit_single (s : State) (gid un c : Nat) (g : Grid) (h1 : g.clusterSize = 1) :
    s.admitUnit gid g un [c] =
      ({ s with nextId := s.nextId + 1, teams := KMap.put s.teams s.nextId (unitTeam gid un g) } : State).admitTeam s.nextId c g := by
  rw [State.admitUnit, h1]
  show State.admitTeam _ _ _ _ = _
  simp only [Nat.max_self, Nat.mul_one, Nat.add_zero]
  rfl

theorem State.enterThreads_keeps (s : State) (t c : Nat) (f : Nat → Thread) :
    (s.enterThreads t c f).teams = s.teams ∧ (s.enterThreads t c f).mem = s.mem := by
  unfold State.enterThreads
  cases s.team? t with
  | none => exact ⟨rfl, rfl⟩
  | some x => exact Prod.mk.inj (foldl_keep (fun s : State => (s.teams, s.mem)) (fun (s : State) tid => match x.slotOf tid with
      | some k => s.updThread c k (fun _ => f tid)
      | none => s) _ _ fun s tid => by cases x.slotOf tid <;> rfl)

/-- After the entry of threads in their slots, the slot of a tid of the list holds one of the threads entered. -/
theorem State.thread_enter_fold (x : Team) (c k : Nat) (f : Nat → Thread) (l : List Nat) (s : State)
    (h : (∃ n, s.thread c k = f n) ∨ ∃ n ∈ l, x.slotOf n = some k) :
    ∃ n, (l.foldl (fun (s : State) tid => match x.slotOf tid with
      | some k => s.updThread c k (fun _ => f tid)
      | none => s) s).thread c k = f n := by
  induction l generalizing s with
  | nil => simpa using h
  | cons a r ih =>
    rw [List.foldl_cons]
    refine ih _ ?_
    cases ha : x.slotOf a with
    | none =>
      rcases h with h | ⟨n, hn, hk⟩
      · exact .inl h
      · rcases List.mem_cons.mp hn with rfl | hn
        · rw [ha] at hk; exact absurd hk (by simp)
        · exact .inr ⟨n, hn, hk⟩
    | some j =>
      by_cases hj : k = j
      · subst hj
        exact .inl ⟨a, by rw [State.thread_updThread, if_pos ⟨rfl, rfl⟩]⟩
      · rcases h with ⟨n, hn⟩ | ⟨n, hn, hk⟩
        · exact .inl ⟨n, by rw [State.thread_updThread, if_neg (fun h => hj h.2)]; exact hn⟩
        · rcases List.mem_cons.mp hn with rfl | hn
          · rw [ha] at hk
            exact absurd (Option.some.inj hk).symm hj
          · exact .inr ⟨n, hn, hk⟩

theorem State.thread_enterThreads (s : State) {t c tid k : Nat} {x : Team} (f : Nat → Thread) (hx : s.team? t = some x)
    (ht : tid < 32 * x.hands) (hk : x.slotOf tid = some k) : ∃ n, (s.enterThreads t c f).thread c k = f n := by
  rw [State.enterThreads, hx]
  exact State.thread_enter_fold x c k f _ s (.inr ⟨tid, List.mem_range.mpr ht, hk⟩)

theorem State.placeTeam_team (s : State) {t c : Nat} {x : Team} (g : Grid) (hx : s.team? t = some x) :
    (s.placeTeam t c g).team? t = some { x with core := some c, bases := (s.freeBases c).take g.hands } :=
  State.team?_updTeam_same _ hx

theorem State.placeTeam_mem (s : State) (t c : Nat) (g : Grid) : (s.placeTeam t c g).mem = s.mem :=
  State.updTeam_mem ..

/-- An admitted team has its core and its places, and memory is as before. -/
theorem State.admitTeam_team (s : State) {t c : Nat} {x : Team} (g : Grid) (hx : s.team? t = some x) :
    (s.admitTeam t c g).team? t = some { x with core := some c, bases := (s.freeBases c).take g.hands } ∧
      (s.admitTeam t c g).mem = s.mem := by
  obtain ⟨ht, hm⟩ := ((s.placeTeam t c g).selfInvalidate c).enterThreads_keeps t c (fun tid => freshThread t tid g)
  exact ⟨(congrArg (KMap.look · t) ht).trans (s.placeTeam_team g hx), hm.trans (s.placeTeam_mem t c g)⟩

/-- Every thread of an admitted team is fresh. -/
theorem State.admitTeam_thread (s : State) {t c tid k : Nat} {x y : Team} (g : Grid) (hx : s.team? t = some x)
    (hy : (s.admitTeam t c g).team? t = some y) (ht : tid < 32 * x.hands) (hk : y.slotOf tid = some k) :
    ∃ n, (s.admitTeam t c g).thread c k = freshThread t n g := by
  have hp : ((s.placeTeam t c g).selfInvalidate c).team? t = some { x with core := some c, bases := (s.freeBases c).take g.hands } :=
    s.placeTeam_team g hx
  obtain rfl := Option.some.inj ((s.admitTeam_team g hx).1.symm.trans hy)
  exact State.thread_enterThreads _ _ hp ht hk

section Admit
variable {s : State} {d un c : Nat} {h : Share} {g : Grid} {z : Image}

theorem exec_teamAdmit_unit (hn : s.nextShare d = some (h, un)) (hg : s.grid? h.grid = some g)
    (hz : s.image? g.image = some z) (hd : z.dies.contains d = true) (hr : s.readmitFirst d = false) (ha : g.aborted = false)
    (had : s.dieAdmits d = true) (hc : s.unitCores [d] g = some [c]) :
    exec (.teamAdmit d) s = .next ((s.dropUnit d h.grid un).admitUnit h.grid g un [c]) := by
  show execTeamAdmit d s = _
  rw [execTeamAdmit, hn]
  dsimp only
  rw [hg]
  dsimp only
  rw [hz]
  simp only [hd, hr, ha, had, hc]
  rfl

end Admit

/-! ## Steals (R194) -/

theorem exec_stealRequest_asks {s : State} {d : Nat} (hm : s.readReg .dstMode 0 ≠ 1) (hr : s.dieRuns d = true) (hu : s.unitsOf d = 0)
    (hs : (s.distOf d).steal = none) :
    exec (.stealRequest d) s = .next (s.updDist d (fun x => { x with steal := s.stealVictim d })) := by
  show execStealRequest d s = _
  rw [execStealRequest, if_neg (by simp [hm, hr, hu, hs])]

/-- The units that a victim gives of a share: the upper half, or its only one. -/
def Share.gives (h : Share) : Nat := if h.units.length = 1 then 1 else h.units.length / 2

/-- A victim's shares after it gave units of a share. -/
def Dist.giving (x : Dist) (h : Share) : Dist :=
  { x with shares := x.shares.map (fun y =>
      if y.grid = h.grid then { y with units := y.units.take (h.units.length - h.gives) } else y) }

/-- A thief's shares with the units given of a share. -/
def Dist.taking (x : Dist) (h : Share) : Dist :=
  { x with shares := x.shares.map (fun y =>
      if y.grid = h.grid then { y with units := y.units.foldr insertUnit (h.units.drop (h.units.length - h.gives)) } else y) }

theorem exec_stealTransfer_gives {s : State} {d e : Nat} {h : Share} (hne : e ≠ d) (hs : (s.distOf d).steal = some e)
    (hh : (s.distOf e).shares.find? (fun x => !x.units.isEmpty) = some h) :
    exec (.stealTransfer d e) s = .next (((s.updDist d (fun x => { x with steal := none })).updDist e (·.giving h)).updDist d
      (·.taking h)) := by
  show execStealTransfer d e s = _
  rw [execStealTransfer, if_neg (fun h => h hs)]
  dsimp only
  rw [State.distOf_updDist_other _ _ hne, hh]
  rfl

/-! ## Completions (R47) -/

theorem exec_gridComplete_waits {s : State} {gid : Nat} (h : s.gridOver gid = false) : exec (.gridComplete gid) s = .next s := by
  show execGridComplete gid s = _
  unfold execGridComplete
  cases s.grid? gid with
  | none => rfl
  | some g => simp [h]

/-- The state with a grid's teams and shares gone. -/
def State.clearGrid (s : State) (gid : Nat) : State :=
  { s with
    teams := s.teams.filter (fun t => t.2.grid ≠ gid)
    dist := KMap.mapVals s.dist (fun d => { d with shares := d.shares.filter (fun h => h.grid ≠ gid) }) }

/-- A grid that is done, its teams gone and its packet complete. -/
def State.closeGrid (s : State) (gid : Nat) (g : Grid) : State :=
  ((s.clearGrid gid).updGrid gid (fun x => { x with complete := true })).updPacket g.queue g.pkt (fun p => { p with st := .complete })

theorem exec_gridComplete_done {s : State} {gid : Nat} {g : Grid} (hg : s.grid? gid = some g) (ho : s.gridOver gid = true)
    (ha : g.aborted = false) (hr : s.signalReady g.aspace g.doneVa.toNat = true) :
    exec (.gridComplete gid) s = .next ((s.writeSignal g.aspace g.doneVa.toNat g.queue g.gen .done).closeGrid gid g) := by
  show execGridComplete gid s = _
  rw [execGridComplete, hg]
  simp only [ho, hr, ha, Bool.not_true, Bool.not_false, Bool.false_eq_true, if_false, if_true]
  rfl

theorem State.closeGrid_grid {s : State} {gid : Nat} {g : Grid} (hg : s.grid? gid = some g) :
    ((s.closeGrid gid g).grid? gid).map (·.complete) = some true := by
  have hg' : (s.clearGrid gid).grid? gid = some g := hg
  exact congrArg (Option.map (·.complete)) (State.grid?_updGrid_same _ hg')

theorem State.closeGrid_teams (s : State) (gid : Nat) (g : Grid) : ∀ t ∈ (s.closeGrid gid g).teams, t.2.grid ≠ gid := by
  intro t ht
  have ht' : t ∈ ((s.clearGrid gid).updGrid gid _).teams := ht
  rw [State.updGrid_teams] at ht'
  exact of_decide_eq_true (List.mem_filter.mp ht').2

theorem State.closeGrid_mem (s : State) (gid : Nat) (g : Grid) : (s.closeGrid gid g).mem = s.mem :=
  State.updGrid_mem ..

/-! ## Images (R89, R90, R92) -/

theorem exec_imageLoad_none {s : State} {q : Nat} (h : s.packetToLoad q = none) : exec (.imageLoad q) s = .next s := by
  show execImageLoad q s = _
  rw [execImageLoad, h]

section Load
variable {s : State} {q i : Nat} {p : Packet} {hd : List Byte}

theorem exec_imageLoad_found (hp : s.packetToLoad q = some p) (hr : s.readImage (s.lqAspace q) (p.word 2) 256 false = .good hd)
    (hf : s.findImage (s.lqAspace q) (bitsOf (p.word 2) 56 0) (BitVec.ofNat 64 (imgAt hd 8 8)) = some i)
    (he : packetErr hd (.packet p.regs p.ctx) = none) : exec (.imageLoad q) s = .next (s.imaged q p i) := by
  show execImageLoad q s = _
  rw [execImageLoad, hp]
  dsimp only
  rw [hr]
  dsimp only
  rw [hf]
  dsimp only
  rw [he]

theorem exec_imageLoad_stores {w : State} {raw : List Byte} (hp : s.packetToLoad q = some p)
    (hr : s.readImage (s.lqAspace q) (p.word 2) 256 false = .good hd)
    (hf : s.findImage (s.lqAspace q) (bitsOf (p.word 2) 56 0) (BitVec.ofNat 64 (imgAt hd 8 8)) = none)
    (hc : s.checkImage (s.lqAspace q) (p.word 2) (.packet p.regs p.ctx) none = .good raw)
    (hw : s.storeImage (imageOf (s.lqAspace q) (bitsOf (p.word 2) 56 0) raw false s.allDies s.time.ref) = some (i, w)) :
    exec (.imageLoad q) s = .next (w.imaged q p i) := by
  show execImageLoad q s = _
  rw [execImageLoad, hp]
  dsimp only
  rw [hr]
  dsimp only
  rw [hf]
  dsimp only
  rw [hc]
  dsimp only
  rw [hw]

theorem State.imaged_packet (hk : KMap.look (s.queue q).packets p.key = some p) :
    KMap.look ((s.imaged q p i).queue q).packets p.key = some { p with st := .imaged, image := some i } := by
  refine State.packet_updPacket _ q p.key _ ?_
  rw [State.queue_congr (State.updImage_queues ..)]
  exact hk

theorem State.imaged_mem : (s.imaged q p i).mem = s.mem := State.updImage_mem ..

end Load

theorem exec_imageReload_waits {s : State} {img : Nat} (h : s.reloadDue img = false) : exec (.imageReload img) s = .next s := by
  show execImageReload img s = _
  unfold execImageReload
  cases s.image? img with
  | none => rfl
  | some x => simp [h]

theorem exec_imageReload_reads {s w : State} {img : Nat} {z : Image} {raw : List Byte} (hz : s.image? img = some z)
    (hdue : s.reloadDue img = true) (hh : z.handler = false)
    (hc : s.checkImage z.aspace (if bitOf z.va 56 then z.va + (2 ^ 64 - 2 ^ 57) else z.va) (.packet 7 z.ctx) (some z.face) = .good raw)
    (hw : (s.updImage img (fun y => { y with dies := [] })).makeRoom
      (imageOf z.aspace z.va raw false s.allDies s.time.ref).size (s.images.length + 1) = some w) :
    exec (.imageReload img) s = .next (w.updImage img (fun _ =>
      z.reloaded (imageOf z.aspace z.va raw false s.allDies s.time.ref) w.allDies)) := by
  show execImageReload img s = _
  rw [execImageReload, hz]
  dsimp only
  rw [hh, hdue]
  simp only [Bool.not_true, Bool.false_eq_true, if_false]
  rw [hc]
  dsimp only
  rw [hw]

/-- Settles O51: each step's equation under its conditions, and what the state that it leaves reads. -/
theorem gridsRun : Obligations.GridsRun := by
  unfold Obligations.GridsRun
  intro s w q i pa d e un c gid img p g h z hd raw
  refine ⟨fun hp hk => ⟨?examine, fun ht hf hw hser => ⟨?begin, ?signal⟩⟩, ?newTeam, ?ask, ?steal, exec_gridComplete_waits, ?complete,
    exec_imageLoad_none, fun hp hk hr => ⟨?found, exec_imageLoad_stores hp hr⟩, exec_imageReload_waits, exec_imageReload_reads⟩
  case examine =>
    intro hi hs hf hx hr hb ha v seen now
    refine ⟨_, exec_waitSignalExamine_reads hp hi hs hf hx hr hb ha, ?_, rfl, rfl⟩
    have hseen : (if (s.semaphoreAt (s.lqAspace q) (p.waitVa i)).isSome && !p.seen.contains i then p.seen ++ [i] else p.seen) =
        seen := by simp [seen]
    refine (State.packet_updPacket s q p.key _ hk).trans (congrArg some ?_)
    exact (congrArg (fun l => { p.examined i v with seen := l }) hseen).trans (p.examined_seen i v seen)
  case begin =>
    intro h2 hst hi
    exact ⟨_, _, exec_packetBegin_grid hp ht hf hw hser h2 hst hi, State.beginGrid_grid img, rfl, rfl, rfl, rfl, rfl, rfl, rfl, rfl,
      rfl, rfl, State.beginGrid_packet img hk, State.beginGrid_mem img, fun _ hb => State.beginGrid_shares img hb⟩
  case signal =>
    intro h2 hr
    exact ⟨_, exec_packetBegin_signal hp ht hf hw hser h2 hr, State.closePacket_packet .done hk, rfl⟩
  case newTeam =>
    intro hn hg h1 hz hd hr ha had hc
    have hexec := exec_teamAdmit_unit hn hg hz hd hr ha had hc
    rw [State.admitUnit_single _ _ _ _ _ h1] at hexec
    have hx : ({ s.dropUnit d h.grid un with
        nextId := s.nextId + 1, teams := KMap.put s.teams s.nextId (unitTeam h.grid un g) } : State).team? s.nextId =
        some (unitTeam h.grid un g) := KMap.look_put_same ..
    obtain ⟨hy, hm⟩ := State.admitTeam_team _ (c := c) g hx
    refine ⟨_, _, hexec, hy, rfl, rfl, rfl, rfl, hm, fun tid ht k hk => ?_⟩
    obtain ⟨n, hth⟩ := State.admitTeam_thread _ g hx hy ht hk
    refine (congrArg (fun t : Thread => t.st = .waiting ∧ t.next = 0 ∧ t.team = s.nextId ∧ t.regs = [(0, g.param)]) hth).mpr ?_
    exact ⟨rfl, rfl, rfl, rfl⟩
  case ask =>
    intro hm hr hu hs
    exact ⟨_, exec_stealRequest_asks hm hr hu hs, State.distOf_updDist_same .., rfl⟩
  case steal =>
    intro hne hs hh m given
    refine ⟨_, exec_stealTransfer_gives hne hs hh, ?_, rfl, ?_, ?_⟩
    · rw [State.distOf_updDist_same, State.distOf_updDist_other _ _ hne.symm, State.distOf_updDist_same]
      rfl
    · rw [State.distOf_updDist_same, State.distOf_updDist_other _ _ hne.symm, State.distOf_updDist_same]
      rfl
    · rw [State.distOf_updDist_other _ _ hne, State.distOf_updDist_same, State.distOf_updDist_other _ _ hne]
      rfl
  case complete =>
    intro hg ho ha hr
    have hg' : (s.writeSignal g.aspace g.doneVa.toNat g.queue g.gen .done).grid? gid = some g :=
      (congrArg (KMap.look · gid) (s.writeSignal_launch ..).2).trans hg
    exact ⟨_, exec_gridComplete_done hg ho ha hr, State.closeGrid_grid hg', State.closeGrid_teams _ gid g, State.closeGrid_mem ..⟩
  case found =>
    intro hf he
    exact ⟨_, exec_imageLoad_found hp hr hf he, State.imaged_packet hk, State.imaged_mem⟩

end Sys2Proof.Machine

/-! PROOFS. One step (R22, R60, R74): the move that it takes, and the operand set that a firing consumes. -/

namespace Sys2Proof.Machine

/-! ## Time passes through what a firing consumes -/

theorem takeFreeze_time (s : State) (f : Firing) (k code : Nat) (z : Freeze) (info : Word) :
    (s.takeFreeze f k code z info).time = s.time := by
  rw [State.takeFreeze, State.sendFault_time]
  split <;> rfl

theorem putHead_time (s : State) (c t p : Nat) (h : Bool) (a : Arrival) (full : Bool) :
    (s.putHead c t p h a full).time = s.time := by
  unfold State.putHead
  split
  case h_1 => exact takeFreeze_time ..
  case h_4 => split <;> rfl
  all_goals rfl

theorem takeVia_time (s : State) (c t : Nat) (h : Bool) (y : Ready) : (s.takeVia c t h y).time = s.time := by
  unfold State.takeVia
  split
  · rfl
  · split
    · rfl
    · exact putHead_time ..

/-- The firing that a consumed set leaves to its meaning. -/
theorem consume_firing (s : State) (c t : Nat) (h : Bool) (y : Ready) :
    (s.consume c t h y).firing = some (y.firing c t h (s.cycle c)) := by
  have hc : (s.takeVia c t h y).cycle c = s.cycle c := by
    simp only [State.cycle, State.die, takeVia_time]
  rw [← hc]
  rfl

/-! ## The set that a tile fires (R60) -/

section Fire
variable {s : State} {c t slot : Nat} {h : Bool}

theorem prepareFiring_picked {y : Ready} (hm : s.mayFire c t h = true) (hp : s.pick c t h = some y) (hy : y.slot = slot) :
    s.prepareFiring c t h slot = some (s.consume c t h y) := by
  simp [State.prepareFiring, hm, hp, hy]

theorem prepareFiring_none (hn : s.mayFire c t h = false ∨ ∀ y, s.pick c t h = some y → y.slot ≠ slot) :
    s.prepareFiring c t h slot = none := by
  rcases hn with hm | hy
  · simp [State.prepareFiring, hm]
  · cases hp : s.pick c t h with
    | none => simp [State.prepareFiring, hp]
    | some y => simp [State.prepareFiring, hp, hy y hp]

variable {i : Instr} (hd : decode (s.slotBits c t h slot).word (s.slotBits c t h slot).lit = .ok i)
include hd

theorem runMove_fires {u : State} (hu : s.prepareFiring c t h slot = some u) : s.runMove (.fire c t h slot) = exec i u := by
  simp only [State.runMove, hd, hu]

theorem runMove_idle (hn : s.prepareFiring c t h slot = none) : s.runMove (.fire c t h slot) = .next s := by
  simp only [State.runMove, hd, hn]

end Fire

/-! ## The move that a step takes -/

section Step
variable {s : State} (hr : s.rpl.replaying = none)
include hr

theorem step_plans (ha : s.agenda = []) : step s = .next s.advance := by
  simp [step, State.takeStep, hr, ha]

variable {m : Move} {rest : List Move} (ha : s.agenda = m :: rest)
include ha

theorem step_loses (hl : s.lostInReset m = true) : step s = .next (({ s with agenda := rest } : State).logMove m) := by
  simp [step, State.takeStep, hr, ha, hl]

theorem step_runs (hl : s.lostInReset m = false) : step s = (({ s with agenda := rest } : State).logMove m).runMove m := by
  simp [step, State.takeStep, hr, ha, hl]

end Step

/-- A move logged changes the log alone. -/
theorem logMove_eq (s : State) (m : Move) : ∃ l, s.logMove m = { s with rpl := { s.rpl with log := l } } := by
  unfold State.logMove
  split
  · exact ⟨_, rfl⟩
  · exact ⟨s.rpl.log, rfl⟩

theorem logMove_slotBits (s : State) (m : Move) (c t slot : Nat) (h : Bool) :
    (s.logMove m).slotBits c t h slot = s.slotBits c t h slot := by
  unfold State.logMove
  split <;> rfl

theorem logMove_cycle (s : State) (m : Move) (c : Nat) : (s.logMove m).cycle c = s.cycle c := by
  unfold State.logMove
  split <;> rfl

/-- Settles O3: the step's equation for an empty agenda, a lost move and a move that runs, and for a firing the cases in which
the tile may fire its slot. -/
theorem stepRunsDecoded : Obligations.StepRunsDecoded := by
  intro s m rest hr
  refine ⟨step_plans hr, fun ha => ?_⟩
  intro u
  refine ⟨logMove_eq _ m, step_loses hr ha, fun hl => ?_⟩
  rw [step_runs hr ha hl]
  refine ⟨fun c t h slot i hm hd => ?_, fun i hm => congrArg u.runMove hm⟩
  subst hm
  have hbits : u.slotBits c t h slot = s.slotBits c t h slot := logMove_slotBits ..
  have hcycle : u.cycle c = s.cycle c := logMove_cycle ..
  rw [← hbits] at hd
  refine ⟨fun y hmay hy hslot => ⟨?_, ?_⟩, fun hn => ?_⟩
  · exact runMove_fires hd (prepareFiring_picked hmay hy hslot)
  · rw [consume_firing, hcycle]
  · exact runMove_idle hd (prepareFiring_none hn)

end Sys2Proof.Machine

/-! PROOFS. The tag of a result (R62, R63). -/

namespace Sys2Proof.Machine

/-- A result of one token leaves as the same token on both destinations. -/
theorem eq_of_mem_data {tag t : Token} {d : Data} (h : t ∈ (Out.data tag d).toks0 ++ (Out.data tag d).toks1) :
    t = ({ tag with data := d.data } : Token).fit := by
  simpa [Out.data, Out.both] using h

/-- The tag comes from A but under STICKA and PURGE. -/
theorem tagSource_a (f : Firing) {ta : TagAction} (h1 : ta ≠ .sticka) (h2 : ta ≠ .purge) : f.tagSource ta = f.tokA := by
  unfold Firing.tagSource
  split
  · exact absurd rfl h1
  · exact absurd rfl h2
  · rfl

/-- The tag comes from B under STICKA and PURGE. -/
theorem tagSource_b (f : Firing) {ta : TagAction} (h : ta = .sticka ∨ ta = .purge) : f.tagSource ta = f.tokB := by
  rcases h with rfl | rfl <;> rfl

section Tag
variable (f : Firing) {ta : TagAction} (fmt : Fmt)

theorem resultTag_slot : (f.resultTag ta fmt).slot = (f.tagSource ta).slot := rfl

theorem resultTag_iter (h1 : ta ≠ .itinc) (h2 : ta ≠ .itclr) : (f.resultTag ta fmt).iter = (f.tagSource ta).iter := by
  unfold Firing.resultTag
  dsimp only
  split
  · exact absurd rfl h1
  · exact absurd rfl h2
  · rfl

theorem resultTag_pred (h : ta ≠ .preda) : (f.resultTag ta fmt).pred = (predOf f.a && predOf f.b) := by
  simp [Firing.resultTag, Firing.pred, h]

theorem resultTag_pred_preda : (f.resultTag .preda fmt).pred = predOf f.a := by
  simp [Firing.resultTag, Firing.pred]

end Tag

/-- Settles O7: each field of the tag, from A, from B, or as its action sets it. -/
theorem resultTag : Obligations.ResultTag := by
  intro f ta fmt d a t ha ht
  obtain rfl := eq_of_mem_data ht
  have htok : f.tokA = a := by rw [Firing.tokA, ha]; rfl
  have hpa : predOf f.a = a.pred := by simp [ha, predOf]
  simp only [fit_fmt, fit_die, fit_deferred, fit_pred, fit_slot, fit_iter, fit_burst]
  refine ⟨rfl, rfl, ?deferred, fun h => ⟨fun hb => ?predA, fun b hb => ?predAB⟩, ?preda, fun h1 h2 => ?slot,
    fun h1 h2 h3 h4 => ?iter, fun h => ?burst, fun b hb h => ?fromB, ?_, ?_, ?_, ?_, ?_⟩
  case deferred =>
    show f.deferred = _
    simp [Firing.deferred, defOf, ha]
  case predA => rw [resultTag_pred f fmt h, hpa, hb]; simp [predOf]
  case predAB => rw [resultTag_pred f fmt h, hpa, hb]; simp [predOf]
  case preda => rintro rfl; rw [resultTag_pred_preda, hpa]
  case slot => rw [resultTag_slot, tagSource_a f h1 h2, htok]
  case iter => rw [resultTag_iter f fmt h3 h4, tagSource_a f h1 h2, htok]
  case burst =>
    have hburst : f.tokA.burst = a.burst := by rw [htok]
    simp only [List.mem_cons, List.not_mem_nil, or_false] at h
    rcases h with rfl | rfl | rfl | rfl | rfl | rfl | rfl | rfl | rfl <;> exact hburst
  case fromB =>
    have hb' : f.tokB = b := by rw [Firing.tokB, hb]; rfl
    have hfields : f.tokB.slot = b.slot ∧ f.tokB.iter = b.iter ∧ f.tokB.burst = b.burst := by simp [hb']
    rcases h with rfl | rfl <;> exact hfields
  · rintro rfl
    show f.tokA.iter + 1 = _
    rw [htok]
  all_goals rintro rfl; rfl

end Sys2Proof.Machine

/-! PROOFS. The frame of the computing instructions (R60, R74, R272): each is one of three forms, and each form only sends
tokens or freezes its tile. -/

namespace Sys2Proof.Machine

/-- The forms that the meaning of a computing instruction takes: a value, a freezing fault, or an effect of its own on the
operand set. -/
inductive ComputingForm : (State → Host.Outcome State Fault Refusal) → Prop
  | value (r : Route) (fmt : Fmt) (g : State → Firing → Option Out) : ComputingForm (valueFiring r fmt g)
  | fault (r : Route) (fmt : Fmt) (code : Nat) : ComputingForm (faultFiring r fmt code)
  | own (k : State → Firing → State) (h : ∀ (s : State) (f : Firing), s.OnlySends (k s.taken f) f) : ComputingForm (fun s => withFiring s k)

theorem ComputingForm.onlySends {m : State → Host.Outcome State Fault Refusal} (hm : ComputingForm m) {s t : State} {f : Firing}
    (hf : s.firing = some f) (ht : m s = .next t) : s.OnlySends t f := by
  cases hm with
  | value r fmt g => exact only_valueFiring r fmt g s t f hf ht
  | fault r fmt code => exact only_faultFiring r fmt code s t f hf ht
  | own k h => exact only_withFiring s t f k hf ht (h s f)

/-! ## The effects of the routing nodes and of GTIME -/

section Own
variable (s : State) (f : Firing)

/-- A trace record alone. -/
theorem only_trace (d : Dst) (tok : Token) : s.OnlySends (s.taken.trace f d tok) f :=
  only_of f s s.taken _ d tok (sendQ_taken f s) (SendQ.refl f _)

/-- Tokens that leave. -/
theorem only_emits (r : Route) (o : Out) : s.OnlySends (s.taken.emitOut f r o) f :=
  only_emitOut f s s.taken r o (sendQ_taken f s)

/-- A freeze. -/
theorem only_freezes (ta : TagAction) (code : Nat) : s.OnlySends (s.taken.freezeFiring f ta code) f :=
  sendQ_only ((sendQ_taken f s).trans (sendQ_freeze f _ ta code))

/-- A freeze where the operands do not agree in shape, else tokens that leave. -/
theorem only_freezesOrEmits (p : Prop) [Decidable p] (r : Route) (code : Nat) (o : Out) :
    s.OnlySends (if p then s.taken.freezeFiring f r.ta code else s.taken.emitOut f r o) f := by
  split
  · exact only_freezes s f r.ta code
  · exact only_emits s f r o

end Own

/-- The meaning of a computing instruction has one of the three forms. -/
theorem exec_computingForm (i : Instr) (hi : isComputing i = true) : ComputingForm (exec i) := by
  cases i with
  | nop sa sb ta =>
    show ComputingForm (execNop sa sb ta)
    refine .own _ (fun s f => ?_)
    exact only_trace s f .discard f.tokA
  | mov r =>
    show ComputingForm (execMov r)
    refine .own _ (fun s f => ?_)
    exact only_fireCases r f.tokA.fmt _ s _ f (sendQ_taken f s) (only_valueEffect r _ s _ f (sendQ_taken f s))
  | sel r =>
    show ComputingForm (execSel r)
    refine .own _ (fun s f => ?_)
    exact only_freezesOrEmits s f _ r codeFMTMIS _
  | gate r sense =>
    show ComputingForm (execGate r sense)
    refine .own _ (fun s f => ?_)
    exact only_freezesOrEmits s f _ r codeFMTMIS _
  | steer r sense =>
    show ComputingForm (execSteer r sense)
    refine .own _ (fun s f => ?_)
    exact only_freezesOrEmits s f _ r codeFMTMIS _
  | gtime r valid =>
    refine .own _ (fun s f => ?_)
    exact only_fireCases r.full .int _ s _ f (sendQ_taken f s) (only_emits s f r.full _)
  | trap | bkpt | idiv | irem | idivn | iremn | unassignedOpcode | emulationOpcode => exact .fault _ _ _
  | lit | pack | fmts | add | sub | mul | mulh | mad | min | max | abs | and | or | xor | andn | shl | shr | sar | rotl | popc
  | clz | ctz | brev | bfx | bfi | cmp | lea | adds | subs | fadd | fsub | fmul | ffma | fmin | fmax | fabs | fneg | fcmp
  | fclass | frcp | frsq | fsqrt | fexp2 | flog2 | fsin | fcos | ftanh | fscale | fdot | fsum | cvt | cvti | cvtf | qpack
  | qunpk | red | scan | bkt | kmerge | ksel => exact .value _ _ _
  | _ => exact absurd hi Bool.false_ne_true

/-- Settles O9: by the form of the instruction's meaning. -/
theorem computingFrame : Obligations.ComputingFrame :=
  fun _ _ _ i hi hf ht => (exec_computingForm i hi).onlySends hf ht

end Sys2Proof.Machine

/-! PROOFS. Tokens that arrive at a tile (R55, R57, R60, R72). -/

namespace Sys2Proof.Machine

/-! ## The token at the head of a port -/

section Head
variable {s : State} {c t p : Nat} {h : Bool} {a : Arrival}

theorem headOf_frozen (hf : (s.tile c t).frozen.isSome = true) : s.headOf c t p false = none := by
  simp [State.headOf, hf]

theorem headOf_ready (ha : ((s.ctx c t h).port p).head? = some a) (hr : (s.ctx c t h).headReady p (s.cycle c) = true)
    (hf : (s.tile c t).frozen = none ∨ h = true) : s.headOf c t p h = some a := by
  have hrun : ((s.tile c t).frozen.isSome && !h) = false := by
    rcases hf with hf | hf <;> simp [hf]
  rw [State.ctx] at ha hr
  simp [State.headOf, hr, hrun, ha]

theorem exec_tokenArrive_frozen (hf : (s.tile c t).frozen.isSome = true) : exec (.tokenArrive c t p false) s = .next s := by
  show execTokenArrive c t p false s = _
  rw [execTokenArrive, State.arrive, headOf_frozen hf]

/-- An EOS leaves its port and is counted. -/
theorem exec_tokenArrive_eos (hh : s.headOf c t p h = some a) (he : a.tok.eos = true) : exec (.tokenArrive c t p h) s =
    .next ((s.popPort c t h p).updCtx c t h (fun y => { y with eos := KMap.alter y.eos p 0 (· + 1) })) := by
  show execTokenArrive c t p h s = _
  rw [execTokenArrive, State.arrive, hh]
  simp only [he, if_true]

/-- A token with data is taken as takeHead says. -/
theorem exec_tokenArrive_data (hh : s.headOf c t p h = some a) (he : a.tok.eos = false) : exec (.tokenArrive c t p h) s =
    .next (s.putHead c t p h a (s.isFull c t (s.ctx c t h))) := by
  show execTokenArrive c t p h s = _
  rw [execTokenArrive, State.arrive, hh]
  simp [he]

end Head

/-! ## An operand that pairs by tag -/

/-- The entry that an arriving operand takes. -/
def operandEntry (slot : Nat) (side : Side) (tok : Token) (cycle seq : Nat) : Entry :=
  { slot := slot, side := side, kind := .operand, tok := tok, cycle := cycle, seq := seq }

section Operand
variable {i : Instr} {r : Route} {slot : Nat} {b : SlotBits}

/-- A slot without a sticky side promotes nothing. -/
theorem promoteSlot_plain (x : PlaneCtx) (hb : slotInstr b = some i) (hr : i.route? = some r) (hta : r.ta = .plain) :
    promoteSlot x slot b = x := by
  simp only [promoteSlot, hb, hr, hta, stickySide]
  split <;> rfl

theorem takeOperand_plain {x : PlaneCtx} {side : Side} (tok : Token) (cycle seq : Nat) (m : Matrix)
    (hb : slotInstr b = some i) (hr : i.route? = some r) (hta : r.ta = .plain) (hc : collects i r side = false)
    (hl : KMap.look x.plane.slots slot = some b) :
    takeOperand i r slot side tok cycle seq none x m false =
      .into { x with store := x.store ++ [operandEntry slot side tok cycle seq] } 0 := by
  simp only [takeOperand, hc, hta, stickySide, hl, Option.getD_some, promoteSlot_plain _ hb hr hta, Bool.false_eq_true, if_false]
  rfl

theorem takeHead_plain {s : State} {c t p : Nat} {h : Bool} {a : Arrival} {side : Side}
    (hp : portSlot (s.ctx c t h).plane p = some (slot, side, i, r)) (hl : KMap.look (s.ctx c t h).plane.slots slot = some b)
    (hb : slotInstr b = some i) (hr : i.route? = some r) (hta : r.ta = .plain) (hc : collects i r side = false)
    (hok : s.fmtOk c i side a.tok = true) :
    s.takeHead c t p h a false = .inl (.into { s.ctx c t h with
      store := (s.ctx c t h).store ++ [operandEntry slot side a.tok (s.cycle c) s.nextId] } 0) := by
  rw [State.ctx] at hp hl
  simp only [State.takeHead, hp, hok, Bool.not_true, Bool.false_eq_true, if_false, takeOperand_plain _ _ _ _ hb hr hta hc hl]
  rfl

end Operand

theorem ctx_popPort {s : State} {c t p : Nat} {h : Bool} (hx : h = true → (s.tile c t).hctx.isSome = true) :
    (s.popPort c t h p).ctx c t h = (s.ctx c t h).updPort p (fun l => l.drop 1) := ctx_updCtx s c t h _ hx

theorem hctx_popPort {s : State} {c t p : Nat} {h : Bool} (hx : h = true → (s.tile c t).hctx.isSome = true) (hh : h = true) :
    ((s.popPort c t h p).tile c t).hctx.isSome = true := (hctx_updCtx s c t h _).trans (hx hh)

/-- What a context reads after a token has been taken into it. -/
theorem ctx_putHead_into {s : State} {c t p d : Nat} {h full : Bool} {a : Arrival} {y : PlaneCtx}
    (hx : h = true → (s.tile c t).hctx.isSome = true) (hy : s.takeHead c t p h a full = .inl (.into y d)) :
    (s.putHead c t p h a full).ctx c t h = y.updPort p (fun l => l.drop 1) := by
  have hctx := ctx_updCtx s c t h (fun _ => y.updPort p (fun l => l.drop 1)) hx
  rw [State.ctx, State.updCtx, State.tile_updTile, if_pos ⟨rfl, rfl⟩] at hctx
  simp only [State.putHead, hy]
  rw [State.ctx, State.tile_updTile, if_pos ⟨rfl, rfl⟩]
  exact hctx

/-! ## A token on a channel that no slot names -/

theorem takeHead_stray {s : State} {c t p : Nat} {h : Bool} (a : Arrival) (full : Bool)
    (hp : portSlot (s.ctx c t h).plane p = none) (h8 : p < 8) :
    s.takeHead c t p h a full = .inr ⟨31, ⟨0, 0⟩, codeSTRAY, strayInfo (s.tile c t).mx p⟩ := by
  rw [State.ctx] at hp
  simp only [State.takeHead, hp, h8, if_true]

/-- What the freeze of a stray token leaves of its tile. -/
theorem putHead_stray {s : State} {c t p : Nat} (a : Arrival) (full : Bool)
    (hp : portSlot (s.ctx c t false).plane p = none) (h8 : p < 8) :
    ∃ n, (s.putHead c t p false a full).tile c t = { s.tile c t with
      main := (s.ctx c t false).updPort p (fun l => l.drop 1)
      frozen := some { code := codeSTRAY, site := { core := c, tile := t, slot := 31 }, token := some a.tok, channel := p, cycle := n } } := by
  simp only [State.putHead, takeHead_stray a full hp h8]
  rw [freezeToken_tile, State.popPort, State.updCtx, State.tile_updTile, if_pos ⟨rfl, rfl⟩]
  exact ⟨_, rfl⟩

end Sys2Proof.Machine

/-! PROOFS. The swap of a plane behind EOS (R73, R128). -/

namespace Sys2Proof.Machine

section Swap
variable {s : State} {c t : Nat}

theorem exec_tileEosSwap_frozen (hf : (s.tile c t).frozen.isSome = true) : exec (.tileEosSwap c t false) s = .next s := by
  show Host.Outcome.next (s.eosSwap c t) = _
  rw [State.eosSwap]
  dsimp only
  split
  · rfl
  · simp [hf]

variable {p : Plane} (hs : (s.tile c t).shadow = some p) (hf : (s.tile c t).frozen = none)
  (he : (s.tile c t).main.eosComplete = true) (hd : s.drained c t = true) (ha : s.accessesBack c t = true)
  (hk : s.keepsForPreempt c t = false)
include hs hf he hd ha hk

/-- With nothing left over, the shadow plane becomes active behind the EOS that is sent on. -/
theorem exec_tileEosSwap_swaps (hl : (s.tile c t).main.leftovers = [])
    (hm : planeHasMma (s.tile c t).main.plane = true → (s.tile c t).mx.armed = false) :
    exec (.tileEosSwap c t false) s = .next ((s.sendEos c t (s.tile c t).main.plane).updTile c t (fun y =>
      { y with main := y.main.swapTo p, shadow := none
               mx := if planeHasMma (s.tile c t).main.plane then { y.mx with cols := [], colPart := [] } else y.mx })) := by
  have harm : (planeHasMma (s.tile c t).main.plane && (s.tile c t).mx.armed) = false := by
    simpa using hm
  show Host.Outcome.next (s.eosSwap c t) = _
  simp [State.eosSwap, hs, hf, he, hd, ha, hk, hl, harm]

/-- With operands left over, STRAY. -/
theorem exec_tileEosSwap_strays (hl : (s.tile c t).main.leftovers ≠ []) :
    exec (.tileEosSwap c t false) s = .next (s.strayAtEos c t) := by
  show Host.Outcome.next (s.eosSwap c t) = _
  simp [State.eosSwap, hs, hf, he, hd, ha, hk, hl]

end Swap

/-- What the STRAY at EOS leaves of its tile. -/
theorem strayAtEos_tile (s : State) (c t : Nat) : ∃ site n, (s.strayAtEos c t).tile c t =
    { s.tile c t with frozen := some { code := codeSTRAY, site := site, atEos := true, cycle := n } } :=
  ⟨_, _, takeFreeze_tile s _ _ _ _ _ rfl⟩

end Sys2Proof.Machine

/-! PROOFS. Row steps of a matrix section (R121 to R123). -/

namespace Sys2Proof.Machine

/-! ## The matrix unit after a step -/

/-- Entries put under other keys leave an entry as it is. -/
theorem lookD_foldl_put {α β : Type} {key : β → Nat} {val : β → α} {k : Nat} (d : α) {l : List β} (h : ∀ x ∈ l, k ≠ key x)
    (m : KMap α) : KMap.lookD (l.foldl (fun a x => KMap.put a (key x) (val x)) m) k d = KMap.lookD m k d := by
  induction l generalizing m with
  | nil => rfl
  | cons x l ih =>
    rw [List.foldl_cons, ih (fun y hy => h y (List.mem_cons_of_mem x hy)), KMap.lookD_put_other _ _ _ _ _ (h x List.mem_cons_self)]

section Step
variable (m : Matrix) (row : MatRow)

theorem Matrix.step_rows : (m.step row).rows = m.rows.drop 1 := by
  simp [Matrix.step, apply_ite Matrix.rows]

theorem Matrix.step_rem : (m.step row).rem = m.rem - 1 := by
  simp [Matrix.step, apply_ite Matrix.rem]

theorem Matrix.step_armed : (m.step row).armed = m.armed := by
  simp [Matrix.step, apply_ite Matrix.armed]

/-- A step writes the entries of its own row alone, the first NCOL of them. -/
theorem Matrix.step_acc : ∃ l : List (Nat × Nat × FpFlags), (∀ x ∈ l, x.1 < m.ncol) ∧ (m.step row).acc =
    l.foldl (fun a x => KMap.put a (16 * (m.rowbase + row.window) + x.1) (BitVec.ofNat 36 x.2.1)) m.acc := by
  by_cases hw : defOf row.beats = true ∨ predOf row.beats = false
  · refine ⟨[], by simp, ?_⟩
    rcases hw with hw | hw <;> simp [Matrix.step, apply_ite Matrix.acc, hw]
  · obtain ⟨hd, hp⟩ := not_or.mp hw
    simp only [Bool.not_eq_true, Bool.not_eq_false] at hd hp
    simp only [Matrix.step, apply_ite Matrix.acc, ite_self, hd, hp, Bool.not_true, Bool.false_eq_true, if_false]
    refine ⟨_, fun x hx => ?_, rfl⟩
    simpa [upTo] using (List.of_mem_zip hx).1

theorem Matrix.step_entry (hn : m.ncol ≤ 16) {q j : Nat} (hj : j < 16) (hq : q ≠ m.rowbase + row.window) :
    (m.step row).entry q j = m.entry q j := by
  obtain ⟨l, hl, hacc⟩ := m.step_acc row
  simp only [Matrix.entry, hacc]
  refine congrArg BitVec.toNat (lookD_foldl_put _ (fun x hx => ?_) _)
  have hx : x.1 < m.ncol := hl x hx
  omega

end Step

/-! ## The end of a section -/

theorem sendQ_sendOrWait (f : Firing) (s : State) (t : Nat) (d : Dst) (tok : Token) :
    SendQ f s (s.sendOrWait f.site.core t d tok) := by
  unfold State.sendOrWait
  split
  · exact SendQ.refl f s
  · split
    · exact sendQ_send f s t false d tok
    · refine sendQ_updTile f s t _ (fun x => ⟨fun h => ?_, rfl, rfl, fun _ => rfl⟩)
      cases h <;> exact ⟨rfl, rfl, rfl⟩

theorem SendQ.mx {f : Firing} {s t : State} (h : SendQ f s t) (u : Nat) :
    (t.tile f.site.core u).mx = (s.tile f.site.core u).mx := by
  obtain ⟨-, -, -, -, -, -, hmx, -⟩ := h
  exact (hmx u).1

/-- A result sent or kept waiting leaves the matrix unit as it is. -/
theorem sendOrWait_mx (s : State) (c t : Nat) (d : Dst) (tok : Token) (u : Nat) :
    ((s.sendOrWait c t d tok).tile c u).mx = (s.tile c u).mx :=
  (sendQ_sendOrWait { site := ⟨c, t, 0, false⟩, bits := ⟨0, 0⟩, a := [] } s t d tok).mx u

@[simp] theorem updMx_tile (s : State) (c t : Nat) (g : Matrix → Matrix) :
    (s.updMx c t g).tile c t = { s.tile c t with mx := g (s.tile c t).mx } := by
  rw [State.updMx, State.tile_updTile, if_pos ⟨rfl, rfl⟩]

/-- The completion token leaves, and of the matrix unit only the token that waited is gone. -/
theorem sectionDone_mx (s : State) (c t : Nat) : ((s.sectionDone c t).tile c t).mx = { (s.tile c t).mx with arming := none } := by
  unfold State.sectionDone
  dsimp only
  split
  · next h => rw [← h]
  · split
    · rw [updMx_tile]
    · rw [sendOrWait_mx, sendOrWait_mx, updMx_tile]

/-! ## The row step -/

section RowStep
variable {s : State} {c t : Nat} {row : MatRow} {rest : List MatRow} (hc : s.canRowStep c t = true)
  (hr : (s.tile c t).mx.rows = row :: rest)
include hc hr

/-- A step that is not the section's last changes the matrix unit alone. -/
theorem exec_rowStep_more (hm : 1 < (s.tile c t).mx.rem) : exec (.rowStep c t) s =
    .next (s.updMx c t (fun m => { m.step row with stepUntil := s.cycle c - 1 })) := by
  have hrem : (s.tile c t).mx.rem - 1 ≠ 0 := by omega
  show execRowStep c t s = _
  simp [execRowStep, hc, hr, Matrix.step_rem, hrem]

/-- The last step disarms the section. -/
theorem exec_rowStep_last (hm : (s.tile c t).mx.rem = 1) : exec (.rowStep c t) s =
    .next (((s.updMx c t (fun m => { m.step row with stepUntil := s.cycle c - 1 })).updMx c t
      (fun m => { m with armed := false })).sectionDone c t) := by
  show execRowStep c t s = _
  simp [execRowStep, hc, hr, Matrix.step_rem, hm]

end RowStep

/-- Settles O40: the equation of each arrival, swap and row step, and what the state that it leaves reads. -/
theorem tilesStep : Obligations.TilesStep := by
  refine ⟨fun s c t p slot h a side i r b => ?arrival, fun s c t p row rest => ⟨?swap, exec_tileEosSwap_frozen, ?more, ?last⟩⟩
  case arrival =>
    intro x ha hready
    have hctx := hctx_of_port s c t p h a ha
    refine ⟨fun hf hh => hh ▸ exec_tokenArrive_frozen hf, fun hf => ?_⟩
    have hhead := headOf_ready ha hready hf
    refine ⟨fun he => ⟨_, exec_tokenArrive_eos hhead he, ?eos⟩, fun he hp hl hb hr hta hc hok hroom => ?operand,
      fun he hp h8 hh => ⟨_, exec_tokenArrive_data hhead he, ?stray⟩⟩
    case eos =>
      rw [ctx_updCtx _ c t h _ (hctx_popPort hctx), ctx_popPort hctx]
      exact ⟨port_updPort .., by rw [updPort_eos, KMap.lookD_alter_same], updPort_store ..⟩
    case operand =>
      have hfull : s.isFull c t x = false := by simpa [State.isFull] using hroom
      refine ⟨_, operandEntry slot side a.tok (s.cycle c) s.nextId, exec_tokenArrive_data hhead he, ?_⟩
      rw [hfull, ctx_putHead_into hctx (takeHead_plain hp hl hb hr hta hc hok)]
      exact ⟨port_updPort .., updPort_store .., rfl, rfl, rfl, rfl⟩
    case stray =>
      subst hh
      obtain ⟨n, htile⟩ := putHead_stray a (s.isFull c t (s.ctx c t false)) hp h8
      have hmain := congrArg (Tile.ctx · false) htile
      rw [← State.ctx] at hmain
      rw [htile, hmain]
      exact ⟨rfl, port_updPort .., updPort_store ..⟩
  case swap =>
    intro hs hf he hd hacc hk
    refine ⟨fun hl hm => ⟨_, exec_tileEosSwap_swaps hs hf he hd hacc hk hl hm, ?_⟩, fun hl =>
      ⟨_, exec_tileEosSwap_strays hs hf he hd hacc hk hl, ?_⟩⟩
    · rw [State.tile_updTile, if_pos ⟨rfl, rfl⟩]
      exact ⟨rfl, rfl, rfl, rfl⟩
    · obtain ⟨site, n, htile⟩ := strayAtEos_tile s c t
      rw [htile]
      exact ⟨rfl, rfl, hs⟩
  case more =>
    intro hc hr hm
    refine ⟨_, exec_rowStep_more hc hr hm, ?_⟩
    rw [updMx_tile]
    refine ⟨?_, Matrix.step_rem _ row, Matrix.step_armed _ row, rfl, fun hn q j hj hq => Matrix.step_entry _ row hn hj hq⟩
    exact (Matrix.step_rows _ row).trans (by rw [hr]; rfl)
  case last =>
    intro hc hr hm
    refine ⟨_, exec_rowStep_last hc hr hm, ?_⟩
    rw [sectionDone_mx, updMx_tile, updMx_tile]
    exact ⟨rfl, (Matrix.step_rem _ row).trans (by rw [hm]), (Matrix.step_rows _ row).trans (by rw [hr]; rfl)⟩

end Sys2Proof.Machine

/-! PROOFS. Decoding and encoding (R74 to R82): each arm of the opcode map reads back what the encoder writes for it, and so
the decoder reads back every instruction that has an encoding. -/

namespace Sys2Proof

/-! ## The checks of the decoder -/

@[simp] theorem ok_bind {ε α β : Type} (a : α) (k : α → Except ε β) : (Except.ok a >>= k) = k a := rfl

@[simp] theorem pure_eq_ok {ε α : Type} (a : α) : (pure a : Except ε α) = .ok a := rfl

@[simp] theorem need_true (e : DecodeError) : need e true = .ok () := rfl

@[simp] theorem orErr_some {α : Type} (e : DecodeError) (a : α) : orErr e (some a) = .ok a := rfl

@[simp] theorem md0_zero : md0 0#2 = .ok () := rfl

@[simp] theorem lit0_zero : lit0 0#32 = .ok () := rfl

/-- A field that must be zero passes where it is. -/
@[simp] theorem zeroBits_eq (l : BitVec 32) (lo n : Nat) : zeroBits l lo n = need .modifier (decide (litBits l lo n = 0)) := rfl

/-- A one-bit field is set exactly where the bit that it encodes is. -/
@[simp] theorem litFlag_eq (l : BitVec 32) (i : Nat) : litFlag l i = decide (litBits l i 1 = 1#1) := rfl

@[simp] theorem intLit_bits_zero (x : IntLit) : intLit (x.bits 0#2) = .ok x := intLit_bits x

@[simp] theorem Route1.unary_full (r : Route1) : r.full.unary = .ok r := rfl

@[simp] theorem Route2.fixed_full (r : Route2) (ta : TagAction) : (r.full ta).fixed ta = .ok r := by
  simp [Route.fixed, Route2.full]

theorem Lane.code_eq_three {w : Lane} : w.code = 3#2 ↔ w = .w8 := by cases w <;> decide

theorem Lane.code_wide {w : Lane} : (w.code = 0#2 ∨ w.code = 1#2) ↔ w = .w64 ∨ w = .w32 := by cases w <;> decide

theorem Size.code_eq_one {n : Size} : n.code = 1#2 ↔ n = .s4 := by cases n <;> decide

theorem Size.code_long {n : Size} : (n.code = 0#2 ∨ n.code = 1#2) ↔ n = .s8 ∨ n = .s4 := by cases n <;> decide

theorem LitKind.code_eq_three {k : LitKind} : k.code = 3#2 ↔ k = .bf16 := by cases k <;> decide

/-- MD of an entry whose modifier is one flag. -/
@[simp] theorem flagMd_false : 0#1 ++ bit1 false = 0#2 := rfl

/-- MD of an entry whose modifier is one flag. -/
@[simp] theorem flagMd_true : 0#1 ++ bit1 true = 1#2 := rfl

/-! ## The arms of the opcode map

Each arm is a chain of checks on fields of the literal, and the laws of these fields (Laws/Decode.lean, Laws/Literals.lean) say
what each reads in the literal that the encoder writes. An arm whose entry restricts its fields has the restriction as a
hypothesis. -/

section Arms
variable (h : Route) (r : Route1) (q : Route2)

/-! ### Routing and the live-value store -/

theorem decNop_reads (sa sb : Src) (ta : TagAction) : decNop ⟨sa, sb, .discard, .discard, ta⟩ 0 0 = .ok (.nop sa sb ta) := rfl

theorem decMov_reads : decMov h 0 0 = .ok (.mov h) := rfl

theorem decLit_reads (k : LitKind) (v : BitVec 32) (hv : k ≠ .bf16 ∨ v.extractLsb' 16 16 = 0#16) :
    decLit r.full k.code v = .ok (.lit r k v) := by
  have hb : (!decide (k.code = 3#2) || decide (litBits v 16 16 = 0#16)) = true := by simpa [LitKind.code_eq_three] using hv
  simp [decLit, hb]

theorem decSel_reads : decSel h 0 0 = .ok (.sel h) := rfl

theorem decGate_reads (b : Bool) : decGate h 0 (0#31 ++ bit1 b) = .ok (.gate h b) := by simp [decGate]

theorem decSteer_reads (b : Bool) : decSteer h 0 (0#31 ++ bit1 b) = .ok (.steer h b) := by simp [decSteer]

theorem decPurge_reads (x : PurgeSide) (n : BitVec 5) :
    decPurge r.full 0 (0#25 ++ x.code ++ n) = .ok (.purge r x n) := by simp [decPurge]

theorem decPack_reads (w : Lane) (b c : Bool) (hw : w ≠ .w8) :
    decPack h w.code (bit1 b ++ 0#27 ++ bit1 c ++ 0#3) = .ok (.pack h w b c) := by
  simp [decPack, Lane.code_eq_three, hw]

theorem decFmts_reads (f : Fmt) : decFmts r.full 0 (0#29 ++ f.code) = .ok (.fmts r f) := by simp [decFmts]

theorem decLin_reads (k : Route1 → LinFmt → LvsLit → Instr) (f : LinFmt) (l : LvsLit) :
    decLin k r.full f.code l.bits = .ok (k r f l) := by simp [decLin]

theorem decLout_reads (l : LvsLit) : decLout r.full 0 l.bits = .ok (.lout r l) := by simp [decLout]

theorem decLoutx_reads (l : LvsLit) : decLoutx h 0 l.bits = .ok (.loutx h l) := by simp [decLoutx]

theorem decSreg_reads (c : Bool) (s : SReg) (hc : c = false ∨ s = .fpflags) :
    decSreg r.full (0#1 ++ bit1 c) s.code = .ok (.sreg r c s) := by
  rcases hc with rfl | rfl
  · simp [decSreg]
  · cases c <;> simp [decSreg]

/-! ### Integer instructions -/

theorem decInt2_reads (k : Route → Lane → IntLit → Instr) (w : Lane) (l : IntLit) :
    decInt2 k h w.code (l.bits 0) = .ok (k h w l) := by simp [decInt2]

theorem decInt1_reads (k : Route1 → Lane → Bool → Instr) (w : Lane) (b : Bool) :
    decInt1 k r.full w.code (bit1 b ++ 0#31) = .ok (k r w b) := by simp [decInt1]

theorem decMad_reads (w : Lane) (n : BitVec 2) : decMad h w.code (0#30 ++ n) = .ok (.mad h w n) := by simp [decMad]

theorem decBfx_reads (w : Lane) (l : IntLit) (hw : w = .w64 ∨ w = .w32) :
    decBfx h w.code (l.bits 0) = .ok (.bfx h w l) := by simp [decBfx, Lane.code_wide, hw]

theorem decBfi_reads (w : Lane) (n : BitVec 2) (hw : w = .w64 ∨ w = .w32) :
    decBfi h w.code (0#30 ++ n) = .ok (.bfi h w n) := by simp [decBfi, Lane.code_wide, hw]

theorem decCmp_reads (w : Lane) (c : Cond) (l : IntLit) : decCmp h w.code (l.bits c.code) = .ok (.cmp h w c l) := by
  simp [decCmp]

theorem decLea_reads (l : IntLit) : decLea h 0 (l.bits 0) = .ok (.lea h l) := by simp [decLea]

theorem decAdds_reads (w : Lane) (l : IntLit) :
    decAdds h 0 (l.bits w.code) = .ok (.adds h w l) ∧ decAdds h 3 (l.bits w.code) = .ok (.subs h w l) := by
  simp [decAdds]

/-! ### Floating point -/

theorem decFloat2_reads (k : Route → FElem → FloatCtl → Instr) (f : FElem) (c : FloatCtl) :
    decFloat2 k h f.code (0#28 ++ c.bits) = .ok (k h f c) := by simp [decFloat2]

theorem decFloat2z_reads (k : Route → FElem → Instr) (f : FElem) : decFloat2z k h f.code 0 = .ok (k h f) := by
  simp [decFloat2z]

theorem decFloat1_reads (k : Route1 → FElem → FloatCtl → Instr) (f : FElem) (c : FloatCtl) :
    decFloat1 k r.full f.code (0#28 ++ c.bits) = .ok (k r f c) := by simp [decFloat1]

theorem decFloat1z_reads (k : Route1 → FElem → Instr) (f : FElem) : decFloat1z k r.full f.code 0 = .ok (k r f) := by
  simp [decFloat1z]

theorem decFfma_reads (f : FElem) (n : BitVec 2) : decFfma h f.code (0#30 ++ n) = .ok (.ffma h f n) := by simp [decFfma]

theorem decFcmp_reads (f : FElem) (c : Cond) : decFcmp h f.code (0#30 ++ c.code) = .ok (.fcmp h f c) := by simp [decFcmp]

theorem decFclass_reads (f : FClassElem) : decFclass r.full f.code 0 = .ok (.fclass r f) := by simp [decFclass]

theorem decFdot_reads (k : Route → FElem4 → FloatCtl → Instr) (f : FElem4) (c : FloatCtl) (hc : c.rnd ≠ .rs) :
    decFdot k h f.code (0#28 ++ c.bits) = .ok (k h f c) := by simp [decFdot, hc]

theorem decCvt_reads (k : Route → CvtLit → Instr) (l : CvtLit) : decCvt k h 0 l.bits = .ok (k h l) := by simp [decCvt]

theorem decQpack_reads (f : FElem) (t : BitVec 2) (x : Rnd) :
    decQpack ⟨r.sa, .zero, r.d0, r.d1, .whole⟩ f.code (0#24 ++ t ++ 0#3 ++ x.code) = .ok (.qpack r f t x) := by
  simp [decQpack, Route.burst]

theorem decQunpk_reads (f : FElem) (n : BitVec 2) (j : BitVec 4) (hn : f = .bf16 ∨ n = 0#2) :
    decQunpk ⟨r.sa, .zero, r.d0, r.d1, .whole⟩ f.code (0#22 ++ n ++ j ++ 0#4) = .ok (.qunpk r f n j) := by
  have hb : (decide (f = .bf16) || decide (n = 0#2)) = true := by simpa using hn
  simp [decQunpk, Route.burst, hb]

/-! ### Memory -/

theorem decLd_reads (n : Size) (f : Fmt) (s acq : Bool) (m : MemCtl) (hf : rfmtOk n f s = true) :
    decLd h n.code (memLit (loadTop 0 f s) (loadOrdBits acq) m) = .ok (.ld h n f s acq m) := by simp [decLd, hf]

theorem decLl_reads (n : Size) (f : Fmt) (s acq : Bool) (m : MemCtl) (hf : rfmtOk n f s = true) :
    decLl h n.code (memLit (loadTop 0 f s) (loadOrdBits acq) m) = .ok (.ll h n f s acq m) := by simp [decLl, hf]

theorem decLdf_reads (n : Size) (t : BitVec 4) (f : Fmt) (s acq : Bool) (m : MemCtl) (hn : n = .s8 ∨ n = .s4)
    (hf : rfmtOk n f s = true) : decLdf h n.code (memLit (loadTop t f s) (loadOrdBits acq) m) = .ok (.ldf h n t f s acq m) := by
  simp [decLdf, Size.code_long, hn, hf]

theorem decLds_reads (f : Fmt) (acq : Bool) (m : MemCtl) (hq : f ≠ .q4) (ha : f ≠ .a36) :
    decLds h 0 (memLit (loadTop 0 f false) (loadOrdBits acq) m) = .ok (.lds h f acq m) := by simp [decLds, hq, ha]

theorem decLdb_reads (n : BitVec 4) (p acq : Bool) (m : MemCtl) (hn : n.toNat ≤ 13) :
    decLdb h 0 (memLit (n ++ 0#3 ++ bit1 p) (loadOrdBits acq) m) = .ok (.ldb h n p acq m) := by simp [decLdb, hn]

theorem decSt_reads (n : Size) (rel : Bool) (m : MemCtl) :
    decSt h n.code (memLit 0 (storeOrdBits rel) m) = .ok (.st h n rel m) := by simp [decSt]

theorem decStb_reads (d : BitVec 3) (p rel : Bool) (m : MemCtl) (hd : p = true ∨ d = 0#3) :
    decStb (q.full .whole) 0 (memLit (0#4 ++ d ++ bit1 p) (storeOrdBits rel) m) = .ok (.stb q d p rel m) := by
  have hb : (p || decide (d = 0#3)) = true := by simpa using hd
  simp [decStb, hb]

theorem decStf_reads (k : Route → Size → Bool → MemCtl → Instr) (n : Size) (rel : Bool) (m : MemCtl) (hn : n = .s8 ∨ n = .s4) :
    decStf k h n.code (memLit 0 (storeOrdBits rel) m) = .ok (k h n rel m) := by simp [decStf, Size.code_long, hn]

theorem decPref_reads (x : PrefLevel) (m : MemCtl) :
    decPref h 0 (memLit (0#4 ++ x.code ++ 0#2) 0 m) = .ok (.pref h x m) := by simp [decPref]

theorem decAtom_reads (n : Size) (o : AtomOp) (ord : Ord3) (m : MemCtl) (hn : o ≠ .fadd ∨ n = .s4) :
    decAtom h n.code (memLit (0#2 ++ o.code ++ 0#2) ord.code m) = .ok (.atom h n o ord m) := by
  have hb : (!decide (o = .fadd) || decide (n.code = 1#2)) = true := by simpa [Size.code_eq_one] using hn
  simp [decAtom, hb]

theorem decCas_reads (n : Size) (x : BitVec 2) (ord : Ord3) (m : MemCtl) :
    decCas h n.code (memLit (0#6 ++ x) ord.code m) = .ok (.cas h n x ord m) := by simp [decCas]

theorem decSc_reads (n : Size) (rel : Bool) (m : MemCtl) :
    decSc h n.code (memLit 0 (storeOrdBits rel) m) = .ok (.sc h n rel m) := by simp [decSc]

theorem decFence_reads (k : FenceKind) (s : Scope) : decFence h k.code (0#11 ++ s.code ++ 0#18) = .ok (.fence h k s) := by
  simp [decFence]

theorem decClrp_reads (cp rel : Bool) (m : MemCtl) :
    decClrp h 0 (memLit (0#7 ++ bit1 cp) (storeOrdBits rel) m) = .ok (.clrp h cp rel m) := by simp [decClrp]

theorem decCopy_reads (m : MemCtl) : decCopy r.full 0 (memLit 0 0 m) = .ok (.copy r m) := by simp [decCopy]

theorem decWaitt_reads (sa : Src) (d0 : Dst) (n : BitVec 7) :
    decWaitt ⟨sa, .none, d0, .discard, .unary⟩ 0 (n ++ 0#25) = .ok (.waitt sa d0 n) := by simp [decWaitt, Route.unary]

theorem decSts_reads (rel : Bool) (m : MemCtl) :
    decSts (q.full .whole) 0 (memLit 0 (storeOrdBits rel) m) = .ok (.sts q rel m) := by simp [decSts]

/-! ### Control -/

theorem decBr_reads (sa sb : Src) (t f : BitVec 8) :
    decBr (dealerRoute sa sb .preda) 0 (0#16 ++ t ++ f) = .ok (.br sa sb t f) := by
  simp [decBr, dealerRoute, Route.fixed, Route.toDealer]

theorem decJmp_reads (sa : Src) (b : BitVec 8) : decJmp (dealerRoute sa .none .unary) 0 (0#24 ++ b) = .ok (.jmp sa b) := by
  simp [decJmp, dealerRoute, Route.unary, Route.toDealer]

theorem decJmpi_reads (sa : Src) : decJmpi (dealerRoute sa .none .unary) 0 0 = .ok (.jmpi sa) := rfl

theorem decExit_reads (sa : Src) : decExit (dealerRoute sa .none .unary) 0 0 = .ok (.exit sa) := rfl

theorem decBarrier_reads (k : Route1 → BitVec 5 → Instr) (n : BitVec 5) (hn : n.toNat < 24) :
    decBarrier k r.full 0 (0#27 ++ n) = .ok (k r n) := by simp [decBarrier, hn]

theorem decPlain1_reads (k : Route1 → Instr) : decPlain1 k r.full 0 0 = .ok (k r) := rfl

theorem decSleep_reads (b : Bool) : decSleep r.full 0 (0#31 ++ bit1 b) = .ok (.sleep r b) := by simp [decSleep]

theorem decRecruit_reads (n : BitVec 7) (o : FoldOp) (b : BitVec 8) :
    decRecruit (q.full .plain) 0 (0#3 ++ n ++ o.code ++ b ++ 0#12) = .ok (.recruit q n o b) := by simp [decRecruit]

theorem decHjoin_reads (n : BitVec 7) : decHjoin r.full 0 (0#3 ++ n ++ 0#22) = .ok (.hjoin r n) := by simp [decHjoin]

theorem decHred_reads (b : Bool) : decHred r.full (0#1 ++ bit1 b) 0 = .ok (.hred r b) := by
  cases b <;> simp [decHred]

theorem decCode_reads (k : Src → BitVec 16 → Instr) (sa : Src) (c : BitVec 16) :
    decCode k ⟨sa, .none, .discard, .discard, .unary⟩ 0 (0#16 ++ c) = .ok (k sa c) := by simp [decCode, Route.unary]

theorem decTrprep_reads (sa sb : Src) (ta : TagAction) (k : RepairKind) :
    decTrprep ⟨sa, sb, .discard, .discard, ta⟩ 0 (0#30 ++ k.code) = .ok (.trprep sa sb ta k) := by simp [decTrprep]

theorem decTrret_reads (a : BitVec 4) (b : BitVec 8) : decTrret r.full 0 (0#20 ++ a ++ b) = .ok (.trret r a b) := by
  simp [decTrret]

/-! ### Matrix sections, reductions and keys -/

theorem decMma_reads (sa sb : Src) (md n : BitVec 2) :
    decMma ⟨sa, sb, .discard, .discard, .stickb⟩ md (0#30 ++ n) = .ok (.mma sa sb md n) := by simp [decMma]

theorem decMmarm_reads (c : Bool) (n : BitVec 4) (w b : BitVec 8) (hb : b.toNat + w.toNat + 1 ≤ 256) :
    decMmarm r.full 0 (0#1 ++ bit1 c ++ n ++ w ++ b ++ 0#10) = .ok (.mmarm r c n w b) := by simp [decMmarm, hb]

theorem decAccclr_reads (c : Bool) (n : BitVec 8) : decAccclr r.full 0 (0#23 ++ bit1 c ++ n) = .ok (.accclr r c n) := by
  simp [decAccclr]

theorem decAccdr_reads (o : AccOut) (r3 r2 : Dst) :
    decAccdr h 0 (0#20 ++ o.code ++ r3.code ++ r2.code) = .ok (.accdr h o r3 r2) := by simp [decAccdr]

theorem decRed_reads (k : Route → BitVec 2 → RedLit → Instr) (md : BitVec 2) (l : RedLit) :
    decRed k h md l.bits = .ok (k h md l) := by simp [decRed]

theorem decBkt_reads (m : BktMode) (b : Bool) (n : BitVec 5) :
    decBkt (q.full .stickb) 0 (0#24 ++ m.code ++ bit1 b ++ n) = .ok (.bkt q m b n) := by simp [decBkt]

theorem decKeys_reads (k : Route → Bool → Bool → Bool → Instr) (a b c : Bool) :
    decKeys k h (0#1 ++ bit1 a) (0#30 ++ bit1 b ++ bit1 c) = .ok (k h a b c) := by
  cases a <;> simp [decKeys]

/-! ### System -/

theorem decCfginv_reads (s : InvScope) : decCfginv r.full 0 (0#30 ++ s.code) = .ok (.cfginv r s) := by simp [decCfginv]

theorem decGtime_reads (b : Bool) : decGtime r.full 0 (0#31 ++ bit1 b) = .ok (.gtime r b) := by simp [decGtime]

theorem decPmark_reads (c : BitVec 16) : decPmark r.full 0 (0#16 ++ c) = .ok (.pmark r c) := by simp [decPmark]

end Arms

/-! ## The opcodes without an instruction (R82) -/

/-- An opcode that Table 4.6 leaves unassigned, and one of the emulation space, stands outside the opcode map. -/
theorem decodeOp_outside {op : BitVec 8} (h : Instr.encodable.unassigned op.toNat = true ∨ 0xF4 ≤ op.toNat) :
    decodeOp op = if op.toNat < 0xF0 then decFree (.unassignedOpcode op) else decFree (.emulationOpcode op) := by
  unfold decodeOp
  split
  case h_122 => rfl
  all_goals next heq => rw [heq] at h; exact absurd h (by decide)

/-! ## The round trip -/

/-- The word of NOP is zero for the empty slot alone (R74). -/
theorem encWord_nop_ne_zero {sa sb : Src} {ta : TagAction} (h : (sa ≠ .n0 ∨ sb ≠ .n0) ∨ ta ≠ .plain) :
    encWord 0 ⟨sa, sb, .discard, .discard, ta⟩ 0 ≠ 0 := by
  intro hz
  have hh := head_encWord 0 ⟨sa, sb, .discard, .discard, ta⟩ 0
  rw [hz, show (RawWord.ofWord 0).head = .ok ⟨.n0, .n0, .discard, .discard, .plain⟩ from rfl] at hh
  obtain ⟨rfl, rfl, rfl⟩ : sa = .n0 ∧ sb = .n0 ∧ ta = .plain := by cases hh; exact ⟨rfl, rfl, rfl⟩
  simp at h

/-- An instruction has an encoding, and the decoder reads it back. -/
def Instr.ReadsBack (i : Instr) : Prop := ∃ w l, encode i = some (w, l) ∧ decode w l = .ok i

/-- An instruction whose word is not zero reads back where the arm of its opcode does. -/
theorem Instr.readsBack_of_word {i : Instr} {op : BitVec 8} {h : Route} {md : BitVec 2} {l : BitVec 32}
    (he : encode i = enc op h md l) (hz : encWord op h md ≠ 0) (hd : decodeOp op h md l = .ok i) : i.ReadsBack :=
  ⟨_, l, he, (decode_encWord op h md l hz).trans hd⟩

/-- An instruction with an opcode other than 0 reads back where the arm of its opcode does. -/
theorem Instr.readsBack_of_arm {i : Instr} {op : BitVec 8} {h : Route} {md : BitVec 2} {l : BitVec 32}
    (he : encode i = enc op h md l) (hd : decodeOp op h md l = .ok i) (ho : op ≠ 0 := by decide) : i.ReadsBack :=
  readsBack_of_word he (encWord_ne_zero op h md ho) hd

theorem Instr.readsBack_unassigned {op : BitVec 8} (r : Route) (md : BitVec 2) (l : BitVec 32) (hl : op.toNat < 0xF0)
    (h : Instr.encodable.unassigned op.toNat = true) : (Instr.unassignedOpcode op r md l).ReadsBack :=
  readsBack_of_arm rfl (by rw [decodeOp_outside (.inl h), if_pos hl]; rfl) (by rintro rfl; exact absurd h (by decide))

theorem Instr.readsBack_emulation {op : BitVec 8} (r : Route) (md : BitVec 2) (l : BitVec 32) (h : 0xF4 ≤ op.toNat) :
    (Instr.emulationOpcode op r md l).ReadsBack :=
  readsBack_of_arm rfl (by rw [decodeOp_outside (.inr h), if_neg (by omega)]; rfl) (by rintro rfl; exact absurd h (by decide))

/-- Every instruction with an encoding reads back, by the arm of its opcode; the steps of the other agents have none. -/
theorem Instr.readsBack_of_encodable (i : Instr) (h : i.encodable = true) : i.ReadsBack := by
  cases i with
  | nop sa sb ta => exact readsBack_of_word rfl (encWord_nop_ne_zero (by simpa [encodable] using h)) (decNop_reads sa sb ta)
  | mov r => exact readsBack_of_arm rfl (decMov_reads r)
  | lit r k v => exact readsBack_of_arm rfl (decLit_reads r k v (by simpa [encodable] using h))
  | sel r => exact readsBack_of_arm rfl (decSel_reads r)
  | gate r b => exact readsBack_of_arm rfl (decGate_reads r b)
  | steer r b => exact readsBack_of_arm rfl (decSteer_reads r b)
  | purge r x n => exact readsBack_of_arm rfl (decPurge_reads r x n)
  | pack r w b c => exact readsBack_of_arm rfl (decPack_reads r w b c (by simpa [encodable] using h))
  | fmts r f => exact readsBack_of_arm rfl (decFmts_reads r f)
  | lin r f l | linx r f l | lint r f l => exact readsBack_of_arm rfl (decLin_reads r _ f l)
  | lout r l => exact readsBack_of_arm rfl (decLout_reads r l)
  | loutx r l => exact readsBack_of_arm rfl (decLoutx_reads r l)
  | sreg r c s => exact readsBack_of_arm rfl (decSreg_reads r c s (by simpa [encodable] using h))
  | add r w l | sub r w l | mul r w l | mulh r w l | min r w l | max r w l | and r w l | or r w l | xor r w l | andn r w l
  | shl r w l | shr r w l | sar r w l | rotl r w l => exact readsBack_of_arm rfl (decInt2_reads r _ w l)
  | mad r w n => exact readsBack_of_arm rfl (decMad_reads r w n)
  | abs r w b | popc r w b | clz r w b | ctz r w b | brev r w b =>
    exact readsBack_of_arm rfl (decInt1_reads r _ w b)
  | bfx r w l => exact readsBack_of_arm rfl (decBfx_reads r w l (by simpa [encodable] using h))
  | bfi r w n => exact readsBack_of_arm rfl (decBfi_reads r w n (by simpa [encodable] using h))
  | cmp r w c l => exact readsBack_of_arm rfl (decCmp_reads r w c l)
  | lea r l => exact readsBack_of_arm rfl (decLea_reads r l)
  | adds r w l => exact readsBack_of_arm rfl (decAdds_reads r w l).1
  | subs r w l => exact readsBack_of_arm rfl (decAdds_reads r w l).2
  | fadd r f c | fsub r f c | fmul r f c | fscale r f c => exact readsBack_of_arm rfl (decFloat2_reads r _ f c)
  | ffma r f n => exact readsBack_of_arm rfl (decFfma_reads r f n)
  | fmin r f | fmax r f => exact readsBack_of_arm rfl (decFloat2z_reads r _ f)
  | fabs r f | fneg r f => exact readsBack_of_arm rfl (decFloat1z_reads r _ f)
  | fcmp r f c => exact readsBack_of_arm rfl (decFcmp_reads r f c)
  | fclass r f => exact readsBack_of_arm rfl (decFclass_reads r f)
  | frcp r f c | frsq r f c | fsqrt r f c | fexp2 r f c | flog2 r f c | fsin r f c | fcos r f c | ftanh r f c =>
    exact readsBack_of_arm rfl (decFloat1_reads r _ f c)
  | fdot r f c | fsum r f c => exact readsBack_of_arm rfl (decFdot_reads r _ f c (by simpa [encodable] using h))
  | cvt r l | cvti r l | cvtf r l => exact readsBack_of_arm rfl (decCvt_reads r _ l)
  | qpack r f t x => exact readsBack_of_arm rfl (decQpack_reads r f t x)
  | qunpk r f n j => exact readsBack_of_arm rfl (decQunpk_reads r f n j (by simpa [encodable] using h))
  | ld r n f s acq m => exact readsBack_of_arm rfl (decLd_reads r n f s acq m h)
  | st r n rel m => exact readsBack_of_arm rfl (decSt_reads r n rel m)
  | ldb r n p acq m => exact readsBack_of_arm rfl (decLdb_reads r n p acq m (by simpa [encodable] using h))
  | stb r d p rel m => exact readsBack_of_arm rfl (decStb_reads r d p rel m (by simpa [encodable] using h))
  | ldf r n t f s acq m =>
    obtain ⟨hn, hf⟩ : (n = .s8 ∨ n = .s4) ∧ rfmtOk n f s = true := by simpa [encodable] using h
    exact readsBack_of_arm rfl (decLdf_reads r n t f s acq m hn hf)
  | stf r n rel m | sete r n rel m =>
    exact readsBack_of_arm rfl (decStf_reads r _ n rel m (by simpa [encodable] using h))
  | pref r x m => exact readsBack_of_arm rfl (decPref_reads r x m)
  | atom r n o ord m => exact readsBack_of_arm rfl (decAtom_reads r n o ord m (by simpa [encodable] using h))
  | cas r n x ord m => exact readsBack_of_arm rfl (decCas_reads r n x ord m)
  | ll r n f s acq m => exact readsBack_of_arm rfl (decLl_reads r n f s acq m h)
  | sc r n rel m => exact readsBack_of_arm rfl (decSc_reads r n rel m)
  | fence r k s => exact readsBack_of_arm rfl (decFence_reads r k s)
  | clrp r cp rel m => exact readsBack_of_arm rfl (decClrp_reads r cp rel m)
  | copy r m => exact readsBack_of_arm rfl (decCopy_reads r m)
  | waitt sa d0 n => exact readsBack_of_arm rfl (decWaitt_reads sa d0 n)
  | lds r f acq m =>
    obtain ⟨hq, ha⟩ : f ≠ .q4 ∧ f ≠ .a36 := by simpa [encodable] using h
    exact readsBack_of_arm rfl (decLds_reads r f acq m hq ha)
  | sts r rel m => exact readsBack_of_arm rfl (decSts_reads r rel m)
  | br sa sb t f => exact readsBack_of_arm rfl (decBr_reads sa sb t f)
  | jmp sa b => exact readsBack_of_arm rfl (decJmp_reads sa b)
  | jmpi sa => exact readsBack_of_arm rfl (decJmpi_reads sa)
  | exit sa => exact readsBack_of_arm rfl (decExit_reads sa)
  | bar r n | bara r n | barw r n =>
    exact readsBack_of_arm rfl (decBarrier_reads r _ n (by simpa [encodable] using h))
  | yield r | hend r | waitly r | lyrel r | accrd r | eosi r => exact readsBack_of_arm rfl (decPlain1_reads r _)
  | sleep r b => exact readsBack_of_arm rfl (decSleep_reads r b)
  | recruit r n o b => exact readsBack_of_arm rfl (decRecruit_reads r n o b)
  | hjoin r n => exact readsBack_of_arm rfl (decHjoin_reads r n)
  | hred r b => exact readsBack_of_arm rfl (decHred_reads r b)
  | trap sa c | bkpt sa c => exact readsBack_of_arm rfl (decCode_reads _ sa c)
  | trprep sa sb ta k => exact readsBack_of_arm rfl (decTrprep_reads sa sb ta k)
  | trret r a b => exact readsBack_of_arm rfl (decTrret_reads r a b)
  | mma sa sb md n => exact readsBack_of_arm rfl (decMma_reads sa sb md n)
  | mmarm r c n w b => exact readsBack_of_arm rfl (decMmarm_reads r c n w b (by simpa [encodable] using h))
  | accclr r c n => exact readsBack_of_arm rfl (decAccclr_reads r c n)
  | accdr r o r3 r2 => exact readsBack_of_arm rfl (decAccdr_reads r o r3 r2)
  | red r md l | scan r md l => exact readsBack_of_arm rfl (decRed_reads r _ md l)
  | bkt r m b n => exact readsBack_of_arm rfl (decBkt_reads r m b n)
  | kmerge r a b c | ksel r a b c => exact readsBack_of_arm rfl (decKeys_reads r _ a b c)
  | cfginv r s => exact readsBack_of_arm rfl (decCfginv_reads r s)
  | gtime r b => exact readsBack_of_arm rfl (decGtime_reads r b)
  | pmark r c => exact readsBack_of_arm rfl (decPmark_reads r c)
  | idiv r md l | irem r md l | idivn r md l | iremn r md l => exact readsBack_of_arm rfl rfl
  | unassignedOpcode op r md l =>
    obtain ⟨hl, hu⟩ : op.toNat < 0xF0 ∧ encodable.unassigned op.toNat = true := by simpa [encodable] using h
    exact readsBack_unassigned r md l hl hu
  | emulationOpcode op r md l => exact readsBack_emulation r md l (by simpa [encodable] using h)
  | _ => cases h

/-- Settles O2, by the arm of each opcode. -/
theorem roundTrip : Obligations.RoundTrip := Instr.readsBack_of_encodable

/-- A word and a literal that encode an instruction decode to it. -/
theorem decode_of_encode {i : Instr} {w l : BitVec 32} (he : encode i = some (w, l)) (h : i.encodable = true) :
    decode w l = .ok i := by
  obtain ⟨w', l', he', hd⟩ := roundTrip i h
  obtain ⟨rfl, rfl⟩ : w = w' ∧ l = l' := by simpa [he] using he'
  exact hd

/-- Settles O1: each word and literal is the encoding of its instruction. -/
theorem decodeWords : Obligations.DecodeWords := by
  refine ⟨?_, ?_, ?_, ?_, ?_, ?_, ?_, ?_, ?_, ?_, ?_, ?_, ?_, ?_, ?_, ?_, ?_, ?_, rfl, rfl⟩
  all_goals exact decode_of_encode rfl rfl

end Sys2Proof

/-! PROOFS. Freezing faults (R82, R197, R199, R200): the opcodes whose effect is a freeze, and what a freeze records and leaves
as it is. -/

namespace Sys2Proof.Machine

/-- A firing of an opcode whose effect is a fault takes it with its operand set held (R82, R304). -/
theorem faultFiring_own {s : State} {f : Firing} {r : Route} (fmt : Fmt) (code : Nat) (h : s.Fires f r.ta) :
    faultFiring r fmt code s = .next (s.taken.freezeFiring f r.ta code) := by
  obtain ⟨hf, hd, hp⟩ := h
  rw [faultFiring, withFiring_some _ _ _ hf, fireCases_own _ _ _ _ _ hd hp]

/-- The record of a fault of a firing names the fault and the place of the firing (R200). -/
theorem State.firingRecord_fields (s : State) (f : Firing) (k code kind : Nat) :
    let r := s.firingRecord f k code kind
    r.code = code ∧ r.kind = kind ∧ r.core = some f.site.core ∧ r.slot = some f.site.slot ∧
      r.plane = some (b2n f.site.handler) ∧ r.bits = some f.bits := by
  unfold State.firingRecord State.chargeRecord
  dsimp only
  split <;> exact ⟨rfl, rfl, rfl, rfl, rfl, rfl⟩

section Freeze
variable (s : State) {f : Firing} (ta : TagAction) (code : Nat)

/-- A freezing fault of an active plane holds the operand set in the tile (R199). -/
theorem freezeFiring_frozen (h : f.site.handler = false) :
    ((s.freezeFiring f ta code).tile f.site.core f.site.tile).frozen =
      some { code := code, site := f.site, held := some f, cycle := s.cycle f.site.core } :=
  congrArg Tile.frozen (takeFreeze_tile s f _ code _ _ h)

/-- A freezing fault of an active plane changes its tile and sends one fault token (R197, R199). -/
theorem freezeFiring_eq (h : f.site.handler = false) : ∃ g x, s.freezeFiring f ta code =
    (s.updTile f.site.core f.site.tile g).sendFault f.site.core x ∧ x.code = code ∧ x.kind = .freezing ∧
    x.record = { s.firingRecord f (f.key ta) code 2 with info := 0, tile := some f.site.tile } := by
  simp only [State.freezeFiring, State.takeFreeze, h, Bool.false_eq_true, if_false]
  exact ⟨_, _, rfl, rfl, rfl, rfl⟩

end Freeze

/-- Settles O15: each opcode is a fault of its code; a freeze is a change of the tile and one fault token. -/
theorem freezingFaults : Obligations.FreezingFaults := by
  refine ⟨fun s f r sa op md l code => ⟨fun h => ?_, fun h => ?_⟩, fun s f ta code hh => ?_⟩
  · have emu := faultFiring_own .int codeEMUOP h
    exact ⟨emu, emu, emu, emu, emu, faultFiring_own .int codeILLOP h⟩
  · exact ⟨faultFiring_own (r := sinkRoute sa .none .unary) .int 0x50 h,
      faultFiring_own (r := sinkRoute sa .none .unary) .int 0x51 h⟩
  · refine ⟨⟨_, freezeFiring_frozen s ta code hh, rfl, rfl, rfl⟩, ?_⟩
    obtain ⟨g, x, hu, hcode, hkind, hrec⟩ := freezeFiring_eq s ta code hh
    obtain ⟨rcode, rkind, rcore, rslot, rplane, rbits⟩ := s.firingRecord_fields f (f.key ta) code 2
    rw [hu]
    refine ⟨⟨x, by rw [State.faultNet_sendFault, State.faultNet_updTile], hcode, hkind, ?_⟩, rfl, rfl, fun c k => by
      rw [State.thread_sendFault, State.thread_updTile]⟩
    rw [hrec]
    exact ⟨rcode, rkind, rcore, rfl, rslot, rplane.trans (by rw [hh]; rfl), rbits⟩

end Sys2Proof.Machine

/-! PROOFS. Completions (R91, R146, R149, R168, R169, R312, R342, R375): walks, LDF timeouts, copies and invalidations of the
configuration cache end. -/

namespace Sys2Proof

/-- A list without duplicates names what the list names. -/
theorem mem_of_mem_dedupNat {l : List Nat} {x : Nat} (h : x ∈ dedupNat l) : x ∈ l := by
  refine List.foldlRecOn (motive := fun acc => ∀ y ∈ acc, y ∈ l) l _ (fun _ h => absurd h List.not_mem_nil)
    (fun acc hacc a ha y hy => ?_) x h
  split at hy
  · exact hacc y hy
  · rcases List.mem_append.mp hy with hy | hy
    · exact hacc y hy
    · exact List.mem_singleton.mp hy ▸ ha

theorem KMap.look_mapKV {α β : Type} (m : KMap α) (g : Nat → α → β) (k : Nat) :
    KMap.look (KMap.mapKV m g) k = (KMap.look m k).map (g k) := by
  induction m with
  | nil => rfl
  | cons x r ih =>
    obtain ⟨j, v⟩ := x
    simp only [KMap.mapKV, List.map_cons, KMap.look] at ih ⊢
    split
    · next h => subst h; rfl
    · exact ih

end Sys2Proof

namespace Sys2Proof.Machine

/-! ## Walks (R146, R149) -/

/-- The access of a core under a key goes to the stage g of it. -/
def State.restage (g : Nat × Access → AccessStage) (s : State) (p : Nat × Nat) : State :=
  s.updCore p.1 (fun q => { q with accesses := q.accesses.map (fun e =>
    if e.1 ≠ p.2 then e else (e.1, { e.2 with stage := g e })) })

section Restage
variable (g : Nat × Access → AccessStage)

/-- The access a under key j after those under key k have gone to their stage of g. -/
def restaged (k j : Nat) (a : Access) : Access := if j = k then { a with stage := g (j, a) } else a

theorem State.access_restage (s : State) (p : Nat × Nat) (c k : Nat) : KMap.look ((s.restage g p).core c).accesses k =
    if c = p.1 then (KMap.look (s.core c).accesses k).map (restaged g p.2 k) else KMap.look (s.core c).accesses k := by
  rw [State.restage, State.core_updCore]
  split
  · next hc =>
    have hm : (s.core p.1).accesses.map (fun e => if e.1 ≠ p.2 then e else (e.1, { e.2 with stage := g e })) =
        KMap.mapKV (s.core p.1).accesses (restaged g p.2) :=
      List.map_congr_left fun ⟨j, a⟩ _ => by by_cases he : j = p.2 <;> simp [restaged, he]
    rw [hc, ← KMap.look_mapKV, ← hm]
  · rfl

/-- Of accesses that go on in turn, each that is in the list is at a stage of g in the end, and none is lost. -/
theorem State.access_restage_fold (l : List (Nat × Nat)) {s : State} {c k : Nat} {a : Access}
    (h : KMap.look (s.core c).accesses k = some a) :
    ∃ b, KMap.look ((l.foldl (State.restage g) s).core c).accesses k = some b ∧
      ((∃ y, a.stage = g y) ∨ (c, k) ∈ l → ∃ y, b.stage = g y) := by
  induction l generalizing s a with
  | nil => exact ⟨a, h, fun hs => hs.elim id fun hm => absurd hm List.not_mem_nil⟩
  | cons p l ih =>
    by_cases hp : c = p.1 ∧ k = p.2
    · obtain ⟨hc, hk⟩ := hp
      obtain ⟨b, hb, hs⟩ := ih (s := s.restage g p) (a := { a with stage := g (k, a) })
        (by rw [State.access_restage, if_pos hc, h, hk]; exact congrArg some (if_pos rfl))
      exact ⟨b, hb, fun _ => hs (.inl ⟨_, rfl⟩)⟩
    · have hsame : KMap.look ((s.restage g p).core c).accesses k = some a := by
        rw [State.access_restage, h]
        split
        · next hc => exact congrArg some (if_neg fun hk => hp ⟨hc, hk⟩)
        · rfl
      obtain ⟨b, hb, hs⟩ := ih hsame
      refine ⟨b, hb, fun hq => hs (hq.imp_right fun hm => (List.mem_cons.mp hm).resolve_left ?_)⟩
      rintro rfl
      exact hp ⟨rfl, rfl⟩

theorem State.restage_fold_keeps (l : List (Nat × Nat)) (s : State) :
    (l.foldl (State.restage g) s).mem = s.mem ∧ (l.foldl (State.restage g) s).mmu = s.mmu :=
  ⟨foldl_keep State.mem _ l s fun _ _ => rfl, foldl_keep State.mmu _ l s fun _ _ => rfl⟩

end Restage

/-- The stage of an access whose walk has ended: it is checked again, or raises XLATE at an address of its own. -/
def walkedStage (found : Bool) (first : Nat × Access → Nat) (e : Nat × Access) : AccessStage :=
  if found then .recheck else .xlate (first e)

/-- A leaf held on the port die of a walk and on the cores that waited for it. -/
def State.leafHeld (w : Walk) (s : State) (y : Nat × Nat) : State :=
  (dedupNat (w.waiters.map (·.1))).foldl (fun s c => s.tlbFill w.pd (some c) w.aspace (w.page * 65536) y.1 y.2) s

/-- What the walkers hold when a walk has ended: the other walks, and the upper entries that it has read. -/
def State.walkLeft (s : State) (w : Walk) : State :=
  ({ s with mmu := { s.mmu with walks := s.mmu.walks.filter (fun y => y.id ≠ w.id) } } : State).upperFill w.pd
    (s.walk w.pd w.aspace (w.page * 65536) w.root).1

/-- The state in which a walk has ended, what it has found held. -/
def State.walkEnded (s : State) (w : Walk) : State :=
  (s.walk w.pd w.aspace (w.page * 65536) w.root).2.elim (s.walkLeft w) ((s.walkLeft w).leafHeld w)

theorem State.walkEnded_keeps (s : State) (w : Walk) : (s.walkEnded w).mem = s.mem ∧ (s.walkEnded w).cores = s.cores ∧
    (s.walkEnded w).mmu.walks = s.mmu.walks.filter (fun y => y.id ≠ w.id) := by
  have fill {β : Type} (v : State → β)
      (h : ∀ (t : State) c (y : Nat × Nat), v (t.tlbFill w.pd c w.aspace (w.page * 65536) y.1 y.2) = v t) :
      v (s.walkEnded w) = v (s.walkLeft w) := by
    unfold State.walkEnded
    cases (s.walk w.pd w.aspace (w.page * 65536) w.root).2 with
    | none => rfl
    | some y => exact foldl_keep v _ _ _ fun _ _ => h ..
  exact ⟨fill State.mem fun _ _ _ => rfl, fill State.cores fun _ _ _ => rfl, fill (fun t => t.mmu.walks) fun _ _ _ => rfl⟩

section Walk
variable {s : State} {w : Walk} (hf : s.mmu.walks.find? (fun y => y.id = w.id) = some w) (hw : s.walking w = true)
include hf hw

/-- A walk waits for the coherent copy of an entry that is not at hand. -/
theorem exec_translationWalk_waits {line : Nat} (h : s.walkWait w.pd w.aspace (w.page * 65536) w.root = some line) :
    exec (.translationWalk w.id) s = .next (s.readRequest line) := by
  show execTranslationWalk w.id s = _
  simp only [execTranslationWalk, hf, hw, h, Bool.not_true, Bool.false_eq_true, if_false]

/-- A walk that needs nothing more ends, and the accesses that waited for it go on. -/
theorem exec_translationWalk_ends (h : s.walkWait w.pd w.aspace (w.page * 65536) w.root = none) :
    ∃ first, exec (.translationWalk w.id) s = .next (w.waiters.foldl
      (State.restage (walkedStage (s.walk w.pd w.aspace (w.page * 65536) w.root).2.isSome first)) (s.walkEnded w)) := by
  simp only [show exec (.translationWalk w.id) s = execTranslationWalk w.id s from rfl, execTranslationWalk, hf, hw, h,
    Bool.not_true, Bool.false_eq_true, if_false, State.walkEnded, State.walkLeft]
  obtain ⟨up, _ | ⟨size, leaf⟩⟩ := s.walk w.pd w.aspace (w.page * 65536) w.root
  · exact ⟨_, rfl⟩
  · exact ⟨fun _ => 0, rfl⟩

end Walk

/-! ## LDF timeouts (R342) -/

section Ldf
variable {s : State} {c key t : Nat} {x : Access} {i : Instr} {r : Route} (hl : KMap.look (s.core c).accesses key = some x)
  (hd : decode x.bits.word x.bits.lit = .ok i) (hr : i.route? = some r) (ht : x.deadline = some t)
include hl hd hr ht

/-- An LDF whose time has passed leaves its core and raises LDFTO, where its tokens can leave. -/
theorem exec_ldfTimeout_raises (h : t ≤ s.now c) (hs : s.canSendBoth c x.site.tile x.site.handler r.d0 r.d1 = true) :
    exec (.ldfTimeout c key) s = .next ((s.accessGone c key).accessFault i x.firing r x.id 0x21 (addrOf x.a)) := by
  show execLdfTimeout c key s = _
  simp only [execLdfTimeout, hl, hd, Except.toOption, ht, hr, Option.getD_some, hs, Bool.not_true, Bool.false_eq_true, if_false,
    if_pos h]
  rfl

omit hr in
/-- Before its time an LDF waits, but for a pre-emption. -/
theorem exec_ldfTimeout_waits (h : s.now c < t) (hp : (s.distOf (dieOf c)).preempting = false) :
    exec (.ldfTimeout c key) s = .next s := by
  show execLdfTimeout c key s = _
  simp [execLdfTimeout, hl, hd, Except.toOption, ht, hp, h]

end Ldf

theorem State.look_accessGone (s : State) (c key : Nat) : KMap.look ((s.accessGone c key).core c).accesses key = none := by
  rw [State.accessGone, State.core_updCore, if_pos rfl]
  exact KMap.look_del_same ..

/-! ## Copies (R168, R169, R312, R375) -/

section Copy
variable {s : State} {pd en : Nat} {q : CopyCmd}

section First
variable (hn : (s.engine pd en).queue.find? (fun y => y.copied && !s.copyStopped y) = none)
  (hq : (s.engine pd en).queue.find? (fun y => !y.copied) = some q)
include hn hq

/-- The first command of an engine waits for its handing over. -/
theorem exec_copyComplete_waits (h : q.handed = false) : exec (.copyComplete pd en) s = .next s := by
  show execCopyComplete pd en s = _
  simp [execCopyComplete, hn, hq, h]

/-- Handed over, with every line of its places at hand, it is carried out. -/
theorem exec_copyComplete_copies (h : q.handed = true)
    (hr : (s.copyPlaces pd q).all (fun y => s.readReady (lineOf y.1) && s.agentReady (lineOf y.2) none) = true)
    (hs : (s.copyData pd q).1.copyStopped q = false) :
    exec (.copyComplete pd en) s = .next ((s.copyData pd q).1.copyFinish pd en q (s.copyData pd q).2) := by
  have hlines {f : Nat × Nat → Nat} {p : Nat → Bool} (hf : ∀ y ∈ s.copyPlaces pd q, p (f y) = true) :
      (dedupNat ((s.copyPlaces pd q).map f)).all p = true :=
    List.all_eq_true.mpr fun l hl => by
      obtain ⟨y, hy, rfl⟩ := List.mem_map.mp (mem_of_mem_dedupNat hl)
      exact hf y hy
  have hready := fun y hy => Bool.and_eq_true_iff.mp (List.all_eq_true.mp hr y hy)
  have hsrc := hlines (f := fun y => lineOf y.1) (p := s.readReady) fun y hy => (hready y hy).1
  have hdst := hlines (f := fun y => lineOf y.2) (p := fun l => s.agentReady l none) fun y hy => (hready y hy).2
  show execCopyComplete pd en s = _
  simp only [execCopyComplete, hn, hq, h, hsrc, hdst, hs, Bool.and_self, Bool.not_true, Bool.false_eq_true, if_false]

end First

theorem State.engine_updEngine (s : State) (pd en : Nat) (g : Engine → Engine) :
    (s.updEngine pd en g).engine pd en = g (s.engine pd en) := KMap.lookD_alter_same ..

/-- A command that is copied and names no flag leaves the queue with its status. -/
theorem exec_copyComplete_finishes (hq : (s.engine pd en).queue.find? (fun y => y.copied && !s.copyStopped y) = some q)
    (hf : q.flag = 0) : exec (.copyComplete pd en) s = .next (s.updEngine pd en (fun x =>
      { x with queue := x.queue.filter (fun y => y.count ≠ q.count),
               status := KMap.put x.status (q.count % 1024) (b2n q.failed) })) := by
  show execCopyComplete pd en s = _
  simp only [execCopyComplete, hq, State.copyFinish, hf, if_true]

end Copy

/-! ## Invalidations of the configuration cache (R91) -/

/-- The scope of an invalidation takes in a core. -/
def CfgInv.reaches (v : CfgInv) (d : Nat) : Prop :=
  v.scope = .device ∨ v.scope = .die ∧ dieOf d = dieOf v.core ∨ v.scope = .core ∧ d = v.core

/-- A plane that a core holds after planes were dropped it held before, and it is of another image where the drop was its own. -/
theorem State.mem_dropPlanes {s : State} {i d : Nat} {p : Nat → Bool} {y : Nat × Nat × Nat}
    (h : y ∈ KMap.lookD (s.dropPlanes i p).cfgCache d []) : y ∈ KMap.lookD s.cfgCache d [] ∧ (p d = true → y.1 ≠ i) := by
  rw [State.dropPlanes, KMap.lookD, KMap.look_mapKV] at h
  unfold KMap.lookD
  cases hl : KMap.look s.cfgCache d with
  | none => simp [hl] at h
  | some l =>
    rw [hl, Option.map_some, Option.getD_some] at h
    by_cases hp : p d = true
    · simpa [hp] using h
    · exact ⟨by simpa [hp] using h, fun hd => absurd hd hp⟩

/-- An image is invalidated by a drop of its planes from the cores of the scope. -/
theorem State.invalidateImage_cfgCache (s : State) (v : CfgInv) (i : Nat) : ∃ p : Nat → Bool,
    (s.invalidateImage v i).cfgCache = (s.dropPlanes i p).cfgCache ∧ ∀ d, v.reaches d → p d = true := by
  unfold State.invalidateImage State.dropStores CfgInv.reaches
  cases v.scope with
  | core => exact ⟨_, rfl, by simp⟩
  | die => exact ⟨_, State.updImage_cfgCache .., by simp⟩
  | device => exact ⟨_, State.updImage_cfgCache .., by simp⟩

theorem State.invalidateImage_keeps (s : State) (v : CfgInv) (i : Nat) :
    (s.invalidateImage v i).mem = s.mem ∧ (s.invalidateImage v i).invals = s.invals := by
  unfold State.invalidateImage State.dropStores
  cases v.scope with
  | core => exact ⟨rfl, rfl⟩
  | die => exact ⟨State.updImage_mem .., State.updImage_invals ..⟩
  | device => exact ⟨State.updImage_mem .., State.updImage_invals ..⟩

/-- After a list of images is invalidated, no core of the scope holds a plane of one. -/
theorem State.mem_invalidateImages (v : CfgInv) (l : List Nat) {s : State} {d : Nat} {y : Nat × Nat × Nat}
    (h : y ∈ KMap.lookD (l.foldl (fun s i => s.invalidateImage v i) s).cfgCache d []) :
    y ∈ KMap.lookD s.cfgCache d [] ∧ (v.reaches d → y.1 ∉ l) := by
  induction l generalizing s with
  | nil => exact ⟨h, fun _ => List.not_mem_nil⟩
  | cons i l ih =>
    obtain ⟨hy, hl⟩ := ih h
    obtain ⟨p, hp, hr⟩ := s.invalidateImage_cfgCache v i
    rw [hp] at hy
    obtain ⟨hy, hi⟩ := State.mem_dropPlanes hy
    exact ⟨hy, fun hd hm => (List.mem_cons.mp hm).elim (hi (hr d hd)) (hl hd)⟩

/-- The images that an invalidation names. -/
def State.imagesOf (s : State) (v : CfgInv) : List Nat :=
  (s.images.filter (fun i => i.2.aspace = v.aspace && i.2.va = v.va)).map (·.1)

theorem exec_cfginvComplete_first {s : State} {v : CfgInv} {rest : List CfgInv} (h : s.invals = v :: rest) :
    exec .cfginvComplete s = .next ((s.imagesOf v).foldl (fun s i => s.invalidateImage v i) { s with invals := rest }) := by
  show execCfginvComplete s = _
  rw [execCfginvComplete, h]
  rfl

/-- Settles O44: the equation of each completion, and what the state that it leaves reads. -/
theorem completions : Obligations.Completions := by
  intro s c key t pd en w x i r q v rest
  refine ⟨fun hf hw => ⟨fun line => exec_translationWalk_waits hf hw, fun hn => ?walk⟩, fun hl hd hr ht => ⟨fun h hs => ?ldf,
    exec_ldfTimeout_waits hl hd ht⟩, fun hn hq => ⟨exec_copyComplete_waits hn hq, exec_copyComplete_copies hn hq⟩,
    fun hq hf => ?copied, fun hi => ?cfginv⟩
  case walk =>
    obtain ⟨first, hu⟩ := exec_translationWalk_ends hf hw hn
    obtain ⟨hmem, hcores, hwalks⟩ := s.walkEnded_keeps w
    obtain ⟨fmem, fmmu⟩ := State.restage_fold_keeps (walkedStage (s.walk w.pd w.aspace (w.page * 65536) w.root).2.isSome first)
      w.waiters (s.walkEnded w)
    refine ⟨_, hu, fmem.trans hmem, by rw [fmmu, hwalks], fun p hp a ha => ?_⟩
    rw [State.core, ← hcores, ← State.core] at ha
    obtain ⟨b, hb, hstage⟩ := State.access_restage_fold _ w.waiters ha
    obtain ⟨y, hy⟩ := hstage (.inr hp)
    refine ⟨b, hb, fun hs => ?_, fun hs => ⟨first y, ?_⟩⟩ <;> rw [hy, hs] <;> rfl
  case ldf =>
    exact ⟨s.accessGone c key, exec_ldfTimeout_raises hl hd hr ht h hs, s.look_accessGone c key, rfl,
      s.thread_accessGone c key c⟩
  case copied =>
    refine ⟨_, exec_copyComplete_finishes hq hf, rfl, ?_, ?_⟩ <;> rw [State.engine_updEngine]
    rw [KMap.lookD_put_same]
    rfl
  case cfginv =>
    refine ⟨_, exec_cfginvComplete_first hi, ?_, ?_, fun d img ⟨p, hp, himg, has, hva⟩ hd y hy => ?_⟩
    · exact foldl_keep State.invals _ _ _ fun s i => (s.invalidateImage_keeps v i).2
    · exact foldl_keep State.mem _ _ _ fun s i => (s.invalidateImage_keeps v i).1
    · obtain ⟨-, hnot⟩ := State.mem_invalidateImages v _ hy
      rintro rfl
      exact hnot hd (List.mem_map.mpr ⟨p, List.mem_filter.mpr ⟨hp, by simp [has, hva]⟩, himg⟩)

end Sys2Proof.Machine

/-! PROOFS. Saturating sums and differences (R98, R290): a lane clamped reads as its clamped value, and SAT is the flag of any
lane that was. -/

namespace Sys2Proof

/-- What the decoder reads from a word of opcode 0x38: MD = 0 is the sum, and the lane width stands in the literal. -/
theorem decode_saturating {wd lit : BitVec 32} {i : Instr} (hop : wd.extractLsb' 24 8 = 0x38#8) (hd : decode wd lit = .ok i) :
    ∃ r : Route, i = (if wd.extractLsb' 0 2 = 0#2 then Instr.adds else Instr.subs) r (Lane.ofCode (litBits lit 29 2))
      (IntLit.mk' lit) := by
  have hwd : wd ≠ 0 := by
    rintro rfl
    exact absurd hop (by decide)
  rw [decode, if_neg hwd] at hd
  dsimp only at hd
  cases hh : (RawWord.ofWord wd).head with
  | error e => rw [hh] at hd; cases hd
  | ok r =>
    have harm : decAdds r (wd.extractLsb' 0 2) lit = .ok i := by
      rw [hh] at hd
      change decodeOp (wd.extractLsb' 24 8) r (wd.extractLsb' 0 2) lit = .ok i at hd
      rwa [hop] at hd
    rw [decAdds] at harm
    cases hn : need .modifier (decide (wd.extractLsb' 0 2 = 0#2 ∨ wd.extractLsb' 0 2 = 3#2)) with
    | error e => rw [hn] at harm; cases harm
    | ok u => rw [hn] at harm; cases harm; exact ⟨r, rfl⟩

@[simp] theorem Lane.code_ofCode (c : BitVec 2) : (Lane.ofCode c).code = c := by
  revert c
  decide

theorem IntLit.mk'_signed (l : BitVec 32) : (IntLit.mk' l).signed = l.getLsbD 31 := by
  have hbit : l.extractLsb' 31 1 = BitVec.ofBool (l.getLsbD 31) := by
    ext k hk
    obtain rfl : k = 0 := by omega
    simp
  show decide (l.extractLsb' 31 1 = 1#1) = _
  rw [hbit]
  cases l.getLsbD 31 <;> rfl

end Sys2Proof

namespace Sys2Proof.Machine

/-- A flag that each of several results raises under its own condition is raised where any condition holds. -/
theorem orFlags_flagIf {α : Type} (fl : FpFlags) (p : α → Bool) (l : List α) :
    orFlags (l.map (fun x => flagIf fl (p x))) = flagIf fl (l.any p) := by
  have key : ∀ a : Bool, (l.map (fun x => flagIf fl (p x))).foldl (fun x y => x ||| y) (flagIf fl a) =
      flagIf fl (a || l.any p) := by
    induction l with
    | nil => simp
    | cons x r ih =>
      intro a
      have hor : flagIf fl a ||| flagIf fl (p x) = flagIf fl (a || p x) := by
        cases a <;> cases p x <;> simp [flagIf]
      rw [List.map_cons, List.foldl_cons, hor, ih, List.any_cons, Bool.or_assoc]
  exact key false

/-! ## Clamped lanes (R98) -/

section Clamp
variable {w : Nat} {sg : Bool} {x : Int}

/-- An integer from -n to n - 1, modulo n. -/
theorem emod_of_neg_le_of_lt {n : Int} (hlo : -n ≤ x) (hhi : x < n) : x % n = if x < 0 then x + n else x := by
  split
  · rw [← Int.add_emod_right, Int.emod_eq_of_lt (by omega) (by omega)]
  · exact Int.emod_eq_of_lt (by omega) hhi

/-- An integer in the range of a lane is what the lane reads that holds it. -/
theorem laneInt_intToLane (hw : 0 < w) (hlo : laneMin w sg ≤ x) (hhi : x ≤ laneMax w sg) :
    laneInt w sg (intToLane w x) = x := by
  obtain ⟨k, rfl⟩ : ∃ k, w = k + 1 := ⟨w - 1, by omega⟩
  have hpow : 2 ^ (k + 1) = 2 * 2 ^ k := Nat.pow_succ'
  have hpos := Nat.two_pow_pos k
  simp only [laneMin, laneMax, laneInt, intToLane, Nat.add_sub_cancel, hpow] at *
  generalize 2 ^ k = p at *
  have hmod : x % ((2 * p : Nat) : Int) = if x < 0 then x + (2 * p : Nat) else x := by
    cases sg <;> simp only [if_true, if_false, Bool.false_eq_true] at hlo hhi <;>
      exact emod_of_neg_le_of_lt (by omega) (by omega)
  rw [hmod]
  cases sg
  · simp only [Bool.false_eq_true, if_false, Bool.false_and] at *
    split <;> omega
  · simp only [if_true, Bool.true_and, decide_eq_true_eq] at *
    split <;> split <;> omega

theorem laneMin_le_laneMax (w : Nat) (sg : Bool) : laneMin w sg ≤ laneMax w sg := by
  have h1 := Nat.two_pow_pos (w - 1)
  have h2 := Nat.two_pow_pos w
  cases sg <;> simp only [laneMin, laneMax, if_true, if_false, Bool.false_eq_true] <;> omega

theorem clampLane_value (w : Nat) (sg : Bool) (x : Int) : (clampLane w sg x).1 = max (laneMin w sg) (min (laneMax w sg) x) := by
  have h := laneMin_le_laneMax w sg
  unfold clampLane
  split
  · dsimp only; omega
  · split <;> dsimp only <;> omega

theorem clampLane_clamped (w : Nat) (sg : Bool) (x : Int) :
    (clampLane w sg x).2 = decide (x < laneMin w sg ∨ laneMax w sg < x) := by
  unfold clampLane
  split
  · simp [*]
  · split <;> simp_all

/-- A clamped lane reads as the value clamped to the lane's range. -/
theorem laneInt_clampLane (hw : 0 < w) (sg : Bool) (x : Int) :
    laneInt w sg (intToLane w (clampLane w sg x).1) = max (laneMin w sg) (min (laneMax w sg) x) := by
  have h := laneMin_le_laneMax w sg
  rw [clampLane_value, laneInt_intToLane hw (by omega) (by omega)]

end Clamp

/-! ## The words of ADDS and SUBS (R290) -/

/-- The exact sum or difference of two lanes read under S. -/
def satExact (w : Nat) (sg sub : Bool) (a b : Nat) : Int :=
  if sub then laneInt w sg a - laneInt w sg b else laneInt w sg a + laneInt w sg b

theorem laneSat_eq (w : Nat) (sg sub : Bool) (a b : Nat) :
    laneSat w sg sub a b = (intToLane w (clampLane w sg (satExact w sg sub a b)).1,
      flagIf fSAT (clampLane w sg (satExact w sg sub a b)).2) := rfl

section Words
variable (w : Lane) (sg sub : Bool) (a b : Word)

theorem satWords_lanes : List.zipWith (laneSat w.bits sg sub) (splitLanes w.bits a) (splitLanes w.bits b) =
    (List.range w.count).map (fun j => laneSat w.bits sg sub (lane w.bits a j) (lane w.bits b j)) := by
  simp [splitLanes_eq _ (lane_bits_pos w), lane_fill, List.zipWith_map, List.zipWith_self]

/-- A lane of the result reads as the exact value clamped (R98). -/
theorem laneInt_satWords (j : Nat) (hj : j < w.count) :
    laneInt w.bits sg (lane w.bits (satWords w.bits sg sub a b).1 j) = max (laneMin w.bits sg)
      (min (laneMax w.bits sg) (satExact w.bits sg sub (lane w.bits a j) (lane w.bits b j))) := by
  have hlane : ∀ y : Int, intToLane w.bits y % 2 ^ w.bits = intToLane w.bits y := fun y =>
    Nat.mod_eq_of_lt (by have := Nat.two_pow_pos w.bits; unfold intToLane; omega)
  rw [satWords, satWords_lanes, lane_joinLanes _ _ j (by simpa using hj) (by simp [lane_mul_count])]
  simp only [List.getElem_map, List.getElem_range, laneSat_eq, hlane]
  exact laneInt_clampLane (lane_bits_pos w) sg _

/-- SAT of a word is that of any lane clamped (R98). -/
theorem satWords_flags : (satWords w.bits sg sub a b).2 = flagIf fSAT ((List.range w.count).any (fun j =>
    (clampLane w.bits sg (satExact w.bits sg sub (lane w.bits a j) (lane w.bits b j))).2)) := by
  rw [satWords, satWords_lanes]
  simp only [List.map_map, Function.comp_def, laneSat_eq]
  exact orFlags_flagIf fSAT _ _

end Words

/-- A firing of ADDS or SUBS: each lane reads as its exact value clamped, and SAT is raised where any was. -/
theorem satFiring_completes {s : State} {f : Firing} {r : Route} (w : Lane) (sg sub : Bool) (h : s.Fires f r.ta) (ha : f.Agree) :
    ∃ d : Data, dataFiring r .int (fun _ x => elementwise2 (fun _ => satWords w.bits sg sub) x.tokA x.tokB) s =
        .next (s.yields f r .int d) ∧
      (∀ m j, m < f.subs → j < w.count → laneInt w.bits sg (lane w.bits (subWord d.data m) j) = max (laneMin w.bits sg)
        (min (laneMax w.bits sg) (satExact w.bits sg sub (lane w.bits (f.tokA.sub m) j) (lane w.bits (f.tokB.sub m) j)))) ∧
      d.flags = flagIf fSAT ((upTo f.subs).any (fun m => (List.range w.count).any (fun j =>
        (clampLane w.bits sg (satExact w.bits sg sub (lane w.bits (f.tokA.sub m) j) (lane w.bits (f.tokB.sub m) j))).2))) := by
  obtain ⟨d, hd, hs, hf⟩ := elementwise2_some (fun _ => satWords w.bits sg sub) f ha
  refine ⟨d, dataFiring_some _ _ _ _ _ _ h hd, fun m j hm hj => ?_, ?_⟩
  · rw [hs m hm, laneInt_satWords w sg sub _ _ j hj]
  · simp only [hf, satWords_flags]
    exact orFlags_flagIf fSAT _ _

/-- Settles O13: the arm of opcode 0x38, and the firing of either instruction with its exact value. -/
theorem saturatingAdd : Obligations.SaturatingAdd := by
  refine ⟨fun wd lit i hop hd => ?_, fun s f r w l h ha i g hi => ?_⟩
  · obtain ⟨r, rfl⟩ := decode_saturating hop hd
    exact ⟨r, _, _, Lane.code_ofCode _, IntLit.mk'_signed lit, by split <;> rfl⟩
  intro x lo top
  obtain ⟨sub, hexec, hx⟩ : ∃ sub : Bool,
      exec i s = dataFiring r .int (fun _ y => elementwise2 (fun _ => satWords w.bits l.signed sub) y.tokA y.tokB) s ∧
      ∀ m j, x m j = satExact w.bits l.signed sub (lane w.bits (f.tokA.sub m) j) (lane w.bits (f.tokB.sub m) j) := by
    rcases hi with ⟨rfl, rfl⟩ | ⟨rfl, rfl⟩
    · exact ⟨false, rfl, fun _ _ => rfl⟩
    · exact ⟨true, rfl, fun _ _ => rfl⟩
  have hlo : laneMin w.bits l.signed = lo := by simp [laneMin, lo]
  have hhi : laneMax w.bits l.signed = top := by simp [laneMax, top]
  obtain ⟨d, hd, hlanes, hflags⟩ := satFiring_completes w l.signed sub h ha
  simp only [← hx, hlo, hhi, clampLane_clamped] at hlanes hflags
  refine ⟨d, hexec.trans hd, hlanes, fun ⟨m, j, hm, hj, hc⟩ => ?_, fun hc => ?_⟩
  · rw [hflags, flagIf, if_pos]
    simp only [upTo, List.any_eq_true, List.mem_range, decide_eq_true_eq]
    exact ⟨m, hm, j, hj, hc⟩
  · rw [hflags, flagIf, if_neg]
    simp only [upTo, List.any_eq_true, List.mem_range, decide_eq_true_eq]
    rintro ⟨m, hm, j, hj, hb⟩
    have := hc m j hm hj
    omega

end Sys2Proof.Machine

/-! PROOFS. Float arithmetic (R316 to R318, R320): elementwise on two, three and one operands. -/

namespace Sys2Proof.Machine

/-- The format of an element has its sign in the highest of the element's bits. -/
theorem sign_place (e : FElem) : (FloatFmt.ofTag (felemFmt e)).ebits + (FloatFmt.ofTag (felemFmt e)).fbits = felemBits e - 1 := by
  cases e <;> rfl

theorem elem_lt (e : FElem) (x : Word) (j : Nat) : elem (felemFmt e) x j < 2 ^ felemBits e := by
  cases e
  · exact Nat.mod_lt _ (Nat.two_pow_pos 32)
  · exact lane_lt 16 x j

/-- The highest bit of a number inverted is the number with that bit added, modulo the width. -/
theorem xor_topBit {n x : Nat} (h : x < 2 ^ (n + 1)) : x ^^^ 2 ^ n = (x + 2 ^ n) % 2 ^ (n + 1) := by
  refine Nat.eq_of_testBit_eq fun i => ?_
  rw [Nat.testBit_xor, Nat.testBit_two_pow, Nat.testBit_mod_two_pow, Nat.add_comm x]
  rcases Nat.lt_trichotomy i n with hi | rfl | hi
  · rw [Nat.testBit_two_pow_add_gt hi]
    simp [Nat.ne_of_gt hi, Nat.lt_succ_of_lt hi]
  · simp [Nat.testBit_two_pow_add_eq]
  · have hx : x.testBit i = false := Nat.testBit_lt_two_pow (Nat.lt_of_lt_of_le h (Nat.pow_le_pow_right (by decide) hi))
    simp [hx, Nat.ne_of_lt hi, Nat.not_lt.mpr (Nat.succ_le_of_lt hi)]

/-- The elements of FFMA of one word, each fused by itself. -/
theorem fmaWords_eq (e : FElem) (a b z : Word) : fmaWords e a b z = elemResult (felemFmt e)
    ((List.range (felemFmt e).count).map (fun j =>
      let t := FloatFmt.ofTag (felemFmt e)
      fvFma t {} (t.value (elem (felemFmt e) a j)) (t.value (elem (felemFmt e) b j)) (t.value (elem (felemFmt e) z j)))) := by
  simp [fmaWords, wordElems_felem, List.zip_map', List.zipWith_map, List.zipWith_self]

/-- FFMA completes elementwise (R318). -/
theorem exec_ffma_elems (r : Route) (e : FElem) (q : BitVec 2) {s : State} {f : Firing} (h : s.Fires f r.ta) (ha : f.Agree3) :
    s.Elems f r (.ffma r e q) e (fun m j =>
      let t := FloatFmt.ofTag (felemFmt e)
      fvFma t {} (t.value (elem (felemFmt e) (f.tokA.sub m) j)) (t.value (elem (felemFmt e) (f.tokB.sub m) j))
        (t.value (elem (felemFmt e) (f.tokQ.sub m) j))) := by
  obtain ⟨d, hd, hs, hf⟩ := elementwise3_some (fun _ => fmaWords e) f ha
  exact elems_of_words s f r _ e _ d (dataFiring_some _ _ _ _ _ _ h hd) _ (fun m => fmaWords_eq e _ _ _) hs hf

/-- FABS completes elementwise with the sign bit cleared (R320). -/
theorem exec_fabs_elems (r : Route1) (e : FElem) {s : State} {f : Firing} (h : s.Fires f .unary) :
    s.Elems f r.full (.fabs r e) e (fun m j => (elem (felemFmt e) (f.tokA.sub m) j % 2 ^ (felemBits e - 1), 0)) := by
  have helems := floatFiring1_elems r e ctlRn _ s f (.fabs r e) (show exec (.fabs r e) s = execFabs r e s from rfl) h
  simpa only [sign_place] using helems

/-- FNEG completes elementwise with the sign bit inverted (R320). -/
theorem exec_fneg_elems (r : Route1) (e : FElem) {s : State} {f : Firing} (h : s.Fires f .unary) :
    s.Elems f r.full (.fneg r e) e (fun m j =>
      ((elem (felemFmt e) (f.tokA.sub m) j + 2 ^ (felemBits e - 1)) % 2 ^ felemBits e, 0)) := by
  have helems := floatFiring1_elems r e ctlRn _ s f (.fneg r e) (show exec (.fneg r e) s = execFneg r e s from rfl) h
  have hbits : felemBits e - 1 + 1 = felemBits e := by cases e <;> rfl
  have hxor : ∀ x j, elem (felemFmt e) x j ^^^ 2 ^ (felemBits e - 1) =
      (elem (felemFmt e) x j + 2 ^ (felemBits e - 1)) % 2 ^ felemBits e := fun x j => by
    rw [xor_topBit (by rw [hbits]; exact elem_lt e x j), hbits]
  simpa only [sign_place, hxor] using helems

/-- Settles O22: the instructions of two operands share one form, FFMA has its own, and FABS and FNEG act on the sign bit. -/
theorem floatArithmetic : Obligations.FloatArithmetic := by
  intro s f r r1 e c q t a b z k
  refine ⟨fun h ha => ?_, exec_ffma_elems r e q, fun h => ⟨exec_fabs_elems r1 e h, exec_fneg_elems r1 e h⟩⟩
  have hadd := floatFiring2_elems r e c _ s f (.fadd r e c) (show exec (.fadd r e c) s = execFadd r e c s from rfl) h ha
  have hsub := floatFiring2_elems r e c _ s f (.fsub r e c) (show exec (.fsub r e c) s = execFsub r e c s from rfl) h ha
  have hmul := floatFiring2_elems r e c _ s f (.fmul r e c) (show exec (.fmul r e c) s = execFmul r e c s from rfl) h ha
  have hmin := floatFiring2_elems r e ctlRn _ s f (.fmin r e) (show exec (.fmin r e) s = execFmin r e s from rfl) h ha
  have hmax := floatFiring2_elems r e ctlRn _ s f (.fmax r e) (show exec (.fmax r e) s = execFmax r e s from rfl) h ha
  exact ⟨hadd, hsub, hmul, hmin, hmax⟩

end Sys2Proof.Machine

/-! PROOFS. The elements of tokens and bursts (R67, R114): words, tokens and bursts put together from elements read back as
these elements, each modulo its width. -/

namespace Sys2Proof.Machine

/-! ## Firings of several tokens -/

/-- The tokens of a firing leave, its flags pending in its execution. -/
def State.completes (s : State) (f : Firing) (r : Route) (o : Out) : State :=
  (s.taken.addFlags f.site.core (f.key r.ta) o.flags).emitOut f r o

section Value
variable {s : State} {f : Firing} {r : Route}

/-- A firing whose operands have the shape of its entry sends its tokens. -/
theorem valueFiring_some (fmt : Fmt) (compute : State → Firing → Option Out) {o : Out} (h : s.Fires f r.ta)
    (hc : compute s.taken f = some o) :
    valueFiring r fmt compute s = .next (s.completes f r o) := by
  obtain ⟨hf, hd, hp⟩ := h
  rw [valueFiring, withFiring_some _ _ _ hf, fireCases_own _ _ _ _ _ hd hp, valueEffect, hc, State.completes]

/-- A firing whose operands have not the shape of its entry raises FMTMIS. -/
theorem valueFiring_none (fmt : Fmt) (compute : State → Firing → Option Out) (h : s.Fires f r.ta)
    (hc : compute s.taken f = none) : valueFiring r fmt compute s = .next (s.taken.freezeFiring f r.ta codeFMTMIS) := by
  obtain ⟨hf, hd, hp⟩ := h
  rw [valueFiring, withFiring_some _ _ _ hf, fireCases_own _ _ _ _ _ hd hp, valueEffect, hc]

end Value

/-! ## Words of elements -/

/-- The word that SCAN puts together from elements of a format. -/
def wordOf (fmt : Fmt) (w : Nat) (l : List Nat) : Word := if fmt = .int then joinLanes w l else joinElems fmt l

/-- A word of a format has n elements of b bits, and one put together from n elements reads back as they do. -/
structure WordCode (fmt : Fmt) (w n b : Nat) : Prop where
  length : ∀ x, (wordElems fmt w x).length = n
  reads : ∀ l, l.length = n → wordElems fmt w (wordOf fmt w l) = l.map (· % 2 ^ b)

/-- An integer word is a code of the lanes of its width. -/
theorem wordCode_int (w : Lane) : WordCode .int w.bits w.count w.bits where
  length x := (splitLanes_length w.bits x).trans (lane_fill w)
  reads l hl := by
    refine List.ext_getElem (by simp [wordElems, elemBits, lane_fill, hl]) fun j h1 h2 => ?_
    have hj : j < l.length := by simpa using h2
    refine (splitLanes_getElem w.bits _ j (lane_bits_pos w) h1).trans ?_
    rw [List.getElem_map]
    exact lane_joinLanes w.bits l j hj (by rw [hl, lane_mul_count])

theorem wordOf_felem (e : FElem) (w : Nat) (l : List Nat) : wordOf (felemFmt e) w l = joinElems (felemFmt e) l := by
  cases e <;> rfl

/-- A word of the floating-point class is a code of its elements. -/
theorem wordCode_felem (e : FElem) : WordCode (felemFmt e) 64 (felemFmt e).count (felemBits e) where
  length x := by simp [wordElems_felem]
  reads l hl := by
    rw [wordElems_felem, wordOf_felem]
    refine List.ext_getElem (by simp [hl]) fun j h1 _ => ?_
    rw [List.getElem_map, List.getElem_range, elem_joinElems e l hl j (by simpa using h1), List.getElem_map]

/-! ## Lists cut into runs -/

theorem length_regroup (n k : Nat) (l : List Nat) : (regroup n k l).length = k := by
  induction k generalizing l with
  | zero => rfl
  | succ k ih => simp [regroup, ih]

/-- Runs of n that follow one another in a list are its first part. -/
theorem flatMap_runs {α : Type} (n k : Nat) (l : List α) :
    (List.range k).flatMap (fun i => (l.drop (n * i)).take n) = l.take (n * k) := by
  induction k with
  | zero => simp
  | succ k ih => rw [List.range_succ, List.flatMap_append, ih, Nat.mul_succ, List.take_add]; simp

namespace WordCode
variable {fmt : Fmt} {w n b : Nat} (hc : WordCode fmt w n b)
include hc

/-- Elements put back into words read back. -/
theorem reads_regroup (k : Nat) (l : List Nat) (hl : n * k ≤ l.length) :
    ((regroup n k l).map (wordOf fmt w)).flatMap (wordElems fmt w) = (l.take (n * k)).map (· % 2 ^ b) := by
  induction k generalizing l with
  | zero => simp [regroup]
  | succ k ih =>
    rw [Nat.mul_succ] at hl
    rw [regroup, List.map_cons, List.flatMap_cons, ih _ (by simp; omega), hc.reads _ (by simp; omega), ← List.map_append,
      Nat.mul_succ, Nat.add_comm, List.take_add]

theorem length_flatMap (l : List Word) : (l.flatMap (wordElems fmt w)).length = n * l.length := by
  simp [List.length_flatMap, hc.length, Nat.mul_comm]

end WordCode

/-! ## Tokens -/

theorem tokenElems_cons (fmt : Fmt) (w : Nat) (t : Token) (l : List Token) :
    tokenElems fmt w (t :: l) = t.words.flatMap (wordElems fmt w) ++ tokenElems fmt w l := List.flatMap_cons

theorem length_words (t : Token) : t.words.length = if t.isBeat then 4 else 1 := by
  unfold Token.words
  split <;> rfl

/-- The sub-words of a token are the words that its data is put together from (R114). -/
theorem words_of_data {t : Token} {l : List Word} (hd : t.data = beatOfWords l) (hl : l.length = if t.isBeat then 4 else 1) :
    t.words = l := by
  refine List.ext_getElem (by rw [length_words, hl]) fun m _ h2 => ?_
  unfold Token.words
  split at hl
  · simp only [if_pos ‹t.isBeat = true›, upTo, List.getElem_map, List.getElem_range]
    rw [hd, subWord_beatOfWords l m h2 (by omega)]
  · simp only [if_neg ‹¬t.isBeat = true›, List.getElem_singleton]
    obtain rfl : m = 0 := by omega
    show subWord t.data 0 = _
    rw [hd, subWord_beatOfWords l 0 h2 (by omega)]

end Sys2Proof.Machine

/-! PROOFS. Reductions (R115, R324, R325, R359, R360). -/

namespace Sys2Proof.Machine

/-! ## The inclusive prefix (R360) -/

section Scan
variable {α : Type} (op : α → α → α)

theorem length_scanFrom (x : α) (l : List α) : (scanFrom op x l).length = l.length := by
  induction l generalizing x with
  | nil => rfl
  | cons y r ih => simp [scanFrom, ih]

@[simp] theorem length_scanList (l : List α) : (scanList op l).length = l.length := by
  cases l with
  | nil => rfl
  | cons x r => simp [scanList, length_scanFrom]

variable {op} {p : α → Prop} (hop : ∀ x y, p x → p y → p (op x y))
include hop

theorem scanFrom_keeps {x : α} {l : List α} (hx : p x) (hl : ∀ y ∈ l, p y) : ∀ y ∈ scanFrom op x l, p y := by
  induction l generalizing x with
  | nil => exact fun _ h => absurd h List.not_mem_nil
  | cons y r ih =>
    have hy := hop x y hx (hl y List.mem_cons_self)
    exact List.forall_mem_cons.mpr ⟨hy, ih hy fun z hz => hl z (List.mem_cons_of_mem y hz)⟩

/-- What an operation keeps holds of the whole prefix. -/
theorem scanList_keeps {l : List α} (hl : ∀ y ∈ l, p y) : ∀ y ∈ scanList op l, p y := by
  cases l with
  | nil => exact hl
  | cons x r =>
    obtain ⟨hx, hr⟩ := List.forall_mem_cons.mp hl
    exact List.forall_mem_cons.mpr ⟨hx, scanFrom_keeps hop hx hr⟩

end Scan

/-- An integer operation of Table 17.3 on lanes gives a lane. -/
theorem redInt_lt (op : RedOp) (sg : Bool) {w a b : Nat} (ha : a < 2 ^ w) (hb : b < 2 ^ w) : redInt op sg w a b < 2 ^ w := by
  unfold redInt
  split
  · exact Nat.mod_lt _ (Nat.two_pow_pos w)
  · unfold laneLesser; split <;> assumption
  · unfold laneGreater; split <;> assumption
  · exact Nat.and_lt_two_pow a hb
  · exact Nat.or_lt_two_pow ha hb
  · exact Nat.xor_lt_two_pow ha hb

theorem tokenElems_int_lt (w : Lane) {l : List Token} {x : Nat} (h : x ∈ tokenElems .int w.bits l) : x < 2 ^ w.bits := by
  simp only [tokenElems, wordElems, elemBits, splitLanes_eq _ (lane_bits_pos w), List.mem_flatMap, List.mem_map] at h
  obtain ⟨_, _, y, _, j, _, rfl⟩ := h
  exact lane_lt w.bits y j

/-- The prefix of lanes holds lanes. -/
theorem scanList_redInt_mod (op : RedOp) (sg : Bool) (w : Lane) (toks : List Token) :
    (scanList (redInt op sg w.bits) (tokenElems .int w.bits toks)).map (· % 2 ^ w.bits) =
      scanList (redInt op sg w.bits) (tokenElems .int w.bits toks) := by
  have hlt : ∀ y ∈ scanList (redInt op sg w.bits) (tokenElems .int w.bits toks), y < 2 ^ w.bits :=
    scanList_keeps (fun _ _ => redInt_lt op sg) fun _ => tokenElems_int_lt w
  exact (List.map_congr_left fun y hy => Nat.mod_eq_of_lt (hlt y hy)).trans (List.map_id _)

/-! ## Tokens with their elements replaced (R360) -/

section Replace
variable {fmt : Fmt} {w n b : Nat} {tag : Token} {whole : Bool} {toks : List Token}

theorem isBeat_congr {t u : Token} (h : t.burst = u.burst) : t.isBeat = u.isBeat := by rw [Token.isBeat, h, Token.isBeat]

/-- The mark that a token keeps, or has from the result tag, is its own. -/
theorem kept_burst {t : Token} (h : whole = true ∨ tag.burst = t.burst) : (if whole then t.burst else tag.burst) = t.burst := by
  rcases h with rfl | h
  · rfl
  · rw [h, ite_self]

/-- The shape of the tokens stays. -/
theorem replaceElems_burst (hb : ∀ t ∈ toks, whole = true ∨ tag.burst = t.burst) (l : List Nat) :
    (replaceElems tag whole fmt n w toks l).map (·.burst) = toks.map (·.burst) := by
  induction toks generalizing l with
  | nil => rfl
  | cons t r ih =>
    obtain ⟨ht, hr⟩ := List.forall_mem_cons.mp hb
    rw [replaceElems, List.map_cons, List.map_cons, ih hr]
    exact congrArg (· :: r.map (·.burst)) (kept_burst ht)

/-- As many elements as the tokens hold, put in their places, read back. -/
theorem WordCode.reads_replaceElems (hc : WordCode fmt w n b) (hb : ∀ t ∈ toks, whole = true ∨ tag.burst = t.burst)
    (l : List Nat) (hl : l.length = (tokenElems fmt w toks).length) :
    tokenElems fmt w (replaceElems tag whole fmt n w toks l) = l.map (· % 2 ^ b) := by
  induction toks generalizing l with
  | nil => rw [List.eq_nil_of_length_eq_zero hl]; rfl
  | cons t r ih =>
    obtain ⟨ht, hr⟩ := List.forall_mem_cons.mp hb
    rw [tokenElems_cons, List.length_append, hc.length_flatMap, length_words] at hl
    rw [replaceElems, tokenElems_cons, ih hr _ (by rw [List.length_drop]; omega)]
    rw [words_of_data rfl (by
      rw [List.length_map, length_regroup]
      exact congrArg (fun beat : Bool => if beat then 4 else 1) (isBeat_congr (kept_burst ht)).symm)]
    refine Eq.trans ?_ (congrArg _ (List.take_append_drop (n * if t.isBeat then 4 else 1) l))
    rw [List.map_append]
    exact congrArg (· ++ _) (hc.reads_regroup _ l (by omega))

end Replace

/-! ## The operand of a reduction (R115, R324) -/

section Reduce
variable {s : State} {f : Firing} {r : Route}

/-- A 64-bit token under UNARY, and any operand under another action, is one that a reduction takes. -/
theorem reduceTokens_some (hs : r.ta = .unary → f.tokA.isBeat = false) : reduceTokens r f = some f.a := by
  rw [reduceTokens, if_neg]
  simp only [Bool.and_eq_true, decide_eq_true_eq]
  rintro ⟨hu, hb⟩
  rw [hs hu] at hb
  cases hb

/-- The shapes that SCAN takes are ones that a reduction takes. -/
theorem scan_shape (hs : (r.ta = .unary ∧ f.a = [f.tokA] ∧ f.tokA.isBeat = false) ∨ r.ta = .whole) :
    r.ta = .unary → f.tokA.isBeat = false := fun hu => by
  rcases hs with ⟨-, -, hb⟩ | hw
  · exact hb
  · rw [hu] at hw
    cases hw

theorem reduceTokens_none (hu : r.ta = .unary) (hb : f.tokA.isBeat = true) : reduceTokens r f = none := by
  simp [reduceTokens, hu, hb]

/-- A token of F32 elements holds at least one. -/
theorem tokenElems_f32_ne_nil {l : List Token} (h : l ≠ []) : tokenElems .f32 64 l ≠ [] := by
  cases l with
  | nil => exact absurd rfl h
  | cons t r =>
    intro hnil
    have hc : WordCode .f32 64 1 32 := wordCode_felem .f32
    have hlen := congrArg List.length hnil
    rw [tokenElems_cons, List.length_append, hc.length_flatMap, length_words, List.length_nil] at hlen
    split at hlen <;> omega

/-- The tokens of SCAN keep the marks of A: its only token's under UNARY, each its own under WHOLE. -/
theorem scan_marks (fmt : Fmt) (hs : (r.ta = .unary ∧ f.a = [f.tokA] ∧ f.tokA.isBeat = false) ∨ r.ta = .whole) :
    ∀ t ∈ f.a, decide (r.ta = .whole) = true ∨ (f.resultTag r.ta fmt).burst = t.burst := by
  rcases hs with ⟨hu, ha, -⟩ | hw
  · rw [ha, hu]
    exact fun t ht => .inr (by rw [List.mem_singleton.mp ht]; rfl)
  · exact fun _ _ => .inl (by simp [hw])

/-- The one token that a reduction sends (R115): its value in 64 bits, with its flags. -/
def Firing.reduced (f : Firing) (r : Route) (fmt : Fmt) (x : Nat) (fl : FpFlags) : Out :=
  .both [{ f.resultTag r.ta fmt with data := beatOf (BitVec.ofNat 64 x), burst := .none }] fl

theorem exec_fsum_reduced (e : FElem4) (c : FloatCtl) (h : s.Fires f r.ta) (hs : r.ta = .unary → f.tokA.isBeat = false) :
    let v := floatTree (addF32 (roundCtl c {} 0)) (widenF32 (felem4Fmt e) (tokenElems (felem4Fmt e) 64 f.a))
    exec (.fsum r e c) s = .next (s.completes f r (f.reduced r .f32 v.1 v.2)) := by
  intro v
  show execFsum r e c s = _
  exact valueFiring_some _ _ h (by rw [reduceTokens_some hs, Option.map_some]; rfl)

theorem exec_red_int (md : BitVec 2) {l : RedLit} (h : s.Fires f r.ta) (hs : r.ta = .unary → f.tokA.isBeat = false)
    (hi : l.op.isInt = true) :
    let w := (Lane.ofCode md).bits
    let x := (treeFold (redInt l.op l.signed w) 256 (tokenElems .int w f.a)).getD 0
    exec (.red r md l) s = .next (s.completes f r (f.reduced r .int
      (if l.signed then intToLane 64 (laneInt w true x) else x) 0)) := by
  intro w x
  show execRed r md l s = _
  exact valueFiring_some _ _ h (by rw [redOut, reduceTokens_some hs, Option.map_some, if_pos hi]; rfl)

theorem exec_red_float (md : BitVec 2) {l : RedLit} (h : s.Fires f r.ta) (hs : r.ta = .unary → f.tokA.isBeat = false)
    (hi : l.op.isInt = false) :
    let v := floatTree (redFloat l) (widenF32 (redFmt md) (tokenElems (redFmt md) 64 f.a))
    exec (.red r md l) s = .next (s.completes f r (f.reduced r .f32 v.1 v.2)) := by
  intro v
  show execRed r md l s = _
  exact valueFiring_some _ _ h (by
    rw [redOut, reduceTokens_some hs, Option.map_some, if_neg (by rw [hi]; exact Bool.false_ne_true)]; rfl)

/-- SCAN of an integer operation sends the tokens of A with the lanes of the prefix (R360). -/
theorem exec_scan_int (md : BitVec 2) {l : RedLit} (h : s.Fires f r.ta)
    (hs : (r.ta = .unary ∧ f.a = [f.tokA] ∧ f.tokA.isBeat = false) ∨ r.ta = .whole) (hi : l.op.isInt = true) :
    let w := (Lane.ofCode md).bits
    ∃ toks : List Token, exec (.scan r md l) s = .next (s.completes f r (.both toks)) ∧
      toks.map (·.burst) = f.a.map (·.burst) ∧
      tokenElems .int w toks = scanList (redInt l.op l.signed w) (tokenElems .int w f.a) := by
  intro w
  have hmarks := scan_marks .int hs
  have hc : WordCode .int w (64 / w) w := by rw [lane_fill]; exact wordCode_int _
  refine ⟨replaceElems (f.resultTag r.ta .int) (r.ta = .whole) .int (64 / w) w f.a
    (scanList (redInt l.op l.signed w) (tokenElems .int w f.a)), ?_, replaceElems_burst hmarks _, ?_⟩
  · show execScan r md l s = _
    exact valueFiring_some _ _ h (by rw [scanOut, reduceTokens_some (scan_shape hs), Option.map_some, if_pos hi])
  · rw [hc.reads_replaceElems hmarks _ (length_scanList _ _)]
    exact scanList_redInt_mod l.op l.signed (Lane.ofCode md) f.a

/-- The inclusive prefix of F32 elements, with the flags of each step (R360). -/
def floatScan (l : RedLit) (x : Nat) (xs : List Nat) : List (Nat × FpFlags) :=
  scanList (fun y z => redFloat l y.1 z.1) (canonElem fmtF32 x :: xs.map (fun y => (y, 0)))

/-- SCAN of a float operation sends the tokens of A with the F32 elements of the prefix (R360). -/
theorem exec_scan_float (md : BitVec 2) {l : RedLit} (h : s.Fires f r.ta)
    (hs : (r.ta = .unary ∧ f.a = [f.tokA] ∧ f.tokA.isBeat = false) ∨ r.ta = .whole) (hi : l.op.isInt = false)
    (ha : f.a ≠ []) :
    ∃ (toks : List Token) (x : Nat) (xs : List Nat) (fl : FpFlags), tokenElems .f32 64 f.a = x :: xs ∧
      exec (.scan r md l) s = .next (s.completes f r (.both toks fl)) ∧ toks.map (·.burst) = f.a.map (·.burst) ∧
      tokenElems .f32 64 toks = (floatScan l x xs).map (fun y => y.1 % 2 ^ 32) := by
  have hmarks := scan_marks .f32 hs
  have hc : WordCode .f32 64 1 32 := wordCode_felem .f32
  obtain ⟨x, xs, hx⟩ := List.exists_cons_of_ne_nil (tokenElems_f32_ne_nil ha)
  refine ⟨replaceElems (f.resultTag r.ta .f32) (r.ta = .whole) .f32 1 64 f.a ((floatScan l x xs).map (·.1)), x, xs,
    orFlags ((floatScan l x xs).map (·.2)), hx, ?_, replaceElems_burst hmarks _, ?_⟩
  · show execScan r md l s = _
    exact valueFiring_some _ _ h (by
      rw [scanOut, reduceTokens_some (scan_shape hs), Option.map_some, if_neg (by rw [hi]; exact Bool.false_ne_true), hx]
      rfl)
  · rw [hc.reads_replaceElems hmarks _ (by simp [floatScan, hx]), List.map_map]
    rfl

/-- FDOT of two words or two beats sends the sum of products of their elements (R325). -/
theorem exec_fdot_reduced (e : FElem4) (c : FloatCtl) (h : s.Fires f r.ta) (hab : f.tokA.isBeat = f.tokB.isBeat) :
    let g := FloatFmt.ofTag (felem4Fmt e)
    let v := dotRound fmtF32 (roundCtl c {} 0)
      (List.zip ((tokenElems (felem4Fmt e) 64 [f.tokA]).map g.value) ((tokenElems (felem4Fmt e) 64 [f.tokB]).map g.value)) none
    exec (.fdot r e c) s = .next (s.completes f r (f.reduced r .f32 v.1 v.2)) := by
  intro g v
  show execFdot r e c s = _
  exact valueFiring_some _ _ h (by rw [if_neg (not_not_intro hab)]; rfl)

/-- The reductions refuse a beat under UNARY. -/
theorem exec_reduction_beat (e : FElem4) (c : FloatCtl) (md : BitVec 2) (l : RedLit) (h : s.Fires f r.ta) (hu : r.ta = .unary)
    (hb : f.tokA.isBeat = true) :
    ∀ i ∈ ([.fsum r e c, .red r md l, .scan r md l] : List Instr),
      exec i s = .next (s.taken.freezeFiring f r.ta codeFMTMIS) := by
  have hnone := reduceTokens_none hu hb
  have hsum : execFsum r e c s = _ := valueFiring_none _ _ h (by rw [hnone, Option.map_none])
  have hred : execRed r md l s = _ := valueFiring_none _ _ h (by rw [redOut, hnone, Option.map_none])
  have hscan : execScan r md l s = _ := valueFiring_none _ _ h (by rw [scanOut, hnone, Option.map_none])
  simp only [List.forall_mem_cons]
  exact ⟨hsum, hred, hscan, fun _ hi => absurd hi List.not_mem_nil⟩

/-- FDOT refuses a word beside a beat. -/
theorem exec_fdot_mixed (e : FElem4) (c : FloatCtl) (h : s.Fires f r.ta) (hab : f.tokA.isBeat ≠ f.tokB.isBeat) :
    exec (.fdot r e c) s = .next (s.taken.freezeFiring f r.ta codeFMTMIS) := by
  show execFdot r e c s = _
  exact valueFiring_none _ _ h (if_pos hab)

end Reduce

/-- Settles O24: each instruction's own lemma, with the shape of its operands. -/
theorem reductions : Obligations.Reductions := by
  intro s f r e c md l h out one w shaped
  exact ⟨fun hs => ⟨exec_fsum_reduced e c h hs, exec_red_int md h hs, exec_red_float md h hs⟩,
    fun hs => ⟨exec_scan_int md h hs, exec_scan_float md h hs⟩, exec_fdot_reduced e c h, exec_reduction_beat e c md l h,
    exec_fdot_mixed e c h⟩

end Sys2Proof.Machine

/-! PROOFS. Conversions and Q4 packing (R67, R113, R313, R314, R361, R362). -/

namespace Sys2Proof.Machine

/-! ## Conversions (R313, R314) -/

section Convert
variable {s : State} {f : Firing} {r : Route}

/-- A conversion completes elementwise over the sub-words. -/
theorem cvtFiring_completes (l : CvtLit) (dst : Fmt) (op : CvtLit → StochCtx → Nat → Word → Word → Word × FpFlags)
    (h : s.Fires f r.ta) (ha : f.Agree) :
    ∃ d : Data, cvtFiring r l dst op s = .next (s.yields f r dst d) ∧
      ∀ m, m < f.subs → subWord d.data m = (op l (s.stochCtx f r) m (f.tokA.sub m) (f.tokB.sub m)).1 := by
  obtain ⟨d, hd, hs, -⟩ := elementwise2_some (op l (s.stochCtx f r)) f ha
  exact ⟨d, dataFiring_some _ _ _ _ _ _ h hd, hs⟩

/-- No elementwise result where a 64-bit A meets a beat (R286). -/
theorem elementwise2_none (op : Nat → Word → Word → Word × FpFlags) (ha : ¬f.Agree) :
    elementwise2 op f.tokA f.tokB = none := by
  obtain ⟨hA, hB⟩ : ¬f.tokA.isBeat = true ∧ ¬f.tokB.isBeat = false := not_or.mp ha
  rw [elementwise2, if_neg hA, if_pos (Bool.not_eq_false _ ▸ hB)]

theorem cvtFiring_freezes (l : CvtLit) (dst : Fmt) (op : CvtLit → StochCtx → Nat → Word → Word → Word × FpFlags)
    (h : s.Fires f r.ta) (ha : ¬f.Agree) : cvtFiring r l dst op s = .next (s.taken.freezeFiring f r.ta codeFMTMIS) :=
  dataFiring_none _ _ _ _ _ h (elementwise2_none _ ha)

end Convert

/-! ## Bursts of beats (R67) -/

/-- Every token of a burst of beats is a beat. -/
theorem burstTokens_words (tag : Token) (beats : List Beat) :
    (burstTokens tag beats).map Token.words = beats.map (fun d => (upTo 4).map (subWord d)) := by
  refine List.ext_getElem (by simp [burstTokens]) fun k h1 h2 => ?_
  simp only [burstTokens, List.getElem_map, List.getElem_mapIdx, Token.words]
  rw [if_pos]
  simp only [Token.isBeat, decide_eq_true_eq]
  split
  · exact Burst.noConfusion
  · split <;> exact Burst.noConfusion

/-- The beats of words, four to a beat. -/
def beatsOf (l : List Word) : List Beat := (upTo (l.length / 4)).map (fun k => beatOfWords ((l.drop (4 * k)).take 4))

/-- The sub-words of a beat of four words are these. -/
theorem subWords_beatOfWords {l : List Word} (h : l.length = 4) : (upTo 4).map (subWord (beatOfWords l)) = l := by
  refine List.ext_getElem (by simp [upTo, h]) fun m _ h2 => ?_
  simp only [upTo, List.getElem_map, List.getElem_range]
  exact subWord_beatOfWords l m h2 (by omega)

/-- The words of a burst put together from words, a multiple of four, are these. -/
theorem words_beatsOf {tag : Token} {l : List Word} (h : l.length % 4 = 0) :
    (burstTokens tag (beatsOf l)).flatMap Token.words = l := by
  have hrun : ∀ k ∈ List.range (l.length / 4), (upTo 4).map (subWord (beatOfWords ((l.drop (4 * k)).take 4))) =
      (l.drop (4 * k)).take 4 := fun k hk => by
    have hlt := List.mem_range.mp hk
    exact subWords_beatOfWords (by rw [List.length_take, List.length_drop]; omega)
  have hall := flatMap_runs 4 (l.length / 4) l
  rw [List.take_of_length_le (by omega)] at hall
  rw [List.flatMap_def, burstTokens_words, beatsOf, List.map_map, upTo]
  exact (congrArg List.flatten (List.map_congr_left hrun)).trans hall

/-- Elements put into a burst read back from it. -/
theorem WordCode.reads_burst {fmt : Fmt} {w n b : Nat} (hc : WordCode fmt w n b) (tag : Token) (k : Nat) (l : List Nat)
    (hl : l.length = n * (4 * k)) :
    tokenElems fmt w (burstTokens tag (beatsOf ((regroup n (4 * k) l).map (wordOf fmt w)))) = l.map (· % 2 ^ b) := by
  have hwords := words_beatsOf (tag := tag) (l := (regroup n (4 * k) l).map (wordOf fmt w)) (by simp [length_regroup])
  rw [tokenElems, ← List.flatMap_assoc, hwords, hc.reads_regroup _ _ hl.ge, ← hl, List.take_length]

/-! ## Q4 blocks (R113, R361, R362) -/

/-- Every block of a Q4 burst has 32 codes. -/
theorem q4Blocks_codes {l : List Token} {b : Nat × List Nat} (h : b ∈ q4Blocks l) : b.2.length = 32 := by
  cases l with
  | nil => exact absurd h List.not_mem_nil
  | cons t r =>
    obtain ⟨j, -, rfl⟩ := List.mem_map.mp h
    simp [upTo]

/-- The elements of blocks taken out of a burst, 32 of each. -/
theorem length_q4Elems (g : Nat → Nat → Nat) {l : List (Nat × List Nat)} (h : ∀ b ∈ l, b.2.length = 32) :
    (l.flatMap (fun b => b.2.map (g b.1))).length = l.length * 32 := by
  rw [List.length_flatMap, List.map_congr_left (g := fun _ => 32) fun b hb => by rw [List.length_map, h b hb]]
  simp

section Q4
variable {s : State} {f : Firing}

/-- The route of QPACK and QUNPK, which take a burst. -/
def burstRoute (r : Route1) : Route := ⟨r.sa, .zero, r.d0, r.d1, .whole⟩

/-- The blocks that QPACK makes of the elements of its operand, each with its flags. -/
def qpackBlocks (s : State) (f : Firing) (r : Route1) (e : FElem) (ty : BitVec 2) (rnd : Rnd) :
    List (Nat × List Nat × FpFlags) :=
  let xs := tokenElems (felemFmt e) 64 f.a
  (regroup 32 (xs.length / 32) xs).map (q4Block (.ofTag (felemFmt e)) ty.toNat rnd (s.stochCtx f (burstRoute r)))

theorem exec_qpack_blocks (r : Route1) (e : FElem) (ty : BitVec 2) (rnd : Rnd) (h : s.Fires f .whole)
    (h0 : (tokenElems (felemFmt e) 64 f.a).length ≠ 0) (h32 : (tokenElems (felemFmt e) 64 f.a).length % 32 = 0) :
    let bl := qpackBlocks s f r e ty rnd
    exec (.qpack r e ty rnd) s = .next (s.completes f (burstRoute r) (.both
      (q4Burst (f.resultTag .whole .q4) (bl.map (fun b => (b.1, b.2.1)))) (orFlags (bl.map (·.2.2))))) := by
  show execQpack r e ty rnd s = _
  exact valueFiring_some (r := burstRoute r) _ _ h (if_neg (by simp [h0, h32]))

/-- QPACK sends the Q4 burst of its elements, in blocks of 32 (R361). -/
theorem exec_qpack_burst (r : Route1) (e : FElem) (ty : BitVec 2) (rnd : Rnd) (h : s.Fires f .whole)
    (h0 : (tokenElems (felemFmt e) 64 f.a).length ≠ 0) (h32 : (tokenElems (felemFmt e) 64 f.a).length % 32 = 0) :
    let xs := tokenElems (felemFmt e) 64 f.a
    ∃ fl, exec (.qpack r e ty rnd) s = .next (s.completes f (burstRoute r) (.both
      (q4Burst (f.resultTag .whole .q4) ((regroup 32 (xs.length / 32) xs).map (fun x =>
        let b := q4Block (.ofTag (felemFmt e)) ty.toNat rnd (s.stochCtx f (burstRoute r)) x
        (b.1, b.2.1)))) fl)) := by
  intro xs
  refine ⟨orFlags ((qpackBlocks s f r e ty rnd).map (·.2.2)), (exec_qpack_blocks r e ty rnd h h0 h32).trans ?_⟩
  congr 4
  exact List.map_map

theorem exec_qpack_freezes (r : Route1) (e : FElem) (ty : BitVec 2) (rnd : Rnd) (h : s.Fires f .whole)
    (hn : (tokenElems (felemFmt e) 64 f.a).length = 0 ∨ (tokenElems (felemFmt e) 64 f.a).length % 32 ≠ 0) :
    exec (.qpack r e ty rnd) s = .next (s.taken.freezeFiring f .whole codeFMTMIS) := by
  show execQpack r e ty rnd s = _
  exact valueFiring_none (r := burstRoute r) _ _ h (if_pos (by simpa using hn))

/-- The elements that QUNPK takes out of a Q4 burst. -/
def qunpkElems (e : FElem) (n : BitVec 2) (j0 : BitVec 4) (l : List Token) : List Nat :=
  (((q4Blocks l).drop j0.toNat).take (n.toNat + 1)).flatMap (fun b => b.2.map (q4Decode (.ofTag (felemFmt e)) b.1))

theorem length_qunpkElems (e : FElem) {n : BitVec 2} {j0 : BitVec 4} {l : List Token}
    (hj : j0.toNat + n.toNat + 1 ≤ (q4Blocks l).length) : (qunpkElems e n j0 l).length = (n.toNat + 1) * 32 := by
  rw [qunpkElems, length_q4Elems _ fun b hb => q4Blocks_codes (List.mem_of_mem_drop (List.mem_of_mem_take hb)),
    List.length_take, List.length_drop]
  congr 1
  omega

/-- The beats that QUNPK sends. -/
def qunpkBeats (e : FElem) (n : BitVec 2) (j0 : BitVec 4) (l : List Token) : List Beat :=
  let xs := qunpkElems e n j0 l
  beatsOf ((regroup (felemFmt e).count (xs.length / (felemFmt e).count) xs).map (joinElems (felemFmt e)))

theorem exec_qunpk_beats (r : Route1) (e : FElem) {n : BitVec 2} {j0 : BitVec 4} (h : s.Fires f .whole)
    (hj : j0.toNat + n.toNat + 1 ≤ (q4Blocks f.a).length) :
    exec (.qunpk r e n j0) s = .next (s.completes f (burstRoute r) (.both
      (burstTokens (f.resultTag .whole (felemFmt e)) (qunpkBeats e n j0 f.a)))) := by
  show execQunpk r e n j0 s = _
  exact valueFiring_some (r := burstRoute r) _ _ h (if_neg (by omega))

theorem exec_qunpk_freezes (r : Route1) (e : FElem) {n : BitVec 2} {j0 : BitVec 4} (h : s.Fires f .whole)
    (hj : (q4Blocks f.a).length < j0.toNat + n.toNat + 1) :
    exec (.qunpk r e n j0) s = .next (s.taken.freezeFiring f .whole codeFMTMIS) := by
  show execQunpk r e n j0 s = _
  exact valueFiring_none (r := burstRoute r) _ _ h (if_pos (by omega))

/-- The elements of 1 to 4 blocks fill whole beats. -/
theorem felem_beats (e : FElem) (k : Nat) : ∃ q, k * 32 = (felemFmt e).count * (4 * q) ∧
    k * 32 / (felemFmt e).count = 4 * q ∧ k * 32 / (4 * (felemFmt e).count) = q := by
  cases e
  · exact ⟨8 * k, by simp only [felemFmt, Fmt.count]; omega⟩
  · exact ⟨2 * k, by simp only [felemFmt, Fmt.count]; omega⟩

/-- The elements of the beats of QUNPK are those of the blocks that it selects. -/
theorem qunpkBeats_elems (e : FElem) {n : BitVec 2} {j0 : BitVec 4} {l : List Token}
    (hj : j0.toNat + n.toNat + 1 ≤ (q4Blocks l).length) (tag : Token) :
    (qunpkBeats e n j0 l).length = (n.toNat + 1) * 32 / (4 * (felemFmt e).count) ∧
    tokenElems (felemFmt e) 64 (burstTokens tag (qunpkBeats e n j0 l)) =
      (qunpkElems e n j0 l).map (· % 2 ^ felemBits e) := by
  have hlen := length_qunpkElems e hj
  obtain ⟨q, hmul, hwords, hbeats⟩ := felem_beats e (n.toNat + 1)
  have hjoin : joinElems (felemFmt e) = wordOf (felemFmt e) 64 := funext fun x => (wordOf_felem e 64 x).symm
  rw [qunpkBeats, hlen, hwords, hbeats, hjoin]
  refine ⟨by simp [beatsOf, length_regroup, upTo], (wordCode_felem e).reads_burst tag q _ (hlen.trans hmul)⟩

end Q4

/-- Settles O25: the conversions share one form, QPACK and QUNPK have their own. -/
theorem conversions : Obligations.Conversions := by
  intro s f r r1 l e ty rnd n j0
  refine ⟨fun h ha => ⟨cvtFiring_completes l l.dst cvtWords h ha, cvtFiring_completes l .int cvtiWords h ha,
    cvtFiring_completes l l.dst cvtfWords h ha⟩, fun h ha => ?shapes, fun h => ?bursts⟩
  case shapes =>
    simp only [List.forall_mem_cons]
    exact ⟨cvtFiring_freezes l l.dst cvtWords h ha, cvtFiring_freezes l .int cvtiWords h ha,
      cvtFiring_freezes l l.dst cvtfWords h ha, fun _ hi => absurd hi List.not_mem_nil⟩
  case bursts =>
    intro rt xs
    refine ⟨exec_qpack_burst r1 e ty rnd h, exec_qpack_freezes r1 e ty rnd h, fun hj => ?_, exec_qunpk_freezes r1 e h⟩
    obtain ⟨hlen, helems⟩ := qunpkBeats_elems e hj (f.resultTag .whole (felemFmt e))
    refine ⟨_, exec_qunpk_beats r1 e h hj, hlen, helems.trans ?_⟩
    simp only [qunpkElems, List.map_flatMap, List.map_map]
    rfl

end Sys2Proof.Machine

/-! PROOFS. The head of a matrix section (R119 to R121): MMARM arms its tile, and MMA enters a row into the row queue. -/

namespace Sys2Proof.Machine

/-! ## Arming (R120) -/

/-- The matrix unit that a MMARM of slot arms for n rows of each window row: the section registers from its literal and from
the mode and SUB of the plane's MMA, no pass counted, and the completion token tag kept back. -/
def Matrix.arm (m : Matrix) (modeSub : BitVec 2 × BitVec 2) (clr : Bool) (ncol : BitVec 4) (wrows rowbase : BitVec 8) (n : Nat)
    (tag : Token) (slot : Nat) : Matrix :=
  { m with
    armed := true, mode := modeSub.1, subs := modeSub.2, clr := clr, ncol := ncol.toNat + 1, wrows := wrows.toNat + 1
    rowbase := rowbase.toNat, rem := n * (wrows.toNat + 1), total := n * (wrows.toNat + 1), pass := [], stepped := []
    setPass := 0, arming := some tag, armSlot := slot }

section Mmarm
variable (r : Route1) (clr : Bool) (ncol : BitVec 4) (wrows rowbase : BitVec 8) {s : State} {f : Firing} (h : s.Fires f .unary)
include h

/-- A count of zero arms nothing and completes at once with zero. -/
theorem exec_mmarm_zero (hn : min f.tokA.w64.toNat (2 ^ 20) = 0) :
    exec (.mmarm r clr ncol wrows rowbase) s = .next (s.taken.sends f r.full 0) := by
  obtain ⟨hf, hd, hp⟩ := h
  show execMmarm r clr ncol wrows rowbase s = _
  rw [execMmarm, withFiring_some _ _ _ hf, fireCases_own _ _ _ _ _ hd hp]
  exact congrArg _ (if_pos hn)

/-- Any other count changes the matrix unit of the tile alone, and is written to the trace. -/
theorem exec_mmarm_arms (hn : min f.tokA.w64.toNat (2 ^ 20) ≠ 0) :
    exec (.mmarm r clr ncol wrows rowbase) s =
      .next ((s.taken.trace f r.d0 f.tokA).updMx f.site.core f.site.tile (fun m =>
        m.arm (planeMma (s.ctx f.site.core f.site.tile f.site.handler).plane) clr ncol wrows rowbase
          (min f.tokA.w64.toNat (2 ^ 20)) (f.resultTag .unary .int) f.site.slot)) := by
  obtain ⟨hf, hd, hp⟩ := h
  show execMmarm r clr ncol wrows rowbase s = _
  rw [execMmarm, withFiring_some _ _ _ hf, fireCases_own _ _ _ _ _ hd hp]
  exact congrArg _ (if_neg hn)

end Mmarm

/-! ## Entering a row (R119, R121) -/

/-- The row that a firing of MMA enters: its beats under the window row of its thread and the pass counted so far. -/
def Firing.matRow (f : Firing) (s : State) : MatRow :=
  let m := (s.tile f.site.core f.site.tile).mx
  let p := windowOf s f.site.core m f.tokA.slot
  { beats := f.a, window := p, pass := KMap.lookD m.pass p 0, arrived := f.arrived, fired := s.cycle f.site.core }

/-- The matrix unit with a row at the tail of its row queue, the pass of the row's window row counted. -/
def Matrix.enter (m : Matrix) (row : MatRow) : Matrix :=
  { m with rows := m.rows ++ [row], pass := KMap.put m.pass row.window (row.pass + 1) }

theorem Matrix.enter_pass (m : Matrix) (row : MatRow) : KMap.lookD (m.enter row).pass row.window 0 = row.pass + 1 :=
  KMap.lookD_put_same ..

/-- A trace record does not move the clock of a core. -/
theorem trace_cycle (s : State) (f : Firing) (d : Dst) (tok : Token) (c : Nat) : (s.trace f d tok).cycle c = s.cycle c := by
  simp only [State.cycle, State.die, trace_time]

/-- MMA changes the matrix unit of its tile alone, whatever PRED and DEF its row has, and is written to the trace. -/
theorem exec_mma (sa sb : Src) (mode sub : BitVec 2) {s : State} {f : Firing} (hf : s.firing = some f) :
    exec (.mma sa sb mode sub) s = .next ((s.taken.trace f .discard f.tokA).updMx f.site.core f.site.tile
      (·.enter (f.matRow s))) := by
  show execMma sa sb mode sub s = _
  rw [execMma, withFiring_some _ _ _ hf]
  dsimp only
  rw [trace_cycle]
  rfl

/-- Settles O38: the state that an armed section or an entered row leaves is read off the equation of its instruction. -/
theorem matrixSections : Obligations.MatrixSections := by
  intro s f r clr ncol wrows rowbase sa sb mode sub c t m n
  refine ⟨exec_mmarm_zero r clr ncol wrows rowbase, fun h hn => ⟨_, exec_mmarm_arms r clr ncol wrows rowbase h hn, ?arms⟩,
    fun hf => ⟨_, f.matRow s, exec_mma sa sb mode sub hf, ?enters⟩⟩
  case arms =>
    rw [updMx_tile, trace_tile, State.tile_taken]
    exact ⟨rfl, rfl, rfl, rfl, rfl, rfl, rfl, rfl, rfl, rfl, rfl, rfl, rfl⟩
  case enters =>
    rw [updMx_tile, trace_tile, State.tile_taken]
    exact ⟨rfl, rfl, rfl, rfl, m.enter_pass (f.matRow s), rfl, rfl, rfl⟩

end Sys2Proof.Machine

/-! PROOFS. The checks on an address (R136, R147, Table 7.3): a range within one page is one piece, and each of its checks is
reached only behind those before it. -/

namespace Sys2Proof.Machine

/-! ## Checks 4 to 6 (R136) -/

/-- What a leaf permits an access: its R or W bit, PV for handler threads alone, and a MODE that is not reserved. -/
def leafPermits (write : Bool) (k leaf : Nat) : Prop :=
  bitOf leaf (if write then 5 else 4) = true ∧ (bitOf leaf 6 = true → k ≥ 4096) ∧ bitsOf leaf 63 62 ≠ 3

section Leaf
variable (s : State) {write : Bool} {k leaf pa : Nat} (n : Nat)

theorem State.canonAddr_of_hbm {a : Nat} (h : s.target a = .hbm) : s.canonAddr a = a := by rw [State.canonAddr, h]

theorem State.leafFault_of_not_permits (h : ¬leafPermits write k leaf) :
    s.leafFault write (isHandlerKey k) leaf pa n = some codePROT := by
  refine if_pos ?_
  simp only [leafPermits, not_and_or] at h
  rcases h with h | h | h
  · cases write <;> simp_all
  · obtain ⟨hpv, hk⟩ := Classical.not_imp.mp h
    simp [isHandlerKey, hpv, hk]
  · simp [not_not.mp h]

theorem State.leafFault_of_reserved (ht : s.target pa = .reserved) :
    s.leafFault write (isHandlerKey k) leaf pa n = some codePROT := by
  have hc : s.canonAddr pa = pa := by rw [State.canonAddr, ht]
  refine if_pos ?_
  rw [hc, ht]
  simp

/-- A permitted access to local HBM is left with check 5, of writes to a page of MODE 0b10 (R252). -/
theorem State.leafFault_of_hbm (h : leafPermits write k leaf) (ht : s.target pa = .hbm) :
    s.leafFault write (isHandlerKey k) leaf pa n = if write && bitsOf leaf 63 62 = 2 then some codeMODE else none := by
  obtain ⟨hrw, hpv, hmode⟩ := h
  have hfail : s.addrFailed pa = false := by rw [State.addrFailed, ht]
  have hprot : ((write && !bitOf leaf 5) || (!write && !bitOf leaf 4) || (bitOf leaf 6 && !isHandlerKey k)) = false := by
    have hpv' : (bitOf leaf 6 && !isHandlerKey k) = false := by
      cases hb : bitOf leaf 6
      · rfl
      · simpa [isHandlerKey] using hpv hb
    rw [hpv']
    cases write <;> simpa using hrw
  simp only [State.leafFault, s.canonAddr_of_hbm ht, ht, hprot, hmode, hfail, decide_false, Bool.or_self, Bool.false_eq_true, if_false]

end Leaf

/-! ## Checks 1 to 3 -/

/-- Are the upper bits of an address those of its sign (R147)? -/
def canonicalVa (va : Nat) : Prop := bitsOf va 63 57 = if bitOf va 56 then 127 else 0

section Range
variable (s : State) (c k : Nat) {va n align : Nat} (write : Bool)

theorem State.checkAll_misaligned (ha : va % align ≠ 0) : s.checkAll c k [⟨va, n, align, write⟩] = .fault codeALIGN va := by
  simp [State.checkAll, ha]

/-- An aligned range within one page is checked as one piece. -/
theorem State.checkAll_page (hp : va % 65536 + n ≤ 65536) (ha : va % align = 0) :
    s.checkAll c k [⟨va, n, align, write⟩] = s.checkPiece c k va n write := by
  have hone : pagePieces va n = [(va, n)] := if_pos (by omega)
  simp only [State.checkAll, State.checkRange, hone, List.find?_cons, List.find?_nil, ha, ne_eq, not_true_eq_false, decide_false,
    List.foldl_cons, List.foldl_nil]
  cases s.checkPiece c k va n write <;> rfl

theorem State.checkPiece_noncanonical (h : ¬canonicalVa va) : s.checkPiece c k va n write = .fault codePROT va := if_pos h

theorem State.checkPiece_miss (h : canonicalVa va) (ht : s.tlbLook c (s.aspaceOf c k) va = none) :
    s.checkPiece c k va n write = .miss va := (if_neg (not_not.mpr h)).trans (by rw [ht])

section Translated
variable {size leaf pa : Nat} (h : canonicalVa va) (ht : s.tlbLook c (s.aspaceOf c k) va = some (size, leaf))
  (hpa : entryAddr leaf + bitsOf va 56 0 % size = pa)
include h ht hpa

theorem State.checkPiece_fault {code : Nat} (hl : s.leafFault write (isHandlerKey k) leaf pa n = some code) :
    s.checkPiece c k va n write = .fault code va := (if_neg (not_not.mpr h)).trans (by simp only [ht, hpa, hl])

theorem State.checkPiece_ok (hl : s.leafFault write (isHandlerKey k) leaf pa n = none) : s.checkPiece c k va n write =
    .ok ((upTo n).map (fun i => (s.canonAddr (pa + i), bitsOf leaf 63 62))) :=
  (if_neg (not_not.mpr h)).trans (by simp only [ht, hpa, hl])

end Translated

end Range

/-- Settles O29: an aligned range within a page is one piece, and each clause is the piece's check of that name. -/
theorem orderOfChecks : Obligations.OrderOfChecks := by
  intro s c k va n align write _ _ hp check canon
  have hpage (ha : va % align = 0) : check = s.checkPiece c k va n write := s.checkAll_page c k write hp ha
  refine ⟨fun ha => s.checkAll_misaligned c k write ha, fun ha hc => (hpage ha).trans (s.checkPiece_noncanonical c k write hc),
    fun ha hc ht => (hpage ha).trans (s.checkPiece_miss c k write hc ht), fun size leaf ha hc ht => ?_⟩
  intro pa permitted
  have faults {code : Nat} (hl : s.leafFault write (isHandlerKey k) leaf pa n = some code) : check = .fault code va :=
    (hpage ha).trans (s.checkPiece_fault c k write hc ht rfl hl)
  refine ⟨fun hper => faults (s.leafFault_of_not_permits n hper), fun _ hres => faults (s.leafFault_of_reserved n hres),
    fun hper hhbm hw hm => faults ((s.leafFault_of_hbm n hper hhbm).trans (if_pos (by simp [hw, hm]))), fun hper hhbm hall hm => ?_⟩
  have hnone : s.leafFault write (isHandlerKey k) leaf pa n = none :=
    (s.leafFault_of_hbm n hper hhbm).trans (if_neg (by simpa using hm))
  refine (hpage ha).trans ((s.checkPiece_ok c k write (pa := pa) hc ht rfl hnone).trans (congrArg AddrCheck.ok ?_))
  exact List.map_congr_left fun j hj => by rw [s.canonAddr_of_hbm (hall j (List.mem_range.mp hj))]

end Sys2Proof.Machine

/-! PROOFS. The start of an access (R39, R135, R136, R153): an access whose checks pass waits among the outstanding ones of its
core, and one that raises a fault records it and sends deferred tokens. -/

namespace Sys2Proof.Machine

/-! ## What an access entered leaves as it is -/

section Core
variable (s : State) (c : Nat) {g : Core → Core}

theorem State.tile_updCore (hg : ∀ q, (g q).tiles = q.tiles) (d u : Nat) : (s.updCore c g).tile d u = s.tile d u := by
  rw [State.tile, State.core_updCore, State.tile]
  split
  · next h => rw [hg, h]
  · rfl

theorem State.thread_updCore (hg : ∀ q, (g q).threads = q.threads) (d k : Nat) : (s.updCore c g).thread d k = s.thread d k := by
  rw [State.thread, State.core_updCore, State.thread]
  split
  · next h => rw [hg, h]
  · rfl

end Core

section Coh
variable {s t : State} (h : CohOnly s t)
include h

theorem CohOnly.core (c : Nat) : t.core c = s.core c := by rw [h]; rfl
theorem CohOnly.tile (c u : Nat) : t.tile c u = s.tile c u := by rw [State.tile, h.core, State.tile]
theorem CohOnly.thread (c k : Nat) : t.thread c k = s.thread c k := by rw [State.thread, h.core, State.thread]
theorem CohOnly.nextId : t.nextId = s.nextId := by rw [h]
theorem CohOnly.regs : t.regs = s.regs := by rw [h]

end Coh

theorem numbered_threadRegs (s : State) (f : Firing) (r : Route) (i : Instr) (c k : Nat) :
    ((s.numbered f r i).thread c k).regs = (s.thread c k).regs := by
  obtain ⟨x, hx⟩ := numbered_thread s f r i c k
  rw [hx]

/-! ## Outstanding accesses (R153) -/

/-- The access of a firing that waits in a stage since a tick. -/
def Firing.awaiting (f : Firing) (r : Route) (id : Nat) (st : AccessStage) (due : Nat) (fired : Tick) (deadline : Option Tick)
    (bytes : List (Nat × Nat)) (tr : Option Nat) : Access :=
  { id := id, thread := f.key r.ta, site := f.site, bits := f.bits, a := f.a, b := f.b, q := f.q, stage := st, due := due
    fired := fired, deadline := deadline, bytes := bytes, port := f.port, trace := tr }

section Outstanding
variable (s : State) (f : Firing) (r : Route) (id : Nat) (st : AccessStage) (due : Nat) (deadline : Option Tick)
  (bytes : List (Nat × Nat))

/-- An access entered takes the next number; beside its core's accesses only the trace unit may change. -/
theorem State.outstanding_eq : ∃ x tr, (s.outstanding f r id st due deadline bytes).2 =
    ({ s with dbg := x, nextId := s.nextId + 1 } : State).updCore f.site.core (fun q => { q with
      accesses := KMap.put q.accesses s.nextId (f.awaiting r id st due (s.now f.site.core) deadline bytes tr) }) := by
  unfold State.outstanding
  dsimp only
  repeat' split
  all_goals exact ⟨_, _, rfl⟩

theorem State.outstanding_access : ∃ tr, KMap.look ((s.outstanding f r id st due deadline bytes).2.core f.site.core).accesses
    s.nextId = some (f.awaiting r id st due (s.now f.site.core) deadline bytes tr) := by
  obtain ⟨x, tr, h⟩ := s.outstanding_eq f r id st due deadline bytes
  refine ⟨tr, ?_⟩
  rw [h, State.core_updCore, if_pos rfl]
  exact KMap.look_put_same ..

theorem State.outstanding_tile (d u : Nat) : (s.outstanding f r id st due deadline bytes).2.tile d u = s.tile d u := by
  obtain ⟨x, tr, h⟩ := s.outstanding_eq f r id st due deadline bytes
  rw [h, State.tile_updCore]
  · rfl
  · exact fun _ => rfl

theorem State.outstanding_thread (d k : Nat) : (s.outstanding f r id st due deadline bytes).2.thread d k = s.thread d k := by
  obtain ⟨x, tr, h⟩ := s.outstanding_eq f r id st due deadline bytes
  rw [h, State.thread_updCore]
  · rfl
  · exact fun _ => rfl

theorem State.outstanding_mem : (s.outstanding f r id st due deadline bytes).2.mem = s.mem := by
  obtain ⟨x, tr, h⟩ := s.outstanding_eq f r id st due deadline bytes
  rw [h]; rfl

theorem State.outstanding_regs : (s.outstanding f r id st due deadline bytes).2.regs = s.regs := by
  obtain ⟨x, tr, h⟩ := s.outstanding_eq f r id st due deadline bytes
  rw [h]; rfl

end Outstanding

/-! ## A fault of an access (R135) -/

/-- The state in which the deferred tokens of a fault leave: it is recorded, and the access is a bad one of its execution. -/
def State.faulted (s : State) (i : Instr) (f : Firing) (r : Route) (id code va : Nat) : State :=
  (s.takeAccessFault f (f.key r.ta) code (BitVec.ofNat 64 va) (faultInfo i code (isWriteCheck i))).updExec f.site.core (f.key r.ta)
    (fun e => { e with bad := e.bad ++ [id] })

/-- The deferred result of an access that raised a fault. -/
def faultValue (i : Instr) (f : Firing) (r : Route) (id code : Nat) : Token :=
  { { valueTag i f r id with deferred := true } with data := BitVec.ofNat 256 code }.fit

/-- The deferred completion token beside it. -/
def faultDone (f : Firing) (r : Route) (id code : Nat) : Token :=
  { { doneToken f r id with deferred := true } with data := BitVec.ofNat 256 code }

section Fault
variable (s : State) (i : Instr) (f : Firing) (r : Route) (id code va : Nat)

theorem State.accessFault_eq : s.accessFault i f r id code va =
    (s.faulted i f r id code va).emitOut f r ⟨[faultValue i f r id code], [faultDone f r id code], 0⟩ := rfl

theorem faultValue_w64 : (faultValue i f r id code).w64 = BitVec.ofNat 64 code :=
  (fit_w64 _).trans (w64_ofNat { valueTag i f r id with deferred := true } code)

theorem faultDone_w64 : (faultDone f r id code).w64 = BitVec.ofNat 64 code :=
  w64_ofNat { doneToken f r id with deferred := true } code

theorem faultValue_deferred : (faultValue i f r id code).deferred = true := by rw [faultValue, fit_deferred]

/-- The execution of an access that raised a fault lists it, and keeps its store buffer. -/
theorem State.exec?_faulted {e : Exec} (he : s.exec? f.site.core (f.key r.ta) = some e) :
    ∃ (e' : Exec) (z : FaultSeen), (s.faulted i f r id code va).exec? f.site.core (f.key r.ta) = some e' ∧
      e'.faults = e.faults ++ [z] ∧ z.code = code ∧ e'.buffered = e.buffered := by
  rw [State.faulted, State.exec?_updExec, if_pos ⟨rfl, rfl⟩, State.takeAccessFault, State.exec?, State.thread_sendFault, ← State.exec?,
    State.exec?_updExec, if_pos ⟨rfl, rfl⟩, he]
  exact ⟨_, _, rfl, rfl, rfl, rfl⟩

theorem State.mem_faulted : (s.faulted i f r id code va).mem = s.mem := rfl

end Fault

/-- A memory instruction that ends in a fault of its access. -/
theorem exec_of_accessFault {s : State} {i : Instr} {f : Firing} {r : Route} {code va : Nat} {e : Exec}
    (h : exec i s = .next ((s.numbered f r i).accessFault i f r (s.accessNo f r) code va))
    (he : s.exec? f.site.core (f.key r.ta) = some e) :
    ∃ (u : State) (e' : Exec) (x y : Token) (z : FaultSeen), exec i s = .next (u.emitOut f r ⟨[x], [y], 0⟩) ∧
      x.deferred = true ∧ x.w64 = BitVec.ofNat 64 code ∧ y.deferred = true ∧ y.w64 = BitVec.ofNat 64 code ∧
      u.exec? f.site.core (f.key r.ta) = some e' ∧ e'.faults = e.faults ++ [z] ∧ z.code = code ∧ e'.buffered = e.buffered ∧
      ∀ a, u.byte a = s.byte a := by
  obtain ⟨e1, he1, hbuf1, -, hfaults1, -⟩ := numbered_exec s f r i e he
  obtain ⟨e', z, he', hfaults, hz, hbuf⟩ := (s.numbered f r i).exec?_faulted i f r (s.accessNo f r) code va he1
  exact ⟨_, e', _, _, z, h.trans (congrArg _ (State.accessFault_eq ..)), faultValue_deferred .., faultValue_w64 .., rfl,
    faultDone_w64 .., he', hfaults1 ▸ hfaults, hz, hbuf.trans hbuf1,
    State.byte_congr ((State.mem_faulted ..).trans (numbered_mem s f r i))⟩

/-! ## Loads and atomics whose checks pass (R39, R136) -/

theorem State.target_congr {s t : State} (h : t.sec = s.sec) : t.target = s.target := by
  cases s; cases t; cases h; rfl

theorem State.inControl_congr {s t : State} (h : t.sec = s.sec) (bytes : List (Nat × Nat)) : t.inControl bytes = s.inControl bytes := by
  rw [State.inControl, State.target_congr h, State.inControl]

theorem State.isOuter_congr {s t : State} (h : t.sec = s.sec) (l : Nat) : t.isOuter l = s.isOuter l := by
  rw [State.isOuter, State.target_congr h, State.isOuter]

/-- Loads and atomics are no stores of the store buffer. -/
theorem isBufferedStore_of_reply {i : Instr} (h : isLoad i = true ∨ isAtomic i = true) : isBufferedStore i = false := by
  rcases h with h | h
  · unfold isLoad at h
    split at h
    case h_6 => cases h
    all_goals rfl
  · unfold isAtomic at h
    split at h
    case h_4 => cases h
    all_goals rfl

theorem isAtomic_of_isLoad {i : Instr} (h : isLoad i = true) : isAtomic i = false := by
  unfold isLoad at h
  split at h
  case h_6 => cases h
  all_goals rfl

section Checked
variable (s : State) {i : Instr} (f : Firing) (r : Route) (id : Nat) {bytes : List (Nat × Nat)}

/-- A load that is checked, and an atomic that names no control space, waits for its reply. -/
theorem State.accessChecked_waits (hi : isLoad i = true ∨ isAtomic i = true) (hc : (isAtomic i && s.inControl bytes) = false) :
    ∃ due deadline, s.accessChecked i f r id bytes =
      ((s.requestBytes f.site.core i bytes).outstanding f r id .reply due deadline bytes).2 := by
  rw [State.accessChecked, if_neg (by simp [isBufferedStore_of_reply hi]), if_neg (by simp [hc])]
  · exact ⟨_, _, rfl⟩
  · rintro r level m rfl
    simp [isLoad, isAtomic] at hi

/-- An atomic that names control space raises PROT. -/
theorem State.accessChecked_control (hi : isAtomic i = true) (hc : s.inControl bytes = true) :
    s.accessChecked i f r id bytes = s.accessFault i f r id codePROT (addrOf f.a) := by
  rw [State.accessChecked, if_neg (by simp [isBufferedStore_of_reply (.inr hi)]), if_pos (by simp [hi, hc])]
  rintro r level m rfl
  cases hi

end Checked

/-- An access whose checks pass goes on to what its kind does. -/
theorem exec_access_checked {s : State} {f : Firing} {i : Instr} {r : Route} {l : List Range} {bytes : List (Nat × Nat)}
    (hi : isAccess i = true) (hr : i.route? = some r) (h : s.Fires f r.ta) (hm : memRanges i f = some l)
    (hc : s.checkAll f.site.core (f.key r.ta) l = .ok bytes) :
    exec i s = .next ((s.numbered f r i).accessChecked i f r (s.accessNo f r) bytes) := by
  rw [exec_access i r s f hi hr h, State.startAccess, hm]
  simp only [numbered_checkAll, hc]

/-- Settles O26: the access is entered behind the requests for its lines, which change the coherence state and, for lines of an
outside home, memory. -/
theorem loadsAndAtomicsBegin : Obligations.LoadsAndAtomicsBegin := by
  intro s f r n rfmt sext acq split nb tmo aop q ord m l bytes loads atomics c k h i hi hm hc
  have hload (hl : i ∈ loads) : isLoad i = true ∧ i.route? = some r := by
    simp only [loads, List.mem_cons, List.not_mem_nil, or_false] at hl
    rcases hl with rfl | rfl | rfl | rfl | rfl <;> exact ⟨rfl, rfl⟩
  have hatomic (hl : i ∈ atomics) : isAtomic i = true ∧ i.route? = some r := by
    simp only [atomics, List.mem_cons, List.not_mem_nil, or_false] at hl
    rcases hl with rfl | rfl | rfl <;> exact ⟨rfl, rfl⟩
  have hkind : isLoad i = true ∨ isAtomic i = true := (List.mem_append.mp hi).imp (fun hl => (hload hl).1) fun hl => (hatomic hl).1
  have hr : i.route? = some r := (List.mem_append.mp hi).elim (fun hl => (hload hl).2) fun hl => (hatomic hl).2
  have hacc : isAccess i = true := by rcases hkind with hk | hk <;> simp [isAccess, hk]
  have hchecked := exec_access_checked hacc hr h hm hc
  have hcontrol := State.inControl_congr (numbered_sec s f r i) bytes
  refine ⟨fun hreply => ?_, fun hat hin e he => ?_⟩
  · have hnone : (isAtomic i && (s.numbered f r i).inControl bytes) = false := by
      rcases hreply with hl | hn
      · rw [isAtomic_of_isLoad (hload hl).1, Bool.false_and]
      · rw [hcontrol, hn, Bool.and_false]
    obtain ⟨due, deadline, hwait⟩ := (s.numbered f r i).accessChecked_waits f r (s.accessNo f r) hkind hnone
    have hcoh := cohOnly_requestBytes (s.numbered f r i) c i bytes
    obtain ⟨tr, hlook⟩ := ((s.numbered f r i).requestBytes c i bytes).outstanding_access f r (s.accessNo f r) .reply due deadline bytes
    rw [hcoh.nextId, numbered_nextId] at hlook
    refine ⟨_, _, hchecked.trans (congrArg _ hwait), hlook, rfl, rfl, rfl, rfl, rfl, rfl, rfl, rfl, ?_, fun d u => ?_, fun d j => ?_,
      fun hout a => State.byte_congr ?_ a⟩
    · rw [State.outstanding_regs, hcoh.regs, numbered_regs]
    · rw [State.outstanding_tile, hcoh.tile, numbered_tile]
    · rw [State.outstanding_thread, hcoh.thread, numbered_threadRegs]
    · rw [State.outstanding_mem, mem_requestBytes _ _ _ _ fun b hb => (State.isOuter_congr (numbered_sec s f r i) _).trans (hout b hb),
        numbered_mem]
  · rw [State.accessChecked_control _ _ _ _ (hatomic hat).1 (hcontrol.trans hin)] at hchecked
    exact exec_of_accessFault hchecked he

end Sys2Proof.Machine

/-! PROOFS. The live-value store (R133, R134, R345, R346, R347): reads that become outstanding, writes that enter the execution's
buffer, and PROT beyond a thread's registers or its team. -/

namespace Sys2Proof.Machine

/-! ## The registers in reach of a firing -/

theorem numbered_regCount (s : State) (f : Firing) (r : Route) (i : Instr) (c k : Nat) :
    (s.numbered f r i).regCount c k = s.regCount c k := by
  obtain ⟨x, hx⟩ := numbered_thread s f r i c k
  rw [State.regCount, hx, State.regCount]

theorem numbered_lintTarget (s : State) (f : Firing) (r : Route) (i : Instr) (c k a : Nat) :
    (s.numbered f r i).lintTarget c k a = s.lintTarget c k a := by
  obtain ⟨x, hx⟩ := numbered_thread s f r i c k
  simp only [State.lintTarget, State.servedTrap, State.team?, numbered_hslots, numbered_teams, hx]

/-! ## Reads (R345, R346) -/

section Reads
variable {s : State} {f : Firing} (r : Route1) (fm : LinFmt) (l : LvsLit) (h : s.Fires f .unary)
include h

/-- LIN names its register in the literal, which the loader has checked (R345). -/
theorem exec_lin : exec (.lin r fm l) s = .next ((s.numbered f r.full (.lin r fm l)).lvsRead f r.full (s.accessNo f r.full)) := by
  show execLin r fm l s = _
  rw [execLin, memFiring_own _ r.full _ _ _ h]

/-- LINX of a register that the thread has. -/
theorem exec_linx_within (ha : isWord f.a = true) (hreg : l.reg.toNat + addrOf f.a < s.regCount f.site.core (f.key .unary)) :
    exec (.linx r fm l) s = .next ((s.numbered f r.full (.linx r fm l)).lvsRead f r.full (s.accessNo f r.full)) := by
  show execLinx r fm l s = _
  rw [execLinx, memFiring_own _ r.full _ _ _ h]
  exact congrArg _ ((if_neg (by simp [ha])).trans (if_neg (by rw [numbered_regCount]; omega)))

/-- LINX of a register beyond the thread's. -/
theorem exec_linx_beyond (ha : isWord f.a = true) (hreg : s.regCount f.site.core (f.key .unary) ≤ l.reg.toNat + addrOf f.a) :
    exec (.linx r fm l) s = .next ((s.numbered f r.full (.linx r fm l)).accessFault (.linx r fm l) f r.full (s.accessNo f r.full)
      codePROT noAddr) := by
  show execLinx r fm l s = _
  rw [execLinx, memFiring_own _ r.full _ _ _ h]
  exact congrArg _ ((if_neg (by simp [ha])).trans (if_pos (by rw [numbered_regCount]; exact hreg)))

/-- LINT of a thread in the team. -/
theorem exec_lint_within (ht : (s.lintTarget f.site.core (f.key .unary) (addrOf f.a)).isSome = true) :
    exec (.lint r fm l) s = .next ((s.numbered f r.full (.lint r fm l)).lvsRead f r.full (s.accessNo f r.full)) := by
  obtain ⟨j, hj⟩ := Option.isSome_iff_exists.mp ht
  show execLint r fm l s = _
  rw [execLint, memFiring_own _ r.full _ _ _ h]
  rw [numbered_lintTarget, hj]

/-- LINT of a thread outside the team. -/
theorem exec_lint_beyond (ht : s.lintTarget f.site.core (f.key .unary) (addrOf f.a) = none) :
    exec (.lint r fm l) s = .next ((s.numbered f r.full (.lint r fm l)).accessFault (.lint r fm l) f r.full (s.accessNo f r.full)
      codePROT noAddr) := by
  show execLint r fm l s = _
  rw [execLint, memFiring_own _ r.full _ _ _ h]
  rw [numbered_lintTarget, ht]

end Reads

/-- A read of the live-value store that has begun waits for its reply; no register, tile or memory changes. -/
theorem exec_of_lvsRead {s : State} {i : Instr} {f : Firing} {r : Route}
    (h : exec i s = .next ((s.numbered f r i).lvsRead f r (s.accessNo f r))) :
    ∃ (t : State) (x : Access), exec i s = .next t ∧ KMap.look (t.core f.site.core).accesses s.nextId = some x ∧
      x.thread = f.key r.ta ∧ x.stage = .reply ∧ x.a = f.a ∧ x.bits = f.bits ∧
      (∀ d j, (t.thread d j).regs = (s.thread d j).regs) ∧ (∀ d u, t.tile d u = s.tile d u) ∧ t.mem = s.mem := by
  let v := s.numbered f r i
  obtain ⟨tr, hlook⟩ := v.outstanding_access f r (s.accessNo f r) .reply (v.cycle f.site.core + v.timing.lvs) none []
  rw [show v.nextId = s.nextId from numbered_nextId ..] at hlook
  refine ⟨_, _, h, hlook, rfl, rfl, rfl, rfl, fun d j => ?_, fun d u => ?_, ?_⟩
  · rw [State.lvsRead, State.outstanding_thread, numbered_threadRegs]
  · rw [State.lvsRead, State.outstanding_tile, numbered_tile]
  · rw [State.lvsRead, State.outstanding_mem, numbered_mem]

/-! ## Writes (R347) -/

/-- The entry that a register write leaves in the store buffer. -/
def regEntry (i : Instr) (f : Firing) (id n : Nat) : Buffered :=
  { id := id, own := i.wave?.bind (fun w => if w.waved then some w.own.toNat else none), deps := f.deps, kind := .reg n f.tokA.w64 }

theorem State.placeReg_eq (s : State) (i : Instr) (f : Firing) (r : Route) (id n : Nat) : s.placeReg i f r id n =
    (s.buffer f.site.core (f.key r.ta) (regEntry i f id n)).emitOut f r (.both [doneToken f r id]) := rfl

theorem exec_lout {s : State} {f : Firing} (r : Route1) (l : LvsLit) (h : s.Fires f .unary) (ha : isWord f.a = true) :
    exec (.lout r l) s = .next ((s.numbered f r.full (.lout r l)).placeReg (.lout r l) f r.full (s.accessNo f r.full) l.reg.toNat) := by
  show execLout r l s = _
  rw [execLout, memFiring_own _ r.full _ _ _ h]
  exact congrArg _ (if_neg (by simp [ha]))

section Loutx
variable {s : State} {f : Firing} (r : Route) (l : LvsLit) (h : s.Fires f r.ta) (ha : isWord f.a = true) (hb : isWord f.b = true)
include h ha hb

theorem exec_loutx_within (hreg : l.reg.toNat + addrOf f.b < s.regCount f.site.core (f.key r.ta)) : exec (.loutx r l) s =
    .next ((s.numbered f r (.loutx r l)).placeReg (.loutx r l) f r (s.accessNo f r) (l.reg.toNat + addrOf f.b)) := by
  show execLoutx r l s = _
  rw [execLoutx, memFiring_own _ r _ _ _ h]
  exact congrArg _ ((if_neg (by simp [ha, hb])).trans (if_neg (by rw [numbered_regCount]; omega)))

theorem exec_loutx_beyond (hreg : s.regCount f.site.core (f.key r.ta) ≤ l.reg.toNat + addrOf f.b) : exec (.loutx r l) s =
    .next ((s.numbered f r (.loutx r l)).accessFault (.loutx r l) f r (s.accessNo f r) codePROT noAddr) := by
  show execLoutx r l s = _
  rw [execLoutx, memFiring_own _ r _ _ _ h]
  exact congrArg _ ((if_neg (by simp [ha, hb])).trans (if_pos (by rw [numbered_regCount]; exact hreg)))

end Loutx

/-- A register write that is placed is one more entry of its execution's buffer, and sends its completion token. -/
theorem exec_of_placeReg {s : State} {i : Instr} {f : Firing} {r : Route} {n : Nat} {e : Exec} (hf : s.Fires f r.ta)
    (h : exec i s = .next ((s.numbered f r i).placeReg i f r (s.accessNo f r) n)) (he : s.exec? f.site.core (f.key r.ta) = some e) :
    ∃ (u : State) (e' : Exec) (b : Buffered) (d : Token), exec i s = .next (u.emitOut f r (.both [d])) ∧
      u.exec? f.site.core (f.key r.ta) = some e' ∧ e'.buffered = e.buffered ++ [b] ∧ b.kind = .reg n f.tokA.w64 ∧ d.w64 = 0 ∧
      d.fmt = .int ∧ (∀ d j, (u.thread d j).regs = (s.thread d j).regs) ∧ u.mem = s.mem := by
  obtain ⟨e1, he1, hbuf, -⟩ := numbered_exec s f r i e he
  obtain ⟨hw, hfmt, -, -⟩ := doneToken_spec f r (s.accessNo f r) hf.2.1 hf.2.2
  refine ⟨_, _, regEntry i f (s.accessNo f r) n, _, h.trans (congrArg _ (State.placeReg_eq ..)), State.exec?_buffer _ _ _ _ he1,
    by rw [← hbuf], rfl, hw, hfmt, fun d j => ?_, numbered_mem s f r i⟩
  rw [State.regs_buffer, numbered_threadRegs]

/-- PROT of a register or a thread out of reach: it is recorded, and deferred tokens leave. -/
theorem exec_protects {s : State} {i : Instr} {f : Firing} {r : Route} {e : Exec}
    (h : exec i s = .next ((s.numbered f r i).accessFault i f r (s.accessNo f r) codePROT noAddr))
    (he : s.exec? f.site.core (f.key r.ta) = some e) :
    ∃ (u : State) (e' : Exec) (x y : Token) (z : FaultSeen), exec i s = .next (u.emitOut f r ⟨[x], [y], 0⟩) ∧
      x.deferred = true ∧ x.w64 = 0x11 ∧ y.deferred = true ∧ y.w64 = 0x11 ∧ u.exec? f.site.core (f.key r.ta) = some e' ∧
      e'.faults = e.faults ++ [z] ∧ z.code = 0x11 ∧ e'.buffered = e.buffered := by
  obtain ⟨u, e', x, y, z, hx, hxd, hxw, hyd, hyw, hu, hfaults, hcode, hbuf, -⟩ := exec_of_accessFault h he
  exact ⟨u, e', x, y, z, hx, hxd, hxw, hyd, hyw, hu, hfaults, hcode, hbuf⟩

/-- Settles O30: each form ends in a read begun, a write placed or the fault PROT. -/
theorem liveValues : Obligations.LiveValues := by
  intro s f r1 r fm l
  refine ⟨fun h => ⟨?lin, ?linxWithin, ?linxBeyond, ?lintWithin, ?lintBeyond, ?lout⟩, fun h ha hb => ⟨?loutxWithin, ?loutxBeyond⟩⟩
  case lin => exact exec_of_lvsRead (exec_lin r1 fm l h)
  case linxWithin => exact fun ha hreg => exec_of_lvsRead (exec_linx_within r1 fm l h ha hreg)
  case linxBeyond => exact fun ha hreg e he => exec_protects (exec_linx_beyond r1 fm l h ha hreg) he
  case lintWithin => exact fun ht => exec_of_lvsRead (exec_lint_within r1 fm l h ht)
  case lintBeyond => exact fun ht e he => exec_protects (exec_lint_beyond r1 fm l h ht) he
  case lout => exact fun ha e he => exec_of_placeReg (r := r1.full) h (exec_lout r1 l h ha) he
  case loutxWithin => exact fun hreg e he => exec_of_placeReg h (exec_loutx_within r l h ha hb hreg) he
  case loutxBeyond => exact fun hreg e he => exec_protects (exec_loutx_beyond r l h ha hb hreg) he

end Sys2Proof.Machine

/-! PROOFS. PREF, FENCE and WAITT (R135, R161, R369, R374): what each sends, and what a prefetch, a fence and a wait leave as they
are. -/

namespace Sys2Proof.Machine

/-! ## PREF (R369) -/

theorem cohOnly_putL1 (s : State) (c w : Nat) (x : L1Word) : CohOnly s (s.putL1 c w x) := by
  unfold State.putL1
  dsimp only
  refine CohOnly.trans ?_ (cohOnly_updL1 _ c fun m => KMap.put m w x)
  split
  · exact CohOnly.rfl' s
  · exact (cohOnly_setCopy _ _ _ _).trans (cohOnly_updL1 _ c _)

theorem cohOnly_bindWord (s : State) (c w mode : Nat) (v : BitVec 32) : CohOnly s (s.bindWord c w mode v) := by
  unfold State.bindWord
  dsimp only
  split
  all_goals
    split
    · exact CohOnly.rfl' s
    · exact cohOnly_putL1 _ _ _ _

/-- A prefetch changes what the caches hold and what they ask for. -/
theorem cohOnly_prefetch (s : State) (c : Nat) (level : PrefLevel) (pa mode : Nat) : CohOnly s (s.prefetch c level pa mode) := by
  unfold State.prefetch
  dsimp only
  split
  · exact CohOnly.rfl' s
  cases level with
  | own =>
    dsimp only
    split
    · exact CohOnly.rfl' s
    · exact cohOnly_requestOwn _ _ _
  | l2 => exact cohOnly_requestRead _ _ _ _
  | l1 =>
    dsimp only
    split
    · refine CohOnly.trans (t := s.newStamp) rfl (CohOnly.foldl _ (fun u j => ?_) _ _)
      split
      · split
        · exact CohOnly.rfl' u
        · exact cohOnly_bindWord _ _ _ _ _
      · exact CohOnly.rfl' u
    · exact cohOnly_requestRead _ _ _ _

/-- What a prefetch keeps: every tile, the fault tokens of every core and every thread's registers. -/
def State.PrefKeeps (s u : State) : Prop :=
  (∀ c t, u.tile c t = s.tile c t) ∧ (∀ c, (u.core c).faultNet = (s.core c).faultNet) ∧
    ∀ c k, (u.thread c k).regs = (s.thread c k).regs

theorem State.PrefKeeps.trans {s t u : State} (h : s.PrefKeeps t) (g : t.PrefKeeps u) : s.PrefKeeps u :=
  ⟨fun c x => (g.1 c x).trans (h.1 c x), fun c => (g.2.1 c).trans (h.2.1 c), fun c k => (g.2.2 c k).trans (h.2.2 c k)⟩

theorem State.prefKeeps_numbered (s : State) (f : Firing) (r : Route) (i : Instr) : s.PrefKeeps (s.numbered f r i) := by
  refine ⟨numbered_tile s f r i, fun c => ?_, numbered_threadRegs s f r i⟩
  have hexec (u : State) (d k : Nat) (g : Exec → Exec) : ((u.updExec d k g).core c).faultNet = (u.core c).faultNet := by
    obtain ⟨x, hx⟩ := u.core_updExec d k c g
    rw [hx]
  simp only [State.numbered, State.report, State.accessId]
  repeat' split
  all_goals simp only [hexec, State.core_taken]

theorem CohOnly.prefKeeps {s t : State} (h : CohOnly s t) : s.PrefKeeps t :=
  ⟨h.tile, fun c => by rw [h.core], fun c k => by rw [h.thread]⟩

theorem State.prefKeeps_outstanding (s : State) (f : Firing) (r : Route) (id : Nat) (st : AccessStage) (due : Nat)
    (deadline : Option Tick) (bytes : List (Nat × Nat)) : s.PrefKeeps (s.outstanding f r id st due deadline bytes).2 := by
  refine ⟨s.outstanding_tile f r id st due deadline bytes, fun c => ?_, fun c k => by rw [State.outstanding_thread]⟩
  obtain ⟨x, tr, h⟩ := s.outstanding_eq f r id st due deadline bytes
  rw [h, State.core_updCore]
  split
  · next hc => rw [hc]; rfl
  · rfl

theorem State.cores_startWalk (s : State) (pd aspace va : Nat) (waiter : Nat × Nat) :
    (s.startWalk pd aspace va waiter).cores = s.cores := by
  unfold State.startWalk
  dsimp only
  split <;> rfl

/-- A prefetch begins as the other accesses do. -/
theorem exec_pref_starts {s : State} {f : Firing} {r : Route} (level : PrefLevel) (m : MemCtl) (h : s.Fires f r.ta) :
    exec (.pref r level m) s = .next ((s.numbered f r (.pref r level m)).startAccess (.pref r level m) f r (s.accessNo f r)) := by
  show execPref r level m s = _
  rw [execPref, memFiring_own _ _ _ _ _ h]

section Pref
variable {s : State} {f : Firing} {r : Route} (level : PrefLevel) (m : MemCtl) {l : List Range} (h : s.Fires f r.ta)
  (hm : memRanges (.pref r level m) f = some l)
include h hm

/-- A prefetch whose address is refused by a check, or whose translation is at hand, sends its completion token. -/
theorem exec_pref_done (hc : ∀ va, s.checkAll f.site.core (f.key r.ta) l ≠ .miss va) : ∃ u, s.PrefKeeps u ∧
    exec (.pref r level m) s = .next (u.emitOut f r (.both [doneToken f r (s.accessNo f r)])) := by
  have hkept := s.prefKeeps_numbered f r (.pref r level m)
  have hstart := exec_pref_starts level m h
  simp only [State.startAccess, hm, numbered_checkAll] at hstart
  cases hcheck : s.checkAll f.site.core (f.key r.ta) l with
  | miss va => exact absurd hcheck (hc va)
  | fault code va =>
    rw [hcheck] at hstart
    exact ⟨_, hkept, hstart⟩
  | ok bytes =>
    rw [hcheck] at hstart
    exact ⟨_, hkept.trans (cohOnly_prefetch _ _ level _ _).prefKeeps, hstart⟩

/-- A prefetch whose translation is not at hand waits for the walk of its page. -/
theorem exec_pref_walks {va : Nat} (hc : s.checkAll f.site.core (f.key r.ta) l = .miss va) :
    ∃ (u : State) (x : Access), exec (.pref r level m) s = .next u ∧ KMap.look (u.core f.site.core).accesses s.nextId = some x ∧
      x.stage = .walk (bitsOf va 56 16) ∧ s.PrefKeeps u := by
  let v := s.numbered f r (.pref r level m)
  let t := (v.outstanding f r (s.accessNo f r) (.walk (bitsOf va 56 16)) (v.cycle f.site.core) none []).2
  have hstart : exec (.pref r level m) s =
      .next (t.startWalk (nodeOf f.site.core) (t.aspaceOf f.site.core (f.key r.ta)) va (f.site.core, v.nextId)) := by
    refine (exec_pref_starts level m h).trans (congrArg _ ?_)
    simp only [State.startAccess, hm, numbered_checkAll, hc]
    rfl
  have hcore (c : Nat) : (t.startWalk (nodeOf f.site.core) (t.aspaceOf f.site.core (f.key r.ta)) va (f.site.core, v.nextId)).core c =
      t.core c := by rw [State.core, State.cores_startWalk, State.core]
  obtain ⟨tr, hlook⟩ := v.outstanding_access f r (s.accessNo f r) (.walk (bitsOf va 56 16)) (v.cycle f.site.core) none []
  rw [show v.nextId = s.nextId from numbered_nextId ..] at hlook
  refine ⟨_, _, hstart, by rw [hcore]; exact hlook, rfl, ?_⟩
  refine ((s.prefKeeps_numbered f r _).trans (v.prefKeeps_outstanding ..)).trans ⟨fun c u => ?_, fun c => by rw [hcore], fun c k => ?_⟩
  · rw [State.tile, hcore, State.tile]
  · rw [State.thread, hcore, State.thread]

end Pref

/-! ## The number of an access -/

section Number
variable (s : State) (c k : Nat)

/-- A number taken changes the core's threads alone. -/
theorem State.accessId_eq : ∃ x, (s.accessId c k).2 = { s with cores := x } := by
  unfold State.accessId
  split
  · exact ⟨s.cores, rfl⟩
  · exact ⟨_, rfl⟩

theorem State.mem_accessId : (s.accessId c k).2.mem = s.mem := by
  obtain ⟨x, hx⟩ := s.accessId_eq c k
  rw [hx]

theorem State.coh_accessId : (s.accessId c k).2.coh = s.coh := by
  obtain ⟨x, hx⟩ := s.accessId_eq c k
  rw [hx]

theorem State.portDies_accessId : (s.accessId c k).2.portDies = s.portDies := by
  obtain ⟨x, hx⟩ := s.accessId_eq c k
  rw [hx]; rfl

theorem State.exec?_accessId {e : Exec} (he : s.exec? c k = some e) :
    (s.accessId c k).2.exec? c k = some { e with nextId := e.nextId + 1 } := by
  rw [State.accessId, he]
  dsimp only
  rw [State.exec?_updExec, if_pos ⟨rfl, rfl⟩, he]
  rfl

end Number

/-! ## FENCE (R161) -/

/-- What a fence does to its core's L1: as ACQ or FULL beyond TEAM it invalidates. -/
def State.fenceInvalidates (s : State) (c : Nat) (kind : FenceKind) (sc : Scope) : State :=
  if kind ≠ .rel && wideScope sc then s.selfInvalidate c else s

/-- What a fence of a number does to its execution: as REL or FULL it is one more of its fences. -/
def State.fenceOrders (s : State) (c k id : Nat) (kind : FenceKind) (sc : Scope) : State :=
  if kind ≠ .acq then s.updExec c k (fun e => { e with fences := e.fences ++ [(id, sc)] }) else s

section Fence
variable (s : State) (c k id : Nat) (kind : FenceKind) (sc : Scope)

theorem State.mem_fenceInvalidates : (s.fenceInvalidates c kind sc).mem = s.mem := by
  unfold State.fenceInvalidates
  split <;> rfl

theorem State.exec?_fenceInvalidates (d j : Nat) : (s.fenceInvalidates c kind sc).exec? d j = s.exec? d j := by
  unfold State.fenceInvalidates
  split <;> rfl

/-- Only registered words stay in the L1 of a core that a fence has invalidated. -/
theorem State.registered_of_fenceInvalidates (hk : kind ≠ .rel) (hs : sc ≠ .team) {w : Nat × L1Word}
    (hw : w ∈ KMap.lookD (s.fenceInvalidates c kind sc).coh.l1 c []) : w.2.registered = true ∧ w ∈ KMap.lookD s.coh.l1 c [] := by
  rw [State.fenceInvalidates, if_pos (by simp [wideScope, hk, hs])] at hw
  have hw' : w ∈ KMap.lookD (KMap.alter s.coh.l1 c [] fun m => m.filter fun q => q.2.registered) c [] := hw
  rw [KMap.lookD_alter_same, List.mem_filter] at hw'
  exact hw'.symm

theorem State.mem_fenceOrders : (s.fenceOrders c k id kind sc).mem = s.mem := by
  unfold State.fenceOrders
  split <;> rfl

theorem State.coh_fenceOrders : (s.fenceOrders c k id kind sc).coh = s.coh := by
  unfold State.fenceOrders
  split <;> rfl

theorem State.exec?_fenceOrders (hk : kind ≠ .acq) {e : Exec} (he : s.exec? c k = some e) :
    (s.fenceOrders c k id kind sc).exec? c k = some { e with fences := e.fences ++ [(id, sc)] } := by
  rw [State.fenceOrders, if_pos hk, State.exec?_updExec, if_pos ⟨rfl, rfl⟩, he]
  rfl

/-- A fence takes a number, invalidates, orders, and sends its completion token. -/
theorem exec_fence {s : State} {f : Firing} (r : Route) (h : s.Fires f r.ta) : exec (.fence r kind sc) s =
    .next ((((s.taken.accessId f.site.core (f.key r.ta)).2.fenceInvalidates f.site.core kind sc).fenceOrders f.site.core (f.key r.ta)
      (s.accessNo f r) kind sc).emitOut f r (.both [doneToken f r (s.accessNo f r)])) := by
  obtain ⟨hf, hd, hp⟩ := h
  show execFence r kind sc s = _
  rw [execFence, withFiring_some _ _ _ hf, fireCases_own _ _ _ _ _ hd hp]
  rfl

end Fence

/-! ## WAITT (R374) -/

/-- WAITT of a promise of a port die that exists: the wait is recorded for the commit, and the promise passes on. -/
theorem exec_waitt_waits {s : State} {f : Firing} (sa : Src) (d0 : Dst) (reg : BitVec 7) (h : s.Fires f .unary)
    (ha : isWord f.a = true) (hpd : bitsOf f.tokA.w64.toNat 63 62 < s.portDies) :
    exec (.waitt sa d0 reg) s = .next (((s.taken.accessId f.site.core (f.key .unary)).2.atCommit f .unary
      (.waitt f.tokA.w64 reg.toNat)).emitOut f (waittRoute sa d0)
        ⟨[{ f.resultTag .unary f.tokA.fmt with data := f.tokA.data }.fit], [], 0⟩) := by
  obtain ⟨hf, hd, hp⟩ := h
  have hdie : ¬bitsOf (addrOf f.a) 63 62 ≥ (s.taken.accessId f.site.core (f.key .unary)).2.portDies := by
    rw [State.portDies_accessId]
    exact Nat.not_le.mpr hpd
  show execWaitt sa d0 reg s = _
  rw [execWaitt, withFiring_some _ _ _ hf, fireCases_own (waittRoute sa d0) _ _ _ _ hd hp]
  exact congrArg _ ((if_neg (by simp [ha])).trans (if_neg hdie))

/-- Settles O31: PREF ends in its completion token or in a walk, and the states that a fence and a WAITT leave are read off the
equations of the two. -/
theorem prefetchFenceWait : Obligations.PrefetchFenceWait := by
  intro s f r level m kind sc sa d0 reg c
  refine ⟨fun h _ l hm => ⟨fun hc => ?_, fun va hc => ?_⟩, fun h => ?_, fun h ha hpd e he => ?_⟩
  · obtain ⟨u, hkept, hu⟩ := exec_pref_done level m h hm hc
    obtain ⟨hw, hfmt, hpred, hdef⟩ := doneToken_spec f r (s.accessNo f r) h.2.1 h.2.2
    exact ⟨u, _, hu, hw, hfmt, hdef, hpred, hkept⟩
  · exact exec_pref_walks level m h hm hc
  · obtain ⟨hw, hfmt, hpred, hdef⟩ := doneToken_spec f r (s.accessNo f r) h.2.1 h.2.2
    refine ⟨_, _, exec_fence kind sc r h, hw, hfmt, hdef, hpred, ?_, fun hk hs w hin => ?_, fun e hk he => ?_⟩
    · rw [State.mem_fenceOrders, State.mem_fenceInvalidates, State.mem_accessId]; rfl
    · rw [State.coh_fenceOrders] at hin
      have hreg := State.registered_of_fenceInvalidates _ _ _ _ hk hs hin
      rwa [State.coh_accessId] at hreg
    · exact ⟨_, State.exec?_fenceOrders _ _ _ _ _ _ hk ((State.exec?_fenceInvalidates ..).trans (State.exec?_accessId _ _ _ he)), rfl⟩
  · have hnum := State.exec?_accessId s.taken f.site.core (f.key .unary) he
    refine ⟨_, { e with nextId := e.nextId + 1, acts := e.acts ++ [.waitt f.tokA.w64 reg.toNat] }, _,
      exec_waitt_waits sa d0 reg h ha hpd, ?_, ?_, ?_, rfl, ?_⟩
    · rw [fit_w64]; rfl
    · rw [fit_fmt]; rfl
    · rw [State.atCommit, State.exec?_updExec, if_pos ⟨rfl, rfl⟩, hnum]; rfl
    · exact State.mem_accessId s.taken f.site.core (f.key .unary)

end Sys2Proof.Machine

/-! PROOFS. Checks and resets (R145, R265): an error record stands in memory, and a scrub read that finds an error writes one. -/

namespace Sys2Proof.Machine

/-- The device after reset with its error log on: the ring at ELG_BASE = 0 is empty (R265). -/
def errorLogOn : State := State.reset.setReg .elgCtl 0 1

/-- With the error log on, the scrubber's read of line 0 that finds an uncorrectable error writes its record: byte 7 of memory holds
SRC 1, and was 0 before. -/
theorem exec_scrubRead_writesLog : ∃ u, exec (.scrubRead 0 2) errorLogOn = .next u ∧ u.byte 7 = 1 ∧ errorLogOn.byte 7 = 0 :=
  ⟨_, rfl, by decide, by decide⟩

/-- Refutes O55: where the error log is on, the read of a line with an uncorrectable error changes memory, in which the log's ring
stands (R265), and the statement has memory unchanged. -/
theorem not_checksAndResets : ¬ Obligations.ChecksAndResets := by
  intro h
  obtain ⟨-, -, -, -, hscrub, -⟩ := h errorLogOn 0 0 0 0 0 0 0 0 0 0 false false ⟨0, 0, 0, false⟩ [] ⟨.m, 0, 0, false⟩ ⟨0, false, 0⟩
  obtain ⟨-, -, u, hu, -, hmem, -⟩ := hscrub (by decide)
  obtain ⟨v, hv, hafter, hbefore⟩ := exec_scrubRead_writesLog
  have huv : u = v := Host.Outcome.next.inj (hu.symm.trans hv)
  rw [← huv, State.byte, hmem] at hafter
  rw [State.byte, hafter] at hbefore
  exact absurd hbefore (by decide)

end Sys2Proof.Machine

/-! PROOFS. Waits that end (R164, R165, R208, R232, R373 to R375): sleeps, promises and joins, and the ages of reservations and
holds. -/

namespace Sys2Proof.Machine

/-! ## A thread that goes on -/

/-- u is s but for a thread that has left its wait: it stands before the block that its exit named, with the registers and flags
of d. -/
def State.GoesOn (s : State) (c k : Nat) (d : Thread) (u : State) : Prop :=
  (u.thread c k).exec = none ∧ (u.thread c k).next = (s.thread c k).next ∧ (u.thread c k).wait = none ∧
    (u.thread c k).regs = d.regs ∧ (u.thread c k).fpflags = d.fpflags ∧ u.mem = s.mem ∧
    (u.thread c k).st ∈ ([.running, .waiting, .parked] : List TState)

/-- A thread leaves its wait (R372) with the registers and flags that it has then. -/
theorem State.goesOn_leaveWait {s v : State} {c k : Nat} {d : Thread} (hmem : v.mem = s.mem) (hth : v.thread c k = d)
    (hnext : d.next = (s.thread c k).next) : s.GoesOn c k d (v.leaveWait c k) := by
  obtain ⟨st, q, hst, hpass⟩ := v.passOn_thread c k (v.thread c k).next
  rw [State.GoesOn, State.leaveWait, hpass, hth]
  exact ⟨rfl, hnext, rfl, rfl, rfl, (v.passOn_mem ..).trans hmem, hst⟩

theorem State.goesOn_enterWaiting (s : State) (c k : Nat) :
    s.GoesOn c k (s.thread c k) (s.enterWaiting c k (s.thread c k).next) := by
  rw [State.GoesOn, State.enterWaiting, State.thread_updThread, if_pos ⟨rfl, rfl⟩]
  refine ⟨rfl, rfl, rfl, rfl, rfl, rfl, ?_⟩
  dsimp only
  split <;> decide

/-! ## SLEEP and WAITT -/

/-- Is the copy that a promise names still in its engine's queue (R311, R375)? -/
def State.promisePending (s : State) (id : Word) : Bool :=
  (s.engine (bitsOf id.toNat 63 62) (bitsOf id.toNat 61 58)).queue.any (fun q => q.count % 1024 = bitsOf id.toNat 57 48)

/-- The status of the copy that a promise names, as WAITT writes it (R375). -/
def State.promiseStatus (s : State) (id : Word) : Word :=
  BitVec.ofNat 64 (KMap.lookD (s.engine (bitsOf id.toNat 63 62) (bitsOf id.toNat 61 58)).status (bitsOf id.toNat 57 48) 2)

/-- A wait trap leaves its thread trapped with its registers, and its fault token keeps the wait (R199). -/
theorem State.takeWaitTrap_traps (s : State) (c k code : Nat) (addr info : Word) : ∃ x,
    ((s.takeWaitTrap c k code addr info).thread c k).st = .trapped ∧
      ((s.takeWaitTrap c k code addr info).core c).faultNet = (s.core c).faultNet ++ [x] ∧ x.code = code ∧ x.kind = .wait ∧
      x.waitOf = (s.thread c k).wait ∧ ((s.takeWaitTrap c k code addr info).thread c k).regs = (s.thread c k).regs := by
  have hth : (s.takeWaitTrap c k code addr info).thread c k = { s.thread c k with st := .trapped, wait := none } := by
    rw [State.takeWaitTrap, State.thread_sendFault, State.thread_updThread, if_pos ⟨rfl, rfl⟩]
  have hnet (g : Thread → Thread) : ((s.updThread c k g).core c).faultNet = (s.core c).faultNet := by simp [State.updThread]
  rw [hth, State.takeWaitTrap, State.faultNet_sendFault, hnet]
  exact ⟨_, rfl, rfl, rfl, rfl, rfl, rfl⟩

section Sleep
variable {s : State} {c k t : Nat} (hst : (s.thread c k).st = .sleeping)
include hst

theorem exec_sleepWake_waits (hw : (s.thread c k).wait = some (.tick t) ∨ (s.thread c k).wait = some (.retryAt t))
    (hv : s.viewReached c t = false) : exec (.sleepWake c k) s = .next s := by
  show execSleepWake c k s = _
  rcases hw with hw | hw <;> simp [execSleepWake, hst, hw, hv]

theorem exec_sleepWake_goesOn (hw : (s.thread c k).wait = some (.tick t) ∨ (s.thread c k).wait = some (.retryAt t))
    (hv : s.viewReached c t = true) : ∃ u, exec (.sleepWake c k) s = .next u ∧ s.GoesOn c k (s.thread c k) u := by
  rcases hw with hw | hw
  · refine ⟨s.leaveWait c k, ?_, State.goesOn_leaveWait rfl rfl rfl⟩
    show execSleepWake c k s = _
    simp [execSleepWake, hst, hw, hv]
  · refine ⟨_, ?_, s.goesOn_enterWaiting c k⟩
    show execSleepWake c k s = _
    simp [execSleepWake, hst, hw, hv]

variable {id : Word} {reg : Nat} {sc : Scope} (hw : (s.thread c k).wait = some (.promise t id reg sc))
include hw

theorem exec_waittWake_waits (hv : s.viewReached c t = false) : exec (.waittWake c k) s = .next s := by
  show execWaittWake c k s = _
  simp [execWaittWake, hst, hw, hv]

/-- The status of the copy enters the register, and the thread goes on, behind an acquire where the scope is wide. -/
theorem exec_waittWake_done (hv : s.viewReached c t = true) (hq : s.promisePending id = false) :
    ∃ u, exec (.waittWake c k) s = .next u ∧ s.GoesOn c k ((s.thread c k).setReg reg (s.promiseStatus id)) u := by
  have hfind := List.find?_eq_none.mpr (List.any_eq_false.mp hq)
  let w := s.updThread c k (fun u => u.setReg reg (s.promiseStatus id))
  have hwth : w.thread c k = (s.thread c k).setReg reg (s.promiseStatus id) := by
    rw [State.thread_updThread, if_pos ⟨rfl, rfl⟩]
  refine ⟨(if wideScope sc then w.selfInvalidate c else w).leaveWait c k, ?_, ?_⟩
  · show execWaittWake c k s = _
    simp only [execWaittWake, hst, hw, hv, hfind, Bool.not_true, Bool.false_eq_true, if_false]
    rfl
  · split
    · exact State.goesOn_leaveWait rfl hwth rfl
    · exact State.goesOn_leaveWait rfl hwth rfl

/-- Where the engine still holds the copy, the thread traps with PROMISE, 0x20. -/
theorem exec_waittWake_traps (hv : s.viewReached c t = true) (hq : s.promisePending id = true) :
    ∃ addr info, exec (.waittWake c k) s = .next (s.takeWaitTrap c k 0x20 addr info) := by
  obtain ⟨q, hfind⟩ := Option.isSome_iff_exists.mp (List.find?_isSome.mpr (List.any_eq_true.mp hq))
  show ∃ addr info, execWaittWake c k s = _
  simp only [execWaittWake, hst, hw, hv, hfind, Bool.not_true, Bool.false_eq_true, if_false]
  exact ⟨_, _, rfl⟩

end Sleep

/-! ## HJOIN -/

/-- The thread with the fold of its recruitment, its flags and the mask of the helpers that are done (R231, R232). -/
def Thread.joined (th : Thread) (r : Recruitment) (mreg : Nat) : Thread :=
  { (th.setReg r.reg (r.fold (th.reg r.reg)).1).setReg mreg (BitVec.ofNat 64 (r.done.foldl (fun acc i => acc + 2 ^ i) 0)) with
    fpflags := th.fpflags ||| (r.fold (th.reg r.reg)).2 }

section Join
variable {s : State} {c k mreg : Nat} {tm : Team} {r : Recruitment} (hst : (s.thread c k).st = .joining)
  (hw : (s.thread c k).wait = some (.joinOf mreg)) (ht : s.team? (s.thread c k).team = some tm)
  (hr : KMap.look tm.recs (s.thread c k).tid = some r)
include hst hw ht hr

theorem exec_join_waits (hj : s.joinable c tm r = false) : exec (.join c k) s = .next s := by
  show Host.Outcome.next (s.joinNow c k) = _
  simp [State.joinNow, hst, hw, ht, hr, hj]

theorem exec_join_goesOn (hj : s.joinable c tm r = true) :
    ∃ u, exec (.join c k) s = .next u ∧ s.GoesOn c k ((s.thread c k).joined r mreg) u := by
  let v := s.updTeam (s.thread c k).team (fun t => { t with recs := KMap.del t.recs (s.thread c k).tid })
  let w := v.updThread c k (fun u =>
    { (u.setReg r.reg (r.fold ((s.thread c k).reg r.reg)).1).setReg mreg
        (BitVec.ofNat 64 (r.done.foldl (fun acc i => acc + 2 ^ i) 0)) with
      fpflags := u.fpflags ||| (r.fold ((s.thread c k).reg r.reg)).2 })
  have hwth : w.thread c k = (s.thread c k).joined r mreg := by
    rw [State.thread_updThread, if_pos ⟨rfl, rfl⟩, State.updTeam_thread]
    rfl
  refine ⟨w.leaveWait c k, ?_, State.goesOn_leaveWait (State.updTeam_mem ..) hwth rfl⟩
  show Host.Outcome.next (s.joinNow c k) = _
  simp only [State.joinNow, hst, hw, ht, hr, hj, Bool.not_true, Bool.false_eq_true, if_false]
  rfl

end Join

/-! ## Reservations and holds -/

section Ages
variable {s : State} {c k : Nat} {v : Resv}

theorem exec_reservationAgeExpiry (h : (s.thread c k).resv = some v) : exec (.reservationAgeExpiry c k) s =
    .next (if v.tick + 10000 ≤ s.now c then s.updThread c k (fun t => { t with resv := none, hold := none }) else s) := by
  show execReservationAgeExpiry c k s = _
  rw [execReservationAgeExpiry, h]

theorem exec_holdExpiry (h : (s.thread c k).hold = some v) : exec (.holdExpiry c k) s =
    .next (if v.tick + 2000 ≤ s.now c then (s.updThread c k (fun t => { t with hold := none })).flushHeld else s) := by
  show execHoldExpiry c k s = _
  rw [execHoldExpiry, h]

end Ages

/-- Settles O43: each wait by the equation of its step, before its end and at it. -/
theorem threadsLeaveWaits : Obligations.ThreadsLeaveWaits := by
  intro s c k t reg mreg id sc v tm r th goesOn
  refine ⟨fun hst hw => ⟨exec_sleepWake_goesOn hst hw, exec_sleepWake_waits hst hw⟩,
    fun hst hw => ⟨exec_waittWake_waits hst hw, fun hv => ⟨exec_waittWake_done hst hw hv, fun hq => ?trap⟩⟩,
    fun hst hw ht hr => ⟨exec_join_waits hst hw ht hr, fun hj => ?join⟩,
    fun h => ⟨fun hold => ?aged, fun hyoung => ?unaged⟩, fun h => ⟨fun hold => ?held, fun hyoung => ?unheld⟩⟩
  case trap =>
    obtain ⟨addr, info, hexec⟩ := exec_waittWake_traps hst hw hv hq
    obtain ⟨x, hx⟩ := s.takeWaitTrap_traps c k 0x20 addr info
    exact ⟨_, x, hexec, hx⟩
  case join =>
    obtain ⟨u, hexec, hu⟩ := exec_join_goesOn hst hw ht hr hj
    exact ⟨u, th.joined r mreg, hexec, hu, rfl, rfl⟩
  case aged =>
    refine ⟨_, (exec_reservationAgeExpiry h).trans (congrArg _ (if_pos hold)), ?_⟩
    rw [State.thread_updThread, if_pos ⟨rfl, rfl⟩]
    exact ⟨rfl, rfl, rfl, rfl⟩
  case unaged => exact (exec_reservationAgeExpiry h).trans (congrArg _ (if_neg (Nat.not_le.mpr hyoung)))
  case held =>
    refine ⟨_, (exec_holdExpiry h).trans (congrArg _ (if_pos hold)), ?_⟩
    rw [State.thread_updThread, if_pos ⟨rfl, rfl⟩]
    exact ⟨rfl, rfl, rfl, rfl⟩
  case unheld => exact (exec_holdExpiry h).trans (congrArg _ (if_neg (Nat.not_le.mpr hyoung)))

end Sys2Proof.Machine

/-! PROOFS. Replies (R141, R153, R345): a LIN whose access holds a byte of stage memory that is not carved. -/

namespace Sys2Proof.Machine

/-! ## What a queue receives -/

/-- A token put on a port stands there. -/
theorem mem_arriveAt (a : Arrival) (l : List Arrival) : a ∈ arriveAt a l := by
  induction l with
  | nil => exact List.mem_singleton_self a
  | cons x r ih =>
    rw [arriveAt]
    split
    · exact List.mem_cons_of_mem x ih
    · exact List.mem_cons_self

/-- A result of one token on Q0 alone stands on the tile's local queue 0, port 8 (R58). -/
theorem mem_queue_emitOut (s : State) (f : Firing) (t : Token) (hh : f.site.handler = false) (hp : f.port = none) :
    ∃ a ∈ ((s.emitOut f (Route1.full ⟨.w0, .q0, .discard⟩) (.both [t])).ctx f.site.core f.site.tile false).port 8, a.tok = t := by
  let v := s.trace f .q0 t
  have hsent : s.emitOut f (Route1.full ⟨.w0, .q0, .discard⟩) (.both [t]) =
      v.updCtx f.site.core f.site.tile false (fun x => x.updPort 8 (arriveAt ⟨t, v.cycle f.site.core + 1, false⟩)) := by
    simp only [State.emitOut, State.sendOut, State.returnToPort, hp, hh]
    rfl
  refine ⟨⟨t, v.cycle f.site.core + 1, false⟩, ?_, rfl⟩
  rw [hsent, ctx_updCtx _ _ _ _ _ (fun h => by cases h), port_updPort]
  exact mem_arriveAt _ _

/-! ## The counterexample -/

/-- An outstanding LIN of register 0 to Q0, of thread 1, that names a byte of stage memory. -/
def linOfStage : Access :=
  { id := 0, thread := 1, site := ⟨0, 0, 2, false⟩, bits := ⟨0x106E4814, 0⟩, a := [{}], b := [], q := [], stage := .reply, due := 0,
    fired := 0, bytes := [(0xC000000000, 0)] }

/-- The device after reset, with no stage memory carved, a thread in an execution that has written nothing, and that access. -/
def linUncarved : State :=
  { State.reset with cores := [(0, { threads := [(1, { st := .running, exec := some { image := 0, block := 0, region := 0 } })],
                                     accesses := [(3, linOfStage)] })] }

/-- The reply of that LIN is the fault PROT (R141): Q0 receives its code, 0x11, and not the register. -/
theorem exec_memoryReply_linUncarved : ∃ u, exec (.memoryReply 0 3) linUncarved = .next u ∧
    ((u.ctx 0 0 false).port 8).map (·.tok.w64) = [0x11] :=
  ⟨_, rfl, by decide⟩

/-- Refutes O33: the clause of LIN does not say that the bytes of the access are still there (bytesGone), as those of the loads
do. A LIN whose access names a byte of stage memory that is not carved takes PROT as any access does (R141), and sends the
fault's code where the clause has the register. No LIN enters such an access: it names no bytes (R345). -/
theorem not_loadReplies : ¬ Obligations.LoadReplies := by
  intro h
  obtain ⟨-, -, hlin⟩ := h linUncarved 0 3 linOfStage { image := 0, block := 0, region := 0 } rfl rfl rfl rfl rfl
  obtain ⟨u, t, hexec, hreg, -⟩ := hlin ⟨.w0, .q0, .discard⟩ .int ⟨0, ⟨false, 0, 0, 0⟩⟩ rfl (by decide) (by decide)
  obtain ⟨v, hv, hport⟩ := exec_memoryReply_linUncarved
  obtain rfl : v = _ := Host.Outcome.next.inj (hv.symm.trans hexec)
  obtain ⟨a, ha, rfl⟩ := mem_queue_emitOut u linOfStage.firing t rfl rfl
  have hcode : a.tok.w64 = 0x11 := List.mem_singleton.mp (hport ▸ List.mem_map_of_mem ha)
  rw [hcode] at hreg
  exact absurd hreg (by decide)

end Sys2Proof.Machine

/-! PROOFS. The Dealer's rounds (R172, R175, R177, R179, R182): the choice of a block, the first plane of a load, an injection, the
end of a batch, and class-2 threads that become due. -/

namespace Sys2Proof.Machine

/-! ## What the parts of a round leave as it is -/

section Parts
variable (s : State) (c : Nat) {g : Core → Core}

theorem State.region_updCore (hg : ∀ q, (g q).regions = q.regions) (d r : Nat) : (s.updCore c g).region d r = s.region d r := by
  rw [State.region, State.core_updCore, State.region]
  split
  · next h => rw [hg, h]
  · rfl

/-- The entry channels of a block depend on the layout of the core and on the images alone. -/
theorem State.blockEntries_updCore (hg : ∀ q, (g q).layout = q.layout) (d r img blk : Nat) :
    (s.updCore c g).blockEntries d r img blk = s.blockEntries d r img blk := by
  have hlayout : ((s.updCore c g).core d).layout = (s.core d).layout := by
    rw [State.core_updCore]
    split
    · next h => rw [hg, h]
    · rfl
  have hrect : (s.updCore c g).regionRect d r = s.regionRect d r := by rw [State.regionRect, hlayout, State.regionRect]
  rw [State.blockEntries, hrect]
  rfl

theorem State.blockEntries_updThread (k r img blk : Nat) (f : Thread → Thread) :
    (s.updThread c k f).blockEntries c r img blk = s.blockEntries c r img blk := by
  rw [State.updThread, State.blockEntries_updCore]
  exact fun _ => rfl

theorem State.blockEntries_updRegion (q r img blk : Nat) (f : Region → Region) :
    (s.updRegion c q f).blockEntries c r img blk = s.blockEntries c r img blk := by
  rw [State.updRegion, State.blockEntries_updCore]
  exact fun _ => rfl

theorem State.ctx_updThread (k d t : Nat) (h : Bool) (f : Thread → Thread) : (s.updThread c k f).ctx d t h = s.ctx d t h := by
  rw [State.ctx, State.tile_updThread, State.ctx]

theorem State.ctx_updRegion (r d t : Nat) (h : Bool) (f : Region → Region) : (s.updRegion c r f).ctx d t h = s.ctx d t h := by
  rw [State.ctx, tile_updRegion, State.ctx]

/-- A change of one active plane, as any active plane of the core reads after it. -/
theorem State.ctx_updCtx_main (t u : Nat) (f : PlaneCtx → PlaneCtx) :
    (s.updCtx c t false f).ctx c u false = if u = t then f (s.ctx c t false) else s.ctx c u false := by
  split
  · next h => subst h; exact ctx_updCtx s c u false f (fun h => by cases h)
  · next h => rw [State.ctx, State.updCtx, State.tile_updTile, if_neg (fun e => h e.2), State.ctx]

end Parts

/-! ## Tokens put on entry channels -/

theorem port_updPort_other (x : PlaneCtx) {p q : Nat} (f : List Arrival → List Arrival) (h : p ≠ q) :
    (x.updPort q f).port p = x.port p := by
  simp only [PlaneCtx.updPort, PlaneCtx.port]
  by_cases hq : q < 8 <;> by_cases hp : p < 8 <;> simp only [hq, hp, if_true, if_false]
  · exact KMap.lookD_alter_other _ _ _ _ _ _ h
  · exact KMap.lookD_alter_other _ _ _ _ _ _ (by omega)

/-- A token put behind others on a port leaves every token of every port there. -/
theorem mem_port_append {x : PlaneCtx} {p q : Nat} {z : Arrival} (a : Arrival) (hz : z ∈ x.port p) :
    z ∈ (x.updPort q (fun l => l ++ [a])).port p := by
  by_cases h : p = q
  · subst h
    rw [port_updPort]
    exact List.mem_append_left _ hz
  · rwa [port_updPort_other _ _ h]

/-- The state with an arrival behind the others on every entry channel of a list. -/
def State.putEntries (s : State) (c : Nat) (a : State → Arrival) (l : List (Nat × Nat)) : State :=
  l.foldl (fun s e => s.updCtx c e.1 false (fun x => x.updPort e.2 (fun q => q ++ [a s]))) s

/-- Does a port of a core's active plane hold a token? -/
def State.PortHas (s : State) (c : Nat) (e : Nat × Nat) (tok : Token) : Prop :=
  ∃ x ∈ (s.ctx c e.1 false).port e.2, x.tok = tok

section Entries
variable (s : State) (c : Nat) (a : State → Arrival) (l : List (Nat × Nat))

/-- What no change of a plane context touches, tokens on entry channels leave as it is. -/
theorem State.putEntries_keep {γ : Type} (v : State → γ) (hv : ∀ (s : State) t f, v (s.updCtx c t false f) = v s) :
    v (s.putEntries c a l) = v s := foldl_keep v _ _ _ fun s _ => hv s _ _

variable {s c a l} {tok : Token} {e : Nat × Nat}

theorem State.PortHas.put (h : s.PortHas c e tok) (b : Arrival) (d : Nat × Nat) :
    (s.updCtx c d.1 false (fun x => x.updPort d.2 (fun q => q ++ [b]))).PortHas c e tok := by
  obtain ⟨x, hx, htok⟩ := h
  refine ⟨x, ?_, htok⟩
  rw [State.ctx_updCtx_main]
  split
  · next he => exact mem_port_append b (he ▸ hx)
  · exact hx

/-- Every channel of the list holds the token then, and a channel that held it before still does. -/
theorem State.portHas_putEntries (ha : ∀ s, (a s).tok = tok) (h : s.PortHas c e tok ∨ e ∈ l) :
    (s.putEntries c a l).PortHas c e tok := by
  induction l generalizing s with
  | nil => exact h.resolve_right List.not_mem_nil
  | cons d r ih =>
    refine ih ?_
    rcases h with h | h
    · exact .inl (h.put (a s) d)
    · rcases List.mem_cons.mp h with rfl | h
      · refine .inl ⟨a s, ?_, ha s⟩
        rw [State.ctx_updCtx_main, if_pos rfl, port_updPort]
        exact List.mem_append_right _ List.mem_cons_self
      · exact .inr h

end Entries

/-! ## The choice of a block (R172) -/

section Choose
variable {s : State} {c r : Nat}

theorem exec_chooseBlock_plain (hf : s.regionFrozen c r = false) (hm : s.mayChoose c r = true) :
    exec (.chooseBlock c r) s = .next (s.choosePlain c r) := by
  show execChooseBlock c r s = _
  simp [execChooseBlock, hf, hm]

theorem State.batch_of_mayChoose (hm : s.mayChoose c r = true) : (s.region c r).batch = none := by
  simp only [State.mayChoose, Bool.and_eq_true, Option.isNone_iff_eq_none] at hm
  obtain ⟨⟨⟨⟨⟨-, hb⟩, -⟩, -⟩, -⟩, -⟩ := hm
  exact hb

theorem State.choosePlain_none (h : s.candidates c r = []) :
    s.choosePlain c r = s.updRegion c r (fun g => { g with idle := true, chooseAt := none }) := by
  rw [State.choosePlain, h]
  rfl

/-- Where threads of a class wait, MostWaiting answers a block on which the most of them wait. -/
theorem State.mostWaiting_some {l : List Candidate} {n : Nat} {y : Candidate} (hy : y ∈ l) (hn : s.ofClass c n y ≠ []) :
    ∃ x, s.mostWaiting c n l = some x ∧ x ∈ l ∧ ∀ z ∈ l, (s.ofClass c n z).length ≤ (s.ofClass c n x).length := by
  have hspec := greatestBy_spec (fun x => (s.ofClass c n x).length) (l.filter (fun x => !(s.ofClass c n x).isEmpty))
  have mem {z : Candidate} (hz : z ∈ l) (h : s.ofClass c n z ≠ []) : z ∈ l.filter (fun x => !(s.ofClass c n x).isEmpty) :=
    List.mem_filter.mpr ⟨hz, by simpa using h⟩
  rw [← State.mostWaiting] at hspec
  cases hx : s.mostWaiting c n l with
  | none =>
    rw [hx] at hspec
    exact absurd (mem hy hn) (by rw [hspec]; exact List.not_mem_nil)
  | some x =>
    rw [hx] at hspec
    obtain ⟨hmem, hmax⟩ := hspec
    refine ⟨x, rfl, List.mem_of_mem_filter hmem, fun z hz => ?_⟩
    by_cases h : s.ofClass c n z = []
    · simp [h]
    · exact hmax z (mem hz h)

/-- Ages change no thread. -/
theorem State.ageBlocks_thread (line : Nat) (l : List Candidate) (x : Candidate) (d k : Nat) :
    (s.ageBlocks c line l x).thread d k = s.thread d k := by
  dsimp only [State.ageBlocks]
  rw [State.thread_updCore]
  exact fun _ => rfl

theorem State.ageBlocks_classOf (line : Nat) (l : List Candidate) (x : Candidate) (k : Nat) :
    (s.ageBlocks c line l x).classOf c k = s.classOf c k := by
  rw [State.classOf, State.ageBlocks_thread, State.classOf]

theorem State.ageBlocks_isDue (line : Nat) (l : List Candidate) (x : Candidate) (k : Nat) :
    (s.ageBlocks c line l x).isDue c k = s.isDue c k := by
  rw [State.isDue, State.ageBlocks_classOf, State.ageBlocks_thread, State.isDue]

/-- The round of a block that MostWaiting answers for class 0: every thread on the block but the class-2 threads that are not
due, and the window of DLR_INJWIN. -/
theorem State.choosePlain_class0 {x : Candidate} (hx : s.mostWaiting c 0 (s.candidates c r) = some x) :
    ∃ b, ((s.choosePlain c r).region c r).batch = some b ∧ b.image = x.image ∧ b.block = x.block ∧ b.class0 = true ∧
      (∀ j, j ∈ b.batch ↔ j ∈ x.threads ∧ (s.classOf c j = 2 → s.isDue c j = true)) ∧
      ((s.choosePlain c r).region c r).window = s.regN .dlrInjwin := by
  have hline : s.chooseFrom c (s.candidates c r) = some (1, x) := by rw [State.chooseFrom, hx]
  rw [State.choosePlain, hline]
  dsimp only
  rw [region_updRegion, if_pos ⟨rfl, rfl⟩]
  refine ⟨_, rfl, rfl, rfl, rfl, fun j => ?_, ?_⟩
  · rw [mem_sortBy, List.mem_filter]
    simp [State.ageBlocks_classOf, State.ageBlocks_isDue, imp_iff_not_or]
  · dsimp only [State.regN, State.reg]
    rw [foldl_keep State.regs _ _ _ fun s k => State.updThread_regs ..]
    rfl

end Choose

/-! ## The first plane of a load (R179) -/

section Load
variable {s : State} {c r : Nat}

/-- The first group of a load brings the plane of its first tile and nothing else of the tiles. -/
theorem State.loadGroup_first {l : PlaneLoad} {t : Nat} {rest : List Nat} (hloads : (s.region c r).loads = [l])
    (hready : s.loadReady c [l] 0 = true) (hfirst : l.first = true) (htiles : l.tiles = t :: rest)
    (hs : (s.tile c t).shadow = none) : ∃ m x, s.loadGroup c r = ((s.updTile c t (fun tl => { tl with
      shadow := some (KMap.lookD (l.planes.getD (s.blockPlanes c r l.image l.block)) t {}) })).cacheFill c m).updRegion c r
        (fun g => { g with loads := x }) := by
  have hnow : (s.loadTiles c [l] 0).take 1 = [t] := by simp [State.loadTiles, htiles, hs]
  have hfind : (upTo 1).find? (fun i => s.loadReady c [l] i) = some 0 := by simp [upTo, List.range_succ, hready]
  rw [State.loadGroup, hloads]
  simp only [List.length_singleton, hfind, List.getElem?_cons_zero, hfirst, if_true, hnow]
  exact ⟨_, _, rfl⟩

/-- Without a handler's plane and displaced planes the tiles stay. -/
theorem State.loadHandlerPlane_tile (hh : (s.region c r).hplane = none) (hd : (s.region c r).displaced = []) (d u : Nat) :
    (s.loadHandlerPlane c r).tile d u = s.tile d u := by
  rw [State.loadHandlerPlane, hh]
  dsimp only
  split
  · rw [hd, tile_updRegion]
    rfl
  · rfl

/-- A round's first plane stands in the shadow plane of its tile, and the other tiles stay. -/
theorem State.load_first_tile {l : PlaneLoad} {t : Nat} {rest : List Nat} (hloads : (s.region c r).loads = [l])
    (hready : s.loadReady c [l] 0 = true) (hfirst : l.first = true) (htiles : l.tiles = t :: rest)
    (hs : (s.tile c t).shadow = none) (hh : (s.region c r).hplane = none) (hd : (s.region c r).displaced = []) (q : Nat) :
    ((s.loadGroup c r).loadHandlerPlane c r).tile c q = if q = t then { s.tile c t with
      shadow := some (KMap.lookD (l.planes.getD (s.blockPlanes c r l.image l.block)) t {}) } else s.tile c q := by
  obtain ⟨m, x, hgroup⟩ := State.loadGroup_first hloads hready hfirst htiles hs
  have hregion : (s.loadGroup c r).region c r = { s.region c r with loads := x } := by
    rw [hgroup, region_updRegion, if_pos ⟨rfl, rfl⟩]
    exact congrArg (fun g : Region => { g with loads := x }) (region_updTile ..)
  rw [State.loadHandlerPlane_tile (by rw [hregion]; exact hh) (by rw [hregion]; exact hd), hgroup, tile_updRegion]
  refine (State.tile_updTile ..).trans ?_
  simp only [true_and]

end Load

/-! ## Injection (R177) -/

/-- The state in which an injected thread's execution has begun and its tokens have not yet been sent. -/
def State.beginExec (s : State) (c r k img blk : Nat) (b : Block) : State :=
  ((s.spinUpdate c k blk (s.spinHash c k b blk)).updThread c k (fun t =>
    { t with st := .running, next := blk, queued := false, replay := [], lastRegion := r
             exec := some { image := img, block := blk, region := r } })).updCore c (fun q =>
    { q with bufUsed := q.bufUsed + b.budget })

section Begin
variable (s : State) (c r k img blk : Nat) (b : Block)

theorem State.beginExec_thread : let th := (s.beginExec c r k img blk b).thread c k
    th.st = .running ∧ th.next = blk ∧ th.exec = some { image := img, block := blk, region := r } := by
  dsimp only
  rw [State.beginExec, State.thread_updCore, State.thread_updThread, if_pos ⟨rfl, rfl⟩]
  · exact ⟨rfl, rfl, rfl⟩
  · exact fun _ => rfl

theorem State.beginExec_bufUsed : ((s.beginExec c r k img blk b).core c).bufUsed = (s.core c).bufUsed + b.budget := by
  simp [State.beginExec, State.spinUpdate, State.updThread]

theorem State.beginExec_region (d q : Nat) : (s.beginExec c r k img blk b).region d q = s.region d q := by
  rw [State.beginExec, State.region_updCore, region_updThread, State.spinUpdate, region_updThread]
  exact fun _ => rfl

theorem State.beginExec_blockEntries (q i n : Nat) :
    (s.beginExec c r k img blk b).blockEntries c q i n = s.blockEntries c q i n := by
  rw [State.beginExec, State.blockEntries_updCore, State.blockEntries_updThread, State.spinUpdate, State.blockEntries_updThread]
  exact fun _ => rfl

/-- Beside the execution begun and its entry tokens, an injection changes the agenda alone. -/
theorem State.inject_eq : ∃ l, s.inject c r k img blk b false = { (s.beginExec c r k img blk b).putEntries c
    (fun s => ⟨entryToken c k, s.cycle c, false⟩) (s.blockEntries c r img blk) with agenda := l } := by
  rw [← s.beginExec_blockEntries c r k img blk b r img blk]
  exact ⟨_, rfl⟩

end Begin

theorem State.injectFrozen_none {s : State} {c r : Nat} (h : (s.region c r).hplane = none) : s.injectFrozen c r = s := by
  rw [State.injectFrozen, h]

/-- A region that has injected thread k of its batch in a cycle. -/
def Region.dealt (g : Region) (k n : Nat) : Region :=
  { g with entry := g.entry.filter (· ≠ k), lastInj := some n
           batch := g.batch.map (fun b => { b with batch := b.batch.filter (· ≠ k), injected := b.injected + 1 }) }

/-- The state with a thread of a batch dealt: its execution begun, and an entry token on every entry channel. -/
def State.deal (s : State) (c r k : Nat) (b : Batch) (blk : Block) : State :=
  ((s.updRegion c r (fun g => g.dealt k (s.cycle c))).beginExec c r k b.image b.block blk).putEntries c
    (fun s => ⟨entryToken c k, s.cycle c, false⟩) (s.blockEntries c r b.image b.block)

section Deal
variable (s : State) (c r k : Nat) (b : Batch) (blk : Block)

theorem State.deal_thread : let th := (s.deal c r k b blk).thread c k
    th.st = .running ∧ th.next = b.block ∧ th.exec = some { image := b.image, block := b.block, region := r } := by
  dsimp only
  rw [State.deal, State.putEntries_keep _ c _ _ (·.thread c k) fun s t f => thread_updCtx ..]
  exact State.beginExec_thread ..

theorem State.deal_bufUsed : ((s.deal c r k b blk).core c).bufUsed = (s.core c).bufUsed + blk.budget := by
  rw [State.deal, State.putEntries_keep _ c _ _ (fun s => (s.core c).bufUsed), State.beginExec_bufUsed]
  · simp [State.updRegion]
  · intro s t f
    simp [State.updCtx, State.updTile]

theorem State.deal_region : (s.deal c r k b blk).region c r = (s.region c r).dealt k (s.cycle c) := by
  rw [State.deal, State.putEntries_keep _ c _ _ (·.region c r) fun s t f => region_updCtx .., State.beginExec_region,
    region_updRegion, if_pos ⟨rfl, rfl⟩]

theorem State.portHas_deal {e : Nat × Nat} (he : e ∈ s.blockEntries c r b.image b.block) :
    (s.deal c r k b blk).PortHas c e (entryToken c k) := State.portHas_putEntries (fun _ => rfl) (.inr he)

end Deal

section Inject
variable {s : State} {c r k : Nat} {b : Batch} {blk : Block} (hb : (s.region c r).batch = some b)
  (hk : s.nextToInject c (s.region c r) = some k) (hblk : s.blockOn (dieOf c) b.image b.block = some blk)
  (hspace : ∀ n, (s.region c r).lastInj = some n → n + blk.ii ≤ s.cycle c) (hcount : b.injected < 4096)
  (hheld : (s.region c r).held = false) (hpre : (s.distOf (dieOf c)).preempting = false) (hdrain : s.rpl.draining = false)
  (hok : s.injectOk c r b.image b.block blk = true)
include hb hk hblk hspace hcount hheld hpre hdrain hok

/-- Where nothing stands against an injection, the next thread is dealt; beside that only the agenda changes. -/
theorem State.injectPlain_deals : ∃ l, s.injectPlain c r = { s.deal c r k b blk with agenda := l } := by
  let v := s.updRegion c r (fun g => g.dealt k (s.cycle c))
  have hplain : s.injectPlain c r = v.inject c r k b.image b.block blk false := by
    rw [State.injectPlain]
    simp only [hb, hk, hblk, hheld, hpre, hdrain, hok, Nat.not_le.mpr hcount, decide_false]
    rw [if_neg]
    · rfl
    · cases hn : (s.region c r).lastInj with
      | none => simp
      | some n => simpa using hspace n hn
  have hentries : v.blockEntries c r b.image b.block = s.blockEntries c r b.image b.block := s.blockEntries_updRegion ..
  obtain ⟨l, hl⟩ := v.inject_eq c r k b.image b.block blk
  exact ⟨l, by rw [hplain, hl, hentries]; rfl⟩

theorem exec_injectThread_deals (hh : (s.region c r).hplane = none) :
    ∃ l, exec (.injectThread c r) s = .next { s.deal c r k b blk with agenda := l } := by
  obtain ⟨l, hl⟩ := State.injectPlain_deals hb hk hblk hspace hcount hheld hpre hdrain hok
  have hplane : ((s.injectPlain c r).region c r).hplane = none := by
    rw [hl]
    exact (congrArg Region.hplane (s.deal_region c r k b blk)).trans hh
  refine ⟨l, ?_⟩
  show Host.Outcome.next ((s.injectPlain c r).injectFrozen c r) = _
  rw [State.injectFrozen_none hplane, hl]

end Inject

/-! ## The end of a batch (R175) -/

section EndBatch
variable {s : State} {c r : Nat} {b : Batch}

theorem exec_batchEndEos_ends (he : s.batchEnds c r = true) (hh : (s.region c r).held = false) :
    exec (.batchEndEos c r) s = .next (s.endBatch c r) := by
  show execBatchEndEos c r s = _
  simp [execBatchEndEos, he, hh]

/-- The state with EOS on a batch's entry channels, and counted where the plane names no channel (R72). -/
def State.sendBatchEos (s : State) (c r : Nat) (b : Batch) : State :=
  let u := s.putEntries c (fun s => ⟨eosToken (dieOf c), s.cycle c + 1, false⟩) (s.blockEntries c r b.image b.block)
  (u.unnamedTiles c r b.image b.block).foldl (fun s t =>
    s.updCtx c t false (fun x => { x with eos := KMap.alter x.eos eosKey 0 (· + 1) })) u

/-- Every entry channel holds the EOS: a count of EOS changes no port. -/
theorem State.portHas_sendBatchEos {e : Nat × Nat} (he : e ∈ s.blockEntries c r b.image b.block) :
    (s.sendBatchEos c r b).PortHas c e (eosToken (dieOf c)) := by
  obtain ⟨x, hx, htok⟩ := State.portHas_putEntries (s := s) (c := c)
    (a := fun s => ⟨eosToken (dieOf c), s.cycle c + 1, false⟩) (fun _ => rfl) (.inr he)
  refine ⟨x, ?_, htok⟩
  rw [State.sendBatchEos, foldl_keep (fun s : State => (s.ctx c e.1 false).port e.2)]
  · exact hx
  · intro s t
    rw [State.ctx_updCtx_main]
    split
    · next h => rw [h]; rfl
    · rfl

/-- The state with threads back in their waiting vectors. -/
def State.backToWaiting (s : State) (c : Nat) (l : List Nat) : State :=
  l.foldl (fun s k => (s.enterWaiting c k (s.thread c k).next).updThread c k (fun t => { t with queued := false })) s

theorem State.ctx_backToWaiting (l : List Nat) (t : Nat) : (s.backToWaiting c l).ctx c t false = s.ctx c t false :=
  foldl_keep (fun s : State => s.ctx c t false) _ _ _ fun s k => by
    dsimp only [State.enterWaiting]
    rw [State.ctx_updThread, State.ctx_updThread]

theorem State.region_backToWaiting (l : List Nat) : (s.backToWaiting c l).region c r = s.region c r :=
  foldl_keep (fun s : State => s.region c r) _ _ _ fun s k => by
    dsimp only [State.enterWaiting]
    rw [region_updThread, region_updThread]

theorem State.endBatch_eq (hb : (s.region c r).batch = some b) : ∃ n, s.endBatch c r =
    ((s.sendBatchEos c r b).updRegion c r (fun g => { g with batch := none, entry := [], chooseAt := n })).backToWaiting c
      (b.batch ++ (s.region c r).entry) := by
  refine ⟨some ((s.sendBatchEos c r b).cycle c + 1), ?_⟩
  rw [State.endBatch, hb]
  rfl

end EndBatch

/-! ## Due threads (R182) -/

/-- A thread after its core's look for due ones: a waiting class-2 thread whose half period has passed is due. -/
def Thread.spinDue (t : Thread) (half now : Nat) : Thread :=
  if t.st = .waiting && t.cls = 2 && t.due.isNone && decide (t.lastInj + half ≤ now) then
    { t with due := some (t.lastInj + half) } else t

theorem Thread.spinDue_eq (t : Thread) (half now : Nat) : t.spinDue half now =
    if t.st = .waiting ∧ t.cls = 2 ∧ t.due = none ∧ t.lastInj + half ≤ now then { t with due := some (t.lastInj + half) } else t := by
  simp only [Thread.spinDue, Bool.and_eq_true, decide_eq_true_eq, Option.isNone_iff_eq_none, and_assoc]

/-- A change of all threads of a core, as one of them reads after it. -/
theorem State.thread_mapThreads (s : State) (c j : Nat) {g : Thread → Thread} (hg : g {} = {}) :
    (s.updCore c (fun k => { k with threads := KMap.mapVals k.threads g })).thread c j = g (s.thread c j) := by
  rw [State.thread, State.core_updCore, if_pos rfl]
  exact look_mapVals _ _ _ _ hg

theorem exec_spinDue (s : State) (c : Nat) : exec (.spinDue c) s = .next (s.updCore c (fun k =>
    { k with threads := KMap.mapVals k.threads (·.spinDue (s.regN .dlrSpinPeriod / 2) (s.now c)) })) := rfl

/-- Settles O41: the equation of each step in the case stated, and what the state that it leaves reads. -/
theorem dealerRounds : Obligations.DealerRounds := by
  intro s c r y b blk k l t rest g
  refine ⟨fun hf hm => ⟨fun hc => ⟨_, exec_chooseBlock_plain hf hm, ?idle⟩, fun hy h0 => ?choice⟩,
    fun hloads hready hfirst htiles hs hh hd => ?load,
    fun hb hk hblk hspace hcount hheld hpre hdrain hok hh => ?inject,
    fun hb he hheld => ⟨_, exec_batchEndEos_ends he hheld, ?eos⟩, ⟨_, exec_spinDue s c, fun j => ?due⟩⟩
  case idle =>
    rw [State.choosePlain_none hc, region_updRegion, if_pos ⟨rfl, rfl⟩]
    exact ⟨rfl, State.batch_of_mayChoose hm⟩
  case choice =>
    obtain ⟨x, hx, hmem, hmax⟩ := State.mostWaiting_some hy h0
    obtain ⟨p, hp, himg, hblock, hclass, hbatch, hwindow⟩ := State.choosePlain_class0 hx
    refine ⟨_, x, exec_chooseBlock_plain hf hm, hmem, hmax, ?_, fun q hq j => ?_, hwindow⟩
    · rw [hp, Option.map_some, himg, hblock, hclass]
    · obtain rfl : p = q := Option.some.inj (hp.symm.trans hq)
      refine ⟨fun hj => ((hbatch j).mp hj).1, fun hj => ?_⟩
      obtain ⟨hj, hcls⟩ := List.mem_filter.mp hj
      have hcls : s.classOf c j = 0 := of_decide_eq_true hcls
      exact (hbatch j).mpr ⟨hj, fun h2 => by omega⟩
  case load =>
    have htile := State.load_first_tile hloads (hloads ▸ hready) hfirst htiles hs hh hd
    exact ⟨_, rfl, by rw [htile, if_pos rfl], fun q hq => by rw [htile, if_neg hq]⟩
  case inject =>
    obtain ⟨n, hexec⟩ := exec_injectThread_deals hb hk hblk hspace hcount hheld hpre hdrain hok hh
    obtain ⟨hst, hnext, hexecution⟩ := s.deal_thread c r k b blk
    have hregion := s.deal_region c r k b blk
    exact ⟨_, hexec, hst, hnext, hexecution, s.deal_bufUsed c r k b blk, fun e he => s.portHas_deal c r k b blk he,
      (congrArg Region.batch hregion).trans (congrArg (Option.map _) hb), congrArg Region.lastInj hregion⟩
  case eos =>
    obtain ⟨n, hend⟩ := State.endBatch_eq hb
    rw [hend, State.region_backToWaiting, region_updRegion, if_pos ⟨rfl, rfl⟩]
    refine ⟨rfl, rfl, fun e he => ?_⟩
    rw [State.ctx_backToWaiting, State.ctx_updRegion]
    exact State.portHas_sendBatchEos he
  case due =>
    exact (s.thread_mapThreads c j rfl).trans (Thread.spinDue_eq ..)

end Sys2Proof.Machine

/-! PROOFS. The resolutions of raised traps by FST_RESOLVE (R208, R209). -/

namespace Sys2Proof

theorem KMap.look_filter_keys {α : Type} (m : KMap α) (p : Nat → Bool) (k : Nat) :
    KMap.look (m.filter (fun x => p x.1)) k = if p k then KMap.look m k else none := by
  induction m with
  | nil => simp
  | cons x r ih =>
    obtain ⟨i, v⟩ := x
    by_cases hi : p i
    · by_cases hk : k = i
      · subst hk; simp [hi, KMap.look]
      · simp [hi, KMap.look, hk, ih]
    · by_cases hk : k = i
      · subst hk; simp [hi, ih]
      · simp [hi, KMap.look, hk, ih]

end Sys2Proof

namespace Sys2Proof.Machine

/-! ## What FST_RESOLVE makes of a slot -/

/-- The slot of a trap freed. -/
def State.slotFreed (s : State) (c j : Nat) : State := s.updCore c (fun x => { x with hslots := KMap.del x.hslots j })

theorem State.thread_slotFreed (s : State) (c j d k : Nat) : (s.slotFreed c j).thread d k = s.thread d k := by
  unfold State.slotFreed
  exact s.thread_updCore c (by exact fun _ => rfl) d k

theorem State.tile_slotFreed (s : State) (c j d t : Nat) : (s.slotFreed c j).tile d t = s.tile d t := by
  unfold State.slotFreed
  exact s.tile_updCore c (by exact fun _ => rfl) d t

theorem State.look_slotFreed (s : State) (c j : Nat) : KMap.look ((s.slotFreed c j).core c).hslots j = none := by
  rw [State.slotFreed, State.core_updCore, if_pos rfl]
  exact KMap.look_del_same ..

theorem State.faultNet_slotFreed (s : State) (c j : Nat) : ((s.slotFreed c j).core c).faultNet = (s.core c).faultNet := by
  rw [State.slotFreed, State.core_updCore, if_pos rfl]

/-- The blocks that a thread may enter do not rest on the handler slots, but for a handler thread, whose image stands in its
slot. -/
theorem State.blockAllowed_slotFreed (s : State) (c j blk : Nat) {k : Nat} (hk : isHandlerKey k = false) :
    (s.slotFreed c j).blockAllowed c k blk = s.blockAllowed c k blk := by
  simp only [State.blockAllowed, State.imageOf, hk, State.thread_slotFreed, Bool.false_eq_true, if_false]
  rfl

section Slot
variable {s : State} {c j : Nat}

theorem State.fstResolve_of_not_raised (h : ∀ y, KMap.look (s.core c).hslots j = some y → y.raised = false) (act blk : Nat)
    (arg : Word) : s.fstResolve c j act blk arg = s.setRegBit .fstErr 0 2 := by
  rw [State.fstResolve]
  cases hy : KMap.look (s.core c).hslots j with
  | none => rfl
  | some y => simp [h y hy]

variable {t : Trap} (ht : KMap.look (s.core c).hslots j = some t) (hr : t.raised = true)
include ht hr

theorem State.fstResolve_refused {act : Nat} (h : actionAllowed t.kind t.afterAtomic act = false) (blk : Nat) (arg : Word) :
    s.fstResolve c j act blk arg = s := by
  simp [State.fstResolve, ht, hr, h]

theorem State.fstResolve_allowed {act : Nat} (h : actionAllowed t.kind t.afterAtomic act = true) (blk : Nat) (arg : Word) :
    s.fstResolve c j act blk arg = (s.slotFreed c j).resolveEffect c t act blk arg := by
  simp [State.fstResolve, ht, hr, h, State.slotFreed]

end Slot

theorem actionAllowed_exit {kind : TrapKind} {b : Bool} (h : kind ≠ .freezing) : actionAllowed kind b 5 = true := by
  cases kind with
  | freezing => exact absurd rfl h
  | _ => rfl

theorem actionAllowed_branch {kind : TrapKind} {b : Bool} (h : kind ≠ .freezing) : actionAllowed kind b 3 = true := by
  cases kind with
  | freezing => exact absurd rfl h
  | _ => rfl

/-! ## What an action does to the thread (Table 10.6) -/

theorem State.applyRepairs_nil (s : State) (c : Nat) {t : Trap} (h : t.repairs = []) : s.applyRepairs c t = s := by
  rw [State.applyRepairs, h]; rfl

theorem State.applyInserts_nil (s : State) (c : Nat) {t : Trap} (h : t.repairs = []) : s.applyInserts c t = s := by
  rw [State.applyInserts, h]; rfl

/-- Of a freezing trap without repairs the action is that on its tile. -/
theorem State.resolveEffect_tile (s : State) (c blk : Nat) (arg : Word) {t : Trap} (hkind : t.kind = .freezing)
    (hreps : t.repairs = []) (act : Nat) : s.resolveEffect c t act blk arg = s.unfreeze c t.tile (decide (act = 1)) := by
  simp only [State.resolveEffect, hkind, State.applyRepairs_nil s c hreps, State.applyInserts_nil _ c hreps]

section Effect
variable (s : State) (c blk : Nat) (arg : Word) {t : Trap} {k : Nat} (hthread : t.thread = some k)
include hthread

theorem State.resolveEffect_of_void (hkind : t.kind ≠ .freezing) (hvoid : t.void = true) (act : Nat) :
    s.resolveEffect c t act blk arg = s := by
  cases hk : t.kind with
  | freezing => exact absurd hk hkind
  | _ => simp [State.resolveEffect, hk, hthread, hvoid]

variable (hvoid : t.void = false) (hreps : t.repairs = [])
include hvoid hreps

theorem State.resolveEffect_retry (hkind : t.kind = .exit) :
    s.resolveEffect c t 1 blk arg = s.enterWaiting c k (s.thread c k).next := by
  simp [State.resolveEffect, hkind, hthread, hvoid, State.applyRepairs_nil s c hreps]

theorem State.resolveEffect_retryat (hkind : t.kind = .exit) :
    s.resolveEffect c t 2 blk arg = s.enterSleep c k (.retryAt arg.toNat) := by
  simp [State.resolveEffect, hkind, hthread, hvoid, State.applyRepairs_nil s c hreps]

theorem State.resolveEffect_branch (hkind : t.kind ≠ .freezing) (h : s.blockAllowed c k blk = true) :
    s.resolveEffect c t 3 blk arg = s.enterWaiting c k blk := by
  cases hk : t.kind with
  | freezing => exact absurd hk hkind
  | _ => simp [State.resolveEffect, hk, hthread, hvoid, State.applyRepairs_nil s c hreps, h]

/-- A block that the thread may not enter: it traps with ILLOP, 0x01. -/
theorem State.resolveEffect_branch_refused (hkind : t.kind ≠ .freezing) (h : s.blockAllowed c k blk = false) :
    ∃ r, s.resolveEffect c t 3 blk arg = s.takeExitTrap c k 1 r false := by
  cases hk : t.kind with
  | freezing => exact absurd hk hkind
  | _ =>
    simp only [State.resolveEffect, hk, hthread, hvoid, State.applyRepairs_nil s c hreps, h, ite_self, Bool.false_eq_true, if_false]
    exact ⟨_, rfl⟩

omit hreps in
/-- An exit: the thread is EXITED, its recruitment is closed, and the barriers and the retirement of its team are looked at. -/
theorem State.resolveEffect_exit (hkind : t.kind ≠ .freezing) (hh : (s.thread c k).helper = none) :
    ∃ f, s.resolveEffect c t 5 blk arg =
      (((s.enterExited c k).updTeam (s.thread c k).team f).barriersCheck (s.thread c k).team).retireCheck (s.thread c k).team := by
  cases hk : t.kind with
  | freezing => exact absurd hk hkind
  | _ =>
    simp only [State.resolveEffect, hk, hthread, hvoid, hh, decide_true, Bool.true_or, if_true, Bool.false_eq_true, if_false,
      Option.isSome_none]
    exact ⟨_, rfl⟩

end Effect

/-! ## The thread after an action -/

theorem State.enterWaiting_thread (s : State) (c k blk : Nat) : ∃ st ∈ ([.waiting, .parked] : List TState),
    (s.enterWaiting c k blk).thread c k = { s.thread c k with st := st, next := blk, wait := none, exec := none } := by
  rw [State.enterWaiting, State.thread_updThread, if_pos ⟨rfl, rfl⟩]
  exact ⟨_, by split <;> decide, rfl⟩

theorem State.enterSleep_thread (s : State) (c k : Nat) (w : Wait) :
    (s.enterSleep c k w).thread c k = { s.thread c k with st := .sleeping, wait := some w, exec := none } := by
  rw [State.enterSleep, State.thread_updThread, if_pos ⟨rfl, rfl⟩]

theorem State.takeExitTrap_thread (s : State) (c k code : Nat) (r : Record) (b : Bool) :
    (s.takeExitTrap c k code r b).thread c k = { s.thread c k with st := .trapped, wait := none } := by
  rw [State.takeExitTrap, State.thread_sendFault, State.thread_updThread, if_pos ⟨rfl, rfl⟩]

theorem State.faultNet_updThread (s : State) (c k : Nat) (g : Thread → Thread) :
    ((s.updThread c k g).core c).faultNet = (s.core c).faultNet := by
  rw [State.updThread, State.core_updCore, if_pos rfl]

theorem State.takeExitTrap_faultNet (s : State) (c k code : Nat) (r : Record) (b : Bool) : ∃ f,
    ((s.takeExitTrap c k code r b).core c).faultNet = (s.core c).faultNet ++ [f] ∧ f.code = code ∧ f.kind = .exit := by
  rw [State.takeExitTrap, State.faultNet_sendFault, State.faultNet_updThread]
  exact ⟨_, rfl, rfl, rfl⟩

theorem State.hslots_updCore (s : State) (c : Nat) {g : Core → Core} (hg : ∀ q, (g q).hslots = q.hslots) (d : Nat) :
    ((s.updCore c g).core d).hslots = (s.core d).hslots := by
  rw [State.core_updCore]
  split
  · next h => rw [hg, h]
  · rfl

theorem State.hslots_sendFault (s : State) (c d : Nat) (x : FaultTok) :
    ((s.sendFault c x).core d).hslots = (s.core d).hslots := s.hslots_updCore c (by exact fun _ => rfl) d

theorem State.hslots_updThread (s : State) (c k d : Nat) (g : Thread → Thread) :
    ((s.updThread c k g).core d).hslots = (s.core d).hslots := s.hslots_updCore c (by exact fun _ => rfl) d

theorem State.hslots_updTile (s : State) (c t d : Nat) (g : Tile → Tile) :
    ((s.updTile c t g).core d).hslots = (s.core d).hslots := s.hslots_updCore c (by exact fun _ => rfl) d

/-! ## An exited thread -/

/-- The thread is EXITED, or its slot is free. -/
def State.Left (s : State) (c k : Nat) : Prop := (s.thread c k).st ∈ ([.exited, .vacant] : List TState)

theorem State.passOn_thread_other (s : State) (c k blk d j : Nat) (h : ¬ (d = c ∧ j = k)) :
    (s.passOn c k blk).thread d j = s.thread d j := by
  unfold State.passOn
  split
  · rw [thread_updRegion, State.thread_updThread, if_neg h]
  · rw [State.thread_updThread, if_neg h, State.enterWaiting, State.thread_updThread, if_neg h]

/-- A barrier that completes lets go the threads that wait at it, and no other. -/
theorem State.barrierCheck_left {s : State} {c k : Nat} (h : s.Left c k) (t n : Nat) : (s.barrierCheck t n).Left c k := by
  unfold State.barrierCheck
  dsimp only
  split
  · exact h
  · refine List.foldlRecOn (motive := fun u => State.Left u c k) _ _ ?_ fun u hu m _ => ?_
    · unfold State.updBarrier
      repeat' split
      all_goals simpa [State.Left] using h
    · split
      · next hst _ =>
        split
        · have hne : ¬ (c = m.1 ∧ k = m.2.1) := by
            rintro ⟨rfl, rfl⟩
            rw [State.Left, hst] at hu
            exact absurd hu (by decide)
          rw [State.Left, State.leaveWait, State.passOn_thread_other _ _ _ _ _ _ hne]
          split
          · exact hu
          · exact hu
        · exact hu
      · exact hu

theorem State.barriersCheck_left {s : State} {c k : Nat} (h : s.Left c k) (t : Nat) : (s.barriersCheck t).Left c k :=
  List.foldlRecOn (motive := fun u => State.Left u c k) _ _ h fun _ hu n _ => State.barrierCheck_left hu t n

theorem State.trimBlocks_thread (s : State) (c d j : Nat) : (s.trimBlocks c).thread d j = s.thread d j := by
  unfold State.trimBlocks
  exact s.thread_updCore c (by exact fun _ => rfl) d j

/-- The threads of a team freed on its core: their slots are vacant, and no other thread changes. -/
theorem State.freeTeam_thread (s : State) (t d j : Nat) :
    (s.freeTeam t).thread d j = {} ∨ (s.freeTeam t).thread d j = s.thread d j := by
  unfold State.freeTeam
  split
  · exact .inr rfl
  · split
    · exact .inr rfl
    · next x hx _ c hc =>
      rw [State.trimBlocks_thread, State.updTeam_thread, State.thread, State.core_updCore]
      split
      · next hd =>
        subst hd
        rw [KMap.lookD, KMap.look_filter_keys _ (fun k => !x.slots.contains k)]
        split
        · exact .inr rfl
        · exact .inl rfl
      · exact .inr rfl

theorem State.releaseUses_thread (s : State) (t d j : Nat) : (s.releaseUses t).thread d j = s.thread d j := by
  unfold State.releaseUses
  split
  · rfl
  · rw [State.updTeam_thread]
    exact foldl_keep (fun u : State => u.thread d j) _ _ s fun _ _ => rfl

theorem State.retireCheck_left {s : State} {c k : Nat} (h : s.Left c k) (t : Nat) : (s.retireCheck t).Left c k := by
  unfold State.retireCheck State.retireTeam
  dsimp only
  split
  · exact h
  · split
    · exact h
    · rw [State.Left, State.updGrid_thread, State.updTeam_thread]
      rcases (s.releaseUses t).freeTeam_thread t c k with hf | hf
      · rw [hf]; decide
      · rw [hf, State.releaseUses_thread]; exact h

/-! ## A tile that runs again -/

/-- The tile no longer frozen, and the bounds of its die begun anew (R222). -/
def State.thawed (s : State) (c t : Nat) : State := (s.updTile c t (fun tl => { tl with frozen := none })).restartBounds c

theorem State.tile_thawed (s : State) (c t : Nat) : (s.thawed c t).tile c t = { s.tile c t with frozen := none } :=
  (State.tile_updTile ..).trans (if_pos ⟨rfl, rfl⟩)

theorem State.hslots_thawed (s : State) (c t d : Nat) : ((s.thawed c t).core d).hslots = (s.core d).hslots :=
  s.hslots_updTile ..

section Unfreeze
variable {s : State} {c t : Nat} {z : Freeze} (hz : (s.tile c t).frozen = some z)
include hz

theorem State.unfreeze_discards : s.unfreeze c t false = s.thawed c t := by
  simp [State.unfreeze, hz, State.thawed]

/-- The token that froze the tile is put back at the head of its port. -/
theorem State.unfreeze_putsBack {tok : Token} (hheld : z.held = none) (htok : z.token = some tok) (hch : z.channel < 12) :
    s.unfreeze c t true =
      (s.thawed c t).updCtx c t false (fun x => x.updPort z.channel (fun l => ⟨tok, s.cycle c, false⟩ :: l)) := by
  have h15 : z.channel ≠ 15 := by omega
  simp only [State.unfreeze, hz, hheld, htok, if_neg h15, Bool.not_true, Bool.false_eq_true, if_false]
  rfl

end Unfreeze

/-- Settles O47, action by action: what FST_RESOLVE leaves is the effect of Table 10.6 on the state with the slot freed. That RAISE
and an action that is not allowed leave the trap as it is, and a void trap has no effect, are the model's readings (log entries 68
and 53). -/
theorem resolutions : Obligations.Resolutions := by
  intro s c k j blk t z tok
  have hfrozen (h : (s.tile c t.tile).frozen = some z) : ((s.slotFreed c j).tile c t.tile).frozen = some z := by
    rw [State.tile_slotFreed, h]
  refine ⟨fun hn i hi => ?empty, fun ht hr => ⟨?raise, fun hf i hi => ?freezing, fun hf => ?resume, fun hf hv hk => ?void,
    fun hf hv hk ha hreps => ⟨fun he => ?retry, fun he => ?retryat, ⟨fun hb hh => ?branch, fun hb hh => ?illop⟩, fun hh => ?exit⟩,
    fun hf hreps hz => ⟨?unfrozen, fun hheld htok hch => ?putBack⟩⟩⟩
  case empty =>
    have h := State.fstResolve_of_not_raised hn
    simp only [List.mem_cons, List.not_mem_nil, or_false] at hi
    rcases hi with rfl | rfl | rfl | rfl | rfl | rfl <;> exact congrArg Host.Outcome.next (h ..)
  case raise =>
    exact congrArg Host.Outcome.next (State.fstResolve_refused ht hr (by cases t.kind <;> rfl) ..)
  case freezing =>
    simp only [List.mem_cons, List.not_mem_nil, or_false] at hi
    rcases hi with rfl | rfl | rfl <;> exact congrArg Host.Outcome.next (State.fstResolve_refused ht hr (by rw [hf]; rfl) ..)
  case resume =>
    refine congrArg Host.Outcome.next (State.fstResolve_refused ht hr ?_ ..)
    cases hk : t.kind with
    | freezing => exact absurd hk hf
    | _ => rfl
  case void =>
    have hact : actionAllowed t.kind t.afterAtomic 5 = true := actionAllowed_exit hf
    exact congrArg Host.Outcome.next
      ((State.fstResolve_allowed ht hr hact ..).trans (State.resolveEffect_of_void _ _ _ _ hk hf hv _))
  case retry =>
    have h := (State.fstResolve_allowed ht hr (act := 1) (by rw [he, ha]; rfl) 0 0).trans
      (State.resolveEffect_retry _ _ _ _ hk hv hreps he)
    rw [State.thread_slotFreed] at h
    obtain ⟨st, hst, hth⟩ := (s.slotFreed c j).enterWaiting_thread c k (s.thread c k).next
    refine ⟨_, congrArg Host.Outcome.next h, ⟨?_, rfl⟩, ?_⟩
    · rw [State.enterWaiting, State.hslots_updThread, State.look_slotFreed]
    · rw [State.thread_slotFreed] at hth
      refine ⟨⟨?_, ?_⟩, ?_, ?_⟩ <;> rw [hth]
      exact hst
  case retryat =>
    have h := (State.fstResolve_allowed ht hr (act := 2) (by rw [he, ha]; rfl) 0 (s.reg .fstRarg)).trans
      (State.resolveEffect_retryat _ _ _ _ hk hv hreps he)
    refine ⟨_, congrArg Host.Outcome.next h, ⟨?_, rfl⟩, ?_⟩
    · rw [State.enterSleep, State.hslots_updThread, State.look_slotFreed]
    · have hth := (s.slotFreed c j).enterSleep_thread c k (.retryAt (s.reg .fstRarg).toNat)
      rw [State.thread_slotFreed] at hth
      refine ⟨⟨?_, ?_⟩, ?_, ?_, ?_⟩ <;> rw [hth]
  case branch =>
    have h := (State.fstResolve_allowed ht hr (actionAllowed_branch hf) blk 0).trans
      (State.resolveEffect_branch _ _ _ _ hk hv hreps hf ((s.blockAllowed_slotFreed c j blk hh).trans hb))
    obtain ⟨st, hst, hth⟩ := (s.slotFreed c j).enterWaiting_thread c k blk
    refine ⟨_, congrArg Host.Outcome.next h, ⟨?_, rfl⟩, ?_⟩
    · rw [State.enterWaiting, State.hslots_updThread, State.look_slotFreed]
    · rw [State.thread_slotFreed] at hth
      refine ⟨⟨?_, ?_⟩, ?_, ?_⟩ <;> rw [hth]
      exact hst
  case illop =>
    obtain ⟨r, hr'⟩ :=
      State.resolveEffect_branch_refused _ _ _ 0 hk hv hreps hf ((s.blockAllowed_slotFreed c j blk hh).trans hb)
    have h := (State.fstResolve_allowed ht hr (actionAllowed_branch hf) blk 0).trans hr'
    obtain ⟨f, hnet, hcode, hkind⟩ := (s.slotFreed c j).takeExitTrap_faultNet c k 1 r false
    refine ⟨_, f, congrArg Host.Outcome.next h, ⟨?_, rfl⟩, ?_⟩
    · rw [State.takeExitTrap, State.hslots_sendFault, State.hslots_updThread, State.look_slotFreed]
    · have hth := (s.slotFreed c j).takeExitTrap_thread c k 1 r false
      rw [State.thread_slotFreed] at hth
      rw [State.faultNet_slotFreed] at hnet
      refine ⟨⟨?_, ?_⟩, ?_, hnet, hcode, hkind⟩ <;> rw [hth]
  case exit =>
    have hh' : ((s.slotFreed c j).thread c k).helper = none := by rw [State.thread_slotFreed, hh]
    obtain ⟨f, hf'⟩ := State.resolveEffect_exit _ _ 0 0 hk hv hf hh'
    have h := (State.fstResolve_allowed ht hr (actionAllowed_exit hf) 0 0).trans hf'
    refine ⟨_, congrArg Host.Outcome.next h, State.retireCheck_left (State.barriersCheck_left ?_ _) _⟩
    rw [State.Left, State.updTeam_thread, State.enterExited, State.thread_updThread, if_pos ⟨rfl, rfl⟩]
    exact List.mem_cons_self
  case unfrozen =>
    have h := (State.fstResolve_allowed ht hr (act := 4) (by rw [hf]; rfl) 0 0).trans
      ((State.resolveEffect_tile _ _ _ _ hf hreps _).trans (State.unfreeze_discards (hfrozen hz)))
    refine ⟨_, congrArg Host.Outcome.next h, by rw [State.hslots_thawed, State.look_slotFreed], rfl, ?_⟩
    rw [State.tile_thawed, State.tile_slotFreed]
    exact ⟨rfl, rfl⟩
  case putBack =>
    have h := (State.fstResolve_allowed ht hr (act := 1) (by rw [hf]; rfl) 0 0).trans
      ((State.resolveEffect_tile _ _ _ _ hf hreps _).trans (State.unfreeze_putsBack (hfrozen hz) hheld htok hch))
    refine ⟨_, congrArg Host.Outcome.next h, ?_, rfl, ?_, ?_⟩
    · rw [State.updCtx, State.hslots_updTile, State.hslots_thawed, State.look_slotFreed]
    · rw [State.updCtx, State.tile_updTile, if_pos ⟨rfl, rfl⟩, State.tile_thawed]
      rfl
    · rw [ctx_updCtx _ _ _ _ _ (fun h => absurd h Bool.false_ne_true), port_updPort, State.ctx, State.tile_thawed,
        State.tile_slotFreed]
      rfl

end Sys2Proof.Machine

/-! PROOFS. Teams saved, withdrawn and readmitted (R214 to R217, R219). -/

namespace Sys2Proof.Machine

/-! ## The save of a team (R215) -/

theorem DevOnly.teams {s u : State} (h : DevOnly s u) : u.teams = s.teams := by rw [h.1]

theorem devOnly_writeAll (s : State) (w : List (Nat × List Byte)) : DevOnly s (s.writeAll w) :=
  DevOnly.foldl (fun (s : State) (p : Nat × List Byte) => s.deviceWrite p.1 p.2) (fun s p => devOnly_deviceWrite s p.1 p.2) w s

/-- A marked team that has drained, just before its place on the core is freed: its state stands in its save area, and its traps and
its places in batches are gone. -/
def State.savedOut (s : State) (t c : Nat) : State :=
  let u := s.writeAll (s.saveWrites t)
  (u.dropTraps c t).leaveBatches c (fun k => u.ofTeam c t k)

theorem State.savedOut_teams (s : State) (t c : Nat) : (s.savedOut t c).teams = s.teams := (devOnly_writeAll s _).teams

/-- The threads of a team as its save keeps them, by $tid. -/
def State.savedThreads (s : State) (c : Nat) (x : Team) : KMap Thread := x.slots.mapIdx (fun tid k => (tid, s.savedThread c k))

section Save
variable {s : State} {t c : Nat} {x : Team} (hx : s.team? t = some x) (hc : x.core = some c)
include hx hc

theorem State.freeTeam_team : (s.freeTeam t).team? t = some { x with core := none, bases := [] } := by
  rw [State.freeTeam, hx]
  dsimp only
  rw [hc]
  exact State.team?_updTeam_same (s := s.updCore c _) _ hx

theorem State.freeTeam_vacates {k : Nat} (hk : k ∈ x.slots) : (s.freeTeam t).thread c k = {} := by
  rw [State.freeTeam, hx]
  dsimp only
  rw [hc]
  dsimp only
  rw [State.trimBlocks_thread, State.updTeam_thread, State.thread, State.core_updCore, if_pos rfl, KMap.lookD,
    KMap.look_filter_keys _ (fun k => !x.slots.contains k), if_neg (by simpa using hk)]
  rfl

/-- A saved team has its threads, and neither a core nor a mark; its slots are vacant. -/
theorem State.saveTeam_saves :
    (s.saveTeam t).team? t =
        some { x with saved := s.savedThreads c x, kept := s.keptTraps c x, mark := none, core := none, bases := [] } ∧
      ∀ k ∈ x.slots, (s.saveTeam t).thread c k = {} := by
  let w := (s.savedOut t c).updTeam t (fun y => { y with saved := s.savedThreads c x, kept := s.keptTraps c x, mark := none })
  have hw : w.team? t = some { x with saved := s.savedThreads c x, kept := s.keptTraps c x, mark := none } :=
    State.team?_updTeam_same _ ((congrArg (KMap.look · t) (s.savedOut_teams t c)).trans hx)
  have hs : s.saveTeam t = w.freeTeam t := by
    rw [State.saveTeam, hx]
    dsimp only
    rw [hc]
    rfl
  rw [hs]
  exact ⟨State.freeTeam_team hw hc, fun k hk => State.freeTeam_vacates hw hc hk⟩

end Save

/-! ## A team that swaps alone -/

section Alone
variable {s : State} {t : Nat} {x : Team} (hx : s.team? t = some x) (hcl : s.clusterTeams t = [t])
include hx hcl

theorem State.swapUnit_alone : s.swapUnit t = if x.core.isSome && x.mark.isSome then [t] else [] := by
  simp [State.swapUnit, hcl, hx, List.filter_cons]

theorem State.swapUnit_of_swapReady (h : s.swapReady t = true) : s.swapUnit t = [t] := by
  rw [State.swapUnit_alone hx hcl]
  refine if_pos (Classical.byContradiction fun hn => ?_)
  rw [State.swapReady, State.swapUnit_alone hx hcl, if_neg hn] at h
  exact absurd h (by simp)

omit hcl in
theorem exec_swapOut_waits (hd : x.discard = false) (h : s.swapReady t = false) : exec (.swapOut t) s = .next s := by
  show execSwapOut t s = _
  simp [execSwapOut, hx, hd, h]

theorem exec_swapOut_saves (hd : x.discard = false) (h : s.swapReady t = true)
    (hw : (s.saveWrites t).all (fun p => s.deviceReady p.1 p.2.length) = true) :
    exec (.swapOut t) s = .next (s.saveTeam t) := by
  have hu := State.swapUnit_of_swapReady hx hcl h
  show execSwapOut t s = _
  simp only [execSwapOut, hx, hd, h, hu, List.flatMap_cons, List.flatMap_nil, List.append_nil, hw]
  rfl

/-! ## A swap withdrawn (R216) -/

/-- The swap of a team withdrawn: its mark is cleared and its area freed. -/
def State.withdrawn (s : State) (t : Nat) (x : Team) : State :=
  ({ s with saves := match x.area with | some a => s.saves.filter (· ≠ a) | none => s.saves } : State).updTeam t
    (fun y => { y with mark := none, area := none, unmarkable := true })

omit hcl in
theorem State.marked_of_withdrawDue (h : s.withdrawDue t = true) : (x.core.isSome && x.mark.isSome) = true := by
  rw [State.withdrawDue, hx] at h
  dsimp only at h
  split at h
  · next hm hc => rw [hm, hc]; rfl
  · exact absurd h Bool.false_ne_true

theorem exec_swapWithdraw_due (h : s.withdrawDue t = true) : exec (.swapWithdraw t) s = .next (s.withdrawn t x) := by
  have hu : s.swapUnit t = [t] := (State.swapUnit_alone hx hcl).trans (if_pos (State.marked_of_withdrawDue hx h))
  show execSwapWithdraw t s = _
  simp only [execSwapWithdraw, h, hu, Bool.not_true, Bool.false_eq_true, if_false, List.foldl_cons, List.foldl_nil, hx]
  rfl

end Alone

/-! ## Re-admission (R219) -/

/-- The save areas in use are as before, and so is where a team stands. -/
structure TeamStays (t : Nat) (s u : State) : Prop where
  saves : u.saves = s.saves
  core : (u.team? t).map (·.core) = (s.team? t).map (·.core)

namespace TeamStays
variable {t : Nat} {s u : State}

theorem refl (t : Nat) (s : State) : TeamStays t s s := ⟨rfl, rfl⟩

theorem trans {w : State} (h : TeamStays t s u) (k : TeamStays t u w) : TeamStays t s w :=
  ⟨k.saves.trans h.saves, k.core.trans h.core⟩

theorem of_teams (hs : u.saves = s.saves) (ht : u.teams = s.teams) : TeamStays t s u :=
  ⟨hs, by simp only [State.team?, ht]⟩

theorem foldl {α : Type} (f : State → α → State) (h : ∀ s x, TeamStays t s (f s x)) (l : List α) (s : State) :
    TeamStays t s (l.foldl f s) := by
  induction l generalizing s with
  | nil => exact refl t s
  | cons x r ih => exact (h s x).trans (ih _)

/-- A change of a team that leaves it on its core. -/
theorem updTeam (s : State) (j : Nat) (f : Team → Team) (hf : ∀ x, (f x).core = x.core) : TeamStays t s (s.updTeam j f) := by
  refine ⟨s.updTeam_saves j f, ?_⟩
  rw [State.updTeam]
  cases hj : KMap.look s.teams j with
  | none => rfl
  | some x =>
    simp only [State.team?]
    by_cases h : t = j
    · subst h; simp [hj, hf]
    · rw [KMap.look_put_other _ _ _ _ h]

end TeamStays

section Resume
variable (t : Nat) (s : State)

theorem State.replayThread_teams (c k : Nat) : (s.replayThread c k).saves = s.saves ∧ (s.replayThread c k).teams = s.teams := by
  unfold State.replayThread
  dsimp only
  split <;> exact ⟨rfl, rfl⟩

theorem State.passOn_teams (c k blk : Nat) : (s.passOn c k blk).saves = s.saves ∧ (s.passOn c k blk).teams = s.teams := by
  unfold State.passOn
  split <;> exact ⟨rfl, rfl⟩

theorem teamStays_updThread (c k : Nat) (f : Thread → Thread) : TeamStays t s (s.updThread c k f) := .of_teams rfl rfl

theorem teamStays_selfInvalidate (c : Nat) : TeamStays t s (s.selfInvalidate c) := .of_teams rfl rfl

theorem teamStays_passOn (c k blk : Nat) : TeamStays t s (s.passOn c k blk) := .of_teams (s.passOn_teams ..).1 (s.passOn_teams ..).2

theorem teamStays_unpark (j hand : Nat) : TeamStays t s (s.unpark j hand) := by
  unfold State.unpark
  refine ((TeamStays.updTeam s j _ fun _ => by rfl).trans (TeamStays.foldl _ (fun u p => ?_) _ _)).trans
    (TeamStays.foldl _ (fun u p => ?_) _ _)
  · exact .of_teams (u.replayThread_teams ..).1 (u.replayThread_teams ..).2
  · split <;> exact .of_teams rfl rfl

theorem teamStays_joinNow (c k : Nat) : TeamStays t s (s.joinNow c k) := by
  unfold State.joinNow
  dsimp only
  repeat' split
  · exact .refl t s
  · exact .refl t s
  · refine .trans (.trans ?_ (teamStays_updThread ..)) (teamStays_passOn ..)
    exact .updTeam s _ _ fun _ => by rfl
  · exact .refl t s

theorem teamStays_takeUse (c j x n : Nat) : TeamStays t s (s.takeUse c j x n) := by
  unfold State.takeUse
  exact (TeamStays.updTeam s j _ fun _ => by rfl).trans (.of_teams rfl rfl)

theorem teamStays_waitLayer (c k n blk : Nat) : TeamStays t s (s.waitLayer c k n blk) := by
  unfold State.waitLayer
  dsimp only
  repeat' split
  · exact teamStays_passOn ..
  · exact (teamStays_takeUse ..).trans (teamStays_passOn ..)
  · exact .of_teams rfl rfl
  · unfold State.demand
    split <;> exact .of_teams rfl rfl
  · exact .of_teams rfl rfl

theorem teamStays_resumeTeam (j c : Nat) : TeamStays t s (s.resumeTeam j c) := by
  unfold State.resumeTeam
  split
  · exact .refl t s
  · refine (TeamStays.foldl _ (fun u h => ?_) _ _).trans (TeamStays.foldl _ (fun u k => ?_) _ _)
    · split
      · exact teamStays_unpark ..
      · exact .refl t u
    · dsimp only
      repeat' split
      · exact .refl t u
      · exact teamStays_waitLayer ..
      · exact .refl t u
      · exact teamStays_joinNow ..
      · exact .refl t u

theorem State.enterThreads_saves (c : Nat) (f : Nat → Thread) : (s.enterThreads t c f).saves = s.saves := by
  unfold State.enterThreads
  split
  · rfl
  · refine foldl_keep State.saves _ _ _ fun u tid => ?_
    split <;> rfl

end Resume

/-- The traps that a team took along delivered again at its new core (R39). -/
def State.redeliver (s : State) (t c : Nat) (kept : KMap Trap) : State :=
  kept.foldl (fun (s : State) (p : Nat × Trap) => match ((s.team? t).bind (fun y => y.slotOf p.1)) with
    | some k => s.addTrap c { p.2 with thread := some k, region := (s.thread c k).lastRegion }
    | none => s) s

theorem teamStays_redeliver (t : Nat) (s : State) (j c : Nat) (kept : KMap Trap) : TeamStays t s (s.redeliver j c kept) := by
  refine TeamStays.foldl _ (fun u p => ?_) _ _
  split
  · exact .of_teams rfl rfl
  · exact .refl t u

/-- A saved team entered on its new core, with its area free. -/
def State.reentered (s : State) (t c : Nat) (x : Team) (g : Grid) : State :=
  let v := (s.placeTeam t c g).enterThreads t c (fun tid => { KMap.lookD x.saved tid {} with spinN := 0, cls := 1, due := none })
  { v with saves := match x.area with | some a => v.saves.filter (· ≠ a) | none => v.saves }

section Readmit
variable {s : State} {t c : Nat} {x : Team} {g : Grid}

theorem State.reentered_saves {a : Nat} (ha : x.area = some a) : (s.reentered t c x g).saves = s.saves.filter (· ≠ a) := by
  simp only [State.reentered, ha, State.enterThreads_saves, State.placeTeam, State.updTeam_saves, State.updCore_saves]

variable (hx : s.team? t = some x)
include hx

theorem State.reentered_core : ((s.reentered t c x g).team? t).map (·.core) = some (some c) := by
  have ht : (s.reentered t c x g).teams = (s.placeTeam t c g).teams := (State.enterThreads_keeps _ t c _).1
  rw [State.team?, ht]
  exact congrArg (Option.map (·.core)) (s.placeTeam_team g hx)

variable (hg : s.grid? x.grid = some g)
include hg

theorem State.readmitTeam_eq : s.readmitTeam t c =
    (((((s.reentered t c x g).updTeam t (fun y => { y with saved := [], kept := [], area := none, readmitAt := none })).redeliver
      t c x.kept).selfInvalidate c).resumeTeam t c) := by
  unfold State.readmitTeam
  rw [hx, Option.bind_some, hg]
  rfl

theorem State.teamStays_readmitTeam : TeamStays t (s.reentered t c x g) (s.readmitTeam t c) := by
  rw [State.readmitTeam_eq hx hg]
  refine .trans (.trans (.trans ?_ (teamStays_redeliver ..)) (teamStays_selfInvalidate ..)) (teamStays_resumeTeam ..)
  exact .updTeam _ t _ fun _ => by rfl

omit hx hg in
theorem exec_teamReadmit_placed (hr : s.readmitReady t = true) (hc : s.readmitCores t = some [(t, c)]) :
    exec (.teamReadmit t) s = .next (s.readmitTeam t c) := by
  show execTeamReadmit t s = _
  simp [execTeamReadmit, hr, hc]

/-- READMIT is raised while no core has room (R219). -/
theorem exec_readmitEvent_raises (hr : s.readmitReady t = true) (hc : s.readmitCores t = none)
    (hdue : ∀ n ∈ x.readmitAt, n ≤ s.time.ref) : exec (.readmitEvent t) s =
      .next ((s.event 0x81 [x.index * 2 ^ 32 + g.queue, s.readmitWord g]).updTeam t
        (fun y => { y with readmitAt := some (s.time.ref + 1000000) })) := by
  show execReadmitEvent t s = _
  unfold execReadmitEvent
  rw [hx, Option.bind_some, hg]
  cases hat : x.readmitAt with
  | none => simp [hr, hc, hat]
  | some n => simp [hr, hc, hat, hdue n hat]

theorem exec_readmitEvent_early {n : Tick} (hat : x.readmitAt = some n) (hn : s.time.ref < n) :
    exec (.readmitEvent t) s = .next s := by
  show execReadmitEvent t s = _
  unfold execReadmitEvent
  rw [hx, Option.bind_some, hg]
  simp [hat, hn]

end Readmit

/-- Settles O48: each step by what it makes of the one team of its cluster. That a saved team's threads stand in its own record,
beside the bytes of its area, is the model's choice (log entry 20). -/
theorem teamsSwap : Obligations.TeamsSwap := by
  intro s c t x g hx hcl
  refine ⟨exec_swapOut_waits hx, fun hd hr hc hw => ⟨_, exec_swapOut_saves hx hcl hd hr hw, ?save⟩, fun hn => ?stays,
    fun hd => ⟨_, exec_swapWithdraw_due hx hcl hd, ?withdrawn⟩, fun hn => ?unready, fun hr hg => ⟨fun hc =>
      ⟨_, exec_teamReadmit_placed hr hc, ?placed⟩, fun hc => ⟨?noRoom, fun hn => ?event, fun hn => ?early⟩⟩⟩
  case save =>
    obtain ⟨hteam, hvacant⟩ := State.saveTeam_saves hx hc
    rw [hteam]
    exact ⟨rfl, rfl, hvacant⟩
  case stays =>
    show execSwapWithdraw t s = _
    simp [execSwapWithdraw, hn]
  case withdrawn =>
    refine ⟨State.team?_updTeam_same _ hx, fun a ha => ?_, State.updTeam_mem .., State.updTeam_cores ..⟩
    rw [State.withdrawn, State.updTeam_saves, ha]
  case unready =>
    refine ⟨?_, ?_⟩
    · show execTeamReadmit t s = _
      simp [execTeamReadmit, hn]
    · show execReadmitEvent t s = _
      unfold execReadmitEvent
      split
      · simp [hn]
      · rfl
  case placed =>
    have h := State.teamStays_readmitTeam (c := c) hx hg
    exact ⟨h.core.trans (State.reentered_core hx), fun a ha => h.saves.trans (State.reentered_saves ha)⟩
  case noRoom =>
    show execTeamReadmit t s = _
    simp [execTeamReadmit, hr, hc]
  case event =>
    obtain ⟨r, hpending, hcode, hkind, -⟩ := s.event_station 0x81 [x.index * 2 ^ 32 + g.queue, s.readmitWord g]
    refine ⟨_, r, exec_readmitEvent_raises hx hg hr hc hn, State.team?_updTeam_same (s := s.event ..) _ hx, State.updTeam_mem ..,
      ?_, hcode, hkind⟩
    rw [State.updTeam_station, hpending]
  case early =>
    obtain ⟨n, hat, hlt⟩ := hn
    exact exec_readmitEvent_early hx hg hat hlt

end Sys2Proof.Machine

/-! PROOFS. Page requests and parked hands, marks for swapping, and the handler image (R205, R211, R213, R214, R218). -/

namespace Sys2Proof.Machine

/-! ## What the answer to a page request leaves as it is (R211, R213) -/

/-- Memory and the fault station are as before. -/
structure SameStation (s u : State) : Prop where
  mem : u.mem = s.mem
  station : u.station = s.station

namespace SameStation

theorem trans {s u w : State} (h : SameStation s u) (k : SameStation u w) : SameStation s w :=
  ⟨k.mem.trans h.mem, k.station.trans h.station⟩

theorem foldl {α : Type} (f : State → α → State) (h : ∀ s x, SameStation s (f s x)) (l : List α) (s : State) :
    SameStation s (l.foldl f s) := by
  induction l generalizing s with
  | nil => exact ⟨rfl, rfl⟩
  | cons x r ih => exact (h s x).trans (ih _)

end SameStation

theorem State.teamThreads_eq {s : State} {t c : Nat} {x : Team} (hx : s.team? t = some x) (hc : x.core = some c) :
    s.teamThreads t = x.slots.map (fun k => (c, k)) := by
  rw [State.teamThreads, hx]
  dsimp only
  rw [hc]

section Answer
variable (s : State)

/-- A parked thread let go, where it is still parked when its turn comes. -/
def State.freeParked (s : State) (p : Nat × Nat) : State :=
  if (s.thread p.1 p.2).st = .parked then
    s.updThread p.1 p.2 (fun u => { u with st := .waiting, wait := none, spinN := 0, cls := 1, due := none })
  else s

/-- The hand of a team no longer held parked. -/
def State.parkEnds (s : State) (t hand : Nat) : State := s.updTeam t (fun x => { x with parks := KMap.del x.parks hand })

/-- A hand is unparked in two turns: the threads that replay a fault, then those that are still parked, its own among them. -/
theorem State.unpark_eq (t hand : Nat) : ∃ l l' : List (Nat × Nat),
    s.unpark t hand = l'.foldl State.freeParked (l.foldl (fun s p => s.replayThread p.1 p.2) (s.parkEnds t hand)) ∧
    ∀ p ∈ (s.parkEnds t hand).teamThreads t, (s.thread p.1 p.2).helper = none → (s.thread p.1 p.2).tid / 32 = hand →
      (s.thread p.1 p.2).st = .parked → p ∈ l' := by
  refine ⟨_, _, rfl, fun p hp hh ht hst => List.mem_append_left _ ?_⟩
  rw [State.parkEnds] at hp
  simp only [List.mem_filter, State.updTeam_thread, hh, ht, hst, hp]
  decide

theorem sameStation_updTeam (t : Nat) (f : Team → Team) : SameStation s (s.updTeam t f) :=
  ⟨s.updTeam_mem t f, s.updTeam_station t f⟩

theorem sameStation_replayThread (c k : Nat) : SameStation s (s.replayThread c k) := by
  unfold State.replayThread
  dsimp only
  split <;> exact ⟨rfl, rfl⟩

theorem sameStation_freeParked (p : Nat × Nat) : SameStation s (s.freeParked p) := by
  unfold State.freeParked
  split <;> exact ⟨rfl, rfl⟩

theorem sameStation_unpark (t hand : Nat) : SameStation s (s.unpark t hand) := by
  obtain ⟨l, l', h, -⟩ := s.unpark_eq t hand
  rw [h]
  exact ((sameStation_updTeam s t _).trans (.foldl _ (fun s p => sameStation_replayThread s p.1 p.2) l _)).trans
    (.foldl _ sameStation_freeParked l' _)

theorem sameStation_answerHands (id : Nat) : SameStation s (s.answerHands id) := by
  refine .foldl _ (fun s p => .foldl _ (fun s h => ?_) _ _) _ _
  unfold State.answerHand
  dsimp only
  repeat' split
  · exact ⟨rfl, rfl⟩
  · exact sameStation_unpark s _ _
  · exact sameStation_updTeam s _ _

/-- An answered request is no longer made, and nothing else of the station or of memory changes. -/
theorem State.answerPage_ends (id : Nat) (b : Bool) : (s.answerPage id b).mem = s.mem ∧
    (s.answerPage id b).station = { s.station with requests := s.station.requests.filter (fun q => q.id ≠ id) } := by
  unfold State.answerPage
  dsimp only
  split <;> exact ⟨(sameStation_answerHands _ id).mem, (sameStation_answerHands _ id).station⟩

theorem State.unpark_parks {t hand : Nat} {x : Team} {p : Park} (hx : s.team? t = some x) (hp : x.parks = [(hand, p)]) :
    ((s.unpark t hand).team? t).map (·.parks) = some [] := by
  obtain ⟨l, l', h, -⟩ := s.unpark_eq t hand
  have hfree (u : State) (p : Nat × Nat) : (u.freeParked p).teams = u.teams := by
    unfold State.freeParked
    split <;> rfl
  have hteams : (s.unpark t hand).teams = (s.parkEnds t hand).teams := by
    rw [h, foldl_keep State.teams _ l' _ hfree, foldl_keep State.teams _ l _ fun u p => (u.replayThread_teams p.1 p.2).2]
  rw [State.team?, hteams]
  refine (congrArg (Option.map (·.parks)) (State.team?_updTeam_same _ hx)).trans ?_
  simp [hp, KMap.del]

end Answer

/-! ## A thread that is let go (R213) -/

/-- A thread that waits on its block again, in class 1 and with its spin count at zero. -/
def Thread.letGo (a : Thread) (r : KMap Record) : Thread :=
  { a with st := .waiting, wait := none, spinN := 0, cls := 1, due := none, pageRec := r }

/-- The thread b is a let go, but for the records of its faults. -/
def Thread.LetGo (a b : Thread) : Prop := ∃ r, b = a.letGo r

theorem Thread.LetGo.letGo {a b : Thread} (h : b = a ∨ a.LetGo b) (r : KMap Record) : a.LetGo (b.letGo r) := by
  rcases h with rfl | ⟨q, rfl⟩
  · exact ⟨r, rfl⟩
  · exact ⟨r, rfl⟩

section LetGo
variable {a : Thread} {s : State} {c k : Nat}

theorem State.freeParked_thread (s : State) (c k : Nat) (p : Nat × Nat) : (s.freeParked p).thread c k =
    if (c = p.1 ∧ k = p.2) ∧ (s.thread c k).st = .parked then (s.thread c k).letGo (s.thread c k).pageRec else s.thread c k := by
  unfold State.freeParked
  by_cases hp : c = p.1 ∧ k = p.2
  · obtain ⟨rfl, rfl⟩ := hp
    by_cases hst : (s.thread p.1 p.2).st = .parked
    · rw [if_pos hst, if_pos ⟨⟨rfl, rfl⟩, hst⟩, State.thread_updThread, if_pos ⟨rfl, rfl⟩]
      rfl
    · rw [if_neg hst, if_neg fun h => hst h.2]
  · rw [if_neg (c := (c = p.1 ∧ k = p.2) ∧ _) fun h => hp h.1]
    split
    · rw [State.thread_updThread, if_neg hp]
    · rfl

theorem State.freeParked_keepsLetGo (h : a.LetGo (s.thread c k)) (p : Nat × Nat) : a.LetGo ((s.freeParked p).thread c k) := by
  rw [State.freeParked_thread]
  split
  · exact .letGo (.inr h) _
  · exact h

theorem State.freeParked_letGo (h : s.thread c k = a ∨ a.LetGo (s.thread c k)) (p : Nat × Nat) :
    (s.freeParked p).thread c k = a ∨ a.LetGo ((s.freeParked p).thread c k) := by
  rw [State.freeParked_thread]
  split
  · exact .inr (.letGo h _)
  · exact h

/-- The turn of the thread itself, still parked or let go before. -/
theorem State.freeParked_letsGo (ha : a.st = .parked) (h : s.thread c k = a ∨ a.LetGo (s.thread c k)) :
    a.LetGo ((s.freeParked (c, k)).thread c k) := by
  rcases h with h | h
  · rw [State.freeParked_thread, if_pos ⟨⟨rfl, rfl⟩, by rw [h, ha]⟩, h]
    exact ⟨_, rfl⟩
  · exact State.freeParked_keepsLetGo h _

theorem State.replayThread_other (p : Nat × Nat) (h : ¬ (c = p.1 ∧ k = p.2)) :
    (s.replayThread p.1 p.2).thread c k = s.thread c k := by
  unfold State.replayThread
  dsimp only
  split
  · rw [State.deniedTrap, State.takeExitTrap, State.thread_sendFault]
    simp only [State.thread_updThread, if_neg h]
  · simp only [State.thread_updThread, if_neg h]

theorem State.replayThread_undenied (hd : (s.thread c k).denied = none) :
    (s.replayThread c k).thread c k = (s.thread c k).letGo [] := by
  let v := s.updThread c k (fun t => { t with spinN := 0, cls := 1, due := none })
  have hv : v.thread c k = { s.thread c k with spinN := 0, cls := 1, due := none } :=
    (State.thread_updThread ..).trans (if_pos ⟨rfl, rfl⟩)
  have hd' : (v.thread c k).denied.isSome = false := by rw [hv, hd]; rfl
  have hs : s.replayThread c k = v.updThread c k (fun t => { t with st := .waiting, wait := none, pageRec := [] }) :=
    if_neg (ne_true_of_eq_false hd')
  rw [hs, State.thread_updThread, if_pos ⟨rfl, rfl⟩, hv]
  rfl

variable (hden : a.denied = none)
include hden

/-- A replay lets a thread go that is still parked with no denied fault, and leaves one that is let go. -/
theorem State.replayThread_letGo (h : s.thread c k = a ∨ a.LetGo (s.thread c k)) (p : Nat × Nat) :
    (s.replayThread p.1 p.2).thread c k = a ∨ a.LetGo ((s.replayThread p.1 p.2).thread c k) := by
  by_cases hp : c = p.1 ∧ k = p.2
  · obtain ⟨rfl, rfl⟩ := hp
    have hd : (s.thread p.1 p.2).denied = none := by
      rcases h with h | ⟨r, h⟩ <;> rw [h] <;> exact hden
    rw [State.replayThread_undenied hd]
    exact .inr (.letGo h _)
  · rwa [State.replayThread_other p hp]

/-- A parked thread of the hand, whose fault was not denied, is let go. -/
theorem State.unpark_letsGo {t hand : Nat} {x : Team} (hx : s.team? t = some x) (hc : x.core = some c) (hk : k ∈ x.slots)
    (ha : s.thread c k = a) (hst : a.st = .parked) (hh : a.helper = none) (ht : a.tid / 32 = hand) :
    a.LetGo ((s.unpark t hand).thread c k) := by
  obtain ⟨l, l', hun, hmem⟩ := s.unpark_eq t hand
  have hteam : (s.parkEnds t hand).teamThreads t = x.slots.map (fun k => (c, k)) :=
    State.teamThreads_eq (x := { x with parks := KMap.del x.parks hand }) (State.team?_updTeam_same _ hx) hc
  have hin : (c, k) ∈ l' := by
    refine hmem (c, k) ?_ ?_ ?_ ?_
    · rw [hteam]; exact List.mem_map_of_mem hk
    · rw [ha, hh]
    · rw [ha, ht]
    · rw [ha, hst]
  obtain ⟨l₁, l₂, rfl⟩ := List.append_of_mem hin
  rw [hun, List.foldl_append, List.foldl_cons]
  refine List.foldlRecOn (motive := fun u : State => a.LetGo (u.thread c k)) _ _ (State.freeParked_letsGo hst ?_)
    fun u hu p _ => State.freeParked_keepsLetGo hu p
  refine List.foldlRecOn (motive := fun u : State => u.thread c k = a ∨ a.LetGo (u.thread c k)) _ _ ?_
    fun u hu p _ => State.freeParked_letGo hu p
  refine List.foldlRecOn (motive := fun u : State => u.thread c k = a ∨ a.LetGo (u.thread c k)) _ _ ?_
    fun u hu p _ => State.replayThread_letGo hden hu p
  exact .inl ((State.updTeam_thread ..).trans ha)

end LetGo

/-- A page request no longer made. -/
def State.requestEnded (s : State) (id : Nat) : State :=
  { s with station := { s.station with requests := s.station.requests.filter (fun q => q.id ≠ id) } }

/-- The answer of the one request that holds the one parked hand of the one team. -/
theorem State.answerPage_unparks {s : State} {t hand id : Nat} {x : Team} {since : Tick} (hs : s.teams = [(t, x)])
    (hp : x.parks = [(hand, ⟨since, [id]⟩)]) : s.answerPage id false = (s.requestEnded id).unpark t hand := by
  simp [State.answerPage, State.answerHands, State.answerHand, hs, hp, State.requestEnded]

/-! ## Marks for swapping (R214, R218) -/

theorem State.reg_setReg_other (s : State) {n m : RegName} {i j : Nat} (v : Word) (h : m.offset j ≠ n.offset i) :
    (s.setReg n i v).reg m j = s.reg m j := KMap.lookD_put_other _ _ _ _ _ h

theorem State.forceReleaseAll_of_no_helper {s : State} {t : Nat}
    (h : ∀ p ∈ s.teamThreads t, (s.thread p.1 p.2).helper = none) : s.forceReleaseAll t = s :=
  List.foldlRecOn (motive := fun u => u = s) _ _ rfl fun u hu p hp => by
    subst hu
    rw [State.forceRelease, h p hp]

/-- The mark of a team that begins to drain now. -/
def State.markNow (s : State) (c : Nat) : Mark := ⟨s.now c, s.now c, s.drainBound (dieOf c), (s.distOf (dieOf c)).slow⟩

section Mark
variable {s : State} {t c a : Nat} {x : Team} {rest : List Nat} (hx : s.team? t = some x) (hc : x.core = some c)
  (hmark : x.mark = none) (hdis : x.discard = false) (hunm : x.unmarkable = false) (hcl : s.clusterTeams t = [t])
  (ha : s.freeAreas = a :: rest) (hh : ∀ j ∈ x.slots, (s.thread c j).helper = none)
include hx hc hmark hdis hunm hcl ha hh

/-- A team that may be marked, alone in its cluster and without helpers: it takes the first free area. -/
theorem State.markTeam_alone : s.markTeam t = ({ s with saves := s.saves ++ [a] } : State).updTeam t
    (fun y => { y with mark := some (s.markNow c), area := some a, unmarkable := false }) := by
  let v := ({ s with saves := s.saves ++ [a] } : State).updTeam t
    (fun y => { y with mark := some (s.markNow c), area := some a, unmarkable := false })
  have hv : v.forceReleaseAll t = v := by
    refine State.forceReleaseAll_of_no_helper fun p hp => ?_
    rw [State.teamThreads_eq (State.team?_updTeam_same (s := { s with saves := s.saves ++ [a] }) _ hx) hc] at hp
    obtain ⟨j, hj, rfl⟩ := List.mem_map.mp hp
    exact (congrArg Thread.helper (State.updTeam_thread ..)).trans (hh j hj)
  rw [State.markTeam, hx]
  refine Eq.trans ?_ hv
  simp [hcl, hx, hc, hmark, hdis, hunm, ha]
  rfl

/-- What a mark changes: the areas in use, and the team's mark and area. -/
theorem State.markTeam_marks : (s.markTeam t).saves = s.saves ++ [a] ∧ (s.markTeam t).mem = s.mem ∧
    (s.markTeam t).team? t = some { x with mark := some (s.markNow c), area := some a } ∧
    (∀ d j, (s.markTeam t).thread d j = s.thread d j) ∧ (s.markTeam t).regs = s.regs := by
  rw [State.markTeam_alone hx hc hmark hdis hunm hcl ha hh]
  refine ⟨State.updTeam_saves .., State.updTeam_mem .., ?_, fun d j => State.updTeam_thread .., State.updTeam_regs ..⟩
  rw [State.team?_updTeam_same (s := { s with saves := s.saves ++ [a] }) _ hx, ← hunm]

end Mark

/-! ## The limit of parking -/

/-- A write of the limit leaves what a mark reads. -/
theorem State.markNow_setReg_parklim (s : State) (v : Word) (c : Nat) : (s.setReg .dlrParklim 0 v).markNow c = s.markNow c := by
  have h : (s.setReg .dlrParklim 0 v).regN .dlrInjwin = s.regN .dlrInjwin :=
    congrArg BitVec.toNat (s.reg_setReg_other v (by decide))
  simp only [State.markNow, State.drainBound, h]
  rfl

theorem State.freeAreas_setReg_parklim (s : State) (v : Word) : (s.setReg .dlrParklim 0 v).freeAreas = s.freeAreas := by
  have h : (s.setReg .dlrParklim 0 v).regN .dlrSaven = s.regN .dlrSaven :=
    congrArg BitVec.toNat (s.reg_setReg_other v (by decide))
  simp only [State.freeAreas, h]
  rfl

theorem exec_parkLimitExpiry_not_due {s : State} {t : Nat} (h : s.markDue t = false) (hand : Nat) :
    exec (.parkLimitExpiry t hand) s = .next s := by
  show execParkLimitExpiry t hand s = _
  simp [execParkLimitExpiry, h]

theorem exec_parkLimitExpiry_due {s : State} {t hand : Nat} {x : Team} (hx : s.team? t = some x) (h : s.markDue t = true)
    (hp : (KMap.look x.parks hand).isSome = true) : exec (.parkLimitExpiry t hand) s = .next (s.markTeam t) := by
  show execParkLimitExpiry t hand s = _
  simp [execParkLimitExpiry, h, hx, hp]

theorem exec_dlrParklimWrite_due {s : State} {t : Nat} {x : Team} {v : Word} (hs : s.teams = [(t, x)])
    (h : (s.setReg .dlrParklim 0 v).markDue t = true) :
    exec (.dlrParklimWrite v) s = .next ((s.setReg .dlrParklim 0 v).markTeam t) := by
  show Host.Outcome.next (s.teams.foldl _ _) = _
  rw [hs, List.foldl_cons, List.foldl_nil, if_pos h]

theorem exec_dlrParklimWrite_not_due {s : State} {v : Word}
    (h : ∀ p ∈ s.teams, (s.setReg .dlrParklim 0 v).markDue p.1 = false) :
    exec (.dlrParklimWrite v) s = .next (s.setReg .dlrParklim 0 v) :=
  congrArg Host.Outcome.next (List.foldlRecOn (motive := fun u => u = s.setReg .dlrParklim 0 v) _ _ rfl fun u hu p hp => by
    subst hu
    exact if_neg (ne_true_of_eq_false (h p hp)))

/-! ## The handler image (R205) -/

/-- The address of the handler image that a write of FST_HIMG names, its bit 56 extended. -/
def himageVa (v : Word) : Nat :=
  let low := bitsOf v.toNat 48 0 * 256
  if bitOf low 56 then low + (2 ^ 64 - 2 ^ 57) else low

/-- No handler image, the bit of FST_ERR, and the event of an image that fails a check. -/
def State.himageRefused (s : State) (va : Nat) (e : ImgErr) : State :=
  (({ s with station := { s.station with himage := none } } : State).setRegBit .fstErr 0 3).cfgErr va e none

theorem State.himageRefused_bit (s : State) (va : Nat) (e : ImgErr) :
    bitOf ((s.himageRefused va e).regN .fstErr) 3 = true := by
  have h := State.getLsbD_reg_setRegBit { s with station := { s.station with himage := none } } .fstErr 0 3 (by decide) (by decide)
  rw [← h, BitVec.getLsbD, Nat.testBit_eq_decide_div_mod_eq]
  rfl

section Himage
variable {s : State} {v : Word}

theorem exec_fstHimgWrite_good {raw : List Byte} {img : Nat} {w : State}
    (hraw : (s.setReg .fstHimg 0 v).checkImage (bitsOf v.toNat 63 56) (himageVa v) .handler none = .good raw)
    (hstore : (s.setReg .fstHimg 0 v).storeImage (imageOf (bitsOf v.toNat 63 56) (himageVa v) raw true
      (s.setReg .fstHimg 0 v).allDies (s.setReg .fstHimg 0 v).time.ref) = some (img, w)) :
    exec (.fstHimgWrite v) s = .next { w with station := { w.station with himage := some img } } := by
  show execFstHimgWrite v s = _
  rw [himageVa] at hraw hstore
  simp only [execFstHimgWrite, hraw, hstore]

theorem exec_fstHimgWrite_bad {e : ImgErr}
    (he : (s.setReg .fstHimg 0 v).checkImage (bitsOf v.toNat 63 56) (himageVa v) .handler none = .bad e) :
    exec (.fstHimgWrite v) s = .next ((s.setReg .fstHimg 0 v).himageRefused (himageVa v) e) := by
  show execFstHimgWrite v s = _
  rw [himageVa] at he
  simp only [execFstHimgWrite, he]
  rfl

end Himage

/-- Settles O46: each step by the equation of its case, and what the state that it leaves reads. -/
theorem pageRequestsAndParking : Obligations.PageRequestsAndParking := by
  intro s c k id t hand a x since v rest img w
  refine ⟨fun hn i hi => ?none, fun ho => ⟨fun i hi => ?ends, fun hs hc hp hk hst hh ht hd => ?unparks⟩,
    fun hn => exec_parkLimitExpiry_not_due hn hand, fun hx hc hm hd hu hcl ha hh =>
      ⟨fun hdue hp => ⟨_, exec_parkLimitExpiry_due hx hdue hp, ?limit⟩,
        fun hs hdue => ⟨_, exec_dlrParklimWrite_due hs hdue, ?write, ?reg⟩⟩,
    exec_dlrParklimWrite_not_due, fun raw hraw hstore => exec_fstHimgWrite_good hraw hstore,
    fun e he => ⟨_, exec_fstHimgWrite_bad he, rfl, State.himageRefused_bit .., rfl⟩⟩
  case none =>
    simp only [List.mem_cons, List.not_mem_nil, or_false] at hi
    rcases hi with rfl | rfl <;> exact congrArg Host.Outcome.next (if_neg (ne_true_of_eq_false hn))
  case ends =>
    simp only [List.mem_cons, List.not_mem_nil, or_false] at hi
    rcases hi with rfl | rfl
    · obtain ⟨hmem, hstation⟩ := s.answerPage_ends id false
      exact ⟨_, congrArg Host.Outcome.next (if_pos ho), hmem, congrArg Station.requests hstation⟩
    · obtain ⟨hmem, hstation⟩ := s.answerPage_ends id true
      exact ⟨_, congrArg Host.Outcome.next (if_pos ho), hmem, congrArg Station.requests hstation⟩
  case unparks =>
    have hx : s.team? t = some x := by rw [State.team?, hs]; exact if_pos rfl
    obtain ⟨r, hr⟩ := State.unpark_letsGo (s := s.requestEnded id) hd hx hc hk rfl hst hh ht
    refine ⟨_, congrArg Host.Outcome.next ((if_pos ho).trans (State.answerPage_unparks hs hp)), ?_, ?_, ?_, ?_, ?_,
      State.unpark_parks _ hx hp⟩
    all_goals rw [hr]; rfl
  case limit =>
    obtain ⟨hsaves, hmem, hteam, hthread, -⟩ := State.markTeam_marks hx hc hm hd hu hcl ha hh
    exact ⟨hsaves, hmem, hteam, hthread⟩
  case write =>
    obtain ⟨hsaves, hmem, hteam, hthread, -⟩ := State.markTeam_marks (s := s.setReg .dlrParklim 0 v) hx hc hm hd hu hcl
      ((s.freeAreas_setReg_parklim v).trans ha) hh
    rw [State.markNow_setReg_parklim] at hteam
    exact ⟨hsaves, hmem, hteam, hthread⟩
  case reg =>
    obtain ⟨-, -, -, -, hregs⟩ := State.markTeam_marks (s := s.setReg .dlrParklim 0 v) hx hc hm hd hu hcl
      ((s.freeAreas_setReg_parklim v).trans ha) hh
    rw [State.reg, hregs]
    rfl

end Sys2Proof.Machine

/-! PROOFS. Handler slots given out where the list of handler slots names one twice (R206). -/

namespace Sys2Proof.Machine

/-- A freezing trap of tile 0 that waits for a handler slot. -/
def frozenTrap : Trap := { witFreezeTrap with record := { witFreezeTrap.record with seq := 1 } }

/-- A device in whose core 0 the frozen tile 0 holds a token of the handler of slot 1, and slot 1 stands twice in the list of handler
slots: with a trap whose handler runs, and with one that can begin and is of lesser SEQ than the trap that waits. -/
def slotTwice : State :=
  let tile : Tile := { frozen := some { code := 0x30, site := ⟨0, 0, 2, false⟩, token := some { witWord 5 with slot := 4097 } } }
  ((witDev {} {} tile).setReg .mmuRoot 0 0x3001).updCore 0 (fun q =>
    { q with traps := [frozenTrap], hslots := [(1, { witTrap with running := true }), (1, witFreezeTrap)] })

/-- The trap that can begin has no handler block and is raised by the number of its slot, so that the handler of the other trap of
that number ends: its token leaves tile 0, and the trap of the tile, which has just taken slot 0, leaves with it. -/
theorem exec_handlerSlotAllocate_slotTwice : ∃ u, exec (.handlerSlotAllocate 0) slotTwice = .next u ∧
    KMap.look (u.core 0).hslots 0 = none :=
  ⟨_, rfl, by decide +kernel⟩

/-- Refutes O45: the clause of the trap that takes a slot does not say that a slot stands once in the list of handler slots. Where
slot 1 stands there twice, once with a handler that runs, the trap that has taken slot 0 is gone after the step. KMap.put makes no
such list of an ascending one; the statement ranges over all states. -/
theorem not_trapsReachHandlers : ¬ Obligations.TrapsReachHandlers := by
  intro h
  let token : FaultTok := { code := 0, thread := none, tile := none, kind := .exit, record := witRecord }
  obtain ⟨-, ⟨-, htakes, -⟩, -⟩ := h slotTwice 0 0 0 0 0 token [] frozenTrap witRecord []
  obtain ⟨u, y, hexec, -, hslot, -⟩ := htakes (by decide) (by decide) (by decide +kernel) (by decide +kernel)
  obtain ⟨v, hv, hgone⟩ := exec_handlerSlotAllocate_slotTwice
  obtain rfl : u = v := Host.Outcome.next.inj (hexec.symm.trans hv)
  rw [hgone] at hslot
  cases hslot

end Sys2Proof.Machine

/-! PROOFS. Integer instructions (R97, R286 to R293, R335, R349 to R351): what each lane of a result is, and the shapes that do
not agree. -/

namespace Sys2Proof.Machine

/-! ## Lanes as integers -/

/-- The reading of a lane is the lane, up to a multiple of 2^w. -/
theorem intToLane_laneInt {w : Nat} (sg : Bool) {a : Nat} (ha : a < 2 ^ w) : intToLane w (laneInt w sg a) = a := by
  unfold intToLane laneInt
  split
  · rw [Int.sub_emod_right, Int.emod_eq_of_lt (by omega) (by omega), Int.toNat_natCast]
  · rw [Int.emod_eq_of_lt (by omega) (by omega), Int.toNat_natCast]

theorem intToLane_lt (w : Nat) (x : Int) : intToLane w x < 2 ^ w := by
  have := Nat.two_pow_pos w
  unfold intToLane
  omega

/-- A result of two lanes agrees with another function of them where both do on lanes of the width. -/
theorem intFiring2_lanes_eq {s : State} {f : Firing} {r : Route} {w : Lane} {i : Instr} {g : Nat → Nat → Nat → Nat}
    {k : Nat → Nat → Nat} (hi : exec i s = intFiring2 r w g s) (h : s.Fires f r.ta) (ha : f.Agree)
    (hk : ∀ a b, a < 2 ^ w.bits → b < 2 ^ w.bits → g w.bits a b % 2 ^ w.bits = k a b) : s.Lanes2 f r i w k := by
  obtain ⟨d, hd, hl⟩ := intFiring2_lanes r w g s f h ha
  exact ⟨d, hi.trans hd, fun m j hm hj => (hl m j hm hj).trans (hk _ _ (lane_lt _ _ _) (lane_lt _ _ _))⟩

theorem intFiring3_lanes_eq {s : State} {f : Firing} {r : Route} {w : Lane} {i : Instr} {g : Nat → Nat → Nat → Nat → Nat}
    {k : Nat → Nat → Nat → Nat} (hi : exec i s = intFiring3 r w g s) (h : s.Fires f r.ta) (ha : f.Agree3)
    (hk : ∀ a b q, a < 2 ^ w.bits → b < 2 ^ w.bits → q < 2 ^ w.bits → g w.bits a b q % 2 ^ w.bits = k a b q) :
    s.Lanes3 f r i w k := by
  obtain ⟨d, hd, hl⟩ := intFiring3_lanes r w g s f h ha
  exact ⟨d, hi.trans hd, fun m j hm hj => (hl m j hm hj).trans (hk _ _ _ (lane_lt _ _ _) (lane_lt _ _ _) (lane_lt _ _ _))⟩

theorem intFiring1_lanes_eq {s : State} {f : Firing} {r : Route1} {w : Lane} {i : Instr} {g : Nat → Nat → Nat}
    {p : Nat → Nat → Prop} (hi : exec i s = intFiring1 r w g s) (h : s.Fires f .unary)
    (hp : ∀ a, a < 2 ^ w.bits → p a (g w.bits a % 2 ^ w.bits)) : s.Lanes1 f r.full i w p := by
  obtain ⟨d, hd, hl⟩ := intFiring1_lanes r w g s f h
  exact ⟨d, hi.trans hd, fun m j hm hj => by rw [hl m j hm hj]; exact hp _ (lane_lt _ _ _)⟩

/-- A bitwise operation, lane by lane, is the operation on the words. -/
theorem intFiring2_words {s : State} {f : Firing} {r : Route} {w : Lane} {i : Instr} {g : Nat → Nat → Nat → Nat}
    {k : Word → Word → Word} (hi : exec i s = intFiring2 r w g s) (h : s.Fires f r.ta) (ha : f.Agree)
    (hk : ∀ (x y : Word) (j : Nat), j < w.count → lane w.bits (k x y) j = g w.bits (lane w.bits x j) (lane w.bits y j)) :
    s.Words2 f r i k := by
  obtain ⟨d, hd, hl⟩ := intFiring2_lanes r w g s f h ha
  refine ⟨d, hi.trans hd, fun m hm => word_ext w _ _ fun j hj => ?_⟩
  rw [hl m j hm hj, hk _ _ j hj]
  exact Nat.mod_eq_of_lt (by rw [← hk _ _ j hj]; exact lane_lt _ _ _)

/-! ## Sums, products and choices (Table 17.2) -/

theorem laneSub_eq {w a b : Nat} (_ : a < 2 ^ w) (hb : b < 2 ^ w) : laneSub w a b % 2 ^ w = (2 ^ w + a - b) % 2 ^ w := by
  rw [laneSub, Nat.mod_mod, Nat.mod_eq_of_lt hb, show a + (2 ^ w - b) = 2 ^ w + a - b by omega]

theorem laneMulh_eq (w : Nat) (sg : Bool) (a b : Nat) :
    laneMulh w sg a b % 2 ^ w = (laneInt w sg a * laneInt w sg b / 2 ^ w % 2 ^ w).toNat := by
  rw [laneMulh, Nat.mod_eq_of_lt (intToLane_lt _ _), intToLane]
  push_cast
  rfl

theorem laneLesser_eq {w a b : Nat} (sg : Bool) (ha : a < 2 ^ w) (hb : b < 2 ^ w) :
    laneLesser sg w a b % 2 ^ w = if laneInt w sg a ≤ laneInt w sg b then a else b := by
  rw [laneLesser, Nat.mod_eq_of_lt (by split <;> assumption)]
  split
  · rw [if_neg (by omega)]
  · rw [if_pos (by omega)]

/-- Of two equal lanes either is the greater. -/
theorem laneGreater_eq {w a b : Nat} (sg : Bool) (ha : a < 2 ^ w) (hb : b < 2 ^ w) :
    laneGreater sg w a b % 2 ^ w = if laneInt w sg a ≤ laneInt w sg b then b else a := by
  rw [laneGreater, Nat.mod_eq_of_lt (by split <;> assumption)]
  rcases lt_trichotomy (laneInt w sg a) (laneInt w sg b) with hlt | heq | hgt
  · rw [if_pos hlt, if_pos hlt.le]
  · rw [if_neg (by omega), if_pos heq.le, ← intToLane_laneInt sg ha, heq, intToLane_laneInt sg hb]
  · rw [if_neg (by omega), if_neg (by omega)]

/-- Settles O10: each instruction's lanes, from the lane function that it applies. -/
theorem integerArithmetic : Obligations.IntegerArithmetic := by
  refine ⟨fun s f r w l h ha => ⟨?_, ?_, ?_, ?_, ?_, ?_⟩, fun s f r w l h ha => ⟨?_, ?_, ?_, ?_⟩⟩
  · exact intFiring2_lanes_eq (g := laneAdd) rfl h ha fun a b _ _ => Nat.mod_mod (a + b) _
  · exact intFiring2_lanes_eq (g := laneSub) rfl h ha fun _ _ => laneSub_eq
  · exact intFiring2_lanes_eq (g := laneMul) rfl h ha fun a b _ _ => Nat.mod_mod (a * b) _
  · exact intFiring2_lanes_eq (g := fun w => laneMulh w l.signed) rfl h ha fun a b _ _ => laneMulh_eq w.bits l.signed a b
  · exact intFiring2_lanes_eq (g := laneLesser l.signed) rfl h ha fun _ _ => laneLesser_eq l.signed
  · exact intFiring2_lanes_eq (g := laneGreater l.signed) rfl h ha fun _ _ => laneGreater_eq l.signed
  · exact intFiring2_words (g := fun _ a b => a &&& b) rfl h ha fun x y j _ => lane_and w x y j
  · exact intFiring2_words (g := fun _ a b => a ||| b) rfl h ha fun x y j _ => lane_or w x y j
  · exact intFiring2_words (g := fun _ a b => a ^^^ b) rfl h ha fun x y j _ => lane_xor w x y j
  · exact intFiring2_words (g := fun w a b => a &&& laneNot w b) rfl h ha fun x y j hj => by rw [lane_and, lane_not w y j hj]

/-! ## Shifts (Table 17.2) -/

theorem laneShl_eq (w a c : Nat) : laneShl w a c % 2 ^ w = if w ≤ c then 0 else a * 2 ^ c % 2 ^ w := by
  unfold laneShl
  split
  · simp
  · rw [Nat.mod_mod]

theorem laneShr_eq {w a : Nat} (c : Nat) (ha : a < 2 ^ w) : laneShr w a c % 2 ^ w = if w ≤ c then 0 else a / 2 ^ c := by
  unfold laneShr
  split
  · simp
  · exact Nat.mod_eq_of_lt (Nat.lt_of_le_of_lt (Nat.div_le_self _ _) ha)

/-- Bit w - 1 of a lane is set where the lane is at least its weight. -/
theorem bitOf_top {w x : Nat} (hw : 0 < w) (hx : x < 2 ^ w) : bitOf x (w - 1) = decide (2 ^ (w - 1) ≤ x) := by
  obtain ⟨k, rfl⟩ : ∃ k, w = k + 1 := ⟨w - 1, by omega⟩
  have hdiv : x / 2 ^ k < 2 := Nat.div_lt_of_lt_mul (by rwa [← Nat.pow_succ])
  have hiff : 1 ≤ x / 2 ^ k ↔ 2 ^ k ≤ x := by rw [Nat.le_div_iff_mul_le (Nat.two_pow_pos k), Nat.one_mul]
  simp only [bitOf, Nat.add_sub_cancel, ← hiff, decide_eq_decide]
  generalize x / 2 ^ k = q at hdiv
  omega

/-- A shift by the width or more leaves the sign alone. -/
theorem laneSar_eq {w a : Nat} (c : Nat) (ha : a < 2 ^ w) :
    laneSar w a c % 2 ^ w = if w ≤ c then (if 2 ^ (w - 1) ≤ a then 2 ^ w - 1 else 0)
      else (laneInt w true a / 2 ^ c % 2 ^ w).toNat := by
  rw [laneSar, Nat.mod_eq_of_lt (intToLane_lt _ _)]
  split
  · next hc =>
    have hpow := Nat.two_pow_pos w
    rw [Nat.min_eq_right hc, laneInt]
    simp only [Bool.true_and, decide_eq_true_eq]
    split
    · have hneg : ((a : Int) - (2 ^ w : Nat)) / (2 ^ w : Nat) = -1 :=
        ((Int.ediv_emod_unique (by omega)).2 (⟨by omega, by omega, by omega⟩ : (a : Int) + _ * -1 = _ ∧ _)).1
      have hones : (-1 : Int) % (2 ^ w : Nat) = (2 ^ w - 1 : Nat) :=
        ((Int.ediv_emod_unique (q := -1) (by omega)).2 ⟨by omega, by omega, by omega⟩).2
      rw [hneg, intToLane, hones, Int.toNat_natCast]
    · rw [Int.ediv_eq_zero_of_lt (by omega) (by omega)]
      simp [intToLane]
  · next hc =>
    rw [Nat.min_eq_left (by omega), intToLane]
    push_cast
    rfl

/-- A rotation by k moves the top k bits below the others. -/
theorem laneRotl_eq {w a : Nat} (c : Nat) (hw : 0 < w) (ha : a < 2 ^ w) :
    laneRotl w a c % 2 ^ w = a * 2 ^ (c % w) % 2 ^ w + a / 2 ^ (w - c % w) := by
  have hk := Nat.mod_lt c hw
  rw [laneRotl]
  generalize c % w = k at hk
  obtain ⟨n, rfl⟩ : ∃ n, w = n + k := ⟨w - k, by omega⟩
  rw [Nat.add_sub_cancel]
  have hlow : a * 2 ^ k % 2 ^ (n + k) = a % 2 ^ n * 2 ^ k := by rw [Nat.pow_add, Nat.mul_mod_mul_right]
  have hmod := Nat.mod_lt a (Nat.two_pow_pos n)
  have hdiv : a / 2 ^ n < 2 ^ k := Nat.div_lt_of_lt_mul (by rwa [← Nat.pow_add])
  refine Nat.mod_eq_of_lt ?_
  rw [hlow, Nat.pow_add]
  calc a % 2 ^ n * 2 ^ k + a / 2 ^ n < (a % 2 ^ n + 1) * 2 ^ k := by rw [Nat.add_mul, Nat.one_mul]; omega
    _ ≤ 2 ^ n * 2 ^ k := Nat.mul_le_mul_right _ hmod

/-! ## Counts and the reversal (Table 15.3) -/

theorem bitOf_eq_testBit (x i : Nat) : bitOf x i = x.testBit i := by
  rw [bitOf, Nat.testBit_eq_decide_div_mod_eq]

theorem laneAbs_eq {w x : Nat} (sg : Bool) (hw : 0 < w) (hx : x < 2 ^ w) :
    laneAbs w sg x % 2 ^ w = if sg ∧ 2 ^ (w - 1) ≤ x then (2 ^ w - x) % 2 ^ w else x := by
  simp only [laneAbs, bitOf_top hw hx, Bool.and_eq_true, decide_eq_true_eq]
  split
  · exact Nat.mod_mod _ _
  · exact Nat.mod_eq_of_lt hx

/-- The number of elements that a test takes is the sum of the test's values. -/
theorem length_filter_eq_sum (l : List Nat) (x : Nat) : (l.filter (bitOf x)).length = (l.map (fun i => x / 2 ^ i % 2)).sum := by
  induction l with
  | nil => rfl
  | cons i l ih =>
    have h2 := Nat.mod_two_eq_zero_or_one (x / 2 ^ i)
    rw [List.filter_cons, List.map_cons, List.sum_cons, ← ih]
    rcases h2 with h | h
    · simp [bitOf, h]
    · simp [bitOf, h, Nat.add_comm]

theorem lanePopc_eq {w x : Nat} : lanePopc w x % 2 ^ w = ((List.range w).map (fun i => x / 2 ^ i % 2)).sum := by
  rw [lanePopc, Nat.mod_eq_of_lt, length_filter_eq_sum, upTo]
  calc ((upTo w).filter (bitOf x)).length ≤ (upTo w).length := List.length_filter_le _ _
    _ = w := List.length_range
    _ < 2 ^ w := Nat.lt_two_pow_self

/-- The count of leading zeros: the width for zero, else the place of the highest bit set. -/
theorem laneClz_spec {w x : Nat} (hx : x < 2 ^ w) : if x = 0 then laneClz w x % 2 ^ w = w else
    laneClz w x % 2 ^ w < w ∧ 2 ^ (w - 1 - laneClz w x % 2 ^ w) ≤ x ∧ x < 2 ^ (w - laneClz w x % 2 ^ w) := by
  have hself : w < 2 ^ w := Nat.lt_two_pow_self
  split
  · next h0 => rw [laneClz, if_pos h0, Nat.mod_eq_of_lt hself]
  · next h0 =>
    have hlog : Nat.log2 x < w := (Nat.log2_lt h0).2 hx
    rw [laneClz, if_neg h0, Nat.mod_eq_of_lt (by omega), show w - 1 - (w - 1 - Nat.log2 x) = Nat.log2 x by omega,
      show w - (w - 1 - Nat.log2 x) = Nat.log2 x + 1 by omega]
    exact ⟨by omega, Nat.log2_self_le h0, Nat.lt_log2_self⟩

/-- The count of trailing zeros: the width for zero, else the place of the lowest bit set. -/
theorem laneCtz_spec {w x : Nat} (hx : x < 2 ^ w) : if x = 0 then laneCtz w x % 2 ^ w = w else
    laneCtz w x % 2 ^ w < w ∧ x.testBit (laneCtz w x % 2 ^ w) = true ∧ ∀ i, i < laneCtz w x % 2 ^ w → x.testBit i = false := by
  have hself : w < 2 ^ w := Nat.lt_two_pow_self
  cases hf : (upTo w).find? (bitOf x) with
  | none =>
    have hzero : x = 0 := Nat.eq_of_testBit_eq fun i => by
      rw [Nat.zero_testBit]
      rcases Nat.lt_or_ge i w with hi | hi
      · simpa [bitOf_eq_testBit] using List.find?_eq_none.1 hf i (List.mem_range.2 hi)
      · exact Nat.testBit_lt_two_pow (Nat.lt_of_lt_of_le hx (Nat.pow_le_pow_right (by decide) hi))
    rw [if_pos hzero, laneCtz, hf, Option.getD_none, Nat.mod_eq_of_lt hself]
  | some n =>
    obtain ⟨hbit, hn, hbelow⟩ := List.find?_range_eq_some.1 hf
    rw [bitOf_eq_testBit] at hbit
    have hn := List.mem_range.1 hn
    rw [if_neg (by rintro rfl; simp at hbit), laneCtz, hf, Option.getD_some, Nat.mod_eq_of_lt (by omega)]
    exact ⟨hn, hbit, fun i hi => by simpa [bitOf_eq_testBit] using hbelow i hi⟩

/-- A bit added below all the bits of a number stands beside them. -/
theorem testBit_add_below (p z i : Nat) (b : Bool) :
    (2 ^ (p + 1) * z + b2n b * 2 ^ p).testBit i = if i = p then b else (2 ^ (p + 1) * z).testBit i := by
  have hadd : 2 ^ (p + 1) * z + b2n b * 2 ^ p = 2 ^ (p + 1) * z ||| b2n b * 2 ^ p :=
    Nat.two_pow_add_eq_or_of_lt (by rw [Nat.pow_succ']; have := Nat.two_pow_pos p; cases b <;> simp [b2n]) z
  rw [hadd, Nat.testBit_or, Nat.testBit_two_pow_mul]
  rcases eq_or_ne i p with rfl | hi
  · cases b <;> simp [b2n]
  · cases b <;> simp [b2n, hi, hi.symm]

/-- The bits below k, each at its mirrored place, and no others: the number that BREV has formed after k bits. -/
theorem brev_testBit {w k : Nat} (x i : Nat) (hk : k ≤ w) (hi : i < w) :
    2 ^ (w - k) ∣ (upTo k).foldl (fun acc i => acc + b2n (bitOf x i) * 2 ^ (w - 1 - i)) 0 ∧
    ((upTo k).foldl (fun acc i => acc + b2n (bitOf x i) * 2 ^ (w - 1 - i)) 0).testBit i =
      (decide (w - 1 - i < k) && x.testBit (w - 1 - i)) := by
  induction k with
  | zero => simp [upTo]
  | succ k ih =>
    obtain ⟨hdvd, hbit⟩ := ih (by omega)
    rw [upTo, List.range_succ, List.foldl_append]
    simp only [upTo, List.foldl_cons, List.foldl_nil] at hbit hdvd ⊢
    generalize (List.range k).foldl (fun acc i => acc + b2n (bitOf x i) * 2 ^ (w - 1 - i)) 0 = y at hbit hdvd ⊢
    obtain ⟨p, hp⟩ : ∃ p, w - k = p + 1 := ⟨w - k - 1, by omega⟩
    rw [hp] at hdvd
    obtain ⟨z, rfl⟩ := hdvd
    rw [show w - 1 - k = p by omega, show w - (k + 1) = p by omega]
    refine ⟨Nat.dvd_add (Nat.pow_succ .. ▸ ⟨2 * z, by ring⟩) (Nat.dvd_mul_left _ _), ?_⟩
    rw [testBit_add_below, hbit, bitOf_eq_testBit]
    by_cases hip : i = p
    · rw [if_pos hip, show w - 1 - i = k by omega]
      simp
    · rw [if_neg hip, show decide (w - 1 - i < k + 1) = decide (w - 1 - i < k) by simp; omega]

theorem laneBrev_testBit {w x i : Nat} (hi : i < w) : (laneBrev w x % 2 ^ w).testBit i = x.testBit (w - 1 - i) := by
  obtain ⟨-, hbit⟩ := brev_testBit x i le_rfl hi
  rw [Nat.testBit_mod_two_pow, laneBrev, hbit]
  simp [hi, show w - 1 - i < w by omega]

/-- Settles O11: the shifts by every count, and the five instructions of one operand. -/
theorem integerShifts : Obligations.IntegerShifts := by
  refine ⟨fun s f r w l h ha => ⟨?_, ?_, ?_, ?_⟩, fun s f r w sg h => ⟨?_, ?_, ?_, ?_, ?_⟩⟩
  · exact intFiring2_lanes_eq (g := laneShl) rfl h ha fun a c _ _ => laneShl_eq w.bits a c
  · exact intFiring2_lanes_eq (g := laneShr) rfl h ha fun _ c hx _ => laneShr_eq c hx
  · exact intFiring2_lanes_eq (g := laneSar) rfl h ha fun _ c hx _ => laneSar_eq c hx
  · exact intFiring2_lanes_eq (g := laneRotl) rfl h ha fun _ c hx _ => laneRotl_eq c (lane_bits_pos w) hx
  · exact intFiring1_lanes_eq (g := fun w => laneAbs w sg) rfl h fun _ hx => laneAbs_eq sg (lane_bits_pos w) hx
  · exact intFiring1_lanes_eq (g := lanePopc) rfl h fun _ _ => lanePopc_eq
  · exact intFiring1_lanes_eq (g := laneClz) rfl h fun _ hx => laneClz_spec hx
  · exact intFiring1_lanes_eq (g := laneCtz) rfl h fun _ hx => laneCtz_spec hx
  · exact intFiring1_lanes_eq (g := laneBrev) rfl h fun _ _ _ hi => laneBrev_testBit hi

/-! ## Fields, comparisons and products with a sum (R291 to R293, R351) -/

theorem laneCmp_eq (w : Nat) (sg : Bool) (c : Cond) (a b : Nat) :
    laneCmp w sg c a b % 2 ^ w = if c.holds (laneInt w sg a) (laneInt w sg b) then 2 ^ w - 1 else 0 := by
  have hpos := Nat.two_pow_pos w
  have hones : (2 ^ w - 1) % 2 ^ w = 2 ^ w - 1 := Nat.mod_eq_of_lt (by omega)
  have hcmp : laneCmp w sg c a b = if c.holds (laneInt w sg a) (laneInt w sg b) then 2 ^ w - 1 else 0 := by
    cases c <;> rfl
  rw [hcmp]
  split
  · exact hones
  · exact Nat.zero_mod _

/-- An extracted field is sign-extended under S from the highest bit of its length. -/
theorem laneBfx_eq (w : Nat) (sg : Bool) (a spec : Nat) : laneBfx w sg a spec % 2 ^ w =
    (let n := min (spec / 256 % 256) w
     let p := spec % 256
     let x := if w ≤ p then 0 else a / 2 ^ p % 2 ^ n
     if sg ∧ 0 < n ∧ 2 ^ (n - 1) ≤ x then x + 2 ^ w - 2 ^ n else x) := by
  have hn : min (bitsOf spec 15 8) w = min (spec / 256 % 256) w := rfl
  have hp : bitsOf spec 7 0 = spec % 256 := by simp [bitsOf]
  rw [laneBfx, hn, hp]
  have hle : min (spec / 256 % 256) w ≤ w := min_le_right _ _
  generalize min (spec / 256 % 256) w = n at hle
  generalize spec % 256 = p
  have hpow : 2 ^ n ≤ 2 ^ w := Nat.pow_le_pow_right (by decide) hle
  have hx : (if w ≤ p then 0 else a / 2 ^ p % 2 ^ n) < 2 ^ n := by
    split
    · exact Nat.two_pow_pos n
    · exact Nat.mod_lt _ (Nat.two_pow_pos n)
  dsimp only
  simp only [ge_iff_le] at *
  generalize (if w ≤ p then 0 else a / 2 ^ p % 2 ^ n) = x at hx
  have hsign : (sg && decide (n > 0) && bitOf x (n - 1)) = true ↔ sg ∧ 0 < n ∧ 2 ^ (n - 1) ≤ x := by
    rcases Nat.eq_zero_or_pos n with h0 | h0
    · simp [h0]
    · simp [bitOf_top h0 hx, h0]
  simp only [hsign]
  split
  · rw [Nat.mod_eq_of_lt (intToLane_lt _ _), intToLane, ← Int.add_emod_right,
      Int.emod_eq_of_lt (by omega) (by omega)]
    omega
  · exact Nat.mod_eq_of_lt (by omega)

/-- A field inserted at or beyond the width is no field. -/
theorem laneBfi_eq (w : Nat) {a : Nat} (b spec : Nat) (ha : a < 2 ^ w) : laneBfi w a b spec % 2 ^ w =
    (let n := min (spec / 256 % 256) w
     let p := spec % 256
     let m := if w ≤ p then 0 else (2 ^ n - 1) * 2 ^ p % 2 ^ w
     (a &&& (2 ^ w - 1 - m)) ||| (b * 2 ^ p &&& m)) := by
  have hn : min (bitsOf spec 15 8) w = min (spec / 256 % 256) w := rfl
  have hp : bitsOf spec 7 0 = spec % 256 := by simp [bitsOf]
  rw [laneBfi, hn, hp]
  generalize min (spec / 256 % 256) w = n
  generalize spec % 256 = p
  dsimp only
  have hfield : ∀ m, m < 2 ^ w → (m = 0 ∨ p < w) → ((a &&& laneNot w m) ||| (b * 2 ^ min p w &&& m)) % 2 ^ w =
      (a &&& (2 ^ w - 1 - m)) ||| (b * 2 ^ p &&& m) := fun m hm hpw => by
    have hshift : (b * 2 ^ min p w &&& m) = (b * 2 ^ p &&& m) := by
      rcases hpw with h0 | hpw
      · rw [h0, Nat.and_zero, Nat.and_zero]
      · rw [Nat.min_eq_left hpw.le]
    rw [hshift, laneNot, Nat.mod_eq_of_lt hm]
    exact Nat.mod_eq_of_lt (Nat.or_lt_two_pow (Nat.lt_of_le_of_lt Nat.and_le_left ha)
      (Nat.lt_of_le_of_lt Nat.and_le_right hm))
  split
  · exact hfield 0 (Nat.two_pow_pos w) (.inl rfl)
  · exact hfield _ (Nat.mod_lt _ (Nat.two_pow_pos w)) (.inr (by omega))

/-- Settles O12: each instruction's lanes, from the lane function that it applies. -/
theorem integerFields : Obligations.IntegerFields := by
  refine fun s f r w l q c h => ⟨fun ha => ⟨?_, fun _ => ?_⟩, fun ha => ⟨?_, fun _ => ?_⟩⟩
  · exact intFiring2_lanes_eq (g := fun w => laneCmp w l.signed c) rfl h ha fun a b _ _ => laneCmp_eq w.bits l.signed c a b
  · exact intFiring2_lanes_eq (g := fun w => laneBfx w l.signed) rfl h ha fun _ b _ _ => laneBfx_eq w.bits l.signed _ b
  · exact intFiring3_lanes_eq (g := laneMad) rfl h ha fun a b q _ _ _ => Nat.mod_mod (a * b + q) _
  · exact intFiring3_lanes_eq (g := laneBfi) rfl h ha fun _ b q hx _ _ => laneBfi_eq w.bits b q hx

end Sys2Proof.Machine

/-! PROOFS. Routing nodes (R64, R326, R327, R336, R352 to R357), LEA (R335), and the shapes, bubbles and deferred firings of the
elementwise instructions (R68, R69, R286). -/

namespace Sys2Proof.Machine

/-! ## LEA, and copies of A and of constants -/

/-- Settles O14: the sum of the two words, or FMTMIS, as the operands have the shape. That a constant is no beat whatever tag it
has taken (`Token.isWide`) is the model's choice (log entry 32). -/
theorem formAddress : Obligations.FormAddress := by
  refine fun s f r l h => ⟨fun ⟨ha, hb⟩ => ?_, fun hw => ?_⟩
  · exact dataFiring_some r .addr _ s f _ h (by simp [ha, hb])
  · exact dataFiring_none r .addr _ s f h (by rcases hw with hw | hw <;> simp [hw])

/-- MOV sends A's data under A's format (R353). -/
theorem exec_mov {s : State} {f : Firing} {r : Route} (h : s.Fires f r.ta) :
    exec (.mov r) s = .next (s.yields f r f.tokA.fmt ⟨f.tokA.data, 0⟩) := by
  obtain ⟨hf, hd, hp⟩ := h
  have hmov : exec (.mov r) s = withFiring s (fun s f => fireCases r f.tokA.fmt
      (valueEffect r (fun _ f => some (Out.data (f.resultTag r.ta f.tokA.fmt) ⟨f.tokA.data, 0⟩))) s f) := rfl
  rw [hmov, withFiring_some _ _ _ hf, fireCases_own _ _ _ _ _ hd hp]
  rfl

/-- LIT sends the constant that its kind forms (R336). -/
theorem exec_lit {s : State} {f : Firing} (r : Route1) (kind : LitKind) (v : BitVec 32) (h : s.Fires f .unary) :
    exec (.lit r kind v) s = .next (s.yields f r.full (litResult kind v).2 ⟨beatOf (litResult kind v).1, 0⟩) :=
  dataFiring_some r.full _ _ s f _ h rfl

/-- A BF16 constant stands in each of the four lanes (R336). -/
theorem lane_litResult_bf16 (v : BitVec 32) (j : Nat) (hj : j < 4) : lane 16 (litResult .bf16 v).1 j = v.toNat % 65536 := by
  refine (lane_joinLanes 16 _ j (by simpa using hj) (by simp)).trans ?_
  rw [List.getElem_replicate]
  exact Nat.mod_mod _ _

/-! ## PURGE -/

/-- One matching store as another: the same entries in their order, but that some have become sticky. -/
def SomeSticky (l l' : List Entry) : Prop :=
  List.Forall₂ (fun e e' => ({ e' with kind := .operand, uses := 0 } : Entry) = { e with kind := .operand, uses := 0 } ∧
    (e' = e ∨ e'.kind = .sticky)) l l'

theorem SomeSticky.refl (l : List Entry) : SomeSticky l l := List.forall₂_same.2 fun _ _ => ⟨rfl, .inl rfl⟩

theorem SomeSticky.trans {l m n : List Entry} (h : SomeSticky l m) (g : SomeSticky m n) : SomeSticky l n := by
  unfold SomeSticky at *
  induction h generalizing n with
  | nil => cases g; exact .nil
  | cons hx _ ih =>
    cases g with
    | cons hy g =>
      refine .cons ⟨hy.1.trans hx.1, ?_⟩ (ih g)
      rcases hy.2 with rfl | hy
      · exact hx.2
      · exact .inr hy

/-- Entries made sticky by a rule of their own. -/
theorem someSticky_map (l : List Entry) (g : Entry → Entry) (hg : ∀ e, g e = e ∨ g e = { e with kind := .sticky } ∨
    g e = { e with kind := .sticky, uses := 0 }) : SomeSticky l (l.map g) := by
  refine List.forall₂_map_right_iff.2 (List.forall₂_same.2 fun e _ => ?_)
  rcases hg e with h | h | h <;> rw [h] <;> simp

/-- R64: a waiting operand becomes sticky, and nothing else of the store changes. -/
theorem someSticky_promoteSlot (c : PlaneCtx) (slot : Nat) (b : SlotBits) : SomeSticky c.store (promoteSlot c slot b).store := by
  unfold promoteSlot
  repeat' split
  all_goals first
    | exact .refl _
    | exact someSticky_map _ _ fun e => by split <;> simp

theorem someSticky_promoteAll (c : PlaneCtx) : SomeSticky c.store (promoteAll c).store := by
  unfold promoteAll
  generalize c.plane.slots = l
  induction l generalizing c with
  | nil => exact .refl _
  | cons p l ih => exact (someSticky_promoteSlot c p.1 p.2).trans (ih _)

theorem SomeSticky.map_eq {l l' : List Entry} (h : SomeSticky l l') :
    l'.map (fun e => ({ e with kind := .operand, uses := 0 } : Entry)) = l.map (fun e => { e with kind := .operand, uses := 0 }) := by
  induction h with
  | nil => rfl
  | cons hx _ ih => rw [List.map_cons, List.map_cons, hx.1, ih]

theorem SomeSticky.zip {l l' : List Entry} (h : SomeSticky l l') : ∀ p ∈ l.zip l', p.2 = p.1 ∨ p.2.kind = .sticky :=
  fun p hp => (List.forall₂_zip h (a := p.1) (b := p.2) hp).2

/-- What PURGE leaves of the matching store (R356): the entries that it does not name, some of which become sticky (R64). -/
theorem purgeSticky_store (side : PurgeSide) (slot : Nat) (c : PlaneCtx) :
    SomeSticky (c.store.filter (fun e => decide (¬(e.kind = .sticky ∧ e.slot = slot ∧
      (side = .both ∨ (side = .a ∧ e.side = .a) ∨ (side = .b ∧ e.side = .b)))))) (purgeSticky side slot c).store := by
  unfold purgeSticky
  refine SomeSticky.trans ?_ (someSticky_promoteAll _)
  refine Eq.subst (motive := SomeSticky _) (List.filter_congr fun e _ => ?_) (.refl _)
  cases side <;> simp [Bool.or_assoc]

/-- The contexts of a tile where its handler context does not exist. -/
theorem ctx_updCtx_or (s : State) (c t : Nat) (h : Bool) (g : PlaneCtx → PlaneCtx) :
    (s.updCtx c t h g).ctx c t h = g (s.ctx c t h) ∨ (s.ctx c t h = {} ∧ (s.updCtx c t h g).ctx c t h = {}) := by
  cases h with
  | false => exact .inl (ctx_updCtx s c t false g (by simp))
  | true =>
    cases hx : (s.tile c t).hctx with
    | some x => exact .inl (ctx_updCtx s c t true g (by simp [hx]))
    | none =>
      refine .inr ⟨by simp [State.ctx, Tile.ctx, hx], ?_⟩
      have hnone := hctx_updCtx s c t true g
      rw [hx, Option.isSome_none, Option.isSome_eq_false_iff, Option.isNone_iff_eq_none] at hnone
      simp [State.ctx, Tile.ctx, hnone]

/-- The store that PURGE finds and the store that it leaves. -/
theorem purge_store (s : State) (c t : Nat) (h : Bool) (side : PurgeSide) (slot : Nat) :
    SomeSticky ((s.ctx c t h).store.filter (fun e => decide (¬(e.kind = .sticky ∧ e.slot = slot ∧
      (side = .both ∨ (side = .a ∧ e.side = .a) ∨ (side = .b ∧ e.side = .b))))))
      ((s.updCtx c t h (purgeSticky side slot)).ctx c t h).store := by
  rcases ctx_updCtx_or s c t h (purgeSticky side slot) with hx | ⟨h0, h1⟩
  · rw [hx]
    exact purgeSticky_store _ _ _
  · rw [h0, h1]
    exact .refl _

/-- Settles O17: the four copies by their value, NOP and PURGE by their effect. -/
theorem copySinkPurge : Obligations.CopySinkPurge := by
  refine ⟨fun s f r r1 m v => ⟨exec_mov, fun h => ⟨?_, exec_lit r1 .i64 v h, exec_lit r1 .n64 v h, exec_lit r1 .f32 v h, _,
    exec_lit r1 .bf16 v h, lane_litResult_bf16 v⟩⟩, fun s f sa sb ta r side slot => ⟨fun h => ?_, fun h => ?_⟩⟩
  · exact dataFiring_some r1.full m _ s f _ h rfl
  · exact withFiring_some s f (fun s f => s.trace f .discard f.tokA) h
  · refine ⟨_, passFiring_own _ (r := r.full) h, ?_⟩
    dsimp only
    have hstore := purge_store s.taken f.site.core f.site.tile f.site.handler side slot.toNat
    exact ⟨⟨hstore.map_eq, hstore.zip⟩, rfl, rfl, fun c k => thread_updCtx _ _ _ c k _ _⟩

/-! ## SEL, GATE and STEER -/

section Two
variable {f : Firing} {a b : Token} (ha : f.a = [a]) (hb : f.b = [b]) (hq : f.q = [])
include ha hb hq

/-- DEF of a result of two operands. -/
theorem deferred_two : f.deferred = (a.deferred || b.deferred) := by simp [Firing.deferred, defOf, ha, hb, hq]

/-- The data of the first deferred operand of two (R69). -/
theorem deferredData_two (h : f.deferred = true) : f.deferredData = (if a.deferred then a else b).data := by
  rw [deferred_two ha hb hq] at h
  cases hda : a.deferred with
  | true => simp [Firing.deferredData, ha, hb, hq, hda, opTok]
  | false =>
    rw [hda, Bool.false_or] at h
    simp [Firing.deferredData, ha, hb, hq, hda, h, opTok]

omit hb hq in
theorem tokA_eq : f.tokA = a := by simp [Firing.tokA, opTok, ha]

omit ha hq in
theorem tokB_eq : f.tokB = b := by simp [Firing.tokB, opTok, hb]

end Two

/-- The low 64 bits of a token are those of its data. -/
theorem w64_congr {t u : Token} (h : t.data = u.data) : t.w64 = u.w64 := by rw [Token.w64, Token.w64, h]

/-- A beat keeps all its data. -/
theorem fit_of_isBeat {t : Token} (h : t.isBeat = true) : t.fit = t := if_pos h

section Sel
variable {f : Firing} {r : Route} {a b : Token} (ha : f.a = [a]) (hb : f.b = [b]) (hq : f.q = [])

/-- The operand that PRED of A chooses (R354). -/
def selChoice (a b : Token) : Token := if a.pred then a else b

/-- The tag of SEL's token before its data are cut to what it carries. -/
def selTag (r : Route) (f : Firing) : Token :=
  { f.resultTag r.ta (selChoice f.tokA f.tokB).fmt with
    data := if f.deferred then f.deferredData else (selChoice f.tokA f.tokB).data
    pred := f.tokA.pred || f.tokB.pred
    burst := (match r.ta with | .head => .head | .tail => .tail | _ => (selChoice f.tokA f.tokB).burst) }

theorem selToken_eq (r : Route) (f : Firing) : selToken r f =
    if f.deferred || (selTag r f).pred then (selTag r f).fit else { selTag r f with data := 0 } := by
  have htag : selToken r f = if f.deferred then (selTag r f).fit else if (selTag r f).pred then (selTag r f).fit
      else { selTag r f with data := 0 } := by
    unfold selToken selTag selChoice
    cases r.ta <;> rfl
  rw [htag]
  cases f.deferred <;> simp

/-- Under a tag action but HEAD and TAIL the result has the operand's BURST, and under these it is a beat (R63). -/
theorem selTag_burst (r : Route) (f : Firing) :
    (r.ta ≠ .head → r.ta ≠ .tail → (selTag r f).burst = (selChoice f.tokA f.tokB).burst) ∧
    ((selChoice f.tokA f.tokB).isBeat = true → (selTag r f).isBeat = true) := by
  unfold selTag Token.isBeat
  cases r.ta <;> simp

include ha hb hq in
/-- What the token of SEL carries (R354). -/
theorem selToken_spec : let t := selToken r f; let x := selChoice a b
    t.pred = (a.pred || b.pred) ∧ t.deferred = (a.deferred || b.deferred) ∧ t.fmt = x.fmt ∧
    (r.ta ≠ .head → r.ta ≠ .tail → t.burst = x.burst) ∧
    (t.deferred = false → t.pred = true → t.w64 = x.w64 ∧ (x.isBeat = true → t.data = x.data)) ∧
    (t.deferred = false → t.pred = false → t.data = 0) ∧
    (t.deferred = true → t.w64 = (if a.deferred then a else b).w64) := by
  dsimp only
  have hd := deferred_two ha hb hq
  obtain ⟨hburst, hbeat⟩ := selTag_burst r f
  have hdata : (selTag r f).data = if f.deferred then f.deferredData else (selChoice a b).data := by
    simp only [selTag, tokA_eq ha, tokB_eq hb]
  have hpred : (selTag r f).pred = (a.pred || b.pred) := by simp only [selTag, tokA_eq ha, tokB_eq hb]
  have hdef : (selTag r f).deferred = f.deferred := rfl
  have hfmt : (selTag r f).fmt = (selChoice a b).fmt := by simp only [selTag, Firing.resultTag, tokA_eq ha, tokB_eq hb]
  rw [tokA_eq ha, tokB_eq hb] at hburst hbeat
  rw [selToken_eq]
  split
  · next hc =>
    simp only [fit_pred, fit_deferred, fit_fmt, fit_burst, fit_w64, hpred, hdef, hfmt, ← hd]
    refine ⟨trivial, trivial, trivial, hburst, fun h0 _ => ?_, fun h0 hp => ?_, fun h1 => ?_⟩
    · rw [h0, if_neg Bool.false_ne_true] at hdata
      exact ⟨w64_congr hdata, fun hx => by rw [fit_of_isBeat (hbeat hx), hdata]⟩
    · rw [h0, hpred, hp] at hc
      cases hc
    · rw [h1, if_pos rfl, deferredData_two ha hb hq h1] at hdata
      exact w64_congr hdata
  · next hc =>
    simp only [Bool.or_eq_true, not_or, Bool.not_eq_true] at hc
    obtain ⟨h0, hp⟩ := hc
    simp only [hdef, hfmt, ← hd, h0, hp, ← hpred]
    exact ⟨trivial, trivial, trivial, hburst, by simp, by simp, by simp⟩

end Sel

section Gate
variable {f : Firing} {r : Route} {a b : Token} (ha : f.a = [a]) (hb : f.b = [b]) (hq : f.q = [])
include ha hb hq

/-- What a token of GATE or STEER carries under a predicate (R327, R355). -/
theorem gateToken_spec (q : Bool) : let x := gateToken r f q
    x.pred = q ∧ x.deferred = (a.deferred || b.deferred) ∧ x.fmt = a.fmt ∧ (x.deferred = false → q = true → x.w64 = a.w64) ∧
    (x.deferred = false → q = false → x.data = 0) ∧ (x.deferred = true → x.w64 = (if a.deferred then a else b).w64) := by
  dsimp only
  have hd := deferred_two ha hb hq
  have hfmt : (f.resultTag r.ta f.tokA.fmt).fmt = a.fmt := by rw [tokA_eq ha]; rfl
  have hdef : (f.resultTag r.ta f.tokA.fmt).deferred = f.deferred := rfl
  unfold gateToken
  simp only [fit_pred, fit_deferred, fit_fmt, fit_w64, hfmt, hdef, ← hd]
  refine ⟨trivial, trivial, trivial, fun h0 hq' => w64_congr ?_, fun h0 hq' => ?_, fun h1 => w64_congr ?_⟩
  · simp only [h0, hq', tokA_eq ha, if_true, Bool.false_eq_true, if_false]
  · simp only [h0, hq', Bool.false_eq_true, if_false]
    unfold Token.fit
    split <;> rfl
  · simp only [h1, if_true, deferredData_two ha hb hq h1]

end Gate

section Exec
variable {s : State} {f : Firing} (hf : s.firing = some f)
include hf

theorem exec_sel (r : Route) : exec (.sel r) s = .next (if !f.deferred && f.tokA.isBeat ≠ f.tokB.isBeat then
    s.taken.freezeFiring f r.ta codeFMTMIS else s.taken.emitOut f r (.both [selToken r f])) := by
  rw [show exec (.sel r) s = execSel r s from rfl, execSel, withFiring_some _ _ _ hf]

theorem exec_gate (r : Route) (sense : Bool) : exec (.gate r sense) s = .next (if !f.deferred && f.tokB.isWide then
    s.taken.freezeFiring f r.ta codeFMTMIS else s.taken.emitOut f r (.both [gateToken r f
      (predOf f.a && predOf f.b && (defOf f.b || maskTest f sense))])) := by
  rw [show exec (.gate r sense) s = execGate r sense s from rfl, execGate, withFiring_some _ _ _ hf]

theorem exec_steer (r : Route) (sense : Bool) : exec (.steer r sense) s = .next (if !f.deferred && f.tokB.isWide then
    s.taken.freezeFiring f r.ta codeFMTMIS else s.taken.emitOut f r
      ⟨[gateToken r f (predOf f.a && predOf f.b && (defOf f.b || maskTest f sense))],
        [gateToken r f (predOf f.a && predOf f.b && (defOf f.b || !maskTest f sense))], 0⟩) := by
  rw [show exec (.steer r sense) s = execSteer r sense s from rfl, execSteer, withFiring_some _ _ _ hf]

end Exec

/-- Settles O18. That a deferred operand comes before FMTMIS for a beat on B is the model's choice (log entry 101). -/
theorem selectAndSteer : Obligations.SelectAndSteer := by
  refine ⟨fun s f r a b hf ha hb hq => ⟨fun hs => ?_, fun hs hda hdb => ?_⟩, fun s f r sense a b hf ha hb hq _ =>
    ⟨fun hs => ?_, fun hw hda hdb => ?_⟩⟩
  · refine ⟨selToken r f, (exec_sel hf r).trans (congrArg _ (if_neg ?_)), selToken_spec ha hb hq⟩
    rw [deferred_two ha hb hq, tokA_eq ha, tokB_eq hb]
    rcases hs with h | h | h <;> simp [h]
  · refine (exec_sel hf r).trans (congrArg _ (if_pos ?_))
    rw [deferred_two ha hb hq, tokA_eq ha, tokB_eq hb]
    simp [hda, hdb, hs]
  · have hc : ¬(!f.deferred && f.tokB.isWide) = true := by
      rw [deferred_two ha hb hq, tokB_eq hb]
      rcases hs with h | h | h <;> simp [h]
    have hdefB : defOf f.b = b.deferred := by simp [defOf, hb]
    have hpred : (predOf f.a && predOf f.b) = (a.pred && b.pred) := by simp [predOf, ha, hb]
    have htest : maskTest f sense = ((b.w64 ≠ 0) != sense) := by rw [maskTest, tokB_eq hb]
    rw [exec_gate hf, exec_steer hf, if_neg hc, if_neg hc, hpred, hdefB, htest]
    exact ⟨⟨_, rfl, gateToken_spec ha hb hq _⟩, _, _, rfl, gateToken_spec ha hb hq _, gateToken_spec ha hb hq _⟩
  · have hc : (!f.deferred && f.tokB.isWide) = true := by
      rw [deferred_two ha hb hq, tokB_eq hb]
      simp [hw, hda, hdb]
    intro i hi
    simp only [List.mem_cons, List.not_mem_nil, or_false] at hi
    rcases hi with rfl | rfl
    · exact (exec_gate hf r sense).trans (congrArg _ (if_pos hc))
    · exact (exec_steer hf r sense).trans (congrArg _ (if_pos hc))

/-! ## PACK -/

/-- A lane of PACK narrowed to h bits (R98, R357), and whether it was clamped. -/
def packNarrow (h : Nat) (sg sat : Bool) (x : Nat) : Nat × FpFlags :=
  if sat then (intToLane h (clampLane h sg (laneInt (2 * h) sg x)).1, flagIf fSAT (clampLane h sg (laneInt (2 * h) sg x)).2)
  else (x % 2 ^ h, 0)

section Pack
variable (w : Lane) (sg sat : Bool) (a b : Word)

theorem two_mul_half : 2 * (w.bits / 2) = w.bits := by cases w <;> rfl

/-- The narrowed lanes of A and then those of B. -/
def packLanes : List Nat := (List.range w.count).map (lane w.bits a) ++ (List.range w.count).map (lane w.bits b)

theorem packWords_eq : packWords w.bits sg sat a b =
    (joinLanes (w.bits / 2) ((packLanes w a b).map (fun x => (packNarrow (w.bits / 2) sg sat x).1)),
      orFlags ((packLanes w a b).map (fun x => (packNarrow (w.bits / 2) sg sat x).2))) := by
  simp only [packWords, splitLanes_eq _ (lane_bits_pos w), lane_fill, List.map_map, Function.comp_def, packNarrow, packLanes,
    two_mul_half]

theorem packNarrow_lt (h x : Nat) : (packNarrow h sg sat x).1 < 2 ^ h := by
  unfold packNarrow
  split
  · exact intToLane_lt _ _
  · exact Nat.mod_lt _ (Nat.two_pow_pos h)

/-- Each lane of the result is a lane of A or of B narrowed. -/
theorem lane_packWords {j : Nat} (hj : j < w.count) :
    lane (w.bits / 2) (packWords w.bits sg sat a b).1 j = (packNarrow (w.bits / 2) sg sat (lane w.bits a j)).1 ∧
    lane (w.bits / 2) (packWords w.bits sg sat a b).1 (w.count + j) = (packNarrow (w.bits / 2) sg sat (lane w.bits b j)).1 := by
  have hlen : (packLanes w a b).length = 2 * w.count := by simp [packLanes]; omega
  have hfit : w.bits / 2 * (2 * w.count) ≤ 64 := by cases w <;> decide
  have hlane : ∀ k (hk : k < (packLanes w a b).length), lane (w.bits / 2) (packWords w.bits sg sat a b).1 k =
      (packNarrow (w.bits / 2) sg sat (packLanes w a b)[k]).1 := fun k hk => by
    rw [packWords_eq, lane_joinLanes _ _ k (by simpa using hk) (by simpa [hlen] using hfit), List.getElem_map]
    exact Nat.mod_eq_of_lt (packNarrow_lt sg sat _ _)
  rw [hlane j (by omega), hlane (w.count + j) (by omega)]
  constructor
  · simp [packLanes, List.getElem_append_left, hj]
  · simp [packLanes, List.getElem_append_right]

/-- SAT of a word is that of any lane clamped (R98). -/
theorem packWords_flags : (packWords w.bits sg sat a b).2 = flagIf fSAT ((packLanes w a b).any (fun x =>
    sat && (clampLane (w.bits / 2) sg (laneInt w.bits sg x)).2)) := by
  have hflag : ∀ x, (packNarrow (w.bits / 2) sg sat x).2 =
      flagIf fSAT (sat && (clampLane (w.bits / 2) sg (laneInt w.bits sg x)).2) := fun x => by
    cases sat <;> simp [packNarrow, two_mul_half, flagIf]
  simp only [packWords_eq, hflag]
  exact orFlags_flagIf fSAT _ _

end Pack

/-- A firing of PACK: each lane of the result is a lane of A or of B narrowed, and SAT is raised where any was clamped. -/
theorem packFiring_completes {s : State} {f : Firing} {r : Route} (w : Lane) (sg sat : Bool) (h : s.Fires f r.ta) (ha : f.Agree) :
    ∃ d : Data, exec (.pack r w sg sat) s = .next (s.yields f r .int d) ∧
      (∀ m j, m < f.subs → j < w.count →
        lane (w.bits / 2) (subWord d.data m) j = (packNarrow (w.bits / 2) sg sat (lane w.bits (f.tokA.sub m) j)).1 ∧
        lane (w.bits / 2) (subWord d.data m) (w.count + j) =
          (packNarrow (w.bits / 2) sg sat (lane w.bits (f.tokB.sub m) j)).1) ∧
      d.flags = flagIf fSAT ((upTo f.subs).any (fun m => (packLanes w (f.tokA.sub m) (f.tokB.sub m)).any (fun x =>
        sat && (clampLane (w.bits / 2) sg (laneInt w.bits sg x)).2))) := by
  obtain ⟨d, hd, hs, hf⟩ := elementwise2_some (fun _ => packWords w.bits sg sat) f ha
  refine ⟨d, dataFiring_some _ _ _ _ _ _ h hd, fun m j hm hj => ?_, ?_⟩
  · rw [hs m hm]
    exact lane_packWords w sg sat _ _ hj
  · simp only [hf, packWords_flags]
    exact orFlags_flagIf fSAT _ _

/-- Settles O19: each lane of the result is a lane of A or of B narrowed. -/
theorem pack : Obligations.Pack := by
  intro s f r w sg h ha _ n lo hi
  have hn : 0 < n := by cases w <;> decide
  have hlo : laneMin (w.bits / 2) sg = lo := by simp [laneMin, lo, n]
  have hhi : laneMax (w.bits / 2) sg = hi := by simp [laneMax, hi, n]
  refine ⟨?cut, ?clamp⟩
  case cut =>
    obtain ⟨⟨d, fl⟩, hd, hlanes, hfl⟩ := packFiring_completes w sg false h ha
    obtain rfl : fl = 0 := by simpa [flagIf] using hfl
    exact ⟨d, hd, hlanes⟩
  case clamp =>
    obtain ⟨d, hd, hlanes, hfl⟩ := packFiring_completes w sg true h ha
    have hread : ∀ x, laneInt n sg (packNarrow n sg true x).1 = max lo (min hi (laneInt w.bits sg x)) := fun x => by
      rw [packNarrow, if_pos rfl, laneInt_clampLane hn, hlo, hhi, two_mul_half]
    refine ⟨d, hd, fun m j hm hj => ?_, fun ⟨m, j, hm, hj, hout⟩ => ?_⟩
    · obtain ⟨hA, hB⟩ := hlanes m j hm hj
      exact ⟨by rw [hA, hread], by rw [hB, hread]⟩
    · have hA : lane w.bits (f.tokA.sub m) j ∈ packLanes w (f.tokA.sub m) (f.tokB.sub m) :=
        List.mem_append_left _ (List.mem_map_of_mem (List.mem_range.2 hj))
      have hB : lane w.bits (f.tokB.sub m) j ∈ packLanes w (f.tokA.sub m) (f.tokB.sub m) :=
        List.mem_append_right _ (List.mem_map_of_mem (List.mem_range.2 hj))
      rw [hfl, flagIf, if_pos]
      simp only [clampLane_clamped, hlo, hhi, upTo, List.any_eq_true, List.mem_range, Bool.true_and, decide_eq_true_eq]
      rcases hout with hout | hout | hout | hout
      · exact ⟨m, hm, _, hA, .inl hout⟩
      · exact ⟨m, hm, _, hA, .inr hout⟩
      · exact ⟨m, hm, _, hB, .inl hout⟩
      · exact ⟨m, hm, _, hB, .inr hout⟩

/-! ## Shapes that do not agree, bubbles and deferred firings (R68, R69, R286) -/

section Shapes
variable {s : State} {f : Firing} {r : Route}

theorem elementwise3_none (op : Nat → Word → Word → Word → Word × FpFlags) (h : ¬f.Agree3) :
    elementwise3 op f.tokA f.tokB f.tokQ = none := by
  simp only [Firing.Agree3, not_or, Bool.not_eq_true, not_and, Bool.not_eq_false] at h
  obtain ⟨hA, hBQ⟩ := h
  rw [elementwise3, if_neg (by simp [hA]), if_pos]
  cases hB : f.tokB.isBeat
  · simp [hBQ hB]
  · rfl

/-- An elementwise instruction of two operands whose shapes do not agree freezes its tile. -/
theorem elementwise2_freezes {i : Instr} {fmt : Fmt} {op : State → Firing → Nat → Word → Word → Word × FpFlags}
    (hi : exec i s = dataFiring r fmt (fun s x => elementwise2 (op s x) x.tokA x.tokB) s) (h : s.Fires f r.ta) (ha : ¬f.Agree) :
    exec i s = .next (s.taken.freezeFiring f r.ta codeFMTMIS) :=
  hi.trans (dataFiring_none r fmt _ s f h (elementwise2_none _ ha))

theorem elementwise3_freezes {i : Instr} {fmt : Fmt} {op : State → Firing → Nat → Word → Word → Word → Word × FpFlags}
    (hi : exec i s = dataFiring r fmt (fun s x => elementwise3 (op s x) x.tokA x.tokB x.tokQ) s) (h : s.Fires f r.ta)
    (ha : ¬f.Agree3) : exec i s = .next (s.taken.freezeFiring f r.ta codeFMTMIS) :=
  hi.trans (dataFiring_none r fmt _ s f h (elementwise3_none _ ha))

/-- R69: a deferred firing of a value sends the first deferred operand's data. -/
theorem valueFiring_deferred (fmt : Fmt) (compute : State → Firing → Option Out) (hf : s.firing = some f)
    (hd : f.deferred = true) : ∃ t : Token, valueFiring r fmt compute s = .next (s.taken.emitOut f r ⟨[t], [t], 0⟩) ∧
      t.deferred = true ∧ t.w64 = f.deferredData.extractLsb' 0 64 ∧ t.slot = f.key r.ta ∧ t.pred = f.pred r.ta ∧ t.fmt = fmt ∧
      t.die = dieOf f.site.core := by
  refine ⟨({ f.resultTag r.ta fmt with data := f.deferredData, deferred := true } : Token).fit, ?_, ?_⟩
  · rw [valueFiring, withFiring_some _ _ _ hf, fireCases, if_pos hd]
    rfl
  · simp only [fit_deferred, fit_w64, fit_slot, fit_pred, fit_fmt, fit_die]
    exact ⟨trivial, rfl, rfl, rfl, rfl, rfl⟩

/-- R68: a bubble of a value computes nothing. -/
theorem valueFiring_bubble (fmt : Fmt) (compute : State → Firing → Option Out) (hf : s.firing = some f)
    (hd : f.deferred = false) (hp : f.pred r.ta = false) :
    ∃ t : Token, valueFiring r fmt compute s = .next (s.taken.emitOut f r ⟨[t], [t], 0⟩) ∧ t.data = 0 ∧ t.deferred = false ∧
      t.pred = false ∧ t.slot = f.key r.ta ∧ t.fmt = fmt ∧ t.die = dieOf f.site.core := by
  refine ⟨{ f.resultTag r.ta fmt with pred := false }, ?_, rfl, hd, rfl, rfl, rfl, rfl⟩
  rw [valueFiring, withFiring_some _ _ _ hf, fireCases, if_neg (by simp [hd]), if_pos (by simp [hp])]
  rfl

end Shapes

/-- Settles O16: by the shared form of the elementwise instructions. -/
theorem shapesAndBubbles : Obligations.ShapesAndBubbles := by
  refine ⟨fun s f r w l q c e k sg sat i h => ⟨fun ha hi => ?_, fun ha hi => ?_⟩, fun s f r w l q c i hf hi => ?_⟩
  · simp only [List.mem_cons, List.not_mem_nil, or_false] at hi
    rcases hi with rfl | rfl | rfl | rfl | rfl | rfl | rfl | rfl | rfl | rfl | rfl | rfl | rfl | rfl | rfl | rfl | rfl | rfl |
      rfl | rfl | rfl | rfl | rfl | rfl | rfl | rfl <;> exact elementwise2_freezes rfl h ha
  · simp only [List.mem_cons, List.not_mem_nil, or_false] at hi
    rcases hi with rfl | rfl | rfl <;> exact elementwise3_freezes rfl h ha
  · obtain ⟨compute, hc⟩ : ∃ compute, exec i s = valueFiring r .int compute s := by
      simp only [List.mem_cons, List.not_mem_nil, or_false] at hi
      rcases hi with rfl | rfl | rfl | rfl | rfl | rfl | rfl | rfl | rfl | rfl | rfl | rfl | rfl | rfl | rfl | rfl | rfl | rfl |
        rfl | rfl <;> exact ⟨_, rfl⟩
    rw [hc]
    exact ⟨valueFiring_deferred .int compute hf, valueFiring_bubble .int compute hf⟩

end Sys2Proof.Machine

/-! PROOFS. Keys and buckets (R300, R301, R333, R334), folds (R231), and the float functions (R319, R321 to R323). -/

namespace Sys2Proof.Machine

/-! ## Merging and inserting keys (R333, R334) -/

/-- With an output for each key, merging is the library's merge. -/
theorem mergeKeys_eq_merge (before : Word → Word → Bool) (n : Nat) (a b : List Word) (h : a.length + b.length = n) :
    mergeKeys before n a b = List.merge a b before := by
  induction n generalizing a b with
  | zero =>
    obtain rfl : a = [] := List.length_eq_zero_iff.1 (by omega)
    obtain rfl : b = [] := List.length_eq_zero_iff.1 (by omega)
    rw [mergeKeys, List.nil_merge]
  | succ n ih =>
    cases a with
    | nil =>
      cases b with
      | nil => cases h
      | cons y ys => rw [mergeKeys, ih [] ys (by simpa using h), List.nil_merge, List.nil_merge]
    | cons x xs =>
      cases b with
      | nil => rw [mergeKeys, ih xs [] (by simpa using h), List.merge_right, List.merge_right]
      | cons y ys =>
        simp only [List.length_cons] at h
        rw [mergeKeys, List.cons_merge_cons, ih xs (y :: ys) (by simp only [List.length_cons]; omega),
          ih (x :: xs) ys (by simp only [List.length_cons]; omega)]

/-- A key put before the first element that it precedes. -/
def insertKey (precedes : Word → Bool) (c : Word) (l : List Word) : List Word :=
  l.take ((l.findIdx? precedes).getD l.length) ++ [c] ++ l.drop ((l.findIdx? precedes).getD l.length)

section Insert
variable (precedes : Word → Bool) (c : Word)

theorem insertKey_cons (x : Word) (l : List Word) :
    insertKey precedes c (x :: l) = if precedes x then c :: x :: l else x :: insertKey precedes c l := by
  unfold insertKey
  rw [List.findIdx?_cons]
  split
  · rfl
  · cases l.findIdx? precedes <;> simp

theorem insertKey_perm (l : List Word) : (insertKey precedes c l).Perm (l ++ [c]) := by
  unfold insertKey
  generalize (l.findIdx? precedes).getD l.length = p
  rw [List.append_assoc, List.singleton_append]
  refine List.perm_middle.trans ?_
  rw [List.take_append_drop]
  exact (List.perm_append_singleton c l).symm

/-- An ordered list stays ordered. -/
theorem insertKey_pairwise {r : Word → Word → Prop} (htrans : ∀ {x y z}, r x y → r y z → r x z)
    (hbefore : ∀ x, precedes x = true → r c x) (hafter : ∀ x, precedes x = false → r x c) {l : List Word} (hl : l.Pairwise r) :
    (insertKey precedes c l).Pairwise r := by
  induction l with
  | nil => exact List.pairwise_singleton r c
  | cons x l ih =>
    obtain ⟨hx, hl'⟩ := List.pairwise_cons.1 hl
    rw [insertKey_cons]
    split
    · next hp =>
      refine List.pairwise_cons.2 ⟨fun y hy => ?_, hl⟩
      rcases List.mem_cons.1 hy with rfl | hy
      · exact hbefore _ hp
      · exact htrans (hbefore _ hp) (hx y hy)
    · next hp =>
      refine List.pairwise_cons.2 ⟨fun y hy => ?_, ih hl'⟩
      rcases List.mem_append.1 ((insertKey_perm precedes c l).mem_iff.1 hy) with hy | hy
      · exact hx y hy
      · obtain rfl := List.mem_singleton.1 hy
        exact hafter _ (by simpa using hp)

end Insert

/-! ## KMERGE, KSEL and BKT -/

/-- The order of keys that DESC selects (R333). -/
def keyBefore (key32 desc sg : Bool) (x y : Word) : Bool :=
  if desc then keyInt key32 sg x ≥ keyInt key32 sg y else keyInt key32 sg x ≤ keyInt key32 sg y

/-- A key that is to come before another strictly (R334). -/
def keyPrecedes (key32 desc sg : Bool) (x y : Word) : Bool :=
  if desc then keyInt key32 sg x > keyInt key32 sg y else keyInt key32 sg x < keyInt key32 sg y

section Order
variable {key32 desc sg : Bool} {x y z : Word}

theorem keyBefore_eq : (fun x y : Word => if desc then keyInt key32 sg x ≥ keyInt key32 sg y
    else keyInt key32 sg x ≤ keyInt key32 sg y) = fun x y => keyBefore key32 desc sg x y = true := by
  funext x y
  cases desc <;> simp [keyBefore]

theorem keyBefore_trans (h : keyBefore key32 desc sg x y = true) (g : keyBefore key32 desc sg y z = true) :
    keyBefore key32 desc sg x z = true := by
  cases desc <;> simp only [keyBefore, if_true, if_false, Bool.false_eq_true, decide_eq_true_eq] at * <;> omega

theorem keyBefore_total : (keyBefore key32 desc sg x y || keyBefore key32 desc sg y x) = true := by
  cases desc <;> simp only [keyBefore, if_true, if_false, Bool.false_eq_true, Bool.or_eq_true, decide_eq_true_eq] <;> omega

theorem keyBefore_of_keyPrecedes (h : keyPrecedes key32 desc sg x y = true) : keyBefore key32 desc sg x y = true := by
  cases desc <;> simp only [keyBefore, keyPrecedes, if_true, if_false, Bool.false_eq_true, decide_eq_true_eq] at * <;> omega

theorem keyBefore_of_not_keyPrecedes (h : keyPrecedes key32 desc sg x y = false) : keyBefore key32 desc sg y x = true := by
  cases desc <;> simp only [keyBefore, keyPrecedes, if_true, if_false, Bool.false_eq_true, decide_eq_true_eq,
    decide_eq_false_iff_not] at * <;> omega

end Order

theorem words_length {t : Token} (h : t.isBeat = true) : t.words.length = 4 := by simp [Token.words, h, upTo]

/-- Sub-words of a beat of the first keys of a list. -/
theorem getElem?_beatOfWords {m : List Word} {j : Nat} (hj : j < m.length) (hm : m.length ≤ 4) :
    m[j]? = some (subWord (beatOfWords m) j) := by
  rw [subWord_beatOfWords m j hj hm, List.getElem?_eq_getElem hj]

section Firings
variable {s : State} {f : Firing} (key32 desc sg : Bool)

/-- A completion that raises no flag. -/
theorem completes_noFlags (r : Route) (x y : List Token) : s.completes f r ⟨x, y, 0⟩ = s.taken.emitOut f r ⟨x, y, 0⟩ := rfl

/-- The eight keys of KMERGE in order (R333). -/
def kmergeKeys (f : Firing) : List Word := List.merge f.tokA.words f.tokB.words (keyBefore key32 desc sg)

/-- The five keys of KSEL in order (R334). -/
def kselKeys (f : Firing) : List Word := insertKey (keyPrecedes key32 desc sg f.tokB.w64) f.tokB.w64 f.tokA.words

theorem kmergeOut_beats (r : Route) (hA : f.tokA.isBeat = true) (hB : f.tokB.isBeat = true) :
    kmergeOut r key32 desc sg f = some ⟨[{ f.resultTag r.ta .int with data := beatOfWords ((kmergeKeys key32 desc sg f).take 4) }],
      [{ f.resultTag r.ta .int with data := beatOfWords ((kmergeKeys key32 desc sg f).drop 4) }], 0⟩ := by
  have hm : mergeKeys (keyBefore key32 desc sg) 8 f.tokA.words f.tokB.words = kmergeKeys key32 desc sg f :=
    mergeKeys_eq_merge _ 8 _ _ (by rw [words_length hA, words_length hB])
  rw [← hm, kmergeOut, hA, hB]
  rfl

theorem kselOut_beat (r : Route) (hA : f.tokA.isBeat = true) (hB : f.tokB.isWide = false) :
    kselOut r key32 desc sg f = some ⟨[{ f.resultTag r.ta .int with data := beatOfWords ((kselKeys key32 desc sg f).take 4) }],
      [{ f.resultTag r.ta .int with data := beatOf ((kselKeys key32 desc sg f).getD 4 0), burst := .none }], 0⟩ := by
  rw [kselKeys, insertKey, words_length hA, kselOut, hA, hB]
  rfl

theorem kmergeKeys_perm (f : Firing) : (kmergeKeys key32 desc sg f).Perm (f.tokA.words ++ f.tokB.words) :=
  List.merge_perm_append _

/-- Two ordered lists of keys merge into an ordered one. -/
theorem kmergeKeys_pairwise (hA : f.tokA.words.Pairwise (fun x y => keyBefore key32 desc sg x y = true))
    (hB : f.tokB.words.Pairwise (fun x y => keyBefore key32 desc sg x y = true)) :
    (kmergeKeys key32 desc sg f).Pairwise (fun x y => keyBefore key32 desc sg x y = true) :=
  List.pairwise_merge (le := keyBefore key32 desc sg) (fun _ _ _ h g => keyBefore_trans h g) (fun x y => keyBefore_total (x := x) (y := y))
    f.tokA.words f.tokB.words hA hB

theorem kselKeys_perm (f : Firing) : (kselKeys key32 desc sg f).Perm (f.tokA.words ++ [f.tokB.w64]) := insertKey_perm _ _ _

/-- An ordered list of keys stays ordered. -/
theorem kselKeys_pairwise (hA : f.tokA.words.Pairwise (fun x y => keyBefore key32 desc sg x y = true)) :
    (kselKeys key32 desc sg f).Pairwise (fun x y => keyBefore key32 desc sg x y = true) :=
  insertKey_pairwise (r := fun x y => keyBefore key32 desc sg x y = true) _ _ (fun h g => keyBefore_trans h g)
    (fun _ h => keyBefore_of_keyPrecedes h) (fun _ h => keyBefore_of_not_keyPrecedes h) hA

/-- BKT counts the splitters below the key (R301). -/
theorem bktResult_bucketOf (mode : BktMode) (n : Nat) (l : List Word) (key : Word) :
    bktResult mode (bucketOf sg n l key) =
      (let k := (l.take n).countP (fun x => decide (laneInt 64 sg x.toNat < laneInt 64 sg key.toNat))
       BitVec.ofNat 64 (match mode with | .index => k | .onehot16 => 2 ^ (16 * k) | .onehot8 => 2 ^ (8 * k))) := by
  rw [bucketOf, ← List.countP_eq_length_filter]
  cases mode <;> rfl

end Firings

/-- The key of KSEL that stands alone. -/
theorem w64_beatOf (t : Token) (w : Word) (b : Burst) : ({ t with data := beatOf w, burst := b } : Token).w64 = w := by
  have hsub := subWord_beatOf w
  rwa [subWord, Nat.mul_zero] at hsub

/-- Settles O20: KMERGE as the library's merge, KSEL as an insertion, BKT as a count. -/
theorem keys : Obligations.Keys := by
  refine ⟨fun s f r key32 desc sg h => ?_, fun s f r key32 desc sg h => ?_, fun s f r mode sg ns h => ?_⟩
  · intro ord
    have hord : ord = fun x y => keyBefore key32 desc sg x y = true := keyBefore_eq
    refine ⟨fun hA hB => ?_, fun hAB => ?_⟩
    · have hperm : (kmergeKeys key32 desc sg f).Perm (f.tokA.words ++ f.tokB.words) := kmergeKeys_perm key32 desc sg f
      have hlen : (kmergeKeys key32 desc sg f).length = 8 := by
        rw [hperm.length_eq, List.length_append, words_length hA, words_length hB]
      refine ⟨kmergeKeys key32 desc sg f, _, _, valueFiring_some .int _ h (kmergeOut_beats key32 desc sg r hA hB), hperm,
        fun j hj => ⟨?_, ?_⟩, ?_, rfl, rfl, rfl, rfl⟩
      · rw [← getElem?_beatOfWords (by simp [hlen, hj]) (by simp), List.getElem?_take_of_lt hj]
      · rw [← getElem?_beatOfWords (by simp [hlen]; omega) (by simp [hlen]), List.getElem?_drop]
      · rw [hord]
        exact kmergeKeys_pairwise key32 desc sg
    · exact valueFiring_none .int _ h (by rcases hAB with h0 | h0 <;> simp [kmergeOut, h0])
  · intro ord
    have hord : ord = fun x y => keyBefore key32 desc sg x y = true := keyBefore_eq
    refine ⟨fun hA hB => ?_, fun hAB => ?_⟩
    · have hperm : (kselKeys key32 desc sg f).Perm (f.tokA.words ++ [f.tokB.w64]) := kselKeys_perm key32 desc sg f
      have hlen : (kselKeys key32 desc sg f).length = 5 := by
        rw [hperm.length_eq, List.length_append, words_length hA, List.length_singleton]
      refine ⟨kselKeys key32 desc sg f, _, _, valueFiring_some .int _ h (kselOut_beat key32 desc sg r hA hB), hperm, hlen,
        fun j hj => ?_, ?_, rfl, ?_⟩
      · rw [← getElem?_beatOfWords (by simp [hlen, hj]) (by simp), List.getElem?_take_of_lt hj]
      · rw [w64_beatOf, List.getD_eq_getElem _ _ (by omega), List.getElem?_eq_getElem (by omega)]
      · rw [hord]
        exact kselKeys_pairwise key32 desc sg
    · exact valueFiring_none .int _ h (by rcases hAB with h0 | h0 <;> simp [kselOut, h0])
  · refine ⟨fun hA => (dataFiring_some (r.full .stickb) .int _ s f _ h (by rw [hA]; rfl)).trans ?_,
      fun hA => dataFiring_none (r.full .stickb) .int _ s f h (by rw [hA]; rfl)⟩
    rw [bktResult_bucketOf] <;> rfl

/-! ## Folds (R231) -/

/-- The largest F32 magnitudes stand below the sign bit. -/
theorem fmtF32_bounds : fmtF32.maxBits < 2 ^ 31 ∧ fmtF32.infBits < 2 ^ 31 ∧ fmtF32.nanBits < 2 ^ 31 ∧ ∀ n, fmtF32.signBit n ≤ 2 ^ 31 := by
  refine ⟨by decide, by decide, by decide, fun n => ?_⟩
  cases n <;> decide

theorem overflowBits_lt (c : RoundCtl) (neg : Bool) : overflowBits fmtF32 c neg < 2 ^ 32 := by
  obtain ⟨hmax, hinf, -, hsign⟩ := fmtF32_bounds
  have hs := hsign neg
  have hcases : ∀ toInf : Bool, (if c.sat then fmtF32.signBit neg + fmtF32.maxBits else
      if toInf then fmtF32.signBit neg + fmtF32.infBits else fmtF32.signBit neg + fmtF32.maxBits) < 2 ^ 32 := fun toInf => by
    split
    · omega
    · split <;> omega
  exact hcases _

theorem roundMag_lt (c : RoundCtl) (neg : Bool) (m : Nat) (e : Int) : (roundMag fmtF32 c neg m e).1 < 2 ^ 32 := by
  obtain ⟨hmax, -, -, hsign⟩ := fmtF32_bounds
  have hs := hsign neg
  have hover := overflowBits_lt c neg
  have hbits : ∀ (bits : Nat) (x y : FpFlags),
      (if bits > fmtF32.maxBits then (overflowBits fmtF32 c neg, x) else (fmtF32.signBit neg + bits, y)).1 < 2 ^ 32 :=
    fun bits x y => by
      split
      · exact hover
      · dsimp only; omega
  exact hbits _ _ _

theorem roundDy_lt (c : RoundCtl) (z : Bool) (x : Dy) : (roundDy fmtF32 c z x).1 < 2 ^ 32 := by
  obtain ⟨-, -, -, hsign⟩ := fmtF32_bounds
  have hz := hsign z
  unfold roundDy
  split
  · dsimp only; omega
  · exact roundMag_lt _ _ _ _

theorem fvAdd_lt (c : RoundCtl) (x y : FVal) : (fvAdd fmtF32 c x y).1 < 2 ^ 32 := by
  obtain ⟨hmax, hinf, hnan, hsign⟩ := fmtF32_bounds
  have hnanRes : ∀ b, (nanRes fmtF32 b).1 < 2 ^ 32 := fun b => by unfold nanRes; omega
  have hinfRes : ∀ n, (infRes fmtF32 c n).1 < 2 ^ 32 := fun n => by
    have := hsign n
    have hofp : fmtF32.ofp = false := rfl
    unfold infRes
    rw [hofp]
    split
    · dsimp only; omega
    · simp only [Bool.false_eq_true, if_false]; omega
  unfold fvAdd
  split
  · exact hnanRes _
  · split
    · split
      · exact hinfRes _
      · exact hnanRes _
    · exact hinfRes _
    · exact hinfRes _
    · split
      · have := hsign (zeroSumNeg c x.neg y.neg)
        dsimp only
        omega
      · exact roundDy_lt _ _ _

/-- The minimum and the maximum are one of the operands, or the canonical NaN (R317). -/
theorem fMinMax_lt (wantMax : Bool) {a b : Nat} (ha : a < 2 ^ 32) (hb : b < 2 ^ 32) : (fMinMax fmtF32 wantMax a b).1 < 2 ^ 32 := by
  obtain ⟨-, -, hnan, -⟩ := fmtF32_bounds
  unfold fMinMax
  dsimp only
  split
  · omega
  · split
    · exact hb
    · split
      · exact ha
      · split <;> (dsimp only; split <;> assumption)

/-- Settles O8: every F32 result is below 2^32. -/
theorem foldOps : Obligations.FoldOps := by
  intro a b x y
  have hx : x = a.toNat % 2 ^ 32 := by simp [x, bitsOf]
  have hy : y = b.toNat % 2 ^ 32 := by simp [y, bitsOf]
  have hxlt : x < 2 ^ 32 := by omega
  have hylt : y < 2 ^ 32 := by omega
  have hword : ∀ p : Nat × FpFlags, p.1 < 2 ^ 32 → (BitVec.ofNat 64 p.1).toNat = p.1 := fun p hp => by
    rw [BitVec.toNat_ofNat]
    exact Nat.mod_eq_of_lt (by omega)
  have hadd := fvAdd_lt ⟨.rn, false, 0⟩ (fmtF32.value x) (fmtF32.value y)
  have hmin := fMinMax_lt false hxlt hylt
  have hmax := fMinMax_lt true hxlt hylt
  have eadd : (foldOp .fadd a b).1.toNat = (fvAdd fmtF32 ⟨.rn, false, 0⟩ (fmtF32.value x) (fmtF32.value y)).1 := by
    rw [← hword _ hadd, hx, hy]; rfl
  have emin : (foldOp .fmin a b).1.toNat = (fMinMax fmtF32 false x y).1 := by rw [← hword _ hmin, hx, hy]; rfl
  have emax : (foldOp .fmax a b).1.toNat = (fMinMax fmtF32 true x y).1 := by rw [← hword _ hmax, hx, hy]; rfl
  refine ⟨BitVec.toNat_add a b, eadd, emin, emax, fun op hop => ?_⟩
  cases op with
  | iadd => exact absurd rfl hop
  | fadd => rw [eadd]; exact hadd
  | fmin => rw [emin]; exact hmin
  | fmax => rw [emax]; exact hmax

/-! ## Float functions (R319, R321 to R323) -/

/-- The exponents of FSCALE are B's lanes of the element's width. -/
theorem scaleExps_eq (e : FElem) (b : Word) : scaleExps e b =
    (List.range (felemFmt e).count).map (fun j => laneInt (felemBits e) true (lane (felemBits e) b j)) := by
  cases e with
  | f32 => simp [scaleExps, felemFmt, Fmt.count, felemBits, lane, bitsOf]
  | bf16 =>
    have hsplit := splitLanes_eq 16 (by decide) b
    simp [scaleExps, hsplit, felemFmt, Fmt.count, felemBits]

/-- FSCALE completes elementwise (R321). -/
theorem exec_fscale_elems (r : Route) (e : FElem) (c : FloatCtl) {s : State} {f : Firing} (h : s.Fires f r.ta) (ha : f.Agree) :
    s.Elems f r (.fscale r e c) e (fun m j => fScaleBy (.ofTag (felemFmt e))
      (roundCtl c (s.stochCtx f r) ((felemFmt e).count * m + j)) (elem (felemFmt e) (f.tokA.sub m) j)
      (laneInt (felemBits e) true (lane (felemBits e) (f.tokB.sub m) j))) := by
  obtain ⟨d, hd, hs, hf⟩ := elementwise2_some (fun m a b => elemResult (felemFmt e)
    ((List.zip (wordElems (felemFmt e) 64 a) (scaleExps e b)).mapIdx (fun j p => fScaleBy (.ofTag (felemFmt e))
      (roundCtl c (s.stochCtx f r) ((felemFmt e).count * m + j)) p.1 p.2))) f ha
  refine elems_of_words s f r _ e _ d (dataFiring_some _ _ _ _ _ _ h hd) _ (fun m => ?_) hs hf
  congr 1
  refine List.ext_getElem (by simp [wordElems_felem, scaleExps_eq]) fun k h1 h2 => ?_
  simp [wordElems_felem, scaleExps_eq]

/-- A mask lane of a word of FCMP. -/
theorem lane_fcmpWords (e : FElem) (k : Cond) (a b : Word) {j : Nat} (hj : j < (felemFmt e).count) :
    lane (maskLane (felemFmt e)) (fcmpWords e k a b).1 j =
      if (fCompare (.ofTag (felemFmt e)) k (elem (felemFmt e) a j) (elem (felemFmt e) b j)).1 then 2 ^ maskLane (felemFmt e) - 1 else 0 := by
  have hfit : maskLane (felemFmt e) * (felemFmt e).count ≤ 64 := by cases e <;> decide
  have hones := Nat.two_pow_pos (maskLane (felemFmt e))
  rw [fcmpWords, lane_joinLanes _ _ j (by simpa [wordElems_felem] using hj) (by simpa [wordElems_felem] using hfit)]
  simp only [wordElems_felem, List.getElem_map, List.getElem_zip, List.getElem_range]
  split
  · exact Nat.mod_eq_of_lt (Nat.sub_lt hones Nat.one_pos)
  · exact Nat.zero_mod _

/-- The class of a value is one of ten (R323). -/
theorem fClass_lt (g : FloatFmt) (x : Nat) : fClass g x < 16 := by
  unfold fClass
  split
  · split <;> decide
  · split <;> decide
  · split
    · split <;> decide
    · split
      · split <;> decide
      · split <;> decide

/-- The elements of a word of FCLASS are its parts in order. -/
theorem wordElems_fclass (x : FClassElem) (a : Word) :
    wordElems (fclassFmt x) 64 a = (List.range (fclassFmt x).count).map (elem (fclassFmt x) a) := by
  cases x with
  | f32 => exact wordElems_felem .f32 a
  | bf16 => exact wordElems_felem .bf16 a
  | a36 => simp [wordElems, fclassFmt, Fmt.count, elem, bitsOf]

/-- A class lane of a word of FCLASS. -/
theorem lane_fclassWords (x : FClassElem) (a : Word) {j : Nat} (hj : j < (fclassFmt x).count) :
    lane (maskLane (fclassFmt x)) (fclassWords x a).1 j = 2 ^ fClass (.ofTag (fclassFmt x)) (elem (fclassFmt x) a j) := by
  have hfit : maskLane (fclassFmt x) * (fclassFmt x).count ≤ 64 := by cases x <;> decide
  have hwide : 16 ≤ maskLane (fclassFmt x) := by cases x <;> decide
  rw [fclassWords, lane_joinLanes _ _ j (by simpa [wordElems_fclass] using hj) (by simpa [wordElems_fclass] using hfit)]
  simp only [wordElems_fclass, List.getElem_map, List.getElem_range]
  exact Nat.mod_eq_of_lt (Nat.pow_lt_pow_right (by decide) (Nat.lt_of_lt_of_le (fClass_lt _ _) hwide))

/-- Settles O23: the eight functions share one form; FSCALE, FCMP and FCLASS have their own. -/
theorem floatFunctions : Obligations.FloatFunctions := by
  refine ⟨fun s f r e c h => ?_, fun s f r r1 e x c k => ⟨fun h ha => ⟨exec_fscale_elems r e c h ha, ?_⟩, fun h => ?_⟩⟩
  · exact ⟨floatFiring1_elems r e c _ s f (.frcp r e c) (show exec (.frcp r e c) s = execFrcp r e c s from rfl) h,
      floatFiring1_elems r e c _ s f (.frsq r e c) (show exec (.frsq r e c) s = execFrsq r e c s from rfl) h,
      floatFiring1_elems r e c _ s f (.fsqrt r e c) (show exec (.fsqrt r e c) s = execFsqrt r e c s from rfl) h,
      floatFiring1_elems r e c _ s f (.fexp2 r e c) (show exec (.fexp2 r e c) s = execFexp2 r e c s from rfl) h,
      floatFiring1_elems r e c _ s f (.flog2 r e c) (show exec (.flog2 r e c) s = execFlog2 r e c s from rfl) h,
      floatFiring1_elems r e c _ s f (.fsin r e c) (show exec (.fsin r e c) s = execFsin r e c s from rfl) h,
      floatFiring1_elems r e c _ s f (.fcos r e c) (show exec (.fcos r e c) s = execFcos r e c s from rfl) h,
      floatFiring1_elems r e c _ s f (.ftanh r e c) (show exec (.ftanh r e c) s = execFtanh r e c s from rfl) h⟩
  · obtain ⟨d, hd, hs, -⟩ := elementwise2_some (fun _ => fcmpWords e k) f ha
    exact ⟨d, dataFiring_some _ _ _ _ _ _ h hd, fun m j hm hj => by rw [hs m hm]; exact lane_fcmpWords e k _ _ hj⟩
  · refine ⟨_, dataFiring_some r1.full _ _ s f _ h rfl, fun m j hm hj => ?_⟩
    rw [elementwise1_sub _ f m hm]
    exact lane_fclassWords x _ hj

end Sys2Proof.Machine

/-! PROOFS. Accesses that do not begin (R135, R149, R315): the wrong shape, a check that fails, a translation that is not at
hand. -/

namespace Sys2Proof.Machine

/-! ## A check that fails (R135) -/

/-- The state in which the deferred tokens of a fault leave, at a check of a write or of a read. -/
def State.faultedAt (s : State) (i : Instr) (f : Firing) (r : Route) (id code va : Nat) (write : Bool) : State :=
  (s.takeAccessFault f (f.key r.ta) code (BitVec.ofNat 64 va) (faultInfo i code write)).updExec f.site.core (f.key r.ta)
    (fun e => { e with bad := e.bad ++ [id] })

section FaultedAt
variable (s : State) (i : Instr) (f : Firing) (r : Route) (id code va : Nat) (write : Bool)

theorem State.accessFaultAt_eq : s.accessFaultAt i f r id code va write =
    (s.faultedAt i f r id code va write).emitOut f r ⟨[faultValue i f r id code], [faultDone f r id code], 0⟩ := rfl

/-- The execution of an access that fails a check lists the fault with its address, and keeps its store buffer and its
actions. -/
theorem State.exec?_faultedAt {e : Exec} (he : s.exec? f.site.core (f.key r.ta) = some e) :
    ∃ (e' : Exec) (z : FaultSeen), (s.faultedAt i f r id code va write).exec? f.site.core (f.key r.ta) = some e' ∧
      e'.faults = e.faults ++ [z] ∧ z.code = code ∧ z.addr = BitVec.ofNat 64 va ∧ e'.buffered = e.buffered ∧ e'.acts = e.acts := by
  rw [State.faultedAt, State.exec?_updExec, if_pos ⟨rfl, rfl⟩, State.takeAccessFault, State.exec?, State.thread_sendFault,
    ← State.exec?, State.exec?_updExec, if_pos ⟨rfl, rfl⟩, he]
  exact ⟨_, _, rfl, rfl, rfl, rfl, rfl, rfl⟩

theorem State.mem_faultedAt : (s.faultedAt i f r id code va write).mem = s.mem := rfl

theorem State.regs_faultedAt (c k : Nat) :
    ((s.faultedAt i f r id code va write).thread c k).regs = (s.thread c k).regs := by
  rw [State.faultedAt, State.regs_updExec, State.takeAccessFault, State.thread_sendFault, State.regs_updExec]

end FaultedAt

/-- A check that fails is the fault of every access but a prefetch. -/
theorem State.accessFails_eq (s : State) {i : Instr} (f : Firing) (r : Route) (id code va : Nat) (hi : isAccess i = true) :
    s.accessFails i f r id code va = s.accessFaultAt i f r id code va (checkedWrite i ((memRanges i f).getD []) va) := by
  unfold State.accessFails
  split
  · cases hi
  · rfl

/-! ## A translation that is not at hand (R149) -/

/-- A walk is under way for the page, and the access waits for it. -/
theorem State.startWalk_walk (s : State) (pd aspace va : Nat) (waiter : Nat × Nat) :
    ∃ w ∈ (s.startWalk pd aspace va waiter).mmu.walks, w.pd = pd ∧ w.aspace = aspace ∧ w.page = bitsOf va 56 16 ∧
      waiter ∈ w.waiters := by
  unfold State.startWalk
  dsimp only
  split
  · next w hw =>
    have hmem := List.mem_of_find?_eq_some hw
    have hkey := List.find?_some hw
    simp only [Bool.and_eq_true, decide_eq_true_eq] at hkey
    obtain ⟨⟨hpd, hasp⟩, hpage⟩ := hkey
    refine ⟨{ w with waiters := w.waiters ++ [waiter] }, List.mem_map.2 ⟨w, hmem, if_pos rfl⟩, hpd, hasp, hpage, ?_⟩
    exact List.mem_append_right _ (List.mem_singleton_self _)
  · exact ⟨_, List.mem_append_right _ (List.mem_singleton_self _), rfl, rfl, rfl, List.mem_singleton_self _⟩

theorem State.mem_startWalk (s : State) (pd aspace va : Nat) (waiter : Nat × Nat) : (s.startWalk pd aspace va waiter).mem = s.mem := by
  unfold State.startWalk
  dsimp only
  split <;> rfl

/-- The address space of a thread is that of its handler slot or of its grid. -/
theorem State.aspaceOf_congr {s t : State} {c k : Nat} (hslots : (t.core c).hslots = (s.core c).hslots)
    (hteam : (t.thread c k).team = (s.thread c k).team) (hregs : t.regs = s.regs) (hteams : t.teams = s.teams)
    (hgrids : t.grids = s.grids) : t.aspaceOf c k = s.aspaceOf c k := by
  simp only [State.aspaceOf, State.servedTrap, State.gridOfTeam, State.team?, State.grid?, State.regBits, State.regN, State.reg,
    hslots, hteam, hregs, hteams, hgrids]

theorem State.outstanding_aspaceOf (s : State) (f : Firing) (r : Route) (id : Nat) (st : AccessStage) (due : Nat)
    (deadline : Option Tick) (bytes : List (Nat × Nat)) (c k : Nat) :
    (s.outstanding f r id st due deadline bytes).2.aspaceOf c k = s.aspaceOf c k := by
  have hthread := s.outstanding_thread f r id st due deadline bytes c k
  obtain ⟨x, tr, h⟩ := s.outstanding_eq f r id st due deadline bytes
  rw [h] at hthread ⊢
  refine State.aspaceOf_congr ?_ (by rw [hthread]) rfl rfl rfl
  rw [State.core_updCore]
  split
  · next hc => rw [hc]; rfl
  · rfl

/-- An access whose translation is not at hand waits for the walk of its page; nothing else of a tile or of memory changes. -/
theorem exec_access_walks {s : State} {f : Firing} {i : Instr} {r : Route} {l : List Range} {va : Nat} (hi : isAccess i = true)
    (hr : i.route? = some r) (h : s.Fires f r.ta) (hm : memRanges i f = some l)
    (hc : s.checkAll f.site.core (f.key r.ta) l = .miss va) :
    ∃ (t : State) (x : Access), exec i s = .next t ∧ KMap.look (t.core f.site.core).accesses s.nextId = some x ∧
      x.stage = .walk (bitsOf va 56 16) ∧ x.a = f.a ∧ x.b = f.b ∧ (∀ c u, t.tile c u = s.tile c u) ∧
      (∀ a, t.byte a = s.byte a) ∧ ∃ w ∈ t.mmu.walks, w.pd = nodeOf f.site.core ∧
        w.aspace = s.aspaceOf f.site.core (f.key r.ta) ∧ w.page = bitsOf va 56 16 ∧ (f.site.core, s.nextId) ∈ w.waiters := by
  let v := s.numbered f r i
  let deadline := ldfDeadline i (v.now f.site.core)
  let t := (v.outstanding f r (s.accessNo f r) (.walk (bitsOf va 56 16)) (v.cycle f.site.core) deadline []).2
  let u := t.startWalk (nodeOf f.site.core) (t.aspaceOf f.site.core (f.key r.ta)) va (f.site.core, v.nextId)
  have hstart : exec i s = .next u := by
    rw [exec_access i r s f hi hr h, State.startAccess, hm]
    simp only [numbered_checkAll, hc]
    rfl
  have hnext : v.nextId = s.nextId := numbered_nextId ..
  have hcore (c : Nat) : u.core c = t.core c := by rw [State.core, State.cores_startWalk, State.core]
  have hasp : t.aspaceOf f.site.core (f.key r.ta) = s.aspaceOf f.site.core (f.key r.ta) :=
    (v.outstanding_aspaceOf ..).trans (numbered_aspaceOf ..)
  obtain ⟨tr, hlook⟩ := v.outstanding_access f r (s.accessNo f r) (.walk (bitsOf va 56 16)) (v.cycle f.site.core) deadline []
  obtain ⟨w, hw, hpd, hwasp, hpage, hwait⟩ := t.startWalk_walk (nodeOf f.site.core) (t.aspaceOf f.site.core (f.key r.ta)) va
    (f.site.core, v.nextId)
  rw [hnext] at hlook hwait
  refine ⟨u, _, hstart, by rw [hcore]; exact hlook, rfl, rfl, rfl, fun c y => ?_, State.byte_congr ?_, w, hw, hpd, hwasp.trans hasp,
    hpage, hwait⟩
  · rw [State.tile, hcore, ← State.tile, State.outstanding_tile, numbered_tile]
  · exact (t.mem_startWalk ..).trans ((v.outstanding_mem ..).trans (numbered_mem ..))

/-- Settles O28: by what the start of the access finds. -/
theorem accessesThatWaitOrFault : Obligations.AccessesThatWaitOrFault := by
  intro s f i r hi hr h
  refine ⟨fun hm => ?_, fun l code va e hm hc he => ?_, fun l va hm hc => exec_access_walks hi hr h hm hc⟩
  · refine ⟨s.numbered f r i, ?_, numbered_tile s f r i, State.byte_congr (numbered_mem s f r i)⟩
    rw [exec_access i r s f hi hr h, State.startAccess, hm]
    rfl
  · have hexec : exec i s = .next ((s.numbered f r i).accessFaultAt i f r (s.accessNo f r) code va
        (checkedWrite i ((memRanges i f).getD []) va)) := by
      rw [exec_access i r s f hi hr h, State.startAccess, hm]
      simp only [numbered_checkAll, hc]
      rw [State.accessFails_eq _ _ _ _ _ _ hi, hm]
    obtain ⟨e1, he1, hbuf1, -, hfaults1, -⟩ := numbered_exec s f r i e he
    obtain ⟨e', z, he', hfaults, hcode, haddr, hbuf, -⟩ := (s.numbered f r i).exec?_faultedAt i f r (s.accessNo f r) code va
      (checkedWrite i ((memRanges i f).getD []) va) he1
    refine ⟨_, e', _, _, z, hexec.trans (congrArg _ (State.accessFaultAt_eq ..)), faultValue_deferred .., rfl, faultValue_w64 ..,
      faultDone_w64 .., he', hfaults1 ▸ hfaults, hcode, haddr, hbuf.trans hbuf1,
      State.byte_congr ((State.mem_faultedAt ..).trans (numbered_mem s f r i)), fun c k => ?_⟩
    rw [State.regs_faultedAt, numbered_threadRegs]

end Sys2Proof.Machine

/-! PROOFS. COPY (R309 to R311): a descriptor that passes its checks queues its command on the engine of least horizon. -/

namespace Sys2Proof.Machine

/-! ## What a descriptor's read leaves as it is -/

/-- Only the counter of free choices differs. -/
def FreeOnly (s t : State) : Prop := t = { s with free := t.free }

theorem FreeOnly.rfl' (s : State) : FreeOnly s s := rfl
theorem FreeOnly.trans {s t u : State} (h : FreeOnly s t) (g : FreeOnly t u) : FreeOnly s u := by
  unfold FreeOnly at h g
  rw [h] at g
  exact g

theorem freeOnly_choose (s : State) (n : Nat) : FreeOnly s (s.choose n).2 := by
  unfold State.choose
  split <;> rfl

/-- Bytes forwarded from the store buffer cost free choices alone. -/
theorem freeOnly_forwardUnit (s : State) (e : Exec) (id : Nat) (deps unit : List Nat) :
    FreeOnly s (s.forwardUnit e id deps unit).2 := by
  unfold State.forwardUnit
  dsimp only
  split
  · exact .rfl' s
  · exact (freeOnly_choose _ _).trans (freeOnly_choose _ _)

theorem freeOnly_descBytes (s : State) (c k id : Nat) (deps : List Nat) (pa : Nat) : FreeOnly s (s.descBytes c k id deps pa).2 := by
  unfold State.descBytes
  dsimp only
  split
  · exact .rfl' s
  · next e _ =>
    have key : ∀ (g : List Byte × State → Nat → List Byte × State) (l : List Nat) (acc : List Byte × State),
        (∀ acc u, FreeOnly acc.2 (g acc u).2) → FreeOnly acc.2 (l.foldl g acc).2 := fun g l => by
      induction l with
      | nil => exact fun acc _ => .rfl' acc.2
      | cons u l ih => exact fun acc hg => (hg acc u).trans (ih _ hg)
    exact key _ _ _ fun acc u => freeOnly_forwardUnit ..

/-- Only what the cores hold, the operand set consumed and the counter of free choices differ. -/
def SameDevice (s t : State) : Prop := t = { s with cores := t.cores, firing := t.firing, free := t.free }

theorem FreeOnly.sameDevice {s t u : State} (h : SameDevice s t) (g : FreeOnly t u) : SameDevice s u := by
  unfold FreeOnly at g
  unfold SameDevice at h ⊢
  rw [h] at g
  rw [g]

theorem sameDevice_numbered (s : State) (f : Firing) (r : Route) (i : Instr) : SameDevice s (s.numbered f r i) := by
  simp only [State.numbered, State.report, State.accessId]
  repeat' split
  all_goals rfl

section Same
variable {s t : State} (h : SameDevice s t)
include h

theorem SameDevice.regs : t.regs = s.regs := by rw [h]
theorem SameDevice.mmu : t.mmu = s.mmu := by rw [h]
theorem SameDevice.canonAddr : t.canonAddr = s.canonAddr := by rw [h]; rfl
theorem SameDevice.leafFault : t.leafFault = s.leafFault := by rw [h]; rfl
theorem SameDevice.outsideLoad : t.outsideLoad = s.outsideLoad := by rw [h]; rfl
theorem SameDevice.addrFailed : t.addrFailed = s.addrFailed := by rw [h]; rfl
theorem SameDevice.target : t.target = s.target := by rw [h]; rfl
theorem SameDevice.engine : t.engine = s.engine := by rw [h]; rfl
theorem SameDevice.outsidePoison : t.outsidePoison = s.outsidePoison := by rw [h]; rfl
theorem SameDevice.now : t.now = s.now := by rw [h]; rfl
theorem SameDevice.mem : t.mem = s.mem := by rw [h]

theorem SameDevice.walkFrom (pd aspace va : Nat) (l : List WalkLevel) (table : Nat) (acc : List (Nat × Word)) :
    t.walkFrom pd aspace va l table acc = s.walkFrom pd aspace va l table acc := by
  induction l generalizing table acc with
  | nil => rfl
  | cons x l ih =>
    simp only [State.walkFrom, h.canonAddr, h.mmu, h.outsideLoad, h.outsidePoison, h.addrFailed, ih]

theorem SameDevice.deviceXlat (pd aspace va n : Nat) (write hd : Bool) :
    t.deviceXlat pd aspace va n write hd = s.deviceXlat pd aspace va n write hd := by
  simp only [State.deviceXlat, State.walk, State.reg, h.walkFrom, h.mmu, h.regs, h.leafFault, h.canonAddr]
  rfl

theorem SameDevice.copyEngine (pd : Nat) : t.copyEngine pd = s.copyEngine pd := by simp only [State.copyEngine, h.engine]
theorem SameDevice.copyFault (pd asp : Nat) (hd : Bool) (d : CopyDesc) : t.copyFault pd asp hd d = s.copyFault pd asp hd d := by
  simp only [State.copyFault, h.deviceXlat]
theorem SameDevice.copyLocal (pd asp : Nat) (hd : Bool) (d : CopyDesc) : t.copyLocal pd asp hd d = s.copyLocal pd asp hd d := by
  simp only [State.copyLocal, h.deviceXlat, h.target]

end Same

/-! ## The command -/

/-- The time at which a copy is promised to have completed (R311). -/
def State.copyPromise (s : State) (c pd asp e : Nat) (hd : Bool) (d : CopyDesc) : Nat :=
  max (s.now c) (s.engine pd e).busy + (if s.copyLocal pd asp hd d then 400 else 2000) + ceilDiv (d.len * d.rows) 128

/-- The command that a COPY queues. -/
def State.copyCmd (s : State) (f : Firing) (r : Route) (i : Instr) (e : Nat) (d : CopyDesc) : CopyCmd :=
  let c := f.site.core
  let k := f.key r.ta
  let pd := nodeOf c
  let asp := s.aspaceOf c k
  let h := isHandlerKey k
  let th := s.thread c k
  { count := (s.engine pd e).count, core := c, thread := k, team := th.team, tid := th.tid, aspace := asp, handler := h
    scope := scopeOf i, src := BitVec.ofNat 64 d.src, dst := BitVec.ofNat 64 d.dst, rows := d.rows, len := d.len
    sstride := d.sstride, dstride := d.dstride, flag := BitVec.ofNat 64 d.flag
    flagok := BitVec.ofNat 64 d.flagok, flagerr := BitVec.ofNat 64 d.flagerr, due := s.copyPromise c pd asp e h d
    record := s.firingRecord f k 0 6 }

/-- The state that a COPY leaves before its tokens do: the command queued, and handed over at commit. -/
def State.copyQueued (s : State) (f : Firing) (r : Route) (i : Instr) (e : Nat) (d : CopyDesc) : State :=
  let pd := nodeOf f.site.core
  let cmd := s.copyCmd f r i e d
  (s.updEngine pd e (fun x => { x with busy := cmd.due, count := x.count + 1, queue := x.queue ++ [cmd] })).atCommit f r.ta
    (.copy pd e (s.engine pd e).count)

/-- The promise that a COPY returns: engine, count and time (R311). -/
def copyToken (i : Instr) (f : Firing) (r : Route) (id pd e count p : Nat) : Token :=
  { valueTag i f r id with data := BitVec.ofNat 256 (pd * 2 ^ 62 + e * 2 ^ 58 + count % 1024 * 2 ^ 48 + p % 2 ^ 48) }.fit

/-- A COPY whose descriptor passes its checks. -/
theorem State.copyEffect_queues {s : State} {i : Instr} {r : Route} {f : Firing} {id pa e : Nat}
    (ha : isWord f.a = true) (hal : addrOf f.a % 64 = 0)
    (hx : s.deviceXlat (nodeOf f.site.core) (s.aspaceOf f.site.core (f.key r.ta)) (addrOf f.a) 64 false
      (isHandlerKey (f.key r.ta)) = .ok pa)
    (he : s.copyEngine (nodeOf f.site.core) = some e) (hp : s.outsidePoison (lineOf pa) = false) :
    let desc := s.descBytes f.site.core (f.key r.ta) id f.deps pa
    let d := copyDesc desc.1
    let t := desc.2
    d.malformed = false →
    t.copyFault (nodeOf f.site.core) (s.aspaceOf f.site.core (f.key r.ta)) (isHandlerKey (f.key r.ta)) d = none →
    t.aspaceOf f.site.core (f.key r.ta) = s.aspaceOf f.site.core (f.key r.ta) →
    s.copyEffect i r f id = (t.copyQueued f r i e d).emitOut f r
      ⟨[copyToken i f r id (nodeOf f.site.core) e (t.engine (nodeOf f.site.core) e).count (t.copyCmd f r i e d).due],
        [doneToken f r id], 0⟩ := by
  intro desc d t hmal hfault hasp
  unfold State.copyEffect
  dsimp only
  rw [if_neg (by simp [ha]), if_neg (by simp [hal]), hx, he]
  dsimp only
  rw [if_neg (by simp [hp]), if_neg (by rw [hmal]; exact Bool.false_ne_true), hfault]
  dsimp only [State.copyQueued, State.copyCmd, State.copyPromise, copyToken]
  rw [hasp]

theorem FreeOnly.aspaceOf {s t : State} (h : FreeOnly s t) (c k : Nat) : t.aspaceOf c k = s.aspaceOf c k := by
  rw [h]
  rfl

theorem FreeOnly.exec? {s t : State} (h : FreeOnly s t) (c k : Nat) : t.exec? c k = s.exec? c k := by
  rw [h]
  rfl

theorem copyToken_w64 (i : Instr) (f : Firing) (r : Route) (id pd e count p : Nat) : (copyToken i f r id pd e count p).w64 =
    BitVec.ofNat 64 (pd * 2 ^ 62 + e * 2 ^ 58 + count % 1024 * 2 ^ 48 + p % 2 ^ 48) :=
  (fit_w64 _).trans (w64_ofNat (valueTag i f r id) _)

/-- A queued command stands at the end of its engine's queue, under the promise and the count that the engine then has. -/
theorem State.copyQueued_engine (s : State) (f : Firing) (r : Route) (i : Instr) (e : Nat) (d : CopyDesc) :
    (s.copyQueued f r i e d).engine (nodeOf f.site.core) e =
      (let x := s.engine (nodeOf f.site.core) e
       let cmd := s.copyCmd f r i e d
       { x with busy := cmd.due, count := x.count + 1, queue := x.queue ++ [cmd] }) :=
  State.engine_updEngine s (nodeOf f.site.core) e
    (fun x => { x with busy := (s.copyCmd f r i e d).due, count := x.count + 1, queue := x.queue ++ [s.copyCmd f r i e d] })

theorem State.copyQueued_exec? {s : State} {f : Firing} {r : Route} {x : Exec} (i : Instr) (e : Nat) (d : CopyDesc)
    (h : s.exec? f.site.core (f.key r.ta) = some x) : (s.copyQueued f r i e d).exec? f.site.core (f.key r.ta) =
      some { x with acts := x.acts ++ [.copy (nodeOf f.site.core) e (s.engine (nodeOf f.site.core) e).count] } := by
  rw [State.copyQueued, State.atCommit, State.exec?_updExec, if_pos ⟨rfl, rfl⟩]
  exact congrArg (Option.map _) h

/-- Settles O32: the descriptor is read where the access has taken its number, which leaves engines and translations alone. -/
theorem copyCommand : Obligations.CopyCommand := by
  intro s f r1 m pa e x c k pd asp d p h ha hal hx he hp hmal hfault hex
  let i : Instr := .copy r1 m
  let n := s.numbered f r1.full i
  let id := s.accessNo f r1.full
  let t := (n.descBytes c k id f.deps pa).2
  have hn : SameDevice s n := sameDevice_numbered s f r1.full i
  have hfree : FreeOnly n t := freeOnly_descBytes n c k id f.deps pa
  have ht : SameDevice s t := hfree.sameDevice hn
  have hasp : n.aspaceOf c k = asp := numbered_aspaceOf ..
  have htasp : t.aspaceOf c k = asp := (hfree.aspaceOf c k).trans hasp
  have hexec : exec i s = .next ((t.copyQueued f r1.full i e d).emitOut f r1.full
      ⟨[copyToken i f r1.full id pd e (t.engine pd e).count (t.copyCmd f r1.full i e d).due], [doneToken f r1.full id], 0⟩) := by
    have hfiring : exec i s = .next (n.copyEffect i r1.full f id) := by
      show execCopy r1 m s = _
      rw [execCopy, memFiring_own _ r1.full _ _ _ h]
    refine hfiring.trans (congrArg _ (State.copyEffect_queues ha hal ?_ ?_ ?_ hmal ?_ ?_))
    · rw [hn.deviceXlat]; exact hasp ▸ hx
    · rw [hn.copyEngine]; exact he
    · rw [hn.outsidePoison]; exact hp
    · exact (ht.copyFault ..).trans (hasp ▸ hfault)
    · exact htasp.trans hasp.symm
  have hdue : (t.copyCmd f r1.full i e d).due = p := by
    show t.copyPromise c pd (t.aspaceOf c k) e (isHandlerKey k) d = p
    rw [State.copyPromise, htasp, ht.now, ht.engine, ht.copyLocal]
  obtain ⟨e1, he1, -, -, -, hacts, -⟩ := numbered_exec s f r1.full i x hex
  have hqueued := State.copyQueued_engine t f r1.full i e d
  refine ⟨t.copyQueued f r1.full i e d, _, _, t.copyCmd f r1.full i e d, _, hexec, ?_, ?_, ?_, hdue, BitVec.toNat_ofNat .., BitVec.toNat_ofNat ..,
    rfl, rfl, rfl, State.copyQueued_exec? i e d ((hfree.exec? c k).trans he1), ?_, ?_, ?_, ht.mem⟩
  · rw [hqueued, ht.engine]
  · rw [hqueued, ht.engine]
  · rw [hqueued]; exact hdue
  · rw [hacts, ht.engine]
  · rw [copyToken_w64, hdue, ht.engine]
  · exact (doneToken_spec f r1.full id h.2.1 h.2.2).1

end Sys2Proof.Machine

/-! PROOFS. RECRUIT and WAITLY (R225 to R227, R238): the slots that a grant reserves, and the fault of a wait. -/

namespace Sys2Proof.Machine

/-! ## Reserved slots (R227) -/

/-- The state with the named slots of a team reserved. -/
def State.reserveSlots (s : State) (c : Nat) (t : Team) (tids : List Nat) : State :=
  tids.foldl (fun s tid => match t.slotOf tid with
    | some j => s.updThread c j (fun u => { u with reserved := true })
    | none => s) s

section Reserve
variable (c : Nat) (t : Team) (tids : List Nat)

theorem State.reserveSlots_cons (s : State) (tid : Nat) : s.reserveSlots c t (tid :: tids) =
    (match t.slotOf tid with | some j => s.updThread c j (fun u => { u with reserved := true }) | none => s).reserveSlots c t tids := rfl

theorem State.reserveSlots_teams (s : State) : (s.reserveSlots c t tids).teams = s.teams := by
  induction tids generalizing s with
  | nil => rfl
  | cons tid tids ih =>
    rw [State.reserveSlots_cons, ih]
    cases t.slotOf tid <;> rfl

theorem State.reserveSlots_mem (s : State) : (s.reserveSlots c t tids).mem = s.mem := by
  induction tids generalizing s with
  | nil => rfl
  | cons tid tids ih =>
    rw [State.reserveSlots_cons, ih]
    cases t.slotOf tid <;> rfl

/-- A reserved thread stays reserved. -/
theorem State.reserved_reserveSlots {s : State} {k : Nat} (h : (s.thread c k).reserved = true) :
    ((s.reserveSlots c t tids).thread c k).reserved = true := by
  induction tids generalizing s with
  | nil => exact h
  | cons tid tids ih =>
    rw [State.reserveSlots_cons]
    refine ih ?_
    cases t.slotOf tid with
    | none => exact h
    | some j =>
      dsimp only
      rw [State.thread_updThread]
      split
      · rfl
      · exact h

/-- Every named slot is reserved. -/
theorem State.reserveSlots_reserved {s : State} {tid k : Nat} (htid : tid ∈ tids) (hk : t.slotOf tid = some k) :
    ((s.reserveSlots c t tids).thread c k).reserved = true := by
  induction tids generalizing s with
  | nil => cases htid
  | cons x tids ih =>
    rw [State.reserveSlots_cons]
    rcases List.mem_cons.1 htid with rfl | htid
    · refine State.reserved_reserveSlots c t tids ?_
      rw [hk]
      dsimp only
      rw [State.thread_updThread, if_pos ⟨rfl, rfl⟩]
    · exact ih htid

end Reserve

/-! ## RECRUIT (R225 to R227) -/

/-- The record of a recruitment that a firing opens. -/
def openedRecruitment (f : Firing) (reg : BitVec 7) (fop : FoldOp) (hblk : BitVec 8) (slots : List Nat) : Recruitment :=
  { reg := reg.toNat, fop := fop, hblk := hblk.toNat, slots := slots, arg := f.tokB.w64 }

section Recruit
variable (s : State) (f : Firing) (r : Route2) (reg : BitVec 7) (fop : FoldOp) (hblk : BitVec 8) (t : Team)

/-- The slots that a recruiter may be granted. -/
def State.grantable : List Nat :=
  if s.recruitRefused f.site.core (f.key .plain) t then []
  else s.freeSlots f.site.core t ((s.thread f.site.core (f.key .plain)).tid / 32)

/-- The number that RECRUIT grants. -/
def State.granted : Nat := min (min f.tokA.w64.toNat 64) (s.grantable f t).length

/-- The state with the granted slots reserved and the recruitment opened. -/
def State.recruited : State :=
  let th := s.thread f.site.core (f.key .plain)
  let slots := (s.grantable f t).take (s.granted f t)
  (s.reserveSlots f.site.core t slots).updTeam th.team (fun x => { x with
    recs := KMap.put x.recs th.tid (openedRecruitment f reg fop hblk slots) })

/-- The own effect of RECRUIT with the number that it sends. -/
def recruitOwn (reg : BitVec 7) (fop : FoldOp) (hblk : BitVec 8) (s : State) (f : Firing) : State × Word :=
  if isHandlerKey (f.key .plain) then (s, 0)
  else match s.team? (s.thread f.site.core (f.key .plain)).team with
    | none => (s, 0)
    | some t =>
      if s.granted f t = 0 then (s, 0)
      else ((s.recruited f reg fop hblk t).atCommit f .plain .recruit, BitVec.ofNat 64 (s.granted f t))

theorem execRecruit_eq : execRecruit r reg fop hblk s = wordFiring (r.full .plain) (recruitOwn reg fop hblk) s := rfl

/-- RECRUIT of a thread of a team: nothing is granted, or the slots are reserved and the recruitment is opened. -/
theorem exec_recruit (h : s.Fires f .plain) (hk : f.key .plain < 4096)
    (ht : s.team? (s.thread f.site.core (f.key .plain)).team = some t) :
    exec (.recruit r reg fop hblk) s = .next (if s.granted f t = 0 then s.taken.sends f (r.full .plain) 0
      else ((s.taken.recruited f reg fop hblk t).atCommit f .plain .recruit).sends f (r.full .plain) (BitVec.ofNat 64 (s.granted f t))) := by
  have hown : recruitOwn reg fop hblk s.taken f = if s.granted f t = 0 then (s.taken, 0)
      else ((s.taken.recruited f reg fop hblk t).atCommit f .plain .recruit, BitVec.ofNat 64 (s.granted f t)) := by
    have hkey : isHandlerKey (f.key .plain) = false := by simp [isHandlerKey, hk]
    have ht' : s.taken.team? (s.taken.thread f.site.core (f.key .plain)).team = some t := ht
    rw [recruitOwn, hkey, ht']
    rfl
  show execRecruit r reg fop hblk s = _
  rw [execRecruit_eq, wordFiring_own (r := r.full .plain) _ h, hown]
  split <;> rfl

end Recruit

/-! ## WAITLY (R238) -/

/-- The execution of an access that faults lists the fault, and keeps its actions. -/
theorem State.exec?_takeAccessFault (s : State) (f : Firing) (k code : Nat) (addr info : Word) {e : Exec}
    (he : s.exec? f.site.core k = some e) :
    ∃ (e' : Exec) (z : FaultSeen), (s.takeAccessFault f k code addr info).exec? f.site.core k = some e' ∧
      e'.faults = e.faults ++ [z] ∧ z.code = code ∧ e'.acts = e.acts := by
  rw [State.takeAccessFault, State.exec?, State.thread_sendFault, ← State.exec?, State.exec?_updExec, if_pos ⟨rfl, rfl⟩, he]
  exact ⟨_, _, rfl, rfl, rfl, rfl⟩

section Waitly
variable {s : State} {f : Firing} (r : Route1) (h : s.Fires f .unary) (hw : isWord f.a = true)
include h hw

/-- WAITLY of a layer of the grid's context records its wait and passes A on. -/
theorem exec_waitly_waits (hc : s.waitlyCause f.site.core (f.key .unary) f.tokA.w64 = none) :
    exec (.waitly r) s = .next ((s.taken.atCommit f .unary (.waitly f.tokA.w64)).passes f r.full) := by
  have hc' : s.taken.waitlyCause f.site.core (f.key .unary) f.tokA.w64 = none := hc
  obtain ⟨hf, hd, hp⟩ := h
  show execWaitly r s = _
  rw [execWaitly, withFiring_some _ _ _ hf, fireCases_own _ _ _ _ _ hd hp]
  simp only [hw, hc', Bool.not_true, Bool.false_eq_true, if_false]
  rfl

/-- WAITLY that names no layer, or finds no room, raises LAYER. -/
theorem exec_waitly_faults {cause : Nat} (hc : s.waitlyCause f.site.core (f.key .unary) f.tokA.w64 = some cause) :
    ∃ info : Word, exec (.waitly r) s = .next ((s.taken.takeAccessFault f (f.key .unary) codeLAYER (BitVec.ofNat 64 noAddr) info).emitOut f
      r.full (.both [{ f.resultTag .unary f.tokA.fmt with data := BitVec.ofNat 256 codeLAYER, deferred := true }])) := by
  have hc' : s.taken.waitlyCause f.site.core (f.key .unary) f.tokA.w64 = some cause := hc
  obtain ⟨hf, hd, hp⟩ := h
  refine ⟨layerInfo cause ((s.taken.ctxOf f.site.core (f.key .unary)).getD 0) f.tokA.w64.toNat, ?_⟩
  show execWaitly r s = _
  rw [execWaitly, withFiring_some _ _ _ hf, fireCases_own _ _ _ _ _ hd hp]
  simp only [hw, hc', Bool.not_true, Bool.false_eq_true, if_false]

end Waitly

/-- Settles O37: RECRUIT by the number it grants, WAITLY by the cause it finds. -/
theorem recruitAndLayer : Obligations.RecruitAndLayer := by
  intro s f r r1 reg fop hblk t
  refine ⟨fun h hk ht => ?_, fun h hw => ⟨fun hc => exec_waitly_waits r1 h hw hc, fun cause e hc he => ?_⟩⟩
  · have hexec := exec_recruit s f r reg fop hblk t h hk ht
    refine ⟨fun hg => hexec.trans (congrArg _ (if_pos hg)), fun hg => ?_⟩
    refine ⟨s.taken.recruited f reg fop hblk t, _, openedRecruitment f reg fop hblk ((s.grantable f t).take (s.granted f t)),
      hexec.trans (congrArg _ (if_neg hg)), State.team?_updTeam_same (x := t) _ ?_, KMap.look_put_same .., rfl, rfl, rfl, rfl, rfl, rfl,
      fun tid k htid hslot => ?_, ?_⟩
    · rw [State.team?, State.reserveSlots_teams]
      exact ht
    · rw [State.recruited, State.updTeam_thread]
      exact State.reserveSlots_reserved _ _ _ htid hslot
    · rw [State.recruited, State.updTeam_mem, State.reserveSlots_mem]
      rfl
  · obtain ⟨info, hexec⟩ := exec_waitly_faults r1 h hw hc
    obtain ⟨e', z, he', hfaults, hcode, hacts⟩ := s.taken.exec?_takeAccessFault f (f.key .unary) codeLAYER
      (BitVec.ofNat 64 noAddr) info he
    exact ⟨_, e', _, z, hexec, rfl, by simp [Token.w64, codeLAYER], he', hfaults, hcode, hacts⟩

end Sys2Proof.Machine

/-! PROOFS. The moves of one line (R247 to R251): what a recall, a forwarded read, a collection or an eviction of a line leaves
as it is, and what it makes of the line itself. -/

namespace Sys2Proof.Machine

/-! ## One copy or one entry changed -/

section One
variable (s : State) (n line : Nat)

theorem State.l2Line_setL2 (x : L2Line) (m k : Nat) :
    (s.setL2 n line x).l2Line m k = if m = n ∧ k = line then some x else s.l2Line m k := by
  rw [State.l2Line, State.setL2, KMap.lookD_alter]
  by_cases hm : m = n
  · subst hm
    by_cases hk : k = line
    · rw [if_pos rfl, if_pos ⟨rfl, hk⟩, hk, KMap.look_put_same]
    · rw [if_pos rfl, if_neg (fun h => hk h.2), KMap.look_put_other _ _ _ _ hk]
      rfl
  · rw [if_neg hm, if_neg (fun h => hm h.1)]
    rfl

@[simp] theorem State.l2Line_setL2_same (x : L2Line) : (s.setL2 n line x).l2Line n line = some x := by
  rw [State.l2Line_setL2, if_pos ⟨rfl, rfl⟩]

theorem State.l2Line_dropL2 (m k : Nat) :
    (s.dropL2 n line).l2Line m k = if m = n ∧ k = line then none else s.l2Line m k := by
  rw [State.l2Line, State.dropL2, KMap.lookD_alter]
  by_cases hm : m = n
  · subst hm
    by_cases hk : k = line
    · rw [if_pos rfl, if_pos ⟨rfl, hk⟩, hk, KMap.look_del_same]
    · rw [if_pos rfl, if_neg (fun h => hk h.2), KMap.look_del_other _ _ _ hk]
      rfl
  · rw [if_neg hm, if_neg (fun h => hm h.1)]
    rfl

@[simp] theorem State.l2Line_dropL2_same : (s.dropL2 n line).l2Line n line = none := by
  rw [State.l2Line_dropL2, if_pos ⟨rfl, rfl⟩]

@[simp] theorem State.dirOf_setDir_same (e : DirEntry) : (s.setDir line e).dirOf line = e := by
  rw [State.dirOf, State.setDir, KMap.look_put_same]
  rfl

/-- An entry is read from the directory alone. -/
theorem State.dirOf_congr {s t : State} {line : Nat} (hdir : KMap.look t.coh.dir line = KMap.look s.coh.dir line)
    (hentry : (KMap.look s.coh.dir line).isSome = true) : t.dirOf line = s.dirOf line := by
  obtain ⟨e, he⟩ := Option.isSome_iff_exists.1 hentry
  rw [State.dirOf, hdir, State.dirOf, he]
  rfl

theorem State.owner_congr {s t : State} {line : Nat} (hdir : KMap.look t.coh.dir line = KMap.look s.coh.dir line) :
    (t.dirOf line).owner = (s.dirOf line).owner := by
  rw [State.dirOf, hdir, State.dirOf]
  cases KMap.look s.coh.dir line <;> rfl

/-- A line with an owner has an entry. -/
theorem State.isSome_of_owner {s : State} {line m : Nat} (h : (s.dirOf line).owner = some m) :
    (KMap.look s.coh.dir line).isSome = true := by
  cases he : KMap.look s.coh.dir line with
  | none => rw [State.dirOf, he] at h; cases h
  | some e => rfl

theorem State.setBase_eq (d : BitVec 512) : ∃ m, s.setBase line d = { s with mem := m } := by
  rw [State.setBase, State.putNat]
  exact putBytes_eq s (64 * line) (leBytes 64 d.toNat)

end One

/-! ## What a move of one line leaves as it is -/

/-- Only copies, registered words and the entry of one line differ, and memory with its poison. -/
structure State.MovesLine (line : Nat) (s t : State) : Prop where
  only : CohOnly s t
  coh : t.coh = { s.coh with l1 := t.coh.l1, l2 := t.coh.l2, dir := t.coh.dir }
  hostOut : t.hostOut = s.hostOut
  entry : (KMap.look s.coh.dir line).isSome = true → (KMap.look t.coh.dir line).isSome = true
  dir : ∀ k, k ≠ line → KMap.look t.coh.dir k = KMap.look s.coh.dir k
  copies : ∀ n k, k ≠ line → t.l2Line n k = s.l2Line n k

namespace State.MovesLine

theorem refl (line : Nat) (s : State) : s.MovesLine line s := ⟨rfl, rfl, rfl, id, fun _ _ => rfl, fun _ _ _ => rfl⟩

theorem trans {line : Nat} {s t u : State} (h : s.MovesLine line t) (g : t.MovesLine line u) : s.MovesLine line u where
  only := h.only.trans g.only
  coh := by rw [g.coh, h.coh]
  hostOut := g.hostOut.trans h.hostOut
  entry := fun he => g.entry (h.entry he)
  dir := fun k hk => (g.dir k hk).trans (h.dir k hk)
  copies := fun n k hk => (g.copies n k hk).trans (h.copies n k hk)

/-- Memory and poison are all that differs. -/
theorem of_mem {line : Nat} {s t : State} (h : t = { s with mem := t.mem, poison := t.poison }) : s.MovesLine line t := by
  rw [h]
  exact ⟨rfl, rfl, rfl, id, fun _ _ => rfl, fun _ _ _ => rfl⟩

section
variable (line : Nat) (s : State)

theorem setBase (d : BitVec 512) : s.MovesLine line (s.setBase line d) := by
  obtain ⟨m, h⟩ := s.setBase_eq line d
  rw [h]
  exact of_mem rfl

theorem setBaseBit (d : BitVec 512) (b : Bool) : s.MovesLine line (s.setBaseBit line d b) := by
  refine (setBase line s d).trans ?_
  unfold State.setBaseBit
  dsimp only
  generalize s.setBase line d = t
  cases b
  · exact of_mem rfl
  · rw [if_pos rfl]
    unfold State.setPoison
    split
    · exact refl line t
    · exact of_mem rfl

theorem setDir (e : DirEntry) : s.MovesLine line (s.setDir line e) where
  only := rfl
  coh := rfl
  hostOut := rfl
  entry := fun _ => by rw [State.setDir, KMap.look_put_same]; rfl
  dir := fun k hk => KMap.look_put_other _ _ _ _ hk
  copies := fun _ _ _ => rfl

theorem setL2 (n : Nat) (x : L2Line) : s.MovesLine line (s.setL2 n line x) where
  only := rfl
  coh := rfl
  hostOut := rfl
  entry := id
  dir := fun _ _ => rfl
  copies := fun m k hk => by rw [State.l2Line_setL2, if_neg (fun h => hk h.2)]

theorem dropL2 (n : Nat) : s.MovesLine line (s.dropL2 n line) where
  only := rfl
  coh := rfl
  hostOut := rfl
  entry := id
  dir := fun _ _ => rfl
  copies := fun m k hk => by rw [State.l2Line_dropL2, if_neg (fun h => hk h.2)]

theorem unregister (n k : Nat) : s.MovesLine line (s.unregister n k) := ⟨rfl, rfl, rfl, id, fun _ _ => rfl, fun _ _ _ => rfl⟩

theorem setCopy (n : Nat) (d : BitVec 512) : s.MovesLine line (s.setCopy n line d) := by
  unfold State.setCopy
  split
  · exact setBase line s d
  · split
    · exact setL2 line s n _
    · exact refl line s

theorem collect (n : Nat) : s.MovesLine line (s.collect n line) := by
  unfold State.collect
  split
  · exact refl line s
  · exact setCopy line s n _

/-- The registered words of a node moved into its copy, unless they wait for ownership. -/
theorem gather (n : Nat) :
    s.MovesLine line (if s.pendingAt n line then s else (s.collect n line).unregister n line) := by
  split
  · exact refl line s
  · exact (collect line s n).trans (unregister line _ n line)

theorem recallLine : s.MovesLine line (s.recallLine line) := by
  unfold State.recallLine
  cases hm : (s.dirOf line).owner with
  | none => exact refl line s
  | some m =>
    dsimp only
    cases s.l2Line m line with
    | none => exact setDir line s _
    | some x =>
      dsimp only
      have h := (gather line s m).trans (dropL2 line _ m)
      generalize (if s.pendingAt m line then s else (s.collect m line).unregister m line).dropL2 m line = t at h ⊢
      split
      · exact (h.trans (setBaseBit line t _ _)).trans (setDir line _ _)
      · exact h.trans (setDir line t _)

theorem forwardRead (t : Tick) : s.MovesLine line (s.forwardRead line t) := by
  unfold State.forwardRead
  cases hm : (s.dirOf line).owner with
  | none => exact refl line s
  | some m =>
    dsimp only
    cases s.l2Line m line with
    | none => exact setDir line s _
    | some x =>
      dsimp only
      have h := (collect line s m).trans (setBaseBit line (s.collect m line) ((s.collect m line).nodeLine m line) x.poison)
      refine h.trans ?_
      generalize (s.collect m line).setBaseBit line ((s.collect m line).nodeLine m line) x.poison = t
      split
      · exact (setL2 line _ m _).trans (setDir line _ _)
      · exact setL2 line _ m _

theorem forwardPlain : s.MovesLine line (s.forwardPlain line) := by
  unfold State.forwardPlain
  split
  · exact forwardRead line s _
  · exact refl line s

theorem gatherForHost : s.MovesLine line (s.gatherForHost line) :=
  (recallLine line s).trans (gather line (s.recallLine line) (s.homeNode line))

end

end State.MovesLine

/-! ## What the work on other lines leaves of a line -/

/-- A line's entry, its copies, its state at the internal home, and every request stand. -/
structure State.KeepsLine (line : Nat) (s t : State) : Prop where
  only : CohOnly s t
  reqs : t.coh.reqs = s.coh.reqs
  unperf : t.coh.unperf = s.coh.unperf
  outerReqs : t.coh.outerReqs = s.coh.outerReqs
  outer : KMap.look t.coh.outer line = KMap.look s.coh.outer line
  dir : KMap.look t.coh.dir line = KMap.look s.coh.dir line
  copies : ∀ n, t.l2Line n line = s.l2Line n line

namespace State.KeepsLine

theorem refl (line : Nat) (s : State) : s.KeepsLine line s := ⟨rfl, rfl, rfl, rfl, rfl, rfl, fun _ => rfl⟩

theorem trans {line : Nat} {s t u : State} (h : s.KeepsLine line t) (g : t.KeepsLine line u) : s.KeepsLine line u :=
  ⟨h.only.trans g.only, g.reqs.trans h.reqs, g.unperf.trans h.unperf, g.outerReqs.trans h.outerReqs, g.outer.trans h.outer,
    g.dir.trans h.dir, fun n => (g.copies n).trans (h.copies n)⟩

theorem of_moves {line k : Nat} {s t : State} (h : s.MovesLine k t) (hk : line ≠ k) : s.KeepsLine line t where
  only := h.only
  reqs := by rw [h.coh]
  unperf := by rw [h.coh]
  outerReqs := by rw [h.coh]
  outer := by rw [h.coh]
  dir := h.dir line hk
  copies := fun n => h.copies n line hk

theorem writeSent (line k : Nat) (s : State) (b : Bool) : s.KeepsLine line (s.writeSent b k) := by
  unfold State.writeSent
  split
  · exact ⟨rfl, rfl, rfl, rfl, rfl, rfl, fun _ => rfl⟩
  · exact refl line s

theorem giveUpOuter {line k : Nat} (s : State) (hk : line ≠ k) : s.KeepsLine line (s.giveUpOuter k) := by
  have h := of_moves (State.MovesLine.gatherForHost k s) hk
  have h' (t : State) (out : List HostMsg) : t.KeepsLine line
      { t with coh := { t.coh with outer := KMap.del t.coh.outer k }, hostOut := t.hostOut ++ out } :=
    ⟨rfl, rfl, rfl, rfl, KMap.look_del_other _ _ _ hk, rfl, fun _ => rfl⟩
  exact (h.trans (h' _ _)).trans (writeSent line k _ _)

theorem l2Evict {line k : Nat} (s : State) (n : Nat) (hk : line ≠ k) : s.KeepsLine line (s.l2Evict n k) := by
  unfold State.l2Evict
  split
  · split
    · exact of_moves (State.MovesLine.dropL2 k s n) hk
    · exact of_moves (State.MovesLine.recallLine k s) hk
  · exact giveUpOuter s hk

/-- Room made for a line evicts another. -/
theorem l2Make (line : Nat) (s : State) (n : Nat) : s.KeepsLine line (s.l2Make n line) := by
  unfold State.l2Make
  dsimp only
  split
  · exact refl line s
  · next h =>
    split
    · next v hv =>
      refine l2Evict s n fun e => h ?_
      have hmem := List.mem_of_find?_eq_some hv
      rw [← e] at hmem
      simp [hmem]
    · exact refl line s

end State.KeepsLine

/-- Where there is room for a line, none is made. -/
theorem State.l2Make_eq {s : State} {n line : Nat} (h : (s.l2Slice n (s.homeSlice (64 * line))).contains line = true ∨
    (s.l2Slice n (s.homeSlice (64 * line))).length < s.l2Cap n (s.homeSlice (64 * line))) : s.l2Make n line = s := by
  unfold State.l2Make
  dsimp only
  rw [if_pos]
  simpa using h

/-- A filled copy stands in the node's L2; the copies of the line at other nodes stand. -/
theorem State.l2Line_fillL2 (s : State) (n line : Nat) (x : L2Line) (m : Nat) :
    (s.fillL2 n line x).l2Line m line = if m = n then some x else s.l2Line m line := by
  rw [State.fillL2, State.l2Line_setL2, (KeepsLine.l2Make line s n).copies m]
  simp

/-- What a fill leaves, besides the copies of its line. -/
theorem State.fillL2_keeps (s : State) (n line : Nat) (x : L2Line) : (s.l2Make n line).MovesLine line (s.fillL2 n line x) :=
  State.MovesLine.setL2 line _ n x

/-! ## The line itself after a move -/

/-- Memory of a line reads back what was written. -/
@[simp] theorem State.baseLine_setBase (s : State) (line : Nat) (d : BitVec 512) : (s.setBase line d).baseLine line = d := by
  rw [State.baseLine, State.setBase, State.load_putNat, Nat.mod_eq_of_lt d.isLt, BitVec.ofNat_toNat, BitVec.setWidth_eq]

theorem State.baseLine_congr {s t : State} (h : t.mem = s.mem) (line : Nat) : t.baseLine line = s.baseLine line := by
  rw [State.baseLine, State.load, State.bytes]
  simp only [State.byte, h]
  rfl

@[simp] theorem State.mem_setPoison (s : State) (line : Nat) : (s.setPoison line).mem = s.mem := by
  unfold State.setPoison
  split <;> rfl

@[simp] theorem State.mem_clearPoison (s : State) (line : Nat) : (s.clearPoison line).mem = s.mem := rfl

theorem State.contains_setPoison (s : State) (line : Nat) : (s.setPoison line).poison.contains line = true := by
  unfold State.setPoison
  split
  · assumption
  · simp

theorem State.contains_clearPoison (s : State) (line : Nat) : (s.clearPoison line).poison.contains line = false := by
  simp [State.clearPoison]

@[simp] theorem State.baseLine_setBaseBit (s : State) (line : Nat) (d : BitVec 512) (b : Bool) :
    (s.setBaseBit line d b).baseLine line = d := by
  refine (State.baseLine_congr ?_ line).trans (s.baseLine_setBase line d)
  rw [State.setBaseBit]
  generalize s.setBase line d = t
  cases b
  · rfl
  · exact State.mem_setPoison ..

theorem State.coh_setBase (s : State) (line : Nat) (d : BitVec 512) : (s.setBase line d).coh = s.coh := by
  obtain ⟨m, h⟩ := s.setBase_eq line d
  rw [h]

@[simp] theorem State.coh_setPoison (s : State) (line : Nat) : (s.setPoison line).coh = s.coh := by
  unfold State.setPoison
  split <;> rfl

theorem State.coh_setBaseBit (s : State) (line : Nat) (d : BitVec 512) (b : Bool) : (s.setBaseBit line d b).coh = s.coh := by
  rw [← s.coh_setBase line d, State.setBaseBit]
  generalize s.setBase line d = t
  cases b
  · rfl
  · exact State.coh_setPoison ..

theorem State.l2Line_setBaseBit (s : State) (line : Nat) (d : BitVec 512) (b : Bool) (n k : Nat) :
    (s.setBaseBit line d b).l2Line n k = s.l2Line n k := by
  rw [State.l2Line, State.coh_setBaseBit, State.l2Line]

theorem State.poison_setBaseBit (s : State) (line : Nat) (d : BitVec 512) (b : Bool) :
    (s.setBaseBit line d b).poison.contains line = b := by
  rw [State.setBaseBit]
  generalize s.setBase line d = t
  cases b
  · exact State.contains_clearPoison ..
  · exact State.contains_setPoison ..

/-- A recall takes the line from its owner: the home has the owner's data. -/
theorem State.recallLine_owner {s : State} {line m : Nat} {x : L2Line} (hm : (s.dirOf line).owner = some m)
    (hx : s.l2Line m line = some x) :
    ((s.recallLine line).dirOf line).owner = none ∧ (s.recallLine line).l2Line m line = none ∧
      (x.st = .m ∨ x.st = .o → (s.recallLine line).baseLine line = s.nodeLine m line) := by
  unfold State.recallLine
  rw [hm]
  dsimp only
  rw [hx]
  dsimp only
  generalize (if s.pendingAt m line then s else (s.collect m line).unregister m line) = t
  refine ⟨by rw [State.dirOf_setDir_same], ?_, fun hst => ?_⟩
  · have hcopies : ∀ u : State, (u.setDir line { s.dirOf line with owner := none }).l2Line m line = u.l2Line m line := fun _ => rfl
    rw [hcopies]
    split
    · rw [State.l2Line_setBaseBit, State.l2Line_dropL2_same]
    · exact State.l2Line_dropL2_same ..
  · rw [if_pos (by simpa using hst)]
    exact (State.baseLine_congr rfl line).trans (State.baseLine_setBaseBit ..)

end Sys2Proof.Machine

/-! PROOFS. What homes serve (R248 to R252): leases, grants of ownership, forwarded reads, recalls and evictions. -/

namespace Sys2Proof.Machine

/-! ## Leases (R249) -/

theorem State.dirEvict_eq {s : State} {line : Nat} (h : (KMap.look s.coh.dir line).isSome = true) : s.dirEvict line = s := by
  unfold State.dirEvict
  rw [if_pos (by simp [h])]

theorem State.dirRoom_of_entry {s : State} {line : Nat} (h : (KMap.look s.coh.dir line).isSome = true) : s.dirRoom line = true := by
  simp [State.dirRoom, h]

section Lease
variable (s : State) (line n : Nat) (mode2 : Bool)

/-- A lease runs on from now, within the horizon that it leaves; the entry keeps its owner. -/
theorem State.leaseFor_bounds : s.homeNow (s.homeNode line) < (s.leaseFor line n mode2).1 ∧
    (s.leaseFor line n mode2).1 ≤ (s.leaseFor line n mode2).2.h ∧
    (s.leaseFor line n mode2).2.owner = (s.dirOf line).owner := by
  refine ⟨Nat.lt_add_of_pos_right ?_, ?_, rfl⟩
  · show 0 < if mode2 then 65536 else 256 * 2 ^ _
    split
    · decide
    · exact Nat.mul_pos (by decide) (Nat.two_pow_pos _)
  · show (s.leaseFor line n mode2).1 ≤ if (s.dirOf line).h < (s.leaseFor line n mode2).1 then (s.leaseFor line n mode2).1
      else (s.dirOf line).h
    split
    · exact Nat.le_refl _
    · next h => exact Nat.le_of_not_lt h

/-- The performed value of a line does not change with its entry, as long as the owner stands. -/
theorem State.outside_setDir {e : DirEntry} (he : e.owner = (s.dirOf line).owner) :
    (s.setDir line e).outsideLine line = s.outsideLine line ∧ (s.setDir line e).outsidePoison line = s.outsidePoison line := by
  unfold State.outsideLine State.outsidePoison
  rw [State.dirOf_setDir_same, he]
  cases (s.dirOf line).owner <;> exact ⟨rfl, rfl⟩

/-- A lease granted to a node whose view is valid. -/
theorem State.grantLease_eq (hentry : (KMap.look s.coh.dir line).isSome = true) (hv : s.nodeValid n = true) :
    s.grantLease line n mode2 = (s.setDir line (s.leaseFor line n mode2).2).fillL2 n line
      ⟨.l, s.outsideLine line, (s.leaseFor line n mode2).1, s.outsidePoison line⟩ := by
  obtain ⟨-, -, howner⟩ := s.leaseFor_bounds line n mode2
  obtain ⟨hline, hpoison⟩ := s.outside_setDir line howner
  have hv' : (s.setDir line (s.leaseFor line n mode2).2).nodeValid n = true := hv
  rw [State.grantLease, State.dirEvict_eq hentry]
  dsimp only
  rw [if_pos hv', hline, hpoison]

/-- What a fill leaves of its own line besides the copies, and what it leaves of every other node's copy. -/
theorem State.fillL2_line (x : L2Line) : CohOnly s (s.fillL2 n line x) ∧ (s.fillL2 n line x).coh.reqs = s.coh.reqs ∧
    (s.fillL2 n line x).coh.unperf = s.coh.unperf ∧ KMap.look (s.fillL2 n line x).coh.dir line = KMap.look s.coh.dir line := by
  have h := State.KeepsLine.l2Make line s n
  exact ⟨h.only.trans rfl, h.reqs, h.unperf, h.dir⟩

/-- The grant of a lease leaves the requests, the threads and the owner; the horizon covers the lease. -/
theorem State.grantLease_spec (hentry : (KMap.look s.coh.dir line).isSome = true) (hv : s.nodeValid n = true) :
    let t := (s.leaseFor line n mode2).1
    let u := s.grantLease line n mode2
    CohOnly s u ∧ u.coh.reqs = s.coh.reqs ∧ u.l2Line n line = some ⟨.l, s.outsideLine line, t, s.outsidePoison line⟩ ∧
      (∀ m, m ≠ n → u.l2Line m line = s.l2Line m line) ∧ t ≤ (u.dirOf line).h ∧ (u.dirOf line).owner = (s.dirOf line).owner := by
  dsimp only
  obtain ⟨-, hle, howner⟩ := s.leaseFor_bounds line n mode2
  rw [s.grantLease_eq line n mode2 hentry hv]
  obtain ⟨honly, hreqs, -, hdir⟩ := (s.setDir line (s.leaseFor line n mode2).2).fillL2_line line n
    ⟨.l, s.outsideLine line, (s.leaseFor line n mode2).1, s.outsidePoison line⟩
  have hdirOf := State.dirOf_congr hdir (by rw [State.setDir, KMap.look_put_same]; rfl)
  rw [State.dirOf_setDir_same] at hdirOf
  rw [hdirOf]
  refine ⟨CohOnly.trans (t := s.setDir line (s.leaseFor line n mode2).2) rfl honly, hreqs, ?_, fun m hm => ?_, hle, howner⟩
  · rw [State.l2Line_fillL2, if_pos rfl]
  · rw [State.l2Line_fillL2, if_neg hm]
    rfl

end Lease

theorem CohOnly.cores {s t : State} (h : CohOnly s t) : t.cores = s.cores := by rw [h]
theorem CohOnly.homeNode {s t : State} (h : CohOnly s t) (line : Nat) : t.homeNode line = s.homeNode line := by rw [h]; rfl
theorem CohOnly.nodeValid {s t : State} (h : CohOnly s t) (n : Nat) : t.nodeValid n = s.nodeValid n := by rw [h]; rfl

/-! ## Reads served -/

section Serves
variable {s : State} {line n : Nat} {mode2 : Bool}

theorem exec_readShared_uncached (hr : s.headReq line = some ⟨line, n, .uncached, mode2⟩) (hs : s.homeServes line = true) :
    exec (.readShared line n) s = .next (s.answerReq ⟨line, n, .uncached, mode2⟩) := by
  show execReadShared line n s = _
  rw [execReadShared, hr]
  simp [hs]

theorem exec_readShared_home (hr : s.headReq line = some ⟨line, n, .readShared, mode2⟩) (hs : s.homeReadable line = true)
    (hn : n = s.homeNode line ∨ n = hostNode) :
    exec (.readShared line n) s = .next (s.answerReq ⟨line, n, .readShared, mode2⟩) := by
  show execReadShared line n s = _
  rw [execReadShared, hr]
  simp [hs, hn]

theorem exec_readShared_lease (hr : s.headReq line = some ⟨line, n, .readShared, mode2⟩) (hs : s.homeReadable line = true)
    (hn : ¬(n = s.homeNode line ∨ n = hostNode)) (hentry : (KMap.look s.coh.dir line).isSome = true) :
    exec (.readShared line n) s = .next ((s.answerReq ⟨line, n, .readShared, mode2⟩).grantLease line n mode2) := by
  show execReadShared line n s = _
  rw [execReadShared, hr]
  simp [hs, hn, State.dirRoom_of_entry hentry]

/-- A read of another node is served with a leased copy that the horizon covers. -/
theorem readShared_leases (hr : s.headReq line = some ⟨line, n, .readShared, mode2⟩) (hs : s.homeReadable line = true)
    (hn : ¬(n = s.homeNode line ∨ n = hostNode)) (hentry : (KMap.look s.coh.dir line).isSome = true) (hv : s.nodeValid n = true) :
    ∃ u t, exec (.readShared line n) s = .next u ∧ u.coh.reqs = s.coh.reqs.erase ⟨line, n, .readShared, mode2⟩ ∧ u.cores = s.cores ∧
      (((s.l2Slice n (s.homeSlice (64 * line))).contains line = true ∨
          (s.l2Slice n (s.homeSlice (64 * line))).length < s.l2Cap n (s.homeSlice (64 * line))) →
        u.mem = s.mem ∧ u.l2Line n line = some ⟨.l, s.outsideLine line, t, s.outsidePoison line⟩) ∧
      s.homeNow (s.homeNode line) < t ∧ t ≤ (u.dirOf line).h ∧ (u.dirOf line).owner = (s.dirOf line).owner := by
  let v := s.answerReq ⟨line, n, .readShared, mode2⟩
  have hentry' : (KMap.look v.coh.dir line).isSome = true := hentry
  have hv' : v.nodeValid n = true := hv
  obtain ⟨honly, hreqs, hcopy, -, hle, howner⟩ := v.grantLease_spec line n mode2 hentry' hv'
  refine ⟨_, _, exec_readShared_lease hr hs hn hentry, hreqs, CohOnly.cores honly, fun hroom => ⟨?_, hcopy⟩,
    (v.leaseFor_bounds line n mode2).1, hle, howner⟩
  rw [v.grantLease_eq line n mode2 hentry' hv', State.fillL2,
    State.l2Make_eq (s := v.setDir line (v.leaseFor line n mode2).2) (n := n) (line := line) hroom]
  rfl

end Serves

/-! ## Ownership granted (R249, R250) -/

/-- The line of one node, as the performing of writes that waited leaves it: the owner and the state of the copy stand. -/
structure State.PerformsAt (s u : State) (n line : Nat) : Prop where
  owner : (u.dirOf line).owner = (s.dirOf line).owner
  state : (u.l2Line n line).map (·.st) = (s.l2Line n line).map (·.st)
  reqs : u.coh.reqs = s.coh.reqs
  unperf : u.coh.unperf = s.coh.unperf

namespace State.PerformsAt
variable {s t u : State} {n line : Nat}

theorem refl (s : State) (n line : Nat) : s.PerformsAt s n line := ⟨rfl, rfl, rfl, rfl⟩

theorem trans (h : s.PerformsAt t n line) (g : t.PerformsAt u n line) : s.PerformsAt u n line :=
  ⟨g.owner.trans h.owner, g.state.trans h.state, g.reqs.trans h.reqs, g.unperf.trans h.unperf⟩

theorem setCopyPoison (s : State) (n line : Nat) (b : Bool) : s.PerformsAt (s.setCopyPoison n line b) n line := by
  unfold State.setCopyPoison
  split
  · cases b
    · exact ⟨rfl, rfl, rfl, rfl⟩
    · rw [if_pos rfl]
      unfold State.setPoison
      split
      · exact refl s n line
      · exact ⟨rfl, rfl, rfl, rfl⟩
  · split
    · next x hx => exact ⟨rfl, by rw [State.l2Line_setL2_same, hx]; rfl, rfl, rfl⟩
    · exact refl s n line

theorem outerWrote (s : State) (n line : Nat) : s.PerformsAt (s.outerWrote line) n line := by
  unfold State.outerWrote
  split
  · exact refl s n line
  · exact ⟨rfl, rfl, rfl, rfl⟩

theorem breakResv (s : State) (n line : Nat) (who : Option (Nat × Nat)) (p : Nat → Bool) :
    s.PerformsAt (s.breakResv line who p) n line := ⟨rfl, rfl, rfl, rfl⟩

theorem foldl {α : Type} (f : State → α → State) (h : ∀ (s : State) (x : α), s.PerformsAt (f s x) n line) (l : List α) (s : State) :
    s.PerformsAt (l.foldl f s) n line := by
  induction l generalizing s with
  | nil => exact refl s n line
  | cons a r ih => exact (h s a).trans (ih _)

end State.PerformsAt

/-- The writes of a node that waited for ownership perform. -/
theorem State.performs_waiting (s : State) (n line : Nat) (done : List Unperf) : s.PerformsAt
    (done.foldl (fun s u =>
      let s := match u.poison with | some b => s.setCopyPoison n line b | none => s
      s.breakResv line (some (u.core, u.thread)) (fun _ => true)) (if done.isEmpty then s else s.outerWrote line)) n line := by
  refine State.PerformsAt.trans ?_ (State.PerformsAt.foldl _ (fun s u => ?_) done _)
  · split
    · exact .refl s n line
    · exact .outerWrote s n line
  · refine State.PerformsAt.trans ?_ (State.PerformsAt.breakResv _ n line _ _)
    cases u.poison with
    | none => exact .refl s n line
    | some b => exact .setCopyPoison s n line b

theorem State.invalidateSharers_coh (s : State) (line : Nat) : (s.invalidateSharers line).coh.reqs = s.coh.reqs ∧
    (s.invalidateSharers line).coh.unperf = s.coh.unperf ∧ (s.invalidateSharers line).coh.dir = s.coh.dir := by
  unfold State.invalidateSharers
  split <;> exact ⟨rfl, rfl, rfl⟩

/-- The state after a grant's fill, with the node's writes to the line performed. -/
def State.performWaiting (s : State) (n line : Nat) : State :=
  let done := s.coh.unperf.filter (fun u => u.line = line && u.node = n)
  let s : State := { s with coh := { s.coh with unperf := s.coh.unperf.filter (fun u => !(u.line = line && u.node = n)) } }
  done.foldl (fun s u =>
    let s := match u.poison with | some b => s.setCopyPoison n line b | none => s
    s.breakResv line (some (u.core, u.thread)) (fun _ => true)) (if done.isEmpty then s else s.outerWrote line)

/-- A grant's fill in M and the writes that perform after it leave the node as the owner that the entry names. -/
theorem State.fill_performs (w : State) (n line : Nat) {x : L2Line} (hx : x.st = .m) :
    let u := (w.fillL2 n line x).performWaiting n line
    u.coh.reqs = w.coh.reqs ∧ (u.dirOf line).owner = (w.dirOf line).owner ∧ (u.l2Line n line).map (·.st) = some .m ∧
      u.coh.unperf = w.coh.unperf.filter (fun y => !(y.line = line && y.node = n)) := by
  obtain ⟨-, hreqs, hunperf, hdir⟩ := w.fillL2_line line n x
  have hcopy : (w.fillL2 n line x).l2Line n line = some x := by rw [State.l2Line_fillL2, if_pos rfl]
  generalize w.fillL2 n line x = v at hreqs hunperf hdir hcopy
  have h := State.performs_waiting { v with coh := { v.coh with
    unperf := v.coh.unperf.filter (fun u => !(u.line = line && u.node = n)) } } n line
    (v.coh.unperf.filter (fun u => u.line = line && u.node = n))
  refine ⟨h.reqs.trans hreqs, h.owner.trans (State.owner_congr hdir), h.state.trans ?_, h.unperf.trans ?_⟩
  · show (v.l2Line n line).map _ = _
    rw [hcopy, Option.map_some, hx]
  · show v.coh.unperf.filter _ = _
    rw [hunperf]

/-- A granted node holds the line in M as its owner, and none of its writes waits. -/
theorem State.grantOwn_readOwn {s : State} {line n : Nat} (hentry : (KMap.look s.coh.dir line).isSome = true)
    (hn : n ≠ s.homeNode line) :
    let u := s.grantOwn line n .readOwn
    u.coh.reqs = s.coh.reqs ∧ (u.dirOf line).owner = some n ∧ (u.l2Line n line).map (·.st) = some .m ∧
      u.coh.unperf = s.coh.unperf.filter (fun y => !(y.line = line && y.node = n)) := by
  obtain ⟨hreqs, hunperf, hdir⟩ := State.invalidateSharers_coh s line
  have hentry' : (KMap.look (s.invalidateSharers line).coh.dir line).isSome = true := by rw [hdir]; exact hentry
  unfold State.grantOwn
  dsimp only
  simp only [if_true, State.dirEvict_eq hentry', hn, decide_false, Bool.false_or]
  have hg := State.MovesLine.gather line (s.invalidateSharers line) (s.homeNode line)
  generalize (if (s.invalidateSharers line).pendingAt (s.homeNode line) line = true then s.invalidateSharers line
    else ((s.invalidateSharers line).collect (s.homeNode line) line).unregister (s.homeNode line) line) = v at hg ⊢
  have hvr : v.coh.reqs = s.coh.reqs := by rw [hg.coh]; exact hreqs
  have hvu : v.coh.unperf = s.coh.unperf := by rw [hg.coh]; exact hunperf
  have hwo : ((v.setDir line { v.dirOf line with k := 0, leased := [], owner := some n }).dirOf line).owner = some n := by
    rw [State.dirOf_setDir_same]
  have hwr : (v.setDir line { v.dirOf line with k := 0, leased := [], owner := some n }).coh.reqs = s.coh.reqs := hvr
  have hwu : (v.setDir line { v.dirOf line with k := 0, leased := [], owner := some n }).coh.unperf = s.coh.unperf := hvu
  generalize v.setDir line { v.dirOf line with k := 0, leased := [], owner := some n } = w at hwo hwr hwu ⊢
  rw [← hwr, ← hwo, ← hwu]
  cases w.l2Line n line with
  | none => exact w.fill_performs n line rfl
  | some x => exact w.fill_performs n line rfl

/-- A request for ownership of another node is granted. -/
theorem readOwn_grants {s : State} {line n : Nat} {mode2 : Bool} (hr : s.headReq line = some ⟨line, n, .readOwn, mode2⟩)
    (hc : s.canReadOwn line n = true) (hn : n ≠ s.homeNode line) (hentry : (KMap.look s.coh.dir line).isSome = true) :
    ∃ u, exec (.readOwn line n) s = .next u ∧ u.coh.reqs = s.coh.reqs.erase ⟨line, n, .readOwn, mode2⟩ ∧
      (u.dirOf line).owner = some n ∧ (u.l2Line n line).map (·.st) = some .m ∧
      u.coh.unperf = s.coh.unperf.filter (fun y => !(y.line = line && y.node = n)) := by
  refine ⟨(s.answerReq ⟨line, n, .readOwn, mode2⟩).grantOwn line n .readOwn, ?_, State.grantOwn_readOwn hentry hn⟩
  show execReadOwn line n s = _
  rw [execReadOwn, hr]
  simp [hc]

/-! ## Forwarded reads, recalls and evictions (R248, R251) -/

/-- An owner in M that supplies a line keeps it in O. -/
theorem State.forwardRead_of_m {s : State} {line m : Nat} {x : L2Line} (t : Tick) (hm : (s.dirOf line).owner = some m)
    (hx : s.l2Line m line = some x) (hst : x.st = .m) :
    ((s.forwardRead line t).l2Line m line).map (·.st) = some .o := by
  rw [State.forwardRead, hm]
  dsimp only
  rw [hx]
  dsimp only
  rw [if_neg (by rw [hst]; decide), State.l2Line_setL2_same]
  rfl

theorem State.headReq_of_canForward {s : State} {line n : Nat} (h : s.canForward line n = true) :
    ∃ r, s.headReq line = some r := by
  unfold State.canForward at h
  cases hr : s.headReq line with
  | none => rw [hr] at h; cases h
  | some r => exact ⟨r, rfl⟩

theorem exec_forwardedRead_not {s : State} {line n : Nat} (h : s.canForward line n = false) :
    exec (.forwardedRead line n) s = .next s := by
  show execForwardedRead line n s = _
  rw [execForwardedRead]
  cases s.headReq line with
  | none => rfl
  | some r => simp [h]

/-- A lease granted to another node leaves the threads and the copy of the owner, whether the reader's view is valid or not. -/
theorem State.grantLease_owner (s : State) {line n m : Nat} (mode2 : Bool) (hentry : (KMap.look s.coh.dir line).isSome = true)
    (hn : n ≠ m) : CohOnly s (s.grantLease line n mode2) ∧ (s.grantLease line n mode2).l2Line m line = s.l2Line m line := by
  by_cases hv : s.nodeValid n = true
  · obtain ⟨honly, -, -, hcopies, -⟩ := s.grantLease_spec line n mode2 hentry hv
    exact ⟨honly, hcopies m (Ne.symm hn)⟩
  · rw [State.grantLease, State.dirEvict_eq hentry]
    have hv' : ¬ (s.setDir line (s.leaseFor line n mode2).2).nodeValid n = true := hv
    dsimp only
    rw [if_neg hv']
    exact ⟨rfl, rfl⟩

/-- A forwarded read leaves an owner that held the line in M with it in O. -/
theorem forwardedRead_of_m {s : State} {line n m : Nat} {x : L2Line} (hm : (s.dirOf line).owner = some m)
    (hx : s.l2Line m line = some x) (hc : s.canForward line n = true) (hst : x.st = .m) (hn : n ≠ m) :
    ∃ u, exec (.forwardedRead line n) s = .next u ∧ (u.l2Line m line).map (·.st) = some .o ∧ u.cores = s.cores := by
  obtain ⟨r, hr⟩ := State.headReq_of_canForward hc
  have hexec : exec (.forwardedRead line n) s = .next (if n = s.homeNode line ∨ n = hostNode then s.forwardPlain line
      else if (s.forwardRead line (s.leaseFor line n r.mode2).1).homeReadable line
        then ((s.forwardRead line (s.leaseFor line n r.mode2).1).answerReq r).grantLease line n r.mode2
        else s.forwardRead line (s.leaseFor line n r.mode2).1) := by
    show execForwardedRead line n s = _
    rw [execForwardedRead, hr]
    simp [hc]
  rw [hexec]
  refine ⟨_, rfl, ?_⟩
  split
  · rw [State.forwardPlain, hm]
    exact ⟨State.forwardRead_of_m _ hm hx hst, (State.MovesLine.forwardRead line s _).only.cores⟩
  · have hmove := State.MovesLine.forwardRead line s (s.leaseFor line n r.mode2).1
    have hcopy := State.forwardRead_of_m (s.leaseFor line n r.mode2).1 hm hx hst
    have hentry := hmove.entry (State.isSome_of_owner hm)
    generalize s.forwardRead line (s.leaseFor line n r.mode2).1 = t at hmove hcopy hentry
    split
    · obtain ⟨honly, hother⟩ := (t.answerReq r).grantLease_owner r.mode2 hentry hn
      exact ⟨hother ▸ hcopy, honly.cores.trans hmove.only.cores⟩
    · exact ⟨hcopy, hmove.only.cores⟩

/-- The home takes a line back from its owner. -/
theorem recall_takes_back {s : State} {line m : Nat} {x : L2Line} (hm : (s.dirOf line).owner = some m)
    (hx : s.l2Line m line = some x) :
    ((s.recallLine line).dirOf line).owner = none ∧ (s.recallLine line).l2Line m line = none ∧
      (s.recallLine line).cores = s.cores ∧ (x.st = .m ∨ x.st = .o → (s.recallLine line).baseLine line = s.nodeLine m line) := by
  obtain ⟨howner, hcopy, hbase⟩ := State.recallLine_owner hm hx
  exact ⟨howner, hcopy, (State.MovesLine.recallLine line s).only.cores, hbase⟩

/-- A node other than the home holds a line in the states that a predicate admits. -/
theorem State.heldIn_eq {s : State} {line m : Nat} {x : L2Line} (hx : s.l2Line m line = some x) (hm : m ≠ s.homeNode line)
    (p : LineState → Bool) : s.heldIn line m p = p x.st := by
  rw [State.heldIn, hx]
  simp [hm]

theorem exec_writeBack_recalls {s : State} {line m : Nat} {x : L2Line} (hm : (s.dirOf line).owner = some m)
    (hx : s.l2Line m line = some x) (hh : m ≠ s.homeNode line) (hst : x.st = .m ∨ x.st = .o) :
    exec (.writeBack line m) s = .next (s.recallLine line) := by
  show execWriteBack line m s = _
  rw [execWriteBack, State.heldIn_eq hx hh, hm, if_pos (by simpa using hst)]

theorem exec_evictNotice_recalls {s : State} {line m : Nat} {x : L2Line} (hm : (s.dirOf line).owner = some m)
    (hx : s.l2Line m line = some x) (hh : m ≠ s.homeNode line) (hst : x.st = .e) :
    exec (.evictNotice line m) s = .next (s.recallLine line) := by
  show execEvictNotice line m s = _
  rw [execEvictNotice, State.heldIn_eq hx hh, hm, if_pos (by simpa using hst)]

theorem exec_evictNotice_drops {s : State} {line m : Nat} {x : L2Line} (hx : s.l2Line m line = some x)
    (hh : m ≠ s.homeNode line) (hst : x.st = .l) : exec (.evictNotice line m) s = .next (s.dropL2 m line) := by
  show execEvictNotice line m s = _
  rw [execEvictNotice, State.heldIn_eq hx hh, State.heldIn_eq hx hh, if_neg (by simp [hst]), if_pos (by simp [hst])]

theorem exec_leaseExpiry_eq {s : State} {line m : Nat} {x : L2Line} (hx : s.l2Line m line = some x) (hst : x.st = .l) :
    exec (.leaseExpiry m line) s = .next (if x.expiry ≤ s.homeNow m + 16 then s.dropL2 m line else s) := by
  show execLeaseExpiry m line s = _
  rw [execLeaseExpiry, hx]
  simp [hst]

/-- Settles O52: a clause for each move of a home, by the rule of the move. -/
theorem homesServe : Obligations.HomesServe := by
  intro s line n m mode2 x
  refine ⟨fun hr => ⟨?_, ?_, ?_⟩, exec_readShared_uncached, fun hr hs => ⟨exec_readShared_home hr hs, fun hn hh hentry hv =>
    readShared_leases hr hs (not_or.2 ⟨hn, hh⟩) hentry hv⟩, fun hr hc hn hentry => readOwn_grants hr hc hn hentry,
    fun hm hx => ⟨exec_forwardedRead_not, fun hc hst hn => forwardedRead_of_m hm hx hc hst hn, fun hc => ?_, fun hh hst => ?_,
      fun hh hst => ?_⟩, fun hx hst hh => ⟨?_, fun he => ?_, fun he => ?_⟩⟩
  · show execReadShared line n s = _
    rw [execReadShared, hr]
  · show execReadOwn line n s = _
    rw [execReadOwn, hr]
  · show execRecall line s = _
    rw [execRecall, State.canRecall, hr]
    rfl
  · refine ⟨s.recallLine line, ?_, recall_takes_back hm hx⟩
    show execRecall line s = _
    rw [execRecall, if_pos hc]
  · exact ⟨_, exec_writeBack_recalls hm hx hh hst, recall_takes_back hm hx⟩
  · exact ⟨_, exec_evictNotice_recalls hm hx hh hst, recall_takes_back hm hx⟩
  · exact ⟨_, exec_evictNotice_drops hx hh hst, State.l2Line_dropL2_same .., rfl, rfl⟩
  · exact ⟨_, (exec_leaseExpiry_eq hx hst).trans (congrArg _ (if_pos he)), State.l2Line_dropL2_same .., rfl⟩
  · exact (exec_leaseExpiry_eq hx hst).trans (congrArg _ (if_neg (Nat.not_le.2 he)))

end Sys2Proof.Machine

/-! PROOFS. Agents outside the device (R254 to R259): host accesses and snoops, the snoops and data of pools, and the accesses of
other packages. -/

namespace Sys2Proof.Machine

/-! ## Writes at a slice -/

/-- What a write at a slice leaves: the entries of the directory stand, and messages to the outside are only added. -/
structure State.WritesOn (s t : State) : Prop where
  dev : DevOnly s t
  out : ∃ l, t.hostOut = s.hostOut ++ l
  entry : ∀ k, (KMap.look s.coh.dir k).isSome = true → (KMap.look t.coh.dir k).isSome = true

namespace State.WritesOn
variable {s t u : State}

/-- Neither the directory nor the messages differ. -/
theorem of_same (h : DevOnly s t) (hout : t.hostOut = s.hostOut) (hdir : t.coh.dir = s.coh.dir) : s.WritesOn t :=
  ⟨h, ⟨[], by rw [hout, List.append_nil]⟩, fun k hk => by rw [hdir]; exact hk⟩

theorem refl (s : State) : s.WritesOn s := of_same (DevOnly.rfl' s) rfl rfl

theorem trans (h : s.WritesOn t) (g : t.WritesOn u) : s.WritesOn u := by
  obtain ⟨l, hl⟩ := h.out
  obtain ⟨m, hm⟩ := g.out
  exact ⟨h.dev.trans g.dev, ⟨l ++ m, by rw [hm, hl, List.append_assoc]⟩, fun k hk => g.entry k (h.entry k hk)⟩

theorem foldl {α : Type} (f : State → α → State) (h : ∀ (s : State) (x : α), s.WritesOn (f s x)) (l : List α) (s : State) :
    s.WritesOn (l.foldl f s) := by
  induction l generalizing s with
  | nil => exact refl s
  | cons a r ih => exact (h s a).trans (ih _)

theorem of_moves {line : Nat} (h : s.MovesLine line t) : s.WritesOn t :=
  ⟨h.only.dev, ⟨[], by rw [h.hostOut, List.append_nil]⟩, fun k hk => by
    by_cases e : k = line
    · rw [e] at hk ⊢
      exact h.entry hk
    · rw [h.dir k e]
      exact hk⟩

theorem putCells (s : State) (l : List Host.Cell) : s.WritesOn (s.putCells l) := by
  rw [State.putCells]
  exact foldl _ (fun s x => of_same (cohOnly_putByte s x.1 x.2).dev rfl rfl) l s

theorem setCopyCells (s : State) (n line : Nat) (c : List Host.Cell) : s.WritesOn (s.setCopyCells n line c) := by
  unfold State.setCopyCells
  split
  · exact putCells s _
  · exact of_moves (State.MovesLine.setCopy line s n _)

theorem endWords (s : State) (n line : Nat) (ws : List Nat) : s.WritesOn (s.endWords n line ws) := by
  unfold State.endWords
  dsimp only
  split
  · exact refl s
  · exact (of_moves (State.MovesLine.setCopy line s n _)).trans
      (foldl _ (fun s x => of_same (cohOnly_updL1 s _ _).dev rfl rfl) _ _)

theorem setDir (s : State) (line : Nat) (e : DirEntry) : s.WritesOn (s.setDir line e) := of_moves (State.MovesLine.setDir line s e)

theorem homeWrote (s : State) (line : Nat) : s.WritesOn (s.homeWrote line) := by
  have h : s.WritesOn (s.invalidateSharers line) := by
    refine ⟨(cohOnly_invalidateSharers s line).dev, ?_, fun k hk => ?_⟩
    · unfold State.invalidateSharers
      split
      · exact ⟨[], (List.append_nil _).symm⟩
      · exact ⟨_, rfl⟩
    · rw [(s.invalidateSharers_coh line).2.2]
      exact hk
  unfold State.homeWrote
  dsimp only
  split
  · exact h.trans (setDir _ line _)
  · exact h

theorem outerWrote (s : State) (line : Nat) : s.WritesOn (s.outerWrote line) := by
  refine of_same (cohOnly_outerWrote s line).dev ?_ ?_ <;> (unfold State.outerWrote; split <;> rfl)

theorem breakResv (s : State) (line : Nat) (who : Option (Nat × Nat)) (p : Nat → Bool) : s.WritesOn (s.breakResv line who p) :=
  of_same (devOnly_breakResv s line who p) rfl rfl

theorem copyToM (s : State) (n line : Nat) : s.WritesOn (match s.l2Line n line with
    | some x => if n ≠ s.homeNode line then s.setL2 n line { x with st := .m } else s
    | none => s) := by
  split
  · split
    · exact of_moves (State.MovesLine.setL2 line s n _)
    · exact refl s
  · exact refl s

theorem writeAtSlice (s : State) (n : Nat) (who : Option (Nat × Nat)) (c : List Host.Cell) : s.WritesOn (s.writeAtSlice n who c) := by
  unfold State.writeAtSlice
  dsimp only
  refine trans (trans (foldl _ (fun s l => ?_) _ s) (foldl _ (fun s l => setCopyCells s n l _) _ _))
    (foldl _ (fun s l => ((homeWrote s l).trans (outerWrote _ l)).trans (breakResv _ l who _)) _ _)
  split
  · exact refl s
  · refine trans ?_ (copyToM _ n l)
    split
    · exact refl s
    · exact endWords s n l _

end State.WritesOn

theorem CohOnly.target {s t : State} (h : CohOnly s t) (a : Nat) : t.target a = s.target a := by rw [h]; rfl
theorem DevOnly.homeNode {s t : State} (h : DevOnly s t) (line : Nat) : t.homeNode line = s.homeNode line := by rw [h.1]; rfl

/-- The poison of a line at its home. -/
theorem State.setCopyPoison_home (s : State) (line : Nat) (b : Bool) :
    (s.setCopyPoison (s.homeNode line) line b).poison.contains line = b ∧
      (s.setCopyPoison (s.homeNode line) line b).mem = s.mem ∧ (s.setCopyPoison (s.homeNode line) line b).coh = s.coh ∧
      (s.setCopyPoison (s.homeNode line) line b).hostOut = s.hostOut := by
  rw [State.setCopyPoison, if_pos (by simp)]
  cases b
  · exact ⟨s.contains_clearPoison line, rfl, rfl, rfl⟩
  · refine ⟨s.contains_setPoison line, s.mem_setPoison line, s.coh_setPoison line, ?_⟩
    show (s.setPoison line).hostOut = _
    unfold State.setPoison
    split <;> rfl

/-! ## Host accesses of device memory (R254) -/

section Host
variable {s : State} {line : Nat}

theorem State.cores_hostGrant (s : State) (line : Nat) (h : HostShare) : (s.hostGrant line h).cores = s.cores := rfl

/-- A host read that takes the line. -/
theorem hostMemrd_takes (hl : s.isLocal line = true) (hu : s.hostUp = true) (ho : s.hostOwnReady line = true)
    (hentry : (KMap.look s.coh.dir line).isSome = true) :
    let g := (s.answerReq (hostReq line true)).gatherForHost line
    ∃ u, exec (.hostMemrd line 2) s = .next u ∧ (u.dirOf line).host = .a ∧ (u.dirOf line).owner = none ∧
      u.hostOut = s.hostOut ++ [.memData line (g.outsideLine line) (g.outsidePoison line)] ∧ u.cores = s.cores := by
  intro g
  have hg : (s.answerReq (hostReq line true)).MovesLine line g := State.MovesLine.gatherForHost line _
  have hexec : exec (.hostMemrd line 2) s = .next (((g.supply line).setDir line
      { (g.supply line).dirOf line with k := 0, leased := [], owner := none }).hostGrant line .a) := by
    show execHostMemrd line 2 s = _
    have he : g.dirEvict line = g := State.dirEvict_eq (hg.entry hentry)
    have hroom := State.dirRoom_of_entry hentry
    rw [execHostMemrd]
    simp only [hl, hu, ho, hroom, Bool.not_true, Bool.or_self, Bool.and_false, Bool.false_eq_true, if_false, if_true]
    rw [he]
  refine ⟨_, hexec, ?_, ?_, ?_, (State.cores_hostGrant _ line .a).trans hg.only.cores⟩
  · rw [State.hostGrant, State.dirOf_setDir_same]
  · rw [State.hostGrant, State.dirOf_setDir_same]
    exact congrArg DirEntry.owner (State.dirOf_setDir_same ..)
  · show g.hostOut ++ _ = _
    rw [hg.hostOut]
    rfl

/-- The bytes of a whole line. -/
theorem maskCells_allOnes (data : BitVec 512) :
    maskCells line data (BitVec.allOnes 64) = (upTo 64).map (fun i => (64 * line + i, data.extractLsb' (8 * i) 8)) := by
  rw [maskCells, List.filter_eq_self.2]
  intro i hi
  rw [BitVec.getLsbD_allOnes]
  exact decide_eq_true (List.mem_range.1 hi)

/-- The bytes of a line that a mask selects. -/
theorem maskCells_eq (data : BitVec 512) (mask : BitVec 64) : maskCells line data mask =
    ((upTo 64).map (fun i => (64 * line + i, data.extractLsb' (8 * i) 8))).filter (fun b => mask.getLsbD (b.1 % 64)) := by
  rw [maskCells, List.filter_map]
  refine congrArg _ (List.filter_congr fun i hi => ?_)
  have hlt : i < 64 := List.mem_range.1 hi
  rw [Function.comp_apply, Nat.mul_add_mod, Nat.mod_eq_of_lt hlt]

/-- A host write performs at the home, and ends the host's hold. -/
theorem hostMemwr_performs (data : BitVec 512) (bad : Bool) (hl : s.isLocal line = true) (hu : s.hostUp = true)
    (ho : s.hostOwnReady line = true) (hentry : (KMap.look s.coh.dir line).isSome = true) :
    let g := (s.answerReq (hostReq line true)).gatherForHost line
    ∃ u, exec (.hostMemwr line ⟨data, bad⟩ 0) s = .next u ∧ u.poison.contains line = bad ∧ (u.dirOf line).host = .none ∧
      u.mem = (g.writeAtSlice (s.homeNode line) none
        ((upTo 64).map (fun i => (64 * line + i, data.extractLsb' (8 * i) 8)))).mem := by
  intro g
  have hg : (s.answerReq (hostReq line true)).MovesLine line g := State.MovesLine.gatherForHost line _
  have hgh : g.homeNode line = s.homeNode line := hg.only.homeNode line
  have hw := State.WritesOn.writeAtSlice g (s.homeNode line) none (maskCells line data (BitVec.allOnes 64))
  have hwh := hw.dev.homeNode line
  have hwe := hw.entry line (hg.entry hentry)
  rw [← maskCells_allOnes data]
  have hexec : exec (.hostMemwr line ⟨data, bad⟩ 0) s = .next (
      let v := (g.writeAtSlice (s.homeNode line) none (maskCells line data (BitVec.allOnes 64))).setCopyPoison (s.homeNode line) line bad
      if (KMap.look v.coh.dir line).isSome then v.setDir line { v.dirOf line with host := .none } else v) := by
    show execHostMemwr line ⟨data, bad⟩ 0 s = _
    rw [execHostMemwr, ← hgh]
    simp only [hl, hu, ho, Bool.not_true, Bool.or_self, Bool.true_or, Bool.false_eq_true, if_false, decide_true, Bool.true_and]
    rfl
  refine ⟨_, hexec, ?_⟩
  generalize g.writeAtSlice (s.homeNode line) none (maskCells line data (BitVec.allOnes 64)) = w at hwh hwe ⊢
  rw [← hgh, ← hwh]
  obtain ⟨hpoison, hmem, hcoh, -⟩ := w.setCopyPoison_home line bad
  dsimp only
  rw [if_pos (by rw [hcoh]; exact hwe)]
  exact ⟨hpoison, congrArg DirEntry.host (State.dirOf_setDir_same ..), hmem⟩

/-! ## The host's answers to snoops (R254) -/

theorem exec_birsp_none (inv : Bool) (h : s.coh.snoops.any (fun p => p.1 = line) = false) : exec (.birsp line inv) s = .next s := by
  have hf : s.coh.snoops.find? (fun p => p.1 = line) = none := by
    rw [List.find?_eq_none]
    intro p hp hq
    rw [List.any_eq_false] at h
    exact h p hp hq
  show execBirsp line inv s = _
  rw [execBirsp, hf]

theorem birsp_ends (inv own : Bool) (h : s.coh.snoops.find? (fun p => p.1 = line) = some (line, own))
    (hentry : (KMap.look s.coh.dir line).isSome = true) :
    ∃ u, exec (.birsp line inv) s = .next u ∧ u.coh.snoops = s.coh.snoops.filter (fun p => p.1 ≠ line) ∧ u.mem = s.mem ∧
      (u.dirOf line).host = (if inv || !own then .none else .s) := by
  have hexec : ∃ v : State, exec (.birsp line inv) s = .next (v.setDir line { v.dirOf line with host := if inv || !own then .none else .s }) ∧
      v.coh.snoops = s.coh.snoops.filter (fun p => p.1 ≠ line) ∧ v.mem = s.mem := by
    show ∃ v : State, execBirsp line inv s = _ ∧ _
    rw [execBirsp, h]
    dsimp only
    rw [if_pos hentry]
    exact ⟨_, rfl, rfl, rfl⟩
  obtain ⟨v, hexec, hsnoops, hmem⟩ := hexec
  exact ⟨_, hexec, hsnoops, hmem, congrArg DirEntry.host (State.dirOf_setDir_same ..)⟩

/-! ## Snoops of host lines (R255) -/

theorem State.hostOut_snoopNodes (s : State) (line : Nat) (inv : Bool) : (s.snoopNodes line inv).hostOut = s.hostOut := by
  unfold State.snoopNodes
  cases inv
  · dsimp only
    rw [if_neg (by decide), (State.MovesLine.collect line _ _).hostOut]
    split
    · split
      · exact (State.MovesLine.forwardPlain line s).hostOut
      · rfl
    · rfl
  · exact (State.MovesLine.gatherForHost line s).hostOut

theorem exec_hostSnp_none (ht : s.target (64 * line) = .host) (hx : KMap.look s.coh.outer line = none) :
    ∀ i ∈ ([.hostSnpinv line, .hostSnpdata line] : List Instr),
      exec i s = .next { s with hostOut := s.hostOut ++ [.snoopRsp line 0 none false] } := by
  intro i hi
  rcases List.mem_cons.1 hi with rfl | hi
  · show execHostSnpinv line s = _
    rw [execHostSnpinv, hx, if_neg (not_not.2 ht)]
    rfl
  · obtain rfl := List.mem_singleton.1 hi
    show execHostSnpdata line s = _
    rw [execHostSnpdata, hx, if_neg (not_not.2 ht)]
    rfl

/-- An invalidation of a host line ends the device's hold on it. -/
theorem hostSnpinv_ends {x : OuterLine} (ht : s.target (64 * line) = .host) (hx : KMap.look s.coh.outer line = some x)
    (hp : s.horizonPast line = true) : ∃ u, exec (.hostSnpinv line) s = .next u ∧ KMap.look u.coh.outer line = none ∧
      u.hostOut = s.hostOut ++ [.snoopRsp line (if x.st = .m then 1 else 3) (if x.st = .m then some (u.baseLine line) else none)
        (decide (x.st = .m) && u.poison.contains line)] := by
  let v := s.snoopNodes line true
  have hexec : exec (.hostSnpinv line) s = .next (
      let w : State := { v with coh := { v.coh with outer := KMap.del v.coh.outer line } }
      if x.st = .m then w.snoopAnswer line 1 true else w.snoopAnswer line 3 false) := by
    show execHostSnpinv line s = _
    rw [execHostSnpinv, hx, if_neg (not_not.2 ht)]
    simp only [hp, Bool.not_true, Bool.false_eq_true, if_false]
    rfl
  have hv : v.hostOut = s.hostOut := s.hostOut_snoopNodes line true
  refine ⟨_, hexec, ?_⟩
  rw [← hv]
  dsimp only
  by_cases hm : x.st = .m
  · rw [if_pos hm, if_pos hm, if_pos hm, decide_eq_true hm]
    exact ⟨KMap.look_del_same .., rfl⟩
  · rw [if_neg hm, if_neg hm, if_neg hm, decide_eq_false hm]
    exact ⟨KMap.look_del_same .., rfl⟩

/-- A snoop for the data of a host line leaves the device a shared copy. -/
theorem hostSnpdata_shares {x : OuterLine} (ht : s.target (64 * line) = .host) (hx : KMap.look s.coh.outer line = some x) :
    ∃ u, exec (.hostSnpdata line) s = .next u ∧ KMap.look u.coh.outer line = some ⟨.s⟩ ∧
      u.hostOut = s.hostOut ++ [.snoopRsp line (if x.st = .m then 2 else 4) (if x.st = .m then some (u.baseLine line) else none)
        (decide (x.st = .m) && u.poison.contains line)] := by
  let v := s.snoopNodes line false
  have hexec : exec (.hostSnpdata line) s = .next (
      let w : State := { v with coh := { v.coh with outer := KMap.put v.coh.outer line ⟨.s⟩ } }
      if x.st = .m then w.snoopAnswer line 2 true else w.snoopAnswer line 4 false) := by
    show execHostSnpdata line s = _
    rw [execHostSnpdata, hx, if_neg (not_not.2 ht)]
  have hv : v.hostOut = s.hostOut := s.hostOut_snoopNodes line false
  refine ⟨_, hexec, ?_⟩
  rw [← hv]
  dsimp only
  by_cases hm : x.st = .m
  · rw [if_pos hm, if_pos hm, if_pos hm, decide_eq_true hm]
    exact ⟨KMap.look_put_same .., rfl⟩
  · rw [if_neg hm, if_neg hm, if_neg hm, decide_eq_false hm]
    exact ⟨KMap.look_put_same .., rfl⟩

/-! ## Data from outside (R255, R256) -/

/-- Does the internal home hold an outside line in M? -/
def State.outerHeld (s : State) (line : Nat) : Bool :=
  match KMap.look s.coh.outer line with | some x => decide (x.st = LineState.m) | none => false

theorem State.outerHeld_of_look {x : OuterLine} (hx : KMap.look s.coh.outer line = some x) :
    s.outerHeld line = decide (x.st = .m) := by rw [State.outerHeld, hx]

theorem State.outerHeld_iff : s.outerHeld line = true ↔ KMap.look s.coh.outer line = some ⟨.m⟩ := by
  unfold State.outerHeld
  cases KMap.look s.coh.outer line with
  | none => simp
  | some x =>
    obtain ⟨st⟩ := x
    simp

/-- Data that arrive fill the line at its home, with room made for it. -/
theorem State.outerFill_eq (s : State) (line : Nat) (data : BitVec 512) (bad own : Bool) :
    s.outerFill line data bad own = (
      let v := s.l2Make (s.homeNode line) line
      let w : State := { v with coh := { v.coh with
        outerReqs := v.coh.outerReqs.filter (fun q => !(q.line = line && (own || !q.own)))
        outer := if v.outerHeld line then v.coh.outer else KMap.put v.coh.outer line ⟨if own then .e else .s⟩ } }
      if (v.dirOf line).owner.isNone && !v.outerHeld line then w.setBaseBit line data bad else w) := rfl

/-- Data that arrive make the home hold the line, unless it holds it in M. -/
theorem State.outerFill_spec (s : State) (line : Nat) (data : BitVec 512) (bad own : Bool) :
    let u := s.outerFill line data bad own
    u.coh.outerReqs = s.coh.outerReqs.filter (fun q => !(q.line = line && (own || !q.own))) ∧
      (KMap.look s.coh.outer line = some ⟨.m⟩ → KMap.look u.coh.outer line = some ⟨.m⟩) ∧
      (KMap.look s.coh.outer line ≠ some ⟨.m⟩ → KMap.look u.coh.outer line = some ⟨if own then .e else .s⟩ ∧
        ((s.dirOf line).owner = none → u.baseLine line = data ∧ u.poison.contains line = bad)) := by
  have h := State.KeepsLine.l2Make line s (s.homeNode line)
  rw [← h.outerReqs, ← h.outer, ← State.owner_congr h.dir, State.outerFill_eq]
  generalize s.l2Make (s.homeNode line) line = v
  have hcoh (c : Bool) (w : State) : (if c = true then w.setBaseBit line data bad else w).coh = w.coh := by
    split
    · exact State.coh_setBaseBit ..
    · rfl
  dsimp only
  rw [hcoh]
  refine ⟨rfl, fun hm => ?_, fun hm => ?_⟩
  · rw [if_pos (State.outerHeld_iff.2 hm)]
    exact hm
  · have hheld : v.outerHeld line = false := Bool.eq_false_iff.2 fun e => hm (State.outerHeld_iff.1 e)
    refine ⟨?_, fun hn => ?_⟩
    · rw [if_neg (by simp [hheld])]
      exact KMap.look_put_same ..
    · rw [if_pos (by rw [hn, hheld]; rfl)]
      exact ⟨State.baseLine_setBaseBit .., State.poison_setBaseBit ..⟩

theorem exec_cxlDataResponse_fills {r : OuterReq} (data : BitVec 512) (bad : Bool)
    (hr : s.coh.outerReqs.find? (fun q => q.line = line) = some r) (hd : s.isDomain line = false) :
    exec (.cxlDataResponse line data bad) s = .next (s.outerFill line data bad r.own) := by
  show execCxlDataResponse line data bad s = _
  rw [execCxlDataResponse, hr]
  simp [hd]

theorem exec_cxlDataResponse_write (data : BitVec 512) (bad : Bool)
    (hr : s.coh.outerReqs.find? (fun q => q.line = line) = none) :
    (s.coh.writes.find? (fun q => q.line = line) = none → exec (.cxlDataResponse line data bad) s = .next s) ∧
      (∀ r, s.coh.writes.find? (fun q => q.line = line) = some r →
        exec (.cxlDataResponse line data bad) s = .next { s with coh := { s.coh with writes := s.coh.writes.erase r } }) := by
  refine ⟨fun hw => ?_, fun r hw => ?_⟩ <;>
  · show execCxlDataResponse line data bad s = _
    rw [execCxlDataResponse, hr]
    simp only [hw]

/-! ## Snoops of pool lines (R257) -/

/-- The answer to a pool's snoop. -/
def State.poolAnswered (s : State) (line code : Nat) : State :=
  { s with coh := { s.coh with conflicts := s.coh.conflicts.filter (· ≠ line) }, hostOut := s.hostOut ++ [.birsp line code] }

theorem exec_poolBisnp_absent (inv : Bool) (hp : s.coh.presence.contains (line / 1024) = false) :
    exec (.poolBisnp line inv) s = .next (s.poolAnswered line 0) := by
  show execPoolBisnp line inv s = _
  rw [execPoolBisnp, hp]
  rfl

/-- A snoop that meets a request for its line waits, with one BIConflict. -/
theorem poolBisnp_conflicts (inv : Bool) (hp : s.coh.presence.contains (line / 1024) = true)
    (hr : s.coh.outerReqs.any (fun q => q.line = line) = true) :
    ∃ u, exec (.poolBisnp line inv) s = .next u ∧ u.waiting = s.waiting ++ [.event (.poolBisnp line inv)] ∧
      u.coh.outer = s.coh.outer ∧ u.mem = s.mem ∧
      u.hostOut = s.hostOut ++ (if s.coh.conflicts.contains line then [] else [.biConflict line]) := by
  have hexec : exec (.poolBisnp line inv) s = .next (s.snoopConflict line inv) := by
    show execPoolBisnp line inv s = _
    rw [execPoolBisnp, hp, hr]
    rfl
  refine ⟨_, hexec, ?_⟩
  unfold State.snoopConflict
  dsimp only
  split
  · exact ⟨rfl, rfl, rfl, (List.append_nil _).symm⟩
  · exact ⟨rfl, rfl, rfl, rfl⟩

theorem exec_poolBisnp_unheld (inv : Bool) (hp : s.coh.presence.contains (line / 1024) = true)
    (hr : s.coh.outerReqs.any (fun q => q.line = line) = false) (hx : KMap.look s.coh.outer line = none) :
    exec (.poolBisnp line inv) s = .next (s.poolAnswered line 0) := by
  show execPoolBisnp line inv s = _
  rw [execPoolBisnp, hp, hr, hx]
  rfl

theorem State.writeSent_same (s : State) (sent : Bool) (line : Nat) :
    (s.writeSent sent line).hostOut = s.hostOut ∧ (s.writeSent sent line).coh.outer = s.coh.outer := by
  unfold State.writeSent
  split <;> exact ⟨rfl, rfl⟩

/-- What an outside line given up sends. -/
def State.gaveUp (g : State) (line : Nat) : List HostMsg :=
  if g.outerHeld line then [.outerWrite line (g.baseLine line) (BitVec.allOnes 64) (g.poison.contains line) none]
  else if g.target (64 * line) = .host then
    [.cleanEvict line (match KMap.look g.coh.outer line with | some x => decide (x.st = LineState.s) | none => true)]
  else []

theorem State.giveUpOuter_eq (s : State) (line : Nat) : s.giveUpOuter line = (
    let g := s.gatherForHost line
    ({ g with coh := { g.coh with outer := KMap.del g.coh.outer line }, hostOut := g.hostOut ++ g.gaveUp line } : State).writeSent
      (g.outerHeld line) line) := rfl

/-- A pool line given up: nothing is sent unless it was in M. -/
theorem State.giveUpOuter_pool (s : State) {port : Nat} {x : OuterLine} (hx : KMap.look s.coh.outer line = some x)
    (ht : s.target (64 * line) = .pool port) : ∃ l, (s.giveUpOuter line).hostOut = s.hostOut ++ l ∧ (x.st ≠ .m → l = []) ∧
      KMap.look (s.giveUpOuter line).coh.outer line = none := by
  have hg := State.MovesLine.gatherForHost line s
  have hgx : KMap.look (s.gatherForHost line).coh.outer line = some x := by rw [hg.coh]; exact hx
  have hgt : (s.gatherForHost line).target (64 * line) = .pool port := (hg.only.target _).trans ht
  rw [State.giveUpOuter_eq, ← hg.hostOut]
  dsimp only
  obtain ⟨hout, houter⟩ := State.writeSent_same ({ s.gatherForHost line with
    coh := { (s.gatherForHost line).coh with outer := KMap.del (s.gatherForHost line).coh.outer line }
    hostOut := (s.gatherForHost line).hostOut ++ (s.gatherForHost line).gaveUp line } : State) ((s.gatherForHost line).outerHeld line) line
  rw [hout, houter]
  refine ⟨_, rfl, fun hm => ?_, KMap.look_del_same ..⟩
  rw [State.gaveUp, State.outerHeld_of_look hgx, decide_eq_false hm, hgt]
  rfl

/-- An invalidating snoop of a pool ends the device's hold on the line. -/
theorem poolBisnp_ends {port : Nat} {x : OuterLine} (hp : s.coh.presence.contains (line / 1024) = true)
    (hr : s.coh.outerReqs.any (fun q => q.line = line) = false) (hx : KMap.look s.coh.outer line = some x)
    (ht : s.target (64 * line) = .pool port) (hz : s.horizonPast line = true) :
    ∃ u l, exec (.poolBisnp line true) s = .next u ∧ KMap.look u.coh.outer line = none ∧
      u.hostOut = s.hostOut ++ l ++ [.birsp line 0] ∧ (x.st ≠ .m → l = []) := by
  have hexec : exec (.poolBisnp line true) s =
      .next (((s.breakResv line none (fun _ => true)).giveUpOuter line).poolAnswered line 0) := by
    show execPoolBisnp line true s = _
    rw [execPoolBisnp, hp, hr, hx]
    simp only [hz, Bool.not_true, Bool.false_eq_true, if_false, if_true]
    rfl
  obtain ⟨l, hout, hl, houter⟩ := (s.breakResv line none (fun _ => true)).giveUpOuter_pool hx ht
  exact ⟨_, l, hexec, houter, congrArg (· ++ _) hout, hl⟩

/-- A snoop of a pool for data leaves the device a shared copy. -/
theorem poolBisnp_shares {x : OuterLine} (hp : s.coh.presence.contains (line / 1024) = true)
    (hr : s.coh.outerReqs.any (fun q => q.line = line) = false) (hx : KMap.look s.coh.outer line = some x) :
    ∃ u l, exec (.poolBisnp line false) s = .next u ∧ KMap.look u.coh.outer line = some ⟨.s⟩ ∧
      u.hostOut = s.hostOut ++ l ++ [.birsp line 1] ∧ (x.st ≠ .m → l = []) := by
  let v := s.snoopNodes line false
  let out : List HostMsg :=
    if x.st = .m then [.outerWrite line (v.baseLine line) (BitVec.allOnes 64) (v.poison.contains line) none] else []
  let w : State := { v with coh := { v.coh with outer := KMap.put v.coh.outer line ⟨.s⟩ }, hostOut := v.hostOut ++ out }
  have hexec : exec (.poolBisnp line false) s = .next ((w.writeSent (decide (x.st = .m)) line).poolAnswered line 1) := by
    show execPoolBisnp line false s = _
    rw [execPoolBisnp, hp, hr, hx]
    rfl
  obtain ⟨hout, houter⟩ := w.writeSent_same (decide (x.st = .m)) line
  refine ⟨_, out, hexec, ?_, ?_, fun hm => if_neg hm⟩
  · show KMap.look (w.writeSent _ line).coh.outer line = _
    rw [houter]
    exact KMap.look_put_same ..
  · show (w.writeSent _ line).hostOut ++ _ = _
    rw [hout]
    show v.hostOut ++ out ++ _ = _
    rw [s.hostOut_snoopNodes line false]

/-! ## Accesses of other packages (R258, R259, R261) -/

section Packages
variable (pkg : Nat) (data : BitVec 512) (bad : Bool)

/-- A write of another package performs at the home of a local line. -/
theorem zelasWrite_performs (mask : BitVec 64) (hl : s.isLocal line = true) (ha : s.agentReady line none = true) :
    ∃ u, exec (.zelasRemoteAccess pkg line (.write mask) bad data) s = .next u ∧
      u.mem = (s.writeAtSlice (s.homeNode line) none (((upTo 64).map (fun i => (64 * line + i, data.extractLsb' (8 * i) 8))).filter
        (fun b => mask.getLsbD (b.1 % 64)))).mem ∧
      (mask = BitVec.allOnes 64 ∨ bad = true → u.poison.contains line = bad) := by
  have hexec : exec (.zelasRemoteAccess pkg line (.write mask) bad data) s =
      .next ((s.writeAtSlice (s.homeNode line) none (maskCells line data mask)).remotePoison line mask bad) := by
    show execZelasRemoteAccess pkg line (.write mask) bad data s = _
    rw [execZelasRemoteAccess]
    simp [hl, ha, State.domainServes]
  rw [← maskCells_eq]
  refine ⟨_, hexec, ?_⟩
  generalize s.writeAtSlice (s.homeNode line) none (maskCells line data mask) = w
  obtain ⟨hpoison, hmem, -, -⟩ := w.setCopyPoison_home line bad
  unfold State.remotePoison
  by_cases hm : mask = BitVec.allOnes 64 ∨ bad = true
  · rw [if_pos (by simpa using hm)]
    exact ⟨hmem, fun _ => hpoison⟩
  · rw [if_neg (by simpa using hm)]
    exact ⟨rfl, fun h => absurd h hm⟩

/-- An atomic of another package performs at the home of a local line and answers the old value. -/
theorem zelasAtomic_performs (off : Nat) (sz : Size) (op : AtomOp) (v : Word) (hl : s.isLocal line = true)
    (ha : s.agentReady line none = true) (hp : s.outsidePoison line = false) :
    let b := sizeBytes sz
    let old := ((s.outsideLine line).extractLsb' (8 * off) (8 * b)).toNat
    ∃ u l, exec (.zelasRemoteAccess pkg line (.atom off sz op v) bad data) s = .next u ∧
      u.hostOut = s.hostOut ++ l ++ [.atomicData pkg line (BitVec.ofNat 64 old) false] ∧
      u.mem = (s.writeAtSlice (s.homeNode line) none ((leBytes b (atomNew op (8 * b) old (v.toNat % 2 ^ (8 * b))).1).mapIdx
        (fun i y => (64 * line + off + i, y)))).mem := by
  intro b old
  let cells : List Host.Cell := (leBytes b (atomNew op (8 * b) old (v.toNat % 2 ^ (8 * b))).1).mapIdx (fun i y => (64 * line + off + i, y))
  have hcells : cells.isEmpty = false := by
    have hlen : cells.length = sizeBytes sz := by simp [cells, b]
    have hpos := sizeBytes_pos sz
    cases hc : cells with
    | nil => rw [hc] at hlen; simp at hlen; omega
    | cons => rfl
  let w := s.writeAtSlice (s.homeNode line) none cells
  have hexec : exec (.zelasRemoteAccess pkg line (.atom off sz op v) bad data) s =
      .next { w with hostOut := w.hostOut ++ [.atomicData pkg line (BitVec.ofNat 64 old) false] } := by
    show execZelasRemoteAccess pkg line (.atom off sz op v) bad data s = _
    rw [execZelasRemoteAccess]
    have hserve : s.domainServes pkg line (.atom off sz op v) bad data =
        (let t : State := if cells.isEmpty then s else w
         { t with hostOut := t.hostOut ++ [.atomicData pkg line (BitVec.ofNat 64 old) false] }) := by
      simp only [State.domainServes, remoteUpdate, hp, Bool.false_eq_true, if_false]
      rfl
    simp [hl, ha, hserve, hcells]
  obtain ⟨l, hout⟩ := (State.WritesOn.writeAtSlice s (s.homeNode line) none cells).out
  exact ⟨_, l, hexec, congrArg (· ++ _) hout, rfl⟩

/-- A sharer is recorded by its package, or with the whole domain. -/
theorem addSharer_any (l : List Nat) : (addSharer l pkg).any (fun p => p = pkg || p = 1024) = true := by
  unfold addSharer
  split
  · next h =>
    rcases Bool.or_eq_true_iff.1 h with h | h
    · exact List.any_eq_true.2 ⟨1024, List.contains_iff_mem.1 h, by simp⟩
    · exact List.any_eq_true.2 ⟨pkg, List.contains_iff_mem.1 h, by simp⟩
  · split <;> simp

/-- A read of another package is answered, and its package is recorded as a sharer. -/
theorem zelasRead_shares (hl : s.isLocal line = true) (hr : s.homeReadable line = true) :
    ∃ u, exec (.zelasRemoteAccess pkg line .read bad data) s = .next u ∧ u.mem = s.mem ∧
      u.hostOut = s.hostOut ++ [.memData line (s.outsideLine line) (s.outsidePoison line)] ∧
      (KMap.lookD u.coh.sharers line []).any (fun p => p = pkg || p = 1024) = true := by
  have hexec : exec (.zelasRemoteAccess pkg line .read bad data) s = .next (s.domainServes pkg line .read bad data) := by
    show execZelasRemoteAccess pkg line .read bad data s = _
    rw [execZelasRemoteAccess]
    simp [hl, hr]
  refine ⟨_, hexec, rfl, rfl, ?_⟩
  rw [show (s.domainServes pkg line .read bad data).coh.sharers =
    KMap.alter s.coh.sharers line [] (fun l => addSharer l pkg) from rfl, KMap.lookD_alter_same]
  exact addSharer_any pkg _

/-- Another package acknowledges a write: none of the line's writes waits. -/
theorem zelasWrite_acknowledged (mask : BitVec 64) (hl : s.isLocal line = false) (hd : s.isDomain line = true) :
    ∃ u, exec (.zelasRemoteAccess pkg line (.write mask) bad data) s = .next u ∧ u.mem = s.mem ∧
      u.coh.unperf = s.coh.unperf.filter (fun y => y.line ≠ line) := by
  have hexec : exec (.zelasRemoteAccess pkg line (.write mask) bad data) s =
      .next (s.domainAnswers line (.write mask) bad data) := by
    show execZelasRemoteAccess pkg line (.write mask) bad data s = _
    rw [execZelasRemoteAccess]
    simp [hl, hd]
  exact ⟨_, hexec, rfl, rfl⟩

end Packages

theorem exec_zelasInvalidate_other (hd : s.isDomain line = false) : exec (.zelasInvalidate line) s = .next s := by
  show execZelasInvalidate line s = _
  rw [execZelasInvalidate, hd]
  rfl

/-- An invalidation by another package ends every copy of its line here. -/
theorem zelasInvalidate_ends (hd : s.isDomain line = true) (node w : Nat) :
    ∃ u, exec (.zelasInvalidate line) s = .next u ∧ KMap.look u.coh.outer line = none ∧ u.mem = s.mem ∧
      u.l2Line node line = none ∧ (∀ c, w / 16 = line → u.l1Word c w = none) ∧ u.hostOut = s.hostOut ++ [.zelasAck line] := by
  let v := s.breakResv line none (fun _ => true)
  let u : State := { v with
    coh := { v.coh with
      outer := KMap.del v.coh.outer line
      l1 := KMap.mapVals v.coh.l1 (fun m => m.filter (fun q => q.1 / 16 ≠ line))
      l2 := KMap.mapVals v.coh.l2 (fun m => KMap.del m line) }
    hostOut := v.hostOut ++ [.zelasAck line] }
  have hexec : exec (.zelasInvalidate line) s = .next u := by
    show execZelasInvalidate line s = _
    rw [execZelasInvalidate, hd]
    rfl
  refine ⟨u, hexec, KMap.look_del_same .., rfl, ?_, fun c hw => ?_, rfl⟩
  · show KMap.look (KMap.lookD (KMap.mapVals _ _) node []) line = none
    rw [KMap.lookD, KMap.look_mapVals_eq_map]
    cases KMap.look v.coh.l2 node with
    | none => rfl
    | some m => exact KMap.look_del_same ..
  · show KMap.look (KMap.lookD (KMap.mapVals _ _) c []) w = none
    rw [KMap.lookD, KMap.look_mapVals_eq_map]
    cases KMap.look v.coh.l1 c with
    | none => rfl
    | some m =>
      show KMap.look (m.filter _) w = none
      rw [KMap.look_filter_keys m (fun k => decide (k / 16 ≠ line)) w, if_neg (by simpa using hw)]

end Host

/-- Settles O53: a clause for each access and snoop, by its rule. -/
theorem outsideAgents : Obligations.OutsideAgents := by
  intro s line pkg node w port off data mask bad own inv x r sz op v
  refine ⟨fun hl hu ho hentry => ⟨hostMemrd_takes hl hu ho hentry, hostMemwr_performs data bad hl hu ho hentry⟩,
    exec_birsp_none inv, birsp_ends inv own, fun ht => ⟨exec_hostSnp_none ht, fun hx => ⟨hostSnpinv_ends ht hx,
      hostSnpdata_shares ht hx⟩⟩, fun hr => ⟨(exec_cxlDataResponse_write data bad hr).1, (exec_cxlDataResponse_write data bad hr).2 r⟩,
    fun hr hd => ⟨_, exec_cxlDataResponse_fills data bad hr hd, s.outerFill_spec line data bad r.own⟩, exec_poolBisnp_absent inv,
    fun hp => ⟨poolBisnp_conflicts inv hp, fun hr => ⟨exec_poolBisnp_unheld inv hp hr, fun hx ht hz => poolBisnp_ends hp hr hx ht hz,
      poolBisnp_shares hp hr⟩⟩, fun hl => ⟨fun ha => ⟨zelasWrite_performs pkg data bad mask hl ha,
        zelasAtomic_performs pkg data bad off sz op v hl ha⟩, zelasRead_shares pkg data bad hl⟩,
    zelasWrite_acknowledged pkg data bad mask, exec_zelasInvalidate_other, fun hd => zelasInvalidate_ends hd node w⟩

end Sys2Proof.Machine

/-! PROOFS. Ranges, packages and ports that fail (R254, R258, R263). -/

namespace Sys2Proof.Machine

/-! ## The error log (R265) -/

/-- What error records leave: links, failed packages, coherence, and every register but ELG_LOST. -/
structure State.LogsOnly (s t : State) : Prop where
  coh : t.coh = s.coh
  links : t.links = s.links
  failed : t.failed = s.failed
  regs : ∀ n i, RegName.offset n i ≠ RegName.elgLost.offset 0 → t.reg n i = s.reg n i

namespace State.LogsOnly

theorem refl (s : State) : s.LogsOnly s := ⟨rfl, rfl, rfl, fun _ _ _ => rfl⟩

theorem trans {s t u : State} (h : s.LogsOnly t) (g : t.LogsOnly u) : s.LogsOnly u :=
  ⟨g.coh.trans h.coh, g.links.trans h.links, g.failed.trans h.failed, fun n i hn => (g.regs n i hn).trans (h.regs n i hn)⟩

theorem foldl {α : Type} (f : State → α → State) (h : ∀ (s : State) (x : α), s.LogsOnly (f s x)) (l : List α) (s : State) :
    s.LogsOnly (l.foldl f s) := by
  induction l generalizing s with
  | nil => exact refl s
  | cons a r ih => exact (h s a).trans (ih _)

/-- A record written to the ring. -/
theorem written (s : State) (a : Nat) (w : List Nat) (e : Elog) (h : List HostMsg) :
    s.LogsOnly { s.putWords a w with elog := e, hostOut := h } := by
  obtain ⟨m, hm⟩ := putWords_eq s a w
  rw [hm]
  exact ⟨rfl, rfl, rfl, fun _ _ _ => rfl⟩

theorem logError (s : State) (src kind unit addr count : Nat) : s.LogsOnly (s.logError src kind unit addr count) := by
  unfold State.logError
  dsimp only
  split
  · exact ⟨rfl, rfl, rfl, fun n i hn => State.reg_setReg_other (n := .elgLost) (i := 0) _ _ hn⟩
  · exact trans (t := { s with elog := { s.elog with seq := s.elog.seq + 1 } }) ⟨rfl, rfl, rfl, fun _ _ _ => rfl⟩
      (written _ _ _ _ _)

theorem logDiscard (s : State) (line : Nat) : s.LogsOnly (s.logDiscard line) := by
  unfold State.logDiscard
  split
  · exact logError ..
  · exact logError ..
  · exact refl s

end State.LogsOnly

/-! ## Lines that fail (R263) -/

/-- Coherence with nothing held or waited for of the lines that p selects. -/
def Coh.cleared (x : Coh) (p : Nat → Bool) : Coh :=
  { x with
    unperf := x.unperf.filter (fun u => !p u.line)
    reqs := x.reqs.filter (fun r => !p r.line)
    outerReqs := x.outerReqs.filter (fun r => !p r.line)
    writes := x.writes.filter (fun r => !p r.line)
    outer := x.outer.filter (fun q => !p q.1)
    dir := x.dir.filter (fun q => !p q.1)
    l1 := KMap.mapVals x.l1 (fun m => m.filter (fun q => !p (q.1 / 16)))
    l2 := KMap.mapVals x.l2 (fun m => m.filter (fun q => !p q.1)) }

/-- The failure of lines: the records of what is lost, then nothing of the lines is left. -/
theorem State.failLines_eq (s : State) (unit : Nat) (p : Nat → Bool) :
    ∃ v, s.LogsOnly v ∧ s.failLines unit p = { v with coh := v.coh.cleared p } :=
  ⟨_, (State.LogsOnly.foldl _ State.LogsOnly.logDiscard _ _).trans (State.LogsOnly.foldl _ (fun s l => .logError s 10 5 unit (64 * l) 1) _ _), rfl⟩

/-- Nothing of a line that p selects is left. -/
theorem Coh.cleared_spec (x : Coh) {p : Nat → Bool} {line : Nat} (hp : p line = true) :
    (x.cleared p).unperf.any (fun y => y.line = line) = false ∧ (x.cleared p).reqs.any (fun y => y.line = line) = false ∧
      (x.cleared p).outerReqs.any (fun y => y.line = line) = false ∧ KMap.look (x.cleared p).outer line = none ∧
      KMap.look (x.cleared p).dir line = none ∧ (∀ m, KMap.look (KMap.lookD (x.cleared p).l2 m []) line = none) ∧
      ∀ c w, w / 16 = line → KMap.look (KMap.lookD (x.cleared p).l1 c []) w = none := by
  have hany {α : Type} (l : List α) (g : α → Nat) : (l.filter (fun y => !p (g y))).any (fun y => g y = line) = false := by
    rw [List.any_eq_false]
    intro y hy he
    have hn := (List.mem_filter.1 hy).2
    rw [of_decide_eq_true he, hp] at hn
    cases hn
  have hlook {α : Type} (m : KMap α) (k : Nat) (f : Nat → Nat) (hk : f k = line) :
      KMap.look (m.filter (fun q => !p (f q.1))) k = none := by
    rw [KMap.look_filter_keys m (fun i => !p (f i)) k, hk, hp]
    rfl
  refine ⟨hany _ _, hany _ _, hany _ _, hlook _ line id rfl, hlook _ line id rfl, fun m => ?_, fun c w hw => ?_⟩
  · show KMap.look (KMap.lookD (KMap.mapVals x.l2 _) m []) line = none
    rw [KMap.lookD, KMap.look_mapVals_eq_map]
    cases KMap.look x.l2 m with
    | none => rfl
    | some y => exact hlook y line id rfl
  · show KMap.look (KMap.lookD (KMap.mapVals x.l1 _) c []) w = none
    rw [KMap.lookD, KMap.look_mapVals_eq_map]
    cases KMap.look x.l1 c with
    | none => rfl
    | some y => exact hlook y w (· / 16) hw

/-! ## Ranges (R263) -/

section Range
variable (s : State) (i : Nat)

/-- Is the page one of the range? -/
def State.inRange (page : Nat) : Bool := s.regBits .cxpPmbase i 51 16 ≤ page && page ≤ s.regBits .cxpPmctl i 51 16

/-- Does the failure of a range change nothing? -/
def State.rangeStands : Prop := 64 ≤ i ∨ bitOf (s.regN .cxpPmctl i) 0 = false ∨ s.rangeFailed i = true

theorem State.failRange_stands (h : s.rangeStands i) : s.failRange i = s := by
  unfold State.failRange
  rw [if_pos]
  rcases h with h | h | h <;> simp [h]

/-- A range that fails: FAILED is set, the records are written, and nothing of its lines and pages is left. -/
theorem State.failRange_fails (h : ¬ s.rangeStands i) : ∃ v, (s.setRegBit .cxpPmctl i 1).LogsOnly v ∧
    s.failRange i = { v with coh := { v.coh.cleared (fun l => s.inRange i (l / 1024)) with
      presence := v.coh.presence.filter (fun pg => !s.inRange i pg) } } := by
  have hn : ¬ ((decide (i ≥ 64) || !bitOf (s.regN .cxpPmctl i) 0 || s.rangeFailed i) = true) := fun e => h (by
    simp only [Bool.or_eq_true, decide_eq_true_eq, Bool.not_eq_true'] at e
    unfold State.rangeStands
    tauto)
  obtain ⟨v, hv, he⟩ := ((s.setRegBit .cxpPmctl i 1).logError 10 4 (errUnit 0 i) (65536 * s.regBits .cxpPmbase i 51 16) 1).failLines_eq
    (errUnit 0 i) (fun l => s.inRange i (l / 1024))
  refine ⟨v, (State.LogsOnly.logError ..).trans hv, ?_⟩
  unfold State.failRange
  rw [if_neg hn]
  simp only [State.inRange] at he ⊢
  rw [he]
  rfl

end Range

section RangeClauses
variable {s : State} {i : Nat}

/-- What a range that fails leaves of its lines and its filter entries. -/
theorem State.failRange_spec (h : ¬ s.rangeStands i) {line c w m : Nat} :
    (s.failRange i).rangeFailed i = true ∧ (s.failRange i).coh.presence = s.coh.presence.filter (fun pg => !s.inRange i pg) ∧
      (s.inRange i (line / 1024) = true → (s.failRange i).coh.unperf.any (fun y => y.line = line) = false ∧
        (s.failRange i).coh.reqs.any (fun y => y.line = line) = false ∧
        (s.failRange i).coh.outerReqs.any (fun y => y.line = line) = false ∧ KMap.look (s.failRange i).coh.outer line = none ∧
        KMap.look (s.failRange i).coh.dir line = none ∧ (s.failRange i).l2Line m line = none ∧
        (w / 16 = line → (s.failRange i).l1Word c w = none)) := by
  obtain ⟨v, hv, he⟩ := s.failRange_fails i h
  have hi : i < 64 := Nat.lt_of_not_le fun hle => h (Or.inl hle)
  have hoff : RegName.cxpPmctl.offset i ≠ RegName.elgLost.offset 0 := by simp [RegName.offset, RegName.info]; omega
  rw [he]
  refine ⟨?_, ?_, fun hp => ?_⟩
  · show bitOf (v.reg .cxpPmctl i).toNat 1 = true
    rw [hv.regs .cxpPmctl i hoff, bitOf_toNat]
    exact State.getLsbD_reg_setRegBit s .cxpPmctl i 1 (by decide) (by decide)
  · show v.coh.presence.filter _ = _
    rw [hv.coh]
    rfl
  · obtain ⟨hu, hr, ho, hout, hdir, hl2, hl1⟩ := v.coh.cleared_spec (p := fun l => s.inRange i (l / 1024)) hp
    exact ⟨hu, hr, ho, hout, hdir, hl2 m, hl1 c w⟩

/-- A failing range leaves the links, and the registers of every other range with its own but FAILED. -/
structure State.FailsRanges (s t : State) : Prop where
  links : t.links = s.links
  base : ∀ j < 64, t.reg .cxpPmbase j = s.reg .cxpPmbase j
  valid : ∀ j < 64, bitOf (t.regN .cxpPmctl j) 0 = bitOf (s.regN .cxpPmctl j) 0
  failed : ∀ j < 64, s.rangeFailed j = true → t.rangeFailed j = true

theorem State.FailsRanges.refl (s : State) : s.FailsRanges s := ⟨rfl, fun _ _ => rfl, fun _ _ => rfl, fun _ _ h => h⟩

theorem State.FailsRanges.trans {s t u : State} (h : s.FailsRanges t) (g : t.FailsRanges u) : s.FailsRanges u :=
  ⟨g.links.trans h.links, fun j hj => (g.base j hj).trans (h.base j hj), fun j hj => (g.valid j hj).trans (h.valid j hj),
    fun j hj hf => g.failed j hj (h.failed j hj hf)⟩

/-- A sticky bit set leaves the other bits that are not reserved. -/
theorem State.getLsbD_reg_setRegBit_other (s : State) (n : RegName) (i b k : Nat) (hk : k < 64) (hm : n.info.mask.testBit k = true) :
    ((s.setRegBit n i b).reg n i).getLsbD k = ((s.reg n i).getLsbD k || (BitVec.ofNat 64 (2 ^ b)).getLsbD k) := by
  rw [State.setRegBit, State.reg_setReg_same, BitVec.getLsbD_and, BitVec.getLsbD_or, BitVec.getLsbD_ofNat (x := n.info.mask)]
  simp [hk, hm]

theorem State.failsRanges_failRange (s : State) (i : Nat) : s.FailsRanges (s.failRange i) := by
  by_cases h : s.rangeStands i
  · rw [s.failRange_stands i h]
    exact .refl s
  · obtain ⟨v, hv, he⟩ := s.failRange_fails i h
    have hctl (j : Nat) (hj : j < 64) : v.reg .cxpPmctl j = (s.setRegBit .cxpPmctl i 1).reg .cxpPmctl j :=
      hv.regs .cxpPmctl j (by simp [RegName.offset, RegName.info]; omega)
    have hother (j : Nat) (hj : j ≠ i) : (s.setRegBit .cxpPmctl i 1).reg .cxpPmctl j = s.reg .cxpPmctl j :=
      State.reg_setReg_other s _ (by simp [RegName.offset, RegName.info]; omega)
    rw [he]
    refine ⟨hv.links, fun j hj => ?_, fun j hj => ?_, fun j hj hf => ?_⟩
    · exact (hv.regs .cxpPmbase j (by simp [RegName.offset, RegName.info]; omega)).trans
        (State.reg_setReg_other s _ (by simp [RegName.offset, RegName.info]; omega))
    · show bitOf (v.reg .cxpPmctl j).toNat 0 = bitOf (s.reg .cxpPmctl j).toNat 0
      rw [hctl j hj, bitOf_toNat, bitOf_toNat]
      by_cases hji : j = i
      · subst hji
        rw [State.getLsbD_reg_setRegBit_other s .cxpPmctl j 1 0 (by decide) (by decide)]
        simp
      · rw [hother j hji]
    · show bitOf (v.reg .cxpPmctl j).toNat 1 = true
      rw [hctl j hj, bitOf_toNat]
      by_cases hji : j = i
      · subst hji
        exact State.getLsbD_reg_setRegBit s .cxpPmctl j 1 (by decide) (by decide)
      · rw [hother j hji, ← bitOf_toNat]
        exact hf

/-- A range with V = 1 has failed once its failure has been taken. -/
theorem State.rangeFailed_failRange (hi : i < 64) (hv : bitOf (s.regN .cxpPmctl i) 0 = true) : (s.failRange i).rangeFailed i = true := by
  by_cases h : s.rangeStands i
  · rw [s.failRange_stands i h]
    rcases h with h | h | h
    · omega
    · rw [hv] at h; cases h
    · exact h
  · exact (State.failRange_spec h (line := 0) (c := 0) (w := 0) (m := 0)).1

/-- The failure of the ranges of a port among a list. -/
def State.failRangesOf (s : State) (port : Nat) (l : List Nat) : State :=
  l.foldl (fun s i => if s.regBits .cxpPmbase i 2 0 = port then s.failRange i else s) s

theorem State.failRangesOf_cons (s : State) (port i : Nat) (l : List Nat) : s.failRangesOf port (i :: l) =
    (if s.regBits .cxpPmbase i 2 0 = port then s.failRange i else s).failRangesOf port l := rfl

/-- Every valid range of the port fails, and the links stand. -/
theorem State.failRangesOf_spec (port : Nat) (l : List Nat) (s : State) : s.FailsRanges (s.failRangesOf port l) ∧
    ∀ j ∈ l, j < 64 → s.regBits .cxpPmbase j 2 0 = port → bitOf (s.regN .cxpPmctl j) 0 = true →
      (s.failRangesOf port l).rangeFailed j = true := by
  induction l generalizing s with
  | nil => exact ⟨.refl s, fun _ h => absurd h List.not_mem_nil⟩
  | cons i l ih =>
    have hstep : s.FailsRanges (if s.regBits .cxpPmbase i 2 0 = port then s.failRange i else s) := by
      split
      · exact s.failsRanges_failRange i
      · exact .refl s
    obtain ⟨hkeep, hfail⟩ := ih (if s.regBits .cxpPmbase i 2 0 = port then s.failRange i else s)
    rw [State.failRangesOf_cons]
    refine ⟨hstep.trans hkeep, fun j hj hlt hp hv => ?_⟩
    rcases List.mem_cons.1 hj with rfl | hj
    · refine hkeep.failed j hlt ?_
      rw [if_pos hp]
      exact State.rangeFailed_failRange hlt hv
    · refine hfail j hj hlt ?_ ((hstep.valid j hlt).trans hv)
      rw [State.regBits, State.regN, hstep.base j hlt]
      exact hp

/-! ## Ports (R254, R258, R263) -/

/-- A CXL port that goes down stays down while its ranges fail. -/
theorem State.cxlDown_links (s : State) (port : Nat) : KMap.look (s.cxlDown port).links.cxl port = some 0 := by
  unfold State.cxlDown
  dsimp only
  split
  · exact KMap.look_put_same ..
  · refine (congrArg (fun x : Links => KMap.look x.cxl port) (State.failRangesOf_spec (port - 2) (upTo 64) _).1.links).trans ?_
    exact KMap.look_put_same ..

/-- A pool port that goes down fails its ranges. -/
theorem poolPortDown_fails {port : Nat} (hp : port < 8) : ∃ u, exec (.poolPortDown port) s = .next u ∧
    KMap.look u.links.cxl (port + 2) = some 0 ∧
    ∀ j < 64, s.regBits .cxpPmbase j 2 0 = port → bitOf (s.regN .cxpPmctl j) 0 = true → u.rangeFailed j = true := by
  have hexec : exec (.poolPortDown port) s = .next (s.cxlDown (port + 2)) := by
    show execPoolPortDown port s = _
    rw [execPoolPortDown, if_neg (by omega)]
  refine ⟨_, hexec, s.cxlDown_links _, fun j hj hb hv => ?_⟩
  have hge : ¬ (port + 2 < 2) := by omega
  unfold State.cxlDown
  dsimp only
  rw [if_neg hge]
  exact (State.failRangesOf_spec (port + 2 - 2) (upTo 64) _).2 j (List.mem_range.2 hj) hj hb hv

/-- A write of CXP_PMCTL, bit by bit. -/
theorem cxpPmctlWrite_bits (v : Word) (hi : i < 64) : ∃ u, exec (.cxpPmctlWrite i v) s = .next u ∧ u.mem = s.mem ∧ u.coh = s.coh ∧
    ∀ b, (u.reg .cxpPmctl i).getLsbD b = (RegName.cxpPmctl.info.mask.testBit b &&
      (if b = 1 then (s.reg .cxpPmctl i).getLsbD 1 && v.getLsbD 1
        else if (s.reg .cxpPmctl i).getLsbD 0 then (s.reg .cxpPmctl i).getLsbD b else v.getLsbD b)) := by
  let old := s.reg .cxpPmctl i
  let new : Word := ((if bitOf old.toNat 0 then old else v) &&& ~~~2) ||| (old &&& 2 &&& v)
  have hexec : exec (.cxpPmctlWrite i v) s = .next (s.setReg .cxpPmctl i new) := by
    show execCxpPmctlWrite i v s = _
    rw [execCxpPmctlWrite, if_neg (by omega)]
    dsimp only [new]
    split <;> rfl
  refine ⟨_, hexec, rfl, rfl, fun b => ?_⟩
  have htwo : (2 : Word).getLsbD b = decide (b = 1) := by
    rw [show (2 : Word) = BitVec.twoPow 64 1 from rfl, BitVec.getLsbD_twoPow]
    by_cases hb : b = 1
    · simp [hb]
    · simp [hb, Ne.symm hb]
  have hlt (x : Word) : x.getLsbD b = (decide (b < 64) && x.getLsbD b) := by
    by_cases hb : b < 64
    · simp [hb]
    · simp [hb, BitVec.getLsbD_of_ge _ _ (Nat.le_of_not_lt hb)]
  rw [State.reg_setReg_same, BitVec.getLsbD_and, BitVec.getLsbD_ofNat, BitVec.getLsbD_or, BitVec.getLsbD_and, BitVec.getLsbD_not,
    BitVec.getLsbD_and, BitVec.getLsbD_and, htwo, bitOf_toNat]
  by_cases hb : b = 1
  · subst hb
    simp [old, Bool.and_comm]
  · have hb64 : b < 64 ∨ RegName.cxpPmctl.info.mask.testBit b = false := by
      by_cases h : b < 64
      · exact .inl h
      · exact .inr (Nat.testBit_lt_two_pow (Nat.lt_of_lt_of_le (show RegName.cxpPmctl.info.mask < 2 ^ 64 by decide)
          (Nat.pow_le_pow_right (by decide) (Nat.le_of_not_lt h))))
    rcases hb64 with h | h
    · simp only [hb, h, decide_true, decide_false, Bool.not_false, Bool.and_true, Bool.true_and, Bool.and_false, Bool.false_and,
        Bool.or_false, if_false, old]
      rw [Bool.and_comm]
      split <;> rfl
    · simp [h]

theorem exec_linkUp_zelas {port : Nat} (hge : 10 ≤ port) (hlt : port < 34) (hz : KMap.lookD s.links.zelas (port - 10) 0 ≠ 2) :
    exec (.linkUp port) s = .next { s with links := { s.links with zelas := KMap.put s.links.zelas (port - 10) 1 } } := by
  show execLinkUp port s = _
  rw [execLinkUp, if_neg (by omega), if_pos (by simp [hlt, hz])]

end RangeClauses

/-! ## Zelas ports lost for good (R258, R263) -/

/-- A Zelas port out of the route of one package, which fails where its route becomes empty. -/
def State.leaveRoute (s : State) (port n : Nat) : State :=
  let t := s.setRegN .zlkRoute n (s.regN .zlkRoute n - 2 ^ port)
  if s.regN .zlkRoute n - 2 ^ port = 0 && n ≠ t.regN .zlkId then t.failPackage n else t

/-- What the failure of a package leaves: the links and every register but ELG_LOST; failed packages stay so. -/
structure State.FailsPackages (s t : State) : Prop where
  links : t.links = s.links
  failed : ∀ j, s.failed.contains j = true → t.failed.contains j = true
  regs : ∀ n i, RegName.offset n i ≠ RegName.elgLost.offset 0 → t.reg n i = s.reg n i

theorem State.failPackage_spec (s : State) (pkg : Nat) :
    s.FailsPackages (s.failPackage pkg) ∧ (s.failPackage pkg).failed.contains pkg = true := by
  unfold State.failPackage
  split
  · next h => exact ⟨⟨rfl, fun _ h => h, fun _ _ _ => rfl⟩, h⟩
  · let t : State := { s with failed := s.failed ++ [pkg] }
    obtain ⟨v, hv, he⟩ := (t.logError 8 4 (errUnit 0 pkg) (64 * domainLine pkg) 1).failLines_eq (errUnit 0 pkg)
      (fun l => decide (domainLine pkg ≤ l) && decide (l < domainLine (pkg + 1)))
    have hlog := (State.LogsOnly.logError t 8 4 (errUnit 0 pkg) (64 * domainLine pkg) 1).trans hv
    dsimp only
    rw [he]
    refine ⟨⟨hlog.links, fun j hj => ?_, hlog.regs⟩, ?_⟩
    · show v.failed.contains j = true
      rw [hlog.failed]
      exact List.contains_iff_mem.2 (List.mem_append_left _ (List.contains_iff_mem.1 hj))
    · show v.failed.contains pkg = true
      rw [hlog.failed]
      exact List.contains_iff_mem.2 (List.mem_append_right _ (List.mem_singleton_self _))

/-- A number with a bit set has it clear once the bit's weight is taken away. -/
theorem bitOf_sub_two_pow {x i : Nat} (h : bitOf x i = true) : bitOf (x - 2 ^ i) i = false := by
  have hodd : x / 2 ^ i % 2 = 1 := of_decide_eq_true h
  have hsub : (x - 2 ^ i) / 2 ^ i = x / 2 ^ i - 1 := by
    have := Nat.sub_mul_div x (2 ^ i) 1
    rwa [Nat.mul_one] at this
  rw [bitOf, hsub]
  exact decide_eq_false (by omega)

section Route
variable (port : Nat)

/-- The registers of other routes and the package's own number stand; what has failed has failed. -/
structure State.LeavesRoutes (s t : State) (l : List Nat) : Prop where
  links : t.links = s.links
  failed : ∀ j, s.failed.contains j = true → t.failed.contains j = true
  own : t.reg .zlkId = s.reg .zlkId
  other : ∀ j < 1024, j ∉ l → t.reg .zlkRoute j = s.reg .zlkRoute j

theorem State.leaveRoute_spec (s : State) {n : Nat} (hn : n < 1024) (hb : bitOf (s.regN .zlkRoute n) port = true) :
    s.LeavesRoutes (s.leaveRoute port n) [n] ∧ bitOf ((s.leaveRoute port n).regN .zlkRoute n) port = false ∧
      (s.regN .zlkRoute n = 2 ^ port → n ≠ s.regN .zlkId → (s.leaveRoute port n).failed.contains n = true) := by
  have hsame : bitOf ((s.setRegN .zlkRoute n (s.regN .zlkRoute n - 2 ^ port)).regN .zlkRoute n) port = false := by
    have hclear := bitOf_sub_two_pow hb
    rw [State.regN, State.setRegN, State.reg_setReg_same, bitOf_toNat, BitVec.getLsbD_and, BitVec.getLsbD_ofNat,
      ← bitOf_eq_testBit, hclear, Bool.and_false, Bool.false_and]
  have hown : (s.setRegN .zlkRoute n (s.regN .zlkRoute n - 2 ^ port)).reg .zlkId = s.reg .zlkId :=
    State.reg_setReg_other s _ (by simp [RegName.offset, RegName.info]; omega)
  have hother (j : Nat) (hj : j ∉ [n]) : (s.setRegN .zlkRoute n (s.regN .zlkRoute n - 2 ^ port)).reg .zlkRoute j = s.reg .zlkRoute j :=
    State.reg_setReg_other s _ (by simp [RegName.offset, RegName.info] at hj ⊢; omega)
  unfold State.leaveRoute
  dsimp only
  have hid : (s.setRegN .zlkRoute n (s.regN .zlkRoute n - 2 ^ port)).regN .zlkId = s.regN .zlkId := congrArg BitVec.toNat hown
  rw [hid]
  generalize hx : s.regN .zlkRoute n - 2 ^ port = x at hsame hown hother ⊢
  have hkeep : s.LeavesRoutes (s.setRegN .zlkRoute n x) [n] := ⟨rfl, fun _ h => h, hown, fun j _ hj => hother j hj⟩
  split
  · obtain ⟨hpkg, hfailed⟩ := (s.setRegN .zlkRoute n x).failPackage_spec n
    have hroute (j : Nat) (hj : j < 1024) : ((s.setRegN .zlkRoute n x).failPackage n).reg .zlkRoute j =
        (s.setRegN .zlkRoute n x).reg .zlkRoute j := hpkg.regs .zlkRoute j (by simp [RegName.offset, RegName.info]; omega)
    refine ⟨⟨hpkg.links, hpkg.failed, (hpkg.regs .zlkId 0 (by simp [RegName.offset, RegName.info])).trans hown,
      fun j hj hjn => (hroute j hj).trans (hother j hjn)⟩, ?_, fun _ _ => hfailed⟩
    rw [State.regN, hroute n hn]
    exact hsame
  · next hc =>
    refine ⟨hkeep, hsame, fun he hne => absurd ?_ hc⟩
    have hx0 : x = 0 := by omega
    simp [hx0, hne]

/-- A port out of the routes of a list of packages. -/
theorem State.leaveRoutes_spec (l : List Nat) (hnd : l.Nodup) (s : State)
    (hl : ∀ n ∈ l, n < 1024 ∧ bitOf (s.regN .zlkRoute n) port = true) :
    s.LeavesRoutes (l.foldl (fun s n => s.leaveRoute port n) s) l ∧ ∀ n ∈ l,
      bitOf ((l.foldl (fun s n => s.leaveRoute port n) s).regN .zlkRoute n) port = false ∧
      (s.regN .zlkRoute n = 2 ^ port → n ≠ s.regN .zlkId → (l.foldl (fun s n => s.leaveRoute port n) s).failed.contains n = true) := by
  induction l generalizing s with
  | nil => exact ⟨⟨rfl, fun _ h => h, rfl, fun _ _ _ => rfl⟩, fun _ h => absurd h List.not_mem_nil⟩
  | cons a l ih =>
    obtain ⟨hal, hnd⟩ := List.nodup_cons.1 hnd
    obtain ⟨ha, hb⟩ := hl a List.mem_cons_self
    obtain ⟨hstep, hclear, hfail⟩ := s.leaveRoute_spec port ha hb
    have hreg (n : Nat) (hn : n ∈ l) : (s.leaveRoute port a).reg .zlkRoute n = s.reg .zlkRoute n :=
      hstep.other n (hl n (List.mem_cons_of_mem _ hn)).1 (by simpa using fun e : n = a => hal (e ▸ hn))
    obtain ⟨hrest, hthere⟩ := ih hnd (s.leaveRoute port a) fun n hn => ⟨(hl n (List.mem_cons_of_mem _ hn)).1, by
      rw [State.regN, hreg n hn]
      exact (hl n (List.mem_cons_of_mem _ hn)).2⟩
    rw [List.foldl_cons]
    refine ⟨⟨hrest.links.trans hstep.links, fun j hj => hrest.failed j (hstep.failed j hj), hrest.own.trans hstep.own,
      fun j hj hjl => ?_⟩, fun n hn => ?_⟩
    · obtain ⟨hja, hjl⟩ := not_or.1 (fun h => hjl (List.mem_cons.2 h))
      exact (hrest.other j hj hjl).trans (hstep.other j hj (by simpa using hja))
    · rcases List.mem_cons.1 hn with rfl | hn
      · refine ⟨?_, fun he hne => hrest.failed n (hfail he hne)⟩
        rw [State.regN, hrest.other n ha hal]
        exact hclear
      · obtain ⟨hclear, hfail⟩ := hthere n hn
        refine ⟨hclear, fun he hne => hfail ?_ ?_⟩
        · rw [State.regN, hreg n hn]
          exact he
        · rw [State.regN, hstep.own]
          exact hne

/-- A Zelas port lost for good leaves every route, and a package whose route becomes empty fails. -/
theorem zelasPortLoss_leaves {s : State} (hp : port < 24) : ∃ u, exec (.zelasPortLoss port) s = .next u ∧
    KMap.look u.links.zelas port = some 2 ∧ ∀ j < 1024, bitOf (u.regN .zlkRoute j) port = false ∧
      (s.regN .zlkRoute j = 2 ^ port → j ≠ s.regN .zlkId → u.failed.contains j = true) := by
  have hlog := State.LogsOnly.logError s 8 2 (errUnit 12 port) 0 1
  let t : State := { s.logError 8 2 (errUnit 12 port) 0 1 with
    links := { (s.logError 8 2 (errUnit 12 port) 0 1).links with zelas := KMap.put (s.logError 8 2 (errUnit 12 port) 0 1).links.zelas port 2 } }
  have hroute (j : Nat) (hj : j < 1024) : t.regN .zlkRoute j = s.regN .zlkRoute j :=
    congrArg BitVec.toNat (hlog.regs .zlkRoute j (by simp [RegName.offset, RegName.info]; omega))
  have hid : t.regN .zlkId = s.regN .zlkId :=
    congrArg BitVec.toNat (hlog.regs .zlkId 0 (by simp [RegName.offset, RegName.info]))
  let hit := (upTo 1024).filter (fun n => bitOf (t.regN .zlkRoute n) port)
  have hexec : exec (.zelasPortLoss port) s = .next (hit.foldl (fun s n => s.leaveRoute port n) t) := by
    show execZelasPortLoss port s = _
    rw [execZelasPortLoss, if_neg (by omega)]
    rfl
  obtain ⟨hkeep, hout⟩ := t.leaveRoutes_spec port hit (List.nodup_range.filter _) fun n hn =>
    ⟨List.mem_range.1 (List.mem_filter.1 hn).1, (List.mem_filter.1 hn).2⟩
  refine ⟨_, hexec, ?_, fun j hj => ?_⟩
  · rw [hkeep.links]
    exact KMap.look_put_same ..
  · rw [← hroute j hj, ← hid]
    by_cases hb : bitOf (t.regN .zlkRoute j) port = true
    · exact hout j (List.mem_filter.2 ⟨List.mem_range.2 hj, hb⟩)
    · refine ⟨?_, fun he => absurd ?_ hb⟩
      · rw [State.regN, hkeep.other j hj (fun hm => hb (List.mem_filter.1 hm).2), ← State.regN]
        exact Bool.eq_false_iff.2 hb
      · rw [he, bitOf_eq_testBit, Nat.testBit_two_pow_self]

end Route

/-- Settles O54: by the failure of one range, of one package, and what each port takes with it. -/
theorem rangesAndPorts : Obligations.RangesAndPorts := by
  intro s i port line c w m v
  refine ⟨fun hi hv hf => ?_, fun h => ?_, fun h => ?_, poolPortDown_fails, cxpPmctlWrite_bits v, zelasPortLoss_leaves port,
    fun hp => ?_, fun hp => ?_, exec_linkUp_zelas⟩
  · have hstands : ¬ s.rangeStands i := by
      rintro (h | h | h)
      · omega
      · rw [hv] at h; cases h
      · rw [hf] at h; cases h
    refine ⟨⟨_, rfl, State.failRange_spec hstands⟩, fun ht => ⟨s.failRange i, ?_, State.failRange_spec hstands⟩⟩
    show execPoolRequestTimeout i s = _
    rw [execPoolRequestTimeout, if_pos ht]
  · exact congrArg Host.Outcome.next (s.failRange_stands i (Or.inr h))
  · show execPoolRequestTimeout i s = _
    rw [execPoolRequestTimeout, if_neg (by simp [h])]
  · refine ⟨_, ?_, State.cxlDown_links (s.logError 9 7 (errUnit 12 port) 0 1) port⟩
    show execLinkTrainingFail port s = _
    rw [execLinkTrainingFail, if_neg (by omega)]
  · show execLinkUp port s = _
    rw [execLinkUp, if_pos hp]

end Sys2Proof.Machine

/-! PROOFS. The management channel (R279, R281, R283): what a request answers, and the command that a request in sequence runs. -/

namespace Sys2Proof.Machine

/-! ## Requests (R283) -/

/-- The state after a command has run in its sequence: its response is kept and sent. -/
def MailboxReply.kept (r : MailboxReply) (hseq : Nat) : State :=
  let b := r.state.mailboxBytes hseq r.status r.words
  { r.state with
    sec := { r.state.sec with e := hseq, response := b, respEvents := r.events }
    hostOut := r.state.hostOut ++ [.mailbox b r.events] }

/-- Word 0 of a response. -/
theorem leNat_take_header {q k : Nat} (hq : q < 2 ^ 32) (hk : k < 2 ^ 32) (l : List Byte) :
    leNat ((leBytes 8 (q * 2 ^ 32 + k) ++ l).take 8) = q * 2 ^ 32 + k := by
  rw [List.take_left' (length_leBytes ..), leNat_leBytes]
  exact Nat.mod_eq_of_lt (by omega)

theorem leNat_take_mailboxBytes (s : State) {q st : Nat} (hq : q < 2 ^ 32) (hst : st < 2 ^ 16) (words : List Nat) :
    leNat ((s.mailboxBytes q st words).take 8) = q * 2 ^ 32 + st * 2 ^ 16 := by
  rw [State.mailboxBytes, List.append_assoc]
  exact leNat_take_header hq (by omega) _

section Mailbox
variable {s : State} {recovery : Bool} {seq : List Byte} {run : State → MailboxReply}

/-- A request whose number is neither the next nor the last is refused. -/
theorem State.mailbox_other (hr : s.sec.recovery = false) (hnext : leNat seq % 2 ^ 32 ≠ (s.sec.e + 1) % 2 ^ 32)
    (hlast : leNat seq % 2 ^ 32 ≠ s.sec.e) : s.mailbox recovery seq run =
      { s with hostOut := s.hostOut ++ [.mailbox (s.mailboxBytes (leNat seq % 2 ^ 32) 2 []) []] } := by
  unfold State.mailbox
  dsimp only
  rw [hr, if_neg (by simp), if_neg hnext, if_neg hlast]

/-- A request whose number is the last is answered again. -/
theorem State.mailbox_again (hr : s.sec.recovery = false) (hnext : leNat seq % 2 ^ 32 ≠ (s.sec.e + 1) % 2 ^ 32)
    (hlast : leNat seq % 2 ^ 32 = s.sec.e) : s.mailbox recovery seq run =
      { s with hostOut := s.hostOut ++ [.mailbox (duplicateOf (leNat seq % 2 ^ 32) s.sec.response) s.sec.respEvents] } := by
  unfold State.mailbox
  dsimp only
  rw [hr, if_neg (by simp), if_neg hnext, if_pos hlast]

/-- A request whose number is the next runs, unless the device is busy. -/
theorem State.mailbox_next (hr : s.sec.recovery = false) (hnext : leNat seq % 2 ^ 32 = (s.sec.e + 1) % 2 ^ 32) :
    s.mailbox recovery seq run = if (run s).status = 3
      then { s with hostOut := s.hostOut ++ [.mailbox (s.mailboxBytes (leNat seq % 2 ^ 32) 3 []) []] }
      else (run s).kept (leNat seq % 2 ^ 32) := by
  unfold State.mailbox
  dsimp only
  rw [hr, if_neg (by simp), if_pos hnext]
  rfl

/-- A command that runs has its effect, and its response is kept. -/
theorem State.mailbox_runs {i : Instr} {st : Nat} {Q : State → Prop} (hexec : exec i s = .next (s.mailbox recovery seq run))
    (hr : s.sec.recovery = false) (hnext : leNat seq % 2 ^ 32 = (s.sec.e + 1) % 2 ^ 32) (hst : (run s).status = st)
    (hbusy : st ≠ 3) (hlt : st < 2 ^ 16) (hout : (run s).state.hostOut = s.hostOut) (hmem : (run s).state.mem = s.mem)
    (hQ : Q ((run s).kept (leNat seq % 2 ^ 32))) :
    ∃ u b ev, exec i s = .next u ∧ u.hostOut = s.hostOut ++ [.mailbox b ev] ∧
      leNat (b.take 8) = leNat seq % 2 ^ 32 * 2 ^ 32 + st * 2 ^ 16 ∧ u.sec.e = leNat seq % 2 ^ 32 ∧ u.sec.response = b ∧
      u.sec.respEvents = ev ∧ u.mem = s.mem ∧ Q u := by
  have hq : leNat seq % 2 ^ 32 < 2 ^ 32 := Nat.mod_lt _ (by decide)
  rw [State.mailbox_next hr hnext, hst, if_neg hbusy] at hexec
  refine ⟨_, (run s).state.mailboxBytes (leNat seq % 2 ^ 32) (run s).status (run s).words, (run s).events, hexec,
    congrArg (· ++ _) hout, ?_, rfl, rfl, rfl, hmem, hQ⟩
  rw [hst]
  exact leNat_take_mailboxBytes _ hq hlt _

end Mailbox

/-! ## Commands (R279, R283) -/

section Commands
variable (s : State) (seq p : List Byte)

/-- What FWCHUNK does. -/
def chunkRun (s : State) : MailboxReply :=
  if word1 p + (p.drop 8).length > stagingSize then .refused s
  else .done { s with sec := { s.sec with staging :=
    (List.zip (upTo (p.drop 8).length) (p.drop 8)).foldl (fun (m : KMap Byte) x => KMap.put m (word1 p + x.1) x.2) s.sec.staging } }

/-- What FWCOMMIT does. -/
def commitRun (s : State) : MailboxReply :=
  if s.sec.commit.isSome then ⟨3, [], [], s⟩
  else if Config.imageSigned s.sec.staged && decide (s.sec.nv.svn ≤ Config.imageSvn s.sec.staged) then
    .done { s with sec := { s.sec with commit := some ⟨s.sec.staged⟩ } }
  else .refused s

/-- What PWRLIMIT does. -/
def limitRun (s : State) : MailboxReply :=
  if word1 p ≤ s.tdp then .done { s with sec := { s.sec with limit := word1 p } } else .refused s

/-- What REPROV does. -/
def reprovRun (s : State) : MailboxReply :=
  if s.sec.keys || !(Config.recordSigned s.sec.staged && decide (s.sec.nv.svn ≤ Config.recordSvn s.sec.staged)) then .refused s
  else .done { s with sec := { s.sec with
    nv := { s.sec.nv with record := some s.sec.staged, recordOk := true, recordSvn := Config.recordSvn s.sec.staged, keysOk := true, erased := false }
    keys := true } }

theorem exec_fwchunk : exec (.fwchunk seq p) s = .next (s.mailbox true seq (chunkRun p)) := rfl
theorem exec_fwcommit : exec (.fwcommit seq p) s = .next (s.mailbox true seq commitRun) := rfl
theorem exec_status : exec (.status seq) s = .next (s.mailbox true seq (fun s => ⟨0, [s.secStat, s.sec.e], [], s⟩)) := rfl
theorem exec_pwrlimit : exec (.pwrlimit seq p) s = .next (s.mailbox false seq (limitRun p)) := rfl
theorem exec_evread : exec (.evread seq p) s =
    .next (s.mailbox true seq (fun s => ⟨0, [], s.sec.events.filter (fun e => word1 p ≤ e.1), s⟩)) := rfl
theorem exec_evack : exec (.evack seq p) s = .next (s.mailbox true seq (fun s =>
    .done { s with sec := { s.sec with events := s.sec.events.filter (fun e => word1 p < e.1) } })) := rfl
theorem exec_reprov : exec (.reprov seq p) s = .next (s.mailbox true seq reprovRun) := rfl

/-- Every command of the channel is a request of the mailbox. -/
theorem exec_command : ∀ i ∈ ([.fwchunk seq p, .fwcommit seq p, .status seq, .pwrlimit seq p, .evread seq p, .evack seq p,
    .reprov seq p] : List Instr), ∃ recovery run, exec i s = .next (s.mailbox recovery seq run) := by
  simp only [List.forall_mem_cons, List.not_mem_nil, false_implies, implies_true, and_true]
  exact ⟨⟨_, _, exec_fwchunk s seq p⟩, ⟨_, _, exec_fwcommit s seq p⟩, ⟨_, _, exec_status s seq⟩, ⟨_, _, exec_pwrlimit s seq p⟩,
    ⟨_, _, exec_evread s seq p⟩, ⟨_, _, exec_evack s seq p⟩, ⟨_, _, exec_reprov s seq p⟩⟩

/-- Bytes put at rising places stand in their places. -/
theorem KMap.lookD_put_zip (a : Nat) (l : List Byte) (m : KMap Byte) {j : Nat} (hj : j < l.length) :
    KMap.lookD ((List.zip (upTo l.length) l).foldl (fun (m : KMap Byte) x => KMap.put m (a + x.1) x.2) m) (a + j) 0 = l.getD j 0 := by
  induction l using List.reverseRecOn with
  | nil => simp at hj
  | append_singleton l x ih =>
    rw [List.length_append, List.length_singleton, upTo, List.range_succ, List.zip_append (by simp), List.foldl_append]
    show KMap.lookD (KMap.put _ (a + l.length) x) (a + j) 0 = _
    rw [KMap.lookD_put]
    by_cases h : j = l.length
    · subst h
      simp
    · have hlt : j < l.length := by simp at hj; omega
      rw [if_neg (by omega)]
      refine (ih hlt).trans ?_
      rw [List.getD_eq_getElem?_getD, List.getD_eq_getElem?_getD, List.getElem?_append_left hlt]

end Commands

/-! ## Committed images (R279) -/

theorem State.packageReset_image (s : State) : s.packageReset.sec.nv.image = s.sec.nv.image ∧ s.packageReset.mem = State.reset.mem := by
  refine ⟨?_, rfl⟩
  show s.sec.stored.image = _
  unfold Sec.stored
  split <;> rfl

theorem Store.part_image (x : Store) : x.part.image = x.image := by
  unfold Store.part
  split <;> rfl

/-- A boot keeps the image that stands in the store, and memory. -/
theorem State.bootUp_image (s : State) : s.bootUp.sec.nv.image = s.sec.nv.image ∧ s.bootUp.mem = s.mem := by
  unfold State.bootUp
  dsimp only
  split
  · exact ⟨rfl, rfl⟩
  · split
    · exact ⟨Store.part_image _, rfl⟩
    · refine ⟨Store.part_image _, ?_⟩
      refine List.foldlRecOn (motive := fun u : State => u.mem = s.mem) _ _ rfl fun u hu d _ => hu

/-- The write of a committed image completes outside recovery. -/
theorem fwcommitWriteDone_writes {s : State} {ck : Commit} (hc : s.sec.commit = some ck) :
    (s.sec.recovery = false → ∃ u, exec .fwcommitWriteDone s = .next u ∧ u.sec.commit = none ∧ u.sec.nv.image = ck.image ∧ u.mem = s.mem) ∧
    (s.sec.recovery = true → ∃ u, exec .fwcommitWriteDone s = .next u ∧ u.sec.nv.image = ck.image ∧ u.mem = State.reset.mem) := by
  let t : State := { s with sec := { s.sec with
    nv := { s.sec.nv with image := ck.image, imageOk := true, imageSvn := Config.imageSvn ck.image }, commit := none } }
  have hexec : exec .fwcommitWriteDone s = .next (if s.sec.recovery then t.packageReset.bootUp else t) := by
    show execFwcommitWriteDone s = _
    rw [execFwcommitWriteDone, hc]
  refine ⟨fun hr => ⟨t, hexec.trans (by rw [hr]; rfl), rfl, rfl, rfl⟩, fun hr => ⟨t.packageReset.bootUp, hexec.trans (by rw [hr]; rfl), ?_, ?_⟩⟩
  · exact t.packageReset.bootUp_image.1.trans t.packageReset_image.1
  · exact t.packageReset.bootUp_image.2.trans t.packageReset_image.2

/-- Settles O57: by the number of the request, and for the next number by the command. -/
theorem managementChannel : Obligations.ManagementChannel := by
  intro s seq p j ck
  have hlt : leNat seq % 2 ^ 32 < 2 ^ 32 := Nat.mod_lt _ (by decide)
  refine ⟨fun hr => ⟨fun hnext hlast i hi => ?_, fun hnext hlast i hi => ?_, fun hq => ⟨fun hfit hj => ?_, fun hbig => ?_, fun hc => ?_,
      fun hc => ⟨fun hg => ?_, fun hg => ?_⟩, ?_, fun hle => ?_, fun hgt => ?_, ?_, ?_, fun hk hs hv => ?_, fun hbad => ?_⟩,
    fun hc => (fwcommitWriteDone_writes hc).1 hr, ?_⟩, fun hr => ⟨?_, ?_, fun hc => (fwcommitWriteDone_writes hc).2 hr⟩, fun hc => ?_⟩
  · obtain ⟨recovery, run, hexec⟩ := exec_command s seq p i hi
    exact ⟨_, hexec.trans (congrArg _ (State.mailbox_other hr hnext hlast)), leNat_take_mailboxBytes s hlt (by decide) []⟩
  · obtain ⟨recovery, run, hexec⟩ := exec_command s seq p i hi
    refine ⟨_, hexec.trans (congrArg _ (State.mailbox_again hr hnext hlast)), leNat_take_header hlt (by decide) _, ?_⟩
    exact List.drop_left' (length_leBytes ..)
  · have hrun : ¬ word1 p + (p.drop 8).length > stagingSize := Nat.not_lt.2 hfit
    refine State.mailbox_runs (exec_fwchunk s seq p) hr hq ?_ (by decide) (by decide) ?_ ?_ ?_ <;> rw [chunkRun, if_neg hrun]
    · rfl
    · rfl
    · rfl
    · exact KMap.lookD_put_zip (word1 p) (p.drop 8) s.sec.staging hj
  · refine State.mailbox_runs (exec_fwchunk s seq p) hr hq ?_ (by decide) (by decide) ?_ ?_ ?_ <;> rw [chunkRun, if_pos hbig] <;> rfl
  · have hbusy : (commitRun s).status = 3 := by rw [commitRun, hc]; rfl
    refine ⟨_, (exec_fwcommit s seq p).trans (congrArg _ ((State.mailbox_next hr hq).trans (if_pos hbusy))),
      leNat_take_mailboxBytes s hlt (by decide) []⟩
  · refine State.mailbox_runs (exec_fwcommit s seq p) hr hq ?_ (by decide) (by decide) ?_ ?_ ?_ <;>
      rw [commitRun, hc, if_neg (by decide), if_pos hg] <;> rfl
  · refine State.mailbox_runs (exec_fwcommit s seq p) hr hq ?_ (by decide) (by decide) ?_ ?_ ?_ <;>
      rw [commitRun, hc, if_neg (by decide), if_neg (by rw [hg]; decide)]
    · rfl
    · rfl
    · rfl
    · exact hc
  · refine State.mailbox_runs (exec_status s seq) hr hq rfl (by decide) (by decide) rfl rfl ?_
    show (s.mailboxBytes _ 0 [s.secStat, s.sec.e]).drop 16 = _
    rw [State.mailboxBytes, List.drop_left' (by simp)]
    simp
  · refine State.mailbox_runs (exec_pwrlimit s seq p) hr hq ?_ (by decide) (by decide) ?_ ?_ ?_ <;> rw [limitRun, if_pos hle] <;> rfl
  · refine State.mailbox_runs (exec_pwrlimit s seq p) hr hq ?_ (by decide) (by decide) ?_ ?_ ?_ <;>
      rw [limitRun, if_neg (Nat.not_le.2 hgt)] <;> rfl
  · exact State.mailbox_runs (exec_evread s seq p) hr hq rfl (by decide) (by decide) rfl rfl rfl
  · exact State.mailbox_runs (exec_evack s seq p) hr hq rfl (by decide) (by decide) rfl rfl rfl
  · have hrun : ¬ (s.sec.keys || !(Config.recordSigned s.sec.staged && decide (s.sec.nv.svn ≤ Config.recordSvn s.sec.staged))) = true := by
      simp [hk, hs, hv]
    refine State.mailbox_runs (exec_reprov s seq p) hr hq ?_ (by decide) (by decide) ?_ ?_ ?_ <;> rw [reprovRun, if_neg hrun]
    · rfl
    · rfl
    · rfl
    · exact ⟨rfl, rfl, rfl, rfl⟩
  · have hrun : (s.sec.keys || !(Config.recordSigned s.sec.staged && decide (s.sec.nv.svn ≤ Config.recordSvn s.sec.staged))) = true := by
      rcases hbad with h | h | h
      · simp [h]
      · simp [h]
      · simp [Nat.not_le.2 h]
    refine State.mailbox_runs (exec_reprov s seq p) hr hq ?_ (by decide) (by decide) ?_ ?_ ?_ <;> rw [reprovRun, if_pos hrun] <;> rfl
  · show execSpdmRequest p s = _
    rw [execSpdmRequest, hr]
    rfl
  · show Host.Outcome.next (s.mailbox false seq (limitRun p)) = _
    rw [State.mailbox, hr]
    rfl
  · show execSpdmRequest p s = _
    rw [execSpdmRequest, hr]
    rfl
  · show execFwcommitWriteDone s = _
    rw [execFwcommitWriteDone, hc]

end Sys2Proof.Machine

/-! PROOFS. Debug, profiling and replay (R266 to R275): stops and their list, steps, accumulator rows, the rings' registers,
checkpoints and their replay. -/

namespace Sys2Proof.Machine

/-! ## Words in memory -/

theorem State.load_eq_of_bytes {s t : State} {a n : Nat} (h : ∀ i < n, t.byte (a + i) = s.byte (a + i)) : t.load a n = s.load a n := by
  rw [State.load, State.load, State.bytes, State.bytes]
  exact congrArg leNat (List.map_congr_left fun i hi => h i (List.mem_range.1 hi))

theorem State.putBytes_append (s : State) (a : Nat) (l m : List Byte) :
    s.putBytes a (l ++ m) = (s.putBytes a l).putBytes (a + l.length) m := by
  induction l generalizing s a with
  | nil => rfl
  | cons b l ih =>
    rw [List.cons_append, State.putBytes, State.putBytes, ih, List.length_cons, Nat.add_assoc, Nat.add_comm 1]

theorem State.putWords_cons (s : State) (a x : Nat) (l : List Nat) :
    s.putWords a (x :: l) = (s.putNat a 8 x).putWords (a + 8) l := by
  rw [State.putWords, List.flatMap_cons, State.putBytes_append, length_leBytes, State.putWords, State.putNat]

theorem State.cores_putBytes (s : State) (a : Nat) (l : List Byte) : (s.putBytes a l).cores = s.cores := by
  obtain ⟨m, h⟩ := putBytes_eq s a l
  rw [h]

theorem State.cores_putWords (s : State) (a : Nat) (l : List Nat) : (s.putWords a l).cores = s.cores := by
  obtain ⟨m, h⟩ := putWords_eq s a l
  rw [h]

theorem State.regs_putWords (s : State) (a : Nat) (l : List Nat) : (s.putWords a l).regs = s.regs := by
  obtain ⟨m, h⟩ := putWords_eq s a l
  rw [h]

/-- What is written for the debugger changes memory and the debug unit alone. -/
theorem State.wrote_same (s : State) (a : Nat) (l : List Nat) (d : Dbg) :
    ({ s.putWords a l with dbg := d } : State).cores = s.cores ∧ ({ s.putWords a l with dbg := d } : State).regs = s.regs ∧
      ∀ b n, ({ s.putWords a l with dbg := d } : State).load b n = (s.putWords a l).load b n :=
  ⟨s.cores_putWords a l, s.regs_putWords a l, fun _ _ => rfl⟩

/-- A word is read back from its place in a run of words. -/
theorem State.load_putWords (l : List Nat) (s : State) (a : Nat) {j : Nat} (hj : j < l.length) :
    (s.putWords a l).load (a + 8 * j) 8 = l[j] % 2 ^ 64 := by
  induction l generalizing s a j with
  | nil => exact absurd hj (Nat.not_lt_zero _)
  | cons x l ih =>
    rw [State.putWords_cons]
    cases j with
    | zero =>
      refine (State.load_eq_of_bytes fun i hi => ?_).trans (s.load_putNat a 8 x)
      exact State.byte_putBytes_outside _ _ _ _ (.inl (by omega))
    | succ j =>
      have h := ih (s.putNat a 8 x) (a + 8) (Nat.lt_of_succ_lt_succ hj)
      rwa [show a + 8 + 8 * j = a + 8 * (j + 1) by omega] at h

/-! ## Stops (R266 to R268) -/

section Debug
variable {s : State}

theorem State.addStop_stops (s : State) (z : Stop) : (s.addStop z).dbg.stops.contains z = true := by
  show (if s.dbg.stops.contains z then s.dbg.stops else s.dbg.stops ++ [z]).contains z = true
  split
  · assumption
  · simp

/-- A stop is added for what DBG_STOP names. -/
theorem dbgStop_adds {v : Word} {z : Stop} (h : exec (.dbgStop v) s = .next (s.addStop z)) :
    ∃ u, exec (.dbgStop v) s = .next u ∧ u.dbg.stops.contains z = true ∧ u.dbg.settled = false ∧ u.mem = s.mem :=
  ⟨_, h, s.addStop_stops z, rfl, rfl⟩

section Named
variable {v : Word} {t : Nat}

theorem exec_dbgStop_device (h : bitsOf v.toNat 63 62 = 3) : exec (.dbgStop v) s = .next (s.addStop .device) := by
  show execDbgStop v s = _
  rw [execDbgStop]
  simp only [h]

theorem exec_dbgStop_core (h : bitsOf v.toNat 63 62 = 2) (hc : bitsOf v.toNat 55 48 < 32 * s.fabricDies) :
    exec (.dbgStop v) s = .next (s.addStop (.core (bitsOf v.toNat 55 48))) := by
  show execDbgStop v s = _
  rw [execDbgStop]
  simp only [h, hc, if_true]

theorem exec_dbgStop_team (ht : s.namedTeam (bitsOf v.toNat 61 56) (bitsOf v.toNat 31 0) = some t) (h : bitsOf v.toNat 63 62 = 1) :
    exec (.dbgStop v) s = .next (s.addStop (.team t)) := by
  show execDbgStop v s = _
  rw [execDbgStop]
  simp only [h, ht]

theorem exec_dbgStop_hand (ht : s.namedTeam (bitsOf v.toNat 61 56) (bitsOf v.toNat 31 0) = some t) (h : bitsOf v.toNat 63 62 = 0) :
    exec (.dbgStop v) s = .next (s.addStop (.hand t (bitsOf v.toNat 47 41))) := by
  show execDbgStop v s = _
  rw [execDbgStop]
  simp only [h, ht]

theorem exec_dbgStop_none (ht : s.namedTeam (bitsOf v.toNat 61 56) (bitsOf v.toNat 31 0) = none) (h : bitsOf v.toNat 63 62 < 2) :
    exec (.dbgStop v) s = .next s := by
  show execDbgStop v s = _
  rw [execDbgStop]
  generalize bitsOf v.toNat 63 62 = n at h ⊢
  simp only [ht]
  interval_cases n <;> rfl

end Named

/-- Once everything stopped is at rest, the list is written. -/
theorem dbgSettled_writes (hm : s.maySettle = true) : ∃ u, exec .dbgSettled s = .next u ∧ u.dbg.settled = true ∧ u.cores = s.cores ∧
    (∀ i < (s.stopList.take 0xFF000).length, u.byte (s.regN .dbgListbase + i) = (s.stopList.take 0xFF000).getD i 0) ∧
    (∀ a, a < s.regN .dbgListbase ∨ s.regN .dbgListbase + (s.stopList.take 0xFF000).length ≤ a → u.byte a = s.byte a) := by
  have hexec : exec .dbgSettled s = .next { s.putBytes (s.regN .dbgListbase) (s.stopList.take 0xFF000) with
      dbg := { s.dbg with settled := true } } := by
    show execDbgSettled s = _
    rw [execDbgSettled, if_pos hm]
  refine ⟨_, hexec, rfl, ?_, fun i hi => ?_, fun a ha => ?_⟩
  · exact s.cores_putBytes (s.regN .dbgListbase) (s.stopList.take 0xFF000)
  · rw [List.getD_eq_getElem _ _ hi]
    exact s.byte_putBytes_inside _ _ i hi
  · exact s.byte_putBytes_outside _ _ _ ha

/-! ## Steps (R270) -/

section Steps
variable {c k : Nat}

/-- The state with a step's request taken. -/
def State.stepTaken (s : State) : State := { s with dbg := { s.dbg with stepReq := none } }

/-- The state in which a firing step looks for what the thread can do. -/
def State.stepBegun (s : State) : State := { s with dbg := { s.dbg with stepReq := none, stepNone := false } }

theorem exec_dbgStep_none (hr : s.dbg.stepReq = none) :
    exec .dbgStepFiring s = .next s ∧ exec .dbgStepBlock s = .next s := by
  constructor
  · show execDbgStepFiring s = _
    rw [execDbgStepFiring, hr]
  · show execDbgStepBlock s = _
    rw [execDbgStepBlock, hr]

theorem State.stopped_stepTaken (s : State) (c k : Nat) : s.stepTaken.stopped c k = s.stopped c k := rfl

theorem exec_dbgStep_refused (hr : s.dbg.stepReq = some (c, k)) (hm : (s.dbg.settled && s.stopped c k) = false) :
    exec .dbgStepFiring s = .next s.stepTaken ∧ exec .dbgStepBlock s = .next s.stepTaken := by
  have hm' : (s.stepTaken.dbg.settled && s.stepTaken.stopped c k) = false := hm
  constructor
  · show execDbgStepFiring s = _
    rw [execDbgStepFiring, hr]
    exact congrArg Host.Outcome.next (if_pos (congrArg (! ·) hm'))
  · show execDbgStepBlock s = _
    rw [execDbgStepBlock, hr]
    exact congrArg Host.Outcome.next (if_pos (congrArg (! ·) hm'))

theorem exec_dbgStepBlock_runs (hr : s.dbg.stepReq = some (c, k)) (hm : (s.dbg.settled && s.stopped c k) = true) :
    exec .dbgStepBlock s = .next { s.stepTaken with
      dbg := { s.stepTaken.dbg with stepNone := false, settled := false, stepping := some (c, k) } } := by
  have hm' : (s.stepTaken.dbg.settled && s.stepTaken.stopped c k) = true := hm
  show execDbgStepBlock s = _
  rw [execDbgStepBlock, hr]
  exact congrArg Host.Outcome.next (if_neg fun e => absurd ((congrArg (! ·) hm').symm.trans e) (by decide))

/-- What a firing step does for the set that it finds, or else for the block that the thread can enter. -/
theorem exec_dbgStepFiring_looks (hr : s.dbg.stepReq = some (c, k)) (hm : (s.dbg.settled && s.stopped c k) = true) :
    exec .dbgStepFiring s = .next (match s.stepBegun.stepSet c k with
      | some (t, h, y) => { s.stepBegun.consume c t h y with
          agenda := .event y.instr :: (s.stepBegun.consume c t h y).agenda
          dbg := { (s.stepBegun.consume c t h y).dbg with settled := false } }
      | none => match s.stepBegun.stepInject c k with
        | some u => { u with dbg := { u.dbg with settled := false } }
        | none => { s.stepBegun with dbg := { s.stepBegun.dbg with stepNone := true } }) := by
  have hm' : (s.stepTaken.dbg.settled && s.stepTaken.stopped c k) = true := hm
  show execDbgStepFiring s = _
  rw [execDbgStepFiring, hr]
  exact congrArg Host.Outcome.next (if_neg fun e => absurd ((congrArg (! ·) hm').symm.trans e) (by decide))

end Steps

/-! ## Accumulator rows (R271) -/

theorem State.rowWords_getElem (s : State) (c t row : Nat) {j : Nat} (hj : j < 16) :
    ∃ h, (s.rowWords c t row)[j]'h = (s.tile c t).mx.entry row j := by
  have hlen : j < (s.rowWords c t row).length := by simp [State.rowWords, upTo]; omega
  refine ⟨hlen, ?_⟩
  simp [State.rowWords, upTo, hj]

theorem dbgAccrd_writes {c t row : Nat} (ha : s.dbg.accrd = some (c, t, row)) (hrows : (s.tile c t).mx.rows = []) (j : Nat) :
    ∃ u, exec .dbgAccrd s = .next u ∧ u.dbg.accrd = none ∧ u.cores = s.cores ∧
      (j < 16 → u.load (s.regN .dbgListbase + 0xFF000 + 8 * j) 8 = (s.tile c t).mx.entry row j % 2 ^ 64) := by
  have hexec : exec .dbgAccrd s = .next { s.putWords (s.regN .dbgListbase + 0xFF000) (s.rowWords c t row) with
      dbg := { s.dbg with accrd := none } } := by
    show execDbgAccrd s = _
    rw [execDbgAccrd, ha]
    simp only [hrows, List.isEmpty_nil, Bool.not_true, Bool.false_eq_true, if_false]
  generalize s.regN .dbgListbase + 0xFF000 = a at hexec ⊢
  obtain ⟨hcores, -, hload⟩ := s.wrote_same a (s.rowWords c t row) { s.dbg with accrd := none }
  refine ⟨_, hexec, rfl, hcores, fun hj => ?_⟩
  obtain ⟨hlen, hget⟩ := s.rowWords_getElem c t row hj
  rw [← hget, hload]
  exact State.load_putWords (s.rowWords c t row) s a hlen

theorem exec_dbgAccrd_waits : (s.dbg.accrd = none → exec .dbgAccrd s = .next s) ∧
    (∀ c t row, s.dbg.accrd = some (c, t, row) → (s.tile c t).mx.rows ≠ [] → exec .dbgAccrd s = .next s) := by
  refine ⟨fun ha => ?_, fun c t row ha hrows => ?_⟩
  · show execDbgAccrd s = _
    rw [execDbgAccrd, ha]
  · show execDbgAccrd s = _
    rw [execDbgAccrd, ha]
    simp [hrows]

/-! ## Trace and spills (R272, R273) -/

/-- Spill records written leave the registers and the head of the ring. -/
theorem State.writeSpills_same (s : State) : s.writeSpills.regs = s.regs ∧ s.writeSpills.dbg.spHead = s.dbg.spHead := by
  unfold State.writeSpills
  refine List.foldlRecOn (motive := fun u : State => u.regs = s.regs ∧ u.dbg.spHead = s.dbg.spHead) _ _ ⟨rfl, rfl⟩ fun u hu k _ => ?_
  refine List.foldlRecOn (motive := fun u : State => u.regs = s.regs ∧ u.dbg.spHead = s.dbg.spHead) _ _ hu fun u hu t _ => ?_
  refine List.foldlRecOn (motive := fun u : State => u.regs = s.regs ∧ u.dbg.spHead = s.dbg.spHead) _ _ hu fun u hu p _ => ?_
  split
  · exact hu
  · generalize u.regN .pmcSpill + 16 * (u.dbg.spTail % 4096) = a
    generalize [p.2.toNat, u.now k.1] = l
    obtain ⟨-, hregs, -⟩ := u.wrote_same a l { u.dbg with spTail := u.dbg.spTail + 1 }
    exact ⟨hregs.trans hu.1, hu.2⟩

theorem State.reg_congr {s t : State} (h : t.regs = s.regs) (n : RegName) (i : Nat) : t.reg n i = s.reg n i := by
  rw [State.reg, h, State.reg]

theorem pmcSpheadWrite_moves {v : Word} (hge : s.dbg.spHead ≤ v.toNat) (hle : v.toNat ≤ s.dbg.spTail) :
    ∃ u, exec (.pmcSpheadWrite v) s = .next u ∧ u.dbg.spHead = v.toNat ∧ u.reg .pmcSphead = v := by
  let t : State := { s.setReg .pmcSphead 0 v with dbg := { s.dbg with spHead := v.toNat } }
  have hexec : exec (.pmcSpheadWrite v) s = .next t.writeSpills := by
    show execPmcSpheadWrite v s = _
    rw [execPmcSpheadWrite, if_neg (by simp; omega)]
  refine ⟨_, hexec, t.writeSpills_same.2, ?_⟩
  rw [State.reg_congr t.writeSpills_same.1]
  refine (s.reg_setReg_same .pmcSphead 0 v).trans ?_
  exact BitVec.and_allOnes

theorem exec_pmcSpheadWrite_out {v : Word} (h : v.toNat < s.dbg.spHead ∨ s.dbg.spTail < v.toNat) :
    exec (.pmcSpheadWrite v) s = .next s := by
  show execPmcSpheadWrite v s = _
  rw [execPmcSpheadWrite, if_pos (by simpa using h)]

theorem pmcSpillWrite_begins (v : Word) : ∃ u, exec (.pmcSpillWrite v) s = .next u ∧
    u.reg .pmcSpill = v &&& BitVec.ofNat 64 RegName.pmcSpill.info.mask ∧ u.dbg.spHead = 0 := by
  refine ⟨_, rfl, ?_, (State.writeSpills_same _).2⟩
  rw [State.reg_congr (State.writeSpills_same _).1]
  exact (State.reg_setReg_other (s.setReg .pmcSpill 0 v) 0 (by decide)).trans (s.reg_setReg_same .pmcSpill 0 v)

theorem traceEnable_begins (v : Word) : ∃ u, exec (.traceEnable v) s = .next u ∧
    u.reg .dbgTrctl = v &&& BitVec.ofNat 64 RegName.dbgTrctl.info.mask ∧ u.dbg.trTail = 0 ∧ u.dbg.trHead = 0 ∧ u.mem = s.mem :=
  ⟨_, rfl, (State.reg_setReg_other (s.setReg .dbgTrctl 0 v) 0 (by decide)).trans (s.reg_setReg_same .dbgTrctl 0 v), rfl, rfl, rfl⟩

/-! ## Checkpoints and replay (R274, R275) -/

/-- Bits of RPL_CTL as they are written. -/
theorem State.rplCtl_bits (s : State) (v : Word) : (s.setReg .rplCtl 0 v).rplOn = v.getLsbD 0 ∧
    (s.setReg .rplCtl 0 v).rplPeriod = max 1 (bitsOf v.toNat 10 1) * 1000000 := by
  have hreg : (s.setReg .rplCtl 0 v).regN .rplCtl = v.toNat % 2 ^ 11 := by
    rw [State.regN, State.reg_setReg_same, BitVec.toNat_and]
    exact Nat.and_two_pow_sub_one_eq_mod v.toNat 11
  constructor
  · rw [State.rplOn, hreg, ← bitOf_toNat, bitOf, bitOf]
    exact congrArg (fun n => decide (n = 1)) (by omega)
  · rw [State.rplPeriod, State.regBits, hreg]
    exact congrArg (fun n => max 1 n * 1000000) (by simp only [bitsOf]; omega)

theorem rplCtlWrite_sets (v : Word) : ∃ u, exec (.rplCtlWrite v) s = .next u ∧
    u.reg .rplCtl = v &&& BitVec.ofNat 64 RegName.rplCtl.info.mask ∧ u.mem = s.mem ∧
    (v.getLsbD 0 = false → u.rpl.nextAt = none ∧ u.rpl.draining = false) ∧
    (v.getLsbD 0 = true → s.rplOn = false → u.rpl.nextAt = some (s.time.ref + max 1 (bitsOf v.toNat 10 1) * 1000000)) ∧
    (v.getLsbD 0 = true → s.rplOn = true → u.rpl = s.rpl) := by
  obtain ⟨hon, hperiod⟩ := s.rplCtl_bits v
  let t := s.setReg .rplCtl 0 v
  have hreg : t.reg .rplCtl = v &&& BitVec.ofNat 64 RegName.rplCtl.info.mask := s.reg_setReg_same .rplCtl 0 v
  have hexec : exec (.rplCtlWrite v) s = .next (if !v.getLsbD 0 then { t with rpl := { t.rpl with nextAt := none, draining := false } }
      else if s.rplOn then t
      else { t with rpl := { t.rpl with nextAt := some (t.time.ref + max 1 (bitsOf v.toNat 10 1) * 1000000) } }) := by
    rw [← hon, ← hperiod]
    rfl
  refine ⟨_, hexec, ?_⟩
  cases hv : v.getLsbD 0
  · exact ⟨hreg, rfl, fun _ => ⟨rfl, rfl⟩, fun h => absurd h Bool.false_ne_true, fun h => absurd h Bool.false_ne_true⟩
  · cases hs : s.rplOn
    · exact ⟨hreg, rfl, fun h => absurd h (by decide), fun _ _ => rfl, fun _ h => absurd h Bool.false_ne_true⟩
    · exact ⟨hreg, rfl, fun h => absurd h (by decide), fun _ h => absurd h (by decide), fun _ _ => rfl⟩

section Ckpt
variable {t0 : Nat} (hn : s.rpl.nextAt = some t0)
include hn

theorem exec_checkpoint_early (h : s.rplOn = false ∨ s.time.ref < t0) : exec .checkpoint s = .next s := by
  show execCheckpoint s = _
  rw [execCheckpoint, hn]
  exact congrArg Host.Outcome.next (if_pos (by simpa using h))

theorem exec_checkpoint_due (ho : s.rplOn = true) (ht : ¬ s.time.ref < t0) : exec .checkpoint s = .next (
    if !s.rpl.draining then { s with rpl := { s.rpl with draining := true } }
    else if !(s.cores.all (fun k => s.ckptQuiet k.1) && s.teams.all (fun x => s.teamVisible x.1 .system)) then s
    else if s.ckptWrites.all (fun p => s.deviceReady p.1 p.2.length) then s.takeCkpt t0
    else s.ckptWrites.foldl (fun s p => s.deviceRequest p.1 p.2.length) s) := by
  show execCheckpoint s = _
  rw [execCheckpoint, hn]
  exact congrArg Host.Outcome.next (if_neg (by simpa [ho] using ht))

/-- A checkpoint is taken once the device has drained and the lines of its area can be written. -/
theorem checkpoint_taken (ho : s.rplOn = true) (ht : ¬ s.time.ref < t0) (hd : s.rpl.draining = true)
    (hq : (s.cores.all (fun q => s.ckptQuiet q.1) && s.teams.all (fun q => s.teamVisible q.1 .system)) = true)
    (hw : s.ckptWrites.all (fun p => s.deviceReady p.1 p.2.length) = true) : exec .checkpoint s = .next (s.takeCkpt t0) := by
  refine (exec_checkpoint_due hn ho ht).trans (congrArg Host.Outcome.next ?_)
  rw [hd, if_neg (by decide), hq, if_neg (by decide), if_pos hw]

end Ckpt

theorem exec_rplStart_refused {v : Word} (h : s.rplOn = true ∨ s.grids.any (fun g => !g.2.complete) = true) :
    exec (.rplStart v) s = .next s := by
  show execRplStart v s = _
  rw [execRplStart, if_pos (by simpa using h)]

theorem rplStart_restores {v : Word} {x : Ckpt} (ho : s.rplOn = false) (hg : s.grids.any (fun g => !g.2.complete) = false)
    (hx : KMap.look s.rpl.ckpts (v.toNat % 2 ^ 32) = some x) : ∃ u, exec (.rplStart v) s = .next u ∧ u.mem = x.mem ∧
      u.cores = x.cores ∧ u.time = x.time ∧ u.grids = x.grids ∧ u.rpl.replaying = some (v.toNat % 2 ^ 32) ∧ u.agenda = [] := by
  show ∃ u, execRplStart v s = _ ∧ _
  rw [execRplStart, ho, hg, hx]
  exact ⟨_, rfl, rfl, rfl, rfl, rfl, rfl, rfl⟩

theorem replayEnd_ends {k : Nat} (hr : s.rpl.replaying = some k) (hm : s.rpl.moves = []) :
    ∃ u, exec .replayEnd s = .next u ∧ u.rpl.replaying = none ∧ u.mem = s.mem ∧ s.time.ref ≤ u.time.ref := by
  show ∃ u, execReplayEnd s = _ ∧ _
  rw [execReplayEnd, hr]
  dsimp only
  rw [hm]
  exact ⟨_, rfl, rfl, rfl, Nat.le_add_right _ _⟩

theorem exec_replayEnd_waits : (s.rpl.replaying = none → exec .replayEnd s = .next s) ∧
    (∀ k, s.rpl.replaying = some k → s.rpl.moves ≠ [] → exec .replayEnd s = .next s) := by
  refine ⟨fun hr => ?_, fun k hr hm => ?_⟩
  · show execReplayEnd s = _
    rw [execReplayEnd, hr]
  · show execReplayEnd s = _
    rw [execReplayEnd, hr]
    simp [hm]

end Debug

/-- Settles O58: a clause for each debug and replay operation, by its rule. -/
theorem debugAndReplay : Obligations.DebugAndReplay := by
  intro s v c k t row j t0 h y u0 x
  refine ⟨fun hw => dbgStop_adds (exec_dbgStop_device hw), fun hw hc => dbgStop_adds (exec_dbgStop_core hw hc),
    fun ht => ⟨fun hw => dbgStop_adds (exec_dbgStop_team ht hw), fun hw => dbgStop_adds (exec_dbgStop_hand ht hw)⟩,
    exec_dbgStop_none, rfl, dbgSettled_writes, fun hm => ?_, exec_dbgStep_none, fun hr => ⟨exec_dbgStep_refused hr, fun hm =>
      ⟨exec_dbgStepBlock_runs hr hm, fun hs => ?_, fun hs hi => ?_, fun hs hi => ?_⟩⟩, exec_dbgAccrd_waits.1,
    fun ha => ⟨exec_dbgAccrd_waits.2 c t row ha, fun hrows => dbgAccrd_writes ha hrows j⟩, traceEnable_begins v,
    pmcSpillWrite_begins v, exec_pmcSpheadWrite_out, pmcSpheadWrite_moves, rplCtlWrite_sets v, fun hn => ?_,
    fun hn => ⟨exec_checkpoint_early hn, fun ho ht => ⟨fun hd => ?_, fun hd hq hw => ⟨_, checkpoint_taken hn ho ht hd hq hw, rfl, rfl,
      rfl, rfl, rfl, KMap.look_put_same .., rfl⟩⟩⟩, exec_rplStart_refused, rplStart_restores, exec_replayEnd_waits.1,
    fun hr => ⟨exec_replayEnd_waits.2 k hr, replayEnd_ends hr⟩⟩
  · show execDbgSettled s = _
    rw [execDbgSettled, if_neg (by rw [hm]; decide)]
  · have hexec := exec_dbgStepFiring_looks hr hm
    rw [show s.stepBegun.stepSet c k = some (t, h, y) from hs] at hexec
    exact ⟨_, hexec, rfl, rfl, rfl⟩
  · refine (exec_dbgStepFiring_looks hr hm).trans ?_
    rw [show s.stepBegun.stepSet c k = none from hs, show s.stepBegun.stepInject c k = some u0 from hi]
  · refine (exec_dbgStepFiring_looks hr hm).trans ?_
    rw [show s.stepBegun.stepSet c k = none from hs, show s.stepBegun.stepInject c k = none from hi]
    rfl
  · show execCheckpoint s = _
    rw [execCheckpoint, hn]
  · exact (exec_checkpoint_due hn ho ht).trans (congrArg Host.Outcome.next (if_pos (by rw [hd]; rfl)))

end Sys2Proof.Machine

/-! PROOFS. Every operation of the model keeps the canonical form of memory and of the memory of every checkpoint: one lemma
per operation, in the order in which the model defines them (settles O5). Memory is written by State.putByte alone, but for
the carve of a stage, which filters it, and for the reset and the restore of a checkpoint, which replace it; so most lemmas
follow the branches of their operation and cite the lemmas of the operations it calls. -/

namespace Sys2Proof.Machine

theorem KMap.mem_of_look {α : Type} {m : KMap α} {k : Nat} {v : α} (e : KMap.look m k = some v) : (k, v) ∈ m := by
  induction m with
  | nil => exact nomatch e
  | cons x m ih =>
    unfold KMap.look at e
    split at e
    next hk =>
      obtain rfl := Option.some.inj e
      exact hk ▸ List.mem_cons_self
    next => exact List.mem_cons_of_mem _ (ih e)

theorem KMap.eq_or_mem_of_mem_put {α : Type} {m : KMap α} {k : Nat} {v : α} {p : Nat × α} (hp : p ∈ KMap.put m k v) :
    p = (k, v) ∨ p ∈ m := by
  induction m with
  | nil => exact .inl (List.mem_singleton.mp hp)
  | cons x m ih =>
    unfold KMap.put at hp
    grind

theorem Memory.wf_filter {m : List Host.Cell} (h : Memory.wf m) (p : Host.Cell → Bool) : Memory.wf (m.filter p) :=
  ⟨h.1.filter p, fun c hc => h.2 c (List.mem_of_mem_filter hc)⟩

/-- Does an outcome, where it is a state, have canonical memories? -/
def Keeps (o : Host.Outcome State Fault Refusal) : Prop := ∀ t, o = .next t → t.Inv

theorem State.Inv.next {s : State} (h : s.Inv) : Keeps (.next s) := fun _ e => Host.Outcome.next.inj e ▸ h
theorem Keeps.refused (r : Refusal) : Keeps (.refused r) := fun _ e => nomatch e

/-- A state made from one by changing fields other than mem and rpl: the shape of a structure update, whose other fields
unification reads off the goal. -/
theorem State.Inv.upd {s : State} (h : s.Inv) {time : Time} {regs : KMap Word} {full poison failed : List Nat}
    {stage : KMap Stage} {hbm : KMap Stack} {coh : Coh} {mmu : Mmu} {images : KMap Image}
    {cfgCache : KMap (List (Nat × Nat × Nat))} {invals : List CfgInv} {queues : KMap Queue} {grids : KMap Grid}
    {dist : KMap Dist} {teams : KMap Team} {cores : KMap Core} {saves : List Nat} {contexts : KMap DieContext}
    {engines : KMap Engine} {chr : Chr} {station : Station} {links : Links} {elog : Elog} {checks : List Check} {dbg : Dbg}
    {sec : Sec} {hostOut : List HostMsg} {timing : Timing} {agenda : List Move} {fires : Bool} {waiting : List Move}
    {firing : Option Firing} {free nextId : Nat} :
    State.Inv ⟨time, regs, s.mem, full, poison, failed, stage, hbm, coh, mmu, images, cfgCache, invals, queues, grids, dist,
      teams, cores, saves, contexts, engines, chr, station, links, elog, checks, dbg, s.rpl, sec, hostOut, timing, agenda,
      fires, waiting, firing, free, nextId⟩ := h

/-- A state made from one by changing fields other than mem and the checkpoints. -/
theorem State.Inv.updRpl {s : State} (h : s.Inv) {time : Time} {regs : KMap Word} {full poison failed : List Nat}
    {stage : KMap Stage} {hbm : KMap Stack} {coh : Coh} {mmu : Mmu} {images : KMap Image}
    {cfgCache : KMap (List (Nat × Nat × Nat))} {invals : List CfgInv} {queues : KMap Queue} {grids : KMap Grid}
    {dist : KMap Dist} {teams : KMap Team} {cores : KMap Core} {saves : List Nat} {contexts : KMap DieContext}
    {engines : KMap Engine} {chr : Chr} {station : Station} {links : Links} {elog : Elog} {checks : List Check} {dbg : Dbg}
    {last used : Nat} {nextAt : Option Tick} {draining : Bool} {log : List Move} {logs : KMap (List Move)}
    {replaying : Option Nat} {moves : List Move} {startedAt : Tick} {sec : Sec} {hostOut : List HostMsg} {timing : Timing}
    {agenda : List Move} {fires : Bool} {waiting : List Move} {firing : Option Firing} {free nextId : Nat} :
    State.Inv ⟨time, regs, s.mem, full, poison, failed, stage, hbm, coh, mmu, images, cfgCache, invals, queues, grids, dist,
      teams, cores, saves, contexts, engines, chr, station, links, elog, checks, dbg,
      ⟨last, used, nextAt, draining, log, logs, s.rpl.ckpts, replaying, moves, startedAt⟩, sec, hostOut, timing, agenda,
      fires, waiting, firing, free, nextId⟩ := h

theorem State.Inv.ite {p : Prop} [Decidable p] {a b : State} (ha : a.Inv) (hb : b.Inv) : (if p then a else b).Inv := by
  split
  · exact ha
  · exact hb

theorem State.Inv.foldl {α : Type} {s : State} (h : s.Inv) {f : State → α → State} {l : List α}
    (hf : ∀ (s : State) (x : α), s.Inv → (f s x).Inv) : (l.foldl f s).Inv :=
  List.foldlRecOn l f h fun s hs x _ => hf s x hs

theorem State.Inv.foldlSnd {α β : Type} {a : β × State} (h : a.2.Inv) {f : β × State → α → β × State} {l : List α}
    (hf : ∀ (a : β × State) (x : α), a.2.Inv → (f a x).2.Inv) : (l.foldl f a).2.Inv :=
  List.foldlRecOn (motive := fun a => a.2.Inv) l f h fun a ha x _ => hf a x ha

/-! ### Operations of Sys2Proof/Machine/Regs -/

theorem State.Inv.setReg {s : State} (h : s.Inv) {n : RegName} {i : Nat} {v : Word} : (s.setReg n i v).Inv := h

theorem State.Inv.setRegN {s : State} (h : s.Inv) {n : RegName} {i v : Nat} : (s.setRegN n i v).Inv := h

theorem State.Inv.setRegBit {s : State} (h : s.Inv) {n : RegName} {i b : Nat} : (s.setRegBit n i b).Inv := h

/-! ### Operations of Sys2Proof/Machine/Ops -/

theorem State.Inv.updDie {s : State} (h : s.Inv) {d : Nat} {f : DieTime → DieTime} : (s.updDie d f).Inv := h

theorem State.Inv.updCore {s : State} (h : s.Inv) {c : Nat} {f : Core → Core} : (s.updCore c f).Inv := h

theorem State.Inv.updTile {s : State} (h : s.Inv) {c t : Nat} {f : Tile → Tile} : (s.updTile c t f).Inv := h

theorem State.Inv.updCtx {s : State} (h : s.Inv) {c t : Nat} {handler : Bool} {f : PlaneCtx → PlaneCtx} :
    (s.updCtx c t handler f).Inv := h

theorem State.Inv.updThread {s : State} (h : s.Inv) {c k : Nat} {f : Thread → Thread} : (s.updThread c k f).Inv := h

theorem State.Inv.updExec {s : State} (h : s.Inv) {c k : Nat} {f : Exec → Exec} : (s.updExec c k f).Inv := h

theorem State.Inv.updRegion {s : State} (h : s.Inv) {c r : Nat} {f : Region → Region} : (s.updRegion c r f).Inv := h

theorem State.Inv.updTeam {s : State} (h : s.Inv) {t : Nat} {f : Team → Team} : (s.updTeam t f).Inv := by
  unfold State.updTeam
  split
  · exact h
  · exact h.upd

theorem State.Inv.updGrid {s : State} (h : s.Inv) {g : Nat} {f : Grid → Grid} : (s.updGrid g f).Inv := by
  unfold State.updGrid
  split
  · exact h
  · exact h.upd

theorem State.Inv.updQueue {s : State} (h : s.Inv) {q : Nat} {f : Queue → Queue} : (s.updQueue q f).Inv := h

theorem State.Inv.updDist {s : State} (h : s.Inv) {d : Nat} {f : Dist → Dist} : (s.updDist d f).Inv := h

theorem State.Inv.updImage {s : State} (h : s.Inv) {i : Nat} {f : Image → Image} : (s.updImage i f).Inv := by
  unfold State.updImage
  split
  · exact h
  · exact h.upd

theorem State.Inv.putByte {s : State} (h : s.Inv) {a : Nat} {v : Byte} : (s.putByte a v).Inv :=
  ⟨s.wf_putByte a v h.1, h.2⟩

theorem State.Inv.putBytes {s : State} (h : s.Inv) {a : Nat} {l : List Byte} : (s.putBytes a l).Inv := by
  induction l generalizing s a with
  | nil => exact h
  | cons v l ih => exact ih h.putByte

theorem State.Inv.putNat {s : State} (h : s.Inv) {a n v : Nat} : (s.putNat a n v).Inv :=
  h.putBytes

theorem State.Inv.putWords {s : State} (h : s.Inv) {a : Nat} {l : List Nat} : (s.putWords a l).Inv :=
  h.putBytes

theorem State.Inv.putCells {s : State} (h : s.Inv) {l : List Host.Cell} : (s.putCells l).Inv :=
  h.foldl (fun _ _ hu => hu.putByte)

theorem State.Inv.setPoison {s : State} (h : s.Inv) {line : Nat} : (s.setPoison line).Inv :=
  h.ite h.upd

theorem State.Inv.clearPoison {s : State} (h : s.Inv) {line : Nat} : (s.clearPoison line).Inv := h

theorem State.Inv.setFull {s : State} (h : s.Inv) {a : Nat} {v : Bool} : (s.setFull a v).Inv := by
  unfold State.setFull
  split
  · exact h.upd
  · exact h

theorem State.Inv.deliver {s : State} (h : s.Inv) {c t : Nat} {handler : Bool} {d : Dst} {tok : Token} :
    (s.deliver c t handler d tok).Inv :=
  h.foldl (fun _ _ hu => hu.updCtx)

theorem State.Inv.noteSent {s : State} (h : s.Inv) {c t : Nat} {handler : Bool} {d : Dst} : (s.noteSent c t handler d).Inv := h

theorem State.Inv.send {s : State} (h : s.Inv) {c t : Nat} {handler : Bool} {d : Dst} {tok : Token} :
    (s.send c t handler d tok).Inv :=
  h.deliver.ite h.deliver.noteSent

theorem State.Inv.emit {s : State} (h : s.Inv) {c t : Nat} {handler : Bool} {d : Dst} {toks : List Token} :
    (s.emit c t handler d toks).Inv := by
  unfold State.emit
  split
  · exact h
  · split
    · exact h
    · exact h.send.ite h.send.updTile

theorem State.Inv.emitWithTail {s : State} (h : s.Inv) {c t : Nat} {handler : Bool} {d0 d1 : Dst} {toks : List Token}
    {done : Token} : (s.emitWithTail c t handler d0 d1 toks done).Inv :=
  h.emit.emit.ite (h.emit.ite h.emit.updTile)

theorem State.Inv.putTrace {s : State} (h : s.Inv) {l : List Nat} : (s.putTrace l).Inv :=
  h.setRegN.ite h.putWords.upd

theorem State.Inv.holdTrace {s : State} (h : s.Inv) {w : TraceWait} : (s.holdTrace w).Inv := h

theorem State.Inv.fillTrace {s : State} (h : s.Inv) {n : Nat} {words : Tick → List Nat} : (s.fillTrace n words).Inv := h

theorem State.Inv.trace {s : State} (h : s.Inv) {f : Firing} {d0 : Dst} {tok : Token} : (s.trace f d0 tok).Inv :=
  h.fillTrace.ite ((h.holdTrace.ite h.putTrace).ite h)

theorem State.Inv.drainTrace {s : State} (h : s.Inv) : s.drainTrace.Inv := by
  unfold State.drainTrace
  split
  · exact h
  · refine (h.foldlSnd (fun _ _ hx => ?_)).upd
    split
    · exact hx
    · split
      · exact hx.putTrace
      · split
        · exact hx
        · exact hx

theorem State.Inv.countWait {s : State} (h : s.Inv) {c t slot w : Nat} : (s.countWait c t slot w).Inv :=
  h.ite ((h.updTile.updTile.ite h.updTile.putWords.upd).ite h.updTile)

theorem State.Inv.logError {s : State} (h : s.Inv) {src kind unit addr count : Nat} :
    (s.logError src kind unit addr count).Inv :=
  h.upd.setRegN.ite h.upd.putWords.upd

theorem State.Inv.logDiscard {s : State} (h : s.Inv) {line : Nat} : (s.logDiscard line).Inv := by
  unfold State.logDiscard
  split
  · exact h.logError
  · exact h.logError
  · exact h

theorem State.Inv.numberRecord {s : State} (h : s.Inv) {r : Record} : (s.numberRecord r).2.Inv := h

theorem State.Inv.queueRecord {s : State} (h : s.Inv) {r : Record} : (s.queueRecord r).Inv := h

theorem State.Inv.queueKept {s : State} (h : s.Inv) {r : Record} : (s.queueKept r).Inv := h

theorem State.Inv.event {s : State} (h : s.Inv) {code : Nat} {words : List Nat} : (s.event code words).Inv := h

theorem State.Inv.sendFault {s : State} (h : s.Inv) {c : Nat} {t : FaultTok} : (s.sendFault c t).Inv := h

theorem State.Inv.takeAccessFault {s : State} (h : s.Inv) {f : Firing} {k code : Nat} {addr info : Word} :
    (s.takeAccessFault f k code addr info).Inv := h

theorem State.Inv.takeFreeze {s : State} (h : s.Inv) {f : Firing} {k code : Nat} {fz : Freeze} {info : Word} :
    (s.takeFreeze f k code fz info).Inv :=
  (h.ite h.updTile).sendFault

theorem State.Inv.takeExitTrap {s : State} (h : s.Inv) {c k code : Nat} {r : Record} {afterAtomic : Bool} :
    (s.takeExitTrap c k code r afterAtomic).Inv := h

theorem State.Inv.takeWaitTrap {s : State} (h : s.Inv) {c k code : Nat} {addr info : Word} :
    (s.takeWaitTrap c k code addr info).Inv := h

theorem State.Inv.enterWaiting {s : State} (h : s.Inv) {c k blk : Nat} : (s.enterWaiting c k blk).Inv := h

theorem State.Inv.enterExited {s : State} (h : s.Inv) {c k : Nat} : (s.enterExited c k).Inv := h

theorem State.Inv.enterSleep {s : State} (h : s.Inv) {c k : Nat} {w : Wait} : (s.enterSleep c k w).Inv := h

/-! ### Operations of Sys2Proof/Machine/Operands -/

theorem State.Inv.addFlags {s : State} (h : s.Inv) {c k : Nat} {fl : FpFlags} : (s.addFlags c k fl).Inv :=
  h.ite h.updExec

theorem State.Inv.returnToPort {s : State} (h : s.Inv) {x : Site} {port : Option Nat} {d0 : Dst} {l : List Token} :
    (s.returnToPort x port d0 l).Inv := by
  unfold State.returnToPort
  split
  · exact h.updCtx
  · exact h

theorem State.Inv.sendOut {s : State} (h : s.Inv) {f : Firing} {r : Route} {o : Out} : (s.sendOut f r o).Inv :=
  h.returnToPort.emit.emit

theorem State.Inv.emitOut {s : State} (h : s.Inv) {f : Firing} {r : Route} {o : Out} : (s.emitOut f r o).Inv :=
  h.trace.sendOut

theorem State.Inv.emitDeferred {s : State} (h : s.Inv) {f : Firing} {r : Route} {fmt : Fmt} : (s.emitDeferred f r fmt).Inv :=
  h.emitOut

theorem State.Inv.emitBubble {s : State} (h : s.Inv) {f : Firing} {r : Route} {fmt : Fmt} : (s.emitBubble f r fmt).Inv :=
  h.emitOut

theorem State.Inv.freezeFiring {s : State} (h : s.Inv) {f : Firing} {ta : TagAction} {code : Nat} :
    (s.freezeFiring f ta code).Inv :=
  h.takeFreeze

theorem keeps_withFiring {s : State} (h : s.Inv) {k : State → Firing → State}
    (hk : ∀ (u : State) (f : Firing), u.Inv → (k u f).Inv) : Keeps (withFiring s k) := by
  unfold withFiring
  split
  · exact h.next
  · exact (hk _ _ h.upd).next

theorem State.Inv.fireCases {s : State} (h : s.Inv) {r : Route} {fmt : Fmt} {own : State → Firing → State} {f : Firing}
    (ho : ∀ (u : State) (f : Firing), u.Inv → (own u f).Inv) : (Machine.fireCases r fmt own s f).Inv := by
  unfold Machine.fireCases
  split
  · exact h.emitDeferred
  · split
    · exact h.emitBubble
    · exact ho s f h

theorem State.Inv.valueEffect {s : State} (h : s.Inv) {r : Route} {compute : State → Firing → Option Out} {f : Firing} :
    (Machine.valueEffect r compute s f).Inv := by
  unfold Machine.valueEffect
  split
  · exact h.freezeFiring
  · exact h.addFlags.emitOut

theorem keeps_valueFiring {s : State} (h : s.Inv) {r : Route} {fmt : Fmt} {compute : State → Firing → Option Out} :
    Keeps (valueFiring r fmt compute s) :=
  keeps_withFiring h fun _ _ hu => hu.fireCases fun _ _ hv => hv.valueEffect

theorem keeps_dataFiring {s : State} (h : s.Inv) {r : Route} {fmt : Fmt} {compute : State → Firing → Option Data} :
    Keeps (dataFiring r fmt compute s) :=
  keeps_valueFiring h

theorem keeps_passFiring {s : State} (h : s.Inv) {r : Route} {own : State → Firing → State}
    (ho : ∀ (u : State) (f : Firing), u.Inv → (own u f).Inv) : Keeps (passFiring r own s) :=
  keeps_withFiring h fun _ _ hu => hu.fireCases fun v f hv => (ho v f hv).emitOut

theorem keeps_wordFiring {s : State} (h : s.Inv) {r : Route} {own : State → Firing → State × Word}
    (ho : ∀ (u : State) (f : Firing), u.Inv → (own u f).1.Inv) : Keeps (wordFiring r own s) :=
  keeps_withFiring h fun _ _ hu => hu.fireCases fun v f hv => (ho v f hv).emitOut

theorem State.Inv.atCommit {s : State} (h : s.Inv) {f : Firing} {ta : TagAction} {a : CommitAct} : (s.atCommit f ta a).Inv := h

/-! ### Operations of Sys2Proof/Machine/IntOps -/

theorem State.Inv.intFiring1 {s : State} (h : s.Inv) {r : Route1} {w : Lane} {f : Nat → Nat → Nat} :
    Keeps (intFiring1 r w f s) :=
  keeps_dataFiring h

theorem State.Inv.intFiring2 {s : State} (h : s.Inv) {r : Route} {w : Lane} {f : Nat → Nat → Nat → Nat} :
    Keeps (intFiring2 r w f s) :=
  keeps_dataFiring h

theorem State.Inv.intFiring3 {s : State} (h : s.Inv) {r : Route} {w : Lane} {f : Nat → Nat → Nat → Nat → Nat} :
    Keeps (intFiring3 r w f s) :=
  keeps_dataFiring h

theorem keeps_execAdd {s : State} (h : s.Inv) {r : Route} {w : Lane} {x : IntLit} : Keeps (execAdd r w x s) :=
  h.intFiring2

theorem keeps_execSub {s : State} (h : s.Inv) {r : Route} {w : Lane} {x : IntLit} : Keeps (execSub r w x s) :=
  h.intFiring2

theorem keeps_execMul {s : State} (h : s.Inv) {r : Route} {w : Lane} {x : IntLit} : Keeps (execMul r w x s) :=
  h.intFiring2

theorem keeps_execMulh {s : State} (h : s.Inv) {r : Route} {w : Lane} {l : IntLit} : Keeps (execMulh r w l s) :=
  h.intFiring2

theorem keeps_execMad {s : State} (h : s.Inv) {r : Route} {w : Lane} {x : BitVec 2} : Keeps (execMad r w x s) :=
  h.intFiring3

theorem keeps_execMin {s : State} (h : s.Inv) {r : Route} {w : Lane} {l : IntLit} : Keeps (execMin r w l s) :=
  h.intFiring2

theorem keeps_execMax {s : State} (h : s.Inv) {r : Route} {w : Lane} {l : IntLit} : Keeps (execMax r w l s) :=
  h.intFiring2

theorem keeps_execAbs {s : State} (h : s.Inv) {r : Route1} {w : Lane} {signed : Bool} : Keeps (execAbs r w signed s) :=
  h.intFiring1

theorem keeps_execAnd {s : State} (h : s.Inv) {r : Route} {w : Lane} {x : IntLit} : Keeps (execAnd r w x s) :=
  h.intFiring2

theorem keeps_execOr {s : State} (h : s.Inv) {r : Route} {w : Lane} {x : IntLit} : Keeps (execOr r w x s) :=
  h.intFiring2

theorem keeps_execXor {s : State} (h : s.Inv) {r : Route} {w : Lane} {x : IntLit} : Keeps (execXor r w x s) :=
  h.intFiring2

theorem keeps_execAndn {s : State} (h : s.Inv) {r : Route} {w : Lane} {x : IntLit} : Keeps (execAndn r w x s) :=
  h.intFiring2

theorem keeps_execShl {s : State} (h : s.Inv) {r : Route} {w : Lane} {x : IntLit} : Keeps (execShl r w x s) :=
  h.intFiring2

theorem keeps_execShr {s : State} (h : s.Inv) {r : Route} {w : Lane} {x : IntLit} : Keeps (execShr r w x s) :=
  h.intFiring2

theorem keeps_execSar {s : State} (h : s.Inv) {r : Route} {w : Lane} {x : IntLit} : Keeps (execSar r w x s) :=
  h.intFiring2

theorem keeps_execRotl {s : State} (h : s.Inv) {r : Route} {w : Lane} {x : IntLit} : Keeps (execRotl r w x s) :=
  h.intFiring2

theorem keeps_execPopc {s : State} (h : s.Inv) {r : Route1} {w : Lane} {x : Bool} : Keeps (execPopc r w x s) :=
  h.intFiring1

theorem keeps_execClz {s : State} (h : s.Inv) {r : Route1} {w : Lane} {x : Bool} : Keeps (execClz r w x s) :=
  h.intFiring1

theorem keeps_execCtz {s : State} (h : s.Inv) {r : Route1} {w : Lane} {x : Bool} : Keeps (execCtz r w x s) :=
  h.intFiring1

theorem keeps_execBrev {s : State} (h : s.Inv) {r : Route1} {w : Lane} {x : Bool} : Keeps (execBrev r w x s) :=
  h.intFiring1

theorem keeps_execBfx {s : State} (h : s.Inv) {r : Route} {w : Lane} {l : IntLit} : Keeps (execBfx r w l s) :=
  h.intFiring2

theorem keeps_execBfi {s : State} (h : s.Inv) {r : Route} {w : Lane} {x : BitVec 2} : Keeps (execBfi r w x s) :=
  h.intFiring3

theorem keeps_execCmp {s : State} (h : s.Inv) {r : Route} {w : Lane} {c : Cond} {l : IntLit} : Keeps (execCmp r w c l s) :=
  h.intFiring2

theorem keeps_execLea {s : State} (h : s.Inv) {r : Route} {x : IntLit} : Keeps (execLea r x s) :=
  keeps_dataFiring h

theorem keeps_execAdds {s : State} (h : s.Inv) {r : Route} {w : Lane} {l : IntLit} : Keeps (execAdds r w l s) :=
  keeps_dataFiring h

theorem keeps_execSubs {s : State} (h : s.Inv) {r : Route} {w : Lane} {l : IntLit} : Keeps (execSubs r w l s) :=
  keeps_dataFiring h

theorem keeps_faultFiring {s : State} (h : s.Inv) {r : Route} {fmt : Fmt} {code : Nat} : Keeps (faultFiring r fmt code s) :=
  keeps_withFiring h (fun _ _ hu => hu.fireCases (fun _ _ hu1 => hu1.freezeFiring))

theorem keeps_execIdiv {s : State} (h : s.Inv) {r : Route} {x : BitVec 2} {x1 : BitVec 32} : Keeps (execIdiv r x x1 s) :=
  keeps_faultFiring h

theorem keeps_execIrem {s : State} (h : s.Inv) {r : Route} {x : BitVec 2} {x1 : BitVec 32} : Keeps (execIrem r x x1 s) :=
  keeps_faultFiring h

theorem keeps_execIdivn {s : State} (h : s.Inv) {r : Route} {x : BitVec 2} {x1 : BitVec 32} : Keeps (execIdivn r x x1 s) :=
  keeps_faultFiring h

theorem keeps_execIremn {s : State} (h : s.Inv) {r : Route} {x : BitVec 2} {x1 : BitVec 32} : Keeps (execIremn r x x1 s) :=
  keeps_faultFiring h

theorem keeps_execUnassignedOpcode {s : State} (h : s.Inv) {x : BitVec 8} {r : Route} {x1 : BitVec 2} {x2 : BitVec 32} :
    Keeps (execUnassignedOpcode x r x1 x2 s) :=
  keeps_faultFiring h

theorem keeps_execEmulationOpcode {s : State} (h : s.Inv) {x : BitVec 8} {r : Route} {x1 : BitVec 2} {x2 : BitVec 32} :
    Keeps (execEmulationOpcode x r x1 x2 s) :=
  keeps_faultFiring h

/-! ### Operations of Sys2Proof/Machine/RouteOps -/

theorem keeps_execNop {s : State} (h : s.Inv) {x x1 : Src} {x2 : TagAction} : Keeps (execNop x x1 x2 s) :=
  keeps_withFiring h (fun _ _ hu => hu.trace)

theorem keeps_execMov {s : State} (h : s.Inv) {r : Route} : Keeps (execMov r s) :=
  keeps_withFiring h (fun _ _ hu => hu.fireCases (fun _ _ hu1 => hu1.valueEffect))

theorem keeps_execLit {s : State} (h : s.Inv) {r : Route1} {kind : LitKind} {v : BitVec 32} : Keeps (execLit r kind v s) :=
  keeps_dataFiring h

theorem keeps_execSel {s : State} (h : s.Inv) {r : Route} : Keeps (execSel r s) :=
  keeps_withFiring h (fun _ _ hu => hu.freezeFiring.ite hu.emitOut)

theorem keeps_execGate {s : State} (h : s.Inv) {r : Route} {sense : Bool} : Keeps (execGate r sense s) :=
  keeps_withFiring h (fun _ _ hu => hu.freezeFiring.ite hu.emitOut)

theorem keeps_execSteer {s : State} (h : s.Inv) {r : Route} {sense : Bool} : Keeps (execSteer r sense s) :=
  keeps_withFiring h (fun _ _ hu => hu.freezeFiring.ite hu.emitOut)

theorem keeps_execPack {s : State} (h : s.Inv) {r : Route} {w : Lane} {signed sat : Bool} : Keeps (execPack r w signed sat s) :=
  keeps_dataFiring h

theorem keeps_execFmts {s : State} (h : s.Inv) {r : Route1} {m : Fmt} : Keeps (execFmts r m s) :=
  keeps_dataFiring h

theorem keeps_execKmerge {s : State} (h : s.Inv) {r : Route} {key32 desc signed : Bool} :
    Keeps (execKmerge r key32 desc signed s) :=
  keeps_valueFiring h

theorem keeps_execKsel {s : State} (h : s.Inv) {r : Route} {key32 desc signed : Bool} :
    Keeps (execKsel r key32 desc signed s) :=
  keeps_valueFiring h

theorem keeps_execBkt {s : State} (h : s.Inv) {r : Route2} {mode : BktMode} {signed : Bool} {ns : BitVec 5} :
    Keeps (execBkt r mode signed ns s) :=
  keeps_dataFiring h

theorem keeps_execSreg {s : State} (h : s.Inv) {r : Route1} {clear : Bool} {sel : SReg} : Keeps (execSreg r clear sel s) :=
  keeps_wordFiring h (fun _ _ hu => hu.updExec.ite hu)

theorem keeps_execGtime {s : State} (h : s.Inv) {r : Route1} {x : Bool} : Keeps (execGtime r x s) :=
  keeps_wordFiring h (fun _ _ hu => hu)

theorem keeps_execPmark {s : State} (h : s.Inv) {r : Route1} {code : BitVec 16} : Keeps (execPmark r code s) :=
  keeps_withFiring h (fun _ _ hu => hu.fireCases (fun _ _ hu1 => hu1.trace.sendOut))

theorem keeps_execBkpt {s : State} (h : s.Inv) {sa : Src} {x : BitVec 16} : Keeps (execBkpt sa x s) :=
  keeps_faultFiring h

theorem keeps_execTrap {s : State} (h : s.Inv) {sa : Src} {x : BitVec 16} : Keeps (execTrap sa x s) :=
  keeps_faultFiring h

/-! ### Operations of Sys2Proof/Machine/FloatOps -/

theorem State.Inv.floatFiring1 {s : State} (h : s.Inv) {r : Route1} {x : FElem} {c : FloatCtl}
    {op : RoundCtl → FloatFmt → Nat → Nat × FpFlags} : Keeps (floatFiring1 r x c op s) :=
  keeps_dataFiring h

theorem State.Inv.floatFiring2 {s : State} (h : s.Inv) {r : Route} {x : FElem} {c : FloatCtl}
    {op : RoundCtl → FloatFmt → Nat → Nat → Nat × FpFlags} : Keeps (floatFiring2 r x c op s) :=
  keeps_dataFiring h

theorem keeps_execFadd {s : State} (h : s.Inv) {r : Route} {x : FElem} {c : FloatCtl} : Keeps (execFadd r x c s) :=
  h.floatFiring2

theorem keeps_execFsub {s : State} (h : s.Inv) {r : Route} {x : FElem} {c : FloatCtl} : Keeps (execFsub r x c s) :=
  h.floatFiring2

theorem keeps_execFmul {s : State} (h : s.Inv) {r : Route} {x : FElem} {c : FloatCtl} : Keeps (execFmul r x c s) :=
  h.floatFiring2

theorem keeps_execFmin {s : State} (h : s.Inv) {r : Route} {x : FElem} : Keeps (execFmin r x s) :=
  h.floatFiring2

theorem keeps_execFmax {s : State} (h : s.Inv) {r : Route} {x : FElem} : Keeps (execFmax r x s) :=
  h.floatFiring2

theorem keeps_execFfma {s : State} (h : s.Inv) {r : Route} {x : FElem} {x1 : BitVec 2} : Keeps (execFfma r x x1 s) :=
  keeps_dataFiring h

theorem keeps_execFabs {s : State} (h : s.Inv) {r : Route1} {x : FElem} : Keeps (execFabs r x s) :=
  h.floatFiring1

theorem keeps_execFneg {s : State} (h : s.Inv) {r : Route1} {x : FElem} : Keeps (execFneg r x s) :=
  h.floatFiring1

theorem keeps_execFcmp {s : State} (h : s.Inv) {r : Route} {x : FElem} {c : Cond} : Keeps (execFcmp r x c s) :=
  keeps_dataFiring h

theorem keeps_execFclass {s : State} (h : s.Inv) {r : Route1} {x : FClassElem} : Keeps (execFclass r x s) :=
  keeps_dataFiring h

theorem keeps_execFrcp {s : State} (h : s.Inv) {r : Route1} {x : FElem} {c : FloatCtl} : Keeps (execFrcp r x c s) :=
  h.floatFiring1

theorem keeps_execFrsq {s : State} (h : s.Inv) {r : Route1} {x : FElem} {c : FloatCtl} : Keeps (execFrsq r x c s) :=
  h.floatFiring1

theorem keeps_execFsqrt {s : State} (h : s.Inv) {r : Route1} {x : FElem} {c : FloatCtl} : Keeps (execFsqrt r x c s) :=
  h.floatFiring1

theorem keeps_execFexp2 {s : State} (h : s.Inv) {r : Route1} {x : FElem} {c : FloatCtl} : Keeps (execFexp2 r x c s) :=
  h.floatFiring1

theorem keeps_execFlog2 {s : State} (h : s.Inv) {r : Route1} {x : FElem} {c : FloatCtl} : Keeps (execFlog2 r x c s) :=
  h.floatFiring1

theorem keeps_execFsin {s : State} (h : s.Inv) {r : Route1} {x : FElem} {c : FloatCtl} : Keeps (execFsin r x c s) :=
  h.floatFiring1

theorem keeps_execFcos {s : State} (h : s.Inv) {r : Route1} {x : FElem} {c : FloatCtl} : Keeps (execFcos r x c s) :=
  h.floatFiring1

theorem keeps_execFtanh {s : State} (h : s.Inv) {r : Route1} {x : FElem} {c : FloatCtl} : Keeps (execFtanh r x c s) :=
  h.floatFiring1

theorem keeps_execFscale {s : State} (h : s.Inv) {r : Route} {x : FElem} {c : FloatCtl} : Keeps (execFscale r x c s) :=
  keeps_dataFiring h

theorem keeps_execFsum {s : State} (h : s.Inv) {r : Route} {x : FElem4} {c : FloatCtl} : Keeps (execFsum r x c s) :=
  keeps_valueFiring h

theorem keeps_execFdot {s : State} (h : s.Inv) {r : Route} {x : FElem4} {c : FloatCtl} : Keeps (execFdot r x c s) :=
  keeps_valueFiring h

theorem keeps_execRed {s : State} (h : s.Inv) {r : Route} {md : BitVec 2} {l : RedLit} : Keeps (execRed r md l s) :=
  keeps_valueFiring h

theorem keeps_execScan {s : State} (h : s.Inv) {r : Route} {md : BitVec 2} {l : RedLit} : Keeps (execScan r md l s) :=
  keeps_valueFiring h

theorem keeps_cvtFiring {s : State} (h : s.Inv) {r : Route} {l : CvtLit} {dst : Fmt}
    {op : CvtLit → StochCtx → Nat → Word → Word → Word × FpFlags} : Keeps (cvtFiring r l dst op s) :=
  keeps_dataFiring h

theorem keeps_execCvt {s : State} (h : s.Inv) {r : Route} {l : CvtLit} : Keeps (execCvt r l s) :=
  keeps_cvtFiring h

theorem keeps_execCvti {s : State} (h : s.Inv) {r : Route} {l : CvtLit} : Keeps (execCvti r l s) :=
  keeps_cvtFiring h

theorem keeps_execCvtf {s : State} (h : s.Inv) {r : Route} {l : CvtLit} : Keeps (execCvtf r l s) :=
  keeps_cvtFiring h

theorem keeps_execQpack {s : State} (h : s.Inv) {r : Route1} {x : FElem} {type : BitVec 2} {rnd : Rnd} :
    Keeps (execQpack r x type rnd s) :=
  keeps_valueFiring h

theorem keeps_execQunpk {s : State} (h : s.Inv) {r : Route1} {x : FElem} {n : BitVec 2} {j0 : BitVec 4} :
    Keeps (execQunpk r x n j0 s) :=
  keeps_valueFiring h

/-! ### Operations of Sys2Proof/Machine/Matrix -/

theorem State.Inv.updMx {s : State} (h : s.Inv) {c t : Nat} {f : Matrix → Matrix} : (s.updMx c t f).Inv := h

theorem keeps_execMma {s : State} (h : s.Inv) {x x1 : Src} {x2 x3 : BitVec 2} : Keeps (execMma x x1 x2 x3 s) :=
  keeps_withFiring h (fun _ _ hu => hu.trace.updMx)

theorem keeps_execMmarm {s : State} (h : s.Inv) {r : Route1} {clr : Bool} {ncol : BitVec 4} {wrows rowbase : BitVec 8} :
    Keeps (execMmarm r clr ncol wrows rowbase s) :=
  keeps_withFiring h (fun _ _ hu => hu.fireCases (fun _ _ hu1 => hu1.emitOut.ite hu1.trace.updMx))

theorem State.Inv.sendOrWait {s : State} (h : s.Inv) {c t : Nat} {d : Dst} {tok : Token} : (s.sendOrWait c t d tok).Inv :=
  h.ite (h.send.ite h.updTile)

theorem State.Inv.sectionDone {s : State} (h : s.Inv) {c t : Nat} : (s.sectionDone c t).Inv := by
  unfold State.sectionDone
  dsimp only
  split
  · exact h
  · split
    · exact h.updMx
    · exact h.updMx.sendOrWait.sendOrWait

theorem keeps_execRowStep {s : State} (h : s.Inv) {core tile : Nat} : Keeps (execRowStep core tile s) := by
  unfold execRowStep
  refine (State.Inv.ite ?_ h).next
  split
  · exact h
  · exact h.updMx.updMx.sectionDone.ite h.updMx

theorem keeps_execAccrd {s : State} (h : s.Inv) {r : Route1} : Keeps (execAccrd r s) := by
  unfold execAccrd
  refine keeps_withFiring h (fun _ _ hu => ?_)
  exact hu.emitDeferred.ite (hu.emitOut.ite ((hu.updMx.ite hu).emitOut.ite hu.emitOut))

theorem keeps_execAccclr {s : State} (h : s.Inv) {r : Route1} {clrf : Bool} {nrow : BitVec 8} :
    Keeps (execAccclr r clrf nrow s) :=
  keeps_passFiring h (fun _ _ hu => hu.updMx)

theorem keeps_execAccdr {s : State} (h : s.Inv) {r : Route} {out : AccOut} {r3 r2 : Dst} : Keeps (execAccdr r out r3 r2 s) :=
  keeps_withFiring h (fun _ _ hu => hu.trace.emit.ite (hu.trace.emit.ite hu.updMx.trace.emit))

/-! ### Operations of Sys2Proof/Machine/Match -/

theorem State.Inv.popPort {s : State} (h : s.Inv) {c t : Nat} {handler : Bool} {port : Nat} :
    (s.popPort c t handler port).Inv := h

theorem State.Inv.freezeToken {s : State} (h : s.Inv) {c t : Nat} {handler : Bool} {slot : Nat} {bits : SlotBits}
    {code port : Nat} {tok : Token} {info : Word} : (s.freezeToken c t handler slot bits code port tok info).Inv :=
  h.popPort.takeFreeze

theorem State.Inv.putHead {s : State} (h : s.Inv) {c t port : Nat} {handler : Bool} {a : Arrival} {full : Bool} :
    (s.putHead c t port handler a full).Inv := by
  unfold State.putHead
  split
  · exact h.freezeToken
  · exact h
  · exact h
  · split
    · exact h
    · exact h.popPort.updMx
  · exact h.upd.updTile

theorem State.Inv.arrive {s : State} (h : s.Inv) {c t port : Nat} {handler : Bool} : (s.arrive c t port handler).Inv := by
  unfold State.arrive
  split
  · exact h
  · exact h.popPort.updCtx.ite h.putHead

theorem keeps_execTokenArrive {s : State} (h : s.Inv) {core tile port : Nat} {handler : Bool} :
    Keeps (execTokenArrive core tile port handler s) :=
  h.arrive.next

theorem keeps_execPurge {s : State} (h : s.Inv) {r : Route1} {side : PurgeSide} {slot : BitVec 5} :
    Keeps (execPurge r side slot s) :=
  keeps_passFiring h (fun _ _ hu => hu.updCtx)

/-! ### Operations of Sys2Proof/Machine/Coherence -/

theorem State.Inv.setDir {s : State} (h : s.Inv) {line : Nat} {x : DirEntry} : (s.setDir line x).Inv := h

theorem State.Inv.setBase {s : State} (h : s.Inv) {line : Nat} {d : BitVec 512} : (s.setBase line d).Inv :=
  h.putNat

theorem State.Inv.setL2 {s : State} (h : s.Inv) {n line : Nat} {x : L2Line} : (s.setL2 n line x).Inv := h

theorem State.Inv.dropL2 {s : State} (h : s.Inv) {n line : Nat} : (s.dropL2 n line).Inv := h

theorem State.Inv.setCopy {s : State} (h : s.Inv) {n line : Nat} {d : BitVec 512} : (s.setCopy n line d).Inv := by
  unfold State.setCopy
  split
  · exact h.setBase
  · split
    · exact h.setL2
    · exact h

theorem State.Inv.updL1 {s : State} (h : s.Inv) {c : Nat} {f : KMap L1Word → KMap L1Word} : (s.updL1 c f).Inv := h

theorem State.Inv.setCopyPoison {s : State} (h : s.Inv) {n line : Nat} {b : Bool} : (s.setCopyPoison n line b).Inv := by
  unfold State.setCopyPoison
  split
  · exact h.setPoison.ite h.clearPoison
  · split
    · exact h.setL2
    · exact h

theorem State.Inv.setBaseBit {s : State} (h : s.Inv) {line : Nat} {d : BitVec 512} {b : Bool} : (s.setBaseBit line d b).Inv :=
  h.setBase.setPoison.ite h.setBase.clearPoison

theorem State.Inv.collect {s : State} (h : s.Inv) {n line : Nat} : (s.collect n line).Inv :=
  h.ite h.setCopy

theorem State.Inv.unregister {s : State} (h : s.Inv) {n line : Nat} : (s.unregister n line).Inv := h

theorem State.Inv.endWords {s : State} (h : s.Inv) {n line : Nat} {ws : List Nat} : (s.endWords n line ws).Inv :=
  h.ite (h.setCopy.foldl (fun _ _ hu => hu.updL1))

theorem State.Inv.dropValid {s : State} (h : s.Inv) {c : Nat} {ws : List Nat} : (s.dropValid c ws).Inv := h

theorem State.Inv.putL1 {s : State} (h : s.Inv) {c w : Nat} {x : L1Word} : (s.putL1 c w x).Inv := by
  unfold State.putL1
  refine State.Inv.updL1 ?_
  split
  · exact h
  · exact h.setCopy.updL1

theorem State.Inv.selfInvalidate {s : State} (h : s.Inv) {c : Nat} : (s.selfInvalidate c).Inv := h

theorem State.Inv.bindWord {s : State} (h : s.Inv) {c w mode : Nat} {v : BitVec 32} : (s.bindWord c w mode v).Inv :=
  h.ite h.putL1

theorem State.Inv.newStamp {s : State} (h : s.Inv) : s.newStamp.Inv := h

theorem State.Inv.recallLine {s : State} (h : s.Inv) {line : Nat} : (s.recallLine line).Inv := by
  unfold State.recallLine
  split
  · exact h
  · split
    · exact h.setDir
    · refine State.Inv.setDir ?_
      exact (h.ite h.collect.unregister).dropL2.setBaseBit.ite ((h.ite h.collect.unregister).dropL2)

theorem State.Inv.writeSent {s : State} (h : s.Inv) {sent : Bool} {line : Nat} : (s.writeSent sent line).Inv := by
  unfold State.writeSent
  split
  · exact h.upd
  · exact h

theorem State.Inv.giveUpOuter {s : State} (h : s.Inv) {line : Nat} : (s.giveUpOuter line).Inv :=
  (h.recallLine.ite h.recallLine.collect.unregister).upd.writeSent

theorem State.Inv.l2Evict {s : State} (h : s.Inv) {n line : Nat} : (s.l2Evict n line).Inv := by
  unfold State.l2Evict
  split
  · exact h.dropL2.ite h.recallLine
  · exact h.giveUpOuter

theorem State.Inv.l2Make {s : State} (h : s.Inv) {n line : Nat} : (s.l2Make n line).Inv := by
  unfold State.l2Make
  dsimp only
  split
  · exact h
  · split
    · exact h.l2Evict
    · exact h

theorem State.Inv.l2Shrink {s : State} (h : s.Inv) {n cap : Nat} : (s.l2Shrink n cap).Inv :=
  h.foldl (fun _ _ hu => hu.l2Evict)

theorem State.Inv.fillL2 {s : State} (h : s.Inv) {n line : Nat} {x : L2Line} : (s.fillL2 n line x).Inv :=
  h.l2Make.setL2

theorem State.Inv.presenceAdd {s : State} (h : s.Inv) {page : Nat} {t : State} (e : s.presenceAdd page = some t) : t.Inv := by
  unfold State.presenceAdd at e
  split at e
  · exact Option.some.inj e ▸ h
  · dsimp only at e
    split at e
    · exact Option.some.inj e ▸ h.upd
    · obtain ⟨_, -, rfl⟩ := Option.map_eq_some_iff.mp e
      exact (State.Inv.foldl h fun _ _ hu => hu.giveUpOuter).upd

theorem State.Inv.request {s : State} (h : s.Inv) {line node : Nat} {kind : ReqKind} {mode2 : Bool} :
    (s.request line node kind mode2).Inv :=
  h.ite h.upd

theorem State.Inv.requestOuter {s : State} (h : s.Inv) {line : Nat} {own : Bool} : (s.requestOuter line own).Inv := by
  unfold State.requestOuter
  split
  · exact h
  · dsimp only
    split
    · exact h
    · next u he =>
      have hu : u.Inv := by
        split at he
        · exact h.presenceAdd he
        · exact Option.some.inj he ▸ h
      exact hu.upd

theorem State.Inv.requestRead {s : State} (h : s.Inv) {n line mode : Nat} : (s.requestRead n line mode).Inv := by
  unfold State.requestRead
  dsimp only
  split
  · exact h
  · split
    · split
      · exact h.requestOuter.ite h.requestOuter.request
      · exact (h.requestOuter.ite h.requestOuter.request).ite (h.requestOuter.ite h.requestOuter.request)
    · exact (h.ite h.request).ite ((h.ite h.request).ite (h.ite h.request))

theorem State.Inv.readRequest {s : State} (h : s.Inv) {line : Nat} : (s.readRequest line).Inv :=
  (h.requestOuter.ite h).request

theorem State.Inv.requestOwn {s : State} (h : s.Inv) {n line : Nat} : (s.requestOwn n line).Inv :=
  (h.requestOuter.ite h).ite ((h.requestOuter.ite h).request)

theorem State.Inv.breakResv {s : State} (h : s.Inv) {granule : Nat} {who : Option (Nat × Nat)} {p : Nat → Bool} :
    (s.breakResv granule who p).Inv := h

theorem State.Inv.invalidateSharers {s : State} (h : s.Inv) {line : Nat} : (s.invalidateSharers line).Inv :=
  h.ite h.upd

theorem State.Inv.homeWrote {s : State} (h : s.Inv) {line : Nat} : (s.homeWrote line).Inv :=
  h.invalidateSharers.setDir.ite h.invalidateSharers

theorem State.Inv.outerWrote {s : State} (h : s.Inv) {line : Nat} : (s.outerWrote line).Inv := by
  unfold State.outerWrote
  split
  · exact h
  · exact h.upd

theorem State.Inv.registerWord {s : State} (h : s.Inv) {c k team w : Nat} {v : BitVec 32} :
    (s.registerWord c k team w v).Inv := by
  unfold State.registerWord
  extract_lets line n owns s1 s2 s3 s4 s5 u s6
  have h1 : s1.Inv := h.ite h.collect
  have h2 : s2.Inv := by
    unfold s2
    split
    · exact h1.ite h1.updL1
    · exact h1
  have h4 : s4.Inv := by
    unfold s4
    split
    · exact State.Inv.ite h2.putL1.setL2 h2.putL1
    · exact h2.putL1
  exact State.Inv.ite (h4.homeWrote.outerWrote.ite h4).breakResv (h2.putL1.ite h2.putL1.upd).requestOwn.breakResv

theorem State.Inv.setCopyCells {s : State} (h : s.Inv) {n line : Nat} {cells : List Host.Cell} :
    (s.setCopyCells n line cells).Inv :=
  h.putCells.ite h.setCopy

theorem State.Inv.writeAtSlice {s : State} (h : s.Inv) {n : Nat} {who : Option (Nat × Nat)} {cells : List Host.Cell} :
    (s.writeAtSlice n who cells).Inv := by
  unfold State.writeAtSlice
  dsimp only
  refine ((h.foldl (fun _ _ hu => ?_)).foldl (fun _ _ hu => hu.setCopyCells)).foldl
    (fun _ _ hu => hu.homeWrote.outerWrote.breakResv)
  split
  · exact hu
  · split
    · split
      · split
        · exact hu.setL2
        · exact hu
      · split
        · exact hu.endWords.setL2
        · exact hu.endWords
    · split
      · exact hu
      · exact hu.endWords

theorem State.Inv.agentRequest {s : State} (h : s.Inv) {line : Nat} : (s.agentRequest line).Inv :=
  h.ite h.requestOwn

theorem State.Inv.domainWrite {s : State} (h : s.Inv) {c k team line : Nat} {cells : List Host.Cell} {bad : Bool} :
    (s.domainWrite c k team line cells bad).Inv := h

theorem State.Inv.answerReq {s : State} (h : s.Inv) {r : LineReq} : (s.answerReq r).Inv := h

theorem State.Inv.dirEvict {s : State} (h : s.Inv) {line : Nat} : (s.dirEvict line).Inv := by
  unfold State.dirEvict
  split
  · exact h
  · split
    · exact h
    · exact h.recallLine.upd

theorem State.Inv.grantLease {s : State} (h : s.Inv) {line n : Nat} {mode2 : Bool} : (s.grantLease line n mode2).Inv :=
  h.dirEvict.setDir.fillL2.ite h.dirEvict.setDir

theorem State.Inv.forwardRead {s : State} (h : s.Inv) {line : Nat} {t : Tick} : (s.forwardRead line t).Inv := by
  unfold State.forwardRead
  split
  · exact h
  · split
    · exact h.setDir
    · exact h.collect.setBaseBit.setL2.setDir.ite h.collect.setBaseBit.setL2

theorem State.Inv.forwardPlain {s : State} (h : s.Inv) {line : Nat} : (s.forwardPlain line).Inv := by
  unfold State.forwardPlain
  split
  · exact h.forwardRead
  · exact h

theorem State.Inv.grantOwn {s : State} (h : s.Inv) {line n : Nat} {kind : ReqKind} : (s.grantOwn line n kind).Inv := by
  unfold State.grantOwn
  extract_lets home s1 s2 s3 e s4 s5 done s6 s7
  have h3 : s3.Inv := State.Inv.ite (h.invalidateSharers.dirEvict.ite h.invalidateSharers)
    (h.invalidateSharers.dirEvict.ite h.invalidateSharers).collect.unregister
  have h4 : s4.Inv := h3.setDir.ite (h3.setDir.ite h3)
  have h5 : s5.Inv := by
    unfold s5
    split
    · split
      · exact h4.fillL2
      · exact h4.fillL2
    · exact h4
  refine (State.Inv.ite h5.upd h5.upd.outerWrote).foldl fun _ _ hu => ?_
  split
  · exact hu.setCopyPoison.breakResv
  · exact hu.breakResv

theorem State.Inv.dropLeases {s : State} (h : s.Inv) {n : Nat} : (s.dropLeases n).Inv := h

/-! ### Operations of Sys2Proof/Machine/Translate -/

theorem State.Inv.tlbFill {s : State} (h : s.Inv) {pd : Nat} {c : Option Nat} {aspace va size leaf : Nat} :
    (s.tlbFill pd c aspace va size leaf).Inv := h

theorem State.Inv.upperFill {s : State} (h : s.Inv) {pd : Nat} {l : List (Nat × Word)} : (s.upperFill pd l).Inv := h

theorem State.Inv.startWalk {s : State} (h : s.Inv) {pd aspace va : Nat} {waiter : Nat × Nat} :
    (s.startWalk pd aspace va waiter).Inv := by
  unfold State.startWalk
  dsimp only
  split
  · exact h.upd
  · exact h.upd

theorem State.Inv.dropXlat {s : State} (h : s.Inv) {aspace va n : Nat} : (s.dropXlat aspace va n).Inv := h

/-! ### Operations of Sys2Proof/Machine/Access -/

theorem State.Inv.report {s : State} (h : s.Inv) {c k id : Nat} {i : Instr} : (s.report c k id i).Inv := by
  unfold State.report
  split
  · exact h
  · exact h.ite h.updExec

theorem State.Inv.accessId {s : State} (h : s.Inv) {c k : Nat} : (s.accessId c k).2.Inv := by
  unfold State.accessId
  split
  · exact h
  · exact h.updExec

theorem State.Inv.emitFault {s : State} (h : s.Inv) {i : Instr} {f : Firing} {r : Route} {id code : Nat} :
    (s.emitFault i f r id code).Inv :=
  h.emitOut

theorem State.Inv.accessFaultAt {s : State} (h : s.Inv) {i : Instr} {f : Firing} {r : Route} {id code va : Nat}
    {write : Bool} : (s.accessFaultAt i f r id code va write).Inv :=
  h.takeAccessFault.updExec.emitFault

theorem State.Inv.accessFault {s : State} (h : s.Inv) {i : Instr} {f : Firing} {r : Route} {id code va : Nat} :
    (s.accessFault i f r id code va).Inv :=
  h.accessFaultAt

theorem State.Inv.emitIdle {s : State} (h : s.Inv) {i : Instr} {f : Firing} {r : Route} {id : Nat} :
    (s.emitIdle i f r id).Inv :=
  h.updExec.emitOut.ite h.emitOut

theorem State.Inv.choose {s : State} (h : s.Inv) {n : Nat} : (s.choose n).2.Inv := by
  unfold State.choose
  split
  · exact h
  · exact h.upd

theorem State.Inv.forwardUnit {s : State} (h : s.Inv) {x : Exec} {id : Nat} {deps unit : List Nat} :
    (s.forwardUnit x id deps unit).2.Inv := by
  unfold State.forwardUnit
  dsimp only
  split
  · exact h
  · exact h.choose.choose

theorem State.Inv.forwardReg {s : State} (h : s.Inv) {x : Exec} {t : Thread} {id : Nat} {deps : List Nat} {n : Nat} :
    (s.forwardReg x t id deps n).2.Inv := by
  unfold State.forwardReg
  dsimp only
  split
  · exact h.choose.choose
  · exact h.choose.choose

theorem State.Inv.buffer {s : State} (h : s.Inv) {c k : Nat} {b : Buffered} : (s.buffer c k b).Inv := h

theorem State.Inv.placeStore {s : State} (h : s.Inv) {i : Instr} {f : Firing} {r : Route} {id : Nat}
    {bytes : List (Nat × Nat)} : (s.placeStore i f r id bytes).Inv :=
  h.buffer.emitOut

theorem State.Inv.requestBytes {s : State} (h : s.Inv) {c : Nat} {i : Instr} {bytes : List (Nat × Nat)} :
    (s.requestBytes c i bytes).Inv :=
  h.foldl (fun _ _ hu => (hu.ite hu.requestOwn).ite hu.requestRead)

theorem State.Inv.outstanding {s : State} (h : s.Inv) {f : Firing} {r : Route} {id : Nat} {st : AccessStage} {due : Nat}
    {deadline : Option Tick} {bytes : List (Nat × Nat)} : (s.outstanding f r id st due deadline bytes).2.Inv :=
  (h.holdTrace.ite h).upd.updCore

theorem State.Inv.prefetch {s : State} (h : s.Inv) {c : Nat} {level : PrefLevel} {pa mode : Nat} :
    (s.prefetch c level pa mode).Inv := by
  unfold State.prefetch
  dsimp only
  split
  · exact h
  · split
    · exact h.ite h.requestOwn
    · exact h.requestRead
    · split
      · refine h.newStamp.foldl (fun _ _ hu => ?_)
        split
        · exact hu.ite hu.bindWord
        · exact hu
      · exact h.requestRead

theorem State.Inv.prefDone {s : State} (h : s.Inv) {i : Instr} {f : Firing} {r : Route} {id : Nat} :
    (s.prefDone i f r id).Inv :=
  h.emitOut

theorem State.Inv.accessFails {s : State} (h : s.Inv) {i : Instr} {f : Firing} {r : Route} {id code va : Nat} :
    (s.accessFails i f r id code va).Inv := by
  unfold State.accessFails
  split
  · exact h.prefDone
  · exact h.accessFaultAt

theorem State.Inv.accessChecked {s : State} (h : s.Inv) {i : Instr} {f : Firing} {r : Route} {id : Nat}
    {bytes : List (Nat × Nat)} : (s.accessChecked i f r id bytes).Inv := by
  unfold State.accessChecked
  split
  · exact h.prefetch.prefDone
  · exact h.placeStore.ite (h.accessFault.ite h.requestBytes.outstanding)

theorem State.Inv.startAccess {s : State} (h : s.Inv) {i : Instr} {f : Firing} {r : Route} {id : Nat} :
    (s.startAccess i f r id).Inv := by
  unfold State.startAccess
  dsimp only
  split
  · exact h.freezeFiring
  · split
    · exact h.accessFails
    · exact h.accessChecked
    · exact h.outstanding.startWalk

theorem keeps_memFiring {s : State} (h : s.Inv) {i : Instr} {r : Route} {own : State → Firing → Nat → State}
    (ho : ∀ (u : State) (f : Firing) (id : Nat), u.Inv → (own u f id).Inv) : Keeps (memFiring i r own s) := by
  refine keeps_withFiring h fun _ _ hu => ?_
  dsimp only
  split
  · exact hu.accessId.report.emitIdle
  · exact ho _ _ _ hu.accessId.report

theorem State.Inv.bindUnits {s : State} (h : s.Inv) {c : Nat} {bytes : List (Nat × Nat)} {units : List (List Nat)} :
    (s.bindUnits c bytes units).Inv :=
  h.newStamp.foldl (fun _ _ hu => hu.ite (hu.dropValid.foldl (fun _ _ hu1 => hu1.bindWord)))

theorem State.Inv.poisonLoad {s : State} (h : s.Inv) {i : Instr} {f : Firing} {r : Route} {id va n : Nat} :
    (s.poisonLoad i f r id va n).Inv := by
  unfold State.poisonLoad
  split
  · exact h.takeAccessFault.updExec.returnToPort.emitWithTail
  · exact h.takeAccessFault.updExec.returnToPort.emitWithTail
  · exact h.takeAccessFault.updExec.emitFault

theorem State.Inv.acquire {s : State} (h : s.Inv) {c : Nat} {i : Instr} : (s.acquire c i).Inv :=
  h.selfInvalidate.ite h

theorem State.Inv.setResv {s : State} (h : s.Inv) {c k pa : Nat} : (s.setResv c k pa).Inv := h

theorem State.Inv.performLoad {s : State} (h : s.Inv) {i : Instr} {f : Firing} {r : Route} {x : Access} {mem : List Byte} :
    (s.performLoad i f r x mem).Inv := by
  unfold State.performLoad
  dsimp only
  split
  · exact h
  · generalize hp : List.foldl _ _ (loadUnits _ _) = p
    have hu : p.2.Inv := hp ▸ State.Inv.foldlSnd h fun _ _ ha => ha.forwardUnit
    have hb (b : Prop) [Decidable b] (l : List (List Nat)) : (if b then p.2 else p.2.bindUnits f.site.core x.bytes l).Inv := by
      split
      · exact hu
      · exact hu.bindUnits
    split
    · exact hu.poisonLoad
    · split
      · refine (State.Inv.acquire ?_).trace.returnToPort.emit.emit
        split
        · exact (hb _ _).setResv
        · exact hb _ _
      · refine (State.Inv.acquire ?_).trace.returnToPort.emitWithTail
        split
        · exact (hb _ _).setResv
        · exact hb _ _

/-! ### Operations of Sys2Proof/Machine/Release -/

theorem State.Inv.cellsRequest {s : State} (h : s.Inv) {c mode : Nat} {cells : List Host.Cell} :
    (s.cellsRequest c mode cells).Inv :=
  h.foldl (fun _ _ hu => hu.ite (hu.requestOwn.ite (hu.requestRead.ite hu.requestOwn)))

theorem State.Inv.writeCells {s : State} (h : s.Inv) {c k team mode : Nat} {cells : List Host.Cell} {full : Bool}
    {bad : Bool} : (s.writeCells c k team mode cells full bad).Inv := by
  unfold State.writeCells
  split
  · exact h
  · split
    · exact h.logDiscard
    · split
      · exact h.upd
      · exact (h.foldl (fun _ _ hu => hu.putByte.setFull.ite hu.putByte)).breakResv
      · exact h.domainWrite
      · exact h
      · exact h.writeAtSlice.ite (h.foldl (fun _ _ hu => hu.registerWord))

theorem State.Inv.kindRequest {s : State} (h : s.Inv) {c mode : Nat} {kind : BufKind} : (s.kindRequest c mode kind).Inv := by
  unfold State.kindRequest
  split
  · exact h.foldl (fun _ _ hu => hu.cellsRequest)
  · exact h.cellsRequest
  · exact h.cellsRequest.requestRead
  · exact h

theorem State.Inv.leavePoison {s : State} (h : s.Inv) {c k team mode line : Nat} {b : Bool} :
    (s.leavePoison c k team mode line b).Inv :=
  h.ite (h.setCopyPoison.ite (h.upd.ite h.setCopyPoison))

theorem State.Inv.performKind {s : State} (h : s.Inv) {c k team mode : Nat} {kind : BufKind} :
    (s.performKind c k team mode kind).Inv := by
  unfold State.performKind
  split
  · split
    · split
      · exact h.writeCells.ite h
      · exact h
    · exact (h.foldl (fun _ _ hu => hu.foldl (fun _ _ hu1 => hu1.writeCells))).foldl (fun _ _ hu => hu.leavePoison)
  · exact h.foldl (fun _ _ hu => hu.setFull)
  · exact h.writeCells.leavePoison
  · exact h.writeCells.leavePoison
  · exact h.updThread

theorem State.Inv.flushHeld {s : State} (h : s.Inv) : s.flushHeld.Inv := by
  unfold State.flushHeld
  refine (h.foldlSnd (fun _ _ hx => ?_)).upd
  split
  · exact hx
  · exact hx.performKind

theorem State.Inv.releaseOne {s : State} (h : s.Inv) {c k : Nat} {fences : List (Nat × Scope)} {b : Buffered} :
    (s.releaseOne c k fences b).Inv := by
  unfold State.releaseOne
  split
  · exact h.performKind
  · exact h.kindRequest.upd.ite h.performKind

theorem State.Inv.releaseOrder {s : State} (h : s.Inv) {e : Exec} {n : Nat} {l : List Buffered} :
    (Machine.releaseOrder e n l s).2.Inv := by
  induction n generalizing l s with
  | zero => exact h
  | succ n ih =>
    unfold Machine.releaseOrder
    dsimp only
    split
    · exact h
    · exact ih h.choose

theorem State.Inv.releaseEntries {s : State} (h : s.Inv) {c k : Nat} {p : Buffered → Bool} :
    (s.releaseEntries c k p).Inv := by
  unfold State.releaseEntries
  split
  · exact h
  · exact h.releaseOrder.updExec.foldl (fun _ _ hu => hu.releaseOne)

/-! ### Operations of Sys2Proof/Machine/MemOps -/

theorem keeps_execLd {s : State} (h : s.Inv) {r : Route} {n : Size} {rfmt : Fmt} {sext acq : Bool} {m : MemCtl} :
    Keeps (execLd r n rfmt sext acq m s) :=
  keeps_memFiring h (fun _ _ _ hu => hu.startAccess)

theorem keeps_execSt {s : State} (h : s.Inv) {r : Route} {n : Size} {rel : Bool} {m : MemCtl} : Keeps (execSt r n rel m s) :=
  keeps_memFiring h (fun _ _ _ hu => hu.startAccess)

theorem keeps_execLdb {s : State} (h : s.Inv) {r : Route} {nb : BitVec 4} {split acq : Bool} {m : MemCtl} :
    Keeps (execLdb r nb split acq m s) :=
  keeps_memFiring h (fun _ _ _ hu => hu.startAccess)

theorem keeps_execStb {s : State} (h : s.Inv) {r : Route2} {ds : BitVec 3} {split rel : Bool} {m : MemCtl} :
    Keeps (execStb r ds split rel m s) :=
  keeps_memFiring h (fun _ _ _ hu => hu.startAccess)

theorem keeps_execLdf {s : State} (h : s.Inv) {r : Route} {n : Size} {tmo : BitVec 4} {rfmt : Fmt} {sext acq : Bool}
    {m : MemCtl} : Keeps (execLdf r n tmo rfmt sext acq m s) :=
  keeps_memFiring h (fun _ _ _ hu => hu.startAccess)

theorem keeps_execStf {s : State} (h : s.Inv) {r : Route} {n : Size} {rel : Bool} {m : MemCtl} : Keeps (execStf r n rel m s) :=
  keeps_memFiring h (fun _ _ _ hu => hu.startAccess)

theorem keeps_execSete {s : State} (h : s.Inv) {r : Route} {n : Size} {rel : Bool} {m : MemCtl} :
    Keeps (execSete r n rel m s) :=
  keeps_memFiring h (fun _ _ _ hu => hu.startAccess)

theorem keeps_execAtom {s : State} (h : s.Inv) {r : Route} {n : Size} {aop : AtomOp} {ord : Ord3} {m : MemCtl} :
    Keeps (execAtom r n aop ord m s) :=
  keeps_memFiring h (fun _ _ _ hu => hu.startAccess)

theorem keeps_execCas {s : State} (h : s.Inv) {r : Route} {n : Size} {q : BitVec 2} {ord : Ord3} {m : MemCtl} :
    Keeps (execCas r n q ord m s) :=
  keeps_memFiring h (fun _ _ _ hu => hu.startAccess)

theorem keeps_execLl {s : State} (h : s.Inv) {r : Route} {n : Size} {rfmt : Fmt} {sext acq : Bool} {m : MemCtl} :
    Keeps (execLl r n rfmt sext acq m s) :=
  keeps_memFiring h (fun _ _ _ hu => hu.startAccess)

theorem keeps_execSc {s : State} (h : s.Inv) {r : Route} {n : Size} {rel : Bool} {m : MemCtl} : Keeps (execSc r n rel m s) :=
  keeps_memFiring h (fun _ _ _ hu => hu.startAccess)

theorem keeps_execClrp {s : State} (h : s.Inv) {r : Route} {copy rel : Bool} {m : MemCtl} : Keeps (execClrp r copy rel m s) :=
  keeps_memFiring h (fun _ _ _ hu => hu.startAccess)

theorem keeps_execLds {s : State} (h : s.Inv) {r : Route} {rfmt : Fmt} {acq : Bool} {m : MemCtl} :
    Keeps (execLds r rfmt acq m s) :=
  keeps_memFiring h (fun _ _ _ hu => hu.startAccess)

theorem keeps_execSts {s : State} (h : s.Inv) {r : Route2} {rel : Bool} {m : MemCtl} : Keeps (execSts r rel m s) :=
  keeps_memFiring h (fun _ _ _ hu => hu.startAccess)

theorem keeps_execPref {s : State} (h : s.Inv) {r : Route} {level : PrefLevel} {m : MemCtl} : Keeps (execPref r level m s) :=
  keeps_memFiring h (fun _ _ _ hu => hu.startAccess)

theorem State.Inv.fenceEffect {s : State} (h : s.Inv) {r : Route} {kind : FenceKind} {sc : Scope} {f : Firing} :
    (s.fenceEffect r kind sc f).Inv := by
  unfold State.fenceEffect
  refine State.Inv.emitOut ?_
  exact (h.accessId.selfInvalidate.ite h.accessId).updExec.ite (h.accessId.selfInvalidate.ite h.accessId)

theorem keeps_execFence {s : State} (h : s.Inv) {r : Route} {kind : FenceKind} {sc : Scope} : Keeps (execFence r kind sc s) :=
  keeps_withFiring h (fun _ _ hu => hu.fireCases (fun _ _ hu1 => hu1.fenceEffect))

theorem State.Inv.lvsRead {s : State} (h : s.Inv) {f : Firing} {r : Route} {id : Nat} : (s.lvsRead f r id).Inv :=
  h.outstanding

theorem keeps_execLin {s : State} (h : s.Inv) {r : Route1} {fm : LinFmt} {l : LvsLit} : Keeps (execLin r fm l s) :=
  keeps_memFiring h (fun _ _ _ hu => hu.lvsRead)

theorem keeps_execLinx {s : State} (h : s.Inv) {r : Route1} {fm : LinFmt} {l : LvsLit} : Keeps (execLinx r fm l s) :=
  keeps_memFiring h (fun _ _ _ hu => hu.freezeFiring.ite (hu.accessFault.ite hu.lvsRead))

theorem keeps_execLint {s : State} (h : s.Inv) {r : Route1} {fm : LinFmt} {l : LvsLit} : Keeps (execLint r fm l s) := by
  unfold execLint
  refine keeps_memFiring h (fun _ _ _ hu => ?_)
  split
  · exact hu.accessFault
  · exact hu.lvsRead

theorem State.Inv.placeReg {s : State} (h : s.Inv) {i : Instr} {f : Firing} {r : Route} {id n : Nat} :
    (s.placeReg i f r id n).Inv :=
  h.buffer.emitOut

theorem keeps_execLout {s : State} (h : s.Inv) {r : Route1} {l : LvsLit} : Keeps (execLout r l s) :=
  keeps_memFiring h (fun _ _ _ hu => hu.freezeFiring.ite hu.placeReg)

theorem keeps_execLoutx {s : State} (h : s.Inv) {r : Route} {l : LvsLit} : Keeps (execLoutx r l s) :=
  keeps_memFiring h (fun _ _ _ hu => hu.freezeFiring.ite (hu.accessFault.ite hu.placeReg))

theorem State.Inv.lvsValue {s : State} (h : s.Inv) {i : Instr} {f : Firing} {x : Access} : (s.lvsValue i f x).2.Inv := by
  unfold State.lvsValue
  dsimp only
  split
  · split
    · exact h.forwardReg
    · exact h
  · split
    · exact h.forwardReg
    · exact h
  · split
    · exact h
    · exact h
  · exact h

theorem State.Inv.atomicWrite {s : State} (h : s.Inv) {c k : Nat} {bytes : List (Nat × Nat)} {v : Nat} :
    (s.atomicWrite c k bytes v).Inv :=
  h.domainWrite.ite h.writeAtSlice

theorem State.Inv.takeWords {s : State} (h : s.Inv) {c : Nat} {bytes : List (Nat × Nat)} : (s.takeWords c bytes).Inv :=
  h.ite ((h.ite h.endWords).dropValid)

theorem State.Inv.performAtomic {s : State} (h : s.Inv) {i : Instr} {f : Firing} {r : Route} {x : Access} {old : Nat}
    {away : Bool} : (s.performAtomic i f r x old away).Inv := by
  unfold State.performAtomic
  dsimp only
  split
  · exact (h.updExec.ite h.updExec.takeWords.atomicWrite).addFlags.acquire.emitOut
  · refine (State.Inv.acquire ?_).emitOut
    exact (h.updExec.ite h.updExec.takeWords.atomicWrite).ite (h.updExec.ite h.updExec.takeWords)
  · exact ((h.updExec.ite h.updExec.takeWords.atomicWrite).ite h.updExec).updThread.acquire.emitOut
  · exact h.updExec

theorem State.Inv.sendAtomic {s : State} (h : s.Inv) {x : Access} {key : Nat} {kind : RemoteKind} :
    (s.sendAtomic x key kind).Inv := h

theorem State.Inv.replyAtomic {s : State} (h : s.Inv) {i : Instr} {f : Firing} {r : Route} {x : Access} {key : Nat} :
    (s.replyAtomic i f r x key).Inv := by
  unfold State.replyAtomic
  extract_lets c k pa gone
  have hg {u : State} (hu : u.Inv) : (gone u).Inv := hu.updCore
  split
  · exact hg h
  · next e _ =>
    extract_lets before code s1 visible
    have h1 : s1.Inv := h.ite h.releaseEntries.updExec
    split
    · exact (hg h.updExec).emitFault
    · split
      · exact (hg h).accessFault.ite (hg h).performAtomic
      · refine State.Inv.ite (hg h).accessFault ?_
        refine h1.requestBytes.ite (State.Inv.ite ?_ ((hg h1).performAtomic.ite h1.requestBytes))
        split
        · exact h1.sendAtomic
        · exact (hg h1).performAtomic

theorem State.Inv.readState {s : State} (h : s.Inv) {c : Nat} {i : Instr} {bytes : List (Nat × Nat)} :
    (s.readState c i bytes).Inv := by
  unfold State.readState
  split
  · exact h.dropValid
  · exact h

theorem State.Inv.noteSlow {s : State} (h : s.Inv) {x : Access} : (s.noteSlow x).Inv :=
  h.ite h.updDist

theorem State.Inv.reply {s : State} (h : s.Inv) {core key : Nat} : (s.reply core key).Inv := by
  unfold State.reply
  dsimp only
  split
  · exact h
  · split
    · exact h
    · split
      · exact h
      · split
        · exact h
        · split
          · exact h.noteSlow
          · exact h.noteSlow.updCore.startAccess
          · exact h.noteSlow.updCore.accessFails
          · exact h.noteSlow.replyAtomic
          · exact h.noteSlow.replyAtomic
          · split
            · exact h.noteSlow.updCore.accessFault
            · split
              · exact h.noteSlow.replyAtomic
              · split
                · split
                  · exact h.noteSlow.lvsValue.updCore.accessFault
                  · exact h.noteSlow.lvsValue.updCore.emitOut
                · split
                  · exact h.noteSlow.lvsValue.updCore.accessFault
                  · exact h.noteSlow.lvsValue.updCore.emitOut
                · split
                  · exact h.noteSlow.lvsValue.updCore.accessFault
                  · exact h.noteSlow.lvsValue.updCore.emitOut
                · exact h.noteSlow.readState.updCore.performLoad

theorem keeps_execMemoryReply {s : State} (h : s.Inv) {core access : Nat} : Keeps (execMemoryReply core access s) :=
  h.reply.next

theorem keeps_execLdfTimeout {s : State} (h : s.Inv) {core access : Nat} : Keeps (execLdfTimeout core access s) := by
  unfold execLdfTimeout
  refine State.Inv.next ?_
  split
  · exact h
  · split
    · exact h.ite (h.updCore.accessFault.ite (h.updCore.updExec.emitFault.ite h))
    · exact h

theorem keeps_execTranslationWalk {s : State} (h : s.Inv) {walk : Nat} : Keeps (execTranslationWalk walk s) := by
  unfold execTranslationWalk
  dsimp only
  refine State.Inv.next ?_
  split
  · exact h
  · split
    · exact h
    · split
      · exact h.readRequest
      · refine State.Inv.foldl ?_ (fun _ _ hu => hu.updCore)
        split
        · exact h.upd.upperFill
        · exact h.upd.upperFill.foldl (fun _ _ hu => hu.tlbFill)

theorem State.Inv.updEngine {s : State} (h : s.Inv) {pd x : Nat} {f : Engine → Engine} : (s.updEngine pd x f).Inv := h

theorem State.Inv.descBytes {s : State} (h : s.Inv) {c k id : Nat} {deps : List Nat} {pa : Nat} :
    (s.descBytes c k id deps pa).2.Inv := by
  unfold State.descBytes
  split
  · exact h
  · exact h.foldlSnd (fun _ _ hx => hx.forwardUnit)

theorem State.Inv.copyEffect {s : State} (h : s.Inv) {i : Instr} {r : Route} {f : Firing} {id : Nat} :
    (s.copyEffect i r f id).Inv := by
  unfold State.copyEffect
  dsimp only
  split
  · exact h.freezeFiring
  · split
    · exact h.accessFault
    · split
      · exact h.accessFault
      · exact h
      · split
        · exact h.accessFault
        · split
          · exact h.descBytes.accessFault
          · split
            · exact h.descBytes.accessFaultAt
            · exact h.descBytes.updEngine.atCommit.emitOut

theorem keeps_execCopy {s : State} (h : s.Inv) {r : Route1} {m : MemCtl} : Keeps (execCopy r m s) :=
  keeps_memFiring h (fun _ _ _ hu => hu.copyEffect)

theorem keeps_execWaitt {s : State} (h : s.Inv) {sa : Src} {d0 : Dst} {reg : BitVec 7} : Keeps (execWaitt sa d0 reg s) := by
  unfold execWaitt
  refine keeps_withFiring h (fun _ _ hu => hu.fireCases (fun _ _ hu1 => ?_))
  exact hu1.accessId.freezeFiring.ite (hu1.accessId.accessFault.ite hu1.accessId.atCommit.emitOut)

/-! ### Operations of Sys2Proof/Machine/Fire -/

theorem State.Inv.addStop {s : State} (h : s.Inv) {x : Stop} : (s.addStop x).Inv := h

theorem State.Inv.breakpoints {s : State} (h : s.Inv) {f : Firing} {r : Route} : (s.breakpoints f r).Inv :=
  h.foldl (fun _ _ hu => hu.addStop.ite hu)

theorem State.Inv.takeVia {s : State} (h : s.Inv) {c t : Nat} {handler : Bool} {y : Ready} : (s.takeVia c t handler y).Inv := by
  unfold State.takeVia
  split
  · exact h
  · split
    · exact h
    · exact h.putHead

theorem State.Inv.consume {s : State} (h : s.Inv) {c t : Nat} {handler : Bool} {y : Ready} : (s.consume c t handler y).Inv :=
  h.takeVia.updTile.countWait.breakpoints.upd

theorem State.Inv.prepareFiring {s : State} (h : s.Inv) {c t : Nat} {handler : Bool} {slot : Nat} {u : State}
    (e : s.prepareFiring c t handler slot = some u) : u.Inv := by
  unfold State.prepareFiring at e
  split at e
  · exact nomatch e
  · split at e
    · exact nomatch e
    · split at e
      · exact Option.some.inj e ▸ h.consume
      · exact nomatch e

theorem State.Inv.sendEos {s : State} (h : s.Inv) {c t : Nat} {p : Plane} : (s.sendEos c t p).Inv :=
  h.foldl (fun _ _ hu => hu.sendOrWait)

theorem State.Inv.strayAtEos {s : State} (h : s.Inv) {c t : Nat} : (s.strayAtEos c t).Inv := h

theorem State.Inv.eosSwap {s : State} (h : s.Inv) {c t : Nat} : (s.eosSwap c t).Inv := by
  unfold State.eosSwap
  dsimp only
  split
  · exact h
  · exact h.ite (h.strayAtEos.ite h.sendEos.updTile)

theorem keeps_execTileEosSwap {s : State} (h : s.Inv) {core tile : Nat} {handler : Bool} :
    Keeps (execTileEosSwap core tile handler s) :=
  (h.ite h.eosSwap).next

/-! ### Operations of Sys2Proof/Machine/Control -/

theorem State.Inv.seeExit {s : State} (h : s.Inv) {f : Firing} {k : Nat} {x : ExitSeen} : (s.seeExit f k x).Inv := h

theorem keeps_exitFiring {s : State} (h : s.Inv) {r : Route} {next : Firing → Option Word} : Keeps (exitFiring r next s) :=
  keeps_withFiring h (fun _ _ hu => hu.trace.seeExit)

theorem keeps_execBr {s : State} (h : s.Inv) {sa sb : Src} {tblk fblk : BitVec 8} : Keeps (execBr sa sb tblk fblk s) :=
  keeps_exitFiring h

theorem keeps_execJmp {s : State} (h : s.Inv) {sa : Src} {blk : BitVec 8} : Keeps (execJmp sa blk s) :=
  keeps_exitFiring h

theorem keeps_execJmpi {s : State} (h : s.Inv) {sa : Src} : Keeps (execJmpi sa s) := by
  unfold execJmpi
  split
  · split
    · exact keeps_withFiring h (fun _ _ hu => hu.freezeFiring)
    · exact keeps_exitFiring h
  · exact h.next

theorem keeps_execExit {s : State} (h : s.Inv) {sa : Src} : Keeps (execExit sa s) :=
  keeps_exitFiring h

theorem State.Inv.updBarrier {s : State} (h : s.Inv) {t n : Nat} {f : Barrier → Barrier} : (s.updBarrier t n f).Inv := by
  unfold State.updBarrier
  split
  · exact h
  · exact h.updTeam.ite h.updGrid

theorem keeps_execBara {s : State} (h : s.Inv) {r : Route1} {n : BitVec 5} : Keeps (execBara r n s) :=
  keeps_wordFiring h (fun _ _ hu => hu.atCommit)

theorem keeps_execBar {s : State} (h : s.Inv) {r : Route1} {n : BitVec 5} : Keeps (execBar r n s) :=
  keeps_wordFiring h (fun _ _ hu => hu.atCommit.atCommit)

theorem keeps_execBarw {s : State} (h : s.Inv) {r : Route1} {n : BitVec 5} : Keeps (execBarw r n s) :=
  keeps_passFiring h (fun _ _ hu => hu.atCommit)

theorem keeps_commitFiring {s : State} (h : s.Inv) {r : Route} {act : Firing → CommitAct} : Keeps (commitFiring r act s) := by
  unfold commitFiring
  refine keeps_withFiring h (fun _ _ hu => hu.fireCases (fun _ _ hu1 => ?_))
  exact hu1.freezeFiring.ite hu1.atCommit.emitOut

theorem keeps_execYield {s : State} (h : s.Inv) {r : Route1} : Keeps (execYield r s) :=
  keeps_passFiring h (fun _ _ hu => hu.atCommit)

theorem keeps_execSleep {s : State} (h : s.Inv) {r : Route1} {abs : Bool} : Keeps (execSleep r abs s) :=
  keeps_commitFiring h

theorem keeps_execHjoin {s : State} (h : s.Inv) {r : Route1} {mreg : BitVec 7} : Keeps (execHjoin r mreg s) :=
  keeps_passFiring h (fun _ _ hu => hu.atCommit)

theorem keeps_execHred {s : State} (h : s.Inv) {r : Route1} {x : Bool} : Keeps (execHred r x s) :=
  keeps_commitFiring h

theorem keeps_execHend {s : State} (h : s.Inv) {r : Route1} : Keeps (execHend r s) :=
  keeps_passFiring h (fun _ _ hu => hu.atCommit)

theorem keeps_execLyrel {s : State} (h : s.Inv) {r : Route1} : Keeps (execLyrel r s) :=
  keeps_commitFiring h

theorem keeps_execCfginv {s : State} (h : s.Inv) {r : Route1} {scope : InvScope} : Keeps (execCfginv r scope s) :=
  keeps_commitFiring h

theorem keeps_execEosi {s : State} (h : s.Inv) {r : Route1} : Keeps (execEosi r s) :=
  keeps_passFiring h (fun _ _ hu => hu.atCommit)

theorem keeps_execTrret {s : State} (h : s.Inv) {r : Route1} {action : BitVec 4} {blk : BitVec 8} :
    Keeps (execTrret r action blk s) :=
  keeps_commitFiring h

theorem keeps_execTrprep {s : State} (h : s.Inv) {sa sb : Src} {ta : TagAction} {kind : RepairKind} :
    Keeps (execTrprep sa sb ta kind s) := by
  unfold execTrprep
  refine keeps_withFiring h (fun _ _ hu => hu.fireCases (fun _ _ hu1 => ?_))
  exact hu1.freezeFiring.ite hu1.atCommit.trace

theorem keeps_execWaitly {s : State} (h : s.Inv) {r : Route1} : Keeps (execWaitly r s) := by
  unfold execWaitly
  refine keeps_withFiring h (fun _ _ hu => hu.fireCases (fun _ _ hu1 => hu1.freezeFiring.ite ?_))
  split
  · exact hu1.takeAccessFault.emitOut
  · exact hu1.atCommit.emitOut

theorem keeps_execRecruit {s : State} (h : s.Inv) {r : Route2} {reg : BitVec 7} {fop : FoldOp} {hblk : BitVec 8} :
    Keeps (execRecruit r reg fop hblk s) := by
  unfold execRecruit
  dsimp only
  refine keeps_wordFiring h (fun _ _ hu => ?_)
  split
  · exact hu
  · split
    · exact hu
    · split
      · split
        · exact hu
        · refine (hu.foldl (fun _ _ hu1 => ?_)).updTeam.atCommit
          split
          · exact hu1.updThread
          · exact hu1
      · split
        · exact hu
        · refine (hu.foldl (fun _ _ hu1 => ?_)).updTeam.atCommit
          split
          · exact hu1.updThread
          · exact hu1

/-! ### Operations of Sys2Proof/Machine/Threads -/

theorem State.Inv.passOn {s : State} (h : s.Inv) {c k blk : Nat} : (s.passOn c k blk).Inv :=
  h.updThread.updRegion.ite h.enterWaiting.updThread

theorem State.Inv.leaveWait {s : State} (h : s.Inv) {c k : Nat} : (s.leaveWait c k).Inv :=
  h.passOn

theorem State.Inv.barrierCheck {s : State} (h : s.Inv) {t n : Nat} : (s.barrierCheck t n).Inv := by
  unfold State.barrierCheck
  dsimp only
  split
  · exact h
  · refine h.updBarrier.foldl (fun _ _ hu => ?_)
    split
    · exact (hu.ite hu.selfInvalidate).leaveWait.ite hu
    · exact hu

theorem State.Inv.barriersCheck {s : State} (h : s.Inv) {t : Nat} : (s.barriersCheck t).Inv :=
  h.foldl (fun _ _ hu => hu.barrierCheck)

theorem State.Inv.arriveAt {s : State} (h : s.Inv) {c k n : Nat} : (s.arriveAt c k n).Inv := by
  unfold State.arriveAt
  dsimp only
  split
  · exact h
  · split
    · exact h
    · exact h.updBarrier.barrierCheck

theorem State.Inv.updLayer {s : State} (h : s.Inv) {ctx n : Nat} {f : Layer → Layer} : (s.updLayer ctx n f).Inv := h

theorem State.Inv.demand {s : State} (h : s.Inv) {ctx n : Nat} : (s.demand ctx n).Inv :=
  h.ite h.updLayer.upd

theorem State.Inv.takeUse {s : State} (h : s.Inv) {c t ctx n : Nat} : (s.takeUse c t ctx n).Inv :=
  h.updTeam.updLayer.selfInvalidate

theorem State.Inv.dropUse {s : State} (h : s.Inv) {t ctx n : Nat} : (s.dropUse t ctx n).Inv := by
  unfold State.dropUse
  split
  · exact h
  · split
    · exact h
    · exact h.updTeam.updLayer

theorem State.Inv.waitLayer {s : State} (h : s.Inv) {c k n blk : Nat} : (s.waitLayer c k n blk).Inv := by
  unfold State.waitLayer
  split
  · exact h.passOn
  · split
    · exact h.takeUse.passOn
    · exact h.updThread.takeWaitTrap
    · exact h.demand.updThread
    · exact h.updThread

theorem State.Inv.trimBlocks {s : State} (h : s.Inv) {c : Nat} : (s.trimBlocks c).Inv := h

theorem State.Inv.freeTeam {s : State} (h : s.Inv) {t : Nat} : (s.freeTeam t).Inv := by
  unfold State.freeTeam
  split
  · exact h
  · split
    · exact h
    · exact h.updCore.updTeam.trimBlocks

theorem State.Inv.releaseUses {s : State} (h : s.Inv) {t : Nat} : (s.releaseUses t).Inv := by
  unfold State.releaseUses
  split
  · exact h
  · exact (h.foldl (fun _ _ hu => hu.updLayer)).updTeam

theorem State.Inv.retireTeam {s : State} (h : s.Inv) {t : Nat} : (s.retireTeam t).Inv := by
  unfold State.retireTeam
  split
  · exact h
  · exact h.releaseUses.freeTeam.updTeam.updGrid

theorem State.Inv.retireCheck {s : State} (h : s.Inv) {t : Nat} : (s.retireCheck t).Inv :=
  h.ite h.retireTeam

theorem State.Inv.voidTraps {s : State} (h : s.Inv) {c k : Nat} : (s.voidTraps c k).Inv := h

theorem State.Inv.helperLeaves {s : State} (h : s.Inv) {c k : Nat} {f : Recruitment → Recruitment} :
    (s.helperLeaves c k f).Inv := by
  unfold State.helperLeaves
  dsimp only
  split
  · exact h
  · exact h.updThread.voidTraps.updTeam.retireCheck

theorem State.Inv.helperEnd {s : State} (h : s.Inv) {c k : Nat} : (s.helperEnd c k).Inv := by
  unfold State.helperEnd
  split
  · exact h
  · exact h.helperLeaves

theorem State.Inv.releaseHelper {s : State} (h : s.Inv) {c k : Nat} : (s.releaseHelper c k).Inv := by
  unfold State.releaseHelper
  split
  · exact h
  · exact h.helperLeaves

theorem State.Inv.forceRelease {s : State} (h : s.Inv) {c k : Nat} : (s.forceRelease c k).Inv := by
  unfold State.forceRelease
  split
  · exact h
  · exact h.updThread.ite h.updCore.releaseHelper

theorem State.Inv.forceReleaseAll {s : State} (h : s.Inv) {t : Nat} : (s.forceReleaseAll t).Inv :=
  h.foldl (fun _ _ hu => hu.forceRelease)

theorem State.Inv.contribute {s : State} (h : s.Inv) {c k : Nat} {v : Word} : (s.contribute c k v).Inv := by
  unfold State.contribute
  dsimp only
  split
  · split
    · exact h
    · exact h.updTeam.updThread
  · exact h

theorem State.Inv.openRecruitment {s : State} (h : s.Inv) {c k : Nat} : (s.openRecruitment c k).Inv := by
  unfold State.openRecruitment
  dsimp only
  split
  · exact h
  · split
    · exact h
    · split
      · exact h
      · refine h.updTeam.foldl (fun _ _ hu => ?_)
        split
        · exact hu
        · exact hu.updThread

theorem State.Inv.releaseReservation {s : State} (h : s.Inv) {c k : Nat} : (s.releaseReservation c k).Inv := by
  unfold State.releaseReservation
  dsimp only
  split
  · exact h
  · split
    · exact h
    · split
      · exact h
      · refine h.updTeam.foldl (fun _ _ hu => ?_)
        split
        · exact hu.updThread
        · exact hu

theorem State.Inv.joinNow {s : State} (h : s.Inv) {c k : Nat} : (s.joinNow c k).Inv := by
  unfold State.joinNow
  dsimp only
  split
  · split
    · exact h
    · exact h.ite h.updTeam.updThread.leaveWait
  · exact h

theorem keeps_execJoin {s : State} (h : s.Inv) {core thread : Nat} : Keeps (execJoin core thread s) :=
  h.joinNow.next

theorem State.Inv.purgeTokens {s : State} (h : s.Inv) {c : Nat} {p : Nat → Bool} : (s.purgeTokens c p).Inv := h

theorem State.Inv.endHandler {s : State} (h : s.Inv) {c j : Nat} : (s.endHandler c j).Inv :=
  (h.purgeTokens.foldl (fun _ _ hu => hu.updTile.ite hu)).updCore

theorem State.Inv.raiseTrap {s : State} (h : s.Inv) {c j : Nat} : (s.raiseTrap c j).Inv := by
  unfold State.raiseTrap
  split
  · exact h
  · exact h.ite ((h.endHandler.ite h).updCore.queueKept)

theorem State.Inv.insertToken {s : State} (h : s.Inv) {c t : Nat} {r : Repair} : (s.insertToken c t r).Inv := by
  unfold State.insertToken
  dsimp only
  split
  · exact h
  · split
    · exact h
    · split
      · exact h
      · split
        · exact h.updCtx.putHead
        · exact h.upd.updCtx

theorem State.Inv.repairTile {s : State} (h : s.Inv) {c t : Nat} {ops : List OpItem} {r : Repair} :
    (s.repairTile c t ops r).Inv := by
  unfold State.repairTile
  dsimp only
  split
  · exact h
  · split
    · exact h.updTile
    · exact h
  · exact h
  · exact h.updTile

theorem State.Inv.restartBounds {s : State} (h : s.Inv) {c : Nat} : (s.restartBounds c).Inv := h

theorem State.Inv.unfreeze {s : State} (h : s.Inv) {c t : Nat} {retry : Bool} : (s.unfreeze c t retry).Inv := by
  unfold State.unfreeze
  dsimp only
  split
  · exact h
  · split
    · exact h.updTile.restartBounds
    · split
      · split
        · exact h.updTile.restartBounds.ite h.updTile.restartBounds.updCtx
        · exact h.updTile.restartBounds
      · split
        · split
          · exact h.updTile.restartBounds.ite h.updTile.restartBounds.updCtx
          · exact h.updTile.restartBounds
        · split
          · split
            · exact h.updTile.restartBounds.ite h.updTile.restartBounds.updCtx
            · exact h.updTile.restartBounds
          · refine (State.Inv.upd ?_).updCtx
            split
            · exact h.updTile.restartBounds.ite h.updTile.restartBounds.updCtx
            · exact h.updTile.restartBounds

theorem State.Inv.applyInserts {s : State} (h : s.Inv) {c : Nat} {t : Trap} : (s.applyInserts c t).Inv :=
  h.foldl (fun _ _ hu => hu.insertToken)

theorem State.Inv.applyRepairs {s : State} (h : s.Inv) {c : Nat} {t : Trap} : (s.applyRepairs c t).Inv := by
  unfold State.applyRepairs
  refine h.foldl (fun _ _ hu => ?_)
  split
  · exact hu.ite hu.updThread
  · exact hu.repairTile

theorem State.Inv.resolveEffect {s : State} (h : s.Inv) {c : Nat} {t : Trap} {act blk : Nat} {arg : Word} :
    (s.resolveEffect c t act blk arg).Inv := by
  unfold State.resolveEffect
  dsimp only
  split
  · exact h.applyRepairs.unfreeze.applyInserts
  · split
    · exact h
    · split
      · exact h.ite h.applyRepairs
      · split
        · split
          · exact (h.ite h.applyRepairs).waitLayer
          · exact (h.ite h.applyRepairs).updThread
          · exact (h.ite h.applyRepairs).enterWaiting
        · split
          · exact (h.ite h.applyRepairs).enterSleep
          · exact (h.ite h.applyRepairs).enterSleep
          · exact (h.ite h.applyRepairs).enterSleep
        · exact (h.ite h.applyRepairs).enterWaiting.ite ((h.ite h.applyRepairs).takeExitTrap)
        · split
          · exact (h.ite h.applyRepairs).releaseHelper
          · exact (h.ite h.applyRepairs).enterExited.updTeam.barriersCheck.retireCheck

theorem State.Inv.trret {s : State} (h : s.Inv) {c j act blk : Nat} {arg : Word} : (s.trret c j act blk arg).Inv := by
  unfold State.trret
  split
  · exact h
  · exact h.ite (h.raiseTrap.ite h.updCore.resolveEffect)

theorem State.Inv.fstResolve {s : State} (h : s.Inv) {c j act blk : Nat} {arg : Word} : (s.fstResolve c j act blk arg).Inv := by
  unfold State.fstResolve
  split
  · exact h.setRegBit
  · exact h.setRegBit.ite (h.ite h.updCore.resolveEffect)

/-! ### Operations of Sys2Proof/Machine/Dealer -/

theorem State.Inv.ageBlocks {s : State} (h : s.Inv) {c line : Nat} {l : List Candidate} {x : Candidate} :
    (s.ageBlocks c line l x).Inv := h

theorem State.Inv.cacheFill {s : State} (h : s.Inv) {c : Nat} {l : List (Nat × Nat × Nat)} : (s.cacheFill c l).Inv := h

theorem State.Inv.chooseFrozen {s : State} (h : s.Inv) {c r : Nat} : (s.chooseFrozen c r).Inv := by
  unfold State.chooseFrozen
  dsimp only
  split
  · exact h
  · split
    · exact h
    · refine (State.Inv.updRegion ?_).updThread
      split
      · exact h
      · exact h.updRegion.updTile

theorem State.Inv.choosePlain {s : State} (h : s.Inv) {c r : Nat} : (s.choosePlain c r).Inv := by
  unfold State.choosePlain
  dsimp only
  split
  · exact h.updRegion
  · exact (h.ageBlocks.foldl (fun _ _ hu => hu.updThread)).updRegion

theorem keeps_execChooseBlock {s : State} (h : s.Inv) {core region : Nat} : Keeps (execChooseBlock core region s) :=
  ((h.chooseFrozen.choosePlain.ite h.chooseFrozen).ite (h.choosePlain.ite h)).next

theorem State.Inv.loadGroup {s : State} (h : s.Inv) {c r : Nat} : (s.loadGroup c r).Inv := by
  unfold State.loadGroup
  dsimp only
  split
  · exact h
  · split
    · exact h
    · exact (h.foldl (fun _ _ hu => hu.updTile)).cacheFill.updRegion

theorem State.Inv.loadHandlerPlane {s : State} (h : s.Inv) {c r : Nat} : (s.loadHandlerPlane c r).Inv := by
  unfold State.loadHandlerPlane
  dsimp only
  split
  · exact h.ite h.cacheFill.updTile
  · exact (h.foldl (fun _ _ hu => hu.updTile)).updRegion.ite h

theorem keeps_execShadowPlaneLoad {s : State} (h : s.Inv) {core region : Nat} : Keeps (execShadowPlaneLoad core region s) :=
  h.loadGroup.loadHandlerPlane.next

theorem State.Inv.spinUpdate {s : State} (h : s.Inv) {c k blk : Nat} {x : BitVec 32} : (s.spinUpdate c k blk x).Inv := h

theorem State.Inv.inject {s : State} (h : s.Inv) {c r k img blk : Nat} {b : Block} {handler : Bool} :
    (s.inject c r k img blk b handler).Inv :=
  (h.spinUpdate.updThread.updCore.foldl (fun _ _ hu => hu.updCtx)).upd

theorem State.Inv.injectPlain {s : State} (h : s.Inv) {c r : Nat} : (s.injectPlain c r).Inv := by
  unfold State.injectPlain
  dsimp only
  split
  · split
    · exact h
    · exact h.ite h.updRegion.inject
  · exact h

theorem State.Inv.injectFrozen {s : State} (h : s.Inv) {c r : Nat} : (s.injectFrozen c r).Inv := by
  unfold State.injectFrozen
  dsimp only
  split
  · exact h
  · split
    · exact h.ite h.inject
    · exact h

theorem keeps_execInjectThread {s : State} (h : s.Inv) {core region : Nat} : Keeps (execInjectThread core region s) :=
  h.injectPlain.injectFrozen.next

theorem keeps_execSpinDue {s : State} (h : s.Inv) {core : Nat} : Keeps (execSpinDue core s) :=
  h.updCore.next

theorem State.Inv.endBatch {s : State} (h : s.Inv) {c r : Nat} : (s.endBatch c r).Inv := by
  unfold State.endBatch
  dsimp only
  split
  · exact h
  · exact ((h.foldl (fun _ _ hu => hu.updCtx)).foldl (fun _ _ hu => hu.updCtx)).updRegion.foldl
      (fun _ _ hu => hu.enterWaiting.updThread)

theorem keeps_execBatchEndEos {s : State} (h : s.Inv) {core region : Nat} : Keeps (execBatchEndEos core region s) :=
  (h.endBatch.ite h).next

/-! ### Operations of Sys2Proof/Machine/Exit -/

theorem State.Inv.handlerProt {s : State} (h : s.Inv) {c k : Nat} : (s.handlerProt c k).Inv := h

theorem State.Inv.prepRepair {s : State} (h : s.Inv) {c k : Nat} {kind : RepairKind} {data : Beat} {desc : Word} :
    (s.prepRepair c k kind data desc).Inv := by
  unfold State.prepRepair
  split
  · exact h
  · split
    · exact h
    · exact h.ite (h.updCore.ite h.handlerProt)

theorem State.Inv.performAct {s : State} (h : s.Inv) {c k : Nat} {a : CommitAct} : (s.performAct c k a).Inv := by
  cases a with
  | arrive n b => exact h.arriveAt
  | copy pd e n => exact h.updEngine
  | recruit => exact h.openRecruitment
  | hred v => exact h.contribute
  | lyrel l =>
    show (match s.ctxOf c k with
      | some x => if l.toNat < s.layersOf x then s.dropUse (s.thread c k).team x l.toNat else s
      | none => s).Inv
    split
    · split
      · exact h.dropUse
      · exact h
    · exact h
  | yield => exact h.updThread
  | cfginv va sc => exact h
  | eosi r =>
    show (if (s.region c r).batch.isSome then s.endBatch c r else s).Inv
    split
    · exact h.endBatch
    · exact h
  | trprep kind data desc => exact h.prepRepair
  | trret act blk arg =>
    show (if isHandlerKey k then s.trret c (k - 4096) act blk arg else s).Inv
    split
    · exact h.trret
    · exact h
  | _ => exact h

theorem State.Inv.enterWait {s : State} (h : s.Inv) {c k blk : Nat} {a : CommitAct} : (s.enterWait c k blk a).Inv := by
  unfold State.enterWait
  split
  · exact h.passOn.ite h.updThread
  · exact h.passOn.ite h.updThread
  · exact h.updThread
  · exact h.updThread.passOn.ite h.updThread
  · exact h.waitLayer
  · exact h.passOn

theorem State.Inv.freeBuffer {s : State} (h : s.Inv) {c k : Nat} : (s.freeBuffer c k).Inv := by
  unfold State.freeBuffer
  split
  · exact h
  · exact h.ite h.updCore.updExec

theorem State.Inv.releaseBlock {s : State} (h : s.Inv) {c k : Nat} : (s.releaseBlock c k).Inv :=
  h.releaseEntries.freeBuffer

theorem State.Inv.commitFlags {s : State} (h : s.Inv) {c k : Nat} {x : Exec} : (s.commitFlags c k x).Inv := h

theorem State.Inv.threadExits {s : State} (h : s.Inv) {c k : Nat} : (s.threadExits c k).Inv := by
  unfold State.threadExits
  dsimp only
  split
  · split
    · exact h.endHandler
    · exact h.endHandler.updCore.ite h.raiseTrap
  · split
    · exact h.releaseHelper.ite h.helperEnd
    · exact h.enterExited.updTeam.barriersCheck.retireCheck

theorem State.Inv.leaveHandlerPlane {s : State} (h : s.Inv) {c k : Nat} : (s.leaveHandlerPlane c k).Inv :=
  h.foldl (fun _ _ hu => hu.updTile.updRegion.ite hu)

theorem State.Inv.keepFences {s : State} (h : s.Inv) {c k : Nat} {x : Exec} : (s.keepFences c k x).Inv := by
  unfold State.keepFences
  split
  · exact h
  · exact h.ite h.updThread

theorem State.Inv.continueTo {s : State} (h : s.Inv) {c k : Nat} {x : Exec} {blk : Nat} : (s.continueTo c k x blk).Inv := by
  unfold State.continueTo
  split
  · exact h.enterWait
  · exact h.passOn

theorem State.Inv.commit {s : State} (h : s.Inv) {c k : Nat} {x : Exec} {next : Option Nat} : (s.commit c k x next).Inv := by
  unfold State.commit
  dsimp only
  split
  · exact h.releaseBlock
  · split
    · exact (h.releaseBlock.commitFlags.keepFences.foldl (fun _ _ hu => hu.performAct)).leaveHandlerPlane
    · split
      · exact (h.releaseBlock.commitFlags.keepFences.foldl (fun _ _ hu => hu.performAct)).leaveHandlerPlane.updThread
      · split
        · split
          · exact (h.releaseBlock.commitFlags.keepFences.foldl (fun _ _ hu => hu.performAct)).leaveHandlerPlane.releaseHelper
          · split
            · exact (h.releaseBlock.commitFlags.keepFences.foldl (fun _ _ hu => hu.performAct)).leaveHandlerPlane.helperEnd
            · exact (h.releaseBlock.commitFlags.keepFences.foldl (fun _ _ hu => hu.performAct)).leaveHandlerPlane.continueTo
        · split
          · exact (h.releaseBlock.commitFlags.keepFences.foldl (fun _ _ hu => hu.performAct)).leaveHandlerPlane.threadExits
          · exact (h.releaseBlock.commitFlags.keepFences.foldl (fun _ _ hu => hu.performAct)).leaveHandlerPlane.continueTo

theorem State.Inv.commitPartly {s : State} (h : s.Inv) {c k : Nat} {e : Exec} {f : State → State}
    (hf : ∀ (u : State), u.Inv → (f u).Inv) : (s.commitPartly c k e f).Inv := by
  unfold State.commitPartly
  dsimp only
  split
  · exact h.releaseBlock
  · have hc (l : List CommitAct) : (f (l.foldl (fun s a => s.performAct c k a)
        (((s.releaseBlock c k).commitFlags c k e).keepFences c k e))).Inv :=
      hf _ (h.releaseBlock.commitFlags.keepFences.foldl fun _ _ hu => hu.performAct)
    split
    · split
      · exact (hc _).updThread.releaseHelper
      · exact (hc _).updThread
    · exact (hc _).updThread

theorem State.Inv.dropCopies {s : State} (h : s.Inv) {acts : List CommitAct} : (s.dropCopies acts).Inv := by
  unfold State.dropCopies
  refine h.foldl (fun _ _ hu => ?_)
  split
  · exact hu.updEngine
  · exact hu

theorem State.Inv.abandon {s : State} (h : s.Inv) {c k : Nat} {x : Exec} : (s.abandon c k x).Inv :=
  (h.dropCopies.freeBuffer.releaseReservation.ite h.dropCopies.freeBuffer).leaveHandlerPlane.updThread

theorem State.Inv.deniedTrap {s : State} (h : s.Inv) {c k blk : Nat} : (s.deniedTrap c k blk).Inv := h

theorem State.Inv.afterAbandon_body {s : State} (h : s.Inv) {c k : Nat} {e : Exec} :
    (State.afterAbandon.body c k e s).Inv := by
  unfold State.afterAbandon.body
  dsimp only
  split
  · exact h
  · split
    · split
      · exact h.updThread
      · split
        · exact h.deniedTrap
        · exact h.updThread
    · split
      · exact h.enterWaiting
      · split
        · exact h.takeExitTrap
        · exact h.updThread

theorem State.Inv.afterAbandon {s : State} (h : s.Inv) {c k : Nat} {e : Exec} : (s.afterAbandon c k e).Inv := by
  unfold State.afterAbandon
  split
  · split
    · exact h.releaseHelper
    · exact h.afterAbandon_body
  · exact h.afterAbandon_body

theorem State.Inv.faultedCommit {s : State} (h : s.Inv) {c k : Nat} {x : Exec} : (s.faultedCommit c k x).Inv := by
  unfold State.faultedCommit
  dsimp only
  split
  · exact h.updThread.updCore
  · split
    · exact h.updThread.takeExitTrap
    · split
      · exact h.updThread.takeExitTrap
      · exact h.updThread

theorem State.Inv.trapOrRelease {s : State} (h : s.Inv) {c k code : Nat} {r : Record} : (s.trapOrRelease c k code r).Inv := by
  unfold State.trapOrRelease
  split
  · exact h.releaseHelper.ite h.takeExitTrap
  · exact h.takeExitTrap

theorem State.Inv.dealExit {s : State} (h : s.Inv) {c k : Nat} : (s.dealExit c k).Inv := by
  unfold State.dealExit
  dsimp only
  split
  · exact h
  · split
    · exact h
    · split
      · split
        · exact h.commitPartly (fun _ hu => hu.faultedCommit)
        · split
          · exact h.commitPartly (fun _ hu => hu.takeExitTrap)
          · exact (h.commitPartly (fun _ hu => hu.takeExitTrap)).ite h.commit
      · exact h.abandon.afterAbandon.ite (h.abandon.trapOrRelease.ite (h.abandon.trapOrRelease.ite h.commit))

theorem State.Inv.stepOver {s : State} (h : s.Inv) {c k : Nat} {ran : Bool} : (s.stepOver c k ran).Inv :=
  h.upd.ite h

theorem keeps_execExitAtDealer {s : State} (h : s.Inv) {core thread : Nat} : Keeps (execExitAtDealer core thread s) :=
  h.dealExit.stepOver.next

theorem State.Inv.watchdog {s : State} (h : s.Inv) {t n : Nat} : (s.watchdog t n).Inv :=
  h.ite h.event.updBarrier

theorem keeps_execBarrierWatchdog {s : State} (h : s.Inv) {core barrier : Nat} : Keeps (execBarrierWatchdog core barrier s) :=
  (h.foldl (fun _ _ hu => hu.watchdog)).next

/-! ### Operations of Sys2Proof/Machine/Faults -/

theorem State.Inv.deviceRequest {s : State} (h : s.Inv) {pa n : Nat} : (s.deviceRequest pa n).Inv :=
  h.foldl (fun _ _ hu => hu.agentRequest)

theorem State.Inv.deviceControl {s : State} (h : s.Inv) {pa off : Nat} {l : List Byte} : (s.deviceControl pa off l).Inv := by
  unfold State.deviceControl
  split
  · exact h.upd.ite h
  · exact h.upd

theorem State.Inv.deviceWrite {s : State} (h : s.Inv) {pa : Nat} {l : List Byte} {bad : Bool} :
    (s.deviceWrite pa l bad).Inv := by
  unfold State.deviceWrite
  split
  · exact h.deviceControl
  · refine h.foldl (fun _ _ hu => hu.logDiscard.ite ?_)
    split
    · exact hu
    · exact hu
    · exact hu.domainWrite
    · exact hu.writeAtSlice

theorem State.Inv.markTeam {s : State} (h : s.Inv) {t : Nat} : (s.markTeam t).Inv := by
  unfold State.markTeam
  dsimp only
  split
  · exact h
  · split
    · exact h
    · refine h.foldl (fun _ _ hu => ?_)
      split
      · exact hu.upd.updTeam.forceReleaseAll
      · exact hu

theorem State.Inv.parkFault {s : State} (h : s.Inv) {c k : Nat} {r : Record} : (s.parkFault c k r).Inv := by
  unfold State.parkFault
  extract_lets th asp page hand new layer station asked made id s1 s2 s3 s4
  have h1 : s1.Inv := by
    unfold s1 made
    clear_value layer
    split
    · exact h
    · split
      · exact h.upd.demand
      · exact h.upd.queueRecord
  have h4 : s4.Inv := h1.updThread.updTeam.foldl fun _ _ hu => hu.updThread.ite hu
  split
  · exact h1.updThread
  · exact State.Inv.ite (h4.markTeam.ite h4) h1.updThread.updTeam

theorem State.Inv.replayThread {s : State} (h : s.Inv) {c k : Nat} : (s.replayThread c k).Inv :=
  h.updThread.deniedTrap.ite h.updThread.updThread

theorem State.Inv.unpark {s : State} (h : s.Inv) {t hand : Nat} : (s.unpark t hand).Inv :=
  (h.updTeam.foldl (fun _ _ hu => hu.replayThread)).foldl (fun _ _ hu => hu.updThread.ite hu)

theorem State.Inv.markDenied {s : State} (h : s.Inv) {id : Nat} : (s.markDenied id).Inv := h

theorem State.Inv.answerHand {s : State} (h : s.Inv) {id t : Nat} {x : Nat × Park} : (s.answerHand id t x).Inv :=
  h.ite (h.unpark.ite h.updTeam)

theorem State.Inv.answerHands {s : State} (h : s.Inv) {id : Nat} : (s.answerHands id).Inv :=
  h.foldl (fun _ _ hu => hu.foldl (fun _ _ hu1 => hu1.answerHand))

theorem State.Inv.answerPage {s : State} (h : s.Inv) {id : Nat} {denied : Bool} : (s.answerPage id denied).Inv :=
  (h.upd.markDenied.ite h.upd).answerHands

theorem keeps_execPgdoneMapped {s : State} (h : s.Inv) {request : Nat} : Keeps (execPgdoneMapped request s) :=
  (h.answerPage.ite h.setRegBit).next

theorem keeps_execPgdoneDenied {s : State} (h : s.Inv) {request : Nat} : Keeps (execPgdoneDenied request s) :=
  (h.answerPage.ite h.setRegBit).next

theorem keeps_execParkLimitExpiry {s : State} (h : s.Inv) {team hand : Nat} : Keeps (execParkLimitExpiry team hand s) :=
  (h.markTeam.ite h).next

theorem keeps_execDlrParklimWrite {s : State} (h : s.Inv) {v : Word} : Keeps (execDlrParklimWrite v s) :=
  (h.setReg.foldl (fun _ _ hu => hu.markTeam.ite hu)).next

theorem State.Inv.handlerFault {s : State} (h : s.Inv) {c j : Nat} {r : Record} : (s.handlerFault c j r).Inv := by
  unfold State.handlerFault
  dsimp only
  split
  · exact h.queueRecord.endHandler
  · split
    · exact h.queueRecord.endHandler
    · exact h.queueRecord.endHandler.updCore.ite h.queueRecord.endHandler.updCore.queueKept

theorem State.Inv.addTrap {s : State} (h : s.Inv) {c : Nat} {t : Trap} : (s.addTrap c t).Inv := h

theorem State.Inv.freezeTrap {s : State} (h : s.Inv) {c : Nat} {f : FaultTok} : (s.freezeTrap c f).Inv := h

theorem State.Inv.dropExitTraps {s : State} (h : s.Inv) {c k : Nat} : (s.dropExitTraps c k).Inv := h

theorem State.Inv.station1 {s : State} (h : s.Inv) {c : Nat} {f : FaultTok} : (s.station1 c f).Inv := by
  unfold State.station1
  dsimp only
  split
  · exact h.handlerFault.ite (h.dropExitTraps.parkFault.ite (h.ite h.numberRecord.addTrap))
  · exact h.freezeTrap

theorem keeps_execFaultToken {s : State} (h : s.Inv) {core : Nat} : Keeps (execFaultToken core s) := by
  unfold execFaultToken
  refine State.Inv.next ?_
  split
  · exact h
  · exact h.updCore.station1

theorem State.Inv.startHandler {s : State} (h : s.Inv) {c j blk region va : Nat} : (s.startHandler c j blk region va).Inv := h

theorem State.Inv.takeTrap {s : State} (h : s.Inv) {c j : Nat} {t0 t : Trap} : (s.takeTrap c j t0 t).Inv := h

theorem State.Inv.beginHandler {s : State} (h : s.Inv) {c j : Nat} {t : Trap} : (s.beginHandler c j t).Inv := by
  unfold State.beginHandler
  split
  · exact h.raiseTrap
  · exact h.updCore.startHandler

theorem State.Inv.writeRecordPage {s : State} (h : s.Inv) {c j asp va : Nat} {t0 t : Trap} :
    (s.writeRecordPage c j asp va t0 t).Inv := by
  unfold State.writeRecordPage
  split
  · exact h.takeTrap.queueRecord
  · exact h.deviceRequest.ite h.deviceWrite.dropValid.takeTrap

theorem State.Inv.beginNext {s : State} (h : s.Inv) {c : Nat} : (s.beginNext c).Inv := by
  unfold State.beginNext
  split
  · exact h.beginHandler
  · exact h

theorem keeps_execHandlerSlotAllocate {s : State} (h : s.Inv) {core : Nat} : Keeps (execHandlerSlotAllocate core s) := by
  unfold execHandlerSlotAllocate
  refine (State.Inv.beginNext ?_).next
  split
  · exact h.writeRecordPage
  · exact h

theorem keeps_execSystemQueueDeliver {s : State} (h : s.Inv) : Keeps (execSystemQueueDeliver s) := by
  unfold execSystemQueueDeliver
  refine State.Inv.next ?_
  split
  · exact h
  · exact h.ite (h.setRegBit.ite (h.deviceRequest.ite h.deviceWrite.upd))

theorem keeps_execResolveRaise {s : State} (h : s.Inv) {core hslot : Nat} : Keeps (execResolveRaise core hslot s) :=
  h.fstResolve.next

theorem keeps_execResolveRetry {s : State} (h : s.Inv) {core hslot : Nat} : Keeps (execResolveRetry core hslot s) :=
  h.fstResolve.next

theorem keeps_execResolveRetryat {s : State} (h : s.Inv) {core hslot : Nat} : Keeps (execResolveRetryat core hslot s) :=
  h.fstResolve.next

theorem keeps_execResolveBranch {s : State} (h : s.Inv) {core hslot blk : Nat} : Keeps (execResolveBranch core hslot blk s) :=
  h.fstResolve.next

theorem keeps_execResolveResume {s : State} (h : s.Inv) {core hslot : Nat} : Keeps (execResolveResume core hslot s) :=
  h.fstResolve.next

theorem keeps_execResolveExit {s : State} (h : s.Inv) {core hslot : Nat} : Keeps (execResolveExit core hslot s) :=
  h.fstResolve.next

/-! ### Operations of Sys2Proof/Machine/Place -/

theorem State.Inv.placeTeam {s : State} (h : s.Inv) {t c : Nat} {g : Grid} : (s.placeTeam t c g).Inv :=
  h.updCore.updTeam

theorem State.Inv.enterThreads {s : State} (h : s.Inv) {t c : Nat} {f : Nat → Thread} : (s.enterThreads t c f).Inv := by
  unfold State.enterThreads
  split
  · exact h
  · refine h.foldl (fun _ _ hu => ?_)
    split
    · exact hu.updThread
    · exact hu

theorem State.Inv.admitTeam {s : State} (h : s.Inv) {t c : Nat} {g : Grid} : (s.admitTeam t c g).Inv :=
  h.placeTeam.selfInvalidate.enterThreads

/-! ### Operations of Sys2Proof/Machine/Swap -/

theorem State.Inv.dropTraps {s : State} (h : s.Inv) {c t : Nat} : (s.dropTraps c t).Inv := h

theorem State.Inv.leaveBatches {s : State} (h : s.Inv) {c : Nat} {p : Nat → Bool} : (s.leaveBatches c p).Inv := h

theorem State.Inv.writeAll {s : State} (h : s.Inv) {w : List (Nat × List Byte)} : (s.writeAll w).Inv :=
  h.foldl (fun _ _ hu => hu.deviceWrite)

theorem State.Inv.saveTeam {s : State} (h : s.Inv) {t : Nat} : (s.saveTeam t).Inv := by
  unfold State.saveTeam
  split
  · exact h
  · split
    · exact h
    · exact h.writeAll.dropTraps.leaveBatches.updTeam.freeTeam

theorem State.Inv.purgeStill {s : State} (h : s.Inv) {t : Nat} : (s.purgeStill t).Inv := by
  unfold State.purgeStill
  refine h.foldl (fun _ _ hu => (hu.foldl (fun _ _ hu1 => ?_)).purgeTokens)
  split
  · exact hu1.abandon.updThread
  · exact hu1

theorem State.Inv.discardTeam {s : State} (h : s.Inv) {t : Nat} : (s.discardTeam t).Inv := by
  unfold State.discardTeam
  dsimp only
  split
  · exact h
  · refine (State.Inv.upd ?_).updTeam.retireTeam
    split
    · exact h.dropTraps.leaveBatches
    · exact h

theorem keeps_execSwapOut {s : State} (h : s.Inv) {team : Nat} : Keeps (execSwapOut team s) := by
  unfold execSwapOut
  refine State.Inv.next ?_
  split
  · exact h
  · split
    · exact h.ite (h.discardTeam.ite (h.purgeStill.discardTeam.ite h.purgeStill))
    · exact h.ite ((h.foldl (fun _ _ hu => hu.saveTeam)).ite (h.foldl (fun _ _ hu => hu.deviceRequest)))

theorem keeps_execSwapWithdraw {s : State} (h : s.Inv) {team : Nat} : Keeps (execSwapWithdraw team s) := by
  unfold execSwapWithdraw
  refine (h.ite (h.foldl (fun _ _ hu => ?_))).next
  split
  · exact hu
  · exact hu.upd.updTeam

theorem State.Inv.resumeTeam {s : State} (h : s.Inv) {t c : Nat} : (s.resumeTeam t c).Inv := by
  unfold State.resumeTeam
  dsimp only
  split
  · exact h
  · refine (h.foldl (fun _ _ hu => hu.unpark.ite hu)).foldl (fun _ _ hu => ?_)
    split
    · split
      · exact hu.ite hu.waitLayer
      · exact hu
    · exact hu.joinNow
    · exact hu

theorem State.Inv.readmitTeam {s : State} (h : s.Inv) {t c : Nat} : (s.readmitTeam t c).Inv := by
  unfold State.readmitTeam
  split
  · refine (h.placeTeam.enterThreads.upd.updTeam.foldl (fun _ _ hu => ?_)).selfInvalidate.resumeTeam
    split
    · exact hu.addTrap
    · exact hu
  · exact h

theorem keeps_execTeamReadmit {s : State} (h : s.Inv) {team : Nat} : Keeps (execTeamReadmit team s) := by
  unfold execTeamReadmit
  refine (h.ite ?_).next
  split
  · exact h
  · exact h.foldl (fun _ _ hu => hu.readmitTeam)

theorem keeps_execReadmitEvent {s : State} (h : s.Inv) {team : Nat} : Keeps (execReadmitEvent team s) := by
  unfold execReadmitEvent
  refine State.Inv.next ?_
  split
  · exact h.ite h.event.updTeam
  · exact h

theorem State.Inv.assignAreas {s : State} (h : s.Inv) {l : List Nat} : (s.assignAreas l).Inv := by
  unfold State.assignAreas
  refine h.foldl (fun _ _ hu => ?_)
  split
  · exact hu.ite hu.upd.updTeam
  · exact hu

theorem State.Inv.emptyEntries {s : State} (h : s.Inv) {c : Nat} : (s.emptyEntries c).Inv :=
  h.updCore.foldl (fun _ _ hu => hu.enterWaiting.updThread)

theorem keeps_execDlrPreempt {s : State} (h : s.Inv) {die : Nat} : Keeps (execDlrPreempt die s) := by
  unfold execDlrPreempt
  refine State.Inv.next ?_
  split
  · exact h.updDist
  · exact (h.assignAreas.updDist.foldl (fun _ _ hu => hu.forceReleaseAll)).foldl (fun _ _ hu => hu.emptyEntries)

theorem State.Inv.vacateTeams {s : State} (h : s.Inv) {l : List Nat} {pa : Nat} : (s.vacateTeams l pa).Inv :=
  h.foldl (fun _ _ hu => hu.updTeam)

theorem State.Inv.vacateCores {s : State} (h : s.Inv) {d : Nat} : (s.vacateCores d).Inv :=
  h.foldl (fun _ _ hu => hu.updCore)

theorem State.Inv.keepContext {s : State} (h : s.Inv) {d pa : Nat} {x : DieContext} : (s.keepContext d pa x).Inv := h

theorem State.Inv.savePreempted {s : State} (h : s.Inv) {d : Nat} : (s.savePreempted d).Inv :=
  h.writeAll.vacateTeams.vacateCores.keepContext

theorem keeps_execPreemptQuiesce {s : State} (h : s.Inv) {die : Nat} : Keeps (execPreemptQuiesce die s) :=
  (h.ite (h.savePreempted.ite (h.foldl (fun _ _ hu => hu.deviceRequest)))).next

theorem keeps_execPreemptBoundExpiry {s : State} (h : s.Inv) {die : Nat} : Keeps (execPreemptBoundExpiry die s) :=
  (h.ite (h.foldl (fun _ _ hu => hu.updRegion))).next

theorem State.Inv.restoreCore {s : State} (h : s.Inv) {c old : Nat} {k : Core} : (s.restoreCore c old k).Inv := h

theorem State.Inv.restoreTeams {s : State} (h : s.Inv) {d : Nat} {ctx : DieContext} : (s.restoreTeams d ctx).Inv := by
  unfold State.restoreTeams
  refine h.foldl (fun _ _ hu => ?_)
  split
  · exact hu
  · exact hu.upd.updTeam.resumeTeam

theorem keeps_execDlrRestore {s : State} (h : s.Inv) {die : Nat} : Keeps (execDlrRestore die s) := by
  unfold execDlrRestore
  refine State.Inv.next ?_
  split
  · exact (h.foldl (fun _ _ hu => hu.restoreCore)).upd.updDist.restoreTeams
  · exact h.updDist

/-! ### Operations of Sys2Proof/Machine/Launch -/

theorem State.Inv.deviceFault {s : State} (h : s.Inv) {code asp va q : Nat} {gen : BitVec 16} {write : Bool} :
    (s.deviceFault code asp va q gen write).Inv := h

theorem State.Inv.signalRequest {s : State} (h : s.Inv) {asp va : Nat} : (s.signalRequest asp va).Inv := by
  unfold State.signalRequest
  split
  · exact h.deviceRequest
  · exact h

theorem State.Inv.writeSignal {s : State} (h : s.Inv) {asp va q : Nat} {gen : BitVec 16} {st : SigStatus} :
    (s.writeSignal asp va q gen st).Inv := by
  unfold State.writeSignal
  split
  · exact h
  · split
    · exact h.deviceFault
    · exact h.deviceWrite

theorem State.Inv.updPacket {s : State} (h : s.Inv) {q i : Nat} {f : Packet → Packet} : (s.updPacket q i f).Inv := h

theorem keeps_execLqDoorbell {s : State} (h : s.Inv) {q : Nat} {v : Word} : Keeps (execLqDoorbell q v s) :=
  (h.updQueue.ite h.setRegBit).next

theorem State.Inv.closePacket {s : State} (h : s.Inv) {q : Nat} {p : Packet} {st : SigStatus} : (s.closePacket q p st).Inv :=
  h.writeSignal.updPacket

theorem State.Inv.takePacket {s : State} (h : s.Inv) {q : Nat} {p : Packet} : (s.takePacket q p).Inv :=
  h.updQueue.closePacket.ite h.updQueue

theorem keeps_execPacketRead {s : State} (h : s.Inv) {q : Nat} : Keeps (execPacketRead q s) := by
  unfold execPacketRead
  dsimp only
  refine (h.ite ?_).next
  split
  · exact h.deviceFault.updQueue
  · split
    · exact h.foldl (fun _ _ hu => hu.readRequest)
    · exact h.deviceFault.updQueue.ite (h.signalRequest.ite h.takePacket)

theorem State.Inv.requestPieces {s : State} (h : s.Inv) {l : List (Nat × Nat)} : (s.requestPieces l).Inv :=
  h.foldl (fun _ _ hu => hu.foldl (fun _ _ hu1 => hu1.ite hu1.readRequest))

theorem State.Inv.cfgErr {s : State} (h : s.Inv) {va : Nat} {x : ImgErr} {q : Option Nat} : (s.cfgErr va x q).Inv := h

theorem State.Inv.makeRoom {s : State} (h : s.Inv) {size n : Nat} {t : State} (e : s.makeRoom size n = some t) : t.Inv := by
  induction n generalizing s with
  | zero => exact nomatch e
  | succ n ih =>
    unfold State.makeRoom at e
    split at e
    · exact Option.some.inj e ▸ h
    · split at e
      · exact nomatch e
      · exact ih h.updImage e

theorem State.Inv.storeImage {s : State} (h : s.Inv) {img : Image} {n : Nat} {t : State} (e : s.storeImage img = some (n, t)) :
    t.Inv := by
  obtain ⟨u, hu, he⟩ := Option.map_eq_some_iff.mp e
  obtain ⟨-, rfl⟩ := Prod.mk.inj he
  exact (h.makeRoom hu).upd

theorem State.Inv.imaged {s : State} (h : s.Inv) {q : Nat} {p : Packet} {i : Nat} : (s.imaged q p i).Inv :=
  h.updImage.updPacket

theorem State.Inv.imageFails {s : State} (h : s.Inv) {q : Nat} {p : Packet} {x : ImgErr} : (s.imageFails q p x).Inv :=
  h.signalRequest.ite h.cfgErr.closePacket

theorem keeps_execImageLoad {s : State} (h : s.Inv) {q : Nat} : Keeps (execImageLoad q s) := by
  unfold execImageLoad
  dsimp only
  refine State.Inv.next ?_
  split
  · exact h
  · split
    · exact h.requestPieces
    · exact h.imageFails
    · split
      · split
        · exact h.imageFails
        · exact h.imaged
      · split
        · exact h.requestPieces
        · exact h.imageFails
        · split
          · exact h
          · next x x1 u he =>
            have hu : u.Inv := h.storeImage he
            exact hu.imaged

theorem keeps_execFstHimgWrite {s : State} (h : s.Inv) {v : Word} : Keeps (execFstHimgWrite v s) := by
  unfold execFstHimgWrite
  refine State.Inv.next ?_
  split
  · exact h.setReg.requestPieces.upd
  · exact h.setReg.upd.setRegBit.cfgErr
  · split
    · exact h.setReg.upd
    · next x x1 u he =>
      have hu : u.Inv := h.setReg.storeImage he
      exact hu.upd

theorem State.Inv.markDiscard {s : State} (h : s.Inv) {t : Nat} : (s.markDiscard t).Inv := by
  unfold State.markDiscard
  split
  · exact h
  · exact h.ite h.updTeam.forceReleaseAll.upd

theorem State.Inv.abortGrid {s : State} (h : s.Inv) {g : Nat} {imgErr : Bool} : (s.abortGrid g imgErr).Inv := by
  unfold State.abortGrid
  split
  · exact h
  · exact h.ite (h.updGrid.upd.foldl (fun _ _ hu => hu.markDiscard))

theorem keeps_execImageReload {s : State} (h : s.Inv) {image : Nat} : Keeps (execImageReload image s) := by
  unfold execImageReload
  dsimp only
  refine State.Inv.next ?_
  split
  · exact h
  · split
    · exact h
    · split
      · exact h.requestPieces
      · split
        · exact h.updImage.upd.setRegBit.cfgErr
        · refine h.updImage.foldl (fun _ _ hu => ?_)
          split
          · exact hu.cfgErr.abortGrid
          · exact hu
      · split
        · exact h
        · next x u he =>
          have hu : u.Inv := h.updImage.makeRoom he
          exact hu.updImage

theorem keeps_execWaitSignalExamine {s : State} (h : s.Inv) {q i : Nat} : Keeps (execWaitSignalExamine q i s) := by
  unfold execWaitSignalExamine
  refine State.Inv.next ?_
  split
  · exact h
  · split
    · exact h
    · split
      · exact h
      · exact h.readRequest.ite (h.ite h.updPacket)

theorem State.Inv.shareOut {s : State} (h : s.Inv) {id : Nat} {of : Nat → List Nat} : (s.shareOut id of).Inv :=
  h.foldl (fun _ _ hu => hu.updDist)

theorem State.Inv.beginGrid {s : State} (h : s.Inv) {q : Nat} {p : Packet} {img : Nat} : (s.beginGrid q p img).Inv :=
  h.upd.shareOut.updPacket

theorem keeps_execPacketBegin {s : State} (h : s.Inv) {q : Nat} : Keeps (execPacketBegin q s) := by
  unfold execPacketBegin
  dsimp only
  refine State.Inv.next ?_
  split
  · exact h
  · split
    · exact h.closePacket.ite h.signalRequest
    · split
      · exact h.closePacket.ite h.signalRequest
      · split
        · exact h
        · split
          · exact h.closePacket.ite h.signalRequest
          · split
            · exact h.beginGrid
            · exact h

theorem State.Inv.dropUnit {s : State} (h : s.Inv) {d g u : Nat} : (s.dropUnit d g u).Inv := h

theorem State.Inv.admitUnit {s : State} (h : s.Inv) {gid : Nat} {g : Grid} {u : Nat} {cores : List Nat} :
    (s.admitUnit gid g u cores).Inv :=
  h.foldl (fun _ _ hu1 => hu1.upd.admitTeam)

theorem keeps_execTeamAdmit {s : State} (h : s.Inv) {die : Nat} : Keeps (execTeamAdmit die s) := by
  unfold execTeamAdmit
  dsimp only
  refine State.Inv.next ?_
  split
  · exact h
  · split
    · exact h
    · split
      · split
        · exact h
        · split
          · exact h
          · exact h.dropUnit.admitUnit
      · split
        · exact h
        · split
          · exact h
          · exact h.dropUnit.admitUnit

theorem keeps_execStealRequest {s : State} (h : s.Inv) {die : Nat} : Keeps (execStealRequest die s) :=
  (h.ite h.updDist).next

theorem keeps_execStealTransfer {s : State} (h : s.Inv) {die victim : Nat} : Keeps (execStealTransfer die victim s) := by
  unfold execStealTransfer
  dsimp only
  refine (h.ite ?_).next
  split
  · exact h.updDist
  · exact h.updDist.updDist.updDist

theorem keeps_execGridComplete {s : State} (h : s.Inv) {grid : Nat} : Keeps (execGridComplete grid s) := by
  unfold execGridComplete
  refine State.Inv.next ?_
  split
  · exact h
  · exact h.ite (h.signalRequest.ite h.writeSignal.upd.updGrid.updPacket)

theorem keeps_execLqTearDrain {s : State} (h : s.Inv) {q : Nat} : Keeps (execLqTearDrain q s) :=
  (h.updQueue.ite h).next

theorem keeps_execLqTearAbort {s : State} (h : s.Inv) {q : Nat} : Keeps (execLqTearAbort q s) :=
  (h.updQueue.foldl (fun _ _ hu => hu.abortGrid)).next

theorem keeps_execTeardownComplete {s : State} (h : s.Inv) {q : Nat} : Keeps (execTeardownComplete q s) :=
  (h.ite (h.setReg.updQueue.event.ite h.setReg.updQueue)).next

theorem keeps_execLqEnable {s : State} (h : s.Inv) {q : Nat} {v : Word} : Keeps (execLqEnable q v s) :=
  (h.setRegBit.ite (h.ite h.setReg.updQueue)).next

theorem keeps_execLqDisable {s : State} (h : s.Inv) {q : Nat} {v : Word} : Keeps (execLqDisable q v s) :=
  (h.setRegBit.ite (h.ite (h.setReg.ite h.setRegBit))).next

theorem keeps_execDstModeWrite {s : State} (h : s.Inv) {v : Word} : Keeps (execDstModeWrite v s) :=
  (h.ite (h.setRegBit.ite h.setReg)).next

theorem keeps_execDstSemWrite {s : State} (h : s.Inv) {i : Nat} {v : Word} : Keeps (execDstSemWrite i v s) :=
  h.setReg.upd.next

/-! ### Operations of Sys2Proof/Machine/Wakes -/

theorem State.Inv.copyRecord {s : State} (h : s.Inv) {q : CopyCmd} {code va : Nat} {write : Bool} :
    (s.copyRecord q code va write).Inv := h

theorem State.Inv.copyData {s : State} (h : s.Inv) {pd : Nat} {q : CopyCmd} : (s.copyData pd q).1.Inv := by
  unfold State.copyData
  dsimp only
  split
  · refine (h.foldl (fun _ _ hu => hu.deviceWrite.foldl (fun _ _ hu1 => hu1.setFull))).foldl (fun _ _ hu => ?_)
    exact hu.ite (hu.setCopyPoison.ite (hu.setCopyPoison.ite hu))
  · refine ((h.foldl (fun _ _ hu => hu.deviceWrite.foldl (fun _ _ hu1 => hu1.setFull))).foldl (fun _ _ hu => ?_)).copyRecord
    exact hu.ite (hu.setCopyPoison.ite (hu.setCopyPoison.ite hu))

theorem State.Inv.copyFinish {s : State} (h : s.Inv) {pd x : Nat} {q : CopyCmd} {failed : Bool} :
    (s.copyFinish pd x q failed).Inv := by
  unfold State.copyFinish
  split
  · exact h.updEngine
  · split
    · exact h.copyRecord.updEngine
    · exact (h.deviceWrite.foldl (fun _ _ hu => hu.setFull)).updEngine.ite h.deviceRequest.updEngine

theorem keeps_execCopyComplete {s : State} (h : s.Inv) {pd engine : Nat} : Keeps (execCopyComplete pd engine s) := by
  unfold execCopyComplete
  dsimp only
  refine State.Inv.next ?_
  split
  · exact h.copyFinish
  · split
    · exact h
    · split
      · exact h
      · split
        · exact (h.foldl (fun _ _ hu => hu.ite hu.readRequest)).foldl (fun _ _ hu => hu.ite hu.agentRequest)
        · exact h.copyData.updEngine.ite h.copyData.copyFinish

theorem keeps_execSleepWake {s : State} (h : s.Inv) {core thread : Nat} : Keeps (execSleepWake core thread s) := by
  unfold execSleepWake
  refine State.Inv.next ?_
  split
  · exact h.leaveWait.ite h
  · exact h.enterWaiting.ite h
  · exact h.waitLayer.ite h
  · exact h

theorem keeps_execWaittWake {s : State} (h : s.Inv) {core thread : Nat} : Keeps (execWaittWake core thread s) := by
  unfold execWaittWake
  dsimp only
  refine State.Inv.next ?_
  split
  · split
    · exact h
    · split
      · exact h.takeWaitTrap
      · exact (h.updThread.selfInvalidate.ite h.updThread).leaveWait
  · exact h

theorem keeps_execReservationAgeExpiry {s : State} (h : s.Inv) {core thread : Nat} :
    Keeps (execReservationAgeExpiry core thread s) := by
  unfold execReservationAgeExpiry
  refine State.Inv.next ?_
  split
  · exact h
  · exact h.updThread.ite h

theorem keeps_execHoldExpiry {s : State} (h : s.Inv) {core thread : Nat} : Keeps (execHoldExpiry core thread s) := by
  unfold execHoldExpiry
  refine State.Inv.next ?_
  split
  · exact h
  · exact h.updThread.flushHeld.ite h

theorem State.Inv.dropPlanes {s : State} (h : s.Inv) {i : Nat} {p : Nat → Bool} : (s.dropPlanes i p).Inv := h

theorem State.Inv.dropStores {s : State} (h : s.Inv) {i : Nat} {p : Nat → Bool} : (s.dropStores i p).Inv :=
  h.updImage

theorem State.Inv.invalidateImage {s : State} (h : s.Inv) {v : CfgInv} {i : Nat} : (s.invalidateImage v i).Inv := by
  unfold State.invalidateImage
  split
  · exact h.dropPlanes
  · exact h.dropPlanes.dropStores
  · exact h.dropPlanes.dropStores

theorem keeps_execCfginvComplete {s : State} (h : s.Inv) : Keeps (execCfginvComplete s) := by
  unfold execCfginvComplete
  refine State.Inv.next ?_
  split
  · exact h
  · exact h.upd.foldl (fun _ _ hu => hu.invalidateImage)

/-! ### Operations of Sys2Proof/Machine/Chr -/

theorem State.Inv.writeFlag {s : State} (h : s.Inv) {ctx n st : Nat} {advance : Bool} : (s.writeFlag ctx n st advance).Inv :=
  h.deviceWrite

theorem State.Inv.placesRequest {s : State} (h : s.Inv) {l : List (Nat × Nat)} : (s.placesRequest l).Inv :=
  h.foldl (fun _ _ hu => hu.deviceRequest)

theorem State.Inv.writeLeaves {s : State} (h : s.Inv) {d : LayerDesc} {entry : Nat → Nat} : (s.writeLeaves d entry).Inv :=
  h.foldl (fun _ _ hu => hu.deviceWrite)

theorem State.Inv.freeLayer {s : State} (h : s.Inv) {ctx n : Nat} : (s.freeLayer ctx n).Inv := h

theorem State.Inv.evictLayer {s : State} (h : s.Inv) {ctx n : Nat} : (s.evictLayer ctx n).Inv :=
  h.writeFlag.writeLeaves.dropXlat.freeLayer

theorem State.Inv.updFetch {s : State} (h : s.Inv) {ctx n : Nat} {g : Fetch → Fetch} : (s.updFetch ctx n g).Inv := h

theorem State.Inv.takeFrames {s : State} (h : s.Inv) {f : Fetch} : (s.takeFrames f).Inv := by
  unfold State.takeFrames
  split
  · exact h
  · split
    · exact h.updFetch
    · split
      · exact h
      · exact h.placesRequest.ite ((h.foldl (fun _ _ hu => hu.evictLayer)).upd.updFetch)

theorem State.Inv.answerLayer {s : State} (h : s.Inv) {ctx n : Nat} {denied : Bool} : (s.answerLayer ctx n denied).Inv :=
  h.foldl (fun _ _ hu => hu.answerPage)

theorem State.Inv.wakeLayer {s : State} (h : s.Inv) {ctx n : Nat} : (s.wakeLayer ctx n).Inv :=
  h.foldl (fun _ _ hu => hu.takeUse.leaveWait)

theorem State.Inv.trapLayer {s : State} (h : s.Inv) {ctx n : Nat} : (s.trapLayer ctx n).Inv :=
  h.foldl (fun _ _ hu => hu.takeWaitTrap)

theorem State.Inv.endFetch {s : State} (h : s.Inv) {ctx n : Nat} : (s.endFetch ctx n).Inv := h

theorem State.Inv.settleDemand {s : State} (h : s.Inv) {ctx n : Nat} : (s.settleDemand ctx n).Inv :=
  h.updLayer.answerLayer.ite h

theorem keeps_execChrysalisFetchStart {s : State} (h : s.Inv) {ctx layer : Nat} :
    Keeps (execChrysalisFetchStart ctx layer s) := by
  unfold execChrysalisFetchStart
  refine State.Inv.next ?_
  split
  · exact h.takeFrames
  · split
    · exact (h.deviceRequest.ite h.writeFlag.upd.takeFrames).ite h.settleDemand
    · exact h.settleDemand

theorem keeps_execFetchComplete {s : State} (h : s.Inv) {ctx layer : Nat} : Keeps (execFetchComplete ctx layer s) := by
  unfold execFetchComplete
  dsimp only
  refine State.Inv.next ?_
  split
  · exact h
  · split
    · exact h
    · split
      · refine h.placesRequest.foldl (fun _ _ hu => ?_)
        exact (hu.ite hu.readRequest).ite ((hu.ite hu.readRequest).agentRequest)
      · exact (h.foldl (fun _ _ hu => hu.deviceWrite.clearPoison)).writeLeaves.writeFlag.endFetch.updLayer.wakeLayer.answerLayer

theorem keeps_execFetchFail {s : State} (h : s.Inv) {ctx layer : Nat} : Keeps (execFetchFail ctx layer s) := by
  unfold execFetchFail
  refine State.Inv.next ?_
  split
  · exact h
  · exact h.ite (h.deviceRequest.ite h.upd.writeFlag.endFetch.trapLayer.answerLayer)

theorem keeps_execChrCtxEnable {s : State} (h : s.Inv) {ctx : Nat} {v : Word} : Keeps (execChrCtxEnable ctx v s) :=
  (h.ite (h.placesRequest.upd.ite (h.setReg.upd.foldl (fun _ _ hu => hu.deviceWrite)))).next

theorem keeps_execChrCtxDisable {s : State} (h : s.Inv) {ctx : Nat} {v : Word} : Keeps (execChrCtxDisable ctx v s) := by
  unfold execChrCtxDisable
  dsimp only
  refine State.Inv.next ?_
  split
  · exact h
  · split
    · exact h.setRegBit
    · split
      · exact h.placesRequest.upd
      · exact ((h.foldl (fun _ _ hu => hu.evictLayer)).foldl (fun _ _ hu => hu.writeFlag.endFetch)).upd.setReg

theorem keeps_execChrReset {s : State} (h : s.Inv) {v : Word} : Keeps (execChrReset v s) :=
  (h.ite (h.writeFlag.ite h.deviceRequest.upd)).next

/-! ### Operations of Sys2Proof/Machine/Home -/

theorem State.Inv.snoopHost {s : State} (h : s.Inv) {line : Nat} {data : Bool} : (s.snoopHost line data).Inv :=
  h.ite h.upd

theorem State.Inv.askRoom {s : State} (h : s.Inv) {line : Nat} : (s.askRoom line).Inv := by
  unfold State.askRoom
  split
  · exact h
  · split
    · exact h.snoopHost
    · exact h

theorem State.Inv.homeAsk {s : State} (h : s.Inv) {line : Nat} {own : Bool} : (s.homeAsk line own).Inv := by
  unfold State.homeAsk
  dsimp only
  split
  · exact (h.requestOuter.ite h).askRoom.snoopHost.ite ((h.requestOuter.ite h).askRoom)
  · exact (h.requestOuter.ite h).askRoom.snoopHost.ite ((h.requestOuter.ite h).askRoom)

theorem keeps_execReadShared {s : State} (h : s.Inv) {line node : Nat} : Keeps (execReadShared line node s) := by
  unfold execReadShared
  refine State.Inv.next ?_
  split
  · exact h
  · split
    · exact h
    · split
      · exact h.answerReq.ite h.homeAsk
      · exact (h.answerReq.ite h.homeAsk).ite (h.answerReq.grantLease.ite h.homeAsk)
      · exact h

theorem keeps_execReadOwn {s : State} (h : s.Inv) {line node : Nat} : Keeps (execReadOwn line node s) := by
  unfold execReadOwn
  refine State.Inv.next ?_
  split
  · exact h
  · exact h.ite (h.answerReq.grantOwn.ite h.homeAsk)

theorem keeps_execForwardedRead {s : State} (h : s.Inv) {line node : Nat} : Keeps (execForwardedRead line node s) := by
  unfold execForwardedRead
  refine State.Inv.next ?_
  split
  · exact h
  · exact h.ite (h.forwardPlain.ite (h.forwardRead.answerReq.grantLease.ite h.forwardRead))

theorem keeps_execRecall {s : State} (h : s.Inv) {line : Nat} : Keeps (execRecall line s) :=
  (h.recallLine.ite h).next

theorem keeps_execWriteBack {s : State} (h : s.Inv) {line node : Nat} : Keeps (execWriteBack line node s) :=
  (h.recallLine.ite (h.giveUpOuter.ite h)).next

theorem keeps_execEvictNotice {s : State} (h : s.Inv) {line node : Nat} : Keeps (execEvictNotice line node s) :=
  (h.recallLine.ite (h.dropL2.ite (h.giveUpOuter.ite h))).next

theorem keeps_execLeaseExpiry {s : State} (h : s.Inv) {node line : Nat} : Keeps (execLeaseExpiry node line s) := by
  unfold execLeaseExpiry
  refine State.Inv.next ?_
  split
  · exact h.dropL2.ite h
  · exact h

theorem State.Inv.gatherForHost {s : State} (h : s.Inv) {line : Nat} : (s.gatherForHost line).Inv :=
  h.recallLine.ite h.recallLine.collect.unregister

theorem State.Inv.hostGrant {s : State} (h : s.Inv) {line : Nat} {x : HostShare} : (s.hostGrant line x).Inv := h

theorem State.Inv.supply {s : State} (h : s.Inv) {line : Nat} : (s.supply line).Inv := h

theorem State.Inv.hostWaits {s : State} (h : s.Inv) {line : Nat} {own : Bool} {i : Instr} : (s.hostWaits line own i).Inv :=
  h.request.upd

theorem keeps_execHostMemrd {s : State} (h : s.Inv) {line state : Nat} : Keeps (execHostMemrd line state s) := by
  unfold execHostMemrd
  refine State.Inv.next ?_
  split
  · exact h
  · split
    · exact h.askRoom.hostWaits
    · split
      · exact h.hostWaits.ite h.answerReq.gatherForHost.dirEvict.supply.setDir.hostGrant
      · split
        · exact h.hostWaits
        · exact h.answerReq.gatherForHost.supply.dirEvict.hostGrant.ite h.answerReq.gatherForHost.supply

theorem keeps_execHostMemwr {s : State} (h : s.Inv) {line : Nat} {data : LineData} {state : Nat} :
    Keeps (execHostMemwr line data state s) := by
  unfold execHostMemwr
  dsimp only
  refine State.Inv.next ?_
  split
  · exact h
  · split
    · exact h.hostWaits
    · split
      · exact h.answerReq.gatherForHost.writeAtSlice.setCopyPoison.setDir
      · exact h.answerReq.gatherForHost.writeAtSlice.setCopyPoison

theorem keeps_execBirsp {s : State} (h : s.Inv) {line : Nat} {invalid : Bool} : Keeps (execBirsp line invalid s) := by
  unfold execBirsp
  refine State.Inv.next ?_
  split
  · exact h
  · exact h.upd.setDir.ite h.upd

theorem State.Inv.snoopAnswer {s : State} (h : s.Inv) {line code : Nat} {data : Bool} : (s.snoopAnswer line code data).Inv := h

theorem State.Inv.snoopNodes {s : State} (h : s.Inv) {line : Nat} {inv : Bool} : (s.snoopNodes line inv).Inv :=
  (h.recallLine.ite h.recallLine.collect.unregister).breakResv.ite ((h.forwardPlain.ite h).collect)

theorem keeps_execHostSnpinv {s : State} (h : s.Inv) {line : Nat} : Keeps (execHostSnpinv line s) := by
  unfold execHostSnpinv
  refine (h.ite ?_).next
  split
  · exact h.snoopAnswer
  · exact h.upd.ite (h.snoopNodes.upd.snoopAnswer.ite h.snoopNodes.upd.snoopAnswer)

theorem keeps_execHostSnpdata {s : State} (h : s.Inv) {line : Nat} : Keeps (execHostSnpdata line s) := by
  unfold execHostSnpdata
  refine (h.ite ?_).next
  split
  · exact h.snoopAnswer
  · exact h.snoopNodes.upd.snoopAnswer.ite h.snoopNodes.upd.snoopAnswer

theorem State.Inv.outerFill {s : State} (h : s.Inv) {line : Nat} {data : BitVec 512} {poisoned own : Bool} :
    (s.outerFill line data poisoned own).Inv :=
  h.l2Make.upd.setBaseBit.ite h.l2Make.upd

theorem keeps_execCxlDataResponse {s : State} (h : s.Inv) {line : Nat} {data : BitVec 512} {poisoned : Bool} :
    Keeps (execCxlDataResponse line data poisoned s) := by
  unfold execCxlDataResponse
  refine State.Inv.next ?_
  split
  · split
    · exact h
    · exact h.upd
  · exact h.ite h.outerFill

theorem State.Inv.snoopConflict {s : State} (h : s.Inv) {line : Nat} {invalid : Bool} : (s.snoopConflict line invalid).Inv :=
  h.upd.ite h.upd

theorem keeps_execPoolBisnp {s : State} (h : s.Inv) {line : Nat} {invalid : Bool} : Keeps (execPoolBisnp line invalid s) := by
  unfold execPoolBisnp
  refine (h.upd.ite (h.snoopConflict.ite ?_)).next
  split
  · exact h.upd
  · exact (h.upd.ite h.breakResv.giveUpOuter.upd).ite h.snoopNodes.upd.writeSent.upd

theorem State.Inv.remotePoison {s : State} (h : s.Inv) {line : Nat} {mask : BitVec 64} {poisoned : Bool} :
    (s.remotePoison line mask poisoned).Inv :=
  h.setCopyPoison.ite h

theorem State.Inv.domainServes {s : State} (h : s.Inv) {pkg line : Nat} {kind : RemoteKind} {poisoned : Bool}
    {data : BitVec 512} : (s.domainServes pkg line kind poisoned data).Inv := by
  unfold State.domainServes
  split
  · exact h.supply.upd
  · exact h.writeAtSlice.remotePoison
  · split
    · exact h
    · exact h.upd.ite ((h.ite h.writeAtSlice).upd)

theorem State.Inv.domainAnswers {s : State} (h : s.Inv) {line : Nat} {kind : RemoteKind} {poisoned : Bool}
    {data : BitVec 512} : (s.domainAnswers line kind poisoned data).Inv := by
  unfold State.domainAnswers
  split
  · exact h.outerFill.ite h
  · exact h.upd
  · split
    · exact h
    · exact h.updCore

theorem keeps_execZelasRemoteAccess {s : State} (h : s.Inv) {pkg line : Nat} {kind : RemoteKind} {poisoned : Bool}
    {data : BitVec 512} : Keeps (execZelasRemoteAccess pkg line kind poisoned data s) := by
  unfold execZelasRemoteAccess
  refine State.Inv.next ?_
  split
  · exact (h.domainServes.ite h.request.upd).ite (h.domainServes.ite h.agentRequest.upd)
  · exact h.domainAnswers.ite h

theorem keeps_execZelasInvalidate {s : State} (h : s.Inv) {line : Nat} : Keeps (execZelasInvalidate line s) :=
  (h.ite h.breakResv.upd).next

/-! ### Operations of Sys2Proof/Machine/Links -/

theorem State.Inv.failLines {s : State} (h : s.Inv) {unit : Nat} {p : Nat → Bool} : (s.failLines unit p).Inv :=
  ((h.foldl (fun _ _ hu => hu.logDiscard)).foldl (fun _ _ hu => hu.logError)).upd

theorem State.Inv.failRange {s : State} (h : s.Inv) {i : Nat} : (s.failRange i).Inv :=
  h.ite h.setRegBit.logError.failLines.upd

theorem State.Inv.failPackage {s : State} (h : s.Inv) {pkg : Nat} : (s.failPackage pkg).Inv :=
  h.ite h.upd.logError.failLines

theorem State.Inv.loseZelas {s : State} (h : s.Inv) {port : Nat} : (s.loseZelas port).Inv :=
  h.upd.foldl (fun _ _ hu => hu.setRegN.failPackage.ite hu.setRegN)

theorem State.Inv.cxlDown {s : State} (h : s.Inv) {port : Nat} : (s.cxlDown port).Inv :=
  h.upd.ite (h.upd.foldl (fun _ _ hu => hu.failRange.ite hu))

theorem keeps_execPoolPortDown {s : State} (h : s.Inv) {port : Nat} : Keeps (execPoolPortDown port s) :=
  (h.ite h.cxlDown).next

theorem keeps_execShelfLossReport {s : State} (h : s.Inv) {range : Nat} : Keeps (execShelfLossReport range s) :=
  h.failRange.next

theorem keeps_execPoolRequestTimeout {s : State} (h : s.Inv) {range : Nat} : Keeps (execPoolRequestTimeout range s) :=
  (h.failRange.ite h).next

theorem keeps_execCxpPmctlWrite {s : State} (h : s.Inv) {i : Nat} {v : Word} : Keeps (execCxpPmctlWrite i v s) :=
  (h.ite (h.setReg.ite h.setReg)).next

theorem keeps_execZelasPortLoss {s : State} (h : s.Inv) {port : Nat} : Keeps (execZelasPortLoss port s) :=
  (h.ite h.logError.loseZelas).next

theorem keeps_execLinkTrainingFail {s : State} (h : s.Inv) {port : Nat} : Keeps (execLinkTrainingFail port s) :=
  (h.ite h.logError.cxlDown).next

theorem keeps_execLinkUp {s : State} (h : s.Inv) {port : Nat} : Keeps (execLinkUp port s) :=
  (h.upd.ite (h.upd.ite h)).next

theorem keeps_execCheckFail {s : State} (h : s.Inv) {kind index pa : Nat} : Keeps (execCheckFail kind index pa s) :=
  h.upd.next

theorem State.Inv.loseLine {s : State} (h : s.Inv) {n line : Nat} : (s.loseLine n line).Inv :=
  h.unregister.dropL2.setDir.setPoison.ite h.setCopyPoison

theorem State.Inv.poisonAt {s : State} (h : s.Inv) {n line : Nat} : (s.poisonAt n line).Inv :=
  h.upd.ite h.setCopyPoison

theorem State.Inv.loseL1Word {s : State} (h : s.Inv) {c w : Nat} : (s.loseL1Word c w).Inv := by
  unfold State.loseL1Word
  split
  · exact h
  · exact h.updL1.poisonAt.ite h.updL1

theorem State.Inv.loseOperand {s : State} (h : s.Inv) {c t n : Nat} : (s.loseOperand c t n).Inv := by
  unfold State.loseOperand
  dsimp only
  split
  · exact h
  · exact h.ite h.updTile.takeFreeze

theorem State.Inv.degrade {s : State} (h : s.Inv) {x : Check} : (s.degrade x).Inv := by
  unfold State.degrade
  split
  · exact h.setPoison.upd
  · exact h.loseLine
  · exact h.loseL1Word
  · exact h.updThread
  · exact h.upd
  · exact h.loseOperand
  · exact h.updCore.updCtx
  · exact h.loseZelas
  · exact h.upd
  · exact h

theorem keeps_execCheckRetryResult {s : State} (h : s.Inv) {kind index : Nat} {ok : Bool} :
    Keeps (execCheckRetryResult kind index ok s) := by
  unfold execCheckRetryResult
  refine State.Inv.next ?_
  split
  · exact h
  · exact h.upd.logError.ite h.upd.logError.degrade

theorem keeps_execHbmRefresh {s : State} (h : s.Inv) {stack row : Nat} : Keeps (execHbmRefresh stack row s) :=
  (h.upd.ite h).next

theorem keeps_execStackTemperatureCrossing {s : State} (h : s.Inv) {stack : Nat} {hot : Bool} :
    Keeps (execStackTemperatureCrossing stack hot s) :=
  (h.upd.ite h).next

theorem keeps_execScrubRead {s : State} (h : s.Inv) {line detected : Nat} : Keeps (execScrubRead line detected s) := by
  unfold execScrubRead
  refine (h.ite ?_).next
  split
  · exact h.upd
  · exact h.logError.upd.ite (h.upd.ite h.upd)
  · exact h.setPoison.logError.upd

theorem State.Inv.emptyNode {s : State} (h : s.Inv) {n : Nat} : (s.emptyNode n).Inv := h

theorem keeps_execDrainingNodeReset {s : State} (h : s.Inv) {node : Nat} : Keeps (execDrainingNodeReset node s) := by
  unfold execDrainingNodeReset
  refine State.Inv.next ?_
  split
  · exact h.upd
  · refine (((h.foldl (fun _ _ hu => hu.giveUpOuter)).foldl (fun _ _ hu => hu.collect)).foldl (fun _ _ hu => ?_)).emptyNode
    exact hu.setBaseBit.ite hu

theorem State.Inv.loseOuter {s : State} (h : s.Inv) {node : Nat} : (s.loseOuter node).Inv := h

theorem keeps_execFatalNodeReset {s : State} (h : s.Inv) {node : Nat} {dirty : List Nat} {passFails : Bool} :
    Keeps (execFatalNodeReset node dirty passFails s) := by
  unfold execFatalNodeReset
  refine State.Inv.next ?_
  split
  · exact (h.loseOuter.emptyNode.foldl (fun _ _ hu => hu.setPoison)).logError
  · split
    · exact h.loseOuter.emptyNode.foldl (fun _ _ hu => hu.setPoison)
    · exact (h.loseOuter.emptyNode.foldl (fun _ _ hu => hu.setPoison)).logError

theorem keeps_execFatalFabricDieReset {s : State} (h : s.Inv) {die : Nat} : Keeps (execFatalFabricDieReset die s) := by
  unfold execFatalFabricDieReset
  refine State.Inv.next ?_
  exact (h.upd.foldl (fun _ _ hu => hu.poisonAt)).ite ((h.upd.foldl (fun _ _ hu => hu.poisonAt)).logError)

/-! ### Operations of Sys2Proof/Machine/Mgmt -/

theorem State.Inv.loseView {s : State} (h : s.Inv) {d : Nat} : (s.loseView d).Inv := by
  unfold State.loseView
  split
  · exact h.updDie.setRegBit.upd.dropLeases
  · exact h.updDie.setRegBit.dropLeases.ite h.updDie.setRegBit

theorem keeps_execTimeCompare {s : State} (h : s.Inv) {die : Nat} : Keeps (execTimeCompare die s) := by
  unfold execTimeCompare
  dsimp only
  exact (h.ite (h.choose.updDie.loseView.ite h.choose.updDie)).next

theorem keeps_execClockRestart {s : State} (h : s.Inv) {die : Nat} : Keeps (execClockRestart die s) :=
  (h.loseView.ite h).next

theorem keeps_execTimeResync {s : State} (h : s.Inv) {die : Nat} : Keeps (execTimeResync die s) :=
  (h.ite (h.ite h.updDie)).next

theorem State.Inv.mgmtEvent {s : State} (h : s.Inv) {x : MgmtEvent} : (s.mgmtEvent x).Inv := by
  unfold State.mgmtEvent
  dsimp only
  split
  · exact h.upd
  · split
    · exact h.upd
    · exact h.upd

theorem State.Inv.setClock {s : State} (h : s.Inv) {d mhz : Nat} : (s.setClock d mhz).Inv :=
  h.updDie.mgmtEvent

theorem keeps_execPowerWindow {s : State} (h : s.Inv) {watts : Nat} : Keeps (execPowerWindow watts s) := by
  unfold execPowerWindow
  refine State.Inv.next ?_
  split
  · exact h.upd.foldl (fun _ _ hu => hu.setClock.ite hu)
  · exact ((h.upd.foldl (fun _ _ hu => hu.setClock.ite hu)).ite h.upd).ite h.upd

theorem State.Inv.holdAll {s : State} (h : s.Inv) : s.holdAll.Inv := h

theorem keeps_execRailFault {s : State} (h : s.Inv) {rail : Nat} : Keeps (execRailFault rail s) :=
  h.holdAll.upd.next

theorem State.Inv.packageReset {s : State} : s.packageReset.Inv := State.inv_reset

theorem State.Inv.powerOn {s : State} : s.powerOn.Inv := State.Inv.packageReset.upd

theorem State.Inv.bootUp {s : State} (h : s.Inv) : s.bootUp.Inv :=
  h.upd.ite (h.upd.ite ((h.upd.foldl (fun _ _ hu => hu.updDie)).upd))

theorem keeps_execBoot {s : State} (h : s.Inv) : Keeps (execBoot s) := by
  refine State.Inv.next ?_
  split
  · exact State.Inv.powerOn.bootUp
  · split
    · exact h.bootUp
    · exact h

theorem keeps_execAlarm {s : State} (h : s.Inv) {mask : BitVec 4} : Keeps (execAlarm mask s) := by
  refine State.Inv.next ?_
  dsimp only
  split
  · exact h
  · split
    · exact State.Inv.mgmtEvent (State.Inv.setReg (by split; exacts [h.upd, h])) |>.holdAll
    · exact State.Inv.packageReset.bootUp
    · exact State.Inv.mgmtEvent (State.Inv.setReg (by split; exacts [h.upd, h])) |>.holdAll

theorem State.Inv.mailbox {s : State} (h : s.Inv) {recovery : Bool} {seq : List Byte} {run : State → MailboxReply}
    (hr : (run s).state.Inv) : (s.mailbox recovery seq run).Inv := by
  unfold State.mailbox
  dsimp only
  split
  · exact h
  · split
    · split
      · exact h.upd
      · exact hr.upd
    · split
      · exact h.upd
      · exact h.upd

theorem keeps_execFwchunk {s : State} (h : s.Inv) {seq payload : List Byte} : Keeps (execFwchunk seq payload s) := by
  refine (h.mailbox ?_).next
  dsimp only
  split
  · exact h
  · exact h.upd

theorem keeps_execFwcommit {s : State} (h : s.Inv) {seq x : List Byte} : Keeps (execFwcommit seq x s) := by
  refine (h.mailbox ?_).next
  dsimp only
  split
  · exact h
  · split
    · exact h.upd
    · exact h

theorem keeps_execFwcommitWriteDone {s : State} (h : s.Inv) : Keeps (execFwcommitWriteDone s) := by
  refine State.Inv.next ?_
  split
  · exact h
  · dsimp only
    split
    · exact State.Inv.packageReset.bootUp
    · exact h.upd

theorem keeps_execStatus {s : State} (h : s.Inv) {seq : List Byte} : Keeps (execStatus seq s) :=
  (h.mailbox h).next

theorem keeps_execPwrlimit {s : State} (h : s.Inv) {seq payload : List Byte} : Keeps (execPwrlimit seq payload s) := by
  refine (h.mailbox ?_).next
  dsimp only
  split
  · exact h.upd
  · exact h

theorem keeps_execEvread {s : State} (h : s.Inv) {seq payload : List Byte} : Keeps (execEvread seq payload s) :=
  (h.mailbox h).next

theorem keeps_execEvack {s : State} (h : s.Inv) {seq payload : List Byte} : Keeps (execEvack seq payload s) :=
  (h.mailbox h.upd).next

theorem keeps_execReprov {s : State} (h : s.Inv) {seq x : List Byte} : Keeps (execReprov seq x s) := by
  refine (h.mailbox ?_).next
  dsimp only
  split
  · exact h
  · exact h.upd

theorem keeps_execSpdmRequest {s : State} (h : s.Inv) {payload : List Byte} : Keeps (execSpdmRequest payload s) :=
  (h.ite h.upd).next

/-! ### Operations of Sys2Proof/Machine/Debug -/

theorem keeps_execDbgStop {s : State} (h : s.Inv) {v : Word} : Keeps (execDbgStop v s) := by
  unfold execDbgStop
  refine State.Inv.next ?_
  split
  · exact h.addStop
  · exact h.addStop.ite h
  · exact h.addStop
  · exact h.addStop
  · exact h
  · exact h

theorem keeps_execDbgResume {s : State} (h : s.Inv) : Keeps (execDbgResume s) :=
  h.upd.next

theorem keeps_execDbgSettled {s : State} (h : s.Inv) : Keeps (execDbgSettled s) :=
  (h.putBytes.upd.ite h).next

theorem State.Inv.stepInject {s : State} (h : s.Inv) {c k : Nat} {t : State} (e : s.stepInject c k = some t) : t.Inv := by
  unfold State.stepInject at e
  dsimp only at e
  split at e
  · exact nomatch e
  · split at e
    · split at e
      · exact nomatch e
      · split at e
        · exact Option.some.inj e ▸ h.inject
        · exact nomatch e
    · exact nomatch e

theorem keeps_execDbgStepFiring {s : State} (h : s.Inv) : Keeps (execDbgStepFiring s) := by
  unfold execDbgStepFiring
  dsimp only
  refine State.Inv.next ?_
  split
  · exact h
  · split
    · exact h.upd
    · split
      · exact h.upd.consume.upd
      · split
        · next x u he =>
          have hu : u.Inv := h.upd.stepInject he
          exact hu.upd
        · exact h.upd

theorem keeps_execDbgStepBlock {s : State} (h : s.Inv) : Keeps (execDbgStepBlock s) := by
  unfold execDbgStepBlock
  refine State.Inv.next ?_
  split
  · exact h
  · exact h.upd.ite h.upd

theorem keeps_execDbgAccrd {s : State} (h : s.Inv) : Keeps (execDbgAccrd s) := by
  unfold execDbgAccrd
  refine State.Inv.next ?_
  split
  · exact h
  · exact h.ite h.putWords.upd

theorem keeps_execTraceEnable {s : State} (h : s.Inv) {v : Word} : Keeps (execTraceEnable v s) :=
  h.setReg.setReg.upd.next

theorem State.Inv.writeSpills {s : State} (h : s.Inv) : s.writeSpills.Inv := by
  unfold State.writeSpills
  refine h.foldl (fun _ _ hu => hu.foldl (fun _ _ hu1 => hu1.foldl (fun _ _ hu2 => ?_)))
  exact hu2.ite hu2.putWords.upd.updTile

theorem keeps_execPmcSpheadWrite {s : State} (h : s.Inv) {v : Word} : Keeps (execPmcSpheadWrite v s) :=
  (h.ite h.setReg.upd.writeSpills).next

theorem keeps_execPmcSpillWrite {s : State} (h : s.Inv) {v : Word} : Keeps (execPmcSpillWrite v s) :=
  h.setReg.setReg.upd.writeSpills.next

theorem keeps_execRplCtlWrite {s : State} (h : s.Inv) {v : Word} : Keeps (execRplCtlWrite v s) :=
  (h.setReg.updRpl.ite (h.setReg.ite h.setReg.updRpl)).next

theorem State.Inv.ckptView {s : State} (h : s.Inv) : s.ckptView.Inv :=
  (h.foldl (fun _ _ hu => hu.updRegion)).foldl (fun _ _ hu => hu.updTeam)

theorem State.Inv.takeCkpt {s : State} (h : s.Inv) {due : Tick} : (s.takeCkpt due).Inv := by
  have ht : (s.writeAll s.ckptWrites).Inv := h.writeAll
  refine ⟨ht.1, fun p hp => ?_⟩
  obtain rfl | hp := KMap.eq_or_mem_of_mem_put hp
  · exact ht.1
  · exact h.2 p hp

theorem keeps_execCheckpoint {s : State} (h : s.Inv) : Keeps (execCheckpoint s) := by
  unfold execCheckpoint
  refine State.Inv.next ?_
  split
  · exact h
  · exact h.ite (h.updRpl.ite (h.ite (h.takeCkpt.ite (h.foldl (fun _ _ hu => hu.deviceRequest)))))

theorem State.Inv.logMove {s : State} (h : s.Inv) {m : Move} : (s.logMove m).Inv :=
  h.updRpl.ite h

theorem keeps_execRplStart {s : State} (h : s.Inv) {v : Word} : Keeps (execRplStart v s) := by
  refine State.Inv.next ?_
  split
  · exact h
  · split
    · exact h
    · next he => exact ⟨h.2 _ (KMap.mem_of_look he), h.2⟩

theorem keeps_execReplayEnd {s : State} (h : s.Inv) : Keeps (execReplayEnd s) := by
  refine State.Inv.next ?_
  split
  · exact h
  · split
    · exact h
    · exact h.updRpl

/-! ### Operations of Sys2Proof/Machine/RegWrite -/

theorem keeps_execStgCarveWrite {s : State} (h : s.Inv) {p : Nat} {v : Word} : Keeps (execStgCarveWrite p v s) :=
  (h.ite (h.setRegBit.ite h.setRegN.upd)).next

theorem keeps_execStgCarveDone {s : State} (h : s.Inv) {p : Nat} : Keeps (execStgCarveDone p s) := by
  refine State.Inv.next ?_
  split
  · exact h
  · split
    · exact h
    · dsimp only
      split
      · exact h.l2Shrink
      · exact ⟨Memory.wf_filter h.l2Shrink.1 _, h.l2Shrink.2⟩

theorem keeps_execMmuRootWrite {s : State} (h : s.Inv) {a : Nat} {v : Word} : Keeps (execMmuRootWrite a v s) :=
  h.setReg.next

theorem keeps_execMmuInv {s : State} (h : s.Inv) {v : Word} : Keeps (execMmuInv v s) :=
  (h.setRegBit.ite h.upd).next

theorem State.Inv.invAdvance {s : State} (h : s.Inv) {x : XInv} : (s.invAdvance x).2.Inv := by
  unfold State.invAdvance
  dsimp only
  split
  · exact h
  · split
    · exact h.dropXlat
    · exact h

theorem keeps_execMmuInvComplete {s : State} (h : s.Inv) : Keeps (execMmuInvComplete s) := by
  unfold execMmuInvComplete
  refine State.Inv.next ?_
  split
  · exact h
  · exact h.invAdvance.upd

theorem keeps_execMmuPgmode {s : State} (h : s.Inv) {v : Word} : Keeps (execMmuPgmode v s) :=
  (h.upd.ite h.upd).next

theorem keeps_execPgmodeComplete {s : State} (h : s.Inv) : Keeps (execPgmodeComplete s) := by
  unfold execPgmodeComplete
  dsimp only
  refine State.Inv.next ?_
  split
  · exact h
  · split
    · exact h.invAdvance.upd
    · split
      · exact (h.invAdvance.foldl (fun _ _ hu => hu.recallLine)).upd
      · exact (h.invAdvance.foldl (fun _ _ hu => hu.recallLine)).upd

theorem State.Inv.nextEvent {s : State} (h : s.Inv) {i : Instr} : (s.nextEvent i).Inv := h

theorem State.Inv.writeLqCtl {s : State} (h : s.Inv) {q : Nat} {v : Word} : (s.writeLqCtl q v).Inv := by
  unfold State.writeLqCtl
  split
  · exact h.nextEvent
  · exact h.nextEvent
  · exact h.setRegBit.ite h
  · exact h.setRegBit.ite h.setReg

theorem State.Inv.writeReg {s : State} (h : s.Inv) {n : RegName} {i : Nat} {v : Word} : (s.writeReg n i v).Inv := by
  unfold State.writeReg
  dsimp only
  split
  · exact h.nextEvent
  · exact h.nextEvent
  · exact h.nextEvent
  · exact h.nextEvent
  · exact h.ite h.setReg
  · exact h.ite h.setReg
  · exact h.nextEvent
  · exact h.setReg.ite h
  · exact h.setReg.ite h
  · exact h.nextEvent
  · exact h.nextEvent
  · exact h.ite h.setReg
  · exact h.writeLqCtl
  · exact h.nextEvent
  · split
    · exact h.nextEvent
    · exact h.nextEvent
    · exact h
  · exact h.nextEvent
  · exact h.nextEvent
  · split
    · exact h.nextEvent
    · exact h.nextEvent
    · exact h.setRegBit
  · exact h.nextEvent
  · exact h.nextEvent
  · exact h.ite h.setReg
  · exact h.ite h.setReg
  · split
    · exact h.nextEvent
    · exact h.nextEvent
    · exact h
    · exact h.setReg
  · exact h.setRegBit.ite h.setReg
  · exact h.setRegBit.ite h.setReg
  · exact h.nextEvent
  · exact h.ite h.setReg
  · exact h.ite h.setReg
  · exact h.nextEvent
  · exact h.nextEvent
  · exact h.nextEvent.ite h
  · exact h.ite h.upd.nextEvent
  · exact h.upd.nextEvent
  · exact h.nextEvent.ite h.setReg
  · exact h.setReg.upd.ite h
  · exact h.nextEvent
  · exact h.nextEvent
  · exact h.nextEvent
  · exact h.nextEvent
  · exact h.ite h.setReg
  · split
    · exact h
    · exact h
    · exact h.setReg
    · exact h.setReg

theorem keeps_execRegisterWrite {s : State} (h : s.Inv) {pa size : Nat} {v : Word} : Keeps (execRegisterWrite pa size v s) := by
  unfold execRegisterWrite
  refine State.Inv.next ?_
  split
  · split
    · exact h
    · split
      · exact h
      · exact h.writeReg
  · exact h

/-! ### Operations of Sys2Proof/Machine/Dispatch -/

/-- The last case is that of Instr.recall, whose name Mathlib keeps for a command. -/
theorem keeps_exec {s : State} (h : s.Inv) {i : Instr} : Keeps (Machine.exec i s) := by
  cases i with
  | nop sa sb ta => exact keeps_execNop (x := sa) (x1 := sb) (x2 := ta) h
  | mov => exact keeps_execMov h
  | lit => exact keeps_execLit h
  | sel => exact keeps_execSel h
  | gate => exact keeps_execGate h
  | steer => exact keeps_execSteer h
  | purge => exact keeps_execPurge h
  | pack => exact keeps_execPack h
  | fmts => exact keeps_execFmts h
  | lin => exact keeps_execLin h
  | linx => exact keeps_execLinx h
  | lint => exact keeps_execLint h
  | lout => exact keeps_execLout h
  | loutx => exact keeps_execLoutx h
  | sreg => exact keeps_execSreg h
  | add r w l => exact keeps_execAdd (x := l) h
  | sub r w l => exact keeps_execSub (x := l) h
  | mul r w l => exact keeps_execMul (x := l) h
  | mulh => exact keeps_execMulh h
  | mad r w q => exact keeps_execMad (x := q) h
  | min => exact keeps_execMin h
  | max => exact keeps_execMax h
  | abs => exact keeps_execAbs h
  | and r w l => exact keeps_execAnd (x := l) h
  | or r w l => exact keeps_execOr (x := l) h
  | xor r w l => exact keeps_execXor (x := l) h
  | andn r w l => exact keeps_execAndn (x := l) h
  | shl r w l => exact keeps_execShl (x := l) h
  | shr r w l => exact keeps_execShr (x := l) h
  | sar r w l => exact keeps_execSar (x := l) h
  | rotl r w l => exact keeps_execRotl (x := l) h
  | popc r w signed => exact keeps_execPopc (x := signed) h
  | clz r w signed => exact keeps_execClz (x := signed) h
  | ctz r w signed => exact keeps_execCtz (x := signed) h
  | brev r w signed => exact keeps_execBrev (x := signed) h
  | bfx => exact keeps_execBfx h
  | bfi r w q => exact keeps_execBfi (x := q) h
  | cmp => exact keeps_execCmp h
  | lea r l => exact keeps_execLea (x := l) h
  | adds => exact keeps_execAdds h
  | subs => exact keeps_execSubs h
  | fadd r f c => exact keeps_execFadd (x := f) h
  | fsub r f c => exact keeps_execFsub (x := f) h
  | fmul r f c => exact keeps_execFmul (x := f) h
  | ffma r f q => exact keeps_execFfma (x := f) (x1 := q) h
  | fmin r f => exact keeps_execFmin (x := f) h
  | fmax r f => exact keeps_execFmax (x := f) h
  | fabs r f => exact keeps_execFabs (x := f) h
  | fneg r f => exact keeps_execFneg (x := f) h
  | fcmp r f c => exact keeps_execFcmp (x := f) h
  | fclass r f => exact keeps_execFclass (x := f) h
  | frcp r f c => exact keeps_execFrcp (x := f) h
  | frsq r f c => exact keeps_execFrsq (x := f) h
  | fsqrt r f c => exact keeps_execFsqrt (x := f) h
  | fexp2 r f c => exact keeps_execFexp2 (x := f) h
  | flog2 r f c => exact keeps_execFlog2 (x := f) h
  | fsin r f c => exact keeps_execFsin (x := f) h
  | fcos r f c => exact keeps_execFcos (x := f) h
  | ftanh r f c => exact keeps_execFtanh (x := f) h
  | fscale r f c => exact keeps_execFscale (x := f) h
  | fdot r f c => exact keeps_execFdot (x := f) h
  | fsum r f c => exact keeps_execFsum (x := f) h
  | cvt => exact keeps_execCvt h
  | cvti => exact keeps_execCvti h
  | cvtf => exact keeps_execCvtf h
  | qpack r f type rnd => exact keeps_execQpack (x := f) h
  | qunpk r f n j0 => exact keeps_execQunpk (x := f) h
  | ld => exact keeps_execLd h
  | st => exact keeps_execSt h
  | ldb => exact keeps_execLdb h
  | stb => exact keeps_execStb h
  | ldf => exact keeps_execLdf h
  | stf => exact keeps_execStf h
  | sete => exact keeps_execSete h
  | pref => exact keeps_execPref h
  | atom => exact keeps_execAtom h
  | cas => exact keeps_execCas h
  | ll => exact keeps_execLl h
  | sc => exact keeps_execSc h
  | fence => exact keeps_execFence h
  | clrp => exact keeps_execClrp h
  | copy => exact keeps_execCopy h
  | waitt => exact keeps_execWaitt h
  | lds => exact keeps_execLds h
  | sts => exact keeps_execSts h
  | br => exact keeps_execBr h
  | jmp => exact keeps_execJmp h
  | jmpi => exact keeps_execJmpi h
  | exit => exact keeps_execExit h
  | bar => exact keeps_execBar h
  | bara => exact keeps_execBara h
  | barw => exact keeps_execBarw h
  | yield => exact keeps_execYield h
  | sleep => exact keeps_execSleep h
  | recruit => exact keeps_execRecruit h
  | hjoin => exact keeps_execHjoin h
  | hred r float => exact keeps_execHred (x := float) h
  | hend => exact keeps_execHend h
  | waitly => exact keeps_execWaitly h
  | lyrel => exact keeps_execLyrel h
  | trap sa code => exact keeps_execTrap (x := code) h
  | trprep => exact keeps_execTrprep h
  | trret => exact keeps_execTrret h
  | bkpt sa code => exact keeps_execBkpt (x := code) h
  | mma sa sb mode sub => exact keeps_execMma (x := sa) (x1 := sb) (x2 := mode) (x3 := sub) h
  | mmarm => exact keeps_execMmarm h
  | accrd => exact keeps_execAccrd h
  | accclr => exact keeps_execAccclr h
  | accdr => exact keeps_execAccdr h
  | red => exact keeps_execRed h
  | scan => exact keeps_execScan h
  | bkt => exact keeps_execBkt h
  | kmerge => exact keeps_execKmerge h
  | ksel => exact keeps_execKsel h
  | cfginv => exact keeps_execCfginv h
  | gtime r valid => exact keeps_execGtime (x := valid) h
  | pmark => exact keeps_execPmark h
  | eosi => exact keeps_execEosi h
  | idiv r md l => exact keeps_execIdiv (x := md) (x1 := l) h
  | irem r md l => exact keeps_execIrem (x := md) (x1 := l) h
  | idivn r md l => exact keeps_execIdivn (x := md) (x1 := l) h
  | iremn r md l => exact keeps_execIremn (x := md) (x1 := l) h
  | unassignedOpcode op r md l => exact keeps_execUnassignedOpcode (x := op) (x1 := md) (x2 := l) h
  | emulationOpcode op r md l => exact keeps_execEmulationOpcode (x := op) (x1 := md) (x2 := l) h
  | tokenArrive => exact keeps_execTokenArrive h
  | tileEosSwap => exact keeps_execTileEosSwap h
  | chooseBlock => exact keeps_execChooseBlock h
  | injectThread => exact keeps_execInjectThread h
  | batchEndEos => exact keeps_execBatchEndEos h
  | shadowPlaneLoad => exact keeps_execShadowPlaneLoad h
  | spinDue => exact keeps_execSpinDue h
  | exitAtDealer => exact keeps_execExitAtDealer h
  | barrierWatchdog => exact keeps_execBarrierWatchdog h
  | memoryReply => exact keeps_execMemoryReply h
  | translationWalk => exact keeps_execTranslationWalk h
  | faultToken => exact keeps_execFaultToken h
  | handlerSlotAllocate => exact keeps_execHandlerSlotAllocate h
  | pgdoneMapped => exact keeps_execPgdoneMapped h
  | pgdoneDenied => exact keeps_execPgdoneDenied h
  | resolveRaise => exact keeps_execResolveRaise h
  | resolveRetry => exact keeps_execResolveRetry h
  | resolveRetryat => exact keeps_execResolveRetryat h
  | resolveBranch => exact keeps_execResolveBranch h
  | resolveResume => exact keeps_execResolveResume h
  | resolveExit => exact keeps_execResolveExit h
  | fstHimgWrite => exact keeps_execFstHimgWrite h
  | parkLimitExpiry => exact keeps_execParkLimitExpiry h
  | dlrParklimWrite => exact keeps_execDlrParklimWrite h
  | swapOut => exact keeps_execSwapOut h
  | swapWithdraw => exact keeps_execSwapWithdraw h
  | teamReadmit => exact keeps_execTeamReadmit h
  | readmitEvent => exact keeps_execReadmitEvent h
  | dlrPreempt => exact keeps_execDlrPreempt h
  | preemptQuiesce => exact keeps_execPreemptQuiesce h
  | preemptBoundExpiry => exact keeps_execPreemptBoundExpiry h
  | dlrRestore => exact keeps_execDlrRestore h
  | lqDoorbell => exact keeps_execLqDoorbell h
  | packetRead => exact keeps_execPacketRead h
  | imageLoad => exact keeps_execImageLoad h
  | imageReload => exact keeps_execImageReload h
  | waitSignalExamine => exact keeps_execWaitSignalExamine h
  | packetBegin => exact keeps_execPacketBegin h
  | teamAdmit => exact keeps_execTeamAdmit h
  | stealRequest => exact keeps_execStealRequest h
  | stealTransfer => exact keeps_execStealTransfer h
  | gridComplete => exact keeps_execGridComplete h
  | lqTearDrain => exact keeps_execLqTearDrain h
  | lqTearAbort => exact keeps_execLqTearAbort h
  | teardownComplete => exact keeps_execTeardownComplete h
  | lqEnable => exact keeps_execLqEnable h
  | lqDisable => exact keeps_execLqDisable h
  | dstModeWrite => exact keeps_execDstModeWrite h
  | dstSemWrite => exact keeps_execDstSemWrite h
  | rowStep => exact keeps_execRowStep h
  | copyComplete => exact keeps_execCopyComplete h
  | ldfTimeout => exact keeps_execLdfTimeout h
  | sleepWake => exact keeps_execSleepWake h
  | waittWake => exact keeps_execWaittWake h
  | reservationAgeExpiry => exact keeps_execReservationAgeExpiry h
  | holdExpiry => exact keeps_execHoldExpiry h
  | join => exact keeps_execJoin h
  | chrysalisFetchStart => exact keeps_execChrysalisFetchStart h
  | fetchComplete => exact keeps_execFetchComplete h
  | fetchFail => exact keeps_execFetchFail h
  | chrCtxEnable => exact keeps_execChrCtxEnable h
  | chrCtxDisable => exact keeps_execChrCtxDisable h
  | chrReset => exact keeps_execChrReset h
  | readShared => exact keeps_execReadShared h
  | readOwn => exact keeps_execReadOwn h
  | forwardedRead => exact keeps_execForwardedRead h
  | writeBack => exact keeps_execWriteBack h
  | evictNotice => exact keeps_execEvictNotice h
  | leaseExpiry => exact keeps_execLeaseExpiry h
  | hostMemrd => exact keeps_execHostMemrd h
  | hostMemwr => exact keeps_execHostMemwr h
  | birsp => exact keeps_execBirsp h
  | hostSnpinv => exact keeps_execHostSnpinv h
  | hostSnpdata => exact keeps_execHostSnpdata h
  | cxlDataResponse => exact keeps_execCxlDataResponse h
  | poolBisnp => exact keeps_execPoolBisnp h
  | zelasRemoteAccess => exact keeps_execZelasRemoteAccess h
  | zelasInvalidate => exact keeps_execZelasInvalidate h
  | poolPortDown => exact keeps_execPoolPortDown h
  | shelfLossReport => exact keeps_execShelfLossReport h
  | poolRequestTimeout => exact keeps_execPoolRequestTimeout h
  | cxpPmctlWrite => exact keeps_execCxpPmctlWrite h
  | zelasPortLoss => exact keeps_execZelasPortLoss h
  | linkTrainingFail => exact keeps_execLinkTrainingFail h
  | checkFail => exact keeps_execCheckFail h
  | checkRetryResult => exact keeps_execCheckRetryResult h
  | hbmRefresh => exact keeps_execHbmRefresh h
  | scrubRead => exact keeps_execScrubRead h
  | drainingNodeReset => exact keeps_execDrainingNodeReset h
  | fatalNodeReset => exact keeps_execFatalNodeReset h
  | fatalFabricDieReset => exact keeps_execFatalFabricDieReset h
  | timeCompare => exact keeps_execTimeCompare h
  | clockRestart => exact keeps_execClockRestart h
  | timeResync => exact keeps_execTimeResync h
  | powerWindow => exact keeps_execPowerWindow h
  | railFault => exact keeps_execRailFault h
  | alarm => exact keeps_execAlarm h
  | fwchunk => exact keeps_execFwchunk h
  | fwcommit seq payload => exact keeps_execFwcommit (x := payload) h
  | status => exact keeps_execStatus h
  | pwrlimit => exact keeps_execPwrlimit h
  | evread => exact keeps_execEvread h
  | evack => exact keeps_execEvack h
  | reprov seq payload => exact keeps_execReprov (x := payload) h
  | spdmRequest => exact keeps_execSpdmRequest h
  | stgCarveWrite => exact keeps_execStgCarveWrite h
  | stgCarveDone => exact keeps_execStgCarveDone h
  | mmuRootWrite => exact keeps_execMmuRootWrite h
  | mmuInv => exact keeps_execMmuInv h
  | mmuPgmode => exact keeps_execMmuPgmode h
  | dbgStop => exact keeps_execDbgStop h
  | traceEnable => exact keeps_execTraceEnable h
  | pmcSpheadWrite => exact keeps_execPmcSpheadWrite h
  | pmcSpillWrite => exact keeps_execPmcSpillWrite h
  | rplCtlWrite => exact keeps_execRplCtlWrite h
  | rplStart => exact keeps_execRplStart h
  | registerWrite pa size v => exact keeps_execRegisterWrite (pa := pa) (size := size) (v := v) h
  | linkUp => exact keeps_execLinkUp h
  | stackTemperatureCrossing => exact keeps_execStackTemperatureCrossing h
  | systemQueueDeliver => exact keeps_execSystemQueueDeliver h
  | boot => exact keeps_execBoot h
  | fwcommitWriteDone => exact keeps_execFwcommitWriteDone h
  | mmuInvComplete => exact keeps_execMmuInvComplete h
  | pgmodeComplete => exact keeps_execPgmodeComplete h
  | dbgSettled => exact keeps_execDbgSettled h
  | checkpoint => exact keeps_execCheckpoint h
  | replayEnd => exact keeps_execReplayEnd h
  | dbgResume => exact keeps_execDbgResume h
  | dbgStepFiring => exact keeps_execDbgStepFiring h
  | dbgStepBlock => exact keeps_execDbgStepBlock h
  | cfginvComplete => exact keeps_execCfginvComplete h
  | dbgAccrd => exact keeps_execDbgAccrd h
  | _ => exact keeps_execRecall h

/-! ### Operations of Sys2Proof/Machine/Sched -/

theorem State.Inv.passTime {s : State} (h : s.Inv) : s.passTime.Inv := h

theorem State.Inv.drainTile {s : State} (h : s.Inv) {c t : Nat} : (s.drainTile c t).Inv := by
  unfold State.drainTile
  dsimp only
  split
  · exact h
  · refine State.Inv.updTile (List.foldlRecOn (motive := fun (a : List PendingEmit × List Nat × State) => a.2.2.Inv) _ _
      h.updTile fun a ha e _ => ?_)
    split
    · exact ha
    · split
      · split
        · exact ha.deliver.noteSent
        · exact ha
      · split
        · exact ha.deliver.noteSent
        · exact ha

theorem State.Inv.drainCore {s : State} (h : s.Inv) {c : Nat} : (s.drainCore c).Inv :=
  h.foldl (fun _ _ hu => hu.drainTile)

theorem State.Inv.askAgain {s : State} (h : s.Inv) {c : Nat} : (s.askAgain c).Inv := by
  unfold State.askAgain
  refine h.foldl (fun _ _ hu => hu.ite ?_)
  split
  · exact hu.requestBytes
  · exact hu

theorem State.Inv.pushHeld {s : State} (h : s.Inv) : s.pushHeld.Inv :=
  h.flushHeld.foldl (fun _ _ hu => hu.kindRequest)

theorem State.Inv.countBarriers {s : State} (h : s.Inv) : s.countBarriers.Inv :=
  h.foldl (fun _ _ hu => hu.foldl (fun _ _ hu1 => hu1.updBarrier.ite hu1))

theorem State.Inv.passReference {s : State} (h : s.Inv) : s.passReference.Inv := h

theorem State.Inv.quantum {s : State} (h : s.Inv) : s.quantum.Inv := by
  unfold State.quantum
  split
  · exact h.passReference
  · refine State.Inv.upd ?_
    split
    · exact (h.passTime.foldl (fun _ _ hu => hu.drainCore.askAgain)).pushHeld.drainTrace.countBarriers
    · exact (h.passTime.foldl (fun _ _ hu => hu.drainCore.askAgain)).pushHeld.drainTrace

theorem State.Inv.runMove {s : State} (h : s.Inv) {m : Move} : Keeps (s.runMove m) := by
  cases m with
  | quantum => exact h.quantum.next
  | event i => exact keeps_exec h
  | fire c t handler slot =>
    unfold State.runMove
    dsimp only
    split
    · exact Keeps.refused _
    · split
      · exact h.next
      · next he => exact keeps_exec (h.prepareFiring he)

theorem State.Inv.advance {s : State} (h : s.Inv) : s.advance.Inv :=
  h.upd.ite h.logMove.quantum.upd

theorem State.Inv.replayStep {s : State} (h : s.Inv) : Keeps s.replayStep := by
  unfold State.replayStep
  split
  · exact keeps_exec h
  · next m rest _ =>
    have hm : Keeps (({ s with rpl := { s.rpl with moves := rest } } : State).runMove m) := h.updRpl.runMove
    split
    · next t he => exact (hm t he).upd.next
    · exact hm

theorem State.Inv.takeStep {s : State} (h : s.Inv) : Keeps s.takeStep := by
  unfold State.takeStep
  split
  · exact h.replayStep
  · split
    · exact h.advance.next
    · dsimp only
      split
      · exact h.upd.logMove.next
      · exact h.upd.logMove.runMove

/-- Settles O5: each operation of the model keeps the canonical memories, and step is one of them. -/
theorem invStep : Obligations.InvStep := by
  unfold Obligations.InvStep
  intro s t h e
  exact h.takeStep t e

end Sys2Proof.Machine
